-- ==== Sys2Proof/Word.lean ====
section
/-! DEFINITION. The machine's words. -/

namespace Sys2Proof

/-- A register's 32 bits (R83). -/
abbrev Word := BitVec 32
/-- A register pair's 64 bits; a virtual address (R22, R386). -/
abbrev DWord := BitVec 64
/-- A byte. -/
abbrev Byte := BitVec 8

end Sys2Proof
end

