-- ==== Sys2Proof/Config.lean ====
section
/-! DEFINITION. What an implementation fixes, and the free values: values and choices the spec leaves open. A free value is a
constant without a body, so no proof can see what it is; it is applied to State.draw (a counter) or to what it depends on. -/

namespace Sys2Proof.Config

/-- Cores of a package (R7, R9). -/
def cores : Nat := 640
/-- Cores of a die (R5, R7). -/
def coresPerDie : Nat := 160
/-- Dies of a package (R5). -/
def dies : Nat := 4

/-- FREE VALUE (log entry 7): the detail of an ILLEGAL whose detail no rule states, by the instruction's word. -/
opaque illegalDetail : Nat → DWord
/-- FREE VALUE (log entry 7): the detail of a RANGE that a fetch raises (R22), by the PC. -/
opaque fetchDetail : Nat → DWord
/-- FREE VALUE (log entry 7): which of several offending fields of R24 the detail names. -/
opaque detailPick : Nat → Nat
/-- FREE VALUE (log entry 6): a choice of the device between two allowed outcomes, drawn with the counter State.draw. -/
opaque choice : Nat → Bool
/-- FREE VALUE (log entry 6): a choice of the device among several allowed outcomes, by State.draw. -/
opaque pick : Nat → Nat
/-- FREE VALUE (log entry 6): a byte whose value the spec leaves open, by State.draw and position. -/
opaque freeByte : Nat → Nat → Byte
/-- FREE VALUE (log entry 15): the sum a mismatched network check works with, which is not formed (R354), by State.draw. -/
opaque mismatchSum : Nat → DWord
/-- FREE VALUE (log entry 16): silu of −∞ as an FP64 code, and as an FP32 code, whose quotient R294 leaves ∞ ÷ ∞. -/
opaque siluMinusInf : Nat → DWord
/-- FREE VALUE (log entry 8): a word of a register or port whose value the spec leaves to the part, by its window offset. -/
opaque identityWord : Nat → Word
/-- FREE VALUE (log entry 9): how far a die's %time lies from die 0's, in ns; its use is cut to at most 8 (R11). -/
opaque timeSkew : Nat → Nat
/-- FREE VALUE (log entry 10): the check word of a context record (R342), by its bytes. -/
opaque checkWord : List Byte → DWord
/-- FREE VALUE (log entry 10): a SHAKE256 digest of 256 bits (R429, R438, R441), by the bytes it covers. -/
opaque digest : List Byte → List Byte
/-- FREE VALUE (log entry 10): an XMSS signature (R439, R440), by signing index and the bytes it covers. -/
opaque signature : Nat → List Byte → List Byte
/-- FREE VALUE (log entry 11): a reading of a monitor (R434), by die, monitor number and refresh. -/
opaque reading : Nat → Nat → Nat → BitVec 16
/-- FREE VALUE (log entry 11): module power in watts averaged over 1 ms (R433), by the clock; its use is cut to at most 1,800 (R1). -/
opaque modulePower : Nat → Nat
/-- FREE VALUE (log entry 11): the nominal value of a voltage monitor in mV (R435), which no rule gives. -/
opaque nominalVoltage : Nat → Nat
/-- FREE VALUE (log entry 8): the Headstock image that a die has loaded, and whether the boot ROM accepts it (R437, R439). -/
opaque image : List Byte
opaque imageSound : Nat → Bool
/-- FREE VALUE (log entry 8): the package's number as the dowel topology assigns it (R437), used modulo 512. -/
opaque topology : Nat
/-- FREE VALUE (log entry 12): whether a page compresses losslessly into 32 KiB (R389), by its bytes. -/
opaque compresses : List Byte → Bool
/-- FREE VALUE (log entry 13): a byte of another package's memory as it reads there (R162), by package, address and draw. -/
opaque peerByte : Nat → Nat → Nat → Byte

/-- FREE VALUE (log entry 103): the ways of an L1 set as a power of two, cut to the 4,096 lines of its 256 KiB (R9). -/
opaque l1Ways : Nat
/-- FREE VALUE (log entry 103): the set that a line maps to in an L1, and in its L2 slice, cut to the sets that their sizes give. -/
opaque l1Set : Nat → Nat
opaque l2Set : Nat → Nat
/-- FREE VALUE (log entry 104): the back-off base that the Headstock programs on a die (R156), cut to 4 to 4,096. -/
opaque backoffBase : Nat → Nat

/-- FREE VALUE (log entry 98): the Headstock's choice among several allowed places in deterministic mode (R395, R424): a function of what
it chooses for and of the places, hence of the partition's state alone. -/
opaque detPick : List Nat → Nat
/-- FREE VALUE (log entry 18): the die of a queue slot (R372, R402), used modulo 4. -/
opaque queueDie : Nat → Nat

end Sys2Proof.Config
end

