-- ==== Sys2Proof/Syntax.lean ====
section
/-! DEFINITION. The instructions of the DXL-640 and the events of its other agents: one constructor for each row of the
opcode table. The fields of an encoded row are the bit fields of its encoding (R21 to R48), the most significant first; the
operands of an event name the record it acts on or carry the data an outside party supplies. -/

namespace Sys2Proof

/-- One step of the part: an encoded instruction (the first 226 constructors) or an event of another agent. -/
inductive Instr where
  /-- MOV_H, R27. Form-H move of a register or sign-extended imm5 into d. -/
  | movH (i : BitVec 1) (b d : BitVec 5)
  /-- ADD_H, R27. Form-H add of b to d modulo 2^32. -/
  | addH (i : BitVec 1) (b d : BitVec 5)
  /-- SUB_H, R27. Form-H subtract of b from d modulo 2^32. -/
  | subH (i : BitVec 1) (b d : BitVec 5)
  /-- MUL_H, R27. Form-H low 32 bits of d times b. -/
  | mulH (i : BitVec 1) (b d : BitVec 5)
  /-- AND_H, R27. Form-H bitwise and of d and b. -/
  | andH (i : BitVec 1) (b d : BitVec 5)
  /-- OR_H, R27. Form-H bitwise or of d and b. -/
  | orH (i : BitVec 1) (b d : BitVec 5)
  /-- XOR_H, R27. Form-H bitwise xor of d and b. -/
  | xorH (i : BitVec 1) (b d : BitVec 5)
  /-- SHL_H, R27. Form-H left shift of d by b[4:0]. -/
  | shlH (i : BitVec 1) (b d : BitVec 5)
  /-- SHR_H, R27. Form-H logical right shift of d by b[4:0]. -/
  | shrH (i : BitVec 1) (b d : BitVec 5)
  /-- SAR_H, R27. Form-H arithmetic right shift of d by b[4:0]. -/
  | sarH (i : BitVec 1) (b d : BitVec 5)
  /-- MIN_H, R27. Form-H signed minimum of d and b. -/
  | minH (i : BitVec 1) (b d : BitVec 5)
  /-- MAX_H, R27. Form-H signed maximum of d and b. -/
  | maxH (i : BitVec 1) (b d : BitVec 5)
  /-- FADD_H, R27. Form-H FP32 add of b to d. -/
  | faddH (i : BitVec 1) (b d : BitVec 5)
  /-- FMUL_H, R27. Form-H FP32 multiply of d by b. -/
  | fmulH (i : BitVec 1) (b d : BitVec 5)
  /-- FMIN_H, R27. Form-H FP32 minimum of d and b. -/
  | fminH (i : BitVec 1) (b d : BitVec 5)
  /-- FMAX_H, R27. Form-H FP32 maximum of d and b. -/
  | fmaxH (i : BitVec 1) (b d : BitVec 5)
  /-- ADD, R102. d := a + b modulo 2^32. -/
  | add (x y : BitVec 1) (b a d : BitVec 7)
  /-- SUB, R102. d := a - b modulo 2^32. -/
  | sub (x y : BitVec 1) (b a d : BitVec 7)
  /-- AND, R102. d := a and b. -/
  | and (x y : BitVec 1) (b a d : BitVec 7)
  /-- OR, R102. d := a or b. -/
  | or (x y : BitVec 1) (b a d : BitVec 7)
  /-- XOR, R102. d := a xor b. -/
  | xor (x y : BitVec 1) (b a d : BitVec 7)
  /-- ANDN, R102. d := a and not b. -/
  | andn (x y : BitVec 1) (b a d : BitVec 7)
  /-- ADD_D, R102. Pair add modulo 2^64. -/
  | addD (x y : BitVec 1) (b a d : BitVec 7)
  /-- SUB_D, R102. Pair subtract modulo 2^64. -/
  | subD (x y : BitVec 1) (b a d : BitVec 7)
  /-- SHL, R103. Left shift by b[4:0]. -/
  | shl (x y : BitVec 1) (b a d : BitVec 7)
  /-- SHR, R103. Logical right shift by b[4:0]. -/
  | shr (x y : BitVec 1) (b a d : BitVec 7)
  /-- SAR, R103. Arithmetic right shift by b[4:0]. -/
  | sar (x y : BitVec 1) (b a d : BitVec 7)
  /-- ROL, R103. Rotate left by b[4:0]. -/
  | rol (x y : BitVec 1) (b a d : BitVec 7)
  /-- ROR, R103. Rotate right by b[4:0]. -/
  | ror (x y : BitVec 1) (b a d : BitVec 7)
  /-- BFXI, R103. Extract a sign-extended bit field. -/
  | bfxi (x y : BitVec 1) (b a d : BitVec 7)
  /-- BFXZ, R103. Extract a zero-extended bit field. -/
  | bfxz (x y : BitVec 1) (b a d : BitVec 7)
  /-- BFI, R103. Insert a bit field of a into d. -/
  | bfi (x y : BitVec 1) (b a d : BitVec 7)
  /-- MIN_I32, R104. Signed minimum. -/
  | minI32 (x y : BitVec 1) (b a d : BitVec 7)
  /-- MAX_I32, R104. Signed maximum. -/
  | maxI32 (x y : BitVec 1) (b a d : BitVec 7)
  /-- MIN_Z32, R104. Unsigned minimum. -/
  | minZ32 (x y : BitVec 1) (b a d : BitVec 7)
  /-- MAX_Z32, R104. Unsigned maximum. -/
  | maxZ32 (x y : BitVec 1) (b a d : BitVec 7)
  /-- ADDMIN, R104. d := min(d, saturated a + b). -/
  | addmin (x y : BitVec 1) (b a d : BitVec 7)
  /-- ADDMAX, R104. d := max(d, saturated a + b). -/
  | addmax (x y : BitVec 1) (b a d : BitVec 7)
  /-- ABSD, R104. Absolute difference of signed a and b. -/
  | absd (x y : BitVec 1) (b a d : BitVec 7)
  /-- CLAMP, R104. Clamp d between a and b. -/
  | clamp (x y : BitVec 1) (b a d : BitVec 7)
  /-- MULLO, R105. Low 32 bits of a times b. -/
  | mullo (x y : BitVec 1) (b a d : BitVec 7)
  /-- MULHI_I32, R105. High 32 bits of the signed product. -/
  | mulhiI32 (x y : BitVec 1) (b a d : BitVec 7)
  /-- MULHI_Z32, R105. High 32 bits of the unsigned product. -/
  | mulhiZ32 (x y : BitVec 1) (b a d : BitVec 7)
  /-- MADLO, R105. d := d + a times b modulo 2^32. -/
  | madlo (x y : BitVec 1) (b a d : BitVec 7)
  /-- DIV_I32, R105. Signed division truncated toward zero. -/
  | divI32 (x y : BitVec 1) (b a d : BitVec 7)
  /-- DIV_Z32, R105. Unsigned division. -/
  | divZ32 (x y : BitVec 1) (b a d : BitVec 7)
  /-- REM_I32, R105. Signed remainder. -/
  | remI32 (x y : BitVec 1) (b a d : BitVec 7)
  /-- REM_Z32, R105. Unsigned remainder. -/
  | remZ32 (x y : BitVec 1) (b a d : BitVec 7)
  /-- POPC, R106. Count set bits of a. -/
  | popc (y : BitVec 1) (a d : BitVec 7)
  /-- CLZ, R106. Count leading zeros of a. -/
  | clz (y : BitVec 1) (a d : BitVec 7)
  /-- CTZ, R106. Count trailing zeros of a. -/
  | ctz (y : BitVec 1) (a d : BitVec 7)
  /-- BREV, R106. Reverse the bits of a. -/
  | brev (y : BitVec 1) (a d : BitVec 7)
  /-- PFXP, R106. Popcount of a below bit b. -/
  | pfxp (x y : BitVec 1) (b a d : BitVec 7)
  /-- PERM, R106. Permute bytes of a by selector nibbles in b. -/
  | perm (x y : BitVec 1) (b a d : BitVec 7)
  /-- FIND, R106. Index of the set bit of a with b set bits below it. -/
  | find (x y : BitVec 1) (b a d : BitVec 7)
  /-- ADDI, R107. d := a + immediate modulo 2^32. -/
  | addi (i : BitVec 12) (a d : BitVec 7)
  /-- ANDI, R107. And with sign-extended imm9. -/
  | andi (i : BitVec 9) (a d : BitVec 7)
  /-- ORI, R107. Or with sign-extended imm9. -/
  | ori (i : BitVec 9) (a d : BitVec 7)
  /-- XORI, R107. Xor with sign-extended imm9. -/
  | xori (i : BitVec 9) (a d : BitVec 7)
  /-- SHLI, R107. Left shift by an immediate count. -/
  | shli (i : BitVec 5) (a d : BitVec 7)
  /-- SHRI, R107. Logical right shift by an immediate count. -/
  | shri (i : BitVec 5) (a d : BitVec 7)
  /-- SARI, R107. Arithmetic right shift by an immediate count. -/
  | sari (i : BitVec 5) (a d : BitVec 7)
  /-- ROLI, R107. Rotate left by an immediate count. -/
  | roli (i : BitVec 5) (a d : BitVec 7)
  /-- MOVI, R107. d := sign-extended imm19. -/
  | movi (i : BitVec 19) (d : BitVec 7)
  /-- CMP, R108. Compare two registers into a predicate, optionally combining. -/
  | cmp (x y : BitVec 1) (c : BitVec 2) (b a : BitVec 7) (k : BitVec 4) (p : BitVec 3)
  /-- CMPI, R108. Compare a register with imm7 into a predicate. -/
  | cmpi (y : BitVec 1) (c : BitVec 2) (i a : BitVec 7) (k : BitVec 4) (p : BitVec 3)
  /-- SEL, R111. d := P[N] ? a : b. -/
  | sel (x y : BitVec 1) (q : BitVec 3) (b a d : BitVec 7)
  /-- FADD, R129. FP32 add under rm. -/
  | fadd (x y : BitVec 1) (b a d : BitVec 7)
  /-- FSUB, R129. FP32 subtract under rm. -/
  | fsub (x y : BitVec 1) (b a d : BitVec 7)
  /-- FMUL, R129. FP32 multiply under rm. -/
  | fmul (x y : BitVec 1) (b a d : BitVec 7)
  /-- FMIN, R129. FP32 minimum by the min/max rule. -/
  | fmin (x y : BitVec 1) (b a d : BitVec 7)
  /-- FMAX, R129. FP32 maximum by the min/max rule. -/
  | fmax (x y : BitVec 1) (b a d : BitVec 7)
  /-- FABS, R129. Clear the sign bit. -/
  | fabs (y : BitVec 1) (a d : BitVec 7)
  /-- FNEG, R129. Invert the sign bit. -/
  | fneg (y : BitVec 1) (a d : BitVec 7)
  /-- FCPYS, R129. Copy a with the sign of b. -/
  | fcpys (x y : BitVec 1) (b a d : BitVec 7)
  /-- FFMA, R130. Fused FP32 multiply-add rounded once. -/
  | ffma (c : BitVec 5) (b a d : BitVec 7)
  /-- FMA2, R130. Fused multiply-add on two f16 or bf16 elements. -/
  | fma2 (t : BitVec 1) (c : BitVec 4) (b a d : BitVec 7)
  /-- DFMA, R130. Fused f64 multiply-add on pairs. -/
  | dfma (c : BitVec 5) (b a d : BitVec 7)
  /-- DUADD_F16, R131. Add two f16 element pairs. -/
  | duaddF16 (x y : BitVec 1) (b a d : BitVec 7)
  /-- DUADD_BF16, R131. Add two bf16 element pairs. -/
  | duaddBf16 (x y : BitVec 1) (b a d : BitVec 7)
  /-- DUMUL_F16, R131. Multiply two f16 element pairs. -/
  | dumulF16 (x y : BitVec 1) (b a d : BitVec 7)
  /-- DUMUL_BF16, R131. Multiply two bf16 element pairs. -/
  | dumulBf16 (x y : BitVec 1) (b a d : BitVec 7)
  /-- DUMIN_F16, R131. Elementwise f16 minimum. -/
  | duminF16 (x y : BitVec 1) (b a d : BitVec 7)
  /-- DUMIN_BF16, R131. Elementwise bf16 minimum. -/
  | duminBf16 (x y : BitVec 1) (b a d : BitVec 7)
  /-- DUMAX_F16, R131. Elementwise f16 maximum. -/
  | dumaxF16 (x y : BitVec 1) (b a d : BitVec 7)
  /-- DUMAX_BF16, R131. Elementwise bf16 maximum. -/
  | dumaxBf16 (x y : BitVec 1) (b a d : BitVec 7)
  /-- DADD, R132. f64 add on pairs. -/
  | dadd (x y : BitVec 1) (b a d : BitVec 7)
  /-- DSUB, R132. f64 subtract on pairs. -/
  | dsub (x y : BitVec 1) (b a d : BitVec 7)
  /-- DMUL, R132. f64 multiply on pairs. -/
  | dmul (x y : BitVec 1) (b a d : BitVec 7)
  /-- DMIN, R132. f64 minimum on pairs. -/
  | dmin (x y : BitVec 1) (b a d : BitVec 7)
  /-- DMAX, R132. f64 maximum on pairs. -/
  | dmax (x y : BitVec 1) (b a d : BitVec 7)
  /-- DDIV, R132. Correctly rounded f64 division. -/
  | ddiv (x y : BitVec 1) (b a d : BitVec 7)
  /-- DSQRT, R132. Correctly rounded f64 square root. -/
  | dsqrt (y : BitVec 1) (a d : BitVec 7)
  /-- FRCP, R133. Correctly rounded FP32 reciprocal. -/
  | frcp (y : BitVec 1) (a d : BitVec 7)
  /-- FRSQ, R133. Correctly rounded reciprocal square root. -/
  | frsq (y : BitVec 1) (a d : BitVec 7)
  /-- FSQRT, R133. Correctly rounded FP32 square root. -/
  | fsqrt (y : BitVec 1) (a d : BitVec 7)
  /-- FDIV, R133. Correctly rounded FP32 division. -/
  | fdiv (x y : BitVec 1) (b a d : BitVec 7)
  /-- FEXP2, R133. Correctly rounded 2^a. -/
  | fexp2 (y : BitVec 1) (a d : BitVec 7)
  /-- FLOG2, R133. Correctly rounded log2 a. -/
  | flog2 (y : BitVec 1) (a d : BitVec 7)
  /-- FSINPI, R133. Correctly rounded sin(pi a). -/
  | fsinpi (y : BitVec 1) (a d : BitVec 7)
  /-- FCOSPI, R133. Correctly rounded cos(pi a). -/
  | fcospi (y : BitVec 1) (a d : BitVec 7)
  /-- CVT, R136. Convert one value between types with explicit rounding and saturation. -/
  | cvt (s : BitVec 1) (r : BitVec 3) (t u : BitVec 4) (a d : BitVec 7)
  /-- CVTP, R137. Pack n FP32 sources into a narrow type with plain RNE. -/
  | cvtp (s : BitVec 1) (u : BitVec 4) (a d : BitVec 7)
  /-- CVTP_EF, R128. Pack n FP32 sources with error-feedback rounding through a residue register. -/
  | cvtpEf (s : BitVec 1) (u : BitVec 4) (e : BitVec 3) (a d : BitVec 7)
  /-- DOT4_I8, R138. Accumulate a dot product of four i8 elements. -/
  | dot4I8 (x y : BitVec 1) (b a d : BitVec 7)
  /-- DOT4_Z8, R138. Accumulate a dot product of four z8 elements. -/
  | dot4Z8 (x y : BitVec 1) (b a d : BitVec 7)
  /-- DOT8_I4, R138. Accumulate a dot product of eight i4 elements. -/
  | dot8I4 (x y : BitVec 1) (b a d : BitVec 7)
  /-- DOT8_Z4, R138. Accumulate a dot product of eight z4 elements. -/
  | dot8Z4 (x y : BitVec 1) (b a d : BitVec 7)
  /-- DOT4_D8A, R138. Exact d8a dot product rounded once into FP32. -/
  | dot4D8a (x y : BitVec 1) (b a d : BitVec 7)
  /-- DOT4_D8B, R138. Exact d8b dot product rounded once into FP32. -/
  | dot4D8b (x y : BitVec 1) (b a d : BitVec 7)
  /-- DOT8_D4, R138. Exact d4 dot product rounded once into FP32. -/
  | dot8D4 (x y : BitVec 1) (b a d : BitVec 7)
  /-- DOT2_BF16, R138. Exact bf16 dot product rounded once into FP32. -/
  | dot2Bf16 (x y : BitVec 1) (b a d : BitVec 7)
  /-- LGET_IDX, R77. Converged fetch of a from an indexed lane. -/
  | lgetIdx (x y : BitVec 1) (b a d : BitVec 7)
  /-- LGET_UP, R77. Converged fetch of a from a lower lane. -/
  | lgetUp (x y : BitVec 1) (b a d : BitVec 7)
  /-- LGET_DN, R77. Converged fetch of a from a higher lane. -/
  | lgetDn (x y : BitVec 1) (b a d : BitVec 7)
  /-- LGET_XOR, R77. Converged fetch of a from a xor-indexed lane. -/
  | lgetXor (x y : BitVec 1) (b a d : BitVec 7)
  /-- BALLOT, R77. Mask of active lanes whose a is non-zero. -/
  | ballot (y : BitVec 1) (a d : BitVec 7)
  /-- RED_ADD_I32, R77. Sum of a over the active lanes. -/
  | redAddI32 (y : BitVec 1) (a d : BitVec 7)
  /-- SCAN_ADD_I32, R77. Inclusive Lead word sum of a over the active lanes. -/
  | scanAddI32 (y : BitVec 1) (a d : BitVec 7)
  /-- RED_MIN_I32, R77. Signed minimum of a over the active lanes. -/
  | redMinI32 (y : BitVec 1) (a d : BitVec 7)
  /-- LD, R158. Load 1 to 32 bytes through a stream into a register, pair or group. -/
  | ld (o : BitVec 6) (z : BitVec 3) (s : BitVec 4) (p : BitVec 6) (d : BitVec 7)
  /-- ST, R159. Queue a store of 1 to 32 bytes in the stream's FIFO. -/
  | st (o : BitVec 6) (z : BitVec 3) (s : BitVec 4) (p : BitVec 6) (d : BitVec 7)
  /-- LDACQ_W, R160. Four-byte acquire load at a scope. -/
  | ldacqW (k : BitVec 3) (s : BitVec 4) (p : BitVec 6) (d : BitVec 7)
  /-- LDACQ_D, R160. Eight-byte acquire load into a pair. -/
  | ldacqD (k : BitVec 3) (s : BitVec 4) (p : BitVec 6) (d : BitVec 7)
  /-- STREL_W, R160. Four-byte release store at a scope. -/
  | strelW (k : BitVec 3) (s : BitVec 4) (p : BitVec 6) (d : BitVec 7)
  /-- STREL_D, R160. Eight-byte release store from a pair. -/
  | strelD (k : BitVec 3) (s : BitVec 4) (p : BitVec 6) (d : BitVec 7)
  /-- PFETCH, R161. Prefetch a 64-byte line into the caches. -/
  | pfetch (o : BitVec 6) (s : BitVec 4) (p : BitVec 6)
  /-- LDSMP_W, R417. Four-byte load that always writes a sample record. -/
  | ldsmpW (o : BitVec 6) (s : BitVec 4) (p : BitVec 6) (d : BitVec 7)
  /-- FENCE_X, R203. Join the masked streams at core scope. -/
  | fenceX (m : BitVec 16)
  /-- FENCE_AR, R203. Release and acquire fence at a scope, with stash write-back. -/
  | fenceAr (m : BitVec 16) (k : BitVec 3)
  /-- FENCE_SC, R203. FENCE.AR that also waits for the lapse clocks of earlier stores. -/
  | fenceSc (m : BitVec 16) (k : BitVec 3)
  /-- FENCE_ENG, R203. Wait for earlier accesses and engine commands to be acknowledged at home. -/
  | fenceEng (m : BitVec 16) (k : BitVec 3)
  /-- STFLUSH, R173. Write back every dirty stash line of the block and wait for acknowledgement. -/
  | stflush (m : BitVec 16)
  /-- REFETCH_FENCE, R82. FENCE kind 5, identical to REFETCH. -/
  | refetchFence
  /-- ATOM_ADD, R237. Atomic 32-bit add returning the old value. -/
  | atomAdd (n : BitVec 1) (k : BitVec 3) (s : BitVec 4) (p : BitVec 6) (d : BitVec 7)
  /-- ATOM_MIN_I32, R237. Atomic signed minimum. -/
  | atomMinI32 (n : BitVec 1) (k : BitVec 3) (s : BitVec 4) (p : BitVec 6) (d : BitVec 7)
  /-- ATOM_MAX_I32, R237. Atomic signed maximum. -/
  | atomMaxI32 (n : BitVec 1) (k : BitVec 3) (s : BitVec 4) (p : BitVec 6) (d : BitVec 7)
  /-- ATOM_MIN_Z32, R237. Atomic unsigned minimum. -/
  | atomMinZ32 (n : BitVec 1) (k : BitVec 3) (s : BitVec 4) (p : BitVec 6) (d : BitVec 7)
  /-- ATOM_MAX_Z32, R237. Atomic unsigned maximum. -/
  | atomMaxZ32 (n : BitVec 1) (k : BitVec 3) (s : BitVec 4) (p : BitVec 6) (d : BitVec 7)
  /-- ATOM_AND, R237. Atomic and. -/
  | atomAnd (n : BitVec 1) (k : BitVec 3) (s : BitVec 4) (p : BitVec 6) (d : BitVec 7)
  /-- ATOM_OR, R237. Atomic or. -/
  | atomOr (n : BitVec 1) (k : BitVec 3) (s : BitVec 4) (p : BitVec 6) (d : BitVec 7)
  /-- ATOM_XOR, R237. Atomic xor. -/
  | atomXor (n : BitVec 1) (k : BitVec 3) (s : BitVec 4) (p : BitVec 6) (d : BitVec 7)
  /-- ATOM_EXCH, R237. Atomic exchange. -/
  | atomExch (n : BitVec 1) (k : BitVec 3) (s : BitVec 4) (p : BitVec 6) (d : BitVec 7)
  /-- ATOM_CAS, R237. Atomic compare-and-swap using d and d+1. -/
  | atomCas (n : BitVec 1) (k : BitVec 3) (s : BitVec 4) (p : BitVec 6) (d : BitVec 7)
  /-- ATOM_INCW, R237. Atomic wrapping increment. -/
  | atomIncw (n : BitVec 1) (k : BitVec 3) (s : BitVec 4) (p : BitVec 6) (d : BitVec 7)
  /-- ATOM_DECW, R237. Atomic wrapping decrement. -/
  | atomDecw (n : BitVec 1) (k : BitVec 3) (s : BitVec 4) (p : BitVec 6) (d : BitVec 7)
  /-- ATOM_FADD_F32, R237. Atomic FP32 add rounded RNE. -/
  | atomFaddF32 (n : BitVec 1) (k : BitVec 3) (s : BitVec 4) (p : BitVec 6) (d : BitVec 7)
  /-- ATOM_FMIN_F32, R237. Atomic FP32 minimum. -/
  | atomFminF32 (n : BitVec 1) (k : BitVec 3) (s : BitVec 4) (p : BitVec 6) (d : BitVec 7)
  /-- ATOM_FMAX_F32, R237. Atomic FP32 maximum. -/
  | atomFmaxF32 (n : BitVec 1) (k : BitVec 3) (s : BitVec 4) (p : BitVec 6) (d : BitVec 7)
  /-- ATOM_ADD_D, R237. Atomic 64-bit add on a pair. -/
  | atomAddD (n : BitVec 1) (k : BitVec 3) (s : BitVec 4) (p : BitVec 6) (d : BitVec 7)
  /-- TXB, R243. Begin a revocable or irrevocable transaction after a package-scope acquire. -/
  | txb (d : BitVec 7)
  /-- TXE, R246. Commit the open transaction by lock and validation at the homes. -/
  | txe
  /-- TXA, R248. Abort the open transaction with a code. -/
  | txa (i : BitVec 7)
  /-- FPUT, R253. Fill a future at its home, or serve its oldest waiter. -/
  | fput (b a d : BitVec 7)
  /-- FPUTT, R253. Fill a future, trapping FUTURE if it is full. -/
  | fputt (b a d : BitVec 7)
  /-- FGET, R254. Consume a future or queue a waiter at its home. -/
  | fget (a d : BitVec 7)
  /-- BAR_ARR, R184. Arrive at a barrier. -/
  | barArr (n q : BitVec 3)
  /-- BAR_WAIT, R184. Wait for the phase after the thread's last arrival. -/
  | barWait (n q : BitVec 3)
  /-- BAR_SYNC, R184. Arrive at a barrier and wait for its completion. -/
  | barSync (n q : BitVec 3)
  /-- BAR_ADDB, R184. Add bytes to a barrier's pending count. -/
  | barAddb (n q : BitVec 3) (a : BitVec 7)
  /-- BAR_CHK, R352. BAR.SYNC whose phase completion checks every configured Caliper. -/
  | barChk (n q : BitVec 3)
  /-- CALLO, R260. Send a request to a registered object's home and await its reply. -/
  | callo (b a d : BitVec 7)
  /-- CRPLY, R265. Record a combiner lane's reply words and status. -/
  | crply (i a : BitVec 7)
  /-- OBJREG, R258. Register an object descriptor at its home slice. -/
  | objreg (a d : BitVec 7)
  /-- OBJRST, R259. Reset, replace or retire a registered object. -/
  | objrst (a d : BitVec 7)
  /-- RCV, R75. Hold threads until every live thread of the bundle stands at this RCV. -/
  | rcv
  /-- MKE, R98. Make a register held. -/
  | mke (d : BitVec 7)
  /-- WAITF, R99. Wait until a register is full. -/
  | waitf (a : BitVec 7)
  /-- CBPUSH, R177. Reserve a free circular-buffer slot. -/
  | cbpush (q : BitVec 3) (d : BitVec 7)
  /-- CBCMT, R177. Commit the oldest reserved slot. -/
  | cbcmt (q : BitVec 3)
  /-- CBWAIT, R177. Claim the oldest filled slot. -/
  | cbwait (q : BitVec 3) (d : BitVec 7)
  /-- CBPOP, R177. Free the oldest claimed slot. -/
  | cbpop (q : BitVec 3)
  /-- ACWAIT, R180. Wait until the thread's own copy tag counter is 0. -/
  | acwait (t : BitVec 3)
  /-- REGROW, R88. Arrive at a block request to grow the register allotment. -/
  | regrow (i : BitVec 7)
  /-- REGSHR, R89. Arrive at a block request to shed registers. -/
  | regshr (i : BitVec 7)
  /-- CONT, R381. Record a continuation packet for the block and end the thread. -/
  | cont (a : BitVec 7)
  /-- WREC, R384. Send one record to a work-graph node's gather buffer. -/
  | wrec (b a : BitVec 7)
  /-- PWENQ, R409. Write a payload and enqueue a packet at a peer package's slot. -/
  | pwenq (a d : BitVec 7)
  /-- YIELD, R72. Make the issuing threads not ready for a bounded time. -/
  | yield
  /-- EXIT, R73. End the thread. -/
  | exit
  /-- SETPRG, R337. Set the block's progress override. -/
  | setprg (a : BitVec 7)
  /-- ACP, R179. Start a 32-byte asynchronous copy from global memory to scratchpad under a tag. -/
  | acp (b : BitVec 1) (s : BitVec 4) (t : BitVec 3) (v : BitVec 5) (p : BitVec 6) (o : BitVec 7)
  /-- MFRAG, R280. Bundle-wide 16x16 fragment multiply-accumulate in registers. -/
  | mfrag (c : BitVec 5) (b a d : BitVec 7)
  /-- MTILE, R283. Issue a dense tile command into the accumulator ring. -/
  | mtile (a : BitVec 7)
  /-- MSPT, R305. Issue a sparse tile command to the Carver. -/
  | mspt (a : BitVec 7)
  /-- MRING, R281. Take or reconfigure the core's accumulator ring. -/
  | mring (z : BitVec 2)
  /-- MWAIT, R291. Wait for the thread's earlier tile commands on a slot. -/
  | mwait (s : BitVec 4)
  /-- PART, R292. Queue a Parting command that drains a ring slot into memory. -/
  | part (a : BitVec 7)
  /-- PWAIT, R296. Wait for the thread's earlier PARTs and order their writes at die scope. -/
  | pwait (s : BitVec 4)
  /-- ACB, R182. Start a bulk copy that fills circular-buffer slots. -/
  | acb (q : BitVec 3) (a : BitVec 7)
  /-- CALCFG, R346. Configure or deconfigure a Caliper monitor. -/
  | calcfg (k : BitVec 2) (a : BitVec 7)
  /-- CALREF, R347. Set a monitor's reference. -/
  | calref (k : BitVec 2) (a : BitVec 7)
  /-- CALBND, R347. Set a monitor's bound. -/
  | calbnd (k : BitVec 2) (a : BitVec 7)
  /-- CALRD, R356. Read a selected value of a monitor. -/
  | calrd (v : BitVec 3) (k : BitVec 2) (d : BitVec 7)
  /-- CARVINV, R314. Invalidate a tile's Carver entry on every die. -/
  | carvinv (a : BitVec 7)
  /-- STMAP, R169. Map a scratchpad window in front of a global range. -/
  | stmap (a d : BitVec 7)
  /-- STUNMAP, R170. Write back and remove a stash map. -/
  | stunmap (a : BitVec 7)
  /-- NODE_RD, R226. Read a field of the node record. -/
  | nodeRd (f : BitVec 4) (d : BitVec 7)
  /-- NODE_IN, R227. Read a word of the node's inbox or down slot. -/
  | nodeIn (a d : BitVec 7)
  /-- NODE_UP, R228. Write a word into the node's up slot. -/
  | nodeUp (b a : BitVec 7)
  /-- NODE_DN, R229. Write a word into a child's slot of the outbox. -/
  | nodeDn (b a : BitVec 7)
  /-- XNEXT, R318. Step to the next common bitmap position and return both offsets. -/
  | xnext (b a d : BitVec 7)
  /-- SETSTRM, R143. Drain a stream and write its attribute word. -/
  | setstrm (s : BitVec 4) (a : BitVec 7)
  /-- MTOK, R299. Read the die's token pool and free tokens. -/
  | mtok (d : BitVec 7)
  /-- BR, R67. Conditional PC-relative branch on a predicate. -/
  | br (i : BitVec 19) (n : BitVec 1) (p : BitVec 3)
  /-- CALL, R68. PC-relative call writing the link pair. -/
  | call (i : BitVec 23)
  /-- JMP, R68. Jump to the address in a pair. -/
  | jmp (p : BitVec 7)
  /-- CALLR, R68. Call to the address in a pair, writing the link. -/
  | callr (p : BitVec 7)
  /-- RET, R68. Return to the address in a pair. -/
  | ret (p : BitVec 7)
  /-- NOP, R71. Do nothing but advance the PC. -/
  | nop
  /-- PRED, R46. Lead word that predicates its follower, issued as one with it. -/
  | pred (n : BitVec 1) (q : BitVec 3)
  /-- SRD, R78. Read a special register. -/
  | srd (a d : BitVec 7)
  /-- SWR, R78. Write a special register. -/
  | swr (a d : BitVec 7)
  /-- SETRM, R139. Set the rounding mode in %fmode. -/
  | setrm (r : BitVec 2)
  /-- CLRFF, R140. Read and clear %fflags. -/
  | clrff (d : BitVec 7)
  /-- TRAPI, R331. Raise TRAPI with an immediate code. -/
  | trapi (i : BitVec 4)
  /-- BRK, R331. Raise BREAK. -/
  | brk
  /-- RETT, R330. End the handler thread and resume its origin lane. -/
  | rett
  /-- KILL, R330. End the handler thread and exit its origin lane. -/
  | kill
  /-- KILLB, R330. End the handler thread and park the origin block's task. -/
  | killb
  /-- OREG, R329. Read a register of the origin lane. -/
  | oreg (a d : BitVec 7)
  /-- OWR, R329. Write a register of the origin lane. -/
  | owr (a d : BitVec 7)
  /-- OPC, R329. Set the origin lane's resume PC. -/
  | opc (d : BitVec 7)
  /-- HALT, R333. Request a halt of the block from a privileged context. -/
  | halt
  /-- REFETCH, R82. Bring the thread's instruction fetch up to date with stores. -/
  | refetch
  /-- EXT, R47. Lead word supplying the upper 20 bits of its ADDI follower's immediate. -/
  | ext (i : BitVec 20)
  /-- LANE_RESULT_WRITE, R76. Write a lane collective's results 8 clk after release and make the destinations full. -/
  | laneResultWrite (op : Nat)
  /-- MFRAG_RESULT_WRITE, R280. Write MFRAG accumulators 40 clk after release. -/
  | mfragResultWrite (op : Nat)
  /-- YIELD_END, R72. End a yield after 64 clk or after every other ready bundle has had a turn. -/
  | yieldEnd (bundle lane : Nat)
  /-- LATE_RESULT_ARRIVAL, R93. A late producer's result arrives, is written and makes its destination full. -/
  | lateResultArrival (op : Nat)
  /-- STORE_QUEUE_DRAIN, R147. A store-queue entry enters the L1 or scratchpad array and is freed. -/
  | storeQueueDrain (op : Nat)
  /-- HOME_STORE_ARRIVAL, R153. A store reaches its home slice, takes its write time and is acknowledged. -/
  | homeStoreArrival (op : Nat)
  /-- STORE_ACKNOWLEDGEMENT, R148. A home's acknowledgement reaches the core, raising ctime and releasing held loads. -/
  | storeAcknowledgement (op : Nat)
  /-- HOME_LOAD_REQUEST, R153. A load miss or lapsed lease reaches the home, which extends rts and returns data with a lease. -/
  | homeLoadRequest (op : Nat)
  /-- CTIME_TICK, R153. Core logical time advances by 1 every 16 clk. -/
  | ctimeTick (core : Nat)
  /-- REMOTE_COPY_EXPIRY, R154. A die's L2 copy of a remote line lapses 4,096 clk after the home answered. -/
  | remoteCopyExpiry (die line : Nat)
  /-- NEGATIVE_ACKNOWLEDGEMENT, R156. A receiver with a full queue drops a request and answers with a negative acknowledgement. -/
  | negativeAcknowledgement (op : Nat)
  /-- BACKOFF_RESEND, R156. After the back-off expires the sender resends the dropped request and its successors. -/
  | backoffResend (op : Nat)
  /-- PEER_LOAD_FAILURE, R162. A peer load fails or times out and poisons its destination. -/
  | peerLoadFailure (op : Nat) (status : BitVec 16)
  /-- STASH_FILL_RETURN, R171. A stash line fill returns through the L2 and the pending access completes. -/
  | stashFillReturn (block map line : Nat)
  /-- STASH_LINE_RECALL, R172. An engine or home slice recalls a stash line, which is written back and made untouched. -/
  | stashLineRecall (block map line : Nat)
  /-- ENGINE_REGISTRATION, R200. An engine command registers ownership of a destination line at its home. -/
  | engineRegistration (op : Nat)
  /-- ENGINE_LINE_WRITE, R200. An engine writes an owned line, releasing ownership and the held requests. -/
  | engineLineWrite (op : Nat)
  /-- COPY_COMPLETE, R179. The copy engine writes an ACP's 32 bytes and decrements the tag and b0 pending count. -/
  | copyComplete (op : Nat)
  /-- ACB_SLOT_COMMIT, R182. The copy engine fills and commits one circular-buffer slot of an ACB. -/
  | acbSlotCommit (op : Nat)
  /-- NETWORK_BARRIER_ARRIVAL, R186. A block's arrival reaches a wider barrier network, which completes at its participant count. -/
  | networkBarrierArrival (block bar : Nat)
  /-- BLOCK_ADMISSION, R58. A waiting block is admitted to a core once its bundles, registers and scratchpad fit. -/
  | blockAdmission (block core : Nat)
  /-- BLOCK_COMPLETION, R74. A block whose threads exited and whose stores, tags and commands drained completes and frees its resources. -/
  | blockCompletion (block : Nat)
  /-- REGROW_GRANT, R88. The oldest standing REGROW is granted once free segments suffice. -/
  | regrowGrant (core : Nat)
  /-- REGSHR_SHED, R89. Once no producer is outstanding the shed registers are discarded and the threads released. -/
  | regshrShed (block : Nat)
  /-- HANDLER_WAVE_FORMATION, R326. Parked lanes of a block are packed into a handler bundle. -/
  | handlerWaveFormation (block : Nat)
  /-- IMPRECISE_FAULT, R334. A late store or Carver fault reaches its origin and parks it or forms a handler. -/
  | impreciseFault (op : Nat) (status : BitVec 16)
  /-- PREEMPTION_REQUEST, R336. A pre-emption request reaches a core, which chooses drain, flush or save. -/
  | preemptionRequest (block : Nat)
  /-- DRAIN_LIMIT_EXPIRY, R336. A draining block that has not completed within the drain limit is saved. -/
  | drainLimitExpiry (block : Nat)
  /-- BLOCK_RESTORE, R339. A saved block is placed on a core with room and resumes. -/
  | blockRestore (block core : Nat)
  /-- URGENT_ADMISSION_TIMEOUT, R395. An urgent or realtime block without room for 10 us causes pre-emption of a bulk or standard block. -/
  | urgentAdmissionTimeout (block : Nat)
  /-- TX_VALIDATE_AT_HOME, R246. A home slice locks and validates a committing transaction's lines. -/
  | txValidateAtHome (bundle lane : Nat)
  /-- TX_COMMIT_RESULT, R246. The slices' answers reach the core; the commit writes or the transaction aborts. -/
  | txCommitResult (bundle lane : Nat)
  /-- TURN_TOKEN_GRANT, R249. The die's turn token is granted to the oldest waiting TXB. -/
  | turnTokenGrant (die : Nat)
  /-- FUTURE_OP_AT_HOME, R253. A future request is applied at the future's home slice. -/
  | futureOpAtHome (op : Nat)
  /-- FUTURE_ANSWER, R254. The home's answer or a served waiter's value reaches the thread. -/
  | futureAnswer (op : Nat)
  /-- OBJREG_AT_HOME, R258. The home reads and registers an object descriptor. -/
  | objregAtHome (op : Nat)
  /-- CALLO_ARRIVAL, R260. A CALLO request reaches the object's home and is queued or answered. -/
  | calloArrival (op : Nat)
  /-- COMBINER_WAVE_FORMATION, R263. The home starts a combiner wave when 32 requests wait or gather time expires. -/
  | combinerWaveFormation (object : Nat)
  /-- COMBINER_WAVE_END, R266. All wave lanes exited; stores perform and replies are sent. -/
  | combinerWaveEnd (wave : Nat)
  /-- COMBINER_WAVE_ABORT, R269. A trap in a combiner lane aborts the wave and breaks the object. -/
  | combinerWaveAbort (wave : Nat)
  /-- CALLO_REPLY, R261. A reply reaches the caller and fills d to d+4. -/
  | calloReply (op : Nat)
  /-- POWER_TOKEN_GRANT, R298. The oldest tile request's token cost is granted from the die pool. -/
  | powerTokenGrant (die : Nat)
  /-- TILE_COMMAND_COMPLETE, R290. A tile command's result is written on every span core and its tokens return. -/
  | tileCommandComplete (op : Nat)
  /-- PART_COMPLETE, R294. The Parting engine finishes a slot share, frees the slot and acknowledges writes. -/
  | partComplete (op : Nat)
  /-- MSPT_AT_CARVER, R307. An MSPT reaches the Carver and binds, waits or starts a compile. -/
  | msptAtCarver (op : Nat)
  /-- CARVER_COMPILE_END, R309. A compile finishes, chooses dense or sparse path and binds the waiting commands. -/
  | carverCompileEnd (op : Nat)
  /-- NODE_COMPLETION, R231. A node's block and box writes complete; the Lathe pops boxes and readies dependent nodes. -/
  | nodeCompletion (op : Nat)
  /-- PAGE_LEASE, R365. Before launch the Headstock walks, makes resident and leases every page of a task's ranges. -/
  | pageLease (task : Nat)
  /-- PAGING_DOORBELL, R400. A write to the paging doorbell makes waiting leases walk again. -/
  | pagingDoorbell (partition : Nat)
  /-- REQUEUE, R370. Reread, recheck, release and relaunch a parked task. -/
  | requeue (partition : Nat) (task : BitVec 32)
  /-- CANCEL, R370. Discard a parked or leasing task and decrement its successors. -/
  | cancel (partition : Nat) (task : BitVec 32)
  /-- GANG_ADMISSION, R378. A gang is admitted to one quad once every member fits. -/
  | gangAdmission (op quad : Nat)
  /-- WORK_GRAPH_RECORD_ARRIVAL, R384. A WREC record reaches a node's gather buffer or is refused. -/
  | workGraphRecordArrival (op : Nat)
  /-- WORK_GRAPH_BUNDLE_LAUNCH, R385. A node launches a bundle at 32 records or when the timer expires. -/
  | workGraphBundleLaunch (node : Nat)
  /-- PAGE_COMPRESSION, R389. An unleased page untouched for the cold interval is compressed into the zone. -/
  | pageCompression (partition va : Nat)
  /-- PAGE_MIGRATION, R390. The Headstock moves an unleased page between tiers. -/
  | pageMigration (partition va : Nat)
  /-- INBOUND_ACCESS, R391. A host or peer access is translated at the target and served or faulted. -/
  | inboundAccess (op partition source : Nat) (va : BitVec 64) (size : Nat) (data : List (BitVec 8))
  /-- INBOUND_TIMEOUT, R410. An inbound access not served within 2 ms writes a record and answers with an error. -/
  | inboundTimeout (op : Nat)
  /-- PWENQ_AT_TARGET, R409. A write-with-enqueue is checked, written and enqueued at the target. -/
  | pwenqAtTarget (op : Nat) (pkg : BitVec 16) (partition : Nat) (desc payload packet : List (BitVec 8))
  /-- PWENQ_REPLY, R409. The target's reply fills or poisons the initiator's d. -/
  | pwenqReply (op : Nat) (code : BitVec 16) (page : BitVec 64)
  /-- PWENQ_NO_REPLY, R409. No reply within 4 ms poisons d with peer status 0xFFFF. -/
  | pwenqNoReply (op : Nat)
  /-- QUEUE_MAP, R394. Writing a QCB address to an unmapped slot maps the queue. -/
  | queueMap (slot : Nat) (qcb : BitVec 64)
  /-- QUEUE_UNMAP, R396. Writing 0 to a slot's QCB register unmaps the queue. -/
  | queueUnmap (slot : Nat)
  /-- QUEUE_RESET, R404. Writing 1 to a slot's reset register clears the queue's error state. -/
  | queueReset (slot : Nat)
  /-- DOORBELL, R398. An 8-byte doorbell write advances a slot's write index. -/
  | doorbell (slot : Nat) (value : BitVec 64)
  /-- TREE, R218. TREE packet taken: the Lathe checks the descriptor and starts the sweep. -/
  | tree (slot : Nat)
  /-- TASK, R364. TASK packet taken: the TCB is checked and its blocks launched. -/
  | task (slot : Nat)
  /-- GANG, R377. GANG packet taken: the gang descriptor and members are checked and launched. -/
  | gang (slot : Nat)
  /-- BARRIER, R404. BARRIER packet taken: completes on its signals, or aborts the queue. -/
  | barrier (slot : Nat)
  /-- COPY, R402. COPY packet taken: the copy engine copies bytes. -/
  | copy (slot : Nat)
  /-- SIGNAL, R402. SIGNAL packet taken: stores or adds a value to a signal word. -/
  | signal (slot : Nat)
  /-- WNODE, R383. WNODE packet taken: installs or removes a work-graph node. -/
  | wnode (slot : Nat)
  /-- MEASURE, R214. MEASURE packet taken: walks the tree and writes the path-bound record. -/
  | measure (slot : Nat)
  /-- NOP_PACKET, R402. NOP packet taken and completed. -/
  | nopPacket (slot : Nat)
  /-- PACKET_COMPLETION, R404. A packet's work performs at scope; the signal is updated and the record written. -/
  | packetCompletion (op : Nat)
  /-- HELD_RECORD_FLUSH, R407. Held records are written in order as room appears in the event ring. -/
  | heldRecordFlush (partition : Nat)
  /-- INTERRUPT_COALESCE_TIMEOUT, R408. The ring sends its MSI-X message when its oldest pending record has waited T. -/
  | interruptCoalesceTimeout (partition : Nat)
  /-- PARTITION_CONFIG_COMMAND, R19. Writing 1 to the partition command register checks the whole table. -/
  | partitionConfigCommand (value : BitVec 32)
  /-- PARTITION_INSTALL, R19. Once changing quads hold no block the new partition table is installed. -/
  | partitionInstall
  /-- LEADER_RENEW, R411. The leader renews its lease every 250 us. -/
  | leaderRenew
  /-- LEADER_POLL, R411. A follower reads the leader register every 50 us and may claim a lapsed lease. -/
  | leaderPoll (die : Nat)
  /-- HEADSTOCK_TAKEOVER, R411. The new leader rebuilds the slot map and resumes fetching. -/
  | headstockTakeover (die : Nat)
  /-- OBSERVATION_CONTROL_WRITE, R424. Write to the observation control register, refusing deterministic mode on a shared partition. -/
  | observationControlWrite (partition : Nat) (value : BitVec 32)
  /-- STOP_AT_THE_MARK, R428. Command 1 rolls back and re-executes to stop at a work mark. -/
  | stopAtTheMark (partition : Nat)
  /-- RESUME_THE_PARTITION, R416. Command 2 resumes a stopped partition. -/
  | resumeThePartition (partition : Nat)
  /-- HALT_TASK, R333. Command 3 halts the named task. -/
  | haltTask (partition : Nat)
  /-- RESUME_TASK, R333. Command 4 resumes the named task. -/
  | resumeTask (partition : Nat)
  /-- SET_SINGLE_STEP, R331. Command 5 sets the task's single-step flag. -/
  | setSingleStep (partition : Nat)
  /-- CLEAR_SINGLE_STEP, R331. Command 6 clears the task's single-step flag. -/
  | clearSingleStep (partition : Nat)
  /-- RESUME_OBSERVATION, R421. Command 7 re-arms every suspended observation ring. -/
  | resumeObservation (partition : Nat)
  /-- INPUT_BOUNDARY, R425. Every 2^k clk held external inputs are applied in fixed order. -/
  | inputBoundary (partition : Nat)
  /-- CHECKPOINT, R426. Every 2^m clk or when the log fills, the partition snapshots blocks and starts a new interval. -/
  | checkpoint (partition : Nat)
  /-- LOCKSTEP_INPUT_MESSAGE, R429. The secondary receives the primary's inputs for a boundary. -/
  | lockstepInputMessage (partition kind target : Nat) (value : BitVec 64)
  /-- LOCKSTEP_HASH_ARRIVAL, R429. The partner's interval hash arrives and is compared. -/
  | lockstepHashArrival (partition : Nat) (hash : List (BitVec 8))
  /-- LOCKSTEP_HASH_TIMEOUT, R429. A hash missing after 1 ms fail-stops both partitions. -/
  | lockstepHashTimeout (partition : Nat)
  /-- FREEZE_PIN, R430. The freeze pin stops every clock of the package. -/
  | freezePin
  /-- FREEZE_REGISTER_WRITE, R430. Writing 1 to the freeze register stops every clock. -/
  | freezeRegisterWrite (value : BitVec 32)
  /-- SELECT, R430. JTAG instruction selecting a core or slice. -/
  | select (unit : BitVec 32)
  /-- READ, R430. JTAG instruction reading frozen state of the selected unit. -/
  | read
  /-- IDCODE, R430. JTAG IDCODE instruction. -/
  | idcode
  /-- BYPASS, R430. JTAG BYPASS instruction. -/
  | bypass
  /-- POWER_CAP_WRITE, R433. Writing the power cap recomputes every die's token pool. -/
  | powerCapWrite (value : BitVec 32)
  /-- POWER_OVERAGE, R433. Power above the effective cap for 10 ms, then each further 1 ms, lowers P by 1/8. -/
  | powerOverage
  /-- MONITOR_REFRESH, R434. Thermal, voltage and process monitors refresh every 100 us. -/
  | monitorRefresh (die : Nat)
  /-- THERMAL_RESTORE, R435. After 100 ms below 95 C the full cap is restored. -/
  | thermalRestore
  /-- VOLTAGE_STOP, R435. A voltage outside 5 % for 1 ms stops every clock. -/
  | voltageStop
  /-- ATTESTATION_CHALLENGE, R441. A written challenge produces a signed attestation report. -/
  | attestationChallenge (challenge : List (BitVec 8))
  /-- POWER_ON_RESET, R437. Power-on reset starts bring-up. -/
  | powerOnReset
  /-- BRINGUP_STEP, R437. The package advances one bring-up step once the previous has finished. -/
  | bringupStep
  /-- HOST_REGISTER_WRITE, R397. A control-window write to a register with no behaviour of its own. -/
  | hostRegisterWrite (offset : BitVec 32) (size : Nat) (value : BitVec 64)
  /-- LAPSE_CLOCK_PASSED, R204. The physical lapse clock reported with a store acknowledgement passes, and a FENCE.SC waiting on it completes. -/
  | lapseClockPassed (bundle lane : Nat)
  /-- STALL_COUNTER_CLOCK, R414. In each clk in which no bundle of a resident block issues, exactly one of its stall counters rises by 1. -/
  | stallCounterClock (block : Nat)
  /-- POWER_FALLS_BELOW_CAP, R433. Module power falls back below the effective cap and the Headstock restores P by R298. -/
  | powerFallsBelowCap
  /-- MSI_X_VECTOR_UNMASK, R408. Software unmasks an MSI-X vector, and a message pending on it is delivered. -/
  | msiXVectorUnmask (vector : Nat)
  /-- FAULT_QUEUE_READ_INDEX_WRITE, R368. Software advances the fault-queue read index, which frees ring entries, writes held entries and lets launches in the partition resume. -/
  | faultQueueReadIndexWrite (partition : Nat) (value : BitVec 64)
  /-- OBJRST_AT_HOME, R259. An OBJRST request reaches the object's home, which checks the descriptor again and resets, replaces or retires the object once no wave runs. -/
  | objrstAtHome (op : Nat)
  /-- PAGE_MOVE_END, R390. A page move between tiers ends, M is cleared, and held leases and inbound accesses proceed. -/
  | pageMoveEnd (op : Nat)
  /-- HOTTEST_READING_READ, R434. A read of a die's hottest-reading word returns the value and restarts the tracking since that read. -/
  | hottestReadingRead (die : Nat)
  /-- POWER_FAILURE, R440. The supply is lost, and any signing index already written stays consumed. -/
  | powerFailure
  deriving DecidableEq, Repr

end Sys2Proof
end

