-- ==== Sys2Proof/Machine/State.lean ====
section
/-! DEFINITION. The state of a DXL-640 package as plain data: every piece of state the spec names (INVENTORY.md lists each with
its rule and reset value), what an issue group carries while it executes, and the model's own agenda and counters. -/

namespace Sys2Proof.Machine

/-- Why a step stops (none of the rules stops the machine itself; a trap is a next state). -/
inductive Fault where
  /-- A physical address outside the regions of R145; raised by no meaning, since translation refuses such frames (R387);
  kept for an access the spec says does not exist. Safe. -/
  | noSuchAddress
  deriving DecidableEq, Repr

/-- Why an instruction has no meaning here. -/
inductive Refusal where
  /-- Raised by an arm of exec whose instruction is not modelled yet. Safe. -/
  | notModelled (mnemonic : String)
  deriving DecidableEq, Repr

/-- Bytes by address in one canonical form: addresses strictly rising, no byte equal to 0, what an unlisted address reads as
(DESIGN CHOICE, log entry 1; for a scratchpad R163, for boxes R216). -/
abbrev Mem := List Host.Cell

/-- Full/empty state of a register (R92); a poison carries what R162 states. -/
inductive RegState where
  | full
  | pending
  | held
  | poisoned (loadPc addr : DWord) (status : BitVec 16)
  deriving DecidableEq, Repr

/-- A general register (R83, R92). -/
structure Reg where
  val : Word := 0
  st : RegState := .full
  deriving DecidableEq, Repr

/-- Stall reasons (R414): the codes that a waiting thread can have. -/
inductive Stall where
  | emptyRegister | fetch | notSelected | barrier | rcv | backOff | storeQueueFull | bankConflict | powerToken
  | ringFull | bufferWait | transactionTurn | collective | yield
  deriving DecidableEq, Repr

/-- A cause of R321 with what its origin tag carries (R328). -/
structure Trap where
  cause : Nat
  detail : DWord := 0
  addr : DWord := 0
  /-- Peer status for PEERERR (R162). -/
  status : BitVec 16 := 0
  deriving DecidableEq, Repr

/-- What a parked lane holds (R324, R328). -/
structure Park where
  trap : Trap
  opc : DWord
  resume : DWord
  imprecise : Bool := false
  afterAbort : Bool := false
  /-- Parking order and clock (R326). -/
  seq : Nat := 0
  clk : Nat := 0
  /-- The handler bundle and lane that serve it, once formed. -/
  server : Option (Nat × Nat) := none
  deriving DecidableEq, Repr

/-- A thread's place in the lifecycle of R60 (ready, waiting and inactive follow from the rest of the state). -/
inductive Life where
  | live
  | parked (p : Park)
  | exited
  deriving DecidableEq, Repr

/-- Arrival at a convergence instruction (R75, R76, R280): where it stands, whether the lane is active, and the destination
registers made empty with the values they held. -/
structure Conv where
  pc : DWord
  ipc : DWord
  instr : Instr
  active : Bool
  saved : List (Nat × Word) := []
  deriving DecidableEq, Repr

/-- What a thread waits in the middle of: instructions that have issued and hold their thread. -/
inductive Mid where
  /-- The waiting half of BAR.SYNC or BAR.CHK (R325). -/
  | barWait (operand : BitVec 7) (chk : Bool)
  /-- REGROW or REGSHR at its PC (R87). -/
  | request (shed : Bool) (value : Nat)
  /-- Held until the home has answered (R253, R254). -/
  | answer (op : Nat)
  /-- TXE in its commit (R246). -/
  | commit
  /-- SETSTRM draining (R143). -/
  | drain (stream : Nat)
  /-- STUNMAP waiting for its write-backs (R170). -/
  | unmap (map : Nat)
  /-- STFLUSH or a fence whose write-back has started (R173, R203). -/
  | flush
  /-- MTILE or MSPT whose parameters are read (R288): waits for tokens and slots. -/
  | tile (cmd : Nat)
  deriving DecidableEq, Repr

/-- A yield in progress (R72): its end by the clock, and the bundles still to have a turn. -/
structure Yield where
  until_ : Nat
  others : List Nat
  deriving DecidableEq, Repr

/-- One 64-byte line of a read or write set, with its byte mask as a list of (offset, byte). -/
structure TxLine where
  line : Nat
  bytes : List (Nat × Byte)
  deriving DecidableEq, Repr

/-- An open transaction (R243 to R247). -/
structure Tx where
  resume : DWord
  reg : Nat
  irrevocable : Bool
  reads : List TxLine := []
  writes : List TxLine := []
  /-- Stores to count at commit (R349), with the clk at which each issued: clk, stream, address, bytes. -/
  counted : List (Nat × Nat × DWord × List Byte) := []
  /-- Streams of its stores. -/
  streams : List Nat := []
  /-- Commit phase: none before TXE; some none while validating; some (some status) once a slice failed, 0 when all agreed. -/
  commit : Option (Option Word) := none
  deriving DecidableEq, Repr

/-- The lapse clocks that an acknowledged store reported (R204). -/
structure Lapse where
  stream : Nat
  die : Nat
  pkg : Nat
  deriving DecidableEq, Repr

/-- The origin of a handler thread (R328). -/
structure Origin where
  bundle : Nat
  lane : Nat
  bundleIndex : Nat
  trap : Trap
  opc : DWord
  imprecise : Bool
  exited : Bool
  afterAbort : Bool
  deriving DecidableEq, Repr

/-- A thread context (R58, R83, R84, R121, R126, R168). -/
structure Thread where
  pc : DWord := 0
  regs : List Reg := []
  /-- p0 to p6; p7 reads 1 (R100). -/
  preds : List Bool := List.replicate 7 false
  /-- e0 to e7, eight f32 each (R126). -/
  resid : List Word := List.replicate 64 0
  fmode : Word := 0
  fflags : Word := 0
  clkLatch : DWord := 0
  timeLatch : DWord := 0
  waitCount : Nat := 0
  tags : List Nat := List.replicate 8 0
  life : Life := .live
  conv : Option Conv := none
  mid : Option Mid := none
  /-- The instruction after the one that holds the thread. -/
  nxt : DWord := 0
  yield : Option Yield := none
  /-- Phase of the last arrival at each barrier (R183). -/
  arrived : List (Option Nat) := List.replicate 8 none
  /-- The name counter at that arrival: requests below it were issued before (R184). -/
  arrivedOp : List Nat := List.replicate 8 0
  stamp : Option Nat := none
  lapses : List Lapse := []
  /-- The highest write time of its completed engine writes (R203, R296). -/
  engWts : Nat := 0
  tx : Option Tx := none
  aborts : Nat := 0
  origin : Option Origin := none
  /-- A combiner lane's recorded reply: status and words (R265). -/
  reply : Option (Nat × List Word) := none
  /-- An uncorrectable soft error that its next instruction to use the structure finds (R321): 1 registers, 2 scratchpad,
  3 accumulator. -/
  soft : Option Nat := none
  /-- The RCVs that its bundle released while it was parked, each of which it passes alone (R75, R324). -/
  missed : List DWord := []
  deriving DecidableEq, Repr

/-- Whose bundle it is. -/
inductive Owner where
  | block (id : Nat)
  | handler (block : Nat)
  | wave (id : Nat)
  deriving DecidableEq, Repr

/-- One lane's share of a released collective (R76, R280): its destination, the values to write and those held before its
arrival, and the flags it raises. -/
structure LaneShare where
  lane : Nat
  dst : Nat
  new : List Word
  old : List Word
  flags : Word := 0
  deriving DecidableEq, Repr

/-- A released collective whose result is still to be written. -/
structure Collective where
  id : Nat
  mfrag : Bool
  shares : List LaneShare
  deriving DecidableEq, Repr

/-- A resident bundle (R57, R58); a lane beyond the list does not exist. -/
structure Bundle where
  id : Nat
  owner : Owner
  index : Nat
  core : Nat
  pipe : Nat
  threads : List Thread
  results : List Collective := []
  deriving DecidableEq, Repr

/-- A memory right and range declared by a task (R362), or its code range. -/
structure Range where
  base : Nat
  len : Nat
  r : Bool
  w : Bool
  gran : Nat := 0
  ren : Bool := false
  hbm : Bool := false
  deriving DecidableEq, Repr

/-- A range-translation entry (R388): a virtual run onto a physically contiguous run, with the rights of the leaf it was built from.
table: it was built from the page table's leaf, which it holds while leased (R366), and not from a rename version's frame. -/
structure Xlat where
  va : Nat
  pa : Nat
  len : Nat
  r : Bool := true
  w : Bool := true
  table : Bool := false
  deriving DecidableEq, Repr

/-- What a program table entry, TCB or work-graph node gives a launch (R211, R361). -/
structure Program where
  entry : DWord := 0
  expected : Nat := 0
  codeBase : Nat := 0
  codeLen : Nat := 0
  threads : Nat := 1
  regs : Nat := 64
  spad : Nat := 0
  blocks : Nat := 1
  idem : Bool := false
  coplace : Bool := false
  tracked : Bool := false
  streams : List (Nat × Word) := []
  bufs : List (Word × Word) := []
  bars : List Word := []
  ranges : List Range := []
  deriving DecidableEq, Repr

/-- A stash line's state (R171); writing is a dirty line whose write-back is on its way (R172). -/
inductive LineState where
  | untouched | clean | dirty | writing
  deriving DecidableEq, Repr

/-- A stash line: state, lease, dirty bytes by offset, and the bundles (by name) and streams that dirtied them (R171, R188). The
bytes are those of the stash stores: a local or cluster store over them is not written back (R174); a write-back that has started takes
them along. -/
structure StashLine where
  idx : Nat
  state : LineState := .untouched
  wts : Nat := 0
  rts : Nat := 0
  grant : Nat := 0
  bytes : List (Nat × Byte) := []
  bundles : List Nat := []
  streams : List Nat := []
  /-- The line at its home right after its latest write-back arrived there (R172). -/
  home : List Byte := []
  deriving DecidableEq, Repr

/-- A stash map (R169). -/
structure StashMap where
  id : Nat
  window : Nat
  length : Nat
  base : Nat
  lines : List StashLine := []
  deriving DecidableEq, Repr

/-- A circular buffer (R175, R176); core and block say where its slots lie. -/
structure Buf where
  cluster : Bool
  base : Nat
  count : Nat
  size : Nat
  reserve : Nat := 0
  claim : Nat := 0
  release : Nat := 0
  free : Nat
  reserved : Nat := 0
  filled : Nat := 0
  claimed : Nat := 0
  /-- For a pipe of a gang: the gang and pipe that keep the counters (R378). -/
  home : Option (Nat × Nat) := none
  deriving DecidableEq, Repr

/-- A barrier (R183, R184, R380). -/
structure Bar where
  phase : Nat := 0
  /-- Arrived threads as (bundle index, lane). -/
  arrivals : List (Nat × Nat) := []
  /-- Threads that arrived with BAR.CHK. -/
  checkers : List (Nat × Nat) := []
  network : Option Nat := none
  pending : Nat := 0
  checking : Bool := false
  /-- Local completion done, arrival sent to the network (R186). -/
  sent : Bool := false
  /-- The monitors' sums and scales as they stood then (R354). -/
  sums : List (Option (Int × Int)) := []
  word : Word := 0
  deriving DecidableEq, Repr

/-- A Caliper monitor (R345 to R353). The sum is exact in units of 2^q; its 192-bit value is its low part (R351). -/
structure Monitor where
  off : Nat
  carry : Bool
  ty : Nat
  rs : Nat
  mask : Nat
  length : Nat
  base : Nat
  q : Int
  words : List Word := []
  sum : Int := 0
  inexact : Bool := false
  isPartial : Bool := false
  nonfinite : Bool := false
  ref : DWord := 0
  bound : DWord := 0x7FF0000000000000#64
  lastReasons : Nat := 0
  lastRef : DWord := 0
  /-- The clock of its CALCFG: stores that issue in that clk count under the configuration before it (R346). -/
  since : Nat := 0
  deriving DecidableEq, Repr

/-- A standing REGROW or REGSHR request (R87, R88). -/
structure Request where
  shed : Bool
  value : Nat
  order : Nat
  deriving DecidableEq, Repr

/-- The node of a node block (R226). -/
structure NodeInfo where
  grid : Nat
  index : Nat
  /-- The values NODE.RD returns, codes 0 to 15 (R226). -/
  fields : List Word
  sweep : Nat
  billet : Nat
  deriving DecidableEq, Repr

/-- An imprecise fault that waits (R334): for its lane's handler to end, or, where the lane has exited, for a handler. -/
structure LateFault where
  bundle : Nat
  index : Nat
  lane : Nat
  trap : Trap
  pc : DWord
  /-- Its place and clock of arrival among parked lanes, once it asks for a handler. -/
  asks : Option (Nat × Nat) := none
  deriving DecidableEq, Repr

/-- How a block ends early. -/
inductive Ending where
  | running
  | parking (t : Trap) (opc : DWord) (bundle lane : Nat)
  | flushing
  /-- A save under way (R338). -/
  | saving
  deriving DecidableEq, Repr

/-- A resident block, or one whose record is saved. -/
structure Block where
  id : Nat
  task : Nat
  core : Nat
  /-- Order of admission on the core (R91). -/
  order : Nat
  nthreads : Nat
  allot : Nat
  spadSize : Nat
  spad : Mem := []
  streams : List Word
  spflag : Bool := false
  spaddr : Word := 0
  txlim : Nat := 8
  carvth : Nat := 40
  override : Option Nat := none
  expected : Nat := 0
  idem : Bool := false
  maps : List StashMap := []
  bufs : List (Option Buf) := List.replicate 8 none
  bars : List Bar := List.replicate 8 {}
  mons : List (Option Monitor) := List.replicate 4 none
  request : Option Request := none
  node : Option NodeInfo := none
  cont : Option DWord := none
  drains : List (Nat × Word) := []
  halted : Bool := false
  singleStep : Bool := false
  priv : Bool := false
  ending : Ending := .running
  faults : List LateFault := []
  /-- The first imprecise fault that found no thread (R335), and whether further ones followed. -/
  late : Option (LateFault × Bool) := none
  retired : Nat := 0
  launched : Nat := 0
  restored : Bool := false
  draining : Option Nat := none
  /-- A pre-emption request on its way to the core (R336). -/
  preempt : Bool := false
  stall : List Word := List.replicate 16 0
  /-- Some bundle of it has issued in this clk, or a stall counter has risen (R414). -/
  clkDone : Bool := false
  /-- The clk is over for it: a stall counter has risen, and nothing of it issues before the next (R414). -/
  clkOver : Bool := false
  /-- A check that failed while it was saved, with the threads that arrived with BAR.CHK: CALIPER is raised as it is restored (R355, R357). -/
  caliper : Option (Trap × List (Nat × Nat)) := none
  /-- Older parcels of code that fetch may still return (R23): physical address and parcel. -/
  icode : List (Nat × BitVec 16) := []
  /-- Gang and member, for a gang block (R378). -/
  gang : Option (Nat × Nat) := none
  deriving DecidableEq, Repr

/-- A saved accumulator ring (R300). -/
structure SavedRing where
  code : Nat
  slots : List (Option (Nat × Nat × Nat × Nat))
  head : Nat
  mem : Mem
  deriving DecidableEq, Repr

/-- Where an access goes (R144, R145, R164, R165). -/
inductive Place where
  | mem (pa : Nat)
  | peer (pkg va : Nat)
  | spad (block off : Nat)
  | stash (block map off pa : Nat)
  | nowhere
  deriving DecidableEq, Repr

/-- One lane of an ATOM (R239). -/
structure AtomLane where
  lane : Nat
  v : DWord
  v2 : Word
  old : DWord := 0
  deriving DecidableEq, Repr

/-- A private copy of a line that a load miss brought back (R153). -/
structure Copy where
  line : Nat
  data : List Byte
  wts : Nat
  rts : Nat
  grant : Nat
  level : Nat := 2
  /-- Its placement class (R155): 0 normal, 1 once, 2 keep. -/
  policy : Nat := 0
  deriving DecidableEq, Repr

/-- What a request does. -/
inductive ReqKind where
  /-- A load: size code, destination, acquire scope or none, sampled (0 no, 1 tagged, 2 LDSMP.w). -/
  | load (code dst : Nat) (acquire : Option Nat) (sample : Nat)
  /-- A store: its bytes, release scope or none. -/
  | store (data : List Byte) (release : Option Nat)
  /-- An ATOM: op, N, destination, scope, lanes. -/
  | atom (op : Nat) (n : Bool) (dst scope : Nat) (lanes : List AtomLane)
  /-- A stash line's write-back: map, line, (offset, byte) list, bundles and streams of the stores (R188). -/
  | writeback (block map line : Nat) (bytes : List (Nat × Byte)) (bundles streams : List Nat)
  /-- STMAP's status on its way (R169). -/
  | stmap (dst : Nat) (desc : List Word)
  /-- FPUT, FPUTT, FGET (R253, R254): sub-op, destination, value. -/
  | future (sub dst : Nat) (value : Word)
  /-- OBJREG and OBJRST (R258, R259). -/
  | object (reset : Bool) (dst : Nat)
  /-- CALLO (R260): destination, arguments. -/
  | call (dst : Nat) (args : List Word)
  /-- PWENQ (R409): destination, descriptor. -/
  | pwenq (dst : Nat) (desc : List Byte) (payload packet : List Byte)
  /-- NODE.IN (R227): destination, grid, box, offset. -/
  | nodeIn (dst grid box off : Nat)
  /-- NODE.UP and NODE.DN (R228, R229): grid, box, offset, data. -/
  | nodeWrite (grid : Nat) (box : Option Nat) (off : Nat) (data : Word)
  /-- WREC (R384): node, record. -/
  | wrec (die node : Nat) (words : List Word)
  deriving DecidableEq, Repr

/-- How far a request has come. -/
inductive Phase where
  /-- Issued; a store is in its bundle's queue (R147). -/
  | issued
  /-- A store in the write-through buffer (R148); a request on its way to its home. -/
  | sent
  /-- Applied at its home, its answer under way: write time and lapse clocks for a store, a status or result otherwise. -/
  | done (wts lapseDie lapsePkg : Nat) (result : List Word)
  /-- A waiter queued at the future's home (R254). -/
  | waiting
  deriving DecidableEq, Repr

/-- An outstanding request of a thread (R149, R188). Requests stand in the order of their issue. -/
structure Req where
  id : Nat
  /-- The issued instruction it belongs to (R147: one store-queue entry). -/
  entry : Nat
  core : Nat
  bundle : Nat
  lane : Nat
  /-- Further lanes of the bundle that it serves (R239). -/
  also : List Nat := []
  stream : Nat
  kind : ReqKind
  place : Place
  ea : DWord
  size : Nat
  pc : DWord
  phase : Phase := .issued
  copy : Option Copy := none
  /-- Arrival at an owned or locked line (R200): held in this order. -/
  held : Option Nat := none
  /-- Consecutive negative acknowledgements, and the clock of its resend while dropped (R156). -/
  naks : Nat := 0
  resend : Option Nat := none
  /-- The die boundary, from and to, whose queue dropped it (R156). -/
  link : Option (Nat × Nat) := none
  /-- What a future operation's destination held before it became pending (R253). -/
  old : Reg := {}
  /-- When a write-with-enqueue was sent (R409). -/
  sentAt : Nat := 0
  tx : Bool := false
  /-- Bytes of a transactional load that its write set held at issue (R244), or of a load that another lane of its instruction
  has bound (R150): offset and byte. -/
  own : List (Nat × Byte) := []
  issued : Nat := 0
  issuedTime : DWord := 0
  retired : Nat := 0
  deriving DecidableEq, Repr

/-- A line at its home slice (R153, R200, R246, R249, R204). -/
structure Line where
  line : Nat
  wts : Nat := 0
  rts : Nat := 0
  lapse : Nat := 0
  remote : Nat := 0
  owner : Option Nat := none
  lock : Option (Nat × Nat) := none
  /-- The irrevocable transactions that it is registered for, the earliest first (R249). -/
  irr : List (Nat × Nat) := []
  deriving DecidableEq, Repr

/-- A core: logical time, L1 copies, issue pipes (R61 to R63, R152, R153), ring (R281, R282). -/
structure Core where
  ctime : Nat := 0
  /-- The clock of the last tick of ctime (R153). -/
  tick : Nat := 0
  l1 : List Copy := []
  /-- The bundle that issued last and the end of its issue interval, for each of the four pipes. -/
  pipes : List (Nat × Nat) := List.replicate 4 (0, 0)
  ringHolder : Option Nat := none
  slotCode : Nat := 0
  /-- For each slot, none when free, else the shape of its share: rows, columns, type code; and its place in taking order. -/
  slots : List (Option (Nat × Nat × Nat × Nat)) := []
  head : Nat := 0
  ringMem : Mem := []
  /-- Load lanes counted for sampling (R418). -/
  sampled : Nat := 0
  deriving DecidableEq, Repr

/-- A 4-byte word as it was before a store that an engine's running command may or may not have read (R199): in a block's scratchpad, or
in global memory. -/
structure OldWord where
  block : Option Nat
  at_ : Nat
  bytes : List Byte
  deriving DecidableEq, Repr

/-- What a tile command is (R284, R305): words, operands already read. -/
structure Tile where
  id : Nat
  block : Nat
  bundle : Nat
  lane : Nat
  core : Nat
  pc : DWord
  sparse : Bool
  words : List Word
  /-- Register operands read at issue: stored rows as words, for A and for B (R286). -/
  regsA : List (List Word) := []
  regsB : List (List Word) := []
  /-- The scratchpad descriptors wR, wR+1 of A and of B (R285). -/
  descA : Word × Word := (0, 0)
  descB : Word × Word := (0, 0)
  cost : Nat
  granted : Bool := false
  issued : Bool := false
  /-- The slot on each span core, in span order. -/
  slots : List Nat := []
  order : Nat := 0
  threshold : Nat := 40
  pa : Nat := 0
  /-- For MSPT: 0 on its way, 1 waits on a compile, 2 bound sparse, 3 bound dense, 4 failed, 5 failed and reported. -/
  bind : Nat := 0
  /-- When it reached the Carver and began to wait for a compile: the first to wait for a tile starts its compile (R309). -/
  came : Nat := 0
  /-- The detail of a failure: check number and row (R311). -/
  failed : Nat := 0
  /-- Structure bytes of the micro-program it is bound to, and the name of its entry. -/
  program : List Byte := []
  prog : Nat := 0
  /-- Operand words that it may still read as they were (R199). -/
  olds : List OldWord := []
  /-- Value words that it has read, by number, and words of its expansion area that have landed (R308, R310). -/
  vals : List (Nat × List Byte) := []
  landed : List Nat := []
  /-- Negative acknowledgements on its way to the Carver, and its resend (R156). -/
  naks : Nat := 0
  resend : Option Nat := none
  deriving DecidableEq, Repr

/-- A PART in the Parting queue (R292, R294). -/
structure PartCmd where
  id : Nat
  block : Nat
  bundle : Nat
  lane : Nat
  core : Nat
  pc : DWord
  words : List Word
  slot : Nat
  order : Nat
  /-- Rows, columns and accumulator type of the share it reads. -/
  shape : Nat × Nat × Nat := (0, 0, 10)
  /-- Destination lines registered, and those of them written (R200). -/
  lines : List Nat := []
  written : List Nat := []
  /-- The highest write time of its lines. -/
  wts : Nat := 0
  /-- Source words that it may still read as they were (R199). -/
  olds : List OldWord := []
  /-- Elements that it has computed: number, code and residue (R294); scratchpad words of its destination that have landed (R295). -/
  done : List (Nat × Nat × Nat) := []
  landed : List Nat := []
  deriving DecidableEq, Repr

/-- A copy in flight: ACP (R179), or a COPY packet (R402). -/
structure CopyCmd where
  id : Nat
  block : Nat
  bundle : Nat
  lane : Nat
  stream : Nat
  pc : DWord
  src : Nat
  valid : Nat
  off : Nat
  tag : Nat
  b : Bool
  ea : DWord := 0
  /-- The package of a source in a peer's memory. -/
  peer : Option Nat := none
  /-- For a packet: destination address, bytes and packet; the lines it owns. -/
  packet : Option (Nat × Nat × Nat) := none
  lines : List Nat := []
  written : List Nat := []
  /-- Source words that it may still read as they were (R199). -/
  olds : List OldWord := []
  deriving DecidableEq, Repr

/-- An ACB command (R182). -/
structure AcbCmd where
  id : Nat
  block : Nat
  bundle : Nat
  lane : Nat
  stream : Nat
  pc : DWord
  src : Nat
  left : Nat
  buf : Nat
  tag : Nat
  b : Bool
  desc : List Word
  /-- The slot it has reserved and not yet committed (R182). -/
  slot : Option Nat := none
  /-- Source words that it may still read as they were (R199). -/
  olds : List OldWord := []
  deriving DecidableEq, Repr

/-- A saved block (R338 to R343): its bundles and handlers, the address of its record, the ring it held, and its stopped
commands (R300, R316). -/
structure Saved where
  block : Block
  bundles : List Bundle
  addr : DWord
  size : Nat
  ring : Option SavedRing := none
  acbs : List AcbCmd := []
  tiles : List Tile := []
  parts : List PartCmd := []
  /-- The logical time that its late results have reached (R153, R268). -/
  time : Nat := 0
  /-- A result has landed since the record was last written (R97). -/
  stale : Bool := false
  deriving DecidableEq, Repr

/-- A Carver cache entry (R307 to R313): its name, and the physical address of the tile's header line. -/
structure CarverEntry where
  id : Nat
  die : Nat
  pa : Nat
  lines : List Nat
  dense : Bool := false
  ops : Nat := 0
  compiling : Bool := true
  restarts : Nat := 0
  bound : Nat := 0
  threshold : Nat := 40
  structure_ : List Byte := []
  deriving DecidableEq, Repr

/-- A registered object (R257 to R259). -/
structure Obj where
  id : Nat
  desc : Nat
  partition : Nat
  die : Nat
  method : DWord
  stateAddr : Nat
  stateLen : Nat
  args : Nat
  replies : Nat
  capacity : Nat
  gather : Nat
  codeLen : Nat
  broken : Bool := false
  xlat : List Xlat := []
  deriving DecidableEq, Repr

/-- A CALLO request at its object's home (R262): arrival order and clock, and the logical time of its release (R268). -/
structure Call where
  id : Nat
  obj : Nat
  req : Nat
  core : Nat
  args : List Word
  arrived : Nat
  time : Nat := 0
  deriving DecidableEq, Repr

/-- A combiner wave (R263 to R266). -/
structure Wave where
  id : Nat
  obj : Nat
  /-- Its bundle; 0 while it is formed and waits for one (R263). -/
  bundle : Nat
  calls : List Call
  /-- The block-scope state of the wave: streams, barriers, block registers (R264). -/
  blk : Block
  abort : Option (Nat × Trap × DWord) := none
  deriving DecidableEq, Repr

/-- A line that an L2 slice holds, homed there or copied from another die: its placement class (R155), and the isolated partition,
plus one, whose ways it takes, or 0 (R17). -/
structure L2Line where
  line : Nat
  policy : Nat := 0
  part : Nat := 0
  deriving DecidableEq, Repr

/-- What a die has received of a line homed on another (R154, R191): the write time at home of the newest store its copies have taken,
the write time that store has among the die's own, and the highest logical time of the leases granted from them. -/
structure DieLine where
  line : Nat
  home : Nat := 0
  wts : Nat := 0
  rts : Nat := 0
  deriving DecidableEq, Repr

/-- A die's Headstock, Lathe, Clamp and L2 state. -/
structure Die where
  /-- The lines in its L2 slices, in the order of their last use, the newest first (R155, R157). -/
  l2 : List L2Line := []
  /-- The bytes and times of its copies of lines homed on other dies (R154). -/
  copies : List Copy := []
  received : List DieLine := []
  /-- Back-off base (R156). -/
  backoff : Nat := 32
  /-- Turn token: holder, and the waiting threads, oldest first (R249). -/
  turn : Option (Nat × Nat) := none
  turnQueue : List (Nat × Nat) := []
  /-- Token pool P and free tokens (R298). -/
  pool : Nat := 2560
  free : Int := 2560
  /-- Requests for tokens, oldest first: tile commands. -/
  tokenQueue : List Nat := []
  /-- Combiner bundles' cores, chosen at bring-up (R263). -/
  combinerCores : List Nat := []
  thermal : List (BitVec 16) := List.replicate 24 0
  voltage : List (BitVec 16) := List.replicate 8 0
  process : List (BitVec 16) := List.replicate 4 0
  /-- The hottest reading since the last read; none before the next refresh. -/
  hottest : Option (BitVec 16) := none
  refresh : Nat := 0
  refreshClk : Nat := 0
  throttled : Bool := false
  shutDown : Bool := false
  outOfRange : Bool := false
  /-- Since when each voltage monitor has been out of its range, by refreshes (R435). -/
  voltSince : List (Option Nat) := List.replicate 8 none
  deriving DecidableEq, Repr

/-- A work-graph node (R383 to R385). -/
structure WNode where
  id : Nat
  die : Nat
  index : Nat
  partition : Nat
  tcb : DWord := 0
  words : Nat
  timer : Nat
  program : Program
  xlat : List Xlat
  /-- Gathered records with the clock of their arrival, oldest first: the gather buffer and backlog. -/
  records : List (Nat × List Word) := []
  /-- The packet that removes it, or installs it. -/
  removing : Option Nat := none
  packet : Nat := 0
  /-- The class and privilege of its packet's queue. -/
  cls : Nat := 0
  priv : Bool := false
  installed : Bool := false
  deriving DecidableEq, Repr

/-- A barrier network's running phase (R186, R380): partition, network, barrier number, and gang or named number. -/
structure Net where
  partition : Nat
  network : Nat
  bar : Nat
  number : Nat
  count : Nat
  /-- Blocks whose arrival has reached the network, with their monitors' sums (R354). -/
  arrived : List (Nat × List (Option (Int × Int)))
  /-- Whether some thread of a block that has arrived entered the phase with BAR.CHK (R352). -/
  checking : Bool := false
  deriving DecidableEq, Repr

/-- Where a task stands. -/
inductive TaskPhase where
  | waiting
  | leasing
  | paging (page : Nat)
  | ready
  | running
  | saved
  | parked
  | done
  deriving DecidableEq, Repr

/-- What launched a task. -/
inductive TaskKind where
  | plain
  | node (grid index sweep billet : Nat)
  | work (wnode : Nat)
  /-- The lease that a WNODE packet's installation waits for (R383). -/
  | install (wnode : Nat)
  /-- The lease of a tree grid's own areas (R210). -/
  | lathe (grid : Nat)
  deriving DecidableEq, Repr

/-- A task (R361 to R371). -/
structure Task where
  id : Nat
  tid : Nat
  partition : Nat
  /-- Its queue's class (R393). -/
  cls : Nat
  packet : Nat
  kind : TaskKind
  index : Nat
  tcb : DWord
  program : Program
  arg : DWord
  priv : Bool := false
  phase : TaskPhase := .waiting
  /-- Dependence counter: earlier units it waits for (R373); for a tracked unit, its name, scope and order. -/
  deps : List Nat := []
  unit : Option (Nat × Nat × Nat) := none
  xlat : List Xlat := []
  leased : Bool := false
  gang : Option (Nat × Nat) := none
  records : List (List Word) := []
  order : Nat := 0
  fault : Option (Trap × DWord) := none
  /-- The clock at which it first found no room (R395). -/
  since : Option Nat := none
  singleStep : Bool := false
  restart : Bool := false
  /-- Its block was launched and a flush took it off its core: it is launched again (R340). -/
  flushed : Bool := false
  /-- The scope of the FENCE.AR after which its threads start, 0 none (R231, R376, R382, R385, R404). -/
  acq : Nat := 0
  /-- Its declared ranges and code range as leased: what its continuations stay inside (R382). -/
  all : List Range := []
  /-- The core, allotment and scratchpad kept for a continuation (R163, R382). -/
  kept : Option (Nat × Nat × Mem) := none
  /-- The core of a gang member, to which a requeued one returns. -/
  spot : Option Nat := none
  deriving DecidableEq, Repr

/-- A dependence entry (R372 to R375); scope names the queue, or the grid. -/
structure Dep where
  die : Nat
  unit : Nat
  scope : Nat
  range : Range
  order : Nat
  deriving DecidableEq, Repr

/-- A rename version (R374): pages taken for a range by a unit of a scope, or those installed before the first renaming. -/
structure Version where
  id : Nat
  partition : Nat
  scope : Nat
  unit : Nat
  order : Nat
  base : Nat
  len : Nat
  /-- The frames of its pages; none for the page that stood in the table before, until a later version is installed there. -/
  frames : List Nat
  installed : Bool := false
  /-- A block of its unit was cancelled: it is discarded when the unit ends (R370). -/
  cancelled : Bool := false
  deriving DecidableEq, Repr

/-- A packet taken and not yet completed (R404). -/
structure Packet where
  id : Nat
  slot : Nat
  partition : Nat
  die : Nat
  index : Nat
  bytes : List Byte
  /-- Its queue's control block, class and privilege (R393). -/
  qcb : DWord := 0
  cls : Nat := 0
  priv : Bool := false
  /-- The scope of the FENCE.AR that its threads start after, 0 none (R404, R409). -/
  acq : Nat := 0
  /-- Body work left: tasks or other units outstanding. -/
  left : Nat := 0
  status : Option (Nat × Nat × DWord × Nat) := none
  started : Bool := false
  signalOk : Bool := true
  /-- When its work ended, among packets, and whether that was in a gap between leaders (R412). -/
  seq : Nat := 0
  gap : Bool := false
  /-- The %time at which its work ended: that of its record where it ended in a gap (R405, R412). -/
  ended : Nat := 0
  /-- The program of the TCB that a WNODE packet names, read when the packet was taken (R383, R450). -/
  wnode : Option Program := none
  deriving DecidableEq, Repr

/-- A lease of a span by the Headstock (R366, R450): who holds it, and the translation it was taken with. -/
structure Lease where
  partition : Nat
  page : Nat
  size : Nat
  holder : Nat
  xlat : List Xlat := []
  deriving DecidableEq, Repr

/-- A store of the Headstock, a host or a peer: the partition whose later acquirers see it, its bytes by address, and the ring whose
record it ends: 0 sample, 1 trace, 2 exit, 3 event, 4 fault. -/
structure HeldStore where
  part : Option Nat
  bytes : List (Nat × Byte)
  ring : Option Nat := none
  /-- The virtual address of a record whose page is moving (R450); its bytes are then by offset. -/
  va : Option Nat := none
  deriving DecidableEq, Repr

/-- A page being moved (R390). -/
structure Move where
  id : Nat
  partition : Nat
  va : Nat
  entry : Nat
  frm : Nat
  to_ : Nat
  size : Nat
  tier : Bool
  deriving DecidableEq, Repr

/-- A compressed page's slot in the zone, with its bytes (R389). -/
structure ZonePage where
  partition : Nat
  slot : Nat
  bytes : Mem
  deriving DecidableEq, Repr

/-- A named pipe of a gang (R377): producer and consumer, each a member and a buffer; base, slots, slot size. -/
structure Pipe where
  prod : Nat
  prodBuf : Nat
  cons : Nat
  consBuf : Nat
  base : Nat
  count : Nat
  size : Nat
  deriving DecidableEq, Repr

/-- A gang (R377, R378). -/
structure Gang where
  id : Nat
  partition : Nat
  tasks : List Nat
  pipes : List Pipe
  quad : Option Nat := none
  /-- The pipes' buffers, with the counters that both ends see. -/
  bufs : List Buf := []
  /-- Each member's barrier words (R380); none once it is cancelled. -/
  bars : List (List Word) := []
  deriving DecidableEq, Repr

/-- A box of a node in a billet's stack (R219, R222). -/
structure Box where
  id : Nat
  node : Nat
  size : Nat
  bytes : Mem
  spilled : Bool := false
  deriving DecidableEq, Repr

/-- A billet (R219 to R221). -/
structure Billet where
  id : Nat
  die : Nat
  segment : Nat
  root : Nat
  /-- Boxes, the top first. -/
  stack : List Box := []
  deriving DecidableEq, Repr

/-- A node record (R208). -/
structure NodeRec where
  index : Nat
  parent : Nat
  first : Nat
  count : Nat
  threads : Nat
  upb : Nat
  dnb : Nat
  arg : DWord
  sel : Nat
  ctl : Word
  deriving DecidableEq, Repr

/-- A node the walk has reached: its record and how far it has come. -/
structure NodeState where
  node : NodeRec
  billet : Nat
  depth : Nat
  ordinal : Nat
  /-- Bytes of its own up and down slots: its parent's upb and dnb; the result bytes and 0 for the root (R226). -/
  myup : Nat
  mydn : Nat
  /-- Reached by the walk: its children are met. -/
  entered : Bool := false
  /-- Its box has been pushed (R216, R217). -/
  boxed : Bool := false
  /-- Its task has been made ready. -/
  launched : Bool := false
  /-- Its block has completed. -/
  ran : Bool := false
  /-- It and its subtree are complete. -/
  complete : Bool := false
  deriving DecidableEq, Repr

/-- A tree grid (R210, R216 to R222, R233). -/
structure Grid where
  id : Nat
  packet : Nat
  partition : Nat
  desc : List Byte
  arg : DWord
  /-- Sweep under way: 1 up, 2 down, 3 leaves. -/
  sweep : Nat
  stride : Nat
  segments : Nat
  dieSet : List Nat
  nodes : List NodeState := []
  billets : List Billet := []
  /-- What the root's NODE.UP has written of its result: offset and byte, newest last (R230). -/
  rootWrites : List (Nat × Byte) := []
  xlat : List Xlat := []
  /-- The end decided: status, cause, detail, task id. -/
  ended : Option (Nat × Nat × DWord × Nat) := none
  leased : Bool := false
  deriving DecidableEq, Repr

/-- A queue slot (R393, R398, R399). -/
structure Slot where
  qcb : DWord := 0
  mapped : Bool := false
  error : Bool := false
  borrowed : Bool := false
  lastRefused : Bool := false
  partition : Nat := 0
  cls : Nat := 0
  priv : Bool := false
  base : Nat := 0
  log2 : Nat := 4
  readIdx : Nat := 0
  writeIdx : Nat := 0
  order : Nat := 0
  /-- Indices of packets that a write-with-enqueue placed (R409). -/
  pushed : List Nat := []
  /-- A packet with the barrier bit has been taken: later packets start after its completion (R404). -/
  barred : Bool := false
  /-- A map request of a partition that waits for a migrating page (R399, R450). -/
  wants : Option (DWord × Nat) := none
  deriving DecidableEq, Repr

/-- An observation ring's registers (R416, R420): base, size, write and read index, records lost, suspended. -/
structure Ring where
  base : DWord := 0
  size : Nat := 0
  write : Nat := 0
  read : Nat := 0
  lost : Nat := 0
  suspended : Bool := false
  deriving DecidableEq, Repr

/-- An external input that a deterministic partition holds to its next boundary (R425). -/
inductive Input where
  /-- With the partition that the window register names at the time of the write (R399). -/
  | queueMap (partition slot : Nat) (qcb : DWord)
  | queueUnmap (slot : Nat)
  | queueReset (slot : Nat)
  | doorbell (slot value : Nat)
  | pagingDoorbell (partition : Nat)
  | requeue (partition : Nat) (task : Word)
  | cancel (partition : Nat) (task : Word)
  | faultRead (partition value : Nat)
  | command (partition value : Nat)
  | register (offset : Nat) (value : DWord)
  /-- A write of some bytes of the control window (R397, R398), with the partition that the window register names then. -/
  | window (partition offset size : Nat) (value : DWord)
  /-- An inbound access of a host or peer (R391). -/
  | access (op partition source : Nat) (va : DWord) (size : Nat) (data : List Byte)
  /-- A write-with-enqueue at its target, and its reply at the initiator (R409). -/
  | enqueue (op pkg partition : Nat) (desc payload packet : List Byte)
  | enqueueReply (op code : Nat) (page : DWord)
  | noReply (op : Nat)
  /-- A peer's reply to a request (R162): the bytes it read, and the words it answers. -/
  | reply (op : Nat) (data : List Byte) (words : List Word)
  /-- A peer's failure of a load, and its refusal of a store, with the status. -/
  | failed (op : Nat) (status : BitVec 16)
  | refused (op : Nat) (status : BitVec 16)
  /-- The bytes that a copy engine's command reads at a peer, by the draw that fixes them. -/
  | copied (op draw : Nat)
  /-- A signal updated by another partition's packet (R404): stored, or added to, in this partition's memory. -/
  | signal (partition from_ pa : Nat) (add : Bool) (value : Nat)
  /-- Another package's arrival at a pod barrier (R186). -/
  | pod (partition bar number count peer draw : Nat)
  /-- A change of the effective cap, and so of P (R298, R433). -/
  | pool (value : Nat)
  | preempt (block : Nat)
  /-- An input as the log keeps it: what it names by its place among the partition's, which a re-execution finds again (R426, R428). -/
  | nth (i : Input)
  deriving DecidableEq, Repr

/-- A message that leaves the package: MSI-X vector, an answer to a host or peer access, a packet to a peer. -/
inductive Message where
  | msix (vector : Nat)
  | answer (op : Nat) (ok : Bool) (data : List Byte)
  /-- The answer to a read of the control window. -/
  | window (offset : Nat) (data : List Byte)
  | peer (pkg : Nat) (data : List Byte)
  | lockstep (link : Nat) (data : List Byte)
  | jtag (data : List Byte)
  /-- An input that a lockstep primary sends to its secondary (R429). -/
  | inputs (link : Nat) (i : Input)
  /-- A block's arrival at a pod barrier, for the other packages (R5, R186, R354): partition, barrier, instance, participants, whether
  its phase checks, and its monitors' sums. -/
  | barrier (partition bar number count : Nat) (checking : Bool) (sums : List (Option (Int × Int)))
  deriving DecidableEq, Repr

/-- An inbound host or peer access (R391, R410). -/
structure Inbound where
  id : Nat
  partition : Nat
  va : DWord
  size : Nat
  write : Option (List Byte)
  host : Bool
  pkg : Nat
  arrived : Nat
  /-- The descriptor and the packet of a peer's write-with-enqueue (R409), whose payload it writes. -/
  enqueue : Option (List Byte × List Byte) := none
  deriving DecidableEq, Repr

/-- The registers and tables of a partition that its own running changes (R368, R374, R407, R416). -/
structure PartRun where
  nextTask : Nat := 1
  fqRead : Nat := 0
  fqWrite : Nat := 0
  fqHeld : List (List Byte) := []
  evRead : Nat := 0
  evWrite : Nat := 0
  evLost : Nat := 0
  evHeld : List (List Byte) := []
  evPending : Nat := 0
  evOldest : Option Nat := none
  renameFree : List Nat := []
  seen : Nat := 0
  lastCmd : Word := 0
  requeues : List Word := []
  pool : Option Nat := none
  sample : Ring := {}
  trace : Ring := {}
  exits : Ring := {}
  faultAddr : DWord := 0
  traceCount : Nat := 0
  deriving DecidableEq, Repr

/-- What a checkpoint keeps of a partition (R426), and a rollback restores (R428): its blocks, and with them what else must be
equal for the partition to run again as it did (R425). -/
structure Snapshot where
  blocks : List Block := []
  bundles : List Bundle := []
  saved : List Saved := []
  tasks : List Task := []
  packets : List Packet := []
  gangs : List Gang := []
  grids : List Grid := []
  deps : List Dep := []
  wnodes : List WNode := []
  reqs : List Req := []
  copies : List CopyCmd := []
  acbs : List AcbCmd := []
  tiles : List Tile := []
  parts : List PartCmd := []
  nets : List Net := []
  objects : List Obj := []
  calls : List Call := []
  waves : List Wave := []
  cores : List (Nat × Core) := []
  slots : List (Nat × Slot) := []
  versions : List Version := []
  leases : List Lease := []
  moves : List Move := []
  zone : List ZonePage := []
  inbound : List Inbound := []
  lines : List Line := []
  run : PartRun := {}
  deriving DecidableEq, Repr

/-- A logged interval (R426): snapshot, undo log (line and prior bytes, newest first), and for each of its boundaries the number,
the %time sampled there and the inputs applied (R425). -/
structure Interval where
  number : Nat
  snapshot : Snapshot
  undo : List (Nat × List Byte) := []
  inputs : List (Nat × Nat × List Input) := []
  /-- The boundary it began at, and the %time sampled there. -/
  start : Nat := 0
  time : Nat := 0
  /-- Where its snapshot's context records lie in the log area, and their bytes. -/
  at_ : Nat := 0
  len : Nat := 0
  /-- Stores in home-slice arrival order: slice, and address with bytes (R429). -/
  stores : List (Nat × List Byte) := []
  deriving DecidableEq, Repr

/-- A partition's registers and tables (R16 to R19, R400, R416, R368, R407, R424 to R429). -/
structure Partition where
  mode : Nat := 0
  quads : List Nat := []
  ways : Nat := 0
  channels : Nat := 0
  nextTask : Nat := 1
  root : DWord := 0
  vector : DWord := 0
  /-- The leased handler range of R323, by translation entries (R450). -/
  handlers : List Xlat := []
  fqBase : DWord := 0
  fqCap : Nat := 0
  fqRead : Nat := 0
  fqWrite : Nat := 0
  fqHeld : List (List Byte) := []
  evBase : DWord := 0
  evSize : Nat := 0
  evRead : Nat := 0
  evWrite : Nat := 0
  evLost : Nat := 0
  evHeld : List (List Byte) := []
  evPending : Nat := 0
  evOldest : Option Nat := none
  coalesceN : Nat := 1
  coalesceT : Nat := 0
  vectorNo : Nat := 0
  savePool : DWord := 0
  saveSize : DWord := 0
  renamePool : DWord := 0
  renamePages : Nat := 0
  /-- Free frames of the rename pool (R374). -/
  renameFree : List Nat := []
  /-- The highest logical time of a core that has completed a block of the partition. -/
  seen : Nat := 0
  zoneBase : DWord := 0
  zoneSize : Nat := 0
  cold : Nat := 100
  drainThr : Nat := 875
  restartThr : Nat := 250
  drainLimit : Nat := 20
  lastCmd : Word := 0
  /-- The token pool P in force for a deterministic partition until its next input boundary, and after it (R425, R433). -/
  pool : Option Nat := none
  /-- Requeue commands that wait for a page of their TCB (R370, R450). -/
  requeues : List Word := []
  control : Word := 0
  period : Nat := 0
  sample : Ring := {}
  trace : Ring := {}
  exits : Ring := {}
  faultAddr : DWord := 0
  traceLow : Nat := 0
  traceHigh : Nat := 0
  traceCount : Nat := 0
  k : Nat := 12
  m : Nat := 22
  logBase : DWord := 0
  logSize : DWord := 0
  interval : Nat := 0
  boundary : Nat := 0
  boundaryClk : Nat := 0
  boundaryTime : Nat := 0
  logs : List Interval := []
  inputs : List Input := []
  mark : Nat × Nat × Nat := (0, 0, 0)
  /-- A stop at a mark under way, and the retired count to reach. -/
  stopping : Option (Nat × Nat) := none
  /-- Boundaries still to be run again after a rollback (R428), and whether what leaves has been sent before. -/
  replay : List (Nat × Nat × List Input) := []
  quiet : Bool := false
  obsResult : Word := 0
  failStopped : Bool := false
  stopReached : Bool := false
  link : Nat := 0
  partner : Nat := 0
  mismatch : Bool := false
  /-- Its own hashes that await the partner's, oldest first, with their intervals and the clocks they were sent; and the partner's that
  await its own (R429). -/
  hashes : List (Nat × List Byte × Nat) := []
  theirs : List (List Byte) := []
  /-- Output held for the hashes, with its interval (R429). -/
  heldOut : List (Nat × Message) := []
  deriving DecidableEq, Repr

/-- A peer mapping (R162, R391): virtual range of a partition that another package serves. -/
structure PeerMap where
  partition : Nat
  base : Nat
  len : Nat
  pkg : Nat
  deriving DecidableEq, Repr

/-- What the follower of PRED or EXT inherits (R46, R47). -/
inductive Pfx where
  | none
  | pred
  | ext (imm : BitVec 20)
  deriving DecidableEq, Repr

/-- The issue group being executed (R61): its bundle, its lanes and those of them that are active, the address it stands at and
the address of the instruction itself (they differ after a PRED or an EXT), that instruction's size and word. -/
structure Group where
  bundle : Nat
  lanes : List Nat
  active : List Nat
  start : DWord
  ipc : DWord
  size : Nat
  word : Nat
  pfx : Pfx := .none
  /-- Lanes whose instruction finds a soft error, with the structure (R321): they leave the group. -/
  hits : List (Nat × Nat) := []
  deriving DecidableEq, Repr

/-- Whose move it is. -/
inductive Turn where
  | clk
  | pipe (core pipe : Nat)
  | event (e : Instr)
  /-- The environment corrupts what a thread's next instruction uses (R321): bundle, lane, structure. -/
  | soft (bundle lane detail : Nat)
  deriving DecidableEq, Repr, Inhabited

/-- FREE VALUE (log entry 5): whose move it is when the agenda names none, by the number of the turn. -/
opaque nextTurn : Nat → Turn

/-- The package. -/
structure State where
  bringup : Nat
  clk : Nat
  frozen : Bool
  pkg : Nat
  mem : Mem
  lines : List Line
  cores : List Core
  dies : List Die
  bundles : List Bundle
  blocks : List Block
  saved : List Saved
  reqs : List Req
  copies : List CopyCmd
  acbs : List AcbCmd
  tiles : List Tile
  parts : List PartCmd
  carver : List CarverEntry
  objects : List Obj
  calls : List Call
  waves : List Wave
  wnodes : List WNode
  nets : List Net
  tasks : List Task
  deps : List Dep
  versions : List Version
  packets : List Packet
  leases : List Lease
  moves : List Move
  zone : List ZonePage
  gangs : List Gang
  grids : List Grid
  slots : List Slot
  partitions : List Partition
  /-- The partition table as written, and its result (R19). -/
  ptable : List (List Byte)
  presult : Nat
  /-- The checked table that waits to be installed. -/
  pnext : List (List Byte)
  /-- Leader register: die, valid, epoch, expiry (R411), and whether the new leader still takes over. -/
  leaderDie : Nat
  leaderValid : Bool
  epoch : Nat
  expiry : Nat
  takingOver : Bool
  /-- The slot served last in each class (R395). -/
  rotor : List Nat
  /-- Window register (R397). -/
  winPartition : Nat
  winBase : DWord
  /-- MSI-X (R397, R408): the vectors that are not masked, the pending ones, the table's address and data bytes. -/
  msixOpen : List Nat
  msixPending : List Nat
  msixTable : Mem
  inbound : List Inbound
  /-- Stores of the Headstock, hosts and peers held at their home line, oldest first (R200). -/
  heldStores : List HeldStore
  /-- When an agent last touched a frame of 64 KiB, by frame number (R389). -/
  touched : List (Nat × Nat)
  peerMaps : List PeerMap
  out : List Message
  /-- Power: cap, effective cap (R433), since when module power exceeds it, all monitors are cool, a voltage is out (R435). -/
  cap : Nat
  effCap : Nat
  /-- P as the Headstock last computed it (R298, R433). -/
  target : Nat
  overSince : Option Nat
  coolSince : Option Nat
  /-- Attestation (R438 to R441): signing index, identity signature with the bytes it covers, challenge, report and its status. -/
  signIdx : Nat
  idCovered : List Byte
  idSignature : List Byte
  challenge : List Byte
  report : List Byte
  reportStatus : Nat
  /-- A signature being made, whose index is stored already (R440): the index, and the challenge of a report, none for the identity. -/
  signing : Option (Nat × Option (List Byte))
  /-- Challenges that wait for the report being made (R441). -/
  challenges : List (List Byte)
  /-- Test port (R430). -/
  jtagUnit : BitVec 32
  jtagInstr : Byte
  jtagWord : Nat
  /-- The model's own: whose turn it is, the issue group, the counters that name records and draw free values. -/
  agenda : List Turn
  turnNo : Nat
  group : Option Group
  fresh : Nat
  draw : Nat
  deriving DecidableEq, Repr

/-- The default stream table (R142). -/
def defaultStreams : List Word := List.replicate 14 0x0000000C#32 ++ [0x00000001#32, 0x0000000C#32]

/-- The package right after reset (R437 step 1): no block, no queue, partition 0 shared with every quad (R19). Values the
spec states no reset for are named in log entries 1 to 4. -/
def State.reset : State :=
  { bringup := 1, clk := 0, frozen := false, pkg := 0, mem := [], lines := []
    cores := List.replicate 640 {}, dies := List.replicate 4 {}
    bundles := [], blocks := [], saved := [], reqs := [], copies := [], acbs := [], tiles := [], parts := [], carver := []
    objects := [], calls := [], waves := [], wnodes := [], nets := [], tasks := [], deps := [], versions := []
    packets := [], leases := [], moves := [], zone := [], gangs := [], grids := []
    slots := List.replicate 128 {}
    partitions := { mode := 1, quads := List.range 160 } :: List.replicate 7 {}
    ptable := (List.replicate 20 0xFF#8 ++ [1#8] ++ List.replicate 43 0#8) :: List.replicate 7 (List.replicate 64 0#8)
    presult := 0, pnext := [], leaderDie := 0, leaderValid := false, epoch := 0, expiry := 0, takingOver := false, rotor := List.replicate 4 127
    winPartition := 0, winBase := 0, msixOpen := [], msixPending := [], msixTable := [], inbound := [], heldStores := [], touched := [], peerMaps := []
    out := [], cap := 1800, effCap := 1800, target := 2560, overSince := none, coolSince := none
    signIdx := 0, idCovered := [], idSignature := [], challenge := [], report := [], reportStatus := 0, signing := none, challenges := []
    jtagUnit := 0, jtagInstr := 0, jtagWord := 0
    agenda := [], turnNo := 0, group := none, fresh := 1, draw := 0 }

end Sys2Proof.Machine
end

