-- ==== Sys2Proof/Machine/Flags.lean ====
section
/-! DEFINITION. Numbers and flags: the floating-point formats (R112 to R116), rounding into a format with its flags (R119 to
R123), NaN results (R122), exact sums (R127), and the arithmetic the instructions share (R129 to R134). -/

namespace Sys2Proof.Machine

/-- The sticky flags of %fflags (R121). -/
def flagNV : Word := 1
def flagDZ : Word := 2
def flagOF : Word := 4
def flagUF : Word := 8
def flagNX : Word := 16

/-- Rounding modes (R119). -/
inductive Rounding where
  | rne | rz | ru | rd | rna
  deriving DecidableEq, Repr

/-- The mode of a code of two bits (%fmode) or three (CVT). -/
def roundingOf (n : Nat) : Rounding :=
  if n = 0 then .rne else if n = 1 then .rz else if n = 2 then .ru else if n = 3 then .rd else .rna

/-- %fmode (R121). -/
structure FMode where
  rm : Rounding
  flush : Bool
  canon : Bool
  deriving DecidableEq, Repr

/-- The mode word's fields. -/
def fmodeOf (w : Word) : FMode := { rm := roundingOf (bits w.toNat 1 0), flush := bit w.toNat 2, canon := bit w.toNat 3 }

/-- A floating-point format (R112, R113): exponent and fraction bits, bias, largest finite magnitude code, whether it has
infinities, and its canonical NaN (none in d4). -/
structure Fmt where
  eb : Nat
  fb : Nat
  bias : Int
  top : Nat
  inf : Bool
  nan : Option Nat
  deriving DecidableEq, Repr

def f16 : Fmt := { eb := 5, fb := 10, bias := 15, top := 0x7BFF, inf := true, nan := some 0x7E00 }
def bf16 : Fmt := { eb := 8, fb := 7, bias := 127, top := 0x7F7F, inf := true, nan := some 0x7FC0 }
def f32 : Fmt := { eb := 8, fb := 23, bias := 127, top := 0x7F7FFFFF, inf := true, nan := some 0x7FC00000 }
def f64 : Fmt := { eb := 11, fb := 52, bias := 1023, top := 0x7FEFFFFFFFFFFFFF, inf := true, nan := some 0x7FF8000000000000 }
def d8a : Fmt := { eb := 4, fb := 3, bias := 8, top := 0x7E, inf := false, nan := some 0x7F }
def d8b : Fmt := { eb := 5, fb := 2, bias := 16, top := 0x7B, inf := true, nan := some 0x7E }
def d4 : Fmt := { eb := 2, fb := 1, bias := 2, top := 7, inf := false, nan := none }

/-- The format of a floating type code (R45). -/
def fmtOf (t : Nat) : Fmt :=
  if t = 8 then f16 else if t = 9 then bf16 else if t = 10 then f32 else if t = 11 then f64
  else if t = 12 then d8a else if t = 13 then d8b else d4

/-- Whether a format is one of the four IEEE formats, which flushing and signalling NaNs concern (R113, R123). -/
def Fmt.ieee (f : Fmt) : Bool := f.inf && !(f == d8b)

/-- The sign bit of a code. -/
def Fmt.signBit (f : Fmt) : Nat := 2 ^ (f.eb + f.fb)

/-- A code with a sign and a magnitude. -/
def Fmt.code (f : Fmt) (neg : Bool) (mag : Nat) : Nat := (if neg then f.signBit else 0) + mag

/-- A value: a NaN with its sign and its fraction left-aligned in 52 bits; an infinity; or (−1)^neg × m × 2^e. -/
inductive FVal where
  | nan (signalling neg : Bool) (frac : Nat)
  | inf (neg : Bool)
  | fin (neg : Bool) (m : Nat) (e : Int)
  deriving DecidableEq, Repr

/-- The value of a code (R113); a subnormal source reads as zero under flush (R123). -/
def Fmt.value (f : Fmt) (flush : Bool) (c : Nat) : FVal :=
  let neg := bit c (f.eb + f.fb)
  let mag := c % f.signBit
  let m := mag % 2 ^ f.fb
  let e := mag / 2 ^ f.fb
  if mag > f.top then
    if f.inf && mag == f.top + 1 then .inf neg
    else .nan (f.ieee && !(bit m (f.fb - 1))) neg (m * 2 ^ (52 - f.fb))
  else if e = 0 then (if flush && f.ieee then .fin neg 0 0 else .fin neg m (1 - f.bias - f.fb))
  else .fin neg (2 ^ f.fb + m) (e - f.bias - f.fb)

/-- A magnitude to round: m × 2^e, or between that and (m + 1) × 2^e when sticky. -/
structure Exact where
  neg : Bool
  m : Nat
  e : Int
  sticky : Bool := false
  deriving DecidableEq, Repr

/-- Round a magnitude to a multiple of 2^q; whether the result differs from it. -/
def Exact.roundAt (x : Exact) (q : Int) (rm : Rounding) : Nat × Bool :=
  if q ≤ x.e then (x.m * 2 ^ (x.e - q).toNat, x.sticky)
  else
    let d := (q - x.e).toNat
    let n := x.m / 2 ^ d
    let r := x.m % 2 ^ d
    let h := 2 ^ (d - 1)
    let inexact := decide (r ≠ 0) || x.sticky
    let up := match rm with
      | .rne => decide (h < r) || (decide (r = h) && (x.sticky || n % 2 == 1))
      | .rz => false
      | .ru => inexact && !x.neg
      | .rd => inexact && x.neg
      | .rna => decide (h ≤ r)
    (if up then n + 1 else n, inexact)

/-- Whether a mode rounds a value of a sign towards zero. -/
def Rounding.truncates (rm : Rounding) (neg : Bool) : Bool := match rm with
  | .rz => true
  | .rd => !neg
  | .ru => neg
  | _ => false

/-- The result of an overflow, or of an infinite source, into a format (R119). -/
def Fmt.overflowed (f : Fmt) (rm : Rounding) (sat neg : Bool) : Nat :=
  f.code neg (if f.inf && !sat && !(rm.truncates neg) then f.top + 1 else f.top)

/-- Round a finite value into a format (R119 to R121), flushing a subnormal result when asked (R123). -/
def Fmt.round (f : Fmt) (rm : Rounding) (sat flush : Bool) (x : Exact) : Nat × Word :=
  if x.m = 0 ∧ !x.sticky then (f.code x.neg 0, 0)
  else
    let top : Int := x.m.log2 + x.e
    let emin : Int := 1 - f.bias
    let q := max (top - f.fb) (emin - f.fb)
    let r := x.roundAt q rm
    let mag := (r.1 + (q + f.fb + f.bias - 1) * 2 ^ f.fb).toNat
    if mag > f.top then (f.overflowed rm sat x.neg, flagOF ||| flagNX)
    else
      let tiny := decide (top < emin) && !(top == emin - 1 && (x.roundAt (top - f.fb) rm).1 == 2 ^ (f.fb + 1))
      if flush && f.ieee && decide (mag ≠ 0) && decide (mag < 2 ^ f.fb) then (f.code x.neg 0, flagUF ||| flagNX)
      else (f.code x.neg mag, if r.2 then (if tiny then flagUF ||| flagNX else flagNX) else 0)

/-- An infinite value into a format (R119). -/
def Fmt.infinite (f : Fmt) (sat neg : Bool) : Nat × Word :=
  if f.inf && !sat then (f.code neg (f.top + 1), 0) else (f.code neg f.top, flagOF ||| flagNX)

/-- A NaN value into a format, when it propagates: sign and high fraction bits kept, quiet bit set. -/
def Fmt.quiet (f : Fmt) (neg : Bool) (frac : Nat) : Nat :=
  let m := frac / 2 ^ (52 - f.fb) % 2 ^ f.fb
  f.code neg (f.top + 1 + if bit m (f.fb - 1) then m else m + 2 ^ (f.fb - 1))

/-- The canonical NaN of a format; d4, which has none, gives +0 and NV (R119). -/
def Fmt.canonical (f : Fmt) : Nat × Word := match f.nan with
  | some c => (c, 0)
  | none => (0, flagNV)

/-- Whether a value is a NaN, or a signalling one. -/
def FVal.isNan : FVal → Bool
  | .nan _ _ _ => true
  | _ => false
def FVal.isSig : FVal → Bool
  | .nan s _ _ => s
  | _ => false
def FVal.isInf : FVal → Bool
  | .inf _ => true
  | _ => false
def FVal.isZero : FVal → Bool
  | .fin _ m _ => m == 0
  | _ => false
def FVal.neg : FVal → Bool
  | .nan _ n _ => n
  | .inf n => n
  | .fin n _ _ => n

/-- The NaN result of an operation whose sources are given in order (R122). -/
def Fmt.nanOf (f : Fmt) (canon : Bool) (srcs : List FVal) : Nat × Word :=
  let nv := if srcs.any FVal.isSig then flagNV else 0
  match srcs.find? FVal.isNan with
  | some (.nan _ n fr) =>
    if canon || !(f.ieee) then (f.canonical.1, f.canonical.2 ||| nv) else (f.quiet n fr, nv)
  | _ => (f.canonical.1, flagNV)

/-- The exact sum of signed terms m × 2^e, as an integer in units of 2^q. -/
def sumAt (q : Int) : List (Bool × Nat × Int) → Int
  | [] => 0
  | (n, m, e) :: ts => (if n then -((m * 2 ^ (e - q).toNat : Nat) : Int) else ((m * 2 ^ (e - q).toNat : Nat) : Int)) + sumAt q ts

/-- The least exponent of some terms. -/
def minExp : List (Bool × Nat × Int) → Int → Int
  | [], q => q
  | (_, _, e) :: ts, q => minExp ts (min e q)

/-- The exact sum as a value to round; zero is what the caller gives the exact zero. -/
def exactSum (ts : List (Bool × Nat × Int)) (zeroNeg : Bool) : Exact :=
  let q := minExp ts 0
  let v := sumAt q ts
  if v = 0 then { neg := zeroNeg, m := 0, e := 0 } else { neg := decide (v < 0), m := v.natAbs, e := q }

/-- a × b, plus c where given, rounded once (R129, R130). srcs are the sources in the order of R122. -/
def Fmt.fma (f : Fmt) (md : FMode) (srcs : List FVal) (a b : FVal) (c : Option FVal) : Nat × Word :=
  let pneg := a.neg ^^ b.neg
  let badMul := (a.isInf && b.isZero) || (a.isZero && b.isInf)
  if srcs.any FVal.isNan then
    let r := f.nanOf md.canon srcs
    (r.1, if badMul then r.2 ||| flagNV else r.2)
  else if badMul then f.nanOf md.canon []
  else if a.isInf || b.isInf then match c with
    | some (.inf n) => if n == pneg then f.infinite false pneg else f.nanOf md.canon []
    | _ => f.infinite false pneg
  else match a, b, c with
    | .fin _ ma ea, .fin _ mb eb, none => f.round md.rm false md.flush { neg := pneg, m := ma * mb, e := ea + eb }
    | .fin _ _ _, .fin _ _ _, some (.inf n) => f.infinite false n
    | .fin _ ma ea, .fin _ mb eb, some (.fin nc mc ec) =>
      f.round md.rm false md.flush (exactSum [(pneg, ma * mb, ea + eb), (nc, mc, ec)]
        (if pneg == nc then pneg else md.rm == .rd))
    | _, _, _ => f.nanOf md.canon []

/-- One. -/
def FVal.one : FVal := .fin false 1 0

/-- The value with its sign inverted; a NaN is unchanged. -/
def FVal.negate : FVal → FVal
  | .nan s n fr => .nan s n fr
  | .inf n => .inf !n
  | .fin n m e => .fin (!n) m e

/-- Sum, difference and product of two codes (R129). -/
def Fmt.add (f : Fmt) (md : FMode) (a b : Nat) : Nat × Word :=
  f.fma md [f.value md.flush a, f.value md.flush b] (f.value md.flush a) .one (some (f.value md.flush b))
def Fmt.sub (f : Fmt) (md : FMode) (a b : Nat) : Nat × Word :=
  f.fma md [f.value md.flush a, f.value md.flush b] (f.value md.flush a) .one (some (f.value md.flush b).negate)
def Fmt.mul (f : Fmt) (md : FMode) (a b : Nat) : Nat × Word :=
  f.fma md [f.value md.flush a, f.value md.flush b] (f.value md.flush a) (f.value md.flush b) none

/-- The fused form of three codes (R130). -/
def Fmt.fmadd (f : Fmt) (md : FMode) (a b c : Nat) : Nat × Word :=
  f.fma md [f.value md.flush a, f.value md.flush b, f.value md.flush c] (f.value md.flush a) (f.value md.flush b)
    (some (f.value md.flush c))

/-- A code after the flush of its source. -/
def Fmt.flushed (f : Fmt) (flush : Bool) (c : Nat) : Nat :=
  if flush && f.ieee && decide (c % f.signBit < 2 ^ f.fb) then c - c % f.signBit else c

/-- The place of a code in the order of values, with −0 below +0. -/
def Fmt.rank (f : Fmt) (c : Nat) : Int :=
  if bit c (f.eb + f.fb) then -((c % f.signBit : Nat) : Int) - 1 else ((c % f.signBit : Nat) : Int)

/-- The min/max rule (R129). -/
def Fmt.pick (f : Fmt) (md : FMode) (greater : Bool) (a b : Nat) : Nat × Word :=
  let x := f.value md.flush a
  let y := f.value md.flush b
  let a := f.flushed md.flush a
  let b := f.flushed md.flush b
  let nv := if x.isSig || y.isSig then flagNV else 0
  if x.isNan && y.isNan then f.nanOf md.canon [x, y]
  else if x.isNan then (b, nv)
  else if y.isNan then (a, nv)
  else (if (if greater then decide (f.rank b ≤ f.rank a) else decide (f.rank a ≤ f.rank b)) then a else b, nv)

/-- Quotient of two values, correctly rounded (R132 to R134). -/
def Fmt.quot (f : Fmt) (md : FMode) (srcs : List FVal) (a b : FVal) : Nat × Word :=
  let neg := a.neg ^^ b.neg
  if srcs.any FVal.isNan then f.nanOf md.canon srcs
  else if (a.isZero && b.isZero) || (a.isInf && b.isInf) then f.nanOf md.canon []
  else if a.isInf then f.infinite false neg
  else if b.isInf then (f.code neg 0, 0)
  else match a, b with
    | .fin _ ma ea, .fin _ mb eb =>
      if mb = 0 then (f.code neg (f.top + 1), flagDZ)
      else f.round md.rm false md.flush
        { neg := neg, m := ma * 2 ^ 120 / mb, e := ea - eb - 120, sticky := decide (ma * 2 ^ 120 % mb ≠ 0) }
    | _, _ => f.nanOf md.canon []

/-- The integer square root, by n binary digits from the top. -/
def isqrtFrom : Nat → Nat → Nat → Nat
  | 0, _, r => r
  | n + 1, v, r => isqrtFrom n v (if (r + 2 ^ n) * (r + 2 ^ n) ≤ v then r + 2 ^ n else r)

/-- The integer square root of a number below 2^400. -/
def isqrt (v : Nat) : Nat := isqrtFrom 200 v 0

/-- Square root (R132, R134). -/
def Fmt.sqrt (f : Fmt) (md : FMode) (a : FVal) : Nat × Word :=
  match a with
  | .nan _ _ _ => f.nanOf md.canon [a]
  | .inf n => if n then f.nanOf md.canon [] else f.infinite false false
  | .fin n m e =>
    if m = 0 then (f.code n 0, 0)
    else if n then f.nanOf md.canon []
    else
      let v := (if e % 2 = 0 then m else 2 * m) * 2 ^ 128
      let r := isqrt v
      f.round md.rm false md.flush { neg := false, m := r, e := e / 2 - 64, sticky := decide (r * r ≠ v) }

/-- Reciprocal square root (R133, R134). -/
def Fmt.rsqrt (f : Fmt) (md : FMode) (a : FVal) : Nat × Word :=
  match a with
  | .nan _ _ _ => f.nanOf md.canon [a]
  | .inf n => if n then f.nanOf md.canon [] else (f.code false 0, 0)
  | .fin n m e =>
    if m = 0 then (f.code n (f.top + 1), flagDZ)
    else if n then f.nanOf md.canon []
    else
      let v := if e % 2 = 0 then m else 2 * m
      let r := isqrt (2 ^ 256 / v)
      f.round md.rm false md.flush { neg := false, m := r, e := -(e / 2) - 128, sticky := decide (r * r * v ≠ 2 ^ 256) }

/-- A value into a floating-point format (R119, R122, R123). -/
def Fmt.convert (f : Fmt) (rm : Rounding) (sat flush canon : Bool) (x : FVal) : Nat × Word :=
  match x with
  | .nan s n fr => f.nanOf canon [.nan s n fr]
  | .inf n => f.infinite sat n
  | .fin n m e => f.round rm sat flush { neg := n, m := m, e := e }

/-- The least and greatest values of an integer type code (R117). -/
def intLo (t : Nat) : Int := if t = 0 ∨ t = 2 ∨ t = 4 ∨ t = 6 ∨ t = 7 then -(2 ^ (typeWidth t - 1) : Int) else 0
where typeWidth (t : Nat) : Nat := if t ≤ 1 then 8 else if t ≤ 3 then 16 else if t ≤ 5 then 32 else if t = 6 then 64 else 4
def intHi (t : Nat) : Int :=
  if t = 0 ∨ t = 2 ∨ t = 4 ∨ t = 6 ∨ t = 7 then 2 ^ (intLo.typeWidth t - 1) - 1 else 2 ^ intLo.typeWidth t - 1

/-- A value into an integer type, saturating (R119). -/
def toInt (t : Nat) (rm : Rounding) (x : FVal) : Int × Word :=
  match x with
  | .nan _ _ _ => (0, flagNV)
  | .inf n => (if n then intLo t else intHi t, flagNV)
  | .fin n m e =>
    let r := Exact.roundAt { neg := n, m := m, e := e } 0 rm
    let v : Int := if n then -(r.1 : Int) else r.1
    if v < intLo t then (intLo t, flagNV)
    else if intHi t < v then (intHi t, flagNV)
    else (v, if r.2 then flagNX else 0)

/-- An integer's value. -/
def FVal.ofInt (v : Int) : FVal := .fin (decide (v < 0)) v.natAbs 0

/-- A product of two values for an exact sum: none when it is ∞ × 0. -/
def FVal.times (a b : FVal) : Option FVal :=
  match a, b with
  | .fin n m e, .fin n' m' e' => some (.fin (n ^^ n') (m * m') (e + e'))
  | .fin n m _, .inf n' => if m = 0 then none else some (.inf (n ^^ n'))
  | .inf n, .fin n' m _ => if m = 0 then none else some (.inf (n ^^ n'))
  | .inf n, .inf n' => some (.inf (n ^^ n'))
  | .nan s n fr, _ => some (.nan s n fr)
  | _, .nan s n fr => some (.nan s n fr)

/-- The signs of the infinities among some values. -/
def infSigns (ts : List FVal) : List Bool := ts.filterMap fun t => match t with
  | .inf n => some n
  | _ => none

/-- The rule of exact summation (R127): accumulator x0, products of pairs, rounded once by RNE; canon is false only where a
thread's nanpol lets a NaN accumulator through. -/
def Fmt.dot (f : Fmt) (canon : Bool) (x0 : FVal) (ps : List (FVal × FVal)) : Nat × Word :=
  let prods := ps.map fun p => p.1.times p.2
  let ts := x0 :: prods.filterMap id
  let infs := infSigns ts
  let clash := prods.any (·.isNone) || (infs.contains true && infs.contains false)
  let nv := if clash || x0.isSig || ps.any (fun p => p.1.isSig || p.2.isSig) then flagNV else 0
  if x0.isNan || ps.any (fun p => p.1.isNan || p.2.isNan) then
    match x0 with
    | .nan _ n fr => (if canon then f.canonical.1 else f.quiet n fr, nv)
    | _ => (f.canonical.1, nv)
  else if clash then (f.canonical.1, flagNV)
  else match infs with
    | n :: _ => f.infinite false n
    | [] => f.round .rne false false (exactSum (ts.filterMap fun t => match t with
        | .fin n m e => some (n, m, e)
        | _ => none) (ts.all fun t => t.neg && t.isZero))

end Sys2Proof.Machine
end

