-- ==== Sys2Proof/Machine/Functions.lean ====
section
/-! DEFINITION. The functions of R133, R134 and R294, correctly rounded: each is computed in fixed point with 320 fraction bits,
far beyond what rounding into FP32 or FP64 can tell apart, and rounded once (log entry 14). -/

namespace Sys2Proof.Machine

/-- Fraction bits of the fixed-point working values, and the bits dropped before rounding. -/
def fixP : Nat := 320
def fixD : Nat := 40

/-- One, ln 2 and π with 320 fraction bits. -/
def fixOne : Nat := 2 ^ fixP
def fixLn2 : Nat := 0xb17217f7d1cf79abc9e3b39803f2f6af40f343267298b62d8a0d175b8baafa2be7b876206debac98
def fixPi : Nat := 0x3243f6a8885a308d313198a2e03707344a4093822299f31d0082efa98ec4e6c89452821e638d01377

/-- The exponential series from its k-th term on. -/
def expTerms : Nat → Nat → Nat → Nat → Nat
  | 0, _, _, _ => 0
  | n + 1, x, k, t => t + expTerms n x (k + 1) (t * x / fixOne / (k + 1))

/-- e^x for 0 ≤ x < 1. -/
def fixExp (x : Nat) : Nat := expTerms 90 x 0 fixOne

/-- The series of the inverse hyperbolic tangent from its k-th term on; t is z^(2k+1). -/
def atanhTerms : Nat → Nat → Nat → Nat → Nat
  | 0, _, _, _ => 0
  | n + 1, zz, k, t => t / (2 * k + 1) + atanhTerms n zz (k + 1) (t * zz / fixOne)

/-- ln t for 1 ≤ t < 2, from z = (t − 1) ÷ (t + 1). -/
def fixLn (z : Nat) : Nat := 2 * atanhTerms 110 (z * z / fixOne) 0 z

/-- The alternating series of sine (k = 1) and cosine (k = 0) from one term on. -/
def trigTerms : Nat → Nat → Nat → Nat → Int
  | 0, _, _, _ => 0
  | n + 1, xx, k, t => (t : Int) - trigTerms n xx (k + 2) (t * xx / fixOne / ((k + 1) * (k + 2)))

/-- sin x and cos x for 0 ≤ x < 1. -/
def fixSin (x : Nat) : Nat := (trigTerms 45 (x * x / fixOne) 1 x).toNat
def fixCos (x : Nat) : Nat := (trigTerms 45 (x * x / fixOne) 0 fixOne).toNat

/-- A fixed-point magnitude that is no exact value, ready to round. -/
def fixExact (neg : Bool) (v : Nat) (e : Int) : Exact :=
  { neg := neg, m := v / 2 ^ fixD, e := e - fixP + fixD, sticky := true }

/-- A magnitude in fixed point, exact for exponents of −320 and above. -/
def toFix (m : Nat) (e : Int) : Nat :=
  if e + fixP < 0 then m / 2 ^ (-(e + fixP)).toNat else m * 2 ^ (e + fixP).toNat

/-- 2^a (R133, R134). -/
def fexp2 (md : FMode) (a : FVal) : Nat × Word :=
  match a with
  | .nan _ _ _ => f32.nanOf md.canon [a]
  | .inf n => if n then (0, 0) else f32.infinite false false
  | .fin n m e =>
    if e + m.log2 ≥ 8 then
      f32.round md.rm false md.flush { neg := false, m := 1, e := if n then -1000 else 1000, sticky := true }
    else
      let v : Int := if n then -(toFix m e : Int) else toFix m e
      let fr := (v % fixOne).toNat
      if fr = 0 then f32.round md.rm false md.flush { neg := false, m := 1, e := v / fixOne }
      else f32.round md.rm false md.flush (fixExact false (fixExp (fr * fixLn2 / fixOne)) (v / fixOne))

/-- log₂ a (R133, R134). -/
def flog2 (md : FMode) (a : FVal) : Nat × Word :=
  match a with
  | .nan _ _ _ => f32.nanOf md.canon [a]
  | .inf n => if n then f32.nanOf md.canon [] else f32.infinite false false
  | .fin n m e =>
    if m = 0 then (f32.code true (f32.top + 1), flagDZ)
    else if n then f32.nanOf md.canon []
    else
      let l := m.log2
      let k : Int := e + l
      if m = 2 ^ l then f32.round md.rm false md.flush { neg := decide (k < 0), m := k.natAbs, e := 0 }
      else
        let z := (m - 2 ^ l) * fixOne / (m + 2 ^ l)
        let v : Int := k * fixOne + (fixLn z * fixOne / fixLn2 : Nat)
        f32.round md.rm false md.flush (fixExact (decide (v < 0)) v.natAbs 0)

/-- sin πr for 0 < r < 1/2 and cos πr likewise, in fixed point. -/
def fixSinPi (r : Nat) : Nat :=
  if 4 * r ≤ fixOne then fixSin (r * fixPi / fixOne) else fixCos ((fixOne / 2 - r) * fixPi / fixOne)
def fixCosPi (r : Nat) : Nat :=
  if 4 * r ≤ fixOne then fixCos (r * fixPi / fixOne) else fixSin ((fixOne / 2 - r) * fixPi / fixOne)

/-- sin πa (R133, R134). -/
def fsinpi (md : FMode) (a : FVal) : Nat × Word :=
  match a with
  | .nan _ _ _ => f32.nanOf md.canon [a]
  | .inf _ => f32.nanOf md.canon []
  | .fin n m e =>
    let r := toFix m e % (2 * fixOne)
    let neg := n ^^ decide (fixOne ≤ r)
    let r := r % fixOne
    if r = 0 then (f32.code n 0, 0)
    else
      let r := if fixOne < 2 * r then fixOne - r else r
      if 2 * r = fixOne then f32.round md.rm false md.flush { neg := neg, m := 1, e := 0 }
      else f32.round md.rm false md.flush (fixExact neg (fixSinPi r) 0)

/-- cos πa (R133, R134). -/
def fcospi (md : FMode) (a : FVal) : Nat × Word :=
  match a with
  | .nan _ _ _ => f32.nanOf md.canon [a]
  | .inf _ => f32.nanOf md.canon []
  | .fin _ m e =>
    let r := toFix m e % (2 * fixOne)
    let r := if fixOne < r then 2 * fixOne - r else r
    let neg := decide (fixOne < 2 * r)
    let r := if neg then fixOne - r else r
    if r = 0 then f32.round md.rm false md.flush { neg := neg, m := 1, e := 0 }
    else if 2 * r = fixOne then (0, 0)
    else f32.round md.rm false md.flush (fixExact neg (fixCosPi r) 0)

/-- v ÷ (1 + e^(−v)) of a finite v, rounded by RNE (R294). -/
def silu (f : Fmt) (n : Bool) (m : Nat) (e : Int) : Nat :=
  let put (x : Exact) : Nat := (f.round .rne false false x).1
  if m = 0 then f.code n 0
  else if e + m.log2 < -200 then
    put { neg := n, m := if n then m * 2 ^ 60 - 1 else m * 2 ^ 60, e := e - 61, sticky := true }
  else if e + m.log2 ≥ 11 then
    put (if n then { neg := true, m := 1, e := -3000, sticky := true }
      else { neg := false, m := m * 2 ^ 60 - 1, e := e - 60, sticky := true })
  else
    let x := toFix m e
    let i := x / fixLn2
    let g := fixOne * fixOne / fixExp (x % fixLn2)
    let den := fixOne * 2 ^ i + g
    put { neg := n, m := (if n then m * g else m * fixOne * 2 ^ i) * 2 ^ (i + 64) / den
          e := e - 64 - i, sticky := true }

end Sys2Proof.Machine
end

