-- ==== Sys2Proof/Machine/CalDesc.lean ====
section
/-! DEFINITION. The CALCFG descriptor (R345). -/

namespace Sys2Proof.Machine

/-- Bytes of a field type (R345). -/
def calSize (ty : Nat) : Nat := if ty = 0 ∨ ty = 2 then 4 else 8

/-- The fields of a CALCFG descriptor (R345). -/
def calOff (ws : List Word) : Nat := bits (ws.getD 0 0).toNat 31 24
def calType (ws : List Word) : Nat := bits (ws.getD 0 0).toNat 21 20
def calRs (ws : List Word) : Nat := bits (ws.getD 0 0).toNat 19 16
def calMask (ws : List Word) : Nat := bits (ws.getD 0 0).toNat 15 0
def calLen (ws : List Word) : Nat := (ws.getD 1 0).toNat
def calBase (ws : List Word) : Nat := bits (ws.getD 2 0).toNat 31 12 * 4096 + bits (ws.getD 3 0).toNat 23 0 * 2 ^ 32
def calQ (ws : List Word) : Int := ((ws.getD 2 0).extractLsb' 0 12).toInt

/-- The index of the first word of a descriptor that breaks R345. -/
def calBad (ws : List Word) : Option Nat :=
  let size := calSize (calType ws)
  let w0 := (ws.getD 0 0).toNat
  if !(calOff ws % size == 0) || decide (2 ^ calRs ws < calOff ws + size) || bit w0 23 || decide (calRs ws < 2) ||
      decide (8 < calRs ws) || decide (2 ^ calRs ws < size) || bit w0 15 then some 0
  else if !(calLen ws % 2 ^ calRs ws == 0) then some 1
  else if !(bits (ws.getD 3 0).toNat 31 24 == 0) || decide (2 ^ 56 < calBase ws + calLen ws) then some 3
  else none

end Sys2Proof.Machine
end

