-- ==== Sys2Proof/Decode.lean ====
section
/-! DEFINITION. Decoding (R21 to R48): from the parcels of an instruction to its constructor, total, each refusal named; and
after it the encoder, written from the same encoding tables. The fields stay as the encoding holds them: what a value of a
field means, and which values are illegal (R24, R30, R32, R45, R48, R85), is checked where the instruction executes. -/

namespace Sys2Proof

/-- Why a word is no instruction (R25): both trap ILLEGAL. -/
inductive DecodeError where
  /-- A field the operation does not use is not zero. -/
  | reservedField
  /-- A code that R27 to R48 do not assign. -/
  | unassigned
  deriving DecidableEq, Repr

/-- A 16-bit instruction, form H (R26, R27): every word with bit 0 clear is one. -/
def decodeH (w : BitVec 16) : Instr :=
  match (w.extractLsb' 1 4).toNat with
  | 0 => .movH (w.extractLsb' 15 1) (w.extractLsb' 10 5) (w.extractLsb' 5 5)
  | 1 => .addH (w.extractLsb' 15 1) (w.extractLsb' 10 5) (w.extractLsb' 5 5)
  | 2 => .subH (w.extractLsb' 15 1) (w.extractLsb' 10 5) (w.extractLsb' 5 5)
  | 3 => .mulH (w.extractLsb' 15 1) (w.extractLsb' 10 5) (w.extractLsb' 5 5)
  | 4 => .andH (w.extractLsb' 15 1) (w.extractLsb' 10 5) (w.extractLsb' 5 5)
  | 5 => .orH (w.extractLsb' 15 1) (w.extractLsb' 10 5) (w.extractLsb' 5 5)
  | 6 => .xorH (w.extractLsb' 15 1) (w.extractLsb' 10 5) (w.extractLsb' 5 5)
  | 7 => .shlH (w.extractLsb' 15 1) (w.extractLsb' 10 5) (w.extractLsb' 5 5)
  | 8 => .shrH (w.extractLsb' 15 1) (w.extractLsb' 10 5) (w.extractLsb' 5 5)
  | 9 => .sarH (w.extractLsb' 15 1) (w.extractLsb' 10 5) (w.extractLsb' 5 5)
  | 10 => .minH (w.extractLsb' 15 1) (w.extractLsb' 10 5) (w.extractLsb' 5 5)
  | 11 => .maxH (w.extractLsb' 15 1) (w.extractLsb' 10 5) (w.extractLsb' 5 5)
  | 12 => .faddH (w.extractLsb' 15 1) (w.extractLsb' 10 5) (w.extractLsb' 5 5)
  | 13 => .fmulH (w.extractLsb' 15 1) (w.extractLsb' 10 5) (w.extractLsb' 5 5)
  | 14 => .fminH (w.extractLsb' 15 1) (w.extractLsb' 10 5) (w.extractLsb' 5 5)
  | _ => .fmaxH (w.extractLsb' 15 1) (w.extractLsb' 10 5) (w.extractLsb' 5 5)

/-- Major opcode 0x00 of R39. -/
def decodeMajor00 (w : BitVec 32) : Except DecodeError Instr :=
  match (w.extractLsb' 27 3).toNat with
  | 0 => .ok (.add (w.extractLsb' 31 1) (w.extractLsb' 30 1) (w.extractLsb' 20 7) (w.extractLsb' 13 7) (w.extractLsb' 6 7))
  | 1 => .ok (.sub (w.extractLsb' 31 1) (w.extractLsb' 30 1) (w.extractLsb' 20 7) (w.extractLsb' 13 7) (w.extractLsb' 6 7))
  | 2 => .ok (.and (w.extractLsb' 31 1) (w.extractLsb' 30 1) (w.extractLsb' 20 7) (w.extractLsb' 13 7) (w.extractLsb' 6 7))
  | 3 => .ok (.or (w.extractLsb' 31 1) (w.extractLsb' 30 1) (w.extractLsb' 20 7) (w.extractLsb' 13 7) (w.extractLsb' 6 7))
  | 4 => .ok (.xor (w.extractLsb' 31 1) (w.extractLsb' 30 1) (w.extractLsb' 20 7) (w.extractLsb' 13 7) (w.extractLsb' 6 7))
  | 5 => .ok (.andn (w.extractLsb' 31 1) (w.extractLsb' 30 1) (w.extractLsb' 20 7) (w.extractLsb' 13 7) (w.extractLsb' 6 7))
  | 6 => .ok (.addD (w.extractLsb' 31 1) (w.extractLsb' 30 1) (w.extractLsb' 20 7) (w.extractLsb' 13 7) (w.extractLsb' 6 7))
  | 7 => .ok (.subD (w.extractLsb' 31 1) (w.extractLsb' 30 1) (w.extractLsb' 20 7) (w.extractLsb' 13 7) (w.extractLsb' 6 7))
  | _ => .error .unassigned

/-- Major opcode 0x01 of R39. -/
def decodeMajor01 (w : BitVec 32) : Except DecodeError Instr :=
  match (w.extractLsb' 27 3).toNat with
  | 0 => .ok (.shl (w.extractLsb' 31 1) (w.extractLsb' 30 1) (w.extractLsb' 20 7) (w.extractLsb' 13 7) (w.extractLsb' 6 7))
  | 1 => .ok (.shr (w.extractLsb' 31 1) (w.extractLsb' 30 1) (w.extractLsb' 20 7) (w.extractLsb' 13 7) (w.extractLsb' 6 7))
  | 2 => .ok (.sar (w.extractLsb' 31 1) (w.extractLsb' 30 1) (w.extractLsb' 20 7) (w.extractLsb' 13 7) (w.extractLsb' 6 7))
  | 3 => .ok (.rol (w.extractLsb' 31 1) (w.extractLsb' 30 1) (w.extractLsb' 20 7) (w.extractLsb' 13 7) (w.extractLsb' 6 7))
  | 4 => .ok (.ror (w.extractLsb' 31 1) (w.extractLsb' 30 1) (w.extractLsb' 20 7) (w.extractLsb' 13 7) (w.extractLsb' 6 7))
  | 5 => .ok (.bfxi (w.extractLsb' 31 1) (w.extractLsb' 30 1) (w.extractLsb' 20 7) (w.extractLsb' 13 7) (w.extractLsb' 6 7))
  | 6 => .ok (.bfxz (w.extractLsb' 31 1) (w.extractLsb' 30 1) (w.extractLsb' 20 7) (w.extractLsb' 13 7) (w.extractLsb' 6 7))
  | 7 => .ok (.bfi (w.extractLsb' 31 1) (w.extractLsb' 30 1) (w.extractLsb' 20 7) (w.extractLsb' 13 7) (w.extractLsb' 6 7))
  | _ => .error .unassigned

/-- Major opcode 0x02 of R39. -/
def decodeMajor02 (w : BitVec 32) : Except DecodeError Instr :=
  match (w.extractLsb' 27 3).toNat with
  | 0 => .ok (.minI32 (w.extractLsb' 31 1) (w.extractLsb' 30 1) (w.extractLsb' 20 7) (w.extractLsb' 13 7) (w.extractLsb' 6 7))
  | 1 => .ok (.maxI32 (w.extractLsb' 31 1) (w.extractLsb' 30 1) (w.extractLsb' 20 7) (w.extractLsb' 13 7) (w.extractLsb' 6 7))
  | 2 => .ok (.minZ32 (w.extractLsb' 31 1) (w.extractLsb' 30 1) (w.extractLsb' 20 7) (w.extractLsb' 13 7) (w.extractLsb' 6 7))
  | 3 => .ok (.maxZ32 (w.extractLsb' 31 1) (w.extractLsb' 30 1) (w.extractLsb' 20 7) (w.extractLsb' 13 7) (w.extractLsb' 6 7))
  | 4 => .ok (.addmin (w.extractLsb' 31 1) (w.extractLsb' 30 1) (w.extractLsb' 20 7) (w.extractLsb' 13 7) (w.extractLsb' 6 7))
  | 5 => .ok (.addmax (w.extractLsb' 31 1) (w.extractLsb' 30 1) (w.extractLsb' 20 7) (w.extractLsb' 13 7) (w.extractLsb' 6 7))
  | 6 => .ok (.absd (w.extractLsb' 31 1) (w.extractLsb' 30 1) (w.extractLsb' 20 7) (w.extractLsb' 13 7) (w.extractLsb' 6 7))
  | 7 => .ok (.clamp (w.extractLsb' 31 1) (w.extractLsb' 30 1) (w.extractLsb' 20 7) (w.extractLsb' 13 7) (w.extractLsb' 6 7))
  | _ => .error .unassigned

/-- Major opcode 0x03 of R39. -/
def decodeMajor03 (w : BitVec 32) : Except DecodeError Instr :=
  match (w.extractLsb' 27 3).toNat with
  | 0 => .ok (.mullo (w.extractLsb' 31 1) (w.extractLsb' 30 1) (w.extractLsb' 20 7) (w.extractLsb' 13 7) (w.extractLsb' 6 7))
  | 1 => .ok (.mulhiI32 (w.extractLsb' 31 1) (w.extractLsb' 30 1) (w.extractLsb' 20 7) (w.extractLsb' 13 7) (w.extractLsb' 6 7))
  | 2 => .ok (.mulhiZ32 (w.extractLsb' 31 1) (w.extractLsb' 30 1) (w.extractLsb' 20 7) (w.extractLsb' 13 7) (w.extractLsb' 6 7))
  | 3 => .ok (.madlo (w.extractLsb' 31 1) (w.extractLsb' 30 1) (w.extractLsb' 20 7) (w.extractLsb' 13 7) (w.extractLsb' 6 7))
  | 4 => .ok (.divI32 (w.extractLsb' 31 1) (w.extractLsb' 30 1) (w.extractLsb' 20 7) (w.extractLsb' 13 7) (w.extractLsb' 6 7))
  | 5 => .ok (.divZ32 (w.extractLsb' 31 1) (w.extractLsb' 30 1) (w.extractLsb' 20 7) (w.extractLsb' 13 7) (w.extractLsb' 6 7))
  | 6 => .ok (.remI32 (w.extractLsb' 31 1) (w.extractLsb' 30 1) (w.extractLsb' 20 7) (w.extractLsb' 13 7) (w.extractLsb' 6 7))
  | 7 => .ok (.remZ32 (w.extractLsb' 31 1) (w.extractLsb' 30 1) (w.extractLsb' 20 7) (w.extractLsb' 13 7) (w.extractLsb' 6 7))
  | _ => .error .unassigned

/-- Major opcode 0x04 of R39. -/
def decodeMajor04 (w : BitVec 32) : Except DecodeError Instr :=
  match (w.extractLsb' 27 3).toNat with
  | 0 => if (w.extractLsb' 20 7) == 0#7 && (w.extractLsb' 31 1) == 0#1 then .ok (.popc (w.extractLsb' 30 1) (w.extractLsb' 13 7) (w.extractLsb' 6 7)) else .error .reservedField
  | 1 => if (w.extractLsb' 20 7) == 0#7 && (w.extractLsb' 31 1) == 0#1 then .ok (.clz (w.extractLsb' 30 1) (w.extractLsb' 13 7) (w.extractLsb' 6 7)) else .error .reservedField
  | 2 => if (w.extractLsb' 20 7) == 0#7 && (w.extractLsb' 31 1) == 0#1 then .ok (.ctz (w.extractLsb' 30 1) (w.extractLsb' 13 7) (w.extractLsb' 6 7)) else .error .reservedField
  | 3 => if (w.extractLsb' 20 7) == 0#7 && (w.extractLsb' 31 1) == 0#1 then .ok (.brev (w.extractLsb' 30 1) (w.extractLsb' 13 7) (w.extractLsb' 6 7)) else .error .reservedField
  | 4 => .ok (.pfxp (w.extractLsb' 31 1) (w.extractLsb' 30 1) (w.extractLsb' 20 7) (w.extractLsb' 13 7) (w.extractLsb' 6 7))
  | 5 => .ok (.perm (w.extractLsb' 31 1) (w.extractLsb' 30 1) (w.extractLsb' 20 7) (w.extractLsb' 13 7) (w.extractLsb' 6 7))
  | 6 => .ok (.find (w.extractLsb' 31 1) (w.extractLsb' 30 1) (w.extractLsb' 20 7) (w.extractLsb' 13 7) (w.extractLsb' 6 7))
  | _ => .error .unassigned

/-- Major opcode 0x05 of R39. -/
def decodeMajor05 (w : BitVec 32) : Except DecodeError Instr :=
  .ok (.addi (w.extractLsb' 20 12) (w.extractLsb' 13 7) (w.extractLsb' 6 7))

/-- Major opcode 0x06 of R39. -/
def decodeMajor06 (w : BitVec 32) : Except DecodeError Instr :=
  match (w.extractLsb' 20 3).toNat with
  | 0 => .ok (.andi (w.extractLsb' 23 9) (w.extractLsb' 13 7) (w.extractLsb' 6 7))
  | 1 => .ok (.ori (w.extractLsb' 23 9) (w.extractLsb' 13 7) (w.extractLsb' 6 7))
  | 2 => .ok (.xori (w.extractLsb' 23 9) (w.extractLsb' 13 7) (w.extractLsb' 6 7))
  | 3 => if (w.extractLsb' 28 4) == 0#4 then .ok (.shli (w.extractLsb' 23 5) (w.extractLsb' 13 7) (w.extractLsb' 6 7)) else .error .reservedField
  | 4 => if (w.extractLsb' 28 4) == 0#4 then .ok (.shri (w.extractLsb' 23 5) (w.extractLsb' 13 7) (w.extractLsb' 6 7)) else .error .reservedField
  | 5 => if (w.extractLsb' 28 4) == 0#4 then .ok (.sari (w.extractLsb' 23 5) (w.extractLsb' 13 7) (w.extractLsb' 6 7)) else .error .reservedField
  | 6 => if (w.extractLsb' 28 4) == 0#4 then .ok (.roli (w.extractLsb' 23 5) (w.extractLsb' 13 7) (w.extractLsb' 6 7)) else .error .reservedField
  | _ => .error .unassigned

/-- Major opcode 0x07 of R39. -/
def decodeMajor07 (w : BitVec 32) : Except DecodeError Instr :=
  .ok (.movi (w.extractLsb' 13 19) (w.extractLsb' 6 7))

/-- Major opcode 0x08 of R39. -/
def decodeMajor08 (w : BitVec 32) : Except DecodeError Instr :=
  if (w.extractLsb' 31 1) == 0#1 then .ok (.cmp (w.extractLsb' 30 1) (w.extractLsb' 29 1) (w.extractLsb' 27 2) (w.extractLsb' 20 7) (w.extractLsb' 13 7) (w.extractLsb' 9 4) (w.extractLsb' 6 3)) else .error .reservedField

/-- Major opcode 0x09 of R39. -/
def decodeMajor09 (w : BitVec 32) : Except DecodeError Instr :=
  if (w.extractLsb' 30 2) == 0#2 then .ok (.cmpi (w.extractLsb' 29 1) (w.extractLsb' 27 2) (w.extractLsb' 20 7) (w.extractLsb' 13 7) (w.extractLsb' 9 4) (w.extractLsb' 6 3)) else .error .reservedField

/-- Major opcode 0x0A of R39. -/
def decodeMajor0A (w : BitVec 32) : Except DecodeError Instr :=
  .ok (.sel (w.extractLsb' 31 1) (w.extractLsb' 30 1) (w.extractLsb' 27 3) (w.extractLsb' 20 7) (w.extractLsb' 13 7) (w.extractLsb' 6 7))

/-- Major opcode 0x0B of R39. -/
def decodeMajor0B (w : BitVec 32) : Except DecodeError Instr :=
  match (w.extractLsb' 27 3).toNat with
  | 0 => .ok (.fadd (w.extractLsb' 31 1) (w.extractLsb' 30 1) (w.extractLsb' 20 7) (w.extractLsb' 13 7) (w.extractLsb' 6 7))
  | 1 => .ok (.fsub (w.extractLsb' 31 1) (w.extractLsb' 30 1) (w.extractLsb' 20 7) (w.extractLsb' 13 7) (w.extractLsb' 6 7))
  | 2 => .ok (.fmul (w.extractLsb' 31 1) (w.extractLsb' 30 1) (w.extractLsb' 20 7) (w.extractLsb' 13 7) (w.extractLsb' 6 7))
  | 3 => .ok (.fmin (w.extractLsb' 31 1) (w.extractLsb' 30 1) (w.extractLsb' 20 7) (w.extractLsb' 13 7) (w.extractLsb' 6 7))
  | 4 => .ok (.fmax (w.extractLsb' 31 1) (w.extractLsb' 30 1) (w.extractLsb' 20 7) (w.extractLsb' 13 7) (w.extractLsb' 6 7))
  | 5 => if (w.extractLsb' 20 7) == 0#7 && (w.extractLsb' 31 1) == 0#1 then .ok (.fabs (w.extractLsb' 30 1) (w.extractLsb' 13 7) (w.extractLsb' 6 7)) else .error .reservedField
  | 6 => if (w.extractLsb' 20 7) == 0#7 && (w.extractLsb' 31 1) == 0#1 then .ok (.fneg (w.extractLsb' 30 1) (w.extractLsb' 13 7) (w.extractLsb' 6 7)) else .error .reservedField
  | 7 => .ok (.fcpys (w.extractLsb' 31 1) (w.extractLsb' 30 1) (w.extractLsb' 20 7) (w.extractLsb' 13 7) (w.extractLsb' 6 7))
  | _ => .error .unassigned

/-- Major opcode 0x0C of R39. -/
def decodeMajor0C (w : BitVec 32) : Except DecodeError Instr :=
  .ok (.ffma (w.extractLsb' 27 5) (w.extractLsb' 20 7) (w.extractLsb' 13 7) (w.extractLsb' 6 7))

/-- Major opcode 0x0D of R39. -/
def decodeMajor0D (w : BitVec 32) : Except DecodeError Instr :=
  .ok (.fma2 (w.extractLsb' 31 1) (w.extractLsb' 27 4) (w.extractLsb' 20 7) (w.extractLsb' 13 7) (w.extractLsb' 6 7))

/-- Major opcode 0x0E of R39. -/
def decodeMajor0E (w : BitVec 32) : Except DecodeError Instr :=
  .ok (.dfma (w.extractLsb' 27 5) (w.extractLsb' 20 7) (w.extractLsb' 13 7) (w.extractLsb' 6 7))

/-- Major opcode 0x0F of R39. -/
def decodeMajor0F (w : BitVec 32) : Except DecodeError Instr :=
  match (w.extractLsb' 27 3).toNat with
  | 0 => .ok (.duaddF16 (w.extractLsb' 31 1) (w.extractLsb' 30 1) (w.extractLsb' 20 7) (w.extractLsb' 13 7) (w.extractLsb' 6 7))
  | 1 => .ok (.duaddBf16 (w.extractLsb' 31 1) (w.extractLsb' 30 1) (w.extractLsb' 20 7) (w.extractLsb' 13 7) (w.extractLsb' 6 7))
  | 2 => .ok (.dumulF16 (w.extractLsb' 31 1) (w.extractLsb' 30 1) (w.extractLsb' 20 7) (w.extractLsb' 13 7) (w.extractLsb' 6 7))
  | 3 => .ok (.dumulBf16 (w.extractLsb' 31 1) (w.extractLsb' 30 1) (w.extractLsb' 20 7) (w.extractLsb' 13 7) (w.extractLsb' 6 7))
  | 4 => .ok (.duminF16 (w.extractLsb' 31 1) (w.extractLsb' 30 1) (w.extractLsb' 20 7) (w.extractLsb' 13 7) (w.extractLsb' 6 7))
  | 5 => .ok (.duminBf16 (w.extractLsb' 31 1) (w.extractLsb' 30 1) (w.extractLsb' 20 7) (w.extractLsb' 13 7) (w.extractLsb' 6 7))
  | 6 => .ok (.dumaxF16 (w.extractLsb' 31 1) (w.extractLsb' 30 1) (w.extractLsb' 20 7) (w.extractLsb' 13 7) (w.extractLsb' 6 7))
  | 7 => .ok (.dumaxBf16 (w.extractLsb' 31 1) (w.extractLsb' 30 1) (w.extractLsb' 20 7) (w.extractLsb' 13 7) (w.extractLsb' 6 7))
  | _ => .error .unassigned

/-- Major opcode 0x10 of R39. -/
def decodeMajor10 (w : BitVec 32) : Except DecodeError Instr :=
  match (w.extractLsb' 27 3).toNat with
  | 0 => .ok (.dadd (w.extractLsb' 31 1) (w.extractLsb' 30 1) (w.extractLsb' 20 7) (w.extractLsb' 13 7) (w.extractLsb' 6 7))
  | 1 => .ok (.dsub (w.extractLsb' 31 1) (w.extractLsb' 30 1) (w.extractLsb' 20 7) (w.extractLsb' 13 7) (w.extractLsb' 6 7))
  | 2 => .ok (.dmul (w.extractLsb' 31 1) (w.extractLsb' 30 1) (w.extractLsb' 20 7) (w.extractLsb' 13 7) (w.extractLsb' 6 7))
  | 3 => .ok (.dmin (w.extractLsb' 31 1) (w.extractLsb' 30 1) (w.extractLsb' 20 7) (w.extractLsb' 13 7) (w.extractLsb' 6 7))
  | 4 => .ok (.dmax (w.extractLsb' 31 1) (w.extractLsb' 30 1) (w.extractLsb' 20 7) (w.extractLsb' 13 7) (w.extractLsb' 6 7))
  | 5 => .ok (.ddiv (w.extractLsb' 31 1) (w.extractLsb' 30 1) (w.extractLsb' 20 7) (w.extractLsb' 13 7) (w.extractLsb' 6 7))
  | 6 => if (w.extractLsb' 20 7) == 0#7 && (w.extractLsb' 31 1) == 0#1 then .ok (.dsqrt (w.extractLsb' 30 1) (w.extractLsb' 13 7) (w.extractLsb' 6 7)) else .error .reservedField
  | _ => .error .unassigned

/-- Major opcode 0x11 of R39. -/
def decodeMajor11 (w : BitVec 32) : Except DecodeError Instr :=
  match (w.extractLsb' 27 3).toNat with
  | 0 => if (w.extractLsb' 20 7) == 0#7 && (w.extractLsb' 31 1) == 0#1 then .ok (.frcp (w.extractLsb' 30 1) (w.extractLsb' 13 7) (w.extractLsb' 6 7)) else .error .reservedField
  | 1 => if (w.extractLsb' 20 7) == 0#7 && (w.extractLsb' 31 1) == 0#1 then .ok (.frsq (w.extractLsb' 30 1) (w.extractLsb' 13 7) (w.extractLsb' 6 7)) else .error .reservedField
  | 2 => if (w.extractLsb' 20 7) == 0#7 && (w.extractLsb' 31 1) == 0#1 then .ok (.fsqrt (w.extractLsb' 30 1) (w.extractLsb' 13 7) (w.extractLsb' 6 7)) else .error .reservedField
  | 3 => .ok (.fdiv (w.extractLsb' 31 1) (w.extractLsb' 30 1) (w.extractLsb' 20 7) (w.extractLsb' 13 7) (w.extractLsb' 6 7))
  | 4 => if (w.extractLsb' 20 7) == 0#7 && (w.extractLsb' 31 1) == 0#1 then .ok (.fexp2 (w.extractLsb' 30 1) (w.extractLsb' 13 7) (w.extractLsb' 6 7)) else .error .reservedField
  | 5 => if (w.extractLsb' 20 7) == 0#7 && (w.extractLsb' 31 1) == 0#1 then .ok (.flog2 (w.extractLsb' 30 1) (w.extractLsb' 13 7) (w.extractLsb' 6 7)) else .error .reservedField
  | 6 => if (w.extractLsb' 20 7) == 0#7 && (w.extractLsb' 31 1) == 0#1 then .ok (.fsinpi (w.extractLsb' 30 1) (w.extractLsb' 13 7) (w.extractLsb' 6 7)) else .error .reservedField
  | 7 => if (w.extractLsb' 20 7) == 0#7 && (w.extractLsb' 31 1) == 0#1 then .ok (.fcospi (w.extractLsb' 30 1) (w.extractLsb' 13 7) (w.extractLsb' 6 7)) else .error .reservedField
  | _ => .error .unassigned

/-- Major opcode 0x12 of R39. -/
def decodeMajor12 (w : BitVec 32) : Except DecodeError Instr :=
  .ok (.cvt (w.extractLsb' 31 1) (w.extractLsb' 28 3) (w.extractLsb' 24 4) (w.extractLsb' 20 4) (w.extractLsb' 13 7) (w.extractLsb' 6 7))

/-- Major opcode 0x13 of R39. -/
def decodeMajor13 (w : BitVec 32) : Except DecodeError Instr :=
  match (w.extractLsb' 27 1).toNat with
  | 0 => if (w.extractLsb' 20 3) == 0#3 && (w.extractLsb' 29 3) == 0#3 then .ok (.cvtp (w.extractLsb' 28 1) (w.extractLsb' 23 4) (w.extractLsb' 13 7) (w.extractLsb' 6 7)) else .error .reservedField
  | 1 => if (w.extractLsb' 29 3) == 0#3 then .ok (.cvtpEf (w.extractLsb' 28 1) (w.extractLsb' 23 4) (w.extractLsb' 20 3) (w.extractLsb' 13 7) (w.extractLsb' 6 7)) else .error .reservedField
  | _ => .error .unassigned

/-- Major opcode 0x14 of R39. -/
def decodeMajor14 (w : BitVec 32) : Except DecodeError Instr :=
  match (w.extractLsb' 27 3).toNat with
  | 0 => .ok (.dot4I8 (w.extractLsb' 31 1) (w.extractLsb' 30 1) (w.extractLsb' 20 7) (w.extractLsb' 13 7) (w.extractLsb' 6 7))
  | 1 => .ok (.dot4Z8 (w.extractLsb' 31 1) (w.extractLsb' 30 1) (w.extractLsb' 20 7) (w.extractLsb' 13 7) (w.extractLsb' 6 7))
  | 2 => .ok (.dot8I4 (w.extractLsb' 31 1) (w.extractLsb' 30 1) (w.extractLsb' 20 7) (w.extractLsb' 13 7) (w.extractLsb' 6 7))
  | 3 => .ok (.dot8Z4 (w.extractLsb' 31 1) (w.extractLsb' 30 1) (w.extractLsb' 20 7) (w.extractLsb' 13 7) (w.extractLsb' 6 7))
  | 4 => .ok (.dot4D8a (w.extractLsb' 31 1) (w.extractLsb' 30 1) (w.extractLsb' 20 7) (w.extractLsb' 13 7) (w.extractLsb' 6 7))
  | 5 => .ok (.dot4D8b (w.extractLsb' 31 1) (w.extractLsb' 30 1) (w.extractLsb' 20 7) (w.extractLsb' 13 7) (w.extractLsb' 6 7))
  | 6 => .ok (.dot8D4 (w.extractLsb' 31 1) (w.extractLsb' 30 1) (w.extractLsb' 20 7) (w.extractLsb' 13 7) (w.extractLsb' 6 7))
  | 7 => .ok (.dot2Bf16 (w.extractLsb' 31 1) (w.extractLsb' 30 1) (w.extractLsb' 20 7) (w.extractLsb' 13 7) (w.extractLsb' 6 7))
  | _ => .error .unassigned

/-- Major opcode 0x15 of R39. -/
def decodeMajor15 (w : BitVec 32) : Except DecodeError Instr :=
  match (w.extractLsb' 27 3).toNat with
  | 0 => .ok (.lgetIdx (w.extractLsb' 31 1) (w.extractLsb' 30 1) (w.extractLsb' 20 7) (w.extractLsb' 13 7) (w.extractLsb' 6 7))
  | 1 => .ok (.lgetUp (w.extractLsb' 31 1) (w.extractLsb' 30 1) (w.extractLsb' 20 7) (w.extractLsb' 13 7) (w.extractLsb' 6 7))
  | 2 => .ok (.lgetDn (w.extractLsb' 31 1) (w.extractLsb' 30 1) (w.extractLsb' 20 7) (w.extractLsb' 13 7) (w.extractLsb' 6 7))
  | 3 => .ok (.lgetXor (w.extractLsb' 31 1) (w.extractLsb' 30 1) (w.extractLsb' 20 7) (w.extractLsb' 13 7) (w.extractLsb' 6 7))
  | 4 => if (w.extractLsb' 20 7) == 0#7 && (w.extractLsb' 31 1) == 0#1 then .ok (.ballot (w.extractLsb' 30 1) (w.extractLsb' 13 7) (w.extractLsb' 6 7)) else .error .reservedField
  | 5 => if (w.extractLsb' 20 7) == 0#7 && (w.extractLsb' 31 1) == 0#1 then .ok (.redAddI32 (w.extractLsb' 30 1) (w.extractLsb' 13 7) (w.extractLsb' 6 7)) else .error .reservedField
  | 6 => if (w.extractLsb' 20 7) == 0#7 && (w.extractLsb' 31 1) == 0#1 then .ok (.scanAddI32 (w.extractLsb' 30 1) (w.extractLsb' 13 7) (w.extractLsb' 6 7)) else .error .reservedField
  | 7 => if (w.extractLsb' 20 7) == 0#7 && (w.extractLsb' 31 1) == 0#1 then .ok (.redMinI32 (w.extractLsb' 30 1) (w.extractLsb' 13 7) (w.extractLsb' 6 7)) else .error .reservedField
  | _ => .error .unassigned

/-- Major opcode 0x16 of R39. -/
def decodeMajor16 (w : BitVec 32) : Except DecodeError Instr :=
  .ok (.ld (w.extractLsb' 26 6) (w.extractLsb' 23 3) (w.extractLsb' 19 4) (w.extractLsb' 13 6) (w.extractLsb' 6 7))

/-- Major opcode 0x17 of R39. -/
def decodeMajor17 (w : BitVec 32) : Except DecodeError Instr :=
  .ok (.st (w.extractLsb' 26 6) (w.extractLsb' 23 3) (w.extractLsb' 19 4) (w.extractLsb' 13 6) (w.extractLsb' 6 7))

/-- Major opcode 0x18 of R39. -/
def decodeMajor18 (w : BitVec 32) : Except DecodeError Instr :=
  match (w.extractLsb' 23 3).toNat with
  | 0 => if (w.extractLsb' 29 3) == 0#3 then .ok (.ldacqW (w.extractLsb' 26 3) (w.extractLsb' 19 4) (w.extractLsb' 13 6) (w.extractLsb' 6 7)) else .error .reservedField
  | 1 => if (w.extractLsb' 29 3) == 0#3 then .ok (.ldacqD (w.extractLsb' 26 3) (w.extractLsb' 19 4) (w.extractLsb' 13 6) (w.extractLsb' 6 7)) else .error .reservedField
  | 2 => if (w.extractLsb' 29 3) == 0#3 then .ok (.strelW (w.extractLsb' 26 3) (w.extractLsb' 19 4) (w.extractLsb' 13 6) (w.extractLsb' 6 7)) else .error .reservedField
  | 3 => if (w.extractLsb' 29 3) == 0#3 then .ok (.strelD (w.extractLsb' 26 3) (w.extractLsb' 19 4) (w.extractLsb' 13 6) (w.extractLsb' 6 7)) else .error .reservedField
  | 4 => if (w.extractLsb' 6 7) == 0#7 then .ok (.pfetch (w.extractLsb' 26 6) (w.extractLsb' 19 4) (w.extractLsb' 13 6)) else .error .reservedField
  | 5 => .ok (.ldsmpW (w.extractLsb' 26 6) (w.extractLsb' 19 4) (w.extractLsb' 13 6) (w.extractLsb' 6 7))
  | _ => .error .unassigned

/-- Major opcode 0x19 of R39. -/
def decodeMajor19 (w : BitVec 32) : Except DecodeError Instr :=
  match (w.extractLsb' 6 3).toNat with
  | 0 => if (w.extractLsb' 9 3) == 0#3 && (w.extractLsb' 28 4) == 0#4 then .ok (.fenceX (w.extractLsb' 12 16)) else .error .reservedField
  | 1 => if (w.extractLsb' 28 4) == 0#4 then .ok (.fenceAr (w.extractLsb' 12 16) (w.extractLsb' 9 3)) else .error .reservedField
  | 2 => if (w.extractLsb' 28 4) == 0#4 then .ok (.fenceSc (w.extractLsb' 12 16) (w.extractLsb' 9 3)) else .error .reservedField
  | 3 => if (w.extractLsb' 28 4) == 0#4 then .ok (.fenceEng (w.extractLsb' 12 16) (w.extractLsb' 9 3)) else .error .reservedField
  | 4 => if (w.extractLsb' 9 3) == 0#3 && (w.extractLsb' 28 4) == 0#4 then .ok (.stflush (w.extractLsb' 12 16)) else .error .reservedField
  | 5 => if (w.extractLsb' 9 23) == 0#23 then .ok (.refetchFence) else .error .reservedField
  | _ => .error .unassigned

/-- Major opcode 0x1A of R39. -/
def decodeMajor1A (w : BitVec 32) : Except DecodeError Instr :=
  match (w.extractLsb' 23 4).toNat with
  | 0 => if (w.extractLsb' 31 1) == 0#1 then .ok (.atomAdd (w.extractLsb' 30 1) (w.extractLsb' 27 3) (w.extractLsb' 19 4) (w.extractLsb' 13 6) (w.extractLsb' 6 7)) else .error .reservedField
  | 1 => if (w.extractLsb' 31 1) == 0#1 then .ok (.atomMinI32 (w.extractLsb' 30 1) (w.extractLsb' 27 3) (w.extractLsb' 19 4) (w.extractLsb' 13 6) (w.extractLsb' 6 7)) else .error .reservedField
  | 2 => if (w.extractLsb' 31 1) == 0#1 then .ok (.atomMaxI32 (w.extractLsb' 30 1) (w.extractLsb' 27 3) (w.extractLsb' 19 4) (w.extractLsb' 13 6) (w.extractLsb' 6 7)) else .error .reservedField
  | 3 => if (w.extractLsb' 31 1) == 0#1 then .ok (.atomMinZ32 (w.extractLsb' 30 1) (w.extractLsb' 27 3) (w.extractLsb' 19 4) (w.extractLsb' 13 6) (w.extractLsb' 6 7)) else .error .reservedField
  | 4 => if (w.extractLsb' 31 1) == 0#1 then .ok (.atomMaxZ32 (w.extractLsb' 30 1) (w.extractLsb' 27 3) (w.extractLsb' 19 4) (w.extractLsb' 13 6) (w.extractLsb' 6 7)) else .error .reservedField
  | 5 => if (w.extractLsb' 31 1) == 0#1 then .ok (.atomAnd (w.extractLsb' 30 1) (w.extractLsb' 27 3) (w.extractLsb' 19 4) (w.extractLsb' 13 6) (w.extractLsb' 6 7)) else .error .reservedField
  | 6 => if (w.extractLsb' 31 1) == 0#1 then .ok (.atomOr (w.extractLsb' 30 1) (w.extractLsb' 27 3) (w.extractLsb' 19 4) (w.extractLsb' 13 6) (w.extractLsb' 6 7)) else .error .reservedField
  | 7 => if (w.extractLsb' 31 1) == 0#1 then .ok (.atomXor (w.extractLsb' 30 1) (w.extractLsb' 27 3) (w.extractLsb' 19 4) (w.extractLsb' 13 6) (w.extractLsb' 6 7)) else .error .reservedField
  | 8 => if (w.extractLsb' 31 1) == 0#1 then .ok (.atomExch (w.extractLsb' 30 1) (w.extractLsb' 27 3) (w.extractLsb' 19 4) (w.extractLsb' 13 6) (w.extractLsb' 6 7)) else .error .reservedField
  | 9 => if (w.extractLsb' 31 1) == 0#1 then .ok (.atomCas (w.extractLsb' 30 1) (w.extractLsb' 27 3) (w.extractLsb' 19 4) (w.extractLsb' 13 6) (w.extractLsb' 6 7)) else .error .reservedField
  | 10 => if (w.extractLsb' 31 1) == 0#1 then .ok (.atomIncw (w.extractLsb' 30 1) (w.extractLsb' 27 3) (w.extractLsb' 19 4) (w.extractLsb' 13 6) (w.extractLsb' 6 7)) else .error .reservedField
  | 11 => if (w.extractLsb' 31 1) == 0#1 then .ok (.atomDecw (w.extractLsb' 30 1) (w.extractLsb' 27 3) (w.extractLsb' 19 4) (w.extractLsb' 13 6) (w.extractLsb' 6 7)) else .error .reservedField
  | 12 => if (w.extractLsb' 31 1) == 0#1 then .ok (.atomFaddF32 (w.extractLsb' 30 1) (w.extractLsb' 27 3) (w.extractLsb' 19 4) (w.extractLsb' 13 6) (w.extractLsb' 6 7)) else .error .reservedField
  | 13 => if (w.extractLsb' 31 1) == 0#1 then .ok (.atomFminF32 (w.extractLsb' 30 1) (w.extractLsb' 27 3) (w.extractLsb' 19 4) (w.extractLsb' 13 6) (w.extractLsb' 6 7)) else .error .reservedField
  | 14 => if (w.extractLsb' 31 1) == 0#1 then .ok (.atomFmaxF32 (w.extractLsb' 30 1) (w.extractLsb' 27 3) (w.extractLsb' 19 4) (w.extractLsb' 13 6) (w.extractLsb' 6 7)) else .error .reservedField
  | 15 => if (w.extractLsb' 31 1) == 0#1 then .ok (.atomAddD (w.extractLsb' 30 1) (w.extractLsb' 27 3) (w.extractLsb' 19 4) (w.extractLsb' 13 6) (w.extractLsb' 6 7)) else .error .reservedField
  | _ => .error .unassigned

/-- Major opcode 0x1B of R39. -/
def decodeMajor1B (w : BitVec 32) : Except DecodeError Instr :=
  match (w.extractLsb' 27 5).toNat with
  | 0 => if (w.extractLsb' 13 14) == 0#14 then .ok (.txb (w.extractLsb' 6 7)) else .error .reservedField
  | 1 => if (w.extractLsb' 6 21) == 0#21 then .ok (.txe) else .error .reservedField
  | 2 => if (w.extractLsb' 6 14) == 0#14 then .ok (.txa (w.extractLsb' 20 7)) else .error .reservedField
  | 3 => .ok (.fput (w.extractLsb' 20 7) (w.extractLsb' 13 7) (w.extractLsb' 6 7))
  | 4 => .ok (.fputt (w.extractLsb' 20 7) (w.extractLsb' 13 7) (w.extractLsb' 6 7))
  | 5 => if (w.extractLsb' 20 7) == 0#7 then .ok (.fget (w.extractLsb' 13 7) (w.extractLsb' 6 7)) else .error .reservedField
  | 6 => if (w.extractLsb' 6 14) == 0#14 && (w.extractLsb' 26 1) == 0#1 then .ok (.barArr (w.extractLsb' 23 3) (w.extractLsb' 20 3)) else .error .reservedField
  | 7 => if (w.extractLsb' 6 14) == 0#14 && (w.extractLsb' 26 1) == 0#1 then .ok (.barWait (w.extractLsb' 23 3) (w.extractLsb' 20 3)) else .error .reservedField
  | 8 => if (w.extractLsb' 6 14) == 0#14 && (w.extractLsb' 26 1) == 0#1 then .ok (.barSync (w.extractLsb' 23 3) (w.extractLsb' 20 3)) else .error .reservedField
  | 9 => if (w.extractLsb' 6 7) == 0#7 && (w.extractLsb' 26 1) == 0#1 then .ok (.barAddb (w.extractLsb' 23 3) (w.extractLsb' 20 3) (w.extractLsb' 13 7)) else .error .reservedField
  | 10 => if (w.extractLsb' 6 14) == 0#14 && (w.extractLsb' 26 1) == 0#1 then .ok (.barChk (w.extractLsb' 23 3) (w.extractLsb' 20 3)) else .error .reservedField
  | 11 => .ok (.callo (w.extractLsb' 20 7) (w.extractLsb' 13 7) (w.extractLsb' 6 7))
  | 12 => if (w.extractLsb' 6 7) == 0#7 then .ok (.crply (w.extractLsb' 20 7) (w.extractLsb' 13 7)) else .error .reservedField
  | 13 => if (w.extractLsb' 20 7) == 0#7 then .ok (.objreg (w.extractLsb' 13 7) (w.extractLsb' 6 7)) else .error .reservedField
  | 14 => if (w.extractLsb' 20 7) == 0#7 then .ok (.objrst (w.extractLsb' 13 7) (w.extractLsb' 6 7)) else .error .reservedField
  | 15 => if (w.extractLsb' 6 21) == 0#21 then .ok (.rcv) else .error .reservedField
  | 16 => if (w.extractLsb' 13 14) == 0#14 then .ok (.mke (w.extractLsb' 6 7)) else .error .reservedField
  | 17 => if (w.extractLsb' 6 7) == 0#7 && (w.extractLsb' 20 7) == 0#7 then .ok (.waitf (w.extractLsb' 13 7)) else .error .reservedField
  | 18 => if (w.extractLsb' 13 7) == 0#7 && (w.extractLsb' 23 4) == 0#4 then .ok (.cbpush (w.extractLsb' 20 3) (w.extractLsb' 6 7)) else .error .reservedField
  | 19 => if (w.extractLsb' 6 14) == 0#14 && (w.extractLsb' 23 4) == 0#4 then .ok (.cbcmt (w.extractLsb' 20 3)) else .error .reservedField
  | 20 => if (w.extractLsb' 13 7) == 0#7 && (w.extractLsb' 23 4) == 0#4 then .ok (.cbwait (w.extractLsb' 20 3) (w.extractLsb' 6 7)) else .error .reservedField
  | 21 => if (w.extractLsb' 6 14) == 0#14 && (w.extractLsb' 23 4) == 0#4 then .ok (.cbpop (w.extractLsb' 20 3)) else .error .reservedField
  | 22 => if (w.extractLsb' 6 14) == 0#14 && (w.extractLsb' 23 4) == 0#4 then .ok (.acwait (w.extractLsb' 20 3)) else .error .reservedField
  | 23 => if (w.extractLsb' 6 14) == 0#14 then .ok (.regrow (w.extractLsb' 20 7)) else .error .reservedField
  | 24 => if (w.extractLsb' 6 14) == 0#14 then .ok (.regshr (w.extractLsb' 20 7)) else .error .reservedField
  | 25 => if (w.extractLsb' 6 7) == 0#7 && (w.extractLsb' 20 7) == 0#7 then .ok (.cont (w.extractLsb' 13 7)) else .error .reservedField
  | 26 => if (w.extractLsb' 6 7) == 0#7 then .ok (.wrec (w.extractLsb' 20 7) (w.extractLsb' 13 7)) else .error .reservedField
  | 27 => if (w.extractLsb' 20 7) == 0#7 then .ok (.pwenq (w.extractLsb' 13 7) (w.extractLsb' 6 7)) else .error .reservedField
  | 28 => if (w.extractLsb' 6 21) == 0#21 then .ok (.yield) else .error .reservedField
  | 29 => if (w.extractLsb' 6 21) == 0#21 then .ok (.exit) else .error .reservedField
  | 30 => if (w.extractLsb' 6 7) == 0#7 && (w.extractLsb' 20 7) == 0#7 then .ok (.setprg (w.extractLsb' 13 7)) else .error .reservedField
  | _ => .error .unassigned

/-- Major opcode 0x1C of R39. -/
def decodeMajor1C (w : BitVec 32) : Except DecodeError Instr :=
  .ok (.acp (w.extractLsb' 31 1) (w.extractLsb' 27 4) (w.extractLsb' 24 3) (w.extractLsb' 19 5) (w.extractLsb' 13 6) (w.extractLsb' 6 7))

/-- Major opcode 0x1D of R39. -/
def decodeMajor1D (w : BitVec 32) : Except DecodeError Instr :=
  .ok (.mfrag (w.extractLsb' 27 5) (w.extractLsb' 20 7) (w.extractLsb' 13 7) (w.extractLsb' 6 7))

/-- Major opcode 0x1E of R39. -/
def decodeMajor1E (w : BitVec 32) : Except DecodeError Instr :=
  match (w.extractLsb' 27 5).toNat with
  | 0 => if (w.extractLsb' 6 7) == 0#7 && (w.extractLsb' 20 7) == 0#7 then .ok (.mtile (w.extractLsb' 13 7)) else .error .reservedField
  | 1 => if (w.extractLsb' 6 7) == 0#7 && (w.extractLsb' 20 7) == 0#7 then .ok (.mspt (w.extractLsb' 13 7)) else .error .reservedField
  | 2 => if (w.extractLsb' 6 14) == 0#14 && (w.extractLsb' 22 5) == 0#5 then .ok (.mring (w.extractLsb' 20 2)) else .error .reservedField
  | 3 => if (w.extractLsb' 6 14) == 0#14 && (w.extractLsb' 24 3) == 0#3 then .ok (.mwait (w.extractLsb' 20 4)) else .error .reservedField
  | 4 => if (w.extractLsb' 6 7) == 0#7 && (w.extractLsb' 20 7) == 0#7 then .ok (.part (w.extractLsb' 13 7)) else .error .reservedField
  | 5 => if (w.extractLsb' 6 14) == 0#14 && (w.extractLsb' 24 3) == 0#3 then .ok (.pwait (w.extractLsb' 20 4)) else .error .reservedField
  | 6 => if (w.extractLsb' 6 7) == 0#7 && (w.extractLsb' 23 4) == 0#4 then .ok (.acb (w.extractLsb' 20 3) (w.extractLsb' 13 7)) else .error .reservedField
  | 7 => if (w.extractLsb' 6 7) == 0#7 && (w.extractLsb' 22 5) == 0#5 then .ok (.calcfg (w.extractLsb' 20 2) (w.extractLsb' 13 7)) else .error .reservedField
  | 8 => if (w.extractLsb' 6 7) == 0#7 && (w.extractLsb' 22 5) == 0#5 then .ok (.calref (w.extractLsb' 20 2) (w.extractLsb' 13 7)) else .error .reservedField
  | 9 => if (w.extractLsb' 6 7) == 0#7 && (w.extractLsb' 22 5) == 0#5 then .ok (.calbnd (w.extractLsb' 20 2) (w.extractLsb' 13 7)) else .error .reservedField
  | 10 => if (w.extractLsb' 13 7) == 0#7 && (w.extractLsb' 25 2) == 0#2 then .ok (.calrd (w.extractLsb' 22 3) (w.extractLsb' 20 2) (w.extractLsb' 6 7)) else .error .reservedField
  | 11 => if (w.extractLsb' 6 7) == 0#7 && (w.extractLsb' 20 7) == 0#7 then .ok (.carvinv (w.extractLsb' 13 7)) else .error .reservedField
  | 12 => if (w.extractLsb' 20 7) == 0#7 then .ok (.stmap (w.extractLsb' 13 7) (w.extractLsb' 6 7)) else .error .reservedField
  | 13 => if (w.extractLsb' 6 7) == 0#7 && (w.extractLsb' 20 7) == 0#7 then .ok (.stunmap (w.extractLsb' 13 7)) else .error .reservedField
  | 14 => if (w.extractLsb' 13 7) == 0#7 && (w.extractLsb' 24 3) == 0#3 then .ok (.nodeRd (w.extractLsb' 20 4) (w.extractLsb' 6 7)) else .error .reservedField
  | 15 => if (w.extractLsb' 20 7) == 0#7 then .ok (.nodeIn (w.extractLsb' 13 7) (w.extractLsb' 6 7)) else .error .reservedField
  | 16 => if (w.extractLsb' 6 7) == 0#7 then .ok (.nodeUp (w.extractLsb' 20 7) (w.extractLsb' 13 7)) else .error .reservedField
  | 17 => if (w.extractLsb' 6 7) == 0#7 then .ok (.nodeDn (w.extractLsb' 20 7) (w.extractLsb' 13 7)) else .error .reservedField
  | 18 => .ok (.xnext (w.extractLsb' 20 7) (w.extractLsb' 13 7) (w.extractLsb' 6 7))
  | 19 => if (w.extractLsb' 6 7) == 0#7 && (w.extractLsb' 24 3) == 0#3 then .ok (.setstrm (w.extractLsb' 20 4) (w.extractLsb' 13 7)) else .error .reservedField
  | 20 => if (w.extractLsb' 13 14) == 0#14 then .ok (.mtok (w.extractLsb' 6 7)) else .error .reservedField
  | _ => .error .unassigned

/-- Major opcode 0x1F of R39. -/
def decodeMajor1F (w : BitVec 32) : Except DecodeError Instr :=
  match (w.extractLsb' 6 3).toNat with
  | 0 => .ok (.br (w.extractLsb' 13 19) (w.extractLsb' 12 1) (w.extractLsb' 9 3))
  | 1 => .ok (.call (w.extractLsb' 9 23))
  | 2 =>
    match (w.extractLsb' 9 4).toNat with
    | 0 => if (w.extractLsb' 20 12) == 0#12 then .ok (.jmp (w.extractLsb' 13 7)) else .error .reservedField
    | 1 => if (w.extractLsb' 20 12) == 0#12 then .ok (.callr (w.extractLsb' 13 7)) else .error .reservedField
    | 2 => if (w.extractLsb' 20 12) == 0#12 then .ok (.ret (w.extractLsb' 13 7)) else .error .reservedField
    | _ => .error .unassigned
  | 3 =>
    match (w.extractLsb' 9 5).toNat with
    | 0 => if (w.extractLsb' 14 18) == 0#18 then .ok (.nop) else .error .reservedField
    | 1 => if (w.extractLsb' 14 14) == 0#14 then .ok (.pred (w.extractLsb' 31 1) (w.extractLsb' 28 3)) else .error .reservedField
    | 2 => if (w.extractLsb' 28 4) == 0#4 then .ok (.srd (w.extractLsb' 21 7) (w.extractLsb' 14 7)) else .error .reservedField
    | 3 => if (w.extractLsb' 28 4) == 0#4 then .ok (.swr (w.extractLsb' 21 7) (w.extractLsb' 14 7)) else .error .reservedField
    | 4 => if (w.extractLsb' 14 14) == 0#14 && (w.extractLsb' 30 2) == 0#2 then .ok (.setrm (w.extractLsb' 28 2)) else .error .reservedField
    | 5 => if (w.extractLsb' 21 11) == 0#11 then .ok (.clrff (w.extractLsb' 14 7)) else .error .reservedField
    | 6 => if (w.extractLsb' 14 14) == 0#14 then .ok (.trapi (w.extractLsb' 28 4)) else .error .reservedField
    | 7 => if (w.extractLsb' 14 18) == 0#18 then .ok (.brk) else .error .reservedField
    | 8 => if (w.extractLsb' 14 18) == 0#18 then .ok (.rett) else .error .reservedField
    | 9 => if (w.extractLsb' 14 18) == 0#18 then .ok (.kill) else .error .reservedField
    | 10 => if (w.extractLsb' 14 18) == 0#18 then .ok (.killb) else .error .reservedField
    | 11 => if (w.extractLsb' 28 4) == 0#4 then .ok (.oreg (w.extractLsb' 21 7) (w.extractLsb' 14 7)) else .error .reservedField
    | 12 => if (w.extractLsb' 28 4) == 0#4 then .ok (.owr (w.extractLsb' 21 7) (w.extractLsb' 14 7)) else .error .reservedField
    | 13 => if (w.extractLsb' 21 11) == 0#11 then .ok (.opc (w.extractLsb' 14 7)) else .error .reservedField
    | 14 => if (w.extractLsb' 14 18) == 0#18 then .ok (.halt) else .error .reservedField
    | 15 => if (w.extractLsb' 14 18) == 0#18 then .ok (.refetch) else .error .reservedField
    | _ => .error .unassigned
  | 4 => if (w.extractLsb' 29 3) == 0#3 then .ok (.ext (w.extractLsb' 9 20)) else .error .reservedField
  | _ => .error .unassigned

/-- A 32-bit instruction (R21, R39): the major opcode in bits [5:1] picks the table. -/
def decode32 (w : BitVec 32) : Except DecodeError Instr :=
  match (w.extractLsb' 1 5).toNat with
  | 0 => decodeMajor00 w
  | 1 => decodeMajor01 w
  | 2 => decodeMajor02 w
  | 3 => decodeMajor03 w
  | 4 => decodeMajor04 w
  | 5 => decodeMajor05 w
  | 6 => decodeMajor06 w
  | 7 => decodeMajor07 w
  | 8 => decodeMajor08 w
  | 9 => decodeMajor09 w
  | 10 => decodeMajor0A w
  | 11 => decodeMajor0B w
  | 12 => decodeMajor0C w
  | 13 => decodeMajor0D w
  | 14 => decodeMajor0E w
  | 15 => decodeMajor0F w
  | 16 => decodeMajor10 w
  | 17 => decodeMajor11 w
  | 18 => decodeMajor12 w
  | 19 => decodeMajor13 w
  | 20 => decodeMajor14 w
  | 21 => decodeMajor15 w
  | 22 => decodeMajor16 w
  | 23 => decodeMajor17 w
  | 24 => decodeMajor18 w
  | 25 => decodeMajor19 w
  | 26 => decodeMajor1A w
  | 27 => decodeMajor1B w
  | 28 => decodeMajor1C w
  | 29 => decodeMajor1D w
  | 30 => decodeMajor1E w
  | _ => decodeMajor1F w

/-- Whether the first parcel starts a 32-bit instruction (R21). -/
def isLong (p : BitVec 16) : Bool := p.extractLsb' 0 1 == 1#1

/-- The instruction of a 32-bit word whose low parcel is first in memory (R21). -/
def decodeWord (p q : BitVec 16) : Except DecodeError Instr := decode32 (q ++ p)

/-- Decoding from bytes at rising addresses: the instruction and the bytes after it; none where bytes are missing. -/
def decodeBytes : List (BitVec 8) → Option (Except DecodeError Instr × List (BitVec 8))
  | b0 :: b1 :: rest =>
    if isLong (b1 ++ b0) then
      match rest with
      | b2 :: b3 :: rest' => some (decodeWord (b1 ++ b0) (b3 ++ b2), rest')
      | _ => none
    else some (.ok (decodeH (b1 ++ b0)), rest)
  | _ => none

/-- The bytes of a word of the opcode table, the first parcel at the lowest address, each parcel little-endian (R21), with
zeros above its bits up to the longest instruction (a 32-bit instruction: 4 bytes). -/
def tableBytes (nbits w : Nat) : List (BitVec 8) :=
  let v : BitVec 32 := BitVec.ofNat 32 (w % 2 ^ nbits)
  [v.extractLsb' 0 8, v.extractLsb' 8 8, v.extractLsb' 16 8, v.extractLsb' 24 8]

/-- The instruction the decoder reads from a word numbered as the opcode table numbers it. -/
def decodeTableWord (nbits w : Nat) : Option Instr :=
  match decodeBytes (tableBytes nbits w) with
  | some (.ok i, _) => some i
  | _ => none

/-- The words of an encoded instruction. -/
inductive Encoding where
  | short (w : BitVec 16)
  | long (w : BitVec 32)
  deriving DecidableEq, Repr

/-- The bytes of an encoded instruction at rising addresses: the first parcel lowest, each parcel little-endian (R2, R21). -/
def Encoding.bytes : Encoding → List (BitVec 8)
  | .short w => [w.extractLsb' 0 8, w.extractLsb' 8 8]
  | .long w => [w.extractLsb' 0 8, w.extractLsb' 8 8, w.extractLsb' 16 8, w.extractLsb' 24 8]

/-- The encoding of an instruction; none for an event, which no word encodes. -/
def encode (i : Instr) : Option Encoding :=
  match i with
  | .movH i b d => some (.short (i ++ b ++ d ++ 0#5))
  | .addH i b d => some (.short (i ++ b ++ d ++ 2#5))
  | .subH i b d => some (.short (i ++ b ++ d ++ 4#5))
  | .mulH i b d => some (.short (i ++ b ++ d ++ 6#5))
  | .andH i b d => some (.short (i ++ b ++ d ++ 8#5))
  | .orH i b d => some (.short (i ++ b ++ d ++ 10#5))
  | .xorH i b d => some (.short (i ++ b ++ d ++ 12#5))
  | .shlH i b d => some (.short (i ++ b ++ d ++ 14#5))
  | .shrH i b d => some (.short (i ++ b ++ d ++ 16#5))
  | .sarH i b d => some (.short (i ++ b ++ d ++ 18#5))
  | .minH i b d => some (.short (i ++ b ++ d ++ 20#5))
  | .maxH i b d => some (.short (i ++ b ++ d ++ 22#5))
  | .faddH i b d => some (.short (i ++ b ++ d ++ 24#5))
  | .fmulH i b d => some (.short (i ++ b ++ d ++ 26#5))
  | .fminH i b d => some (.short (i ++ b ++ d ++ 28#5))
  | .fmaxH i b d => some (.short (i ++ b ++ d ++ 30#5))
  | .add x y b a d => some (.long (x ++ y ++ 0#3 ++ b ++ a ++ d ++ 1#6))
  | .sub x y b a d => some (.long (x ++ y ++ 1#3 ++ b ++ a ++ d ++ 1#6))
  | .and x y b a d => some (.long (x ++ y ++ 2#3 ++ b ++ a ++ d ++ 1#6))
  | .or x y b a d => some (.long (x ++ y ++ 3#3 ++ b ++ a ++ d ++ 1#6))
  | .xor x y b a d => some (.long (x ++ y ++ 4#3 ++ b ++ a ++ d ++ 1#6))
  | .andn x y b a d => some (.long (x ++ y ++ 5#3 ++ b ++ a ++ d ++ 1#6))
  | .addD x y b a d => some (.long (x ++ y ++ 6#3 ++ b ++ a ++ d ++ 1#6))
  | .subD x y b a d => some (.long (x ++ y ++ 7#3 ++ b ++ a ++ d ++ 1#6))
  | .shl x y b a d => some (.long (x ++ y ++ 0#3 ++ b ++ a ++ d ++ 3#6))
  | .shr x y b a d => some (.long (x ++ y ++ 1#3 ++ b ++ a ++ d ++ 3#6))
  | .sar x y b a d => some (.long (x ++ y ++ 2#3 ++ b ++ a ++ d ++ 3#6))
  | .rol x y b a d => some (.long (x ++ y ++ 3#3 ++ b ++ a ++ d ++ 3#6))
  | .ror x y b a d => some (.long (x ++ y ++ 4#3 ++ b ++ a ++ d ++ 3#6))
  | .bfxi x y b a d => some (.long (x ++ y ++ 5#3 ++ b ++ a ++ d ++ 3#6))
  | .bfxz x y b a d => some (.long (x ++ y ++ 6#3 ++ b ++ a ++ d ++ 3#6))
  | .bfi x y b a d => some (.long (x ++ y ++ 7#3 ++ b ++ a ++ d ++ 3#6))
  | .minI32 x y b a d => some (.long (x ++ y ++ 0#3 ++ b ++ a ++ d ++ 5#6))
  | .maxI32 x y b a d => some (.long (x ++ y ++ 1#3 ++ b ++ a ++ d ++ 5#6))
  | .minZ32 x y b a d => some (.long (x ++ y ++ 2#3 ++ b ++ a ++ d ++ 5#6))
  | .maxZ32 x y b a d => some (.long (x ++ y ++ 3#3 ++ b ++ a ++ d ++ 5#6))
  | .addmin x y b a d => some (.long (x ++ y ++ 4#3 ++ b ++ a ++ d ++ 5#6))
  | .addmax x y b a d => some (.long (x ++ y ++ 5#3 ++ b ++ a ++ d ++ 5#6))
  | .absd x y b a d => some (.long (x ++ y ++ 6#3 ++ b ++ a ++ d ++ 5#6))
  | .clamp x y b a d => some (.long (x ++ y ++ 7#3 ++ b ++ a ++ d ++ 5#6))
  | .mullo x y b a d => some (.long (x ++ y ++ 0#3 ++ b ++ a ++ d ++ 7#6))
  | .mulhiI32 x y b a d => some (.long (x ++ y ++ 1#3 ++ b ++ a ++ d ++ 7#6))
  | .mulhiZ32 x y b a d => some (.long (x ++ y ++ 2#3 ++ b ++ a ++ d ++ 7#6))
  | .madlo x y b a d => some (.long (x ++ y ++ 3#3 ++ b ++ a ++ d ++ 7#6))
  | .divI32 x y b a d => some (.long (x ++ y ++ 4#3 ++ b ++ a ++ d ++ 7#6))
  | .divZ32 x y b a d => some (.long (x ++ y ++ 5#3 ++ b ++ a ++ d ++ 7#6))
  | .remI32 x y b a d => some (.long (x ++ y ++ 6#3 ++ b ++ a ++ d ++ 7#6))
  | .remZ32 x y b a d => some (.long (x ++ y ++ 7#3 ++ b ++ a ++ d ++ 7#6))
  | .popc y a d => some (.long (0#1 ++ y ++ 0#10 ++ a ++ d ++ 9#6))
  | .clz y a d => some (.long (0#1 ++ y ++ 128#10 ++ a ++ d ++ 9#6))
  | .ctz y a d => some (.long (0#1 ++ y ++ 256#10 ++ a ++ d ++ 9#6))
  | .brev y a d => some (.long (0#1 ++ y ++ 384#10 ++ a ++ d ++ 9#6))
  | .pfxp x y b a d => some (.long (x ++ y ++ 4#3 ++ b ++ a ++ d ++ 9#6))
  | .perm x y b a d => some (.long (x ++ y ++ 5#3 ++ b ++ a ++ d ++ 9#6))
  | .find x y b a d => some (.long (x ++ y ++ 6#3 ++ b ++ a ++ d ++ 9#6))
  | .addi i a d => some (.long (i ++ a ++ d ++ 11#6))
  | .andi i a d => some (.long (i ++ 0#3 ++ a ++ d ++ 13#6))
  | .ori i a d => some (.long (i ++ 1#3 ++ a ++ d ++ 13#6))
  | .xori i a d => some (.long (i ++ 2#3 ++ a ++ d ++ 13#6))
  | .shli i a d => some (.long (0#4 ++ i ++ 3#3 ++ a ++ d ++ 13#6))
  | .shri i a d => some (.long (0#4 ++ i ++ 4#3 ++ a ++ d ++ 13#6))
  | .sari i a d => some (.long (0#4 ++ i ++ 5#3 ++ a ++ d ++ 13#6))
  | .roli i a d => some (.long (0#4 ++ i ++ 6#3 ++ a ++ d ++ 13#6))
  | .movi i d => some (.long (i ++ d ++ 15#6))
  | .cmp x y c b a k p => some (.long (0#1 ++ x ++ y ++ c ++ b ++ a ++ k ++ p ++ 17#6))
  | .cmpi y c i a k p => some (.long (0#2 ++ y ++ c ++ i ++ a ++ k ++ p ++ 19#6))
  | .sel x y q b a d => some (.long (x ++ y ++ q ++ b ++ a ++ d ++ 21#6))
  | .fadd x y b a d => some (.long (x ++ y ++ 0#3 ++ b ++ a ++ d ++ 23#6))
  | .fsub x y b a d => some (.long (x ++ y ++ 1#3 ++ b ++ a ++ d ++ 23#6))
  | .fmul x y b a d => some (.long (x ++ y ++ 2#3 ++ b ++ a ++ d ++ 23#6))
  | .fmin x y b a d => some (.long (x ++ y ++ 3#3 ++ b ++ a ++ d ++ 23#6))
  | .fmax x y b a d => some (.long (x ++ y ++ 4#3 ++ b ++ a ++ d ++ 23#6))
  | .fabs y a d => some (.long (0#1 ++ y ++ 640#10 ++ a ++ d ++ 23#6))
  | .fneg y a d => some (.long (0#1 ++ y ++ 768#10 ++ a ++ d ++ 23#6))
  | .fcpys x y b a d => some (.long (x ++ y ++ 7#3 ++ b ++ a ++ d ++ 23#6))
  | .ffma c b a d => some (.long (c ++ b ++ a ++ d ++ 25#6))
  | .fma2 t c b a d => some (.long (t ++ c ++ b ++ a ++ d ++ 27#6))
  | .dfma c b a d => some (.long (c ++ b ++ a ++ d ++ 29#6))
  | .duaddF16 x y b a d => some (.long (x ++ y ++ 0#3 ++ b ++ a ++ d ++ 31#6))
  | .duaddBf16 x y b a d => some (.long (x ++ y ++ 1#3 ++ b ++ a ++ d ++ 31#6))
  | .dumulF16 x y b a d => some (.long (x ++ y ++ 2#3 ++ b ++ a ++ d ++ 31#6))
  | .dumulBf16 x y b a d => some (.long (x ++ y ++ 3#3 ++ b ++ a ++ d ++ 31#6))
  | .duminF16 x y b a d => some (.long (x ++ y ++ 4#3 ++ b ++ a ++ d ++ 31#6))
  | .duminBf16 x y b a d => some (.long (x ++ y ++ 5#3 ++ b ++ a ++ d ++ 31#6))
  | .dumaxF16 x y b a d => some (.long (x ++ y ++ 6#3 ++ b ++ a ++ d ++ 31#6))
  | .dumaxBf16 x y b a d => some (.long (x ++ y ++ 7#3 ++ b ++ a ++ d ++ 31#6))
  | .dadd x y b a d => some (.long (x ++ y ++ 0#3 ++ b ++ a ++ d ++ 33#6))
  | .dsub x y b a d => some (.long (x ++ y ++ 1#3 ++ b ++ a ++ d ++ 33#6))
  | .dmul x y b a d => some (.long (x ++ y ++ 2#3 ++ b ++ a ++ d ++ 33#6))
  | .dmin x y b a d => some (.long (x ++ y ++ 3#3 ++ b ++ a ++ d ++ 33#6))
  | .dmax x y b a d => some (.long (x ++ y ++ 4#3 ++ b ++ a ++ d ++ 33#6))
  | .ddiv x y b a d => some (.long (x ++ y ++ 5#3 ++ b ++ a ++ d ++ 33#6))
  | .dsqrt y a d => some (.long (0#1 ++ y ++ 768#10 ++ a ++ d ++ 33#6))
  | .frcp y a d => some (.long (0#1 ++ y ++ 0#10 ++ a ++ d ++ 35#6))
  | .frsq y a d => some (.long (0#1 ++ y ++ 128#10 ++ a ++ d ++ 35#6))
  | .fsqrt y a d => some (.long (0#1 ++ y ++ 256#10 ++ a ++ d ++ 35#6))
  | .fdiv x y b a d => some (.long (x ++ y ++ 3#3 ++ b ++ a ++ d ++ 35#6))
  | .fexp2 y a d => some (.long (0#1 ++ y ++ 512#10 ++ a ++ d ++ 35#6))
  | .flog2 y a d => some (.long (0#1 ++ y ++ 640#10 ++ a ++ d ++ 35#6))
  | .fsinpi y a d => some (.long (0#1 ++ y ++ 768#10 ++ a ++ d ++ 35#6))
  | .fcospi y a d => some (.long (0#1 ++ y ++ 896#10 ++ a ++ d ++ 35#6))
  | .cvt s r t u a d => some (.long (s ++ r ++ t ++ u ++ a ++ d ++ 37#6))
  | .cvtp s u a d => some (.long (0#3 ++ s ++ 0#1 ++ u ++ 0#3 ++ a ++ d ++ 39#6))
  | .cvtpEf s u e a d => some (.long (0#3 ++ s ++ 1#1 ++ u ++ e ++ a ++ d ++ 39#6))
  | .dot4I8 x y b a d => some (.long (x ++ y ++ 0#3 ++ b ++ a ++ d ++ 41#6))
  | .dot4Z8 x y b a d => some (.long (x ++ y ++ 1#3 ++ b ++ a ++ d ++ 41#6))
  | .dot8I4 x y b a d => some (.long (x ++ y ++ 2#3 ++ b ++ a ++ d ++ 41#6))
  | .dot8Z4 x y b a d => some (.long (x ++ y ++ 3#3 ++ b ++ a ++ d ++ 41#6))
  | .dot4D8a x y b a d => some (.long (x ++ y ++ 4#3 ++ b ++ a ++ d ++ 41#6))
  | .dot4D8b x y b a d => some (.long (x ++ y ++ 5#3 ++ b ++ a ++ d ++ 41#6))
  | .dot8D4 x y b a d => some (.long (x ++ y ++ 6#3 ++ b ++ a ++ d ++ 41#6))
  | .dot2Bf16 x y b a d => some (.long (x ++ y ++ 7#3 ++ b ++ a ++ d ++ 41#6))
  | .lgetIdx x y b a d => some (.long (x ++ y ++ 0#3 ++ b ++ a ++ d ++ 43#6))
  | .lgetUp x y b a d => some (.long (x ++ y ++ 1#3 ++ b ++ a ++ d ++ 43#6))
  | .lgetDn x y b a d => some (.long (x ++ y ++ 2#3 ++ b ++ a ++ d ++ 43#6))
  | .lgetXor x y b a d => some (.long (x ++ y ++ 3#3 ++ b ++ a ++ d ++ 43#6))
  | .ballot y a d => some (.long (0#1 ++ y ++ 512#10 ++ a ++ d ++ 43#6))
  | .redAddI32 y a d => some (.long (0#1 ++ y ++ 640#10 ++ a ++ d ++ 43#6))
  | .scanAddI32 y a d => some (.long (0#1 ++ y ++ 768#10 ++ a ++ d ++ 43#6))
  | .redMinI32 y a d => some (.long (0#1 ++ y ++ 896#10 ++ a ++ d ++ 43#6))
  | .ld o z s p d => some (.long (o ++ z ++ s ++ p ++ d ++ 45#6))
  | .st o z s p d => some (.long (o ++ z ++ s ++ p ++ d ++ 47#6))
  | .ldacqW k s p d => some (.long (0#3 ++ k ++ 0#3 ++ s ++ p ++ d ++ 49#6))
  | .ldacqD k s p d => some (.long (0#3 ++ k ++ 1#3 ++ s ++ p ++ d ++ 49#6))
  | .strelW k s p d => some (.long (0#3 ++ k ++ 2#3 ++ s ++ p ++ d ++ 49#6))
  | .strelD k s p d => some (.long (0#3 ++ k ++ 3#3 ++ s ++ p ++ d ++ 49#6))
  | .pfetch o s p => some (.long (o ++ 4#3 ++ s ++ p ++ 49#13))
  | .ldsmpW o s p d => some (.long (o ++ 5#3 ++ s ++ p ++ d ++ 49#6))
  | .fenceX m => some (.long (0#4 ++ m ++ 51#12))
  | .fenceAr m k => some (.long (0#4 ++ m ++ k ++ 115#9))
  | .fenceSc m k => some (.long (0#4 ++ m ++ k ++ 179#9))
  | .fenceEng m k => some (.long (0#4 ++ m ++ k ++ 243#9))
  | .stflush m => some (.long (0#4 ++ m ++ 307#12))
  | .refetchFence => some (.long (371#32))
  | .atomAdd n k s p d => some (.long (0#1 ++ n ++ k ++ 0#4 ++ s ++ p ++ d ++ 53#6))
  | .atomMinI32 n k s p d => some (.long (0#1 ++ n ++ k ++ 1#4 ++ s ++ p ++ d ++ 53#6))
  | .atomMaxI32 n k s p d => some (.long (0#1 ++ n ++ k ++ 2#4 ++ s ++ p ++ d ++ 53#6))
  | .atomMinZ32 n k s p d => some (.long (0#1 ++ n ++ k ++ 3#4 ++ s ++ p ++ d ++ 53#6))
  | .atomMaxZ32 n k s p d => some (.long (0#1 ++ n ++ k ++ 4#4 ++ s ++ p ++ d ++ 53#6))
  | .atomAnd n k s p d => some (.long (0#1 ++ n ++ k ++ 5#4 ++ s ++ p ++ d ++ 53#6))
  | .atomOr n k s p d => some (.long (0#1 ++ n ++ k ++ 6#4 ++ s ++ p ++ d ++ 53#6))
  | .atomXor n k s p d => some (.long (0#1 ++ n ++ k ++ 7#4 ++ s ++ p ++ d ++ 53#6))
  | .atomExch n k s p d => some (.long (0#1 ++ n ++ k ++ 8#4 ++ s ++ p ++ d ++ 53#6))
  | .atomCas n k s p d => some (.long (0#1 ++ n ++ k ++ 9#4 ++ s ++ p ++ d ++ 53#6))
  | .atomIncw n k s p d => some (.long (0#1 ++ n ++ k ++ 10#4 ++ s ++ p ++ d ++ 53#6))
  | .atomDecw n k s p d => some (.long (0#1 ++ n ++ k ++ 11#4 ++ s ++ p ++ d ++ 53#6))
  | .atomFaddF32 n k s p d => some (.long (0#1 ++ n ++ k ++ 12#4 ++ s ++ p ++ d ++ 53#6))
  | .atomFminF32 n k s p d => some (.long (0#1 ++ n ++ k ++ 13#4 ++ s ++ p ++ d ++ 53#6))
  | .atomFmaxF32 n k s p d => some (.long (0#1 ++ n ++ k ++ 14#4 ++ s ++ p ++ d ++ 53#6))
  | .atomAddD n k s p d => some (.long (0#1 ++ n ++ k ++ 15#4 ++ s ++ p ++ d ++ 53#6))
  | .txb d => some (.long (0#19 ++ d ++ 55#6))
  | .txe => some (.long (134217783#32))
  | .txa i => some (.long (2#5 ++ i ++ 55#20))
  | .fput b a d => some (.long (3#5 ++ b ++ a ++ d ++ 55#6))
  | .fputt b a d => some (.long (4#5 ++ b ++ a ++ d ++ 55#6))
  | .fget a d => some (.long (640#12 ++ a ++ d ++ 55#6))
  | .barArr n q => some (.long (12#6 ++ n ++ q ++ 55#20))
  | .barWait n q => some (.long (14#6 ++ n ++ q ++ 55#20))
  | .barSync n q => some (.long (16#6 ++ n ++ q ++ 55#20))
  | .barAddb n q a => some (.long (18#6 ++ n ++ q ++ a ++ 55#13))
  | .barChk n q => some (.long (20#6 ++ n ++ q ++ 55#20))
  | .callo b a d => some (.long (11#5 ++ b ++ a ++ d ++ 55#6))
  | .crply i a => some (.long (12#5 ++ i ++ a ++ 55#13))
  | .objreg a d => some (.long (1664#12 ++ a ++ d ++ 55#6))
  | .objrst a d => some (.long (1792#12 ++ a ++ d ++ 55#6))
  | .rcv => some (.long (2013265975#32))
  | .mke d => some (.long (262144#19 ++ d ++ 55#6))
  | .waitf a => some (.long (2176#12 ++ a ++ 55#13))
  | .cbpush q d => some (.long (288#9 ++ q ++ 0#7 ++ d ++ 55#6))
  | .cbcmt q => some (.long (304#9 ++ q ++ 55#20))
  | .cbwait q d => some (.long (320#9 ++ q ++ 0#7 ++ d ++ 55#6))
  | .cbpop q => some (.long (336#9 ++ q ++ 55#20))
  | .acwait t => some (.long (352#9 ++ t ++ 55#20))
  | .regrow i => some (.long (23#5 ++ i ++ 55#20))
  | .regshr i => some (.long (24#5 ++ i ++ 55#20))
  | .cont a => some (.long (3200#12 ++ a ++ 55#13))
  | .wrec b a => some (.long (26#5 ++ b ++ a ++ 55#13))
  | .pwenq a d => some (.long (3456#12 ++ a ++ d ++ 55#6))
  | .yield => some (.long (3758096439#32))
  | .exit => some (.long (3892314167#32))
  | .setprg a => some (.long (3840#12 ++ a ++ 55#13))
  | .acp b s t v p o => some (.long (b ++ s ++ t ++ v ++ p ++ o ++ 57#6))
  | .mfrag c b a d => some (.long (c ++ b ++ a ++ d ++ 59#6))
  | .mtile a => some (.long (0#12 ++ a ++ 61#13))
  | .mspt a => some (.long (128#12 ++ a ++ 61#13))
  | .mring z => some (.long (64#10 ++ z ++ 61#20))
  | .mwait s => some (.long (24#8 ++ s ++ 61#20))
  | .part a => some (.long (512#12 ++ a ++ 61#13))
  | .pwait s => some (.long (40#8 ++ s ++ 61#20))
  | .acb q a => some (.long (96#9 ++ q ++ a ++ 61#13))
  | .calcfg k a => some (.long (224#10 ++ k ++ a ++ 61#13))
  | .calref k a => some (.long (256#10 ++ k ++ a ++ 61#13))
  | .calbnd k a => some (.long (288#10 ++ k ++ a ++ 61#13))
  | .calrd v k d => some (.long (40#7 ++ v ++ k ++ 0#7 ++ d ++ 61#6))
  | .carvinv a => some (.long (1408#12 ++ a ++ 61#13))
  | .stmap a d => some (.long (1536#12 ++ a ++ d ++ 61#6))
  | .stunmap a => some (.long (1664#12 ++ a ++ 61#13))
  | .nodeRd f d => some (.long (112#8 ++ f ++ 0#7 ++ d ++ 61#6))
  | .nodeIn a d => some (.long (1920#12 ++ a ++ d ++ 61#6))
  | .nodeUp b a => some (.long (16#5 ++ b ++ a ++ 61#13))
  | .nodeDn b a => some (.long (17#5 ++ b ++ a ++ 61#13))
  | .xnext b a d => some (.long (18#5 ++ b ++ a ++ d ++ 61#6))
  | .setstrm s a => some (.long (152#8 ++ s ++ a ++ 61#13))
  | .mtok d => some (.long (327680#19 ++ d ++ 61#6))
  | .br i n p => some (.long (i ++ n ++ p ++ 63#9))
  | .call i => some (.long (i ++ 127#9))
  | .jmp p => some (.long (0#12 ++ p ++ 191#13))
  | .callr p => some (.long (0#12 ++ p ++ 703#13))
  | .ret p => some (.long (0#12 ++ p ++ 1215#13))
  | .nop => some (.long (255#32))
  | .pred n q => some (.long (n ++ q ++ 767#28))
  | .srd a d => some (.long (0#4 ++ a ++ d ++ 1279#14))
  | .swr a d => some (.long (0#4 ++ a ++ d ++ 1791#14))
  | .setrm r => some (.long (0#2 ++ r ++ 2303#28))
  | .clrff d => some (.long (0#11 ++ d ++ 2815#14))
  | .trapi i => some (.long (i ++ 3327#28))
  | .brk => some (.long (3839#32))
  | .rett => some (.long (4351#32))
  | .kill => some (.long (4863#32))
  | .killb => some (.long (5375#32))
  | .oreg a d => some (.long (0#4 ++ a ++ d ++ 5887#14))
  | .owr a d => some (.long (0#4 ++ a ++ d ++ 6399#14))
  | .opc d => some (.long (0#11 ++ d ++ 6911#14))
  | .halt => some (.long (7423#32))
  | .refetch => some (.long (7935#32))
  | .ext i => some (.long (0#3 ++ i ++ 319#9))
  | .laneResultWrite _ => none
  | .mfragResultWrite _ => none
  | .yieldEnd _ _ => none
  | .lateResultArrival _ => none
  | .storeQueueDrain _ => none
  | .homeStoreArrival _ => none
  | .storeAcknowledgement _ => none
  | .homeLoadRequest _ => none
  | .ctimeTick _ => none
  | .remoteCopyExpiry _ _ => none
  | .negativeAcknowledgement _ => none
  | .backoffResend _ => none
  | .peerLoadFailure _ _ => none
  | .stashFillReturn _ _ _ => none
  | .stashLineRecall _ _ _ => none
  | .engineRegistration _ => none
  | .engineLineWrite _ => none
  | .copyComplete _ => none
  | .acbSlotCommit _ => none
  | .networkBarrierArrival _ _ => none
  | .blockAdmission _ _ => none
  | .blockCompletion _ => none
  | .regrowGrant _ => none
  | .regshrShed _ => none
  | .handlerWaveFormation _ => none
  | .impreciseFault _ _ => none
  | .preemptionRequest _ => none
  | .drainLimitExpiry _ => none
  | .blockRestore _ _ => none
  | .urgentAdmissionTimeout _ => none
  | .txValidateAtHome _ _ => none
  | .txCommitResult _ _ => none
  | .turnTokenGrant _ => none
  | .futureOpAtHome _ => none
  | .futureAnswer _ => none
  | .objregAtHome _ => none
  | .calloArrival _ => none
  | .combinerWaveFormation _ => none
  | .combinerWaveEnd _ => none
  | .combinerWaveAbort _ => none
  | .calloReply _ => none
  | .powerTokenGrant _ => none
  | .tileCommandComplete _ => none
  | .partComplete _ => none
  | .msptAtCarver _ => none
  | .carverCompileEnd _ => none
  | .nodeCompletion _ => none
  | .pageLease _ => none
  | .pagingDoorbell _ => none
  | .requeue _ _ => none
  | .cancel _ _ => none
  | .gangAdmission _ _ => none
  | .workGraphRecordArrival _ => none
  | .workGraphBundleLaunch _ => none
  | .pageCompression _ _ => none
  | .pageMigration _ _ => none
  | .inboundAccess _ _ _ _ _ _ => none
  | .inboundTimeout _ => none
  | .pwenqAtTarget _ _ _ _ _ _ => none
  | .pwenqReply _ _ _ => none
  | .pwenqNoReply _ => none
  | .queueMap _ _ => none
  | .queueUnmap _ => none
  | .queueReset _ => none
  | .doorbell _ _ => none
  | .tree _ => none
  | .task _ => none
  | .gang _ => none
  | .barrier _ => none
  | .copy _ => none
  | .signal _ => none
  | .wnode _ => none
  | .measure _ => none
  | .nopPacket _ => none
  | .packetCompletion _ => none
  | .heldRecordFlush _ => none
  | .interruptCoalesceTimeout _ => none
  | .partitionConfigCommand _ => none
  | .partitionInstall => none
  | .leaderRenew => none
  | .leaderPoll _ => none
  | .headstockTakeover _ => none
  | .observationControlWrite _ _ => none
  | .stopAtTheMark _ => none
  | .resumeThePartition _ => none
  | .haltTask _ => none
  | .resumeTask _ => none
  | .setSingleStep _ => none
  | .clearSingleStep _ => none
  | .resumeObservation _ => none
  | .inputBoundary _ => none
  | .checkpoint _ => none
  | .lockstepInputMessage _ _ _ _ => none
  | .lockstepHashArrival _ _ => none
  | .lockstepHashTimeout _ => none
  | .freezePin => none
  | .freezeRegisterWrite _ => none
  | .select _ => none
  | .read => none
  | .idcode => none
  | .bypass => none
  | .powerCapWrite _ => none
  | .powerOverage => none
  | .monitorRefresh _ => none
  | .thermalRestore => none
  | .voltageStop => none
  | .attestationChallenge _ => none
  | .powerOnReset => none
  | .bringupStep => none
  | .hostRegisterWrite _ _ _ => none
  | .lapseClockPassed _ _ => none
  | .stallCounterClock _ => none
  | .powerFallsBelowCap => none
  | .msiXVectorUnmask _ => none
  | .faultQueueReadIndexWrite _ _ => none
  | .objrstAtHome _ => none
  | .pageMoveEnd _ => none
  | .hottestReadingRead _ => none
  | .powerFailure => none

/-- Decoding of an encoding. -/
def decodeEncoding : Encoding → Except DecodeError Instr
  | .short w => if isLong w then .error .unassigned else .ok (decodeH w)
  | .long w => if w.extractLsb' 0 1 == 1#1 then decode32 w else .error .unassigned

/-- The mnemonic of an instruction, as the opcode table has it. -/
def Instr.mnemonic (i : Instr) : String :=
  match i with
  | .movH _ _ _ => "MOV_H"
  | .addH _ _ _ => "ADD_H"
  | .subH _ _ _ => "SUB_H"
  | .mulH _ _ _ => "MUL_H"
  | .andH _ _ _ => "AND_H"
  | .orH _ _ _ => "OR_H"
  | .xorH _ _ _ => "XOR_H"
  | .shlH _ _ _ => "SHL_H"
  | .shrH _ _ _ => "SHR_H"
  | .sarH _ _ _ => "SAR_H"
  | .minH _ _ _ => "MIN_H"
  | .maxH _ _ _ => "MAX_H"
  | .faddH _ _ _ => "FADD_H"
  | .fmulH _ _ _ => "FMUL_H"
  | .fminH _ _ _ => "FMIN_H"
  | .fmaxH _ _ _ => "FMAX_H"
  | .add _ _ _ _ _ => "ADD"
  | .sub _ _ _ _ _ => "SUB"
  | .and _ _ _ _ _ => "AND"
  | .or _ _ _ _ _ => "OR"
  | .xor _ _ _ _ _ => "XOR"
  | .andn _ _ _ _ _ => "ANDN"
  | .addD _ _ _ _ _ => "ADD_D"
  | .subD _ _ _ _ _ => "SUB_D"
  | .shl _ _ _ _ _ => "SHL"
  | .shr _ _ _ _ _ => "SHR"
  | .sar _ _ _ _ _ => "SAR"
  | .rol _ _ _ _ _ => "ROL"
  | .ror _ _ _ _ _ => "ROR"
  | .bfxi _ _ _ _ _ => "BFXI"
  | .bfxz _ _ _ _ _ => "BFXZ"
  | .bfi _ _ _ _ _ => "BFI"
  | .minI32 _ _ _ _ _ => "MIN_I32"
  | .maxI32 _ _ _ _ _ => "MAX_I32"
  | .minZ32 _ _ _ _ _ => "MIN_Z32"
  | .maxZ32 _ _ _ _ _ => "MAX_Z32"
  | .addmin _ _ _ _ _ => "ADDMIN"
  | .addmax _ _ _ _ _ => "ADDMAX"
  | .absd _ _ _ _ _ => "ABSD"
  | .clamp _ _ _ _ _ => "CLAMP"
  | .mullo _ _ _ _ _ => "MULLO"
  | .mulhiI32 _ _ _ _ _ => "MULHI_I32"
  | .mulhiZ32 _ _ _ _ _ => "MULHI_Z32"
  | .madlo _ _ _ _ _ => "MADLO"
  | .divI32 _ _ _ _ _ => "DIV_I32"
  | .divZ32 _ _ _ _ _ => "DIV_Z32"
  | .remI32 _ _ _ _ _ => "REM_I32"
  | .remZ32 _ _ _ _ _ => "REM_Z32"
  | .popc _ _ _ => "POPC"
  | .clz _ _ _ => "CLZ"
  | .ctz _ _ _ => "CTZ"
  | .brev _ _ _ => "BREV"
  | .pfxp _ _ _ _ _ => "PFXP"
  | .perm _ _ _ _ _ => "PERM"
  | .find _ _ _ _ _ => "FIND"
  | .addi _ _ _ => "ADDI"
  | .andi _ _ _ => "ANDI"
  | .ori _ _ _ => "ORI"
  | .xori _ _ _ => "XORI"
  | .shli _ _ _ => "SHLI"
  | .shri _ _ _ => "SHRI"
  | .sari _ _ _ => "SARI"
  | .roli _ _ _ => "ROLI"
  | .movi _ _ => "MOVI"
  | .cmp _ _ _ _ _ _ _ => "CMP"
  | .cmpi _ _ _ _ _ _ => "CMPI"
  | .sel _ _ _ _ _ _ => "SEL"
  | .fadd _ _ _ _ _ => "FADD"
  | .fsub _ _ _ _ _ => "FSUB"
  | .fmul _ _ _ _ _ => "FMUL"
  | .fmin _ _ _ _ _ => "FMIN"
  | .fmax _ _ _ _ _ => "FMAX"
  | .fabs _ _ _ => "FABS"
  | .fneg _ _ _ => "FNEG"
  | .fcpys _ _ _ _ _ => "FCPYS"
  | .ffma _ _ _ _ => "FFMA"
  | .fma2 _ _ _ _ _ => "FMA2"
  | .dfma _ _ _ _ => "DFMA"
  | .duaddF16 _ _ _ _ _ => "DUADD_F16"
  | .duaddBf16 _ _ _ _ _ => "DUADD_BF16"
  | .dumulF16 _ _ _ _ _ => "DUMUL_F16"
  | .dumulBf16 _ _ _ _ _ => "DUMUL_BF16"
  | .duminF16 _ _ _ _ _ => "DUMIN_F16"
  | .duminBf16 _ _ _ _ _ => "DUMIN_BF16"
  | .dumaxF16 _ _ _ _ _ => "DUMAX_F16"
  | .dumaxBf16 _ _ _ _ _ => "DUMAX_BF16"
  | .dadd _ _ _ _ _ => "DADD"
  | .dsub _ _ _ _ _ => "DSUB"
  | .dmul _ _ _ _ _ => "DMUL"
  | .dmin _ _ _ _ _ => "DMIN"
  | .dmax _ _ _ _ _ => "DMAX"
  | .ddiv _ _ _ _ _ => "DDIV"
  | .dsqrt _ _ _ => "DSQRT"
  | .frcp _ _ _ => "FRCP"
  | .frsq _ _ _ => "FRSQ"
  | .fsqrt _ _ _ => "FSQRT"
  | .fdiv _ _ _ _ _ => "FDIV"
  | .fexp2 _ _ _ => "FEXP2"
  | .flog2 _ _ _ => "FLOG2"
  | .fsinpi _ _ _ => "FSINPI"
  | .fcospi _ _ _ => "FCOSPI"
  | .cvt _ _ _ _ _ _ => "CVT"
  | .cvtp _ _ _ _ => "CVTP"
  | .cvtpEf _ _ _ _ _ => "CVTP_EF"
  | .dot4I8 _ _ _ _ _ => "DOT4_I8"
  | .dot4Z8 _ _ _ _ _ => "DOT4_Z8"
  | .dot8I4 _ _ _ _ _ => "DOT8_I4"
  | .dot8Z4 _ _ _ _ _ => "DOT8_Z4"
  | .dot4D8a _ _ _ _ _ => "DOT4_D8A"
  | .dot4D8b _ _ _ _ _ => "DOT4_D8B"
  | .dot8D4 _ _ _ _ _ => "DOT8_D4"
  | .dot2Bf16 _ _ _ _ _ => "DOT2_BF16"
  | .lgetIdx _ _ _ _ _ => "LGET_IDX"
  | .lgetUp _ _ _ _ _ => "LGET_UP"
  | .lgetDn _ _ _ _ _ => "LGET_DN"
  | .lgetXor _ _ _ _ _ => "LGET_XOR"
  | .ballot _ _ _ => "BALLOT"
  | .redAddI32 _ _ _ => "RED_ADD_I32"
  | .scanAddI32 _ _ _ => "SCAN_ADD_I32"
  | .redMinI32 _ _ _ => "RED_MIN_I32"
  | .ld _ _ _ _ _ => "LD"
  | .st _ _ _ _ _ => "ST"
  | .ldacqW _ _ _ _ => "LDACQ_W"
  | .ldacqD _ _ _ _ => "LDACQ_D"
  | .strelW _ _ _ _ => "STREL_W"
  | .strelD _ _ _ _ => "STREL_D"
  | .pfetch _ _ _ => "PFETCH"
  | .ldsmpW _ _ _ _ => "LDSMP_W"
  | .fenceX _ => "FENCE_X"
  | .fenceAr _ _ => "FENCE_AR"
  | .fenceSc _ _ => "FENCE_SC"
  | .fenceEng _ _ => "FENCE_ENG"
  | .stflush _ => "STFLUSH"
  | .refetchFence => "REFETCH_FENCE"
  | .atomAdd _ _ _ _ _ => "ATOM_ADD"
  | .atomMinI32 _ _ _ _ _ => "ATOM_MIN_I32"
  | .atomMaxI32 _ _ _ _ _ => "ATOM_MAX_I32"
  | .atomMinZ32 _ _ _ _ _ => "ATOM_MIN_Z32"
  | .atomMaxZ32 _ _ _ _ _ => "ATOM_MAX_Z32"
  | .atomAnd _ _ _ _ _ => "ATOM_AND"
  | .atomOr _ _ _ _ _ => "ATOM_OR"
  | .atomXor _ _ _ _ _ => "ATOM_XOR"
  | .atomExch _ _ _ _ _ => "ATOM_EXCH"
  | .atomCas _ _ _ _ _ => "ATOM_CAS"
  | .atomIncw _ _ _ _ _ => "ATOM_INCW"
  | .atomDecw _ _ _ _ _ => "ATOM_DECW"
  | .atomFaddF32 _ _ _ _ _ => "ATOM_FADD_F32"
  | .atomFminF32 _ _ _ _ _ => "ATOM_FMIN_F32"
  | .atomFmaxF32 _ _ _ _ _ => "ATOM_FMAX_F32"
  | .atomAddD _ _ _ _ _ => "ATOM_ADD_D"
  | .txb _ => "TXB"
  | .txe => "TXE"
  | .txa _ => "TXA"
  | .fput _ _ _ => "FPUT"
  | .fputt _ _ _ => "FPUTT"
  | .fget _ _ => "FGET"
  | .barArr _ _ => "BAR_ARR"
  | .barWait _ _ => "BAR_WAIT"
  | .barSync _ _ => "BAR_SYNC"
  | .barAddb _ _ _ => "BAR_ADDB"
  | .barChk _ _ => "BAR_CHK"
  | .callo _ _ _ => "CALLO"
  | .crply _ _ => "CRPLY"
  | .objreg _ _ => "OBJREG"
  | .objrst _ _ => "OBJRST"
  | .rcv => "RCV"
  | .mke _ => "MKE"
  | .waitf _ => "WAITF"
  | .cbpush _ _ => "CBPUSH"
  | .cbcmt _ => "CBCMT"
  | .cbwait _ _ => "CBWAIT"
  | .cbpop _ => "CBPOP"
  | .acwait _ => "ACWAIT"
  | .regrow _ => "REGROW"
  | .regshr _ => "REGSHR"
  | .cont _ => "CONT"
  | .wrec _ _ => "WREC"
  | .pwenq _ _ => "PWENQ"
  | .yield => "YIELD"
  | .exit => "EXIT"
  | .setprg _ => "SETPRG"
  | .acp _ _ _ _ _ _ => "ACP"
  | .mfrag _ _ _ _ => "MFRAG"
  | .mtile _ => "MTILE"
  | .mspt _ => "MSPT"
  | .mring _ => "MRING"
  | .mwait _ => "MWAIT"
  | .part _ => "PART"
  | .pwait _ => "PWAIT"
  | .acb _ _ => "ACB"
  | .calcfg _ _ => "CALCFG"
  | .calref _ _ => "CALREF"
  | .calbnd _ _ => "CALBND"
  | .calrd _ _ _ => "CALRD"
  | .carvinv _ => "CARVINV"
  | .stmap _ _ => "STMAP"
  | .stunmap _ => "STUNMAP"
  | .nodeRd _ _ => "NODE_RD"
  | .nodeIn _ _ => "NODE_IN"
  | .nodeUp _ _ => "NODE_UP"
  | .nodeDn _ _ => "NODE_DN"
  | .xnext _ _ _ => "XNEXT"
  | .setstrm _ _ => "SETSTRM"
  | .mtok _ => "MTOK"
  | .br _ _ _ => "BR"
  | .call _ => "CALL"
  | .jmp _ => "JMP"
  | .callr _ => "CALLR"
  | .ret _ => "RET"
  | .nop => "NOP"
  | .pred _ _ => "PRED"
  | .srd _ _ => "SRD"
  | .swr _ _ => "SWR"
  | .setrm _ => "SETRM"
  | .clrff _ => "CLRFF"
  | .trapi _ => "TRAPI"
  | .brk => "BRK"
  | .rett => "RETT"
  | .kill => "KILL"
  | .killb => "KILLB"
  | .oreg _ _ => "OREG"
  | .owr _ _ => "OWR"
  | .opc _ => "OPC"
  | .halt => "HALT"
  | .refetch => "REFETCH"
  | .ext _ => "EXT"
  | .laneResultWrite _ => "LANE_RESULT_WRITE"
  | .mfragResultWrite _ => "MFRAG_RESULT_WRITE"
  | .yieldEnd _ _ => "YIELD_END"
  | .lateResultArrival _ => "LATE_RESULT_ARRIVAL"
  | .storeQueueDrain _ => "STORE_QUEUE_DRAIN"
  | .homeStoreArrival _ => "HOME_STORE_ARRIVAL"
  | .storeAcknowledgement _ => "STORE_ACKNOWLEDGEMENT"
  | .homeLoadRequest _ => "HOME_LOAD_REQUEST"
  | .ctimeTick _ => "CTIME_TICK"
  | .remoteCopyExpiry _ _ => "REMOTE_COPY_EXPIRY"
  | .negativeAcknowledgement _ => "NEGATIVE_ACKNOWLEDGEMENT"
  | .backoffResend _ => "BACKOFF_RESEND"
  | .peerLoadFailure _ _ => "PEER_LOAD_FAILURE"
  | .stashFillReturn _ _ _ => "STASH_FILL_RETURN"
  | .stashLineRecall _ _ _ => "STASH_LINE_RECALL"
  | .engineRegistration _ => "ENGINE_REGISTRATION"
  | .engineLineWrite _ => "ENGINE_LINE_WRITE"
  | .copyComplete _ => "COPY_COMPLETE"
  | .acbSlotCommit _ => "ACB_SLOT_COMMIT"
  | .networkBarrierArrival _ _ => "NETWORK_BARRIER_ARRIVAL"
  | .blockAdmission _ _ => "BLOCK_ADMISSION"
  | .blockCompletion _ => "BLOCK_COMPLETION"
  | .regrowGrant _ => "REGROW_GRANT"
  | .regshrShed _ => "REGSHR_SHED"
  | .handlerWaveFormation _ => "HANDLER_WAVE_FORMATION"
  | .impreciseFault _ _ => "IMPRECISE_FAULT"
  | .preemptionRequest _ => "PREEMPTION_REQUEST"
  | .drainLimitExpiry _ => "DRAIN_LIMIT_EXPIRY"
  | .blockRestore _ _ => "BLOCK_RESTORE"
  | .urgentAdmissionTimeout _ => "URGENT_ADMISSION_TIMEOUT"
  | .txValidateAtHome _ _ => "TX_VALIDATE_AT_HOME"
  | .txCommitResult _ _ => "TX_COMMIT_RESULT"
  | .turnTokenGrant _ => "TURN_TOKEN_GRANT"
  | .futureOpAtHome _ => "FUTURE_OP_AT_HOME"
  | .futureAnswer _ => "FUTURE_ANSWER"
  | .objregAtHome _ => "OBJREG_AT_HOME"
  | .calloArrival _ => "CALLO_ARRIVAL"
  | .combinerWaveFormation _ => "COMBINER_WAVE_FORMATION"
  | .combinerWaveEnd _ => "COMBINER_WAVE_END"
  | .combinerWaveAbort _ => "COMBINER_WAVE_ABORT"
  | .calloReply _ => "CALLO_REPLY"
  | .powerTokenGrant _ => "POWER_TOKEN_GRANT"
  | .tileCommandComplete _ => "TILE_COMMAND_COMPLETE"
  | .partComplete _ => "PART_COMPLETE"
  | .msptAtCarver _ => "MSPT_AT_CARVER"
  | .carverCompileEnd _ => "CARVER_COMPILE_END"
  | .nodeCompletion _ => "NODE_COMPLETION"
  | .pageLease _ => "PAGE_LEASE"
  | .pagingDoorbell _ => "PAGING_DOORBELL"
  | .requeue _ _ => "REQUEUE"
  | .cancel _ _ => "CANCEL"
  | .gangAdmission _ _ => "GANG_ADMISSION"
  | .workGraphRecordArrival _ => "WORK_GRAPH_RECORD_ARRIVAL"
  | .workGraphBundleLaunch _ => "WORK_GRAPH_BUNDLE_LAUNCH"
  | .pageCompression _ _ => "PAGE_COMPRESSION"
  | .pageMigration _ _ => "PAGE_MIGRATION"
  | .inboundAccess _ _ _ _ _ _ => "INBOUND_ACCESS"
  | .inboundTimeout _ => "INBOUND_TIMEOUT"
  | .pwenqAtTarget _ _ _ _ _ _ => "PWENQ_AT_TARGET"
  | .pwenqReply _ _ _ => "PWENQ_REPLY"
  | .pwenqNoReply _ => "PWENQ_NO_REPLY"
  | .queueMap _ _ => "QUEUE_MAP"
  | .queueUnmap _ => "QUEUE_UNMAP"
  | .queueReset _ => "QUEUE_RESET"
  | .doorbell _ _ => "DOORBELL"
  | .tree _ => "TREE"
  | .task _ => "TASK"
  | .gang _ => "GANG"
  | .barrier _ => "BARRIER"
  | .copy _ => "COPY"
  | .signal _ => "SIGNAL"
  | .wnode _ => "WNODE"
  | .measure _ => "MEASURE"
  | .nopPacket _ => "NOP_PACKET"
  | .packetCompletion _ => "PACKET_COMPLETION"
  | .heldRecordFlush _ => "HELD_RECORD_FLUSH"
  | .interruptCoalesceTimeout _ => "INTERRUPT_COALESCE_TIMEOUT"
  | .partitionConfigCommand _ => "PARTITION_CONFIG_COMMAND"
  | .partitionInstall => "PARTITION_INSTALL"
  | .leaderRenew => "LEADER_RENEW"
  | .leaderPoll _ => "LEADER_POLL"
  | .headstockTakeover _ => "HEADSTOCK_TAKEOVER"
  | .observationControlWrite _ _ => "OBSERVATION_CONTROL_WRITE"
  | .stopAtTheMark _ => "STOP_AT_THE_MARK"
  | .resumeThePartition _ => "RESUME_THE_PARTITION"
  | .haltTask _ => "HALT_TASK"
  | .resumeTask _ => "RESUME_TASK"
  | .setSingleStep _ => "SET_SINGLE_STEP"
  | .clearSingleStep _ => "CLEAR_SINGLE_STEP"
  | .resumeObservation _ => "RESUME_OBSERVATION"
  | .inputBoundary _ => "INPUT_BOUNDARY"
  | .checkpoint _ => "CHECKPOINT"
  | .lockstepInputMessage _ _ _ _ => "LOCKSTEP_INPUT_MESSAGE"
  | .lockstepHashArrival _ _ => "LOCKSTEP_HASH_ARRIVAL"
  | .lockstepHashTimeout _ => "LOCKSTEP_HASH_TIMEOUT"
  | .freezePin => "FREEZE_PIN"
  | .freezeRegisterWrite _ => "FREEZE_REGISTER_WRITE"
  | .select _ => "SELECT"
  | .read => "READ"
  | .idcode => "IDCODE"
  | .bypass => "BYPASS"
  | .powerCapWrite _ => "POWER_CAP_WRITE"
  | .powerOverage => "POWER_OVERAGE"
  | .monitorRefresh _ => "MONITOR_REFRESH"
  | .thermalRestore => "THERMAL_RESTORE"
  | .voltageStop => "VOLTAGE_STOP"
  | .attestationChallenge _ => "ATTESTATION_CHALLENGE"
  | .powerOnReset => "POWER_ON_RESET"
  | .bringupStep => "BRINGUP_STEP"
  | .hostRegisterWrite _ _ _ => "HOST_REGISTER_WRITE"
  | .lapseClockPassed _ _ => "LAPSE_CLOCK_PASSED"
  | .stallCounterClock _ => "STALL_COUNTER_CLOCK"
  | .powerFallsBelowCap => "POWER_FALLS_BELOW_CAP"
  | .msiXVectorUnmask _ => "MSI_X_VECTOR_UNMASK"
  | .faultQueueReadIndexWrite _ _ => "FAULT_QUEUE_READ_INDEX_WRITE"
  | .objrstAtHome _ => "OBJRST_AT_HOME"
  | .pageMoveEnd _ => "PAGE_MOVE_END"
  | .hottestReadingRead _ => "HOTTEST_READING_READ"
  | .powerFailure => "POWER_FAILURE"

end Sys2Proof
end

