-- ==== Sys2Proof/Machine/Ops.lean ====
section
/-! DEFINITION. The named operations over memory, registers and records; translation; leaving a transaction, ending a thread or a
block, and taking an exception (raise), with the return from one beside it. -/

namespace Sys2Proof.Machine

/-! Memory: the canonical list of bytes. -/

/-- The byte at an address; an unlisted address reads as 0. -/
def readByte : Mem → Nat → Byte
  | [], _ => 0
  | (b, v) :: m, a => if a = b then v else if a < b then 0 else readByte m a

/-- Write one byte, keeping the canonical form: rising addresses, no byte 0 listed. -/
def writeByte : Mem → Nat → Byte → Mem
  | [], a, v => if v = 0 then [] else [(a, v)]
  | (b, w) :: m, a, v =>
    if a < b then (if v = 0 then (b, w) :: m else (a, v) :: (b, w) :: m)
    else if a = b then (if v = 0 then m else (a, v) :: m)
    else (b, w) :: writeByte m a v

/-- The n bytes from an address on. -/
def readBytes (m : Mem) (a n : Nat) : List Byte := (List.range n).map fun i => readByte m (a + i)

/-- The cells of consecutive bytes from an address on: those that are not 0. -/
def cellsOf : Nat → List Byte → Mem
  | _, [] => []
  | a, v :: vs => if v = 0 then cellsOf (a + 1) vs else (a, v) :: cellsOf (a + 1) vs

/-- Write bytes from an address on. -/
def writeBytes (m : Mem) (a : Nat) (bs : List Byte) : Mem :=
  m.filter (fun c => decide (c.1 < a)) ++ cellsOf a bs ++ m.filter fun c => decide (a + bs.length ≤ c.1)

/-- Addresses strictly rising from a bound on. -/
def Mem.rising : Nat → Mem → Bool
  | _, [] => true
  | lo, (a, v) :: m => decide (lo ≤ a) && !(v == 0) && Mem.rising (a + 1) m

/-- The canonical form: strictly rising addresses and no listed byte equal to what an unlisted address reads as. -/
def Mem.wf (m : Mem) : Bool := Mem.rising 0 m

/-! Registers and predicates of a thread. -/

/-- A register; w0 is full and reads 0 (R24, R92). -/
def Thread.reg (t : Thread) (n : Nat) : Reg := if n = 0 then {} else t.regs.getD n {}

/-- A register's value. -/
def Thread.val (t : Thread) (n : Nat) : Word := (t.reg n).val

/-- A pair's 64 bits: the even register is the low word (R102). -/
def Thread.pair (t : Thread) (n : Nat) : DWord := t.val (n + 1) ++ t.val n

/-- The values of n registers. -/
def Thread.vals (t : Thread) (r n : Nat) : List Word := (List.range n).map fun i => t.val (r + i)

/-- Put a register; w0 discards (R24). -/
def Thread.put (t : Thread) (n : Nat) (r : Reg) : Thread :=
  if n = 0 then t else { t with regs := t.regs.set n r }

/-- Write a register and leave it full (R92, R95). -/
def Thread.write (t : Thread) (n : Nat) (v : Word) : Thread := t.put n { val := v, st := .full }

/-- Write consecutive registers. -/
def Thread.writes (t : Thread) (n : Nat) : List Word → Thread
  | [] => t
  | v :: vs => Thread.writes (t.write n v) (n + 1) vs

/-- Write a pair, the low word to the even register. -/
def Thread.writePair (t : Thread) (n : Nat) (v : DWord) : Thread :=
  (t.write n (v.extractLsb' 0 32)).write (n + 1) (v.extractLsb' 32 32)

/-- Give a register another state and keep its value. -/
def Thread.mark (t : Thread) (n : Nat) (st : RegState) : Thread := t.put n { val := t.val n, st := st }

/-- Give n registers from r on another state. -/
def Thread.marks (t : Thread) (r : Nat) (st : RegState) : Nat → Thread
  | 0 => t
  | n + 1 => Thread.marks (t.mark r st) (r + 1) st n

/-- A predicate; p7 reads 1 (R100). -/
def Thread.pred (t : Thread) (p : Nat) : Bool := if p ≥ 7 then true else t.preds.getD p false

/-- Write a predicate p0 to p6. -/
def Thread.setPred (t : Thread) (p : Nat) (v : Bool) : Thread := { t with preds := t.preds.set p v }

/-- Raise sticky flags (R121). -/
def Thread.orFlags (t : Thread) (f : Word) : Thread := { t with fflags := t.fflags ||| f }

/-- Move on: the thread has issued, stands at a new PC and waits for nothing (R62). -/
def Thread.goto (t : Thread) (pc : DWord) : Thread :=
  { t with pc := pc, waitCount := 0, mid := none, conv := none }

/-- A live thread (R60). -/
def Thread.live (t : Thread) : Bool := match t.life with
  | .live => true
  | _ => false

/-- A parked thread. -/
def Thread.park? (t : Thread) : Option Park := match t.life with
  | .parked p => some p
  | _ => none

/-! Records of the state. -/

/-- A resident bundle by name. -/
def State.bundle? (s : State) (b : Nat) : Option Bundle := s.bundles.find? (·.id == b)

/-- Change a bundle. -/
def State.modBundle (s : State) (b : Nat) (f : Bundle → Bundle) : State :=
  { s with bundles := upd s.bundles (·.id == b) f }

/-- A lane's thread. -/
def State.thread? (s : State) (b l : Nat) : Option Thread := (s.bundle? b).bind (·.threads[l]?)

/-- Change a lane's thread. -/
def State.modThread (s : State) (b l : Nat) (f : Thread → Thread) : State :=
  s.modBundle b fun x => { x with threads := x.threads.modify l f }

/-- A lane's thread, or a fresh one where there is none. -/
def State.thread (s : State) (b l : Nat) : Thread := (s.thread? b l).getD {}

/-- A resident block by name. -/
def State.block? (s : State) (b : Nat) : Option Block := s.blocks.find? (·.id == b)

/-- Change a block. -/
def State.modBlock (s : State) (b : Nat) (f : Block → Block) : State :=
  { s with blocks := upd s.blocks (·.id == b) f }

/-- A task by the model's name. -/
def State.task? (s : State) (t : Nat) : Option Task := s.tasks.find? (·.id == t)

/-- Change a task. -/
def State.modTask (s : State) (t : Nat) (f : Task → Task) : State := { s with tasks := upd s.tasks (·.id == t) f }

/-- The block a bundle works for: its own, or its origin's; none for a combiner wave. -/
def Owner.block? : Owner → Option Nat
  | .block b => some b
  | .handler b => some b
  | .wave _ => none

/-- The block a bundle works for; a combiner wave's own block-scope state (R264). -/
def State.blockOf (s : State) (b : Bundle) : Option Block := match b.owner with
  | .wave w => (s.waves.find? (·.id == w)).map (·.blk)
  | .block k => s.block? k
  | .handler k => s.block? k

/-- Change the block a bundle works for, or its wave's block-scope state. -/
def State.modBlk (s : State) (b : Bundle) (f : Block → Block) : State := match b.owner with
  | .wave w => { s with waves := upd s.waves (·.id == w) fun x => { x with blk := f x.blk } }
  | .block k => s.modBlock k f
  | .handler k => s.modBlock k f

/-- A bundle's task. -/
def State.taskOf (s : State) (b : Bundle) : Option Task := (s.blockOf b).bind (fun k => s.task? k.task)

/-- A core. -/
def State.core (s : State) (c : Nat) : Core := s.cores.getD c {}

/-- Change a core. -/
def State.modCore (s : State) (c : Nat) (f : Core → Core) : State := { s with cores := s.cores.modify c f }

/-- The die of a core (R7). -/
def dieOf (core : Nat) : Nat := core / 160

/-- A die. -/
def State.die (s : State) (d : Nat) : Die := s.dies.getD d {}

/-- Change a die. -/
def State.modDie (s : State) (d : Nat) (f : Die → Die) : State := { s with dies := s.dies.modify d f }

/-- A partition. -/
def State.part (s : State) (p : Nat) : Partition := s.partitions.getD p {}

/-- Change a partition. -/
def State.modPart (s : State) (p : Nat) (f : Partition → Partition) : State :=
  { s with partitions := s.partitions.modify p f }

/-- A queue slot. -/
def State.slot (s : State) (n : Nat) : Slot := s.slots.getD n {}

/-- Change a queue slot. -/
def State.modSlot (s : State) (n : Nat) (f : Slot → Slot) : State := { s with slots := s.slots.modify n f }

/-- An outstanding request by name. -/
def State.req? (s : State) (r : Nat) : Option Req := s.reqs.find? (·.id == r)

/-- Change a request. -/
def State.modReq (s : State) (r : Nat) (f : Req → Req) : State := { s with reqs := upd s.reqs (·.id == r) f }

/-- Remove a request. -/
def State.dropReq (s : State) (r : Nat) : State := { s with reqs := s.reqs.filter (fun x => !(x.id == r)) }

/-- A line's state at its home slice (R153). -/
def State.line (s : State) (n : Nat) : Line := (s.lines.find? (·.line == n)).getD { line := n }

/-- Change a line's state at its home slice. -/
def State.modLine (s : State) (n : Nat) (f : Line → Line) : State :=
  if s.lines.any (·.line == n) then { s with lines := upd s.lines (·.line == n) f }
  else { s with lines := s.lines ++ [f { line := n }] }

/-- What a die has received of a line homed on another (R154, R191). -/
def State.dieLine (s : State) (d ln : Nat) : DieLine := ((s.die d).received.find? (·.line == ln)).getD { line := ln }

/-- Change that. -/
def State.modDieLine (s : State) (d ln : Nat) (f : DieLine → DieLine) : State :=
  s.modDie d fun x => if x.received.any (·.line == ln) then { x with received := upd x.received (·.line == ln) f }
    else { x with received := x.received ++ [f { line := ln }] }

/-- The next free name. -/
def State.next (s : State) : State := { s with fresh := s.fresh + 1 }

/-- Advance the counter that free values are drawn with. -/
def State.drawn (s : State) : State := { s with draw := s.draw + 1 }

/-- %time in ns on a die (R10, R11, R425): 20/21 of the clocks since reset, plus a skew of at most 7 ns between dies, so that readings stay
within 8 ns of one that R425 rounds down twice. -/
def State.time (s : State) (d : Nat) : Nat :=
  s.clk * 20 / 21 + (if d = 0 then 0 else min 7 (Config.timeSkew d))

/-- Whether a partition runs in deterministic mode (R416, R424). -/
def Partition.det (p : Partition) : Bool := bit p.control.toNat 4

/-- Send an MSI-X message, or set the pending bit of a masked vector (R408). -/
def State.msix (s : State) (v : Nat) : State :=
  if !(s.msixOpen.contains v) then
    (if s.msixPending.contains v then s else { s with msixPending := s.msixPending ++ [v] })
  else { s with out := s.out ++ [.msix v] }

/-- A message leaves the package. -/
def State.emit (s : State) (m : Message) : State := match m with
  | .msix v => s.msix v
  | m => { s with out := s.out ++ [m] }

/-- Whether a partition runs in lockstep (R429). -/
def Partition.lockstep (p : Partition) : Bool := p.det && bit p.control.toNat 5

/-- A message of a partition (R428, R429): not sent again during re-execution, held for the hashes in lockstep. -/
def State.send (s : State) (p : Nat) (m : Message) : State :=
  let q := s.part p
  if q.det && q.quiet && !q.replay.isEmpty then s
  else if q.lockstep then s.modPart p fun q => { q with heldOut := q.heldOut ++ [(q.interval, m)] }
  else s.emit m

/-- An external input of a partition (R425): in deterministic mode it is held to the next input boundary; a lockstep primary
sends it to its secondary ahead of that (R429). -/
def State.external (s : State) (p : Nat) (i : Input) (f : State → State) : State :=
  let q := s.part p
  if !q.det then f s
  else
    let s := s.modPart p fun q => { q with inputs := q.inputs ++ [i] }
    if q.lockstep && bit q.control.toNat 6 then { s with out := s.out ++ [.inputs q.link i] } else s

/-- The request, command or block that an input names, where it names one. -/
def Input.op : Input → Option Nat
  | .enqueueReply op _ _ | .noReply op | .reply op _ _ | .failed op _ | .refused op _ | .copied op _ | .preempt op => some op
  | _ => none

/-- The same for a peer's answer to a request or command: one that is held already is not held again. -/
def State.externalOnce (s : State) (p op : Nat) (i : Input) (f : State → State) : State :=
  if (s.part p).det && (s.part p).inputs.any (·.op == some op) then s else s.external p i f

/-- %time as a partition's threads read it: in deterministic mode from the current boundary (R425). -/
def State.timeIn (s : State) (p d : Nat) : Nat :=
  let q := s.part p
  if q.det then q.boundaryTime + (s.clk - q.boundaryClk) * 20 / 21 else s.time d

/-! Physical memory and translation. -/

/-- The die that homes a physical address (R145). -/
def homeDie (pa : Nat) : Nat := if pa < 2 ^ 39 then bits pa 38 37 else bits pa 44 42 / 2

/-- The slice, within its die, that homes a physical address (R145). -/
def homeSlice (pa : Nat) : Nat := (bits pa 10 6 ^^^ bits pa 15 11) ^^^ bits pa 20 16

/-- Whether a physical address lies in HBM, or in the second tier (R145). -/
def inHbm (pa : Nat) : Bool := decide (pa < 2 ^ 39)
def inTier2 (pa : Nat) : Bool := decide (0x200000000000 ≤ pa) && decide (pa < 0x400000000000)

/-- Where a virtual address lies under translation entries (R388). -/
def translate (xs : List Xlat) (va : Nat) : Option Nat :=
  (xs.find? fun x => decide (x.va ≤ va) && decide (va < x.va + x.len)).map fun x => x.pa + (va - x.va)

/-- A task's declared ranges and its code range, with the read right (R367). -/
def Program.allRanges (p : Program) : List Range :=
  p.ranges.filter (fun r => decide (0 < r.len)) ++ [{ base := p.codeBase, len := p.codeLen, r := true, w := false }]

/-- An object's state range and its code range (R264). -/
def Obj.ranges (o : Obj) : List Range :=
  [{ base := o.stateAddr, len := o.stateLen, r := true, w := true }, { base := o.method.toNat, len := o.codeLen, r := true, w := false }]

/-- Whether a physical byte lies under translation entries, in a readable range. -/
def isCode (xs : List Xlat) (rs : List Range) (pa : Nat) : Bool :=
  xs.any fun x => decide (x.pa ≤ pa) && decide (pa < x.pa + x.len) && rs.any fun r => r.r && inside (x.va + (pa - x.pa)) 1 r.base r.len

/-- Whether a physical byte lies under translation entries. -/
def translatesTo (xs : List Xlat) (pa : Nat) : Bool := xs.any fun x => decide (x.pa ≤ pa) && decide (pa < x.pa + x.len)

/-- A core's view of a byte: the newest of its stores that has entered its L1 and is not yet acknowledged (R148), else memory. A stash
write-back is seen once its home has it. -/
def State.viewByte (s : State) (c pa : Nat) : Byte :=
  s.reqs.foldl (fun v r => if r.core == c && !(r.phase == .issued) then match r.kind, r.place with
    | .store d _, .mem q => if q ≤ pa && pa < q + d.length then d.getD (pa - q) 0 else v
    | _, _ => v
    else v) (readByte s.mem pa)

/-- A core's view of a parcel, as its fetch reads it. -/
def State.viewParcel (s : State) (c pa : Nat) : BitVec 16 := s.viewByte c (pa + 1) ++ s.viewByte c pa

/-- Parcels that changed in a core's view between two states, among those of a span of addresses, with what they were (R23). -/
def State.oldParcels (before after : State) (c pa n : Nat) (held : List (Nat × BitVec 16)) (p : Nat → Bool) : List (Nat × BitVec 16) :=
  ((List.range (n / 2 + 1)).map fun i => pa / 2 * 2 + 2 * i).filterMap fun a =>
    let old := before.viewParcel c a
    if p a && !(old == after.viewParcel c a) && !(held.contains (a, old)) then some (a, old) else none

/-- Record code parcels that a block, its handlers or a wave may still fetch as they were before a step changed them (R23). -/
def State.staleCode (now before : State) (pa n : Nat) : State :=
  let blk (k : Block) : Block := match before.task? k.task with
    | none => k
    | some t =>
      let old := before.oldParcels now k.core pa n k.icode fun a =>
        isCode t.xlat t.program.allRanges a || translatesTo (before.part t.partition).handlers a
      { k with icode := k.icode ++ old }
  let wav (w : Wave) : Wave := match before.objects.find? (·.id == w.obj) with
    | none => w
    | some o =>
      let old := before.oldParcels now w.blk.core pa n w.blk.icode fun a => isCode o.xlat o.ranges a
      { w with blk := { w.blk with icode := w.blk.icode ++ old } }
  { now with blocks := now.blocks.map blk, waves := now.waves.map wav
             saved := now.saved.map fun x => { x with block := blk x.block } }

/-- A leaf found by a walk of the page table (R386, R387). -/
structure Leaf where
  pa : Nat
  size : Nat
  r : Bool
  w : Bool
  c : Bool
  m : Bool
  entry : Nat
  deriving DecidableEq, Repr

/-- One entry of the walk (R386, R387) at a level: a leaf, the next table, or invalid (an entry that breaks R387). -/
def pte (mem : Mem) (va table lvl : Nat) : Option (Leaf ⊕ Nat) :=
  let shift := 16 + 10 * lvl
  let at_ := table + 8 * bits va (shift + 9) shift
  let e := leNat (readBytes mem at_ 8)
  let addr := bits e 45 16 * 65536
  if !(bit e 0) || !(bits e 63 46 == 0) || !(bits e 15 8 == 0) || bit e 4 then none
  else if bit e 1 then
    if lvl = 3 || !(addr % 2 ^ shift == 0) || (bit e 5 && !(lvl == 0)) then none
    else if !(bit e 5) && !(if bit e 7 then inTier2 addr else inHbm addr) then none
    else some (.inl { pa := addr, size := 2 ^ shift, r := bit e 2, w := bit e 3, c := bit e 5, m := bit e 6, entry := at_ })
  else if lvl = 0 || bit e 5 then none else some (.inr addr)

/-- The walk from a table at a level down (R386). -/
def walkFrom (mem : Mem) (va : Nat) : Nat → Nat → Option Leaf
  | 0, table => match pte mem va table 0 with
    | some (.inl lf) => some lf
    | _ => none
  | k + 1, table => match pte mem va table (k + 1) with
    | some (.inl lf) => some lf
    | some (.inr t) => walkFrom mem va k t
    | none => none

/-- The walk of a partition's page table for a virtual address (R386). -/
def State.walk (s : State) (p va : Nat) : Option Leaf := walkFrom s.mem va 3 (s.part p).root.toNat

/-- The entries of a partition's current leases that hold a page's leaf: of tasks, grids, nodes, objects, its handler range and its
Headstock structures (R366). -/
def State.held (s : State) (p : Nat) : List Xlat :=
  ((s.tasks.filter fun t => t.partition == p && t.leased).flatMap (·.xlat) ++ (s.grids.filter fun g => g.partition == p && g.leased).flatMap (·.xlat) ++
    (s.wnodes.filter (·.partition == p)).flatMap (·.xlat) ++ (s.objects.filter (·.partition == p)).flatMap (·.xlat) ++ (s.part p).handlers ++
    (s.leases.filter (·.partition == p)).flatMap (·.xlat)).filter (·.table)

/-- The leaf through which the Headstock translates an address: while its page is leased the one of that lease, whatever software has
since written to the table (R366; log entry 118), by pages of 64 KiB; else the page table's. -/
def State.leaf (s : State) (p va : Nat) : Option Leaf :=
  match (s.held p).find? fun x => decide (x.va ≤ va) && decide (va < x.va + x.len) with
  | some x => some { pa := x.pa + (va / 65536 * 65536 - x.va), size := 65536, r := x.r, w := x.w, c := false, m := false, entry := 0 }
  | none => s.walk p va

/-- Where a partition's virtual address lies, with the right asked for (R450); none: invalid leaf or missing right. -/
def State.vpa (s : State) (p va : Nat) (wr : Bool) : Option Nat :=
  match s.leaf p va with
  | some lf => if va < 2 ^ 56 && (if wr then lf.w else lf.r) && !lf.c then some (lf.pa + va % lf.size) else none
  | none => none

/-- The Headstock's read of n bytes at a partition's virtual address (R450). -/
def State.vread (s : State) (p va n : Nat) : Option (List Byte) :=
  (List.range n).mapM fun i => (s.vpa p (va + i) false).map (readByte s.mem)

/-- Whether a physical byte is memory of a partition: some task of it, or some page it leases, reaches it. -/
def State.partMem (s : State) (p pa : Nat) : Bool :=
  (s.tasks.any fun t => t.partition == p && t.xlat.any fun x => decide (x.pa ≤ pa) && decide (pa < x.pa + x.len)) ||
  (s.leases.any fun l => l.partition == p && translatesTo l.xlat pa)

/-- A partition's undo log takes a line before its first store in an interval (R426). -/
def State.undoFor (s : State) (p ln : Nat) : State :=
  s.modPart p fun q =>
    if !q.det then q
    else { q with logs := match q.logs with
      | [] => []
      | i :: is => (if i.undo.any (·.1 == ln) then i else { i with undo := (ln, readBytes s.mem (64 * ln) 64) :: i.undo }) :: is }

/-- A line about to change goes to the undo log of the deterministic partition whose memory it is (R426). -/
def State.undoLine (s : State) (ln : Nat) : State :=
  (List.range s.partitions.length).foldl (fun s p => if (s.part p).det && s.partMem p (64 * ln) then s.undoFor p ln else s) s

/-- In a lockstep partition the interval's stores are kept for its hash (R429). -/
def State.logStore (s : State) (pa : Nat) (bs : List Byte) : State :=
  { s with partitions := s.partitions.mapIdx fun p q =>
      if q.lockstep && s.partMem p pa then { q with logs := match q.logs with
        | [] => []
        | i :: is => { i with stores := i.stores ++ [(32 * homeDie pa + homeSlice pa, leBytes 8 pa ++ bs)] } :: is }
      else q }

/-! The boxes of a tree grid (R219, R222): where the Lathe keeps them. -/

/-- The virtual address of each unspilled box of a stack: packed from the segment's base, the bottom box lowest. -/
def keptAt (base : Nat) : List Box → List (Nat × Nat)
  | [] => []
  | b :: below => if b.spilled then keptAt base below
    else (b.id, base + ((below.filter fun x => !x.spilled).map (·.size)).sum) :: keptAt base below

/-- The address of each spilled box, packed from the spill base in whole 4 KiB units. -/
def spilledAt (base : Nat) : List Box → List (Nat × Nat)
  | [] => []
  | b :: more => (b.id, base) :: spilledAt (base + (b.size + 4095) / 4096 * 4096) more

/-- The boxes of a grid. -/
def Grid.boxes (g : Grid) : List Box := g.billets.flatMap (·.stack)

/-- The address of every box of a grid. -/
def Grid.homes (g : Grid) : List (Nat × Nat) :=
  (g.billets.flatMap fun b => keptAt (leNat ((g.desc.drop 48).take 8) + b.segment * g.stride) b.stack) ++
    spilledAt (leNat ((g.desc.drop 72).take 8)) (g.boxes.filter (·.spilled))

/-- Change a box of a grid. -/
def Grid.modBox (g : Grid) (id : Nat) (f : Box → Box) : Grid :=
  { g with billets := g.billets.map fun b => { b with stack := upd b.stack (·.id == id) f } }

/-- A byte stored where the Lathe keeps a box changes the box (R210). -/
def Grid.takeByte (g : Grid) (pa : Nat) (v : Byte) : Grid :=
  match g.xlat.find? fun x => decide (x.pa ≤ pa) && decide (pa < x.pa + x.len) with
  | none => g
  | some x =>
    let va := x.va + (pa - x.pa)
    match g.homes.find? fun h => g.boxes.any fun b => b.id == h.1 && decide (h.2 ≤ va) && decide (va < h.2 + b.size) with
    | none => g
    | some h => g.modBox h.1 fun b => { b with bytes := writeByte b.bytes (va - h.2) v }

/-- Bytes stored from an address on, as a grid's boxes take them. -/
def Grid.takeBytes (g : Grid) (pa : Nat) : List Byte → Grid
  | [] => g
  | v :: vs => Grid.takeBytes (g.takeByte pa v) (pa + 1) vs

/-! What running engine commands may still read as it was (R199). -/

/-- The 4-byte words that a store of n bytes meets, as they stand. -/
def oldWords (block : Option Nat) (m : Mem) (a n : Nat) : List OldWord :=
  (List.range ((a % 4 + n + 3) / 4)).map fun i => { block := block, at_ := a / 4 * 4 + 4 * i, bytes := readBytes m (a / 4 * 4 + 4 * i) 4 }

/-- Whether a thread has an earlier store or ATOM in a stream that its home has not taken. -/
def State.ownBefore (s : State) (b l stream id : Nat) : Bool :=
  s.reqs.any fun r => r.bundle == b && (r.lane :: r.also).contains l && r.stream == stream && decide (r.id < id) && match r.kind, r.phase with
    | .store _ _, .done _ _ _ _ => false
    | .atom _ _ _ _ _, .done _ _ _ _ => false
    | .store _ _, _ => true
    | .atom _ _ _ _ _, _ => true
    | _, _ => false

/-- Running commands keep the words of global memory that a store is about to change: sparse commands for their values, PARTs for their
vectors, copies for their sources; none keeps what its own thread's earlier stores change. -/
def State.keepGlobal (s : State) (pa n : Nat) : State :=
  let ws := oldWords none s.mem pa n
  { s with
    tiles := upd s.tiles (fun t => t.bind == 2 || t.bind == 3) fun t => { t with olds := t.olds ++ ws }
    parts := s.parts.map fun p => { p with olds := p.olds ++ ws }
    copies := upd s.copies (fun c => !(s.ownBefore c.bundle c.lane c.stream c.id)) fun c => { c with olds := c.olds ++ ws }
    acbs := upd s.acbs (fun c => !(s.ownBefore c.bundle c.lane c.stream c.id)) fun c => { c with olds := c.olds ++ ws } }

/-- A byte as a running command reads it: now, or as one of the older words at its place has it, one choice for the whole word. -/
def State.oldOr (s : State) (olds : List OldWord) (block : Option Nat) (a : Nat) (now : Byte) : Byte :=
  match olds.filter fun o => o.block == block && o.at_ == a / 4 * 4 with
  | [] => now
  | os => match os[Config.pick (s.draw + 2 ^ 64 * (a / 4 + 1)) % (os.length + 1)]? with
    | some o => o.bytes.getD (a % 4) now
    | none => now

/-- Write physical memory: older code parcels stay fetchable (R23), and older words for engines that run (R199); the interval's undo log
takes the lines (R426), and so do the boxes of a tree grid kept there (R210). -/
def State.store (s : State) (pa : Nat) (bs : List Byte) : State :=
  let s := (distinct ((List.range bs.length).map fun i => (pa + i) / 64)).foldl State.undoLine s
  let s := (s.logStore pa bs).keepGlobal pa bs.length
  State.staleCode { s with mem := writeBytes s.mem pa bs, grids := s.grids.map fun g => g.takeBytes pa bs } s pa bs.length

/-! Homes (R153): what a store does at its home line, and what holds it there. -/

/-- Bytes by address as runs of consecutive ones. -/
def runsOf : List (Nat × Byte) → List (Nat × List Byte)
  | [] => []
  | (a, v) :: xs => match runsOf xs with
    | (b, vs) :: rs => if b = a + 1 then (a, v :: vs) :: rs else (a, [v]) :: (b, vs) :: rs
    | [] => [(a, [v])]

/-- The partition that a core belongs to, if it is isolated: its L2 ways and queue entries are its own (R17, R156). -/
def State.isolatedAt (s : State) (core : Nat) : Option Nat :=
  (List.range s.partitions.length).find? fun p => (s.part p).mode == 2 && (s.part p).quads.contains (core / 4)

/-- L2 ways of a die that shared partitions compete for (R17, R18). -/
def State.sharedWays (s : State) (d : Nat) : Nat :=
  16 - (s.partitions.map fun p => if p.mode = 2 ∧ p.quads.any (fun q => q / 40 == d) then p.ways else 0).sum

/-- The line that makes room in a set (R155), of lines with their placement class, the one used last first: a once line, else a normal
one (which, is the device's), else the keep line used least recently. -/
def victim (mates : List (Nat × Nat)) (pick : Nat) : Option Nat :=
  match mates.filter (·.2 == 1), mates.filter (·.2 == 0) with
  | c :: _, _ => some c.1
  | [], [] => mates.getLast?.map (·.1)
  | [], ns => (ns[pick % ns.length]?).map (·.1)

/-- The placement class of a line that comes into a set with so many keep lines, of which it may hold a number (R155). -/
def placed (policy held keeps : Nat) : Nat := if policy = 3 ∨ (policy = 2 ∧ keeps ≤ held) then 0 else policy

/-- The set of a line in its L2 slice, of the 3,072 that 3 MiB in 16 ways give (R9; log entry 103). -/
def l2SetOf (ln : Nat) : Nat × Nat := (homeSlice (64 * ln), Config.l2Set ln % 3072)

/-- A die's L2 is asked for a line, homed there or copied (R154, R155, R157), for a core or partition that may be isolated: a hit makes it
the one used last; a miss takes a way, one of the isolated partition's on a die it occupies, else one that the shared ones compete for. -/
def State.useL2 (s : State) (iso : Option Nat) (d ln policy : Nat) : State × Bool :=
  match (s.die d).l2.find? (·.line == ln) with
  | some x => (s.modDie d fun k => { k with l2 := x :: k.l2.filter fun y => !(y.line == ln) }, true)
  | none =>
    let own := iso.filter fun p => (s.part p).quads.any fun q => q / 40 == d
    let part := match own with
      | some p => p + 1
      | none => 0
    let ways := match own with
      | some p => (s.part p).ways
      | none => s.sharedWays d
    let set := (s.die d).l2.filter fun x => l2SetOf x.line == l2SetOf ln
    let mates := set.filter (·.part == part)
    let out := if ways ≤ mates.length then victim (mates.map fun x => (x.line, x.policy)) (Config.pick (s.draw + s.fresh)) else none
    (s.modDie d fun k => { k with
      l2 := { line := ln, policy := placed policy (set.countP (·.policy == 2)) 8, part := part } :: k.l2.filter fun y => !(out == some y.line)
      copies := k.copies.filter fun y => !(out == some y.line) }, false)

/-- The Carver entries that watch a line see a store (R313): a valid one goes on every die, a compile restarts. -/
def State.carverTouch (s : State) (ln : Nat) : State :=
  { s with carver := s.carver.filterMap fun e =>
      if !(e.lines.contains ln) then some e
      else if e.compiling then some { e with restarts := e.restarts + 1 } else none }

/-- A frame takes a page's bytes (R389, R390): the Carver entries that watch its lines see it as stores (R313), and copies of what it held
before are gone. -/
def State.frameTaken (s : State) (lo n : Nat) : State :=
  let here (ln : Nat) : Bool := decide (lo ≤ 64 * ln) && decide (64 * ln < lo + n)
  let s := (distinct ((s.carver.flatMap (·.lines)).filter here)).foldl State.carverTouch s
  { s with
    cores := s.cores.map fun c => { c with l1 := c.l1.filter fun k => !(here k.line) }
    dies := s.dies.map fun d => { d with copies := d.copies.filter (fun k => !(here k.line)), l2 := d.l2.filter fun x => !(here x.line) } }

/-- An agent touches a page: its frame of 64 KiB, and when (R389). -/
def State.touch (s : State) (pa : Nat) : State :=
  { s with touched := (s.touched.filter fun x => !(x.1 == pa / 65536)) ++ [(pa / 65536, s.clk)] }

/-- When a frame was last touched: since reset at the latest. -/
def State.lastTouch (s : State) (pa : Nat) : Nat := ((s.touched.find? (·.1 == pa / 65536)).map (·.2)).getD 0

/-- Bytes reach their home line in one store (R153): the line, the bytes by address, the write time it takes. -/
def State.homeBytes (s : State) (ctime ln : Nat) (bs : List (Nat × Byte)) : State × Nat :=
  let w := max ctime ((s.line ln).rts + 1)
  let s := s.modLine ln fun x => { x with wts := w, rts := w }
  ((((runsOf bs).foldl (fun s x => s.store x.1 x.2) s).carverTouch ln).touch (64 * ln), w)

/-- A store of consecutive bytes within one line. -/
def State.homeStore (s : State) (ctime pa : Nat) (bs : List Byte) : State × Nat :=
  let w := max ctime ((s.line (pa / 64)).rts + 1)
  let s := s.modLine (pa / 64) fun x => { x with wts := w, rts := w }
  (((s.store pa bs).carverTouch (pa / 64)).touch pa, w)

/-- Whether a fifth compile of a tile holds the stores to a line (R313). -/
def State.compileHolds (s : State) (ln : Nat) : Bool := s.carver.any fun e => e.compiling && decide (4 ≤ e.restarts) && e.lines.contains ln

/-- Whether a line's home holds a request back: an engine's ownership (R200), another commit's lock (R246), a registered line
for a store, one registered only by writing too (R249; the model's choice, log entry 123), a fifth compile for a store (R313). -/
def State.lineHeld (s : State) (ln : Nat) (who : Nat × Nat) (wr : Bool) : Bool :=
  let x := s.line ln
  x.owner.isSome || (x.lock.isSome && !(x.lock == some who)) || (wr && x.irr.any fun y => !(y == who)) ||
  (wr && s.compileHolds ln)

/-- Whether a store to a line by the Headstock, a host or a peer (none) waits: behind what holds the line, or behind a held store to it
or of its own partition. -/
def State.headHeld (s : State) (p : Option Nat) (ln : Nat) : Bool :=
  s.lineHeld ln (0, 64) true || s.heldStores.any fun x => (p.isSome && x.part == p) || (x.bytes.map fun y => y.1 / 64).contains ln

/-- Whether the Headstock's store at a partition's virtual address would wait: a signal is added to once it does not (R404). -/
def State.headWaits (s : State) (p va : Nat) : Bool := match s.vpa p va true with
  | some pa => s.headHeld (some p) (pa / 64)
  | none => false

/-- Send the event ring's interrupt where its pending count or time asks for it (R408). -/
def State.evInterrupt (s : State) (p : Nat) : State :=
  let q := s.part p
  if 0 < q.evPending && (decide (q.coalesceN ≤ q.evPending) || q.coalesceT == 0) then
    (s.modPart p fun q => { q with evPending := 0, evOldest := none }).send p (.msix q.vectorNo)
  else s

/-- A ring's record has been written: one of the event ring counts towards its interrupt (R408). -/
def State.recordDone (s : State) (p ring : Nat) : State :=
  if ring = 3 then (s.modPart p fun q => { q with evPending := q.evPending + 1, evOldest := some (q.evOldest.getD s.clk) }).evInterrupt p else s

/-- A store of the Headstock, a host or a peer to one line: at once, or behind what holds the line (R200, R246, R249) and behind the
held stores of its own partition, so that a record stands before its signal. A partition's later acquirers see it: after every
completed block's time (R404). -/
def State.headLine (s : State) (h : HeldStore) : State :=
  match h.bytes with
  | [] => s
  | (pa, _) :: _ =>
    let ln := pa / 64
    if s.headHeld h.part ln then
      { s with heldStores := s.heldStores ++ [h] }
    else
      let s := (s.useL2 (h.part.filter fun p => (s.part p).mode == 2) (homeDie pa) ln 0).1
      match h.part with
      | none => (s.homeBytes 0 ln h.bytes).1
      | some p =>
        let x := s.homeBytes (s.part p).seen ln h.bytes
        let s := x.1.modPart p fun q => { q with seen := max q.seen x.2 }
        match h.ring with
        | some n => s.recordDone p n
        | none => s

/-- Bytes by address as one store for each line. -/
def byLine (bs : List (Nat × Byte)) : List (List (Nat × Byte)) :=
  (distinct (bs.map fun x => x.1 / 64)).map fun ln => bs.filter fun x => x.1 / 64 == ln

/-- A store of the host or of a peer over any span: line by line (R391). -/
def State.homeSpan (s : State) (pa : Nat) (bs : List Byte) : State :=
  (byLine ((List.range bs.length).map fun i => (pa + i, bs.getD i 0))).foldl (fun s x => s.headLine { part := none, bytes := x }) s

/-- A store of a partition's Headstock that later acquirers of the partition must see (R404). -/
def State.headStore (s : State) (p pa : Nat) (bs : List Byte) : State :=
  (byLine ((List.range bs.length).map fun i => (pa + i, bs.getD i 0))).foldl (fun s x => s.headLine { part := some p, bytes := x }) s

/-- The Headstock's write at a partition's virtual address, as the last bytes of a ring's record or of none; none where some byte faults. -/
def State.vstore (s : State) (p va : Nat) (bs : List Byte) (ring : Option Nat) : Option State :=
  match (List.range bs.length).mapM fun i => s.vpa p (va + i) true with
  | none => none
  | some pas =>
    let s := (distinct (pas.map (· / 64))).foldl (fun s ln => s.undoFor p ln) s
    let ls := byLine (pas.zip bs)
    some ((ls.zipIdx).foldl (fun s x => s.headLine { part := some p, bytes := x.1, ring := if x.2 + 1 = ls.length then ring else none }) s)

/-- The same of bytes that are no ring's record. -/
def State.vwrite (s : State) (p va : Nat) (bs : List Byte) : Option State := s.vstore p va bs none

/-- A partition as its registers show it: a write index covers the records that have performed, not those still held (R407, R420). -/
def State.shown (s : State) (p : Nat) : Partition :=
  let q := s.part p
  let back (n i : Nat) : Nat := (i + 2 ^ 32 - s.heldStores.countP fun x => x.part == some p && x.ring == some n) % 2 ^ 32
  { q with
    sample := { q.sample with write := back 0 q.sample.write }, trace := { q.trace with write := back 1 q.trace.write }
    exits := { q.exits with write := back 2 q.exits.write }, evWrite := back 3 q.evWrite, fqWrite := back 4 q.fqWrite }

/-! Leaving a transaction, ending threads and blocks. -/

/-- Release what an irrevocable transaction of a lane holds: the turn token and its registered lines (R249). -/
def State.releaseTurn (s : State) (b l : Nat) : State :=
  { s with
    dies := s.dies.map fun d => { d with
      turn := if d.turn == some (b, l) then none else d.turn
      turnQueue := d.turnQueue.filter (fun x => !(x == (b, l))) }
    lines := s.lines.map fun x => { x with
      irr := x.irr.filter fun y => !(y == (b, l))
      lock := if x.lock == some (b, l) then none else x.lock } }

/-- The destination registers of a late request. -/
def Req.dsts (r : Req) : List (Nat × Nat) :=
  match r.kind with
  | .load c d _ _ => [(d, if c < 5 then 1 else 2 ^ (c - 4))]
  | .atom op n d _ _ => if n then [] else [(d, if op = 15 then 2 else 1)]
  | .stmap d _ => [(d, 1)]
  | .future _ d _ => [(d, 1)]
  | .object _ d => [(d, 1)]
  | .call d _ => [(d, 5)]
  | .pwenq d _ _ _ => [(d, 1)]
  | .nodeIn d _ _ _ => [(d, 1)]
  | _ => []

/-- Withdraw a thread's arrival at a convergence instruction: the destinations made empty are full with the values they held
(R76, R280). -/
def Thread.unarrive (t : Thread) : Thread := match t.conv with
  | none => t
  | some c => { (c.saved.foldl (fun t x => t.write x.1 x.2) t) with conv := none }

/-- Abort a lane's open transaction (R247): owed loads become full with 0, the PC goes to the resume point, the TXB's
destination takes the status; the abort count rises unless the status is TXA's. -/
def State.abortTx (s : State) (b l : Nat) (status : Word) : State :=
  match (s.thread b l).tx with
  | none => s
  | some x =>
    let owed := s.reqs.filter fun r => r.bundle == b && r.lane == l && r.tx
    let s := { s with reqs := s.reqs.filter fun r => !(r.bundle == b && r.lane == l && r.tx) }
    let zero (t : Thread) : Thread := owed.foldl (fun t r => r.dsts.foldl
      (fun t d => t.writes d.1 (List.replicate d.2 0)) t) t
    let bump := if status.toNat / 65536 = 3 then 0 else 1
    (s.modThread b l fun t => { (((zero t.unarrive).write x.reg status).goto x.resume) with
      tx := none, aborts := t.aborts + bump }).releaseTurn b l

/-- Give back the destinations that an arrival or a released collective made empty (R66, R76, R280). -/
def Bundle.undoCollective (b : Bundle) (l : Nat) : Bundle :=
  let owed := b.results.flatMap fun c => c.shares.filter (·.lane == l)
  { b with
    results := b.results.map fun c => { c with shares := c.shares.filter (fun x => !(x.lane == l)) }
    threads := b.threads.modify l fun t =>
      (owed.foldl (fun t x => t.writes x.dst x.old) t).unarrive }

/-- End a thread (R73, R250, R255): its transaction is discarded, its results land nowhere, its waiters and FGETs on their way are
withdrawn. -/
def State.exitLane (s : State) (b l : Nat) : State :=
  let s := (s.releaseTurn b l).modBundle b (·.undoCollective l)
  let s := s.modThread b l fun t => { t with life := .exited, tx := none, mid := none, yield := none, conv := none }
  { s with reqs := s.reqs.filter fun r => !(r.bundle == b && r.lane == l && (r.tx || r.phase == .waiting ||
      (r.phase == .issued && match r.kind with
        | .future 5 _ _ => true
        | _ => false))) }

/-- End every thread of a bundle. -/
def State.exitBundle (s : State) (b : Bundle) : State :=
  (List.range b.threads.length).foldl (fun s l => s.exitLane b.id l) s

/-- Every thread and handler thread of a block ends (R321). -/
def State.exitBlock (s : State) (k : Nat) : State :=
  (s.bundles.filter fun b => b.owner.block? == some k).foldl State.exitBundle s

/-- A block's task is to park (R321, R322): of several causes in one step the lowest code, then bundle, then lane. -/
def State.endBlock (s : State) (k : Nat) (tr : Trap) (opc : DWord) (bi l : Nat) : State :=
  let s := s.exitBlock k
  s.modBlock k fun x => { x with ending := match x.ending with
    | .parking t o b' l' => if tr.cause < t.cause || (tr.cause == t.cause && (bi < b' || (bi == b' && l < l')))
        then .parking tr opc bi l else .parking t o b' l'
    | _ => .parking tr opc bi l }

/-- What a thread stopped at a boundary keeps of its wait (R325): a barrier's waiting half and a register request; another wait
runs again in full. -/
def Mid.kept : Mid → Bool
  | .barWait _ _ => true
  | .request _ _ => true
  | _ => false

/-- Whether a thread is held in an instruction that has issued (R427): at a convergence, a barrier, a request, a tile command, a commit, or
for a home's answer. -/
def Thread.holds (t : Thread) : Bool := t.conv.isSome || (match t.mid with
  | some .flush => false
  | some (.unmap _) => false
  | some _ => true
  | none => false)

/-- Count instructions that a block's threads have issued (R427). -/
def State.retireIn (s : State) (o : Owner) (n : Nat) : State := match o with
  | .block k => s.modBlock k fun x => { x with retired := x.retired + n }
  | _ => s

/-- Instructions that had issued and will issue again, because their threads leave them, count no longer (R427). -/
def State.unretire (s : State) (o : Owner) (n : Nat) : State := match o with
  | .block k => s.modBlock k fun x => { x with retired := x.retired - n }
  | _ => s

/-- A thread of a stopping block stands at its boundary: waits before any effect run again in full; a barrier's waiting half, a
register request and a wait for a home's answer are kept (R255, R325). -/
def Thread.atBoundary (t : Thread) : Thread :=
  let u := t.unarrive
  { u with yield := none, waitCount := 0, mid := u.mid.filter fun m => m.kept || (match m with
      | .answer _ => true
      | _ => false) }

/-- How many threads of a block leave an instruction that had issued, at their boundary. -/
def State.redone (s : State) (k : Nat) : Nat := ((s.bundles.filter fun b => b.owner == .block k).map fun b =>
  b.threads.countP fun t => t.live && t.holds && !(t.atBoundary.holds)).sum

/-- Every thread and handler thread of a block stands at its boundary; open transactions abort with 0x0006_0000, and a place in
the queue for the turn token is given up (R250, R325, R333, R338, R340). -/
def State.standStill (s : State) (k : Nat) : State :=
  let lane (b : Nat) (s : State) (l : Nat) : State := (s.abortTx b l 0x00060000#32).releaseTurn b l
  let s := (s.bundles.filter fun b => b.owner.block? == some k).foldl (fun s b => (List.range b.threads.length).foldl (lane b.id) s) s
  let s := s.unretire (.block k) (s.redone k)
  { s with bundles := s.bundles.map fun b =>
      if b.owner.block? == some k then { b with threads := b.threads.map Thread.atBoundary } else b }

/-- Stop a block's issue: a halt (R333). -/
def State.haltBlock (s : State) (k : Nat) : State := (s.standStill k).modBlock k fun x => { x with halted := true }

/-- The handler PC for a cause in a partition's trap vector table (R323); 0 where there is none. Bit 0 of an entry that is not even
is dropped, as bit 0 of a PC is always 0 (R22; the model's choice, log entry 105). -/
def State.handlerPc (s : State) (p c : Nat) : DWord :=
  let v := (s.part p).vector.toNat
  if v = 0 then 0 else match s.vread p (v + 16 * c) 8 with
    | some bs => BitVec.ofNat 64 (leNat bs / 2 * 2)
    | none => 0

/-- Causes that end the block or the task without a handler (R321). -/
def endsTask (c : Nat) : Bool := c == 1 || c == 2 || c == 5

/-- Causes whose resume PC is the next instruction (R321): CALIPER, BREAK, TRAPI, STEP. -/
def resumesNext (c : Nat) : Bool := c == 0x0D || c == 0x0F || c == 0x10 || c == 0x11

/-- Park a lane (R324); one that waits for the turn token gives up its place (R325), and an instruction that it was held in and will issue
again does not count (R427). -/
def State.parkLane (s : State) (b l : Nat) (tr : Trap) (opc resume : DWord) (imprecise afterAbort : Bool) : State :=
  let t := s.thread b l
  let redo := t.holds && !(imprecise && t.conv.isNone && t.mid.any Mid.kept)
  let s := match s.bundle? b with
    | some x => if redo then s.unretire x.owner 1 else s
    | none => s
  let s := (s.releaseTurn b l).modBundle b (·.undoCollective l)
  (s.modThread b l fun t => { t with
    life := .parked { trap := tr, opc := opc, resume := resume, imprecise := imprecise, afterAbort := afterAbort
                      seq := s.fresh, clk := s.clk }
    mid := if imprecise then t.mid.filter Mid.kept else none, yield := none, pc := resume }).next

/-- Raise a cause in a block thread outside a transaction (R321, R323, R324): end the task, halt the block, or park;
a thread that a neighbour's cause has just ended does not park. -/
def State.raisePlain (s : State) (b : Bundle) (l : Nat) (tr : Trap) (opc resume : DWord) (imprecise after : Bool) : State :=
  match s.blockOf b with
  | none => s
  | some k =>
    let p := ((s.task? k.task).map (·.partition)).getD 0
    if endsTask tr.cause then s.endBlock k.id tr opc b.index l
    else if s.handlerPc p tr.cause = 0 then
      if tr.cause = 0x0F || tr.cause = 0x11 then (s.modThread b.id l (·.goto resume)).haltBlock k.id
      else s.endBlock k.id tr opc b.index l
    else if (s.thread b.id l).live then s.parkLane b.id l tr opc resume imprecise after
    else s

/-- A cause that a lane meets, with what its taking needs: the PC it reports, the resume PC, and whether an abort came first. -/
structure Met where
  lane : Nat
  trap : Trap
  opc : DWord
  resume : DWord
  after : Bool := false
  deriving DecidableEq, Repr

/-- What a cause does in its own lane before it is taken (R247): an open transaction aborts; a cause from RANGE to FUTURE in a
revocable one goes no further. start is the PC the instruction reports (that of a lead word before it, R46, R47), nxt the next
instruction's. -/
def State.meet (s : State) (bid l : Nat) (tr : Trap) (start nxt : DWord) : State × List Met :=
  let plain : Met := { lane := l, trap := tr, opc := start, resume := if resumesNext tr.cause then nxt else start }
  match s.bundle? bid with
  | none => (s, [])
  | some b => match b.owner with
    | .block _ => match (s.thread bid l).tx with
      | none => (s, [plain])
      | some x =>
        if !x.irrevocable && decide (5 ≤ tr.cause) && decide (tr.cause ≤ 0x0B) then
          (s.abortTx bid l (BitVec.ofNat 32 (0x00050000 + tr.cause)), [])
        else (s.abortTx bid l (BitVec.ofNat 32 (0x00070000 + tr.cause)),
          [{ lane := l, trap := tr, opc := x.resume, resume := x.resume, after := true }])
    | _ => (s, [plain])

/-- Take a cause that a lane has met (R321 to R324, R332, R269): a combiner wave aborts, a handler thread's cause is DOUBLE, a
block thread parks, halts its block or ends its task. -/
def State.takeMet (s : State) (bid : Nat) (x : Met) : State :=
  match s.bundle? bid with
  | none => s
  | some b => match b.owner with
    | .wave w =>
      let s := s.exitBundle b
      { s with waves := upd s.waves (·.id == w) fun y => { y with abort := match y.abort with
          | some a => some a
          | none => some (x.lane, x.trap, x.opc) } }
    | .handler k =>
      let inner := ((s.thread bid x.lane).origin.map (·.trap.cause)).getD 0
      let o := ((s.thread bid x.lane).origin.map fun o => (o.bundleIndex, o.lane)).getD (0, 0)
      s.endBlock k { cause := 2, detail := BitVec.ofNat 64 (x.trap.cause + 256 * inner), addr := x.trap.addr } x.opc o.1 o.2
    | .block _ => s.raisePlain b x.lane x.trap x.opc x.resume false x.after

/-- Raise a cause precisely at an instruction in one lane: the shared taking of an exception. -/
def State.raise (s : State) (bid l : Nat) (tr : Trap) (start nxt : DWord) : State :=
  (s.meet bid l tr start nxt).2.foldl (·.takeMet bid) (s.meet bid l tr start nxt).1

/-- The return from an exception: the origin lane is live at its resume PC with wait count 0 (R330). -/
def State.resumeLane (s : State) (b l : Nat) : State :=
  s.modThread b l fun t => match t.life with
    | .parked p => if p.imprecise && p.resume == t.pc then { t with life := .live, waitCount := 0 }
      else { (t.goto p.resume) with life := .live }
    | _ => t

/-- The causes that several lanes meet at one instruction, each in its own lane. -/
def State.meetAll (s : State) (b : Nat) (start nxt : DWord) (ts : List (Nat × Trap)) : State × List Met :=
  ts.foldl (fun (acc : State × List Met) x => ((acc.1.meet b x.1 x.2 start nxt).1, acc.2 ++ (acc.1.meet b x.1 x.2 start nxt).2)) (s, [])

/-- Raise causes in several lanes at once, lanes in rising order: each lane's transaction is settled before any cause is taken. -/
def State.raiseAll (s : State) (b : Nat) (start nxt : DWord) (ts : List (Nat × Trap)) : State :=
  (s.meetAll b start nxt ts).2.foldl (·.takeMet b) (s.meetAll b start nxt ts).1

end Sys2Proof.Machine
end

