-- ==== Sys2Proof/Machine/Operands.lean ====
section
/-! DEFINITION. Operands: for every instruction the registers it reads, with their empty actions, the registers it writes, and
which encodings of it are illegal (R24, R28 to R48, R85, R94, R95). -/

namespace Sys2Proof.Machine

/-- A source operand: registers reg to reg + n − 1. trap is the empty action (R94); a run must start on a multiple of align
(R24); poisonOk: reading does not trap on a poison (WAITF, R99); waits = false: checked later, by the meaning. -/
structure Src where
  reg : Nat
  n : Nat := 1
  align : Nat := 1
  trap : Bool := false
  poisonOk : Bool := false
  waits : Bool := true
  deriving DecidableEq, Repr

/-- A destination operand: registers reg to reg + n − 1, pending from issue when late (R93). -/
structure Dst where
  reg : Nat
  n : Nat := 1
  late : Bool := false
  aligned : Bool := true
  deriving DecidableEq, Repr

/-- The operands of an instruction; illegal: a code or field value that R27 to R48 do not assign. -/
structure Opnds where
  srcs : List Src := []
  dsts : List Dst := []
  illegal : Bool := false
  /-- ILLEGAL with detail 0 (R136). -/
  zero : Bool := false
  deriving DecidableEq, Repr

/-- A register source of a form without an empty-action bit, or with one. -/
def rd {w : Nat} (r : BitVec w) : Src := { reg := r.toNat }
def rdE (r : BitVec 7) (e : BitVec 1) : Src := { reg := r.toNat, trap := e == 1#1 }
/-- A pair source, named by its even register. -/
def pair (r : BitVec 7) : Src := { reg := r.toNat, n := 2, align := 2 }
def pairE (r : BitVec 7) (e : BitVec 1) : Src := { reg := r.toNat, n := 2, align := 2, trap := e == 1#1 }
/-- DFMA's pair-indexed third source, and the address pair of forms M, X and Y (R24). -/
def pairK (k : BitVec 5) : Src := { reg := 2 * k.toNat, n := 2, align := 2 }
def addrK (k : BitVec 6) : Src := { reg := 2 * k.toNat, n := 2, align := 2 }
/-- A source run of n registers. -/
def group (r : BitVec 7) (n : Nat) : Src := { reg := r.toNat, n := n, align := n }
/-- A single destination, one of a late producer, and a destination run. -/
def reg1 {w : Nat} (r : BitVec w) : Dst := { reg := r.toNat }
def late1 (r : BitVec 7) : Dst := { reg := r.toNat, late := true }
def regs (r : BitVec 7) (n : Nat) : Dst := { reg := r.toNat, n := n }
/-- Form H's second source (R26). -/
def immOr (i : BitVec 1) (b : BitVec 5) : List Src := if i == 1#1 then [] else [{ reg := b.toNat }]
/-- The form T shapes: two sources, and two with a read of d that always waits (R28). -/
def two (x y : BitVec 1) (b a d : BitVec 7) : Opnds := { srcs := [rdE a y, rdE b x], dsts := [reg1 d] }
def three (x y : BitVec 1) (b a d : BitVec 7) : Opnds := { srcs := [rdE a y, rdE b x, rd d], dsts := [reg1 d] }

/-- Type codes i64 and f64, held in pairs (R32, R45). -/
def wide (t : BitVec 4) : Bool := t == 6#4 || t == 11#4
/-- Width in bits of a type code's element (R45, R112). -/
def typeBits (t : Nat) : Nat :=
  if t = 0 ∨ t = 1 ∨ t = 12 ∨ t = 13 then 8
  else if t = 2 ∨ t = 3 ∨ t = 8 ∨ t = 9 then 16
  else if t = 7 ∨ t = 14 ∨ t = 15 then 4
  else if t = 6 ∨ t = 11 then 64
  else 32
/-- Sources that CVTP packs into one register; 0 for a code that is illegal (R32). -/
def packCount (t : Nat) : Nat := if t = 4 ∨ t = 5 ∨ t = 6 ∨ t = 10 ∨ t = 11 then 0 else 32 / typeBits t
/-- Classes of type codes: integer, wide float, narrow float (R135). -/
def isInt (t : Nat) : Bool := decide (t ≤ 7) || t == 15
def isF (t : Nat) : Bool := decide (8 ≤ t) && decide (t ≤ 11)
def isN (t : Nat) : Bool := decide (12 ≤ t) && decide (t ≤ 14)
/-- Whether CVT converts from a source type to a destination type (R135). -/
def cvtPair (dt st : Nat) : Bool := !(dt == st) && !((isInt st && isN dt) || (isN st && isInt dt))
/-- Registers of an LD size code and of an ST size code (R158, R159). -/
def ldRegs (z : Nat) : Nat := if z ≤ 4 then 1 else 2 ^ (z - 4)
def stRegs (z : Nat) : Nat := if z ≤ 2 then 1 else 2 ^ (z - 2)
/-- Bytes of an LD size code and of an ST size code (R45). -/
def ldBytes (z : Nat) : Nat := if z ≤ 1 then 1 else if z ≤ 3 then 2 else 2 ^ (z - 2)
def stBytes (z : Nat) : Nat := 2 ^ z
/-- Selectors of the special-register catalogue (R79), and those that SWR may write. -/
def srdLegal (a : Nat) : Bool :=
  decide (a ≤ 3) || (decide (8 ≤ a) && decide (a ≤ 0x0E)) || (decide (0x10 ≤ a) && decide (a ≤ 0x13)) ||
  (decide (0x18 ≤ a) && decide (a ≤ 0x1B)) || a == 0x20 || a == 0x21 || a == 0x24 || a == 0x25 || a == 0x28 || a == 0x29 ||
  (decide (0x2C ≤ a) && decide (a ≤ 0x2E)) || (decide (0x40 ≤ a) && decide (a ≤ 0x4A))
def swrLegal (a : Nat) : Bool := a == 0x20 || a == 0x21 || a == 0x24 || a == 0x28 || a == 0x29

/-- The operands of an instruction (R28 to R44); an event has none. -/
def opnds (i : Instr) : Opnds :=
  match i with
  | .movH i b d => { srcs := immOr i b, dsts := [reg1 d] }
  | .addH i b d => { srcs := rd d :: immOr i b, dsts := [reg1 d] }
  | .subH i b d => { srcs := rd d :: immOr i b, dsts := [reg1 d] }
  | .mulH i b d => { srcs := rd d :: immOr i b, dsts := [reg1 d] }
  | .andH i b d => { srcs := rd d :: immOr i b, dsts := [reg1 d] }
  | .orH i b d => { srcs := rd d :: immOr i b, dsts := [reg1 d] }
  | .xorH i b d => { srcs := rd d :: immOr i b, dsts := [reg1 d] }
  | .shlH i b d => { srcs := rd d :: immOr i b, dsts := [reg1 d] }
  | .shrH i b d => { srcs := rd d :: immOr i b, dsts := [reg1 d] }
  | .sarH i b d => { srcs := rd d :: immOr i b, dsts := [reg1 d] }
  | .minH i b d => { srcs := rd d :: immOr i b, dsts := [reg1 d] }
  | .maxH i b d => { srcs := rd d :: immOr i b, dsts := [reg1 d] }
  | .faddH i b d => { srcs := rd d :: immOr i b, dsts := [reg1 d] }
  | .fmulH i b d => { srcs := rd d :: immOr i b, dsts := [reg1 d] }
  | .fminH i b d => { srcs := rd d :: immOr i b, dsts := [reg1 d] }
  | .fmaxH i b d => { srcs := rd d :: immOr i b, dsts := [reg1 d] }
  | .add x y b a d => two x y b a d
  | .sub x y b a d => two x y b a d
  | .and x y b a d => two x y b a d
  | .or x y b a d => two x y b a d
  | .xor x y b a d => two x y b a d
  | .andn x y b a d => two x y b a d
  | .addD x y b a d => { srcs := [pairE a y, pairE b x], dsts := [regs d 2] }
  | .subD x y b a d => { srcs := [pairE a y, pairE b x], dsts := [regs d 2] }
  | .shl x y b a d => two x y b a d
  | .shr x y b a d => two x y b a d
  | .sar x y b a d => two x y b a d
  | .rol x y b a d => two x y b a d
  | .ror x y b a d => two x y b a d
  | .bfxi x y b a d => two x y b a d
  | .bfxz x y b a d => two x y b a d
  | .bfi x y b a d => three x y b a d
  | .minI32 x y b a d => two x y b a d
  | .maxI32 x y b a d => two x y b a d
  | .minZ32 x y b a d => two x y b a d
  | .maxZ32 x y b a d => two x y b a d
  | .addmin x y b a d => three x y b a d
  | .addmax x y b a d => three x y b a d
  | .absd x y b a d => two x y b a d
  | .clamp x y b a d => three x y b a d
  | .mullo x y b a d => two x y b a d
  | .mulhiI32 x y b a d => two x y b a d
  | .mulhiZ32 x y b a d => two x y b a d
  | .madlo x y b a d => three x y b a d
  | .divI32 x y b a d => two x y b a d
  | .divZ32 x y b a d => two x y b a d
  | .remI32 x y b a d => two x y b a d
  | .remZ32 x y b a d => two x y b a d
  | .popc y a d => { srcs := [rdE a y], dsts := [reg1 d] }
  | .clz y a d => { srcs := [rdE a y], dsts := [reg1 d] }
  | .ctz y a d => { srcs := [rdE a y], dsts := [reg1 d] }
  | .brev y a d => { srcs := [rdE a y], dsts := [reg1 d] }
  | .pfxp x y b a d => two x y b a d
  | .perm x y b a d => two x y b a d
  | .find x y b a d => two x y b a d
  | .addi _ a d => { srcs := [rd a], dsts := [reg1 d] }
  | .andi _ a d => { srcs := [rd a], dsts := [reg1 d] }
  | .ori _ a d => { srcs := [rd a], dsts := [reg1 d] }
  | .xori _ a d => { srcs := [rd a], dsts := [reg1 d] }
  | .shli _ a d => { srcs := [rd a], dsts := [reg1 d] }
  | .shri _ a d => { srcs := [rd a], dsts := [reg1 d] }
  | .sari _ a d => { srcs := [rd a], dsts := [reg1 d] }
  | .roli _ a d => { srcs := [rd a], dsts := [reg1 d] }
  | .movi _ d => { dsts := [reg1 d] }
  | .cmp x y _ b a _ p => { srcs := [rdE a y, rdE b x], illegal := p == 7#3 }
  | .cmpi y _ _ a _ p => { srcs := [rdE a y], illegal := p == 7#3 }
  | .sel x y _ b a d => two x y b a d
  | .fadd x y b a d => two x y b a d
  | .fsub x y b a d => two x y b a d
  | .fmul x y b a d => two x y b a d
  | .fmin x y b a d => two x y b a d
  | .fmax x y b a d => two x y b a d
  | .fabs y a d => { srcs := [rdE a y], dsts := [reg1 d] }
  | .fneg y a d => { srcs := [rdE a y], dsts := [reg1 d] }
  | .fcpys x y b a d => two x y b a d
  | .ffma c b a d => { srcs := [rd a, rd b, rd c], dsts := [reg1 d] }
  | .fma2 _ c b a d => { srcs := [rd a, rd b, rd c], dsts := [reg1 d] }
  | .dfma c b a d => { srcs := [pair a, pair b, pairK c], dsts := [regs d 2] }
  | .duaddF16 x y b a d => two x y b a d
  | .duaddBf16 x y b a d => two x y b a d
  | .dumulF16 x y b a d => two x y b a d
  | .dumulBf16 x y b a d => two x y b a d
  | .duminF16 x y b a d => two x y b a d
  | .duminBf16 x y b a d => two x y b a d
  | .dumaxF16 x y b a d => two x y b a d
  | .dumaxBf16 x y b a d => two x y b a d
  | .dadd x y b a d => { srcs := [pairE a y, pairE b x], dsts := [regs d 2] }
  | .dsub x y b a d => { srcs := [pairE a y, pairE b x], dsts := [regs d 2] }
  | .dmul x y b a d => { srcs := [pairE a y, pairE b x], dsts := [regs d 2] }
  | .dmin x y b a d => { srcs := [pairE a y, pairE b x], dsts := [regs d 2] }
  | .dmax x y b a d => { srcs := [pairE a y, pairE b x], dsts := [regs d 2] }
  | .ddiv x y b a d => { srcs := [pairE a y, pairE b x], dsts := [regs d 2] }
  | .dsqrt y a d => { srcs := [pairE a y], dsts := [regs d 2] }
  | .frcp y a d => { srcs := [rdE a y], dsts := [reg1 d] }
  | .frsq y a d => { srcs := [rdE a y], dsts := [reg1 d] }
  | .fsqrt y a d => { srcs := [rdE a y], dsts := [reg1 d] }
  | .fdiv x y b a d => two x y b a d
  | .fexp2 y a d => { srcs := [rdE a y], dsts := [reg1 d] }
  | .flog2 y a d => { srcs := [rdE a y], dsts := [reg1 d] }
  | .fsinpi y a d => { srcs := [rdE a y], dsts := [reg1 d] }
  | .fcospi y a d => { srcs := [rdE a y], dsts := [reg1 d] }
  | .cvt _ r t u a d => { srcs := [if wide t then pair a else rd a], dsts := [if wide u then regs d 2 else reg1 d], illegal := decide (5 ≤ r.toNat) || (isInt t.toNat && isInt u.toNat && cvtPair u.toNat t.toNat && !(r == 0#3)), zero := !(cvtPair u.toNat t.toNat) }
  | .cvtp _ u a d => { srcs := [group a (packCount u.toNat)], dsts := [reg1 d], illegal := packCount u.toNat == 0 }
  | .cvtpEf _ u _ a d => { srcs := [group a (packCount u.toNat)], dsts := [reg1 d], illegal := packCount u.toNat == 0 }
  | .dot4I8 x y b a d => three x y b a d
  | .dot4Z8 x y b a d => three x y b a d
  | .dot8I4 x y b a d => three x y b a d
  | .dot8Z4 x y b a d => three x y b a d
  | .dot4D8a x y b a d => three x y b a d
  | .dot4D8b x y b a d => three x y b a d
  | .dot8D4 x y b a d => three x y b a d
  | .dot2Bf16 x y b a d => three x y b a d
  | .lgetIdx x y b a d => { srcs := [rdE a y, rdE b x], dsts := [late1 d] }
  | .lgetUp x y b a d => { srcs := [rdE a y, rdE b x], dsts := [late1 d] }
  | .lgetDn x y b a d => { srcs := [rdE a y, rdE b x], dsts := [late1 d] }
  | .lgetXor x y b a d => { srcs := [rdE a y, rdE b x], dsts := [late1 d] }
  | .ballot y a d => { srcs := [rdE a y], dsts := [late1 d] }
  | .redAddI32 y a d => { srcs := [rdE a y], dsts := [late1 d] }
  | .scanAddI32 y a d => { srcs := [rdE a y], dsts := [late1 d] }
  | .redMinI32 y a d => { srcs := [rdE a y], dsts := [late1 d] }
  | .ld _ z _ p d => { srcs := [addrK p], dsts := [{ reg := d.toNat, n := ldRegs z.toNat, late := true }] }
  | .st _ z _ p d => { srcs := [addrK p, group d (stRegs z.toNat)], illegal := decide (6 ≤ z.toNat) }
  | .ldacqW k _ p d => { srcs := [addrK p], dsts := [late1 d], illegal := decide (6 ≤ k.toNat) }
  | .ldacqD k _ p d => { srcs := [addrK p], dsts := [{ reg := d.toNat, n := 2, late := true }], illegal := decide (6 ≤ k.toNat) }
  | .strelW k _ p d => { srcs := [addrK p, rd d], illegal := decide (6 ≤ k.toNat) }
  | .strelD k _ p d => { srcs := [addrK p, pair d], illegal := decide (6 ≤ k.toNat) }
  | .pfetch _ _ p => { srcs := [addrK p] }
  | .ldsmpW _ _ p d => { srcs := [addrK p], dsts := [late1 d] }
  | .fenceX _ => {}
  | .fenceAr _ k => { illegal := decide (6 ≤ k.toNat) }
  | .fenceSc _ k => { illegal := decide (6 ≤ k.toNat) }
  | .fenceEng _ k => { illegal := decide (6 ≤ k.toNat) }
  | .stflush _ => {}
  | .refetchFence => {}
  | .atomAdd n k _ p d => { srcs := [addrK p, rd d], dsts := if n == 1#1 then [] else [late1 d], illegal := decide (6 ≤ k.toNat) }
  | .atomMinI32 n k _ p d => { srcs := [addrK p, rd d], dsts := if n == 1#1 then [] else [late1 d], illegal := decide (6 ≤ k.toNat) }
  | .atomMaxI32 n k _ p d => { srcs := [addrK p, rd d], dsts := if n == 1#1 then [] else [late1 d], illegal := decide (6 ≤ k.toNat) }
  | .atomMinZ32 n k _ p d => { srcs := [addrK p, rd d], dsts := if n == 1#1 then [] else [late1 d], illegal := decide (6 ≤ k.toNat) }
  | .atomMaxZ32 n k _ p d => { srcs := [addrK p, rd d], dsts := if n == 1#1 then [] else [late1 d], illegal := decide (6 ≤ k.toNat) }
  | .atomAnd n k _ p d => { srcs := [addrK p, rd d], dsts := if n == 1#1 then [] else [late1 d], illegal := decide (6 ≤ k.toNat) }
  | .atomOr n k _ p d => { srcs := [addrK p, rd d], dsts := if n == 1#1 then [] else [late1 d], illegal := decide (6 ≤ k.toNat) }
  | .atomXor n k _ p d => { srcs := [addrK p, rd d], dsts := if n == 1#1 then [] else [late1 d], illegal := decide (6 ≤ k.toNat) }
  | .atomExch n k _ p d => { srcs := [addrK p, rd d], dsts := if n == 1#1 then [] else [late1 d], illegal := decide (6 ≤ k.toNat) }
  | .atomCas n k _ p d => { srcs := [addrK p, rd d, { reg := d.toNat + 1 }], dsts := if n == 1#1 then [] else [late1 d], illegal := decide (6 ≤ k.toNat) || d == 127#7 }
  | .atomIncw n k _ p d => { srcs := [addrK p, rd d], dsts := if n == 1#1 then [] else [late1 d], illegal := decide (6 ≤ k.toNat) }
  | .atomDecw n k _ p d => { srcs := [addrK p, rd d], dsts := if n == 1#1 then [] else [late1 d], illegal := decide (6 ≤ k.toNat) }
  | .atomFaddF32 n k _ p d => { srcs := [addrK p, rd d], dsts := if n == 1#1 then [] else [late1 d], illegal := decide (6 ≤ k.toNat) }
  | .atomFminF32 n k _ p d => { srcs := [addrK p, rd d], dsts := if n == 1#1 then [] else [late1 d], illegal := decide (6 ≤ k.toNat) }
  | .atomFmaxF32 n k _ p d => { srcs := [addrK p, rd d], dsts := if n == 1#1 then [] else [late1 d], illegal := decide (6 ≤ k.toNat) }
  | .atomAddD n k _ p d => { srcs := [addrK p, pair d], dsts := if n == 1#1 then [] else [{ reg := d.toNat, n := 2, late := true }], illegal := decide (6 ≤ k.toNat) }
  | .txb d => { dsts := [reg1 d] }
  | .txe => {}
  | .txa _ => {}
  | .fput b a d => { srcs := [pair a, rd b], dsts := [late1 d] }
  | .fputt b a d => { srcs := [pair a, rd b], dsts := [late1 d] }
  | .fget a d => { srcs := [pair a], dsts := [late1 d] }
  | .barArr n _ => { illegal := decide (6 ≤ n.toNat) }
  | .barWait n _ => { illegal := decide (6 ≤ n.toNat) }
  | .barSync n _ => { illegal := decide (6 ≤ n.toNat) }
  | .barAddb n _ a => { srcs := [rd a], illegal := decide (6 ≤ n.toNat) }
  | .barChk n _ => { illegal := decide (6 ≤ n.toNat) }
  | .callo b a d => { srcs := [pair a, { reg := b.toNat, n := 4 }], dsts := [{ reg := d.toNat, n := 5, late := true, aligned := false }], illegal := decide (124 ≤ d.toNat) || decide (125 ≤ b.toNat) }
  | .crply _ a => { srcs := [{ reg := a.toNat, n := 4, waits := false }] }
  | .objreg a d => { srcs := [pair a], dsts := [late1 d] }
  | .objrst a d => { srcs := [pair a], dsts := [late1 d] }
  | .rcv => {}
  | .mke d => { dsts := [reg1 d] }
  | .waitf a => { srcs := [{ reg := a.toNat, poisonOk := true }] }
  | .cbpush _ d => { dsts := [reg1 d] }
  | .cbcmt _ => {}
  | .cbwait _ d => { dsts := [reg1 d] }
  | .cbpop _ => {}
  | .acwait _ => {}
  | .regrow i => { illegal := i == 0#7 }
  | .regshr i => { illegal := i == 0#7 }
  | .cont a => { srcs := [pair a] }
  | .wrec b a => { srcs := [group a 8, rd b] }
  | .pwenq a d => { srcs := [pair a], dsts := [late1 d] }
  | .yield => {}
  | .exit => {}
  | .setprg a => { srcs := [rd a] }
  | .acp _ _ _ v p o => { srcs := [addrK p, { reg := v.toNat }, rd o] }
  | .mfrag c b a d => { srcs := [group d 8, group a 8, group b 8, rd c], dsts := [{ reg := d.toNat, n := 8, late := true }] }
  | .mtile a => { srcs := [group a 8], illegal := a == 0#7 }
  | .mspt a => { srcs := [group a 8], illegal := a == 0#7 }
  | .mring z => { illegal := z == 3#2 }
  | .mwait _ => {}
  | .part a => { srcs := [group a 8], illegal := a == 0#7 }
  | .pwait _ => {}
  | .acb _ a => { srcs := [group a 4], illegal := a == 0#7 }
  | .calcfg _ a => { srcs := [group a 4], illegal := a == 0#7 }
  | .calref _ a => { srcs := [pair a] }
  | .calbnd _ a => { srcs := [pair a] }
  | .calrd _ _ d => { dsts := [regs d 2] }
  | .carvinv a => { srcs := [pair a] }
  | .stmap a d => { srcs := [group a 4], dsts := [late1 d], illegal := a == 0#7 }
  | .stunmap a => { srcs := [pair a] }
  | .nodeRd _ d => { dsts := [reg1 d] }
  | .nodeIn a d => { srcs := [rd a], dsts := [late1 d] }
  | .nodeUp b a => { srcs := [rd a, rd b] }
  | .nodeDn b a => { srcs := [rd a, rd b] }
  | .xnext b a d => { srcs := [rd a, pair b], dsts := [regs d 2, reg1 a], illegal := a == d || a.toNat == d.toNat + 1 }
  | .setstrm _ a => { srcs := [rd a] }
  | .mtok d => { dsts := [reg1 d] }
  | .br _ _ _ => {}
  | .call _ => { dsts := [{ reg := 126, n := 2 }] }
  | .jmp p => { srcs := [pair p] }
  | .callr p => { srcs := [pair p], dsts := [{ reg := 126, n := 2 }] }
  | .ret p => { srcs := [pair p] }
  | .nop => {}
  | .pred _ _ => {}
  | .srd a d => { dsts := [reg1 d], illegal := !(srdLegal a.toNat) }
  | .swr a d => { srcs := [rd d], illegal := !(swrLegal a.toNat) }
  | .setrm _ => {}
  | .clrff d => { dsts := [reg1 d] }
  | .trapi _ => {}
  | .brk => {}
  | .rett => {}
  | .kill => {}
  | .killb => {}
  | .oreg _ d => { dsts := [reg1 d] }
  | .owr _ d => { srcs := [rd d] }
  | .opc d => { srcs := [pair d] }
  | .halt => {}
  | .refetch => {}
  | .ext _ => {}
  | .laneResultWrite _ => {}
  | .mfragResultWrite _ => {}
  | .yieldEnd _ _ => {}
  | .lateResultArrival _ => {}
  | .storeQueueDrain _ => {}
  | .homeStoreArrival _ => {}
  | .storeAcknowledgement _ => {}
  | .homeLoadRequest _ => {}
  | .ctimeTick _ => {}
  | .remoteCopyExpiry _ _ => {}
  | .negativeAcknowledgement _ => {}
  | .backoffResend _ => {}
  | .peerLoadFailure _ _ => {}
  | .stashFillReturn _ _ _ => {}
  | .stashLineRecall _ _ _ => {}
  | .engineRegistration _ => {}
  | .engineLineWrite _ => {}
  | .copyComplete _ => {}
  | .acbSlotCommit _ => {}
  | .networkBarrierArrival _ _ => {}
  | .blockAdmission _ _ => {}
  | .blockCompletion _ => {}
  | .regrowGrant _ => {}
  | .regshrShed _ => {}
  | .handlerWaveFormation _ => {}
  | .impreciseFault _ _ => {}
  | .preemptionRequest _ => {}
  | .drainLimitExpiry _ => {}
  | .blockRestore _ _ => {}
  | .urgentAdmissionTimeout _ => {}
  | .txValidateAtHome _ _ => {}
  | .txCommitResult _ _ => {}
  | .turnTokenGrant _ => {}
  | .futureOpAtHome _ => {}
  | .futureAnswer _ => {}
  | .objregAtHome _ => {}
  | .calloArrival _ => {}
  | .combinerWaveFormation _ => {}
  | .combinerWaveEnd _ => {}
  | .combinerWaveAbort _ => {}
  | .calloReply _ => {}
  | .powerTokenGrant _ => {}
  | .tileCommandComplete _ => {}
  | .partComplete _ => {}
  | .msptAtCarver _ => {}
  | .carverCompileEnd _ => {}
  | .nodeCompletion _ => {}
  | .pageLease _ => {}
  | .pagingDoorbell _ => {}
  | .requeue _ _ => {}
  | .cancel _ _ => {}
  | .gangAdmission _ _ => {}
  | .workGraphRecordArrival _ => {}
  | .workGraphBundleLaunch _ => {}
  | .pageCompression _ _ => {}
  | .pageMigration _ _ => {}
  | .inboundAccess _ _ _ _ _ _ => {}
  | .inboundTimeout _ => {}
  | .pwenqAtTarget _ _ _ _ _ _ => {}
  | .pwenqReply _ _ _ => {}
  | .pwenqNoReply _ => {}
  | .queueMap _ _ => {}
  | .queueUnmap _ => {}
  | .queueReset _ => {}
  | .doorbell _ _ => {}
  | .tree _ => {}
  | .task _ => {}
  | .gang _ => {}
  | .barrier _ => {}
  | .copy _ => {}
  | .signal _ => {}
  | .wnode _ => {}
  | .measure _ => {}
  | .nopPacket _ => {}
  | .packetCompletion _ => {}
  | .heldRecordFlush _ => {}
  | .interruptCoalesceTimeout _ => {}
  | .partitionConfigCommand _ => {}
  | .partitionInstall => {}
  | .leaderRenew => {}
  | .leaderPoll _ => {}
  | .headstockTakeover _ => {}
  | .observationControlWrite _ _ => {}
  | .stopAtTheMark _ => {}
  | .resumeThePartition _ => {}
  | .haltTask _ => {}
  | .resumeTask _ => {}
  | .setSingleStep _ => {}
  | .clearSingleStep _ => {}
  | .resumeObservation _ => {}
  | .inputBoundary _ => {}
  | .checkpoint _ => {}
  | .lockstepInputMessage _ _ _ _ => {}
  | .lockstepHashArrival _ _ => {}
  | .lockstepHashTimeout _ => {}
  | .freezePin => {}
  | .freezeRegisterWrite _ => {}
  | .select _ => {}
  | .read => {}
  | .idcode => {}
  | .bypass => {}
  | .powerCapWrite _ => {}
  | .powerOverage => {}
  | .monitorRefresh _ => {}
  | .thermalRestore => {}
  | .voltageStop => {}
  | .attestationChallenge _ => {}
  | .powerOnReset => {}
  | .bringupStep => {}
  | .hostRegisterWrite _ _ _ => {}
  | .lapseClockPassed _ _ => {}
  | .stallCounterClock _ => {}
  | .powerFallsBelowCap => {}
  | .msiXVectorUnmask _ => {}
  | .faultQueueReadIndexWrite _ _ => {}
  | .objrstAtHome _ => {}
  | .pageMoveEnd _ => {}
  | .hottestReadingRead _ => {}
  | .powerFailure => {}

/-- Whether a destination pair or group starts at a register that its size does not divide; the link pair w126:w127 is one. -/
def Dst.misaligned (x : Dst) : Bool :=
  decide (1 < x.n) && x.aligned && !(x.reg == 126 && x.n == 2) && !(x.reg % x.n == 0)

/-- The details of the R24 breaks of an instruction: the register the offending field names. -/
def r24 (i : Instr) : List Nat :=
  (((opnds i).srcs.filter fun x => !(x.reg % x.align == 0)).map (·.reg)) ++
  (((opnds i).dsts.filter Dst.misaligned).map (·.reg)) ++
  (((opnds i).dsts.filter fun x => decide (1 < x.n) && x.reg == 0).map (fun _ => 0))

/-- The registers an instruction names, as runs: of a misaligned pair, group or run only the register that the field names (R24). -/
def named (i : Instr) : List (Nat × Nat) :=
  (opnds i).srcs.map (fun x => (x.reg, if x.reg % x.align == 0 then x.n else 1)) ++
    (opnds i).dsts.map (fun x => (x.reg, if x.misaligned then 1 else x.n))

/-- The registers at or above an allotment that an instruction names: the first of each operand (R85). -/
def r85 (i : Instr) (allot : Nat) : List Nat :=
  ((named i).filter fun x => decide (allot < x.1 + x.2)).map fun x => max allot x.1

/-- What makes an instruction illegal by itself: the details R24 and R85 give, or none where no rule states one. -/
def decodeIssues (i : Instr) (allot : Nat) : List (Option Nat) :=
  (if (opnds i).illegal then [none] else []) ++ (if (opnds i).zero then [some 0] else []) ++ (r24 i).map some ++ (r85 i allot).map some

end Sys2Proof.Machine
end

