-- ==== Sys2Proof/Machine/Perform.lean ====
section
/-! DEFINITION. Which accesses have performed (R188, R189), instruction fetch (R21 to R23, R82), and the stream table a thread
uses (R142). -/

namespace Sys2Proof.Machine

/-- Whether a request belongs to a lane. -/
def Req.of (r : Req) (b l : Nat) : Bool := r.bundle == b && (r.lane == l || r.also.contains l)

/-- Whether a request counts as an access of its thread under R188. -/
def Req.access (r : Req) : Bool := match r.kind with
  | .load _ _ _ _ => true
  | .store _ _ => true
  | .atom _ _ _ _ _ => true
  | .future _ _ _ => true
  | .call _ _ => true
  | .pwenq _ _ _ _ => true
  | _ => false

/-- Whether a request has been applied, and no write time of it is still on its way to the core. -/
def Phase.landed : Phase → Bool
  | .done w _ _ _ => w == 0
  | _ => false

/-- Whether an access has performed at a scope code (R189): 1 core, 2 to 4 quad to package, 5 pod. -/
def Req.performed (r : Req) (scope : Nat) : Bool := match r.kind with
  | .load _ _ _ _ => false
  | .store _ _ => decide (scope ≤ 1) && !(r.phase == .issued)
  | .atom _ _ _ _ _ => r.phase.landed
  | .future _ _ _ => match r.phase with
    | .done _ _ _ _ => true
    | .waiting => false
    | _ => false
  | _ => false

/-- Whether a mask of streams selects a stream: 0 means all sixteen (R36); bit 15 only in a handler thread (R202). -/
def maskHas (mask stream : Nat) : Bool := mask == 0 || bit mask stream

/-- A bundle's stash lines that some thread of it dirtied and that have no acknowledged write-back yet (R172, R189). -/
def State.stashPending (s : State) (b : Bundle) : Bool :=
  match s.blockOf b with
  | none => false
  | some k => k.maps.any (fun m => m.lines.any fun x => x.bundles.contains b.id &&
        (x.state == .dirty || x.state == .writing)) ||
      s.reqs.any fun r => match r.kind with
        | .writeback kb _ _ _ bs _ => kb == k.id && bs.contains b.id
        | _ => false

/-- Whether every access of a thread issued before a request (or every one) in the masked streams has performed at a scope;
at quad and wider the write-backs tied to its bundle count too (R189, R196); an open transaction's own do not (R205). -/
def State.allPerformed (s : State) (b : Bundle) (l scope mask : Nat) (before : Option Nat) : Bool :=
  (s.reqs.all fun r => !(r.of b.id l) || !r.access || r.tx || !(maskHas mask r.stream) ||
      (match before with | some n => decide (n ≤ r.id) | none => false) || r.performed scope) &&
  (decide (scope ≤ 1) || !(s.stashPending b))

/-- The stream attribute word a thread sees (R141, R142): in a handler thread s15 is its own, s0 to s14 the origin's. -/
def State.streamWord (s : State) (b : Bundle) (n : Nat) : Word :=
  match b.owner with
  | .handler _ => if n = 15 then 0x0000000C#32 else ((s.blockOf b).map (·.streams.getD n 0)).getD 0
  | _ => ((s.blockOf b).map (·.streams.getD n 0)).getD 0

/-- Address space, default scope and policy of an attribute word (R141). -/
def spaceOf (w : Word) : Nat := bits w.toNat 1 0
def scopeOf (w : Word) : Nat := bits w.toNat 4 2
def policyOf (w : Word) : Nat := bits w.toNat 6 5
def calOf (w : Word) : Bool := bit w.toNat 7

/-- The scope a scope field and stream resolve to (R6, R141, R190). -/
def State.resolveScope (s : State) (b : Bundle) (field stream : Nat) : Nat :=
  let w := s.streamWord b stream
  if spaceOf w = 1 then 1 else if spaceOf w = 2 then 2 else if field = 0 then scopeOf w else field

/-- A fence's scope: code 0 is the widest default among the streams its mask selects (R190), and core where it selects none
(the model's choice, log entry 130). -/
def State.fenceScope (s : State) (b : Bundle) (field mask : Nat) : Nat :=
  if field ≠ 0 then field
  else (List.range 16).foldl (fun m n => if maskHas mask n && !(n == 15 && !(match b.owner with
      | .handler _ => true | _ => false)) then max m (s.resolveScope b 0 n) else m) 1

/-- A fence's mask with bit 15 cleared in a block thread; a mask of bit 15 alone then selects no stream (R202): encoded as bit
16, which no stream has. -/
def fenceMask (b : Bundle) (mask : Nat) : Nat :=
  match b.owner with
  | .handler _ => mask
  | _ => if mask = 0 then 0 else if mask % 32768 = 0 then 65536 else mask % 32768

/-! Instruction fetch. -/

/-- Whether a parcel lies inside one readable range (R22, R367). -/
def readable (rs : List Range) (va : Nat) : Bool := rs.any fun r => r.r && inside va 2 r.base r.len

/-- The physical address of a byte of a parcel; none where fetch may not read the parcel (R22, R327, R264, R367). -/
def State.fetchPa (s : State) (b : Bundle) (parcel va : Nat) : Option Nat :=
  match b.owner with
  | .block k => match (s.block? k).bind fun k => s.task? k.task with
    | none => none
    | some t => if readable t.program.allRanges parcel then translate t.xlat va else none
  | .handler k => translate (s.part ((((s.block? k).map (·.task)).bind s.task?).map (·.partition)|>.getD 0)).handlers va
  | .wave w => match (s.waves.find? (·.id == w)).bind fun w => s.objects.find? (·.id == w.obj) with
    | none => none
    | some o => if readable o.ranges parcel then translate o.xlat va else none

/-- A code parcel: the one in force, or an older one of a parcel stored since the block's last REFETCH (R23, R82). -/
def State.fetchParcel (s : State) (b : Bundle) (pa : Nat) : BitVec 16 :=
  let now := s.viewParcel b.core pa
  let old := match s.blockOf b with
    | some k => (k.icode.filter (·.1 == pa)).map (·.2)
    | none => []
  if old.all (· == now) then now else (now :: old).getD (Config.pick (s.draw + pa) % (old.length + 1)) now

/-- What fetch finds at a PC (R21, R22). -/
inductive Fetched where
  | instr (i : Instr) (size word : Nat)
  | bad (size word : Nat)
  | fault

/-- The parcel at an address. -/
def State.parcel (s : State) (b : Bundle) (va : Nat) : Option (BitVec 16) :=
  match s.fetchPa b va va, s.fetchPa b va (va + 1) with
  | some p, some _ => some (s.fetchParcel b p)
  | _, _ => none

/-- Fetch and decode the instruction at a PC (R21, R22). -/
def State.fetch (s : State) (b : Bundle) (pc : DWord) : Fetched :=
  match s.parcel b pc.toNat with
  | none => .fault
  | some p =>
    if isLong p then match s.parcel b (pc.toNat + 2) with
      | none => .fault
      | some q => match decodeWord p q with
        | .ok i => .instr i 4 (q ++ p).toNat
        | .error _ => .bad 4 (q ++ p).toNat
    else .instr (decodeH p) 2 p.toNat

end Sys2Proof.Machine
end

