-- ==== Sys2Proof/Machine/Places.lean ====
section
/-! DEFINITION. Where accesses go: places (R144, R164, R165, R171), and their checks at issue (R146, R179, R182). -/

namespace Sys2Proof.Machine

/-- Whether a bundle is a handler's, or a combiner wave's. -/
def Bundle.isHandler (b : Bundle) : Bool := match b.owner with
  | .handler _ => true
  | _ => false
def Bundle.isWave (b : Bundle) : Bool := match b.owner with
  | .wave _ => true
  | _ => false

/-! Places. -/

/-- A place as a space and a byte address in it. -/
def Place.key : Place → (Nat × Nat × Nat) × Nat
  | .mem pa => ((0, 0, 0), pa)
  | .peer k va => ((1, k, 0), va)
  | .spad b off => ((2, b, 0), off)
  | .stash b m off _ => ((3, b, m), off)
  | .nowhere => ((4, 0, 0), 0)

/-- Whether two accesses share a byte. -/
def Place.meets (p : Place) (n : Nat) (q : Place) (m : Nat) : Bool :=
  p.key.1 == q.key.1 && !(p == .nowhere) && overlap p.key.2 n q.key.2 m

/-- Whether the first access lies inside the second. -/
def Place.within (p : Place) (n : Nat) (q : Place) (m : Nat) : Bool := p.key.1 == q.key.1 && inside p.key.2 n q.key.2 m

/-- The line a memory place lies in. -/
def Place.line : Place → Option Nat
  | .mem pa => some (pa / 64)
  | _ => none

/-- A block, resident or saved. -/
def State.anyBlock (s : State) (k : Nat) : Option Block := match s.block? k with
  | some x => some x
  | none => (s.saved.find? (·.block.id == k)).map (·.block)

/-- The partition a bundle works in. -/
def State.partOf (s : State) (b : Bundle) : Nat := match b.owner with
  | .wave w => ((s.waves.find? (·.id == w)).bind fun w => (s.objects.find? (·.id == w.obj)).map (·.partition)).getD 0
  | o => ((o.block?.bind s.anyBlock).bind fun k => (s.task? k.task).map (·.partition)).getD 0

/-- A bundle, resident or saved. -/
def State.anyBundle (s : State) (b : Nat) : Option Bundle := match s.bundle? b with
  | some x => some x
  | none => (s.saved.flatMap (·.bundles)).find? (·.id == b)

/-- The partition of a bundle by name. -/
def State.partAt (s : State) (b : Nat) : Nat := ((s.anyBundle b).map s.partOf).getD 0

/-- The translation entries of a thread's accesses in a stream (R264, R327, R388). -/
def State.xlats (s : State) (b : Bundle) (stream : Nat) : List Xlat := match b.owner with
  | .wave w => ((s.waves.find? (·.id == w)).bind fun w => (s.objects.find? (·.id == w.obj)).map (·.xlat)).getD []
  | .handler _ => if stream = 15 then (s.part (s.partOf b)).handlers else ((s.taskOf b).map (·.xlat)).getD []
  | .block _ => ((s.taskOf b).map (·.xlat)).getD []

/-- The ranges an access is checked against (R146, R264, R327, R367). -/
def State.ranges (s : State) (b : Bundle) (stream : Nat) : List Range := match b.owner with
  | .wave w => match (s.waves.find? (·.id == w)).bind fun w => s.objects.find? (·.id == w.obj) with
    | some o => o.ranges
    | none => []
  | _ =>
    if b.isHandler && stream == 15 then
      let xs := (s.part (s.partOf b)).handlers
      match xs with
      | [] => []
      | x :: _ => [{ base := x.va, len := (xs.map (·.len)).foldl (· + ·) 0, r := true, w := true }]
    else ((s.taskOf b).map (·.program.allRanges)).getD []

/-- A peer mapping that holds an address (R162, R391). -/
def State.peerAt (s : State) (p va : Nat) : Option PeerMap :=
  s.peerMaps.find? fun m => m.partition == p && inside va 1 m.base m.len

/-- Whether every byte of an access has a translation, here or at a peer. -/
def State.reached (s : State) (b : Bundle) (stream va n : Nat) : Bool :=
  let ok (a : Nat) : Bool := (translate (s.xlats b stream) a).isSome || (s.peerAt (s.partOf b) a).isSome
  ok va && ok (va + n - 1)

/-- The checks of a global or stash access of n bytes (R146): range, right, alignment. -/
def State.globalChecks (s : State) (b : Bundle) (stream : Nat) (ea : DWord) (n : Nat) (r w : Bool) (align : Nat) : List Trap :=
  let a := ea.toNat
  let holds := (s.ranges b stream).filter fun x => inside a n x.base x.len
  (if decide (2 ^ 56 ≤ a) || holds.isEmpty || !(s.reached b stream a n) then [{ cause := 5, detail := ea, addr := ea }] else []) ++
  (if holds.any fun x => (!r || x.r) && (!w || x.w) then [] else [{ cause := 6, addr := ea }]) ++
  (if a % align = 0 then [] else [{ cause := 7, detail := ea, addr := ea }])

/-- The map of a block that a stash access lies inside (R171). -/
def Block.mapHolding (k : Block) (a : Nat) : Option StashMap := k.maps.find? fun m => inside a 1 m.base m.length

/-- Where a global address lies. -/
def State.globalPlace (s : State) (b : Bundle) (stream : Nat) (ea : DWord) : Place :=
  match s.peerAt (s.partOf b) ea.toNat with
  | some m => .peer m.pkg ea.toNat
  | none => match translate (s.xlats b stream) ea.toNat with
    | some pa => .mem pa
    | none => .nowhere

/-- An offset in an allotment, or nowhere (R165). -/
def Block.spadPlace (k : Block) (off n : Nat) : Place := if off + n ≤ k.spadSize then .spad k.id off else .nowhere

/-- The block whose allotment a cluster access reaches: the issuing block, or its gang's member on that core (R164). -/
def State.clusterBlock (s : State) (b : Bundle) (k : Block) (c : Nat) : Option Block :=
  if c = b.core % 4 then some k
  else match k.gang with
    | none => none
    | some g => s.blocks.find? fun x => x.core == 4 * (b.core / 4) + c && (x.gang.map (·.1)) == some g.1

/-- Where a scratchpad access lies: space 1 local, 2 cluster (R164, R165). -/
def State.spadPlace (s : State) (b : Bundle) (space : Nat) (ea : DWord) (n : Nat) : Place :=
  let o := bits ea.toNat 31 0
  match s.blockOf b with
  | none => .nowhere
  | some k =>
    if space = 1 then (if o < 2 ^ 19 then k.spadPlace o n else .nowhere)
    else if 2 ^ 21 ≤ o then .nowhere
    else match s.clusterBlock b k (bits o 20 19) with
      | some x => x.spadPlace (o % 2 ^ 19) n
      | none => .nowhere

/-- Where an access in a stream lies. -/
def State.place (s : State) (b : Bundle) (stream : Nat) (ea : DWord) (n : Nat) : Place :=
  let space := spaceOf (s.streamWord b stream)
  if space = 1 ∨ space = 2 then s.spadPlace b space ea n
  else
    let g := s.globalPlace b stream ea
    if space = 3 then match (s.blockOf b).bind fun k => (k.mapHolding ea.toNat).map fun m => (k.id, m), g with
      | some (k, m), .mem pa => .stash k m.id (m.window + (ea.toNat - m.base)) pa
      | _, _ => g
    else g

/-- The checks of an access in a stream (R146): scratchpad spaces know only alignment. -/
def State.accessChecks (s : State) (b : Bundle) (stream : Nat) (ea : DWord) (n : Nat) (r w : Bool) : List Trap :=
  let space := spaceOf (s.streamWord b stream)
  if space = 1 ∨ space = 2 then (if ea.toNat % n = 0 then [] else [{ cause := 7, detail := ea, addr := ea }])
  else s.globalChecks b stream ea n r w n

/-- An out-of-allotment access sets %spflag and records the offset (R165). -/
def State.offend (s : State) (b : Bundle) (p : Place) (space : Nat) (ea : DWord) : State :=
  if p = .nowhere ∧ (space = 1 ∨ space = 2) then
    s.modBlk b fun k => if k.spflag then k else { k with spflag := true, spaddr := ea.extractLsb' 0 32 }
  else s

/-- The checks of ACP and ACB (R179, R182): the stream, the range of the source bytes, and alignment. -/
def State.copyChecks (s : State) (b : Bundle) (stream : Nat) (ga : DWord) (n : Nat) : List Trap :=
  (if stream = 15 || !(spaceOf (s.streamWord b stream) == 0) then [{ cause := 3, detail := BitVec.ofNat 64 stream }] else []) ++
  (if n = 0 then [] else (s.globalChecks b stream ga n true false 1)) ++
  (if ga.toNat % 32 = 0 then [] else [{ cause := 7, detail := ga, addr := ga }])

end Sys2Proof.Machine
end

