-- ==== Sys2Proof/Machine/TileFmt.lean ====
section
/-! DEFINITION. The format word of MFRAG and of the tile path (R277, R278), the fields of a tile command's parameter block
(R284), its span and its register operands (R286). -/

namespace Sys2Proof.Machine

/-- The type codes of a format word: A, B and accumulator; the stored-transposed bits. -/
def fmtA (w : Word) : Nat := bits w.toNat 3 0
def fmtB (w : Word) : Nat := bits w.toNat 7 4
def fmtAcc (w : Word) : Nat := bits w.toNat 11 8
def fmtTA (w : Word) : Bool := bit w.toNat 12
def fmtTB (w : Word) : Bool := bit w.toNat 13

/-- The table of R278: K per MFRAG (0 where the path has none) and the K-step of the tile path. -/
def fmtSteps (a b acc : Nat) : Option (Nat × Nat) :=
  if (a = 8 ∨ a = 9) ∧ (b = 8 ∨ b = 9) ∧ acc = 10 then some (32, 32)
  else if (a = 12 ∨ a = 13) ∧ (b = 12 ∨ b = 13) ∧ acc = 10 then some (64, 64)
  else if a = 14 ∧ b = 14 ∧ acc = 10 then some (128, 128)
  else if a ≤ 1 ∧ b ≤ 1 ∧ acc = 4 then some (64, 64)
  else if (a = 7 ∨ a = 15) ∧ (b = 7 ∨ b = 15) ∧ acc = 4 then some (128, 128)
  else if a = 10 ∧ b = 10 ∧ acc = 10 then some (0, 8)
  else if a = 11 ∧ b = 11 ∧ acc = 11 then some (0, 4)
  else none

/-- K of a valid MFRAG format word. -/
def mfragK (w : Word) : Option Nat :=
  match fmtSteps (fmtA w) (fmtB w) (fmtAcc w) with
  | some (k, _) => if k = 0 ∨ w.toNat / 4096 ≠ 0 then none else some k
  | none => none

/-- The K-step of a valid tile format word. -/
def tileStep (w : Word) : Option Nat :=
  match fmtSteps (fmtA w) (fmtB w) (fmtAcc w) with
  | some (_, k) => if w.toNat / 16384 ≠ 0 then none else some k
  | none => none

/-- Fields of a parameter block (R284). -/
def tileM (ws : List Word) : Nat := bits (ws.getD 0 0).toNat 10 0
def tileN (ws : List Word) : Nat := bits (ws.getD 0 0).toNat 21 11
def tileK (ws : List Word) : Nat := (ws.getD 1 0).toNat
def tileFormat (ws : List Word) : Word := ws.getD 4 0
def tileSpan (ws : List Word) : Nat := 2 ^ bits (ws.getD 5 0).toNat 7 5
def tileBase (ws : List Word) : Nat := bits (ws.getD 5 0).toNat 15 8
def tileAcc (ws : List Word) : Bool := bit (ws.getD 5 0).toNat 4
def tileSlot (ws : List Word) : Nat := bits (ws.getD 5 0).toNat 3 0

/-- Stored rows and row length of an operand (R285): A is M × K, or K × M transposed; B is K × N, or N × K transposed. -/
def tileStored (ws : List Word) (isB : Bool) : Nat × Nat :=
  let f := tileFormat ws
  if isB then (if fmtTB f then (tileN ws, tileK ws) else (tileK ws, tileN ws))
  else if fmtTA f then (tileK ws, tileM ws) else (tileM ws, tileK ws)

/-- An operand's descriptor word, its source bit, register, and the registers of a stored row (R284, R286). -/
def tileDesc (ws : List Word) (isB : Bool) : Word := ws.getD (if isB then 3 else 2) 0
def tileInRegs (ws : List Word) (isB : Bool) : Bool := bit (tileDesc ws isB).toNat 0
def tileReg (ws : List Word) (isB : Bool) : Nat := bits (tileDesc ws isB).toNat 7 1
def tileRegs (ws : List Word) (isB : Bool) : Nat :=
  (tileStored ws isB).2 * typeBits (if isB then fmtB (tileFormat ws) else fmtA (tileFormat ws)) / 32

/-- The cores of a command's span, in span order (R287). -/
def Tile.span (t : Tile) : List Nat := (List.range (tileSpan t.words)).map fun i => 160 * dieOf t.core + tileBase t.words + i

/-- Whether an issued command writes the ring of a core. -/
def Tile.writes (t : Tile) (core : Nat) : Bool := t.issued && t.span.contains core

end Sys2Proof.Machine
end

