-- ==== Sys2Proof/Machine/Gate.lean ====
section
/-! DEFINITION. When a thread is ready (R60, R61): the wait its next instruction would have, for operands (R94, R95) and for each
instruction that waits, with its stall reason (R414). -/

namespace Sys2Proof.Machine

/-- Whether some register of a run is in a state. -/
def Thread.anyPending (t : Thread) (r n : Nat) : Bool := (List.range n).any fun i => (t.reg (r + i)).st == .pending

/-- Whether some register of a run is held. -/
def Thread.anyHeld (t : Thread) (r n : Nat) : Bool := (List.range n).any fun i => (t.reg (r + i)).st == .held

/-- Whether a source or destination makes the thread wait (R94, R95): a run with a held register is held, not pending. A pending
operand makes the lane wait also where an empty-action source, the same register or another, is pending (log entry 101). -/
def Thread.operandWait (t : Thread) (i : Instr) : Bool :=
  ((opnds i).srcs.any fun x => x.waits && !x.trap && t.anyPending x.reg x.n && !(t.anyHeld x.reg x.n)) ||
  ((opnds i).dsts.any fun x => t.anyPending x.reg x.n)

/-- Stores of a bundle still in its queue, by issued instruction (R147). -/
def State.queued (s : State) (b : Nat) : List Nat :=
  distinct ((s.reqs.filter fun r => r.bundle == b && r.phase == .issued && (match r.kind with
    | .store _ _ => true
    | _ => false)).map (·.entry))

/-- Whether a thread has a store in the masked streams that has not entered the L1 or array. -/
def State.storeQueuedIn (s : State) (b l : Nat) (p : Req → Bool) : Bool :=
  s.reqs.any fun r => r.of b l && p r && r.phase == .issued && (match r.kind with
    | .store _ _ => true
    | _ => false)

/-- Whether a stream is being drained by SETSTRM (R143). -/
def State.draining (s : State) (b : Bundle) (stream : Nat) : Bool :=
  match s.blockOf b with
  | some k => k.drains.any (·.1 == stream)
  | none => false

/-- Stash lines of a thread's bundle that are dirty, or whose write-back is not yet acknowledged (R172). -/
def State.stashDirty (s : State) (b : Bundle) : Bool := match s.blockOf b with
  | none => false
  | some k => k.maps.any fun m => m.lines.any fun x => x.bundles.contains b.id && x.state == .dirty
def State.stashWriting (s : State) (b : Bundle) : Bool := s.reqs.any fun r => match r.kind with
  | .writeback k _ _ _ bs _ => b.owner.block? == some k && bs.contains b.id
  | _ => false

/-- Whether some write-back of a block's stash lines is not yet acknowledged (R173). -/
def State.blockWriting (s : State) (block : Nat) : Bool := s.reqs.any fun r => match r.kind with
  | .writeback k _ _ _ _ _ => block == k
  | _ => false

/-- Whether the lapse clocks a FENCE.SC waits for have passed (R203, R204). -/
def State.lapsed (s : State) (t : Thread) (scope mask : Nat) : Bool :=
  decide (scope ≤ 1) || t.lapses.all fun x => !(maskHas mask x.stream) ||
    decide ((if scope ≤ 3 then x.die else x.pkg) < s.clk)

/-- Whether a thread's engine commands have completed (R203). -/
def State.enginesDone (s : State) (b l : Nat) : Bool :=
  (s.copies.all fun c => !(c.bundle == b && c.lane == l)) && (s.acbs.all fun c => !(c.bundle == b && c.lane == l)) &&
  (s.tiles.all fun c => !(c.bundle == b && c.lane == l)) && (s.parts.all fun c => !(c.bundle == b && c.lane == l))

/-- Stash lines of a thread's bundle that the masked streams dirtied and that no acknowledged write-back has brought home (R188, R189). -/
def State.stashDirtyIn (s : State) (b : Bundle) (mask : Nat) : Bool := match s.blockOf b with
  | none => false
  | some k => (s.reqs.any fun r => match r.kind with
      | .writeback kb _ _ _ bs ss => kb == k.id && bs.contains b.id && ss.any fun n => maskHas mask n
      | _ => false) || k.maps.any fun m => m.lines.any fun x => x.bundles.contains b.id && x.state == .dirty && x.streams.any fun n => maskHas mask n

/-- A fence's wait (R203): its write-back must have started where lines are dirty, and everything masked has performed; a fence that
starts no write-back waits for that of the dirty lines too (R189). -/
def State.fenceWait (s : State) (b : Bundle) (l : Nat) (t : Thread) (scope mask : Nat) (writesBack : Bool) : Bool :=
  if writesBack && !(t.mid == some .flush) && s.storeQueuedIn b.id l (fun r => match r.place with
      | .stash _ _ _ _ => true | _ => false) then true
  else if writesBack && !(t.mid == some .flush) && s.stashDirty b then false
  else !((s.reqs.all fun r => !(r.of b.id l) || !r.access || r.tx || !(maskHas mask r.stream) || r.performed scope) &&
    (decide (scope ≤ 1) || !(if writesBack then s.stashWriting b else s.stashDirtyIn b mask)))

/-- A barrier of the block (or wave) a bundle works for. -/
def State.bar (s : State) (b : Bundle) (q : Nat) : Bar := ((s.blockOf b).map (·.bars.getD q {})).getD {}

/-- The buffer a block's name cbQ stands for, with where it is kept: the block and q, or a gang and 8 plus its pipe (R378). -/
def State.bufRef (s : State) (k : Block) (q : Nat) : Option (Nat × Nat × Buf) :=
  match k.bufs.getD q none with
  | none => none
  | some u => match u.home with
    | none => some (k.id, q, u)
    | some (g, i) => ((s.gangs.find? (·.id == g)).bind (·.bufs[i]?)).map fun u' => (g, 8 + i, u')

/-- Caliper engines in use on a core (R358). -/
def State.enginesUsed (s : State) (c : Nat) : Nat :=
  ((s.blocks.filter (·.core == c)).map fun k => (k.mons.filter (·.isSome)).length).foldl (· + ·) 0

/-- The origin thread of a handler thread. -/
def State.originOf (s : State) (t : Thread) : Option (Origin × Option Thread) :=
  t.origin.map fun o => (o, if o.exited then none else match s.thread? o.bundle o.lane with
    | some u => match u.life with
      | .exited => none
      | _ => some u
    | none => none)

/-- Whether a request goes through a stash map. -/
def Req.viaMap (r : Req) (block map : Nat) : Bool := match r.place with
  | .stash k m _ _ => k == block && m == map
  | _ => false

/-- The map of a block whose global base a STUNMAP names. -/
def Block.mapAt (k : Block) (base : Nat) : Option StashMap := k.maps.find? (·.base == base)

/-- A pending register of a tile command's register operand, in any lane, delays its issue (R286). A is never in registers for
MSPT (R305). -/
def tileBlockPending (b : Bundle) (ws : List Word) (sparse : Bool) : Bool :=
  [false, true].any fun isB => (isB || !sparse) && tileInRegs ws isB && decide ((tileStored ws isB).1 ≤ 32) &&
    b.threads.any fun u => !(u.life == .exited) && u.anyPending (tileReg ws isB) (min (tileRegs ws isB) 128)
def tileRegsPending (b : Bundle) (t : Thread) (a : Nat) (sparse : Bool) : Bool := tileBlockPending b (t.vals a 8) sparse

/-- A pending register of a scratchpad operand's descriptor delays the command too (R285). -/
def tileDescPending (t : Thread) (a : Nat) (sparse : Bool) : Bool :=
  let ws := t.vals a 8
  [false, true].any fun isB => (isB || !sparse) && !(tileInRegs ws isB) && t.anyPending (tileReg ws isB) 2

/-- The live lanes of a bundle that stand at a PC: an operation that acts once for its group waits for all of them (R177). -/
def Bundle.standingAt (b : Bundle) (pc : DWord) : List Nat :=
  (List.range b.threads.length).filter fun l => (b.threads.getD l {}).live && (b.threads.getD l {}).pc == pc

/-- The object that a combiner bundle serves. -/
def State.waveObj (s : State) (b : Bundle) : Option Obj := match b.owner with
  | .wave w => (s.waves.find? (·.id == w)).bind fun w => s.objects.find? (·.id == w.obj)
  | _ => none

/-- Whether a scratchpad ATOM of a lane has not been applied (R238). -/
def State.atomInArray (s : State) (b l : Nat) : Bool := s.reqs.any fun r => r.of b l && !(r.phase.landed) && match r.kind, r.place with
  | .atom _ _ _ _ _, .spad _ _ => true
  | .atom _ _ _ _ _, .nowhere => true
  | _, _ => false

/-- Whether an earlier scratchpad store of a thread has not entered its array (R199): an engine command reads its operands after. -/
def State.spadStoresBefore (s : State) (b l id : Nat) : Bool := s.reqs.any fun r => r.of b l && decide (r.id < id) && match r.kind, r.place with
  | .store _ _, .spad _ _ => r.phase == .issued
  | .store _ _, .nowhere => r.phase == .issued
  | .atom _ _ _ _ _, .spad _ _ => !r.phase.landed
  | .atom _ _ _ _ _, .nowhere => !r.phase.landed
  | _, _ => false

/-- The causes of ACP before its wait for the tag (R179): those of R146, with BAROVF last. -/
def State.acpTraps (s : State) (b : Bundle) (x : Thread) (bb : BitVec 1) (st : BitVec 4) (v : BitVec 5) (p : BitVec 6) (o : BitVec 7) :
    List Trap :=
  let ga := x.pair (2 * p.toNat)
  let known (r n : Nat) : Bool := (List.range n).all fun i => match (x.reg (r + i)).st with
    | .full => true
    | .pending => true
    | _ => false
  let addr := known (2 * p.toNat) 2
  (if addr && known v.toNat 1 then s.copyChecks b st.toNat ga (min (x.val v.toNat).toNat 32)
    else s.copyChecks b st.toNat (if addr then ga else 0) 0) ++
  (if !(known o.toNat 1) || (x.val o.toNat).toNat % 32 = 0 || (addr && !(ga.toNat % 32 == 0)) then []
    else [{ cause := 7, detail := (x.val o.toNat).zeroExtend 64, addr := ga }]) ++
  (if bb == 1#1 && decide (2 ^ 32 - 1 < (s.bar b 0).pending + 32) then [{ cause := 0x15, detail := BitVec.ofNat 64 (s.bar b 0).pending }] else [])

/-- The causes of ACB (R182): a reserved bit of its last word, and those of ACP over the whole source. -/
def State.acbTraps (s : State) (word : Nat) (b : Bundle) (t : Thread) (a : BitVec 7) : List Trap :=
  let ws := t.vals a.toNat 4
  let w := (ws.getD 3 0).toNat
  (if w / 256 = 0 then [] else [{ cause := 3, detail := Config.illegalDetail word }]) ++
  s.copyChecks b (bits w 3 0) (t.pair a.toNat) (ws.getD 2 0).toNat

/-- The commands in a core's ACB queue (R182). -/
def State.acbCount (s : State) (core : Nat) : Nat := (s.acbs.filter fun c => (s.block? c.block).any (·.core == core)).length

/-- Whether a standing lane is active at its PC: not switched off by a PRED there (R46). -/
def State.activeAt (s : State) (b : Bundle) (t : Thread) : Bool := match s.fetch b t.pc with
  | .instr (.pred n q) _ _ => t.pred q.toNat ^^ (n == 1#1)
  | _ => true

/-- The highest lane of a list, for writes of block scope (R81). -/
def highest (ls : List Nat) : Nat := ls.foldl max 0

/-- The CALCFG descriptor that a lane's group would use: that of the highest active lane standing with it whose operands are there
(R346). -/
def State.calWords (s : State) (b : Bundle) (t : Thread) (i : Instr) (a : Nat) : List Word :=
  let ls := (b.standingAt t.pc).filter fun l => let u := b.threads.getD l {}
    u.conv.isNone && u.yield.isNone && u.mid.isNone && s.activeAt b u && !(u.operandWait i)
  (if ls.isEmpty then t else b.threads.getD (highest ls) {}).vals a 4

/-- Whether a first configuration finds none of the core's 16 engines free (R346). -/
def State.calWaits (s : State) (b : Bundle) (k : Nat) (ws : List Word) : Bool :=
  ((s.blockOf b).any fun x => (x.mons.getD k none).isNone) && !(calLen ws == 0) && (calBad ws).isNone && decide (16 ≤ s.enginesUsed b.core)

/-- The oldest slot that is reserved and not committed (R177). -/
def Buf.oldest (u : Buf) : Nat := (u.reserve + u.count - u.reserved % u.count) % u.count

/-- Whether the oldest slot reserved and not committed in a buffer, kept at a block or gang, is a copy engine's (R177, R182). -/
def State.engineSlot (s : State) (hk hq : Nat) (u : Buf) : Bool :=
  s.acbs.any fun c => c.slot == some u.oldest && decide (0 < u.reserved) &&
    ((s.block? c.block).bind (s.bufRef · c.buf)).any fun x => x.1 == hk && x.2.1 == hq

/-- The wait of an instruction that waits for more than its operands, besides a stream's drain. -/
def State.instrWait' (s : State) (b : Bundle) (l : Nat) (t : Thread) (i : Instr) : Option Stall :=
  let stopIf (c : Bool) (r : Stall) : Option Stall := if c then some r else none
  let barHeld (q : Nat) : Option Stall := stopIf (t.arrived.getD q none == some (s.bar b q).phase) .barrier
  let queueFull := stopIf (decide (32 ≤ (s.queued b.id).length)) .storeQueueFull
  match i with
  | .st _ _ _ _ _ => queueFull
  | .strelW _ _ _ _ => queueFull
  | .strelD _ _ _ _ => queueFull
  | .fenceX m => stopIf (s.fenceWait b l t 1 (fenceMask b m.toNat) false) .storeQueueFull
  | .fenceAr m k => stopIf (s.fenceWait b l t (s.fenceScope b k.toNat m.toNat) (fenceMask b m.toNat) true) .storeQueueFull
  | .fenceSc m k =>
    let sc := s.fenceScope b k.toNat m.toNat
    stopIf (s.fenceWait b l t sc (fenceMask b m.toNat) true ||
      !((!(t.mid == some .flush) && s.stashDirty b) || s.lapsed t sc (fenceMask b m.toNat))) .storeQueueFull
  | .fenceEng m k => stopIf (s.fenceWait b l t (s.fenceScope b k.toNat m.toNat) (fenceMask b m.toNat) false ||
      !(s.enginesDone b.id l)) .storeQueueFull
  | .stflush m =>
    stopIf (s.storeQueuedIn b.id l (fun r => maskHas (fenceMask b m.toNat) r.stream) ||
      (t.mid == some .flush && b.owner.block?.any s.blockWriting)) .storeQueueFull
  | .refetch => stopIf (s.storeQueuedIn b.id l fun _ => true) .storeQueueFull
  | .refetchFence => stopIf (s.storeQueuedIn b.id l fun _ => true) .storeQueueFull
  | .txb _ =>
    if t.tx.isSome then none
    else if s.fenceWait b l t 4 0 true then some .storeQueueFull
    else match s.blockOf b with
      | some k =>
        let d := s.die (dieOf b.core)
        stopIf (decide (k.txlim ≤ t.aborts) && !(d.turn == some (b.id, l)) && d.turnQueue.contains (b.id, l)) .transactionTurn
      | none => none
  | .barArr _ q => barHeld q.toNat
  | .barSync _ q => barHeld q.toNat
  | .barChk _ q => barHeld q.toNat
  | .barWait _ q => barHeld q.toNat
  | .cbpush q _ => match (s.blockOf b).bind (s.bufRef · q.toNat) with
    | some (_, _, u) => stopIf (u.free == 0) .bufferWait
    | none => none
  | .cbwait q _ => match (s.blockOf b).bind (s.bufRef · q.toNat) with
    | some (_, _, u) => stopIf (u.filled == 0) .bufferWait
    | none => none
  | .cbcmt q => stopIf ((((s.blockOf b).bind (s.bufRef · q.toNat)).any fun x => s.engineSlot x.1 x.2.1 x.2.2) ||
      (b.standingAt t.pc).any fun l => s.storeQueuedIn b.id l (fun r => match r.place with
      | .spad _ _ => true | .nowhere => true | _ => false) || s.atomInArray b.id l) .bufferWait
  | .cbpop _ => stopIf ((b.standingAt t.pc).any fun l => s.reqs.any fun r => r.of b.id l && (match r.kind, r.place with
      | .load _ _ _ _, .spad _ _ => true
      | .load _ _ _ _, .nowhere => true
      | .atom _ _ _ _ _, .spad _ _ => true
      | .atom _ _ _ _ _, .nowhere => true
      | _, _ => false)) .bufferWait
  | .acwait g => stopIf (!(t.tags.getD g.toNat 0 == 0)) .storeQueueFull
  | .acp bb st g v p o => stopIf (decide (63 ≤ t.tags.getD g.toNat 0) && (s.acpTraps b t bb st v p o).isEmpty) .storeQueueFull
  | .acb _ a => stopIf ((decide (63 ≤ t.tags.getD (bits (t.val (a.toNat + 3)).toNat 6 4) 0) || decide (16 ≤ s.acbCount b.core)) &&
      !(t.val (a.toNat + 2) == 0) && (s.acbTraps 0 b t a).isEmpty) .storeQueueFull
  | .mring _ =>
    let c := s.core b.core
    match c.ringHolder with
    | none => none
    | some h => stopIf (!(b.owner == .block h) || c.slots.any (·.isSome) || s.tiles.any (·.writes b.core)) .ringFull
  | .mwait z => stopIf (s.tiles.any fun x => x.bundle == b.id && x.lane == l && (z == 15#4 || x.slots.contains z.toNat)) .ringFull
  | .pwait z => stopIf (s.parts.any fun x => x.bundle == b.id && x.lane == l && (z == 15#4 || x.slot == z.toNat)) .ringFull
  | .part _ => stopIf (decide (16 ≤ (s.parts.filter (·.core == b.core)).length)) .ringFull
  | .mtile a => stopIf (tileRegsPending b t a.toNat false || tileDescPending t a.toNat false) .emptyRegister
  | .mspt a => stopIf (tileRegsPending b t a.toNat true || tileDescPending t a.toNat true) .emptyRegister
  | .calcfg k a => stopIf (s.calWaits b k.toNat (s.calWords b t i a.toNat)) .barrier
  | .stunmap a => match s.blockOf b with
    | none => none
    | some k => match k.mapAt (t.pair a.toNat).toNat with
      | none => none
      | some m => stopIf (s.reqs.any fun r => r.viaMap k.id m.id || match t.mid, r.kind with
          | some (.unmap _), .writeback kb mb _ _ _ _ => kb == k.id && mb == m.id
          | _, _ => false) .storeQueueFull
  | .setstrm n _ => match t.mid with
    | some (.drain _) => stopIf (s.reqs.any fun r => r.stream == n.toNat && (match s.bundle? r.bundle with
        | some b' => b'.owner.block? == b.owner.block?
        | none => false) && (match r.kind with
        | .load _ _ _ _ => true
        | .store _ _ => r.phase == .issued
        | .atom _ _ _ _ _ => true
        | _ => false)) .storeQueueFull
    | _ => stopIf (s.draining b n.toNat) .storeQueueFull
  | .srd a _ => stopIf (a == 0x21#7 && b.results.any fun c => c.mfrag && c.shares.any (·.lane == l)) .emptyRegister
  | .swr a _ => stopIf (a == 0x21#7 && b.results.any fun c => c.mfrag && c.shares.any (·.lane == l)) .emptyRegister
  | .clrff _ => stopIf (b.results.any fun c => c.mfrag && c.shares.any (·.lane == l)) .emptyRegister
  | .crply _ a => match s.waveObj b with
    | some o => stopIf (t.anyPending a.toNat o.replies) .emptyRegister
    | none => none
  | .rett => stopIf (!(s.allPerformed b l 1 0 none)) .storeQueueFull
  | .oreg n _ => match s.originOf t with
    | some (_, some u) => stopIf (u.anyPending n.toNat 1) .emptyRegister
    | _ => none
  | .owr n _ => match s.originOf t with
    | some (_, some u) => stopIf (u.anyPending n.toNat 1) .emptyRegister
    | _ => none
  | _ => none

/-! Causes decided at decode (R25). -/

/-- Registers per thread: the block's allotment; 32 for handler and combiner threads (R83, R264, R327). -/
def State.allotOf (s : State) (b : Bundle) : Nat := match b.owner with
  | .block k => ((s.block? k).map (·.allot)).getD 0
  | _ => 32

/-- The stream an instruction names, if it is a memory, atomic or copy instruction (R142). -/
def streamOf (i : Instr) : Option Nat := match i with
  | .ld _ _ st _ _ => some st.toNat
  | .st _ _ st _ _ => some st.toNat
  | .ldacqW _ st _ _ => some st.toNat
  | .ldacqD _ st _ _ => some st.toNat
  | .strelW _ st _ _ => some st.toNat
  | .strelD _ st _ _ => some st.toNat
  | .pfetch _ st _ => some st.toNat
  | .ldsmpW _ st _ _ => some st.toNat
  | .atomAdd _ _ st _ _ => some st.toNat
  | .atomMinI32 _ _ st _ _ => some st.toNat
  | .atomMaxI32 _ _ st _ _ => some st.toNat
  | .atomMinZ32 _ _ st _ _ => some st.toNat
  | .atomMaxZ32 _ _ st _ _ => some st.toNat
  | .atomAnd _ _ st _ _ => some st.toNat
  | .atomOr _ _ st _ _ => some st.toNat
  | .atomXor _ _ st _ _ => some st.toNat
  | .atomExch _ _ st _ _ => some st.toNat
  | .atomCas _ _ st _ _ => some st.toNat
  | .atomIncw _ _ st _ _ => some st.toNat
  | .atomDecw _ _ st _ _ => some st.toNat
  | .atomFaddF32 _ _ st _ _ => some st.toNat
  | .atomFminF32 _ _ st _ _ => some st.toNat
  | .atomFmaxF32 _ _ st _ _ => some st.toNat
  | .atomAddD _ _ st _ _ => some st.toNat
  | .acp _ st _ _ _ _ => some st.toNat
  | _ => none

/-- Instructions that trap ILLEGAL in a handler thread (R327 and each instruction's own rule; SETSTRM has its own detail), on every
lane; REGROW and REGSHR do so on the active lanes, in their own checks (R87). -/
def handlerForbids (i : Instr) : Bool := match i with
  | .txb _ | .mring _ | .mtile _ | .mspt _ | .part _ | .acb _ _ | .callo _ _ _ | .objreg _ _
  | .objrst _ _ | .fput _ _ _ | .fputt _ _ _ | .fget _ _ | .cont _ | .barArr _ _ | .barWait _ _ | .barSync _ _
  | .barAddb _ _ _ | .barChk _ _ | .cbpush _ _ | .cbcmt _ | .cbwait _ _ | .cbpop _ | .setprg _ | .calcfg _ _ | .calref _ _
  | .calbnd _ _ | .wrec _ _ | .pwenq _ _ => true
  | _ => false

/-- Instructions that trap ILLEGAL in a combiner thread (R264, R337; the node instructions have detail 0). -/
def waveForbids (i : Instr) : Bool := match i with
  | .callo _ _ _ | .objreg _ _ | .objrst _ _ | .txb _ | .fget _ _ | .cont _ | .wrec _ _ | .pwenq _ _
  | .setprg _ | .mtile _ | .mspt _ | .mring _ | .mwait _ | .part _ | .pwait _ | .acb _ _ | .calcfg _ _ | .calref _ _
  | .calbnd _ _ | .calrd _ _ _ | .carvinv _ | .stmap _ _ | .stunmap _ | .xnext _ _ _ | .mtok _ => true
  | _ => false

/-- Instructions that only a handler thread may run (R44). -/
def handlerOnly (i : Instr) : Bool := match i with
  | .rett | .kill | .killb | .oreg _ _ | .owr _ _ | .opc _ => true
  | .srd a _ => decide (0x40 ≤ a.toNat)
  | _ => false

/-- The node instructions (R225). -/
def isNode (i : Instr) : Bool := match i with
  | .nodeRd _ _ | .nodeIn _ _ | .nodeUp _ _ | .nodeDn _ _ => true
  | _ => false

/-- The network code and barrier number of a barrier operand, and whether the operation arrives (R48, R184). -/
def barOperand (i : Instr) : Option (Nat × Nat × Bool) := match i with
  | .barArr n q => some (n.toNat, q.toNat, true)
  | .barWait n q => some (n.toNat, q.toNat, false)
  | .barSync n q => some (n.toNat, q.toNat, true)
  | .barAddb n q _ => some (n.toNat, q.toNat, false)
  | .barChk n q => some (n.toNat, q.toNat, true)
  | _ => none

/-- The buffer of a CB operation or ACB. -/
def bufOperand (i : Instr) : Option Nat := match i with
  | .cbpush q _ => some q.toNat
  | .cbcmt q => some q.toNat
  | .cbwait q _ => some q.toNat
  | .cbpop q => some q.toNat
  | .acb q _ => some q.toNat
  | _ => none

/-- What makes an instruction ILLEGAL where it stands, on every lane of its group (R25): the details stated, none where no
rule states one. -/
def State.contextIssues (s : State) (f : Pfx) (b : Bundle) (i : Instr) : List (Option Nat) :=
  let k := (s.blockOf b).getD { id := 0, task := 0, core := 0, order := 0, nthreads := 0, allot := 0, spadSize := 0, streams := [] }
  (match f, i with
    | .pred, .pred _ _ => [none]
    | .pred, .ext _ => [none]
    | .ext _, .addi _ _ _ => []
    | .ext _, _ => [none]
    | _, _ => []) ++
  (if streamOf i == some 15 && !b.isHandler then [some 15] else []) ++
  (match i with
    | .setstrm n _ => if n == 15#4 || b.isHandler then [some n.toNat] else []
    | .crply _ _ => if b.isWave then [] else [none]
    | .cont _ => if k.node.isSome then [some 0] else []
    | .oreg n _ => if b.isHandler && decide (k.allot ≤ n.toNat) then [some n.toNat] else []
    | .owr n _ => if b.isHandler && decide (k.allot ≤ n.toNat) then [some n.toNat] else []
    | _ => []) ++
  (if (b.isHandler && handlerForbids i) || (b.isWave && waveForbids i) || (!b.isHandler && handlerOnly i) then [none] else []) ++
  (if isNode i && (b.isHandler || k.node.isNone) then [some 0] else []) ++
  (match barOperand i with
    | some (n, q, arrives) => if decide (2 ≤ n) && !b.isHandler && ((k.node.isSome || b.isWave) ||
        (arrives && bits (k.bars.getD q {}).word.toNat 15 0 == 0)) then [some (0x200 + q)] else []
    | none => []) ++
  (match bufOperand i with
    | some q => if !b.isHandler && !(b.isWave && waveForbids i) && (s.bufRef k q).isNone then [some q] else []
    | none => [])

/-- Whether HALT traps PRIV (R44, R333). -/
def State.privIssue (s : State) (b : Bundle) (i : Instr) : Bool := match i with
  | .halt => !(((s.blockOf b).map (·.priv)).getD false)
  | _ => false

/-- What makes an instruction ILLEGAL at decode (R25): its encoding and where it stands. -/
def State.issuesOf (s : State) (f : Pfx) (b : Bundle) (i : Instr) : List (Option Nat) :=
  decodeIssues i (s.allotOf b) ++ s.contextIssues f b i

/-! What a transaction forbids (R245). -/

/-- Instructions that abort a revocable transaction whatever their operands (R245). -/
def txForbids (i : Instr) : Bool := match i with
  | .atomAdd _ _ _ _ _ | .atomMinI32 _ _ _ _ _ | .atomMaxI32 _ _ _ _ _ | .atomMinZ32 _ _ _ _ _ | .atomMaxZ32 _ _ _ _ _
  | .atomAnd _ _ _ _ _ | .atomOr _ _ _ _ _ | .atomXor _ _ _ _ _ | .atomExch _ _ _ _ _ | .atomCas _ _ _ _ _
  | .atomIncw _ _ _ _ _ | .atomDecw _ _ _ _ _ | .atomFaddF32 _ _ _ _ _ | .atomFminF32 _ _ _ _ _ | .atomFmaxF32 _ _ _ _ _
  | .atomAddD _ _ _ _ _ | .fput _ _ _ | .fputt _ _ _ | .fget _ _ | .callo _ _ _ | .txb _ | .regrow _ | .regshr _
  | .barArr _ _ | .barWait _ _ | .barSync _ _ | .barAddb _ _ _ | .barChk _ _ | .cbpush _ _ | .cbcmt _ | .cbwait _ _ | .cbpop _
  | .acp _ _ _ _ _ _ | .acwait _ | .mtile _ | .mspt _ | .mring _ | .mwait _ | .part _ | .pwait _ | .acb _ _ | .calcfg _ _
  | .calref _ _ | .calbnd _ _ | .calrd _ _ _ | .carvinv _ | .stmap _ _ | .stunmap _ | .nodeIn _ _ | .nodeUp _ _ | .nodeDn _ _
  | .xnext _ _ _ | .setstrm _ _ | .mtok _ | .cont _ | .wrec _ _ | .pwenq _ _ | .yield | .stflush _ | .fenceEng _ _
  | .objreg _ _ | .objrst _ _ => true
  | _ => false

/-- The stream of a load or store, whose scratchpad and stash spaces a transaction forbids (R245). -/
def loadStore (i : Instr) : Option Nat := match i with
  | .ld _ _ st _ _ => some st.toNat
  | .st _ _ st _ _ => some st.toNat
  | .ldacqW _ st _ _ => some st.toNat
  | .ldacqD _ st _ _ => some st.toNat
  | .strelW _ st _ _ => some st.toNat
  | .strelD _ st _ _ => some st.toNat
  | .ldsmpW _ st _ _ => some st.toNat
  | _ => none

/-- Whether an instruction may not run in the open transaction of a lane (R245). -/
def State.txStops (s : State) (b : Bundle) (i : Instr) : Bool :=
  txForbids i || match loadStore i with
    | some n => !(spaceOf (s.streamWord b n) == 0)
    | none => false

/-- The wait of an instruction that waits for more than its operands: a memory, atomic or copy instruction is not ready while the
stream it names drains (R143). -/
def State.instrWait (s : State) (b : Bundle) (l : Nat) (t : Thread) (i : Instr) : Option Stall :=
  match streamOf i with
  | some n => if s.draining b n then some .storeQueueFull else s.instrWait' b l t i
  | none => s.instrWait' b l t i

/-! Readiness. -/

/-- Whether a command of MSPT waits for its thread's earlier accesses (R306): global stores, ATOMs among them, and the acquires that
no later access passes (R195). -/
def State.tileStoresWait (s : State) (t : Tile) : Bool :=
  t.sparse && s.reqs.any fun r => r.of t.bundle t.lane && decide (r.id < t.id) && match r.kind, r.place with
    | .store _ _, .mem _ => true
    | .store _ _, .peer _ _ => true
    | .atom _ _ _ _ _, .mem _ => true
    | .atom _ _ _ _ _, .peer _ _ => true
    | .load _ _ (some _) _, _ => true
    | .future 5 _ _, _ => true
    | .call _ _, _ => true
    | _, _ => false

/-- Whether a register operand of a command is pending in some lane that has not exited (R286). -/
def Tile.regsPending (b : Bundle) (t : Tile) : Bool := tileBlockPending b t.words t.sparse

/-- What a tile command's thread waits for (R414): its tokens, registers, stores, or its head slot. -/
def State.tileWait (s : State) (b : Bundle) (id : Nat) : Stall := match s.tiles.find? (·.id == id) with
  | none => .powerToken
  | some t => if !t.granted then .powerToken else if t.regsPending b then .emptyRegister
      else if s.tileStoresWait t then .storeQueueFull else .ringFull

/-- The wait of a thread that an instruction has already issued for and holds. -/
def State.midWait (s : State) (b : Bundle) (t : Thread) : Option Stall := match t.mid with
  | some (.barWait _ _) => some .barrier
  | some (.request _ _) => some .barrier
  | some (.answer _) => some .emptyRegister
  | some .commit => some .storeQueueFull
  | some (.tile id) => some (s.tileWait b id)
  | _ => none

/-- The wait of a lane before an instruction; none: it is ready to issue it. -/
def State.waits (s : State) (b : Bundle) (l : Nat) (t : Thread) (i : Instr) : Option Stall :=
  match s.midWait b t with
  | some r => some r
  | none => if t.operandWait i then some .emptyRegister else s.instrWait b l t i

/-- The wait of a lane at an instruction: none where decode already finds a cause (R25) or its transaction forbids it (R245). -/
def State.decodedWait (s : State) (f : Pfx) (b : Bundle) (l : Nat) (t : Thread) (i : Instr) : Option Stall :=
  match s.waits b l t i with
  | none => none
  | some r => if (s.midWait b t).isNone && (!(s.issuesOf f b i).isEmpty || s.privIssue b i || (t.tx.isSome && s.txStops b i)) then none
    else some r

/-- The wait of a lane at its PC, seen through PRED and EXT (R46, R47, R96): an inactive lane never waits. -/
def State.gateAt (s : State) (b : Bundle) (l : Nat) (t : Thread) : Option Stall :=
  match s.fetch b t.pc with
  | .instr (.pred n q) _ _ =>
    if t.pred q.toNat ^^ (n == 1#1) then match s.fetch b (t.pc + 4) with
      | .instr i _ _ => s.decodedWait .pred b l t i
      | _ => none
    else none
  | .instr (.ext e) _ _ => match s.fetch b (t.pc + 4) with
    | .instr i _ _ => s.decodedWait (.ext e) b l t i
    | _ => none
  | .instr i _ _ => s.decodedWait .none b l t i
  | _ => none

/-- Whether a block issues: not halted, not ending, no handler or block thread of it runs otherwise (R60, R333). -/
def State.issues (s : State) (b : Bundle) : Bool := match b.owner with
  | .wave _ => true
  | o => match o.block?.bind s.block? with
    | some k => !k.halted && (k.ending == .running)
    | none => false

/-- Whether a lane is ready (R60). -/
def State.ready (s : State) (b : Bundle) (l : Nat) : Bool := match b.threads[l]? with
  | none => false
  | some t => t.live && t.conv.isNone && t.yield.isNone && (s.gateAt b l t).isNone

/-- The ready lanes of a bundle (R61): none once a stall counter of its block has risen in this clk (R414). -/
def State.readyLanes (s : State) (b : Bundle) : List Nat :=
  if s.issues b && !((s.blockOf b).any (·.clkOver)) then (List.range b.threads.length).filter (s.ready b) else []

end Sys2Proof.Machine
end

