-- ==== Sys2Proof/Machine/Run.lean ====
section
/-! DEFINITION. Running one instruction for an issue group: what a transaction
forbids (R245), the cause of each lane (R94, R322), the effects of the other lanes, and the end of each lane's instruction. -/

namespace Sys2Proof.Machine

/-- How an instruction ends in one lane. -/
inductive LaneEnd where
  /-- Complete: on to the next instruction. -/
  | next
  /-- Complete: on to a target. -/
  | goto (pc : DWord)
  /-- Issued and held at its PC. -/
  | stay
  /-- Complete, and its place already settled (an ended thread, an aborted transaction). -/
  | gone
  /-- A cause found by the effect itself. -/
  | trap (t : Trap)
  deriving DecidableEq, Repr

/-- The register number a run has in some state: the first such register. -/
def Thread.firstIn (t : Thread) (r n : Nat) (p : RegState → Bool) : Option Nat :=
  ((List.range n).find? fun i => p (t.reg (r + i)).st).map (r + ·)

/-- Whether a register is held, or poisoned. -/
def RegState.isHeld : RegState → Bool
  | .held => true
  | _ => false
def RegState.isPoison : RegState → Bool
  | .poisoned _ _ _ => true
  | _ => false

/-- The cause a source raises (R94): held, then pending under empty action 1, then poisoned. -/
def Thread.srcTrap (t : Thread) (x : Src) : Option Trap :=
  match t.firstIn x.reg x.n (·.isHeld) with
  | some r => some { cause := 8, detail := BitVec.ofNat 64 r }
  | none => match if x.trap then t.firstIn x.reg x.n (· == .pending) else none with
    | some r => some { cause := 8, detail := BitVec.ofNat 64 r }
    | none => if x.poisonOk then none else match t.firstIn x.reg x.n (·.isPoison) with
      | some r => match (t.reg r).st with
        | .poisoned pc a status => some { cause := 0x12, detail := pc, addr := a, status := status }
        | _ => none
      | none => none

/-- The lowest code of some causes; the first of equal codes (R322). -/
def lowest : List Trap → Option Trap
  | [] => none
  | t :: ts => match lowest ts with
    | none => some t
    | some u => if u.cause < t.cause then some u else some t

/-- Whether a run of registers cannot be read: one is held or poisoned (R94). -/
def Thread.unread (t : Thread) (r n : Nat) : Bool := (t.srcTrap { reg := r, n := n }).isSome

/-- The sources without which an instruction's own checks cannot be made (R146): its first, in general; the offset or node word
where it is another; none where the checks themselves pass by what they cannot read. -/
def keySrcs (i : Instr) : List (Nat × Nat) := match i with
  | .nodeIn _ _ => []
  | .nodeUp _ _ => []
  | .nodeDn _ _ => []
  | .wrec b _ => [(b.toNat, 1)]
  | .acp _ _ _ _ _ _ => []
  | .mtile _ => []
  | .mspt _ => []
  | .part _ => []
  | _ => match (opnds i).srcs with
    | x :: _ => if x.waits then [(x.reg, x.n)] else []
    | [] => []

/-- The cause a lane raises: the lowest of its sources' and of the checks, which a lane without an address skips (R146). -/
def Thread.laneTrap (t : Thread) (i : Instr) (checks : List Trap) : Option Trap :=
  let regs := ((opnds i).srcs.filter (·.waits)).filterMap t.srcTrap
  lowest (regs ++ if (keySrcs i).any fun x => t.unread x.1 x.2 then [] else checks)

/-- What the group's instruction does in each lane, given the lanes that run it. -/
abbrev Body := State → Group → Bundle → List Nat → State × List (Nat × LaneEnd)

/-- The checks of an instruction in one lane. -/
abbrev Check := State → Group → Bundle → Nat → Thread → List Trap

/-- No check of its own. -/
def noCheck : Check := fun _ _ _ _ _ => []

/-- Lane by lane, in rising order. -/
def each (f : State → Group → Bundle → Nat → State × LaneEnd) : Body := fun s g b ls =>
  ls.foldl (fun acc l => ((f acc.1 g b l).1, acc.2 ++ [(l, (f acc.1 g b l).2)])) (s, [])

/-- How a lane meets its instruction. -/
inductive LaneFate where
  | absent
  | inactive
  | waits
  | forbidden
  | traps (t : Trap)
  | runs
  deriving DecidableEq, Repr

/-- The fate of a lane of the group. -/
def State.fate (s : State) (g : Group) (b : Bundle) (i : Instr) (chk : Check) (l : Nat) : LaneFate :=
  match b.threads[l]? with
  | none => .absent
  | some t =>
    if !(g.active.contains l) then .inactive
    else if (s.midWait b t).isSome then .waits
    else if t.tx.isSome && s.txStops b i then .forbidden
    else if (s.waits b l t i).isSome then .waits
    else match t.laneTrap i (chk s g b l t) with
      | some tr => .traps tr
      | none => .runs

/-- The block of a bundle of block threads. -/
def State.ownBlock (s : State) (bid : Nat) : Option Nat := match s.bundle? bid with
  | some b => match b.owner with
    | .block k => some k
    | _ => none
  | none => none

/-- STEP follows an instruction that is over in a lane, while its block steps singly and the thread goes on (R331). -/
def State.meetStep (s : State) (bid l : Nat) (start : DWord) : State × List Met :=
  match (s.ownBlock bid).bind s.block? with
  | some k => if k.singleStep && (s.thread bid l).live then
      s.meet bid l { cause := 0x11, detail := start } start (s.thread bid l).pc else (s, [])
  | none => (s, [])

/-- Count an instruction that is over (R427). -/
def State.retire (s : State) (bid : Nat) : State :=
  match s.ownBlock bid with
  | some k => s.modBlock k fun x => { x with retired := x.retired + 1 }
  | _ => s

/-- An instruction is over in a lane, which stands where it goes on: the causes still to take. -/
def State.meetFinish (s : State) (bid l : Nat) (start pc : DWord) : State × List Met :=
  ((s.modThread bid l (·.goto pc)).retire bid).meetStep bid l start

/-- Take the causes that lanes of a bundle have met. -/
def State.takeAll (x : State × List Met) (bid : Nat) : State := x.2.foldl (·.takeMet bid) x.1

/-- An instruction that has held its lane is over, and the lane moves on: it counted when it issued (R427). -/
def State.meetDone (s : State) (bid l : Nat) (start pc : DWord) : State × List Met :=
  (s.modThread bid l (·.goto pc)).meetStep bid l start

/-- The same, with STEP while the block steps singly (R331). -/
def State.finishLane (s : State) (bid l : Nat) (start pc : DWord) : State := State.takeAll (s.meetDone bid l start pc) bid

/-- An instruction that has held its lane, and has settled it, is over (R331). -/
def State.finishGone (s : State) (bid l : Nat) (start : DWord) : State := State.takeAll (s.meetStep bid l start) bid

/-- A forbidden instruction in a transaction (R245): a revocable one aborts; an irrevocable one aborts and traps ILLEGAL at
the resume point (R247). -/
def State.forbid (s : State) (b : Bundle) (g : Group) (l : Nat) : State × List Met :=
  match (s.thread b.id l).tx with
  | none => (s, [])
  | some x =>
    let t := s.abortTx b.id l (BitVec.ofNat 32 (0x00040000 + g.word % 65536))
    if x.irrevocable then
      (t, [{ lane := l, trap := { cause := 3, detail := Config.illegalDetail g.word }, opc := x.resume, resume := x.resume, after := true }])
    else (t.retire b.id).meetStep b.id l g.start

/-- An instruction holds its lane: it counts from here on where it has issued (R427), and not where it has still to act. -/
def State.holdLane (s : State) (bid l : Nat) (nxt : DWord) : State :=
  if (s.thread bid l).holds then (s.modThread bid l fun t => { t with nxt := nxt }).retire bid else s.modThread bid l fun t => { t with nxt := nxt }

/-- The end of the instruction in one lane, up to the causes it leaves to take. -/
def State.endLane (s : State) (g : Group) (l : Nat) : LaneEnd → State × List Met
  | .next => s.meetFinish g.bundle l g.start (g.ipc + BitVec.ofNat 64 g.size)
  | .goto pc => s.meetFinish g.bundle l g.start pc
  | .stay => (s.holdLane g.bundle l (g.ipc + BitVec.ofNat 64 g.size), [])
  | .gone => (s.retire g.bundle).meetStep g.bundle l g.start
  | .trap t => s.meet g.bundle l t g.start (g.ipc + BitVec.ofNat 64 g.size)

/-- The end of a lane of the group, by its fate. -/
def State.endFate (s : State) (g : Group) (b : Bundle) (ends : List (Nat × LaneEnd)) (x : Nat × LaneFate) : State × List Met :=
  match x.2 with
  | .absent => (s, [])
  | .inactive => s.endLane g x.1 ((ends.lookup x.1).getD .next)
  | .waits => (s, [])
  | .forbidden => s.forbid b g x.1
  | .traps t => s.endLane g x.1 (.trap t)
  | .runs => s.endLane g x.1 ((ends.lookup x.1).getD .next)

/-- The end of the group: every lane of it ends, in rising order, and only then are the causes taken, so that a cause which ends or
halts the block finds every lane where its own instruction leaves it (R322, R333). -/
def State.endGroup (s : State) (g : Group) (b : Bundle) (fates : List (Nat × LaneFate)) (ends : List (Nat × LaneEnd)) : State :=
  State.takeAll (fates.foldl (fun (acc : State × List Met) x =>
    ((acc.1.endFate g b ends x).1, acc.2 ++ (acc.1.endFate g b ends x).2)) (s, [])) g.bundle

/-- The detail of an ILLEGAL: the one stated; a free pick among several; free where none is stated (log entry 7). -/
def illegalDetail (word : Nat) (ds : List (Option Nat)) : DWord :=
  match ds with
  | [some d] => BitVec.ofNat 64 d
  | _ => match ds.getD (Config.detailPick word % ds.length) none with
    | some d => BitVec.ofNat 64 d
    | none => Config.illegalDetail word

/-- Raise one cause on every lane of the group (R25). -/
def State.raiseGroup (s : State) (g : Group) (t : Trap) : State :=
  s.raiseAll g.bundle g.start (g.ipc + BitVec.ofNat 64 g.size) (g.lanes.map fun l => (l, t))

/-- Run an instruction for the issue group that State.group holds. -/
def runWith (i : Instr) (chk : Check) (body : Body) (s : State) : Host.Outcome State Fault Refusal :=
  match s.group with
  | none => .next s
  | some g => match s.bundle? g.bundle with
    | none => .next { s with group := none }
    | some b =>
      let s := { s with group := none }
      match s.issuesOf g.pfx b i with
      | [] =>
        if s.privIssue b i then .next (s.raiseGroup g { cause := 4 })
        else
          let fates := g.lanes.map fun l => (l, s.fate g b i chk l)
          let r := body s g b ((fates.filter fun x => x.2 == .runs).map (·.1))
          .next (r.1.endGroup g b fates r.2)
      | ds => .next (s.raiseGroup g { cause := 3, detail := illegalDetail g.word ds })

/-- Run an instruction that acts lane by lane. -/
def runLanes (i : Instr) (chk : Check) (f : State → Group → Bundle → Nat → State × LaneEnd) (s : State) :
    Host.Outcome State Fault Refusal := runWith i chk (each f) s

/-- The same where the requests of its lanes share an entry. -/
def runEntry (i : Instr) (chk : Check) (f : Nat → State → Group → Bundle → Nat → State × LaneEnd) (s : State) :
    Host.Outcome State Fault Refusal :=
  runWith i chk (fun s g b ls => each (f s.fresh) s.next g b ls) s

/-- Run an instruction that changes only its own thread's registers, predicates and flags. -/
def runPure (i : Instr) (f : Thread → Thread) (s : State) : Host.Outcome State Fault Refusal :=
  runLanes i noCheck (fun s g _ l => (s.modThread g.bundle l f, .next)) s

/-- Run a control transfer: the link it writes and its target, from the instruction's own address (R46). -/
def runJump (i : Instr) (chk : Check) (f : Group → Thread → Thread × DWord) (s : State) :
    Host.Outcome State Fault Refusal :=
  runLanes i chk (fun s g _ l => (s.modThread g.bundle l fun t => (f g t).1, .goto (f g (s.thread g.bundle l)).2)) s

end Sys2Proof.Machine
end

