-- ==== Sys2Proof/Machine/IntOps.lean ====
section
/-! DEFINITION. Integer work: forms H, T, I, J and K on integers (R27, R101 to R107), compares (R108 to R110), SEL (R111), MKE and
WAITF (R98, R99). -/

namespace Sys2Proof.Machine

/-- The outcome of an instruction. -/
abbrev Result := Host.Outcome State Fault Refusal

/-! Operations on words. -/

/-- The second source of form H (R26): a register, or an immediate sign-extended (R27). -/
def hSigned (i : BitVec 1) (b : BitVec 5) (t : Thread) : Word := if i == 1#1 then b.signExtend 32 else t.val b.toNat
/-- The same, with the immediate read unsigned. -/
def hCount (i : BitVec 1) (b : BitVec 5) (t : Thread) : Word := if i == 1#1 then b.zeroExtend 32 else t.val b.toNat

/-- The count of a shift or rotate (R103). -/
def count (b : Word) : Nat := b.toNat % 32

def shlW (a b : Word) : Word := a <<< count b
def shrW (a b : Word) : Word := a >>> count b
def sarW (a b : Word) : Word := a.sshiftRight (count b)
def rolW (a b : Word) : Word := a.rotateLeft (count b)
def rorW (a b : Word) : Word := a.rotateRight (count b)

/-- Position and length of the field operations (R103). -/
def fieldPos (b : Word) : Nat := b.toNat % 32
def fieldLen (b : Word) : Nat := min (min (bits b.toNat 13 8) 32) (32 - fieldPos b)

def bfxzW (a b : Word) : Word := BitVec.ofNat 32 (a.toNat / 2 ^ fieldPos b % 2 ^ fieldLen b)
def bfxiW (a b : Word) : Word :=
  let v := a.toNat / 2 ^ fieldPos b % 2 ^ fieldLen b
  if fieldLen b = 0 then 0 else if bit v (fieldLen b - 1) then BitVec.ofInt 32 ((v : Int) - 2 ^ fieldLen b) else BitVec.ofNat 32 v
def bfiW (d a b : Word) : Word :=
  let m : Word := BitVec.ofNat 32 ((2 ^ fieldLen b - 1) * 2 ^ fieldPos b)
  (d &&& ~~~m) ||| ((a <<< fieldPos b) &&& m)

/-- Signed and unsigned minimum and maximum (R104). -/
def minI (a b : Word) : Word := if a.toInt ≤ b.toInt then a else b
def maxI (a b : Word) : Word := if a.toInt ≤ b.toInt then b else a
def minZ (a b : Word) : Word := if a.toNat ≤ b.toNat then a else b
def maxZ (a b : Word) : Word := if a.toNat ≤ b.toNat then b else a

/-- A value clamped to the signed range (R104). -/
def satI (x : Int) : Word := BitVec.ofInt 32 (max (-2147483648) (min 2147483647 x))

def addminW (d a b : Word) : Word := minI d (satI (a.toInt + b.toInt))
def addmaxW (d a b : Word) : Word := maxI d (satI (a.toInt + b.toInt))
def absdW (a b : Word) : Word := BitVec.ofNat 32 (a.toInt - b.toInt).natAbs
def clampW (d a b : Word) : Word := minI (maxI d a) b

def mulhiI (a b : Word) : Word := BitVec.ofInt 32 (a.toInt * b.toInt / 4294967296)
def mulhiZ (a b : Word) : Word := BitVec.ofNat 32 (a.toNat * b.toNat / 4294967296)

/-- Division and remainder (R105); they never trap. -/
def divI (a b : Word) : Word :=
  if b = 0 then 0xFFFFFFFF else if a = 0x80000000 ∧ b = 0xFFFFFFFF then 0x80000000 else BitVec.ofInt 32 (a.toInt.tdiv b.toInt)
def remI (a b : Word) : Word :=
  if b = 0 then a else if a = 0x80000000 ∧ b = 0xFFFFFFFF then 0 else BitVec.ofInt 32 (a.toInt.tmod b.toInt)
def divZ (a b : Word) : Word := if b = 0 then 0xFFFFFFFF else BitVec.ofNat 32 (a.toNat / b.toNat)
def remZ (a b : Word) : Word := if b = 0 then a else BitVec.ofNat 32 (a.toNat % b.toNat)

/-- Bit counts and permutations (R106). -/
def popcW (a : Word) : Word := BitVec.ofNat 32 (popBits 32 a.toNat)
def clzW (a : Word) : Word := BitVec.ofNat 32 (32 - bitLen 32 a.toNat)
def ctzW (a : Word) : Word := BitVec.ofNat 32 (lowBit 32 a.toNat)
def brevW (a : Word) : Word := a.reverse
def pfxpW (a b : Word) : Word := BitVec.ofNat 32 (popBits (min b.toNat 32) a.toNat)

/-- One byte of PERM, from its selector nibble. -/
def permByte (a : Nat) (n : Nat) : Nat :=
  let v := a / 256 ^ (n % 4) % 256
  if bit n 3 then 0 else if bit n 2 then (if bit v 7 then 255 else 0) else v
def permW (a b : Word) : Word :=
  BitVec.ofNat 32 (permByte a.toNat (bits b.toNat 3 0) + 256 * permByte a.toNat (bits b.toNat 7 4) +
    65536 * permByte a.toNat (bits b.toNat 11 8) + 16777216 * permByte a.toNat (bits b.toNat 15 12))

/-- The index of the set bit with n set bits below it, among the bits of v from index i on; 32 when there is none. -/
def findFrom : Nat → Nat → Nat → Nat → Nat
  | 0, _, _, _ => 32
  | k + 1, v, n, i =>
    if v % 2 = 1 then (if n = 0 then i else findFrom k (v / 2) (n - 1) (i + 1)) else findFrom k (v / 2) n (i + 1)
def findW (a b : Word) : Word := BitVec.ofNat 32 (findFrom 32 a.toNat b.toNat 0)

/-! Shapes. -/

/-- d := f a b, and with d read too; d := f a. -/
def put2 (f : Word → Word → Word) (a b d : BitVec 7) (t : Thread) : Thread := t.write d.toNat (f (t.val a.toNat) (t.val b.toNat))
def put3 (f : Word → Word → Word → Word) (a b d : BitVec 7) (t : Thread) : Thread :=
  t.write d.toNat (f (t.val d.toNat) (t.val a.toNat) (t.val b.toNat))
def put1 (f : Word → Word) (a d : BitVec 7) (t : Thread) : Thread := t.write d.toNat (f (t.val a.toNat))
/-- Pair d := f (pair a) (pair b). -/
def putD (f : DWord → DWord → DWord) (a b d : BitVec 7) (t : Thread) : Thread :=
  t.writePair d.toNat (f (t.pair a.toNat) (t.pair b.toNat))
/-- Form H: d := f d b. -/
def putH (f : Word → Word → Word) (b : Thread → Word) (d : BitVec 5) (t : Thread) : Thread :=
  t.write d.toNat (f (t.val d.toNat) (b t))

/-! Form H (R27). -/

def execMovH (i : BitVec 1) (b d : BitVec 5) (s : State) : Result := runPure (.movH i b d) (putH (fun _ b => b) (hSigned i b) d) s
def execAddH (i : BitVec 1) (b d : BitVec 5) (s : State) : Result := runPure (.addH i b d) (putH (· + ·) (hSigned i b) d) s
def execSubH (i : BitVec 1) (b d : BitVec 5) (s : State) : Result := runPure (.subH i b d) (putH (· - ·) (hSigned i b) d) s
def execMulH (i : BitVec 1) (b d : BitVec 5) (s : State) : Result := runPure (.mulH i b d) (putH (· * ·) (hSigned i b) d) s
def execAndH (i : BitVec 1) (b d : BitVec 5) (s : State) : Result := runPure (.andH i b d) (putH (· &&& ·) (hSigned i b) d) s
def execOrH (i : BitVec 1) (b d : BitVec 5) (s : State) : Result := runPure (.orH i b d) (putH (· ||| ·) (hSigned i b) d) s
def execXorH (i : BitVec 1) (b d : BitVec 5) (s : State) : Result := runPure (.xorH i b d) (putH (· ^^^ ·) (hSigned i b) d) s
def execShlH (i : BitVec 1) (b d : BitVec 5) (s : State) : Result := runPure (.shlH i b d) (putH shlW (hCount i b) d) s
def execShrH (i : BitVec 1) (b d : BitVec 5) (s : State) : Result := runPure (.shrH i b d) (putH shrW (hCount i b) d) s
def execSarH (i : BitVec 1) (b d : BitVec 5) (s : State) : Result := runPure (.sarH i b d) (putH sarW (hCount i b) d) s
def execMinH (i : BitVec 1) (b d : BitVec 5) (s : State) : Result := runPure (.minH i b d) (putH minI (hSigned i b) d) s
def execMaxH (i : BitVec 1) (b d : BitVec 5) (s : State) : Result := runPure (.maxH i b d) (putH maxI (hSigned i b) d) s

/-! IOP, SHF, CMM, MUL and BIT (R102 to R106). -/

def execAdd (x y : BitVec 1) (b a d : BitVec 7) (s : State) : Result := runPure (.add x y b a d) (put2 (· + ·) a b d) s
def execSub (x y : BitVec 1) (b a d : BitVec 7) (s : State) : Result := runPure (.sub x y b a d) (put2 (· - ·) a b d) s
def execAnd (x y : BitVec 1) (b a d : BitVec 7) (s : State) : Result := runPure (.and x y b a d) (put2 (· &&& ·) a b d) s
def execOr (x y : BitVec 1) (b a d : BitVec 7) (s : State) : Result := runPure (.or x y b a d) (put2 (· ||| ·) a b d) s
def execXor (x y : BitVec 1) (b a d : BitVec 7) (s : State) : Result := runPure (.xor x y b a d) (put2 (· ^^^ ·) a b d) s
def execAndn (x y : BitVec 1) (b a d : BitVec 7) (s : State) : Result := runPure (.andn x y b a d) (put2 (fun a b => a &&& ~~~b) a b d) s
def execAddD (x y : BitVec 1) (b a d : BitVec 7) (s : State) : Result := runPure (.addD x y b a d) (putD (· + ·) a b d) s
def execSubD (x y : BitVec 1) (b a d : BitVec 7) (s : State) : Result := runPure (.subD x y b a d) (putD (· - ·) a b d) s
def execShl (x y : BitVec 1) (b a d : BitVec 7) (s : State) : Result := runPure (.shl x y b a d) (put2 shlW a b d) s
def execShr (x y : BitVec 1) (b a d : BitVec 7) (s : State) : Result := runPure (.shr x y b a d) (put2 shrW a b d) s
def execSar (x y : BitVec 1) (b a d : BitVec 7) (s : State) : Result := runPure (.sar x y b a d) (put2 sarW a b d) s
def execRol (x y : BitVec 1) (b a d : BitVec 7) (s : State) : Result := runPure (.rol x y b a d) (put2 rolW a b d) s
def execRor (x y : BitVec 1) (b a d : BitVec 7) (s : State) : Result := runPure (.ror x y b a d) (put2 rorW a b d) s
def execBfxi (x y : BitVec 1) (b a d : BitVec 7) (s : State) : Result := runPure (.bfxi x y b a d) (put2 bfxiW a b d) s
def execBfxz (x y : BitVec 1) (b a d : BitVec 7) (s : State) : Result := runPure (.bfxz x y b a d) (put2 bfxzW a b d) s
def execBfi (x y : BitVec 1) (b a d : BitVec 7) (s : State) : Result := runPure (.bfi x y b a d) (put3 bfiW a b d) s
def execMinI32 (x y : BitVec 1) (b a d : BitVec 7) (s : State) : Result := runPure (.minI32 x y b a d) (put2 minI a b d) s
def execMaxI32 (x y : BitVec 1) (b a d : BitVec 7) (s : State) : Result := runPure (.maxI32 x y b a d) (put2 maxI a b d) s
def execMinZ32 (x y : BitVec 1) (b a d : BitVec 7) (s : State) : Result := runPure (.minZ32 x y b a d) (put2 minZ a b d) s
def execMaxZ32 (x y : BitVec 1) (b a d : BitVec 7) (s : State) : Result := runPure (.maxZ32 x y b a d) (put2 maxZ a b d) s
def execAddmin (x y : BitVec 1) (b a d : BitVec 7) (s : State) : Result := runPure (.addmin x y b a d) (put3 addminW a b d) s
def execAddmax (x y : BitVec 1) (b a d : BitVec 7) (s : State) : Result := runPure (.addmax x y b a d) (put3 addmaxW a b d) s
def execAbsd (x y : BitVec 1) (b a d : BitVec 7) (s : State) : Result := runPure (.absd x y b a d) (put2 absdW a b d) s
def execClamp (x y : BitVec 1) (b a d : BitVec 7) (s : State) : Result := runPure (.clamp x y b a d) (put3 clampW a b d) s
def execMullo (x y : BitVec 1) (b a d : BitVec 7) (s : State) : Result := runPure (.mullo x y b a d) (put2 (· * ·) a b d) s
def execMulhiI32 (x y : BitVec 1) (b a d : BitVec 7) (s : State) : Result := runPure (.mulhiI32 x y b a d) (put2 mulhiI a b d) s
def execMulhiZ32 (x y : BitVec 1) (b a d : BitVec 7) (s : State) : Result := runPure (.mulhiZ32 x y b a d) (put2 mulhiZ a b d) s
def execMadlo (x y : BitVec 1) (b a d : BitVec 7) (s : State) : Result := runPure (.madlo x y b a d) (put3 (fun d a b => d + a * b) a b d) s
def execDivI32 (x y : BitVec 1) (b a d : BitVec 7) (s : State) : Result := runPure (.divI32 x y b a d) (put2 divI a b d) s
def execDivZ32 (x y : BitVec 1) (b a d : BitVec 7) (s : State) : Result := runPure (.divZ32 x y b a d) (put2 divZ a b d) s
def execRemI32 (x y : BitVec 1) (b a d : BitVec 7) (s : State) : Result := runPure (.remI32 x y b a d) (put2 remI a b d) s
def execRemZ32 (x y : BitVec 1) (b a d : BitVec 7) (s : State) : Result := runPure (.remZ32 x y b a d) (put2 remZ a b d) s
def execPopc (y : BitVec 1) (a d : BitVec 7) (s : State) : Result := runPure (.popc y a d) (put1 popcW a d) s
def execClz (y : BitVec 1) (a d : BitVec 7) (s : State) : Result := runPure (.clz y a d) (put1 clzW a d) s
def execCtz (y : BitVec 1) (a d : BitVec 7) (s : State) : Result := runPure (.ctz y a d) (put1 ctzW a d) s
def execBrev (y : BitVec 1) (a d : BitVec 7) (s : State) : Result := runPure (.brev y a d) (put1 brevW a d) s
def execPfxp (x y : BitVec 1) (b a d : BitVec 7) (s : State) : Result := runPure (.pfxp x y b a d) (put2 pfxpW a b d) s
def execPerm (x y : BitVec 1) (b a d : BitVec 7) (s : State) : Result := runPure (.perm x y b a d) (put2 permW a b d) s
def execFind (x y : BitVec 1) (b a d : BitVec 7) (s : State) : Result := runPure (.find x y b a d) (put2 findW a b d) s

/-! Immediate forms (R107, R29, R47). -/

/-- The immediate of ADDI: sign-extended, or the low 12 bits of the one that EXT makes. -/
def addiImm (p : Pfx) (i : BitVec 12) : Word := match p with
  | .ext h => h ++ i
  | _ => i.signExtend 32

def execAddi (i : BitVec 12) (a d : BitVec 7) (s : State) : Result :=
  runLanes (.addi i a d) noCheck (fun s g _ l => (s.modThread g.bundle l (put1 (· + addiImm g.pfx i) a d), .next)) s
def execAndi (i : BitVec 9) (a d : BitVec 7) (s : State) : Result := runPure (.andi i a d) (put1 (· &&& i.signExtend 32) a d) s
def execOri (i : BitVec 9) (a d : BitVec 7) (s : State) : Result := runPure (.ori i a d) (put1 (· ||| i.signExtend 32) a d) s
def execXori (i : BitVec 9) (a d : BitVec 7) (s : State) : Result := runPure (.xori i a d) (put1 (· ^^^ i.signExtend 32) a d) s
def execShli (i : BitVec 5) (a d : BitVec 7) (s : State) : Result := runPure (.shli i a d) (put1 (shlW · (i.zeroExtend 32)) a d) s
def execShri (i : BitVec 5) (a d : BitVec 7) (s : State) : Result := runPure (.shri i a d) (put1 (shrW · (i.zeroExtend 32)) a d) s
def execSari (i : BitVec 5) (a d : BitVec 7) (s : State) : Result := runPure (.sari i a d) (put1 (sarW · (i.zeroExtend 32)) a d) s
def execRoli (i : BitVec 5) (a d : BitVec 7) (s : State) : Result := runPure (.roli i a d) (put1 (rolW · (i.zeroExtend 32)) a d) s
def execMovi (i : BitVec 19) (d : BitVec 7) (s : State) : Result := runPure (.movi i d) (fun t => t.write d.toNat (i.signExtend 32)) s

/-! Compares (R108 to R110) and SEL (R111). -/

/-- Conditions 0 to 9 (R109). -/
def condInt (k : Nat) (a b : Word) : Bool :=
  if k = 0 then a == b else if k = 1 then !(a == b) else if k = 2 then decide (a.toInt < b.toInt)
  else if k = 3 then decide (a.toInt ≤ b.toInt) else if k = 4 then decide (b.toInt < a.toInt)
  else if k = 5 then decide (b.toInt ≤ a.toInt) else if k = 6 then decide (a.toNat < b.toNat)
  else if k = 7 then decide (a.toNat ≤ b.toNat) else if k = 8 then decide (b.toNat < a.toNat) else decide (b.toNat ≤ a.toNat)

/-- The place of an FP32 code in the order of values, with both zeros equal. -/
def order32 (c : Nat) : Int := if bit c 31 then -((c % 2147483648 : Nat) : Int) else ((c % 2147483648 : Nat) : Int)

/-- Conditions 10 to 15 and the flag they raise (R110). -/
def condF (k : Nat) (a b : Word) : Bool × Word :=
  let x := f32.value false a.toNat
  let y := f32.value false b.toNat
  let nan := x.isNan || y.isNan
  let r := if k = 10 then !nan && order32 a.toNat == order32 b.toNat else if k = 11 then nan || !(order32 a.toNat == order32 b.toNat)
    else if k = 12 then !nan && decide (order32 a.toNat < order32 b.toNat)
    else if k = 13 then !nan && decide (order32 a.toNat ≤ order32 b.toNat)
    else if k = 14 then nan else !nan
  (r, if (if k = 12 ∨ k = 13 then nan else x.isSig || y.isSig) then flagNV else 0)

/-- A condition (R30) and the flag it raises. -/
def cond (k : Nat) (a b : Word) : Bool × Word := if k < 10 then (condInt k a b, 0) else condF k a b

/-- A compare's write of its predicate, under the combine mode (R108). -/
def Thread.compare (t : Thread) (p c k : Nat) (a b : Word) : Thread :=
  let r := cond k a b
  let old := t.pred p
  ((t.setPred p (if c = 0 then r.1 else if c = 1 then old && r.1 else if c = 2 then old || r.1 else old ^^ r.1)).orFlags r.2)

/-- CMPI's second operand: sign-extended, or converted exactly to FP32 (R30). -/
def cmpiImm (k : Nat) (i : BitVec 7) : Word :=
  if k < 10 then i.signExtend 32 else BitVec.ofNat 32 (f32.convert .rne false false false (.ofInt i.toInt)).1

def execCmp (x y : BitVec 1) (c : BitVec 2) (b a : BitVec 7) (k : BitVec 4) (p : BitVec 3) (s : State) : Result :=
  runPure (.cmp x y c b a k p) (fun t => t.compare p.toNat c.toNat k.toNat (t.val a.toNat) (t.val b.toNat)) s
def execCmpi (y : BitVec 1) (c : BitVec 2) (i a : BitVec 7) (k : BitVec 4) (p : BitVec 3) (s : State) : Result :=
  runPure (.cmpi y c i a k p) (fun t => t.compare p.toNat c.toNat k.toNat (t.val a.toNat) (cmpiImm k.toNat i)) s
def execSel (x y : BitVec 1) (q : BitVec 3) (b a d : BitVec 7) (s : State) : Result :=
  runPure (.sel x y q b a d) (fun t => t.write d.toNat (if t.pred q.toNat then t.val a.toNat else t.val b.toNat)) s

/-! Full and empty (R98, R99). -/

def execMke (d : BitVec 7) (s : State) : Result := runPure (.mke d) (fun t => t.mark d.toNat .held) s
def execWaitf (a : BitVec 7) (s : State) : Result := runPure (.waitf a) id s

end Sys2Proof.Machine
end

