-- ==== Sys2Proof/Machine/Float.lean ====
section
/-! DEFINITION. Floating-point work: FOP, the fused forms, HOP, DOP and FUN (R129 to R134), conversions (R135 to R137), dot products
(R138), SETRM and CLRFF (R139, R140), and form H on FP32 (R27). -/

namespace Sys2Proof.Machine

/-- The mode a thread computes in (R121). -/
def Thread.mode (t : Thread) : FMode := fmodeOf t.fmode

/-- Put a result of one register, or of a pair, and raise its flags. -/
def Thread.putF (t : Thread) (d : Nat) (r : Nat × Word) : Thread := (t.write d (BitVec.ofNat 32 r.1)).orFlags r.2
def Thread.putFD (t : Thread) (d : Nat) (r : Nat × Word) : Thread := (t.writePair d (BitVec.ofNat 64 r.1)).orFlags r.2

/-- The shapes: two sources, one source, two pairs, one pair, and form H. -/
def fput2 (f : FMode → Nat → Nat → Nat × Word) (a b d : BitVec 7) (t : Thread) : Thread :=
  t.putF d.toNat (f t.mode (t.val a.toNat).toNat (t.val b.toNat).toNat)
def fput1 (f : FMode → Nat → Nat × Word) (a d : BitVec 7) (t : Thread) : Thread := t.putF d.toNat (f t.mode (t.val a.toNat).toNat)
def fput2D (f : FMode → Nat → Nat → Nat × Word) (a b d : BitVec 7) (t : Thread) : Thread :=
  t.putFD d.toNat (f t.mode (t.pair a.toNat).toNat (t.pair b.toNat).toNat)
def fput1D (f : FMode → Nat → Nat × Word) (a d : BitVec 7) (t : Thread) : Thread := t.putFD d.toNat (f t.mode (t.pair a.toNat).toNat)
/-- Form H's second FP32 source: a register, or the integer immediate converted exactly (R27). -/
def hFloat (i : BitVec 1) (b : BitVec 5) (t : Thread) : Nat :=
  if i == 1#1 then (f32.convert .rne false false false (.ofInt b.toInt)).1 else (t.val b.toNat).toNat
def fputH (f : FMode → Nat → Nat → Nat × Word) (i : BitVec 1) (b d : BitVec 5) (t : Thread) : Thread :=
  t.putF d.toNat (f t.mode (t.val d.toNat).toNat (hFloat i b t))

/-- Element j of width w of a register (R118). -/
def elem (v w j : Nat) : Nat := v / 2 ^ (j * w) % 2 ^ w

/-- The two halves of HOP and FMA2 (R130, R131): results packed, flags united. -/
def halves (f : Nat → Nat × Word) : Nat × Word := ((f 0).1 + 65536 * (f 1).1, (f 0).2 ||| (f 1).2)
def hop (f : FMode → Nat → Nat → Nat × Word) (md : FMode) (a b : Nat) : Nat × Word :=
  halves fun j => f md (elem a 16 j) (elem b 16 j)

/-- A one-source function of FP32, its source flushed (R123, R133). -/
def fun1 (f : FMode → FVal → Nat × Word) (md : FMode) (a : Nat) : Nat × Word := f md (f32.value md.flush a)
/-- Division and reciprocal (R133). -/
def Fmt.div (f : Fmt) (md : FMode) (a b : Nat) : Nat × Word :=
  f.quot md [f.value md.flush a, f.value md.flush b] (f.value md.flush a) (f.value md.flush b)
def frcpV (md : FMode) (a : FVal) : Nat × Word := f32.quot md [a] .one a


/-! Form H (R27). -/

def execFaddH (i : BitVec 1) (b d : BitVec 5) (s : State) : Result := runPure (.faddH i b d) (fputH f32.add i b d) s
def execFmulH (i : BitVec 1) (b d : BitVec 5) (s : State) : Result := runPure (.fmulH i b d) (fputH f32.mul i b d) s
def execFminH (i : BitVec 1) (b d : BitVec 5) (s : State) : Result := runPure (.fminH i b d) (fputH (f32.pick · false) i b d) s
def execFmaxH (i : BitVec 1) (b d : BitVec 5) (s : State) : Result := runPure (.fmaxH i b d) (fputH (f32.pick · true) i b d) s

/-! FOP (R129). -/

def execFadd (x y : BitVec 1) (b a d : BitVec 7) (s : State) : Result := runPure (.fadd x y b a d) (fput2 f32.add a b d) s
def execFsub (x y : BitVec 1) (b a d : BitVec 7) (s : State) : Result := runPure (.fsub x y b a d) (fput2 f32.sub a b d) s
def execFmul (x y : BitVec 1) (b a d : BitVec 7) (s : State) : Result := runPure (.fmul x y b a d) (fput2 f32.mul a b d) s
def execFmin (x y : BitVec 1) (b a d : BitVec 7) (s : State) : Result := runPure (.fmin x y b a d) (fput2 (f32.pick · false) a b d) s
def execFmax (x y : BitVec 1) (b a d : BitVec 7) (s : State) : Result := runPure (.fmax x y b a d) (fput2 (f32.pick · true) a b d) s
def execFabs (y : BitVec 1) (a d : BitVec 7) (s : State) : Result := runPure (.fabs y a d) (put1 (· &&& 0x7FFFFFFF) a d) s
def execFneg (y : BitVec 1) (a d : BitVec 7) (s : State) : Result := runPure (.fneg y a d) (put1 (· ^^^ 0x80000000) a d) s
def execFcpys (x y : BitVec 1) (b a d : BitVec 7) (s : State) : Result :=
  runPure (.fcpys x y b a d) (put2 (fun a b => (a &&& 0x7FFFFFFF) ||| (b &&& 0x80000000)) a b d) s

/-! Fused forms (R130). -/

def execFfma (c : BitVec 5) (b a d : BitVec 7) (s : State) : Result :=
  runPure (.ffma c b a d) (fun t =>
    t.putF d.toNat (f32.fmadd t.mode (t.val a.toNat).toNat (t.val b.toNat).toNat (t.val c.toNat).toNat)) s
def execFma2 (k : BitVec 1) (c : BitVec 4) (b a d : BitVec 7) (s : State) : Result :=
  runPure (.fma2 k c b a d) (fun t => t.putF d.toNat (halves fun j =>
    (if k == 0#1 then f16 else bf16).fmadd t.mode (elem (t.val a.toNat).toNat 16 j) (elem (t.val b.toNat).toNat 16 j)
      (elem (t.val c.toNat).toNat 16 j))) s
def execDfma (c : BitVec 5) (b a d : BitVec 7) (s : State) : Result :=
  runPure (.dfma c b a d) (fun t =>
    t.putFD d.toNat (f64.fmadd t.mode (t.pair a.toNat).toNat (t.pair b.toNat).toNat (t.pair (2 * c.toNat)).toNat)) s

/-! HOP (R131). -/

def execDuaddF16 (x y : BitVec 1) (b a d : BitVec 7) (s : State) : Result := runPure (.duaddF16 x y b a d) (fput2 (hop f16.add) a b d) s
def execDuaddBf16 (x y : BitVec 1) (b a d : BitVec 7) (s : State) : Result := runPure (.duaddBf16 x y b a d) (fput2 (hop bf16.add) a b d) s
def execDumulF16 (x y : BitVec 1) (b a d : BitVec 7) (s : State) : Result := runPure (.dumulF16 x y b a d) (fput2 (hop f16.mul) a b d) s
def execDumulBf16 (x y : BitVec 1) (b a d : BitVec 7) (s : State) : Result := runPure (.dumulBf16 x y b a d) (fput2 (hop bf16.mul) a b d) s
def execDuminF16 (x y : BitVec 1) (b a d : BitVec 7) (s : State) : Result := runPure (.duminF16 x y b a d) (fput2 (hop (f16.pick · false)) a b d) s
def execDuminBf16 (x y : BitVec 1) (b a d : BitVec 7) (s : State) : Result := runPure (.duminBf16 x y b a d) (fput2 (hop (bf16.pick · false)) a b d) s
def execDumaxF16 (x y : BitVec 1) (b a d : BitVec 7) (s : State) : Result := runPure (.dumaxF16 x y b a d) (fput2 (hop (f16.pick · true)) a b d) s
def execDumaxBf16 (x y : BitVec 1) (b a d : BitVec 7) (s : State) : Result := runPure (.dumaxBf16 x y b a d) (fput2 (hop (bf16.pick · true)) a b d) s

/-! DOP (R132). -/

def execDadd (x y : BitVec 1) (b a d : BitVec 7) (s : State) : Result := runPure (.dadd x y b a d) (fput2D f64.add a b d) s
def execDsub (x y : BitVec 1) (b a d : BitVec 7) (s : State) : Result := runPure (.dsub x y b a d) (fput2D f64.sub a b d) s
def execDmul (x y : BitVec 1) (b a d : BitVec 7) (s : State) : Result := runPure (.dmul x y b a d) (fput2D f64.mul a b d) s
def execDmin (x y : BitVec 1) (b a d : BitVec 7) (s : State) : Result := runPure (.dmin x y b a d) (fput2D (f64.pick · false) a b d) s
def execDmax (x y : BitVec 1) (b a d : BitVec 7) (s : State) : Result := runPure (.dmax x y b a d) (fput2D (f64.pick · true) a b d) s
def execDdiv (x y : BitVec 1) (b a d : BitVec 7) (s : State) : Result := runPure (.ddiv x y b a d) (fput2D f64.div a b d) s
def execDsqrt (y : BitVec 1) (a d : BitVec 7) (s : State) : Result := runPure (.dsqrt y a d) (fput1D (fun md a => f64.sqrt md (f64.value md.flush a)) a d) s

/-! FUN (R133, R134). -/

def execFrcp (y : BitVec 1) (a d : BitVec 7) (s : State) : Result := runPure (.frcp y a d) (fput1 (fun1 frcpV) a d) s
def execFrsq (y : BitVec 1) (a d : BitVec 7) (s : State) : Result := runPure (.frsq y a d) (fput1 (fun1 f32.rsqrt) a d) s
def execFsqrt (y : BitVec 1) (a d : BitVec 7) (s : State) : Result := runPure (.fsqrt y a d) (fput1 (fun1 f32.sqrt) a d) s
def execFexp2 (y : BitVec 1) (a d : BitVec 7) (s : State) : Result := runPure (.fexp2 y a d) (fput1 (fun1 fexp2) a d) s
def execFlog2 (y : BitVec 1) (a d : BitVec 7) (s : State) : Result := runPure (.flog2 y a d) (fput1 (fun1 flog2) a d) s
def execFsinpi (y : BitVec 1) (a d : BitVec 7) (s : State) : Result := runPure (.fsinpi y a d) (fput1 (fun1 fsinpi) a d) s
def execFcospi (y : BitVec 1) (a d : BitVec 7) (s : State) : Result := runPure (.fcospi y a d) (fput1 (fun1 fcospi) a d) s
def execFdiv (x y : BitVec 1) (b a d : BitVec 7) (s : State) : Result := runPure (.fdiv x y b a d) (fput2 f32.div a b d) s

/-! Conversions (R135 to R137). -/

/-- The exact integer of the low bits of a register or pair, read as an integer type (R117, R118). -/
def readInt (t v : Nat) : Int :=
  let w := typeBits t
  let u := v % 2 ^ w
  if intLo t < 0 ∧ bit u (w - 1) then (u : Int) - 2 ^ w else u

/-- An integer as a register or pair holds it: sign-extended or zero-extended (R118). -/
def putInt (t : Nat) (v : Int) : Nat :=
  let w := typeBits t
  let u := (v % 2 ^ w).toNat
  if w = 64 then u else if intLo t < 0 ∧ bit u (w - 1) then u + (2 ^ 32 - 2 ^ w) else u

/-- CVT's result (R136) and flags. -/
def cvtVal (sat : Bool) (r t u : Nat) (md : FMode) (v : Nat) : Nat × Word :=
  if isInt t && isInt u then
    let x := readInt t v
    (putInt u (if sat then max (intLo u) (min (intHi u) x) else x), 0)
  else
    let x := if isInt t then FVal.ofInt (readInt t v) else (fmtOf t).value md.flush (v % 2 ^ typeBits t)
    if isInt u then
      let r := toInt u (roundingOf r) x
      (putInt u r.1, r.2)
    else if isN t && isF u then (fmtOf u).convert .rne false md.flush md.canon x
    else (fmtOf u).convert (roundingOf r) sat md.flush md.canon x

def execCvt (f : BitVec 1) (r : BitVec 3) (k u : BitVec 4) (a d : BitVec 7) (s : State) : Result :=
  runPure (.cvt f r k u a d) (fun t =>
    let v := if wide k then (t.pair a.toNat).toNat else (t.val a.toNat).toNat
    let x := cvtVal (f == 1#1) r.toNat k.toNat u.toNat t.mode v
    if wide u then t.putFD d.toNat x else t.putF d.toNat x) s

/-- A value into a packed type by RNE (R137): the code of one element. -/
def narrow (u : Nat) (sat : Bool) (md : FMode) (x : FVal) : Nat × Word :=
  if isInt u then
    let r := toInt u .rne x
    ((r.1 % 2 ^ typeBits u).toNat, r.2)
  else (fmtOf u).convert .rne sat md.flush md.canon x

/-- The value of a packed element's code. -/
def narrowValue (u c : Nat) : FVal := if isInt u then FVal.ofInt (readInt u c) else (fmtOf u).value false c

/-- The mode of the steps of R128: RNE, nothing flushed, NaNs passed on. -/
def plainMode : FMode := { rm := .rne, flush := false, canon := false }

/-- Error-feedback rounding (R128): the code, its flags, and the new residue. -/
def feedback (u : Nat) (sat : Bool) (md : FMode) (x : FVal) (e : Nat) : Nat × Word × Nat :=
  let s := f32.value false (f32.fma plainMode [x, f32.value false e] x .one (some (f32.value false e))).1
  let y := narrow u sat md s
  let res := match s with
    | .fin _ _ _ => (f32.fma plainMode [] s .one (some (narrowValue u y.1).negate)).1
    | _ => 0
  (y.1, y.2, res)

/-- The codes of a packed conversion put together, with the union of the flags. -/
def packAll (w : Nat) (rs : List (Nat × Word)) : Nat × Word :=
  rs.foldr (fun r acc => (r.1 + 2 ^ w * acc.1, r.2 ||| acc.2)) (0, 0)

def execCvtp (f : BitVec 1) (u : BitVec 4) (a d : BitVec 7) (s : State) : Result :=
  runPure (.cvtp f u a d) (fun t =>
    t.putF d.toNat (packAll (typeBits u.toNat) ((List.range (packCount u.toNat)).map fun j =>
      narrow u.toNat (f == 1#1) t.mode (f32.value t.mode.flush (t.val (a.toNat + j)).toNat)))) s
def execCvtpEf (f : BitVec 1) (u : BitVec 4) (e : BitVec 3) (a d : BitVec 7) (s : State) : Result :=
  runPure (.cvtpEf f u e a d) (fun t =>
    let rs := (List.range (packCount u.toNat)).map fun j =>
      feedback u.toNat (f == 1#1) t.mode (f32.value t.mode.flush (t.val (a.toNat + j)).toNat)
        (t.resid.getD (8 * e.toNat + j) 0).toNat
    let t' := t.putF d.toNat (packAll (typeBits u.toNat) (rs.map fun r => (r.1, r.2.1)))
    { t' with resid := t.resid.take (8 * e.toNat) ++ rs.map (fun r => BitVec.ofNat 32 r.2.2) ++
        t.resid.drop (8 * e.toNat + packCount u.toNat) }) s

/-! Dot products (R138). -/

/-- The integer form: elements of an integer type, summed modulo 2^32. -/
def dotInt (ty : Nat) (d a b : Word) : Word :=
  let w := typeBits ty
  d + BitVec.ofInt 32 (((List.range (32 / w)).map fun j =>
    readInt ty (elem a.toNat w j) * readInt ty (elem b.toNat w j)).foldl (· + ·) 0)

/-- The floating form: the exact sum with the FP32 accumulator, rounded once (R127). -/
def dotFloat (f : Fmt) (w : Nat) (canon : Bool) (d a b : Nat) : Nat × Word :=
  f32.dot canon (f32.value false d) ((List.range (32 / w)).map fun j => (f.value false (elem a w j), f.value false (elem b w j)))

/-- DOT's shape on floating elements. -/
def dotPut (f : Fmt) (w : Nat) (a b d : BitVec 7) (t : Thread) : Thread :=
  t.putF d.toNat (dotFloat f w t.mode.canon (t.val d.toNat).toNat (t.val a.toNat).toNat (t.val b.toNat).toNat)

def execDot4I8 (x y : BitVec 1) (b a d : BitVec 7) (s : State) : Result := runPure (.dot4I8 x y b a d) (put3 (dotInt 0) a b d) s
def execDot4Z8 (x y : BitVec 1) (b a d : BitVec 7) (s : State) : Result := runPure (.dot4Z8 x y b a d) (put3 (dotInt 1) a b d) s
def execDot8I4 (x y : BitVec 1) (b a d : BitVec 7) (s : State) : Result := runPure (.dot8I4 x y b a d) (put3 (dotInt 7) a b d) s
def execDot8Z4 (x y : BitVec 1) (b a d : BitVec 7) (s : State) : Result := runPure (.dot8Z4 x y b a d) (put3 (dotInt 15) a b d) s
def execDot4D8a (x y : BitVec 1) (b a d : BitVec 7) (s : State) : Result := runPure (.dot4D8a x y b a d) (dotPut d8a 8 a b d) s
def execDot4D8b (x y : BitVec 1) (b a d : BitVec 7) (s : State) : Result := runPure (.dot4D8b x y b a d) (dotPut d8b 8 a b d) s
def execDot8D4 (x y : BitVec 1) (b a d : BitVec 7) (s : State) : Result := runPure (.dot8D4 x y b a d) (dotPut d4 4 a b d) s
def execDot2Bf16 (x y : BitVec 1) (b a d : BitVec 7) (s : State) : Result := runPure (.dot2Bf16 x y b a d) (dotPut bf16 16 a b d) s

/-! Mode and flags (R139, R140). -/

def execSetrm (r : BitVec 2) (s : State) : Result :=
  runPure (.setrm r) (fun t => { t with fmode := (t.fmode &&& 0xFFFFFFFC) ||| r.zeroExtend 32 }) s
def execClrff (d : BitVec 7) (s : State) : Result :=
  runPure (.clrff d) (fun t => { t.write d.toNat t.fflags with fflags := 0 }) s

end Sys2Proof.Machine
end

