-- ==== Sys2Proof/Machine/Calipers.lean ====
section
/-! DEFINITION. Calipers (R345 to R358): what a store adds to a monitor, the check at a barrier, and CALCFG, CALREF,
CALBND and CALRD. -/

namespace Sys2Proof.Machine

/-- A fresh monitor with a descriptor at a clk; a configured one keeps its reference and bound (R346). -/
def calMonitor (ws : List Word) (old : Option Monitor) (clk : Nat) : Monitor :=
  { off := calOff ws, carry := bit (ws.getD 0 0).toNat 22, ty := calType ws, rs := calRs ws, mask := calMask ws
    length := calLen ws, base := calBase ws, q := calQ ws, words := ws
    ref := (old.map (·.ref)).getD 0, bound := (old.map (·.bound)).getD 0x7FF0000000000000#64
    lastReasons := (old.map (·.lastReasons)).getD 0, lastRef := (old.map (·.lastRef)).getD 0, since := clk }

/-- The value of a field's bytes (R350). -/
def calValue (ty v : Nat) : FVal :=
  if ty = 0 then f32.value false v else if ty = 1 then f64.value false v
  else if ty = 2 then .ofInt (readInt 4 v) else .ofInt (readInt 6 v)

/-- One field that lies wholly inside a store (R350). -/
def Monitor.addField (m : Monitor) (v : Nat) : Monitor :=
  match calValue m.ty v with
  | .fin n x e =>
    let r := Exact.roundAt { neg := n, m := x, e := e } m.q .rne
    { m with sum := m.sum + (if n then -(r.1 : Int) else r.1), inexact := m.inexact || r.2 }
  | _ => { m with nonfinite := true }

/-- A counted store lane: its bytes at an address (R350). -/
def Monitor.count (m : Monitor) (ea : Nat) (bs : List Byte) : Monitor :=
  let size := calSize m.ty
  let r := 2 ^ m.rs
  let f0 := m.base + m.off
  let lo := (ea - f0) / r - 1
  ((List.range (bs.length / r + 3)).map (lo + ·)).foldl (fun m i =>
    let f := f0 + i * r
    if decide (i < m.length / r) && overlap f size ea bs.length then
      if inside f size ea bs.length then m.addField (field bs (f - ea) size) else { m with isPartial := true }
    else m) m

/-- A store that issues at a clk counts for the monitors of its block whose masks have its stream (R349), under the configuration
in force before that clk (R346). -/
def Block.countStore (k : Block) (clk stream ea : Nat) (bs : List Byte) : Block :=
  { k with mons := k.mons.map fun m => m.map fun m => if bit m.mask stream && decide (m.since < clk) then m.count ea bs else m }

/-- A sum in units of 2^q as an f64, with ±∞ beyond its range (R353, R355, R356). -/
def calF64 (v q : Int) : DWord :=
  BitVec.ofNat 64 (f64.round .rne false false { neg := decide (v < 0), m := v.natAbs, e := q }).1

/-- Whether |v × 2^q − ref| > bound, or one of them is a NaN (R352). -/
def calDrift (v q : Int) (ref bound : DWord) : Bool :=
  match f64.value false ref.toNat, f64.value false bound.toNat with
  | .nan _ _ _, _ => true
  | _, .nan _ _ _ => true
  | _, .inf true => true
  | .inf _, .inf false => false
  | .inf _, .fin _ _ _ => true
  | .fin _ _ _, .inf false => false
  | .fin n m e, .fin nb mb eb =>
    let s : Bool × Nat × Int := (decide (v < 0), v.natAbs, q)
    let lo := minExp [s, (n, m, e), (nb, mb, eb)] 0
    let d := sumAt lo [s, (!n, m, e)]
    decide (sumAt lo [(nb, mb, eb)] < d.natAbs)

/-- A monitor's check with a sum, or without one where a network's total is not formed (R352 to R354): the monitor after it,
its reasons, and the sum as an f64. -/
def Monitor.check (m : Monitor) (total : Option Int) (free : DWord) : Monitor × Nat × DWord :=
  let own := (if m.isPartial then 2 else 0) + if m.nonfinite then 4 else 0
  let r := match total with
    | some v => own + (if calDrift v m.q m.ref m.bound then 1 else 0) +
        if v < -(2 ^ 191 : Int) ∨ (2 ^ 191 : Int) - 1 < v then 8 else 0
    | none => own + 16
  let s := match total with
    | some v => calF64 v m.q
    | none => free
  ({ m with
      sum := 0, inexact := false, isPartial := false, nonfinite := false
      ref := if m.carry then s else m.ref, lastReasons := r, lastRef := m.ref }, r, s)

/-- The total of monitor kN over the participants of a network (R354). -/
def netTotal (sums : List (List (Option (Int × Int)))) (n : Nat) (q : Int) : Option Int :=
  sums.foldl (fun acc l => match acc, l.getD n none with
    | some v, some (u, q') => if q' == q then some (v + u) else none
    | _, _ => none) (some 0)

/-- A block's check of its monitors (R352, R355): the block, and the CALIPER cause if some monitor fails. -/
def Block.checkMons (k : Block) (sums : Option (List (List (Option (Int × Int))))) (free : DWord) : Block × Option Trap :=
  let rs := k.mons.mapIdx fun n m => m.map fun m => m.check (match sums with
    | none => some m.sum
    | some l => netTotal l n m.q) free
  let bad := (List.range 4).filter fun n => match rs.getD n none with
    | some r => decide (r.2.1 ≠ 0)
    | none => false
  ({ k with mons := rs.map fun r => r.map (·.1) },
    match bad with
    | [] => none
    | n :: _ => match rs.getD n none with
      | some r => some { cause := 0x0D, addr := r.2.2
                         detail := BitVec.ofNat 64 (n + 16 * r.2.1 + 4096 * (bad.map (2 ^ ·)).foldl (· + ·) 0) }
      | none => none)

/-- The same end for every running lane. -/
def allEnd (ls : List Nat) (e : LaneEnd) : List (Nat × LaneEnd) := ls.map fun l => (l, e)

def execCalcfg (k : BitVec 2) (a : BitVec 7) (s : State) : Result :=
  runWith (.calcfg k a) noCheck (fun s g b ls => match ls with
    | [] => (s, [])
    | _ =>
      let ws := (s.thread g.bundle (highest ls)).vals a.toNat 4
      if calLen ws = 0 then (s.modBlk b fun x => { x with mons := x.mons.set k.toNat none }, [])
      else match calBad ws with
        | some w => (s, allEnd ls (.trap { cause := 3, detail := BitVec.ofNat 64 w }))
        | none =>
          if s.calWaits b k.toNat ws then (s, allEnd ls .stay)
          else (s.modBlk b fun x => { x with mons := x.mons.set k.toNat (some (calMonitor ws (x.mons.getD k.toNat none) s.clk)) }, [])) s

/-- CALREF and CALBND: the highest active lane's value into the monitor; an unconfigured one traps (R347). -/
def calSet (k : BitVec 2) (a : BitVec 7) (f : Monitor → DWord → Monitor) : Body := fun s g b ls => match ls with
  | [] => (s, [])
  | _ =>
    if ((s.blockOf b).bind fun x => x.mons.getD k.toNat none).isNone then
      (s, allEnd ls (.trap { cause := 3, detail := BitVec.ofNat 64 (0x100 + k.toNat) }))
    else
      let v := (s.thread g.bundle (highest ls)).pair a.toNat
      (s.modBlk b fun x => { x with mons := x.mons.set k.toNat ((x.mons.getD k.toNat none).map fun m => f m v) }, [])

def execCalref (k : BitVec 2) (a : BitVec 7) (s : State) : Result :=
  runWith (.calref k a) noCheck (calSet k a fun m v => { m with ref := v }) s
def execCalbnd (k : BitVec 2) (a : BitVec 7) (s : State) : Result :=
  runWith (.calbnd k a) noCheck (calSet k a fun m v => { m with bound := v }) s

/-- What CALRD returns (R356). -/
def calRead (m : Option Monitor) (v : Nat) : DWord :=
  match m with
  | none => 0
  | some m =>
    let raw := (m.sum % (2 ^ 192 : Int)).toNat
    if v = 0 then calF64 m.sum m.q
    else if v = 1 then m.ref
    else if v = 2 then m.bound
    else if v = 3 then BitVec.ofNat 64 (1 + (if m.inexact then 2 else 0) + (if m.isPartial then 4 else 0) +
      (if m.nonfinite then 8 else 0) + 2 ^ 32 * m.lastReasons)
    else if v = 7 then m.lastRef
    else BitVec.ofNat 64 (raw / 2 ^ (64 * (v - 4)) % 2 ^ 64)

def execCalrd (v : BitVec 3) (k : BitVec 2) (d : BitVec 7) (s : State) : Result :=
  runLanes (.calrd v k d) noCheck (fun s g b l =>
    (s.modThread g.bundle l fun t => t.writePair d.toNat
      (calRead ((s.blockOf b).bind fun x => x.mons.getD k.toNat none) v.toNat), .next)) s

end Sys2Proof.Machine
end

