-- ==== Sys2Proof/Machine/Pages.lean ====
section
/-! DEFINITION. The page table (R386 to R390, R450): walking the pages of a range, expanding a compressed page, and the Headstock's use of
bytes at a partition's virtual address. -/

namespace Sys2Proof.Machine

/-- What keeps a page from being leased or used. -/
inductive PageNeed where
  /-- No valid leaf, or one that lacks a right. -/
  | absent (va : Nat)
  | migrating (va : Nat)
  | compressed (va : Nat)
  /-- In the second tier while HBM is asked for. -/
  | tier (va : Nat)
  deriving DecidableEq, Repr

/-- Whether a run goes on into another in both addresses (R388). -/
def Xlat.joins (x y : Xlat) : Bool := x.va + x.len == y.va && x.pa + x.len == y.pa

/-- Put a run before others, merged where both addresses are contiguous (R388) and both hold their leaf, with one pair of rights. -/
def consXlat (x : Xlat) : List Xlat → List Xlat
  | [] => [x]
  | y :: ys => if x.joins y && x.r == y.r && x.w == y.w && x.table == y.table then { x with len := x.len + y.len } :: ys else x :: y :: ys

/-- The range-translation entries that runs take in a store: R388 merges whatever is contiguous. -/
def entryCount : List Xlat → Nat
  | [] => 0
  | x :: xs => (match xs with
    | [] => 1
    | y :: _ => if x.joins y then 0 else 1) + entryCount xs

/-- The translation of the pages from va to stop (R365, R388), or what the first unready page needs; fuel is in pages. A 64 KiB
page for which ov names a frame translates there: a rename version (R374). -/
def State.walkRange (s : State) (p stop : Nat) (r w hbm : Bool) (ov : Nat → Option Nat) : Nat → Nat → Except PageNeed (List Xlat)
  | 0, _ => .ok []
  | n + 1, va =>
    if stop ≤ va then .ok []
    else match s.leaf p va with
      | none => .error (.absent (va / 65536 * 65536))
      | some lf =>
        let base := va / lf.size * lf.size
        if (r && !lf.r) || (w && !lf.w) then .error (.absent base)
        else if lf.size = 65536 ∧ (ov base).isSome then match State.walkRange s p stop r w hbm ov n (base + lf.size) with
          | .ok xs => .ok (consXlat { va := base, pa := (ov base).getD 0, len := lf.size, r := lf.r, w := lf.w } xs)
          | .error e => .error e
        else if lf.m then .error (.migrating base)
        else if lf.c then .error (.compressed base)
        else if hbm && inTier2 lf.pa then .error (.tier base)
        else match State.walkRange s p stop r w hbm ov n (base + lf.size) with
          | .ok xs => .ok (consXlat { va := base, pa := lf.pa, len := lf.size, r := lf.r, w := lf.w, table := true } xs)
          | .error e => .error e

/-- The translation of a span of virtual addresses. -/
def State.walkSpan (s : State) (p va n : Nat) (r w hbm : Bool) (ov : Nat → Option Nat) : Except PageNeed (List Xlat) :=
  if 2 ^ 56 < va + n then .error (.absent va) else s.walkRange p (va + n) r w hbm ov (n / 65536 + 2) va

/-- No rename version. -/
def noVersion : Nat → Option Nat := fun _ => none

/-- The translations of several ranges. -/
def State.walkAll (s : State) (p : Nat) (ov : Nat → Option Nat) : List Range → Except PageNeed (List Xlat)
  | [] => .ok []
  | x :: xs => match s.walkSpan p x.base x.len x.r x.w x.hbm ov, State.walkAll s p ov xs with
    | .ok a, .ok b => .ok (a ++ b)
    | .error e, _ => .error e
    | _, .error e => .error e

/-- The translation entries of a partition's leases: of tasks, grids, nodes, objects, its handler range and its Headstock structures. -/
def State.leaseRuns (s : State) (p : Nat) : List Xlat :=
  (s.tasks.filter fun t => t.partition == p && t.leased).flatMap (·.xlat) ++ (s.grids.filter fun g => g.partition == p && g.leased).flatMap (·.xlat) ++
    (s.wnodes.filter (·.partition == p)).flatMap (·.xlat) ++ (s.objects.filter (·.partition == p)).flatMap (·.xlat) ++ (s.part p).handlers ++
    (s.leases.filter (·.partition == p)).flatMap (·.xlat)

/-- The spans that a page table takes from a level down: its tables, and the pages of its leaves; a compressed page has no frame. -/
def tableSpans (mem : Mem) : Nat → Nat → List (Nat × Nat)
  | 0, table => (table, 8192) :: (List.range 1024).flatMap fun i => match pte mem (i * 2 ^ 16) table 0 with
    | some (.inl lf) => if lf.c then [] else [(lf.pa, lf.size)]
    | _ => []
  | k + 1, table => (table, 8192) :: (List.range 1024).flatMap fun i => match pte mem (i * 2 ^ (26 + 10 * k)) table (k + 1) with
    | some (.inl lf) => [(lf.pa, lf.size)]
    | some (.inr t) => tableSpans mem k t
    | none => []

/-- The physical spans in use: page tables and their pages, leased pages, rename pools and versions, compression zones, and both ends of
every move. -/
def State.framesUsed (s : State) : List (Nat × Nat) :=
  ((List.range 8).flatMap fun p => tableSpans s.mem 3 (s.part p).root.toNat ++ (s.leaseRuns p).map (fun x => (x.pa, x.len)) ++
    (s.part p).renameFree.map (fun f => (f, 65536)) ++ [((s.part p).zoneBase.toNat, (s.part p).zoneSize)]) ++
  s.versions.flatMap (fun v => v.frames.map fun f => (f, 65536)) ++ s.moves.flatMap fun m => [(m.frm, m.size), (m.to_, m.size)]

/-- The first frame not in use, from a frame number on around a region of n frames. -/
def freeFrom (used : List (Nat × Nat)) (base size n : Nat) : Nat → Nat → Option Nat
  | 0, _ => none
  | k + 1, i =>
    let a := base + i % n * size
    if used.any fun u => overlap u.1 u.2 a size then freeFrom used base size n k (i + 1) else some a

/-- A frame of a size, in HBM or in the second tier, that nothing uses; which one is a free value (log entry 17); none: the tier is full. -/
def State.frameFor (s : State) (size : Nat) (tier : Bool) : Option Nat :=
  let n := if tier then 2 ^ 45 / size else 2 ^ 39 / size
  freeFrom s.framesUsed (if tier then 0x200000000000 else 0) size n n (Config.pick s.draw % n)

/-- Rewrite a leaf entry's frame, region and flags (R387). -/
def leafWord (old frame : Nat) (tier c m : Bool) : Nat :=
  frame + bits old 3 0 + (if c then 32 else 0) + (if m then 64 else 0) + if tier then 128 else 0

/-- Write an entry of the page table. -/
def State.putLeaf (s : State) (entry v : Nat) : State := s.homeSpan entry (leBytes 8 v)

/-- Expand a compressed page into a free HBM frame (R389); where HBM is full it waits. -/
def State.expand (s : State) (p va : Nat) : State :=
  match s.walk p va, s.frameFor 65536 false with
  | some lf, some frame =>
    if !lf.c then s
    else
      let old := leNat (readBytes s.mem lf.entry 8)
      let bytes : Mem := match s.zone.find? fun z => z.partition == p && z.slot == lf.pa with
        | some z => z.bytes
        | none => []
      let s := { s.drawn with zone := s.zone.filter fun z => !(z.partition == p && z.slot == lf.pa) }
      let clear := s.mem.filter fun c => decide (c.1 < frame) || decide (frame + 65536 ≤ c.1)
      let s := { s with mem := bytes.foldl (fun (m : Mem) (c : Host.Cell) => writeByte m (frame + c.1) c.2) clear }
      let s := s.frameTaken frame 65536
      (s.putLeaf lf.entry (leafWord old frame false false false)).touch frame
  | _, _ => s

/-- What the Headstock finds where it means to use bytes (R450). -/
inductive Avail where
  | ready (s : State)
  | wait
  | bad

/-- Make a span usable with rights: compressed pages are expanded, migrating ones waited for (R450); fuel counts expansions. -/
def State.use (s : State) (p va n : Nat) (r w : Bool) : Nat → Avail
  | 0 => .wait
  | k + 1 => match s.walkSpan p va n r w false noVersion with
    | .ok _ => .ready s
    | .error (.absent _) => .bad
    | .error (.migrating _) => .wait
    | .error (.compressed a) => State.use (s.expand p a) p va n r w k
    | .error (.tier _) => .wait

/-- A span a structure occupies: enough fuel for its pages. -/
def State.useSpan (s : State) (p va n : Nat) (r w : Bool) : Avail := s.use p va n r w (n / 65536 + 3)

/-- The Headstock's write at a partition's virtual address, made usable first (R450): none where a leaf is invalid or lacks the right;
where a page is moving the bytes wait. -/
def State.useStore (s : State) (p va : Nat) (bs : List Byte) (ring : Option Nat) : Option State :=
  match s.useSpan p va bs.length false true with
  | .ready s => s.vstore p va bs ring
  | .wait => some { s with heldStores := s.heldStores ++ [{ part := some p, bytes := bs.zipIdx.map fun x => (x.2, x.1), ring := ring, va := some va }] }
  | .bad => none

/-- The three rings: 0 sample, 1 trace, 2 exit; their record sizes. -/
def Partition.ring (q : Partition) (n : Nat) : Ring := if n = 0 then q.sample else if n = 1 then q.trace else q.exits
def Partition.setRing (q : Partition) (n : Nat) (r : Ring) : Partition :=
  if n = 0 then { q with sample := r } else if n = 1 then { q with trace := r } else { q with exits := r }

/-- A ring of observation is suspended by a faulting write (R421). -/
def State.suspend (s : State) (p n va : Nat) : State :=
  s.modPart p fun q => { q.setRing n { q.ring n with suspended := true } with faultAddr := BitVec.ofNat 64 va }

/-- A held store of the Headstock proceeds: one of a page that was moving is translated again. -/
def State.headAgain (s : State) (h : HeldStore) : State := match h.va, h.part with
  | some va, some p => (s.useStore p va (h.bytes.map Prod.snd) h.ring).getD (s.suspend p (h.ring.getD 0) va)
  | _, _ => s.headLine h

/-- Held stores of the Headstock proceed, in order, where their line is free again. -/
def State.settleHeld (s : State) : State :=
  s.heldStores.foldl State.headAgain { s with heldStores := [] }

end Sys2Proof.Machine
end

