-- ==== Sys2Proof/Machine/Rings.lean ====
section
/-! DEFINITION. Records: interrupt messages (R408), the event ring and its held records (R405 to R407), the fault queue (R368),
and the sample, trace and exit rings (R416, R420, R421). -/

namespace Sys2Proof.Machine

/-- The vector of module events (R408). -/
def moduleVector : Nat := 2047

/-! The event ring. -/

/-- Records in a ring that software has not consumed: indices modulo 2^32. -/
def ringFill (write read : Nat) : Nat := (write + 2 ^ 32 - read) % 2 ^ 32

/-- Write one record at the event ring's write index (R407). -/
def State.evWriteRec (s : State) (p : Nat) (rec : List Byte) : State :=
  let q := s.part p
  match s.vstore p (q.evBase.toNat + 32 * (q.evWrite % q.evSize)) rec (some 3) with
  | none => s
  | some s => s.modPart p fun q => { q with evWrite := (q.evWrite + 1) % 2 ^ 32 }

/-- Whether the event ring has room. -/
def Partition.evRoom (q : Partition) : Bool := decide (ringFill q.evWrite q.evRead < q.evSize)

/-- Add a record: to the ring, or held; a status-0 record beyond 4,096 held ones is lost (R407). -/
def State.event (s : State) (p : Nat) (status : Nat) (rec : List Byte) : State :=
  let q := s.part p
  if q.evHeld.isEmpty && q.evRoom then s.evWriteRec p rec
  else if q.evHeld.length < 4096 || decide (status ≠ 0) then s.modPart p fun q => { q with evHeld := q.evHeld ++ [rec] }
  else s.modPart p fun q => { q with evLost := (q.evLost + 1) % 2 ^ 32 }

/-- Write held records in order as room appears (R407). -/
def State.flushEvents (s : State) (p : Nat) : State :=
  (s.part p).evHeld.foldl (fun s rec =>
    if (s.part p).evRoom then (s.evWriteRec p rec).modPart p fun q => { q with evHeld := q.evHeld.drop 1 } else s) s

/-- The 32 bytes of a record (R405). -/
def recordBytes (time source status cause : Nat) (detail : DWord) (task w28 : Nat) : List Byte :=
  leBytes 8 time ++ leBytes 4 source ++ leBytes 2 status ++ leBytes 2 cause ++ leBytes 8 detail.toNat ++ leBytes 4 task ++
    leBytes 4 w28

/-- Lane and bundle as R335 packs them. -/
def laneBundle (bundle lane : Nat) : Nat := lane % 32 + 32 * (bundle % 32)

/-! The fault queue (R368). -/

/-- Append an entry, or keep it in the Headstock's tables while the ring is full. -/
def State.faultEntry (s : State) (p : Nat) (e : List Byte) : State :=
  let q := s.part p
  if q.fqHeld.isEmpty && decide (ringFill q.fqWrite q.fqRead < q.fqCap) then
    match s.vstore p (q.fqBase.toNat + 64 * (q.fqWrite % q.fqCap)) e (some 4) with
    | some s => s.modPart p fun q => { q with fqWrite := (q.fqWrite + 1) % 2 ^ 32 }
    | none => s
  else s.modPart p fun q => { q with fqHeld := q.fqHeld ++ [e] }

/-- Write kept entries in order as software frees ring entries. -/
def State.flushFaults (s : State) (p : Nat) : State :=
  let held := (s.part p).fqHeld
  held.foldl (fun s e => s.faultEntry p e) (s.modPart p fun q => { q with fqHeld := [] })

/-- The 64 bytes of a fault-queue entry (R368). -/
def faultBytes (tcb : DWord) (tid index cause : Nat) (detail addr pc : DWord) (lb flags time : Nat) : List Byte :=
  leBytes 8 tcb.toNat ++ leBytes 4 tid ++ leBytes 2 index ++ leBytes 2 cause ++ leBytes 8 detail.toNat ++
    leBytes 8 addr.toNat ++ leBytes 8 pc.toNat ++ leBytes 4 lb ++ leBytes 4 flags ++ leBytes 8 time ++ leBytes 8 0

/-! Observation rings (R416, R420, R421). -/

def ringRecord (n : Nat) : Nat := if n = 0 then 64 else if n = 1 then 32 else 96

/-- Write one record at a ring's write index, its page made usable first (R450); a faulting write suspends the ring (R421). -/
def State.ringWrite (s : State) (p n : Nat) (rec : List Byte) : State :=
  let r := (s.part p).ring n
  let va := r.base.toNat + ringRecord n * (r.write % r.size)
  match s.useStore p va rec (some n) with
  | some s => s.modPart p fun q => q.setRing n { q.ring n with write := (r.write + 1) % 2 ^ 32 }
  | none => s.suspend p n va

/-- Whether a ring is full. -/
def Ring.full (r : Ring) : Bool := decide (r.size ≤ ringFill r.write r.read)

/-- A record for the sample or exit ring: dropped when the ring is full or suspended (R420, R421). -/
def State.ringPut (s : State) (p n : Nat) (rec : List Byte) : State :=
  let r := (s.part p).ring n
  if r.suspended || r.full then s else s.ringWrite p n rec

/-- A record for the trace ring (R420): stop mode drops and counts, wrap mode overwrites the oldest. -/
def State.traceRaw (s : State) (p : Nat) (rec : List Byte) : State :=
  let q := s.part p
  let r := q.trace
  if r.suspended || r.size == 0 then s
  else if r.full then
    if bit q.control.toNat 2 then
      (s.modPart p fun q => { q with trace := { q.trace with read := (q.trace.read + 1) % 2 ^ 32 } }).ringWrite p 1 rec
    else s.modPart p fun q => { q with trace := { q.trace with lost := q.trace.lost + 1 } }
  else s.ringWrite p 1 rec

/-- The 32 bytes of a trace record (R422). -/
def traceBytes (type bundle core tid mask interval : Nat) (pc aux : DWord) : List Byte :=
  leBytes 1 type ++ leBytes 1 bundle ++ leBytes 2 core ++ leBytes 4 tid ++ leBytes 4 mask ++ leBytes 4 interval ++
    leBytes 8 pc.toNat ++ leBytes 8 aux.toNat

end Sys2Proof.Machine
end

