-- ==== Sys2Proof/Machine/Home.lean ====
section
/-! DEFINITION. How accesses meet their homes: scratchpad arrays, late results (R97), leases (R153, R154), stores at a home (R153,
R313), holds (R200, R246, R249), and sender queues (R156). -/

namespace Sys2Proof.Machine

/-! Scratchpad arrays. -/

/-- Read the array of a block. -/
def State.spadRead (s : State) (k off n : Nat) : List Byte := match s.block? k with
  | some x => readBytes x.spad off n
  | none => List.replicate n 0

/-- Running commands keep the scratchpad words that a write is about to change, once their own thread's earlier stores are in (R199). -/
def State.keepSpad (s : State) (k off n : Nat) : State :=
  let ws := oldWords (some k) (((s.block? k).map (·.spad)).getD []) off n
  { s with
    tiles := upd s.tiles (fun t => t.issued && !(s.spadStoresBefore t.bundle t.lane t.id)) fun t => { t with olds := t.olds ++ ws }
    parts := upd s.parts (fun p => !(s.spadStoresBefore p.bundle p.lane p.id)) fun p => { p with olds := p.olds ++ ws } }

/-- Write the array of a block. -/
def State.spadWrite (s : State) (k off : Nat) (bs : List Byte) : State :=
  (s.keepSpad k off bs.length).modBlock k fun x => { x with spad := writeBytes x.spad off bs }

/-! Late results land in the thread, resident or saved (R97). -/

/-- A result reaches a thread; one that has exited discards it (R73, R97), but its counts move on. -/
def Thread.landed (t : Thread) (f : Thread → Thread) : Thread := if t.life = .exited then { f t with regs := t.regs } else f t

/-- Change a thread of a resident bundle, or of a saved one. -/
def State.landThread (s : State) (b l : Nat) (f : Thread → Thread) : State :=
  if (s.bundle? b).isSome then s.modThread b l fun t => t.landed f
  else { s with saved := s.saved.map fun x => if x.bundles.any (·.id == b) then
      { x with stale := true, bundles := upd x.bundles (·.id == b) fun y => { y with threads := y.threads.modify l fun t => t.landed f } } else x }

/-! Homes (R153, R154). -/

/-- A line's bytes at its home. -/
def State.lineData (s : State) (ln : Nat) : List Byte := readBytes s.mem (64 * ln) 64

/-- A die's copy of a remote line while it is valid (R154). -/
def State.dieCopy (s : State) (d ln : Nat) : Option Copy :=
  (s.die d).copies.find? fun c => c.line == ln && decide (s.clk < c.grant + 4096)

/-- A copy filled after a thread's acquire stamp (R195). -/
def Copy.after (c : Copy) (stamp : Option Nat) : Bool := match stamp with
  | none => true
  | some t => decide (t < c.grant)

/-- The ways of an L1 set, and the set of a line among those that 4,096 lines, 256 KiB, then give (R9; log entry 103). -/
def l1Ways : Nat := 2 ^ (Config.l1Ways % 13)
def l1SetOf (ln : Nat) : Nat := Config.l1Set ln % (4096 / l1Ways)

/-- A core's L1 takes a line (R152, R155, R157). Its copies stand in the order of their last use, the newest first. -/
def State.putL1 (s : State) (core : Nat) (c : Copy) : State :=
  s.modCore core fun k =>
    let mates := k.l1.filter fun x => !(x.line == c.line) && l1SetOf x.line == l1SetOf c.line
    let out := if l1Ways ≤ mates.length then victim (mates.map fun x => (x.line, x.policy)) (Config.pick (s.draw + s.fresh)) else none
    { k with l1 := { c with policy := placed c.policy (mates.countP (·.policy == 2)) (l1Ways / 2) } ::
        k.l1.filter fun x => !(x.line == c.line) && !(out == some x.line) }

/-- A hit makes an L1 line the one used last (R155). -/
def State.touchL1 (s : State) (core ln : Nat) : State :=
  s.modCore core fun k => { k with l1 := k.l1.filter (·.line == ln) ++ k.l1.filter fun x => !(x.line == ln) }

/-- Whether a store of a die to a remote line has arrived at its home and is not yet acknowledged: the die's copy has still to take
it, and grants no lease meanwhile (R154, R191, R192). -/
def State.copyAwaits (s : State) (d ln : Nat) : Bool := s.reqs.any fun q => dieOf q.core == d && q.place.line == some ln && match q.phase with
  | .done w _ _ _ => decide (0 < w)
  | _ => false

/-- The copy of a remote line that serves a load of its die, for a thread's acquire stamp. -/
def State.servingCopy (s : State) (d ln : Nat) (stamp : Option Nat) : Option Copy :=
  if s.copyAwaits d ln then none else (s.dieCopy d ln).filter (·.after stamp)

/-- The level that serves a core's load at its line's home (R419): an L2 slice, or the memory behind it. -/
def servingLevel (core ln : Nat) (hit : Bool) : Nat :=
  let here := homeDie (64 * ln) == dieOf core
  if hit then (if here then 2 else 3) else if inHbm (64 * ln) then (if here then 4 else 5) else 6

/-- A core's request reaches its line's home: the L2 slice there holds the line from then on (R157). With the level that serves a load. -/
def State.atHome (s : State) (core ln policy : Nat) : State × Nat :=
  let u := s.useL2 (s.isolatedAt core) (homeDie (64 * ln)) ln policy
  (u.1, servingLevel core ln u.2)

/-- A core obtains a line (R153, R154): from its home, or from its die's copy of a remote line; under a lease, unless the policy passes
the L1 by (R155). A die's copy that brings a store it had not received gives it a write time past every lease granted on the die, so that
its agents agree on the store's place (R191, R192; log entry 22). -/
def State.grant (s : State) (c ln : Nat) (stamp : Option Nat) (policy : Nat) : State × Copy :=
  let d := dieOf c
  let t := (s.core c).ctime
  let lease (n : Nat) : Nat := if policy = 3 then 0 else n
  if homeDie (64 * ln) = d then
    let u := s.atHome c ln policy
    let s := if policy = 3 then u.1 else u.1.modLine ln fun x => { x with rts := max x.rts (t + 255), lapse := max x.lapse (s.clk + 4096) }
    (s, { line := ln, data := s.lineData ln, wts := (s.line ln).wts, rts := (s.line ln).rts, grant := s.clk, level := u.2, policy := policy })
  else match s.servingCopy d ln stamp with
    | some k =>
      let rts := t + min 255 ((k.grant + 4096 - s.clk) / 16)
      ((s.useL2 (s.isolatedAt c) d ln policy).1.modDieLine d ln fun y => { y with rts := max y.rts (lease rts) },
        { k with rts := rts, level := 2, policy := policy })
    | none =>
      let u := s.atHome c ln policy
      let h := (s.line ln).wts
      let y := s.dieLine d ln
      let w := if y.home = h then y.wts else max h (y.rts + 1)
      let k : Copy := { line := ln, data := s.lineData ln, wts := w, rts := t + 255, grant := s.clk, level := u.2, policy := policy }
      let s := (u.1.modLine ln fun x => { x with remote := max x.remote (s.clk + 4096) }).modDieLine d ln fun y =>
        { y with home := h, wts := w, rts := max (max y.rts w) (lease (t + 255)) }
      ((s.useL2 (s.isolatedAt c) d ln policy).1.modDie d fun x => { x with copies := k :: x.copies.filter fun z => !(z.line == ln) }, k)

/-- Whether a load of a line goes to the home and not to the die's copy. -/
def State.goesHome (s : State) (c ln : Nat) (stamp : Option Nat) : Bool :=
  homeDie (64 * ln) == dieOf c || (s.servingCopy (dieOf c) ln stamp).isNone

/-- Whether a core may still use a copy (R153, R195). -/
def State.usable (s : State) (c : Nat) (k : Copy) (stamp : Option Nat) : Bool :=
  decide ((s.core c).ctime ≤ k.rts) && decide (s.clk < k.grant + 4096) &&
    (homeDie (64 * k.line) == dieOf c || k.after stamp)

/-- The logical time that a core's store brings to its home (R153): its ctime, and for a remote line also past the leases that its own
die's copy has granted, so that the agents of the die agree on it (R191, R192). -/
def State.storeTime (s : State) (core ln : Nat) : Nat :=
  if homeDie (64 * ln) = dieOf core then (s.core core).ctime else max (s.core core).ctime ((s.dieLine (dieOf core) ln).rts + 1)

/-- The same of an engine of a core's die, which has no ctime of its own. -/
def State.engineTime (s : State) (core ln : Nat) : Nat := if homeDie (64 * ln) = dieOf core then 0 else (s.dieLine (dieOf core) ln).rts + 1

/-- Raise a core's logical time. -/
def State.raiseCtime (s : State) (c w : Nat) : State := s.modCore c fun x => { x with ctime := max x.ctime w }

/-- What reaches a request's thread carries a write time (R153): to its core, or, while its block is saved, to the core it returns to. -/
def State.reachTime (s : State) (r : Req) (w : Nat) : State :=
  let s := s.raiseCtime r.core w
  { s with saved := s.saved.map fun x => if x.bundles.any (·.id == r.bundle) then { x with time := max x.time w } else x }

/-! Holds and sender queues. -/

/-- Whether a request that reaches a line is held there, or stands behind one that is (R200). -/
def State.mustHold (s : State) (r : Req) (ln : Nat) (wr : Bool) : Bool :=
  s.lineHeld ln (r.bundle, r.lane) wr || s.reqs.any fun q => !(q.id == r.id) && q.place.line == some ln && match q.held, r.held with
    | some a, some b => decide (a < b)
    | some _, none => true
    | none, _ => false

/-- Hold a request at its home, in its order of arrival. -/
def State.holdReq (s : State) (r : Req) : State :=
  if r.held.isSome then s else (s.modReq r.id fun x => { x with held := some s.fresh }).next

/-- The sender queue of its core that a request leaves through (R156): that to the L2, or that to a slice's Clamp. -/
def Req.queue (r : Req) : Option (Nat × Nat) := match r.kind, r.place with
  | .object _ _, .mem pa => some (homeDie pa, homeSlice pa)
  | .call _ _, .mem pa => some (homeDie pa, homeSlice pa)
  | _, _ => none

/-- The die boundaries on the way from one die to another: along x, then along y (R8). -/
def route (a b : Nat) : List (Nat × Nat) :=
  let x := a / 2 * 2 + b % 2
  (if x = a then [] else [(a, x)]) ++ (if x = b then [] else [(x, b)])

/-- The die boundaries that a request crosses. -/
def Req.crossing (r : Req) : List (Nat × Nat) := match r.place with
  | .mem pa => route (dieOf r.core) (homeDie pa)
  | _ => []

/-- Whether the receiver's queue has taken a request: it is held or waits there, or its answer is under way. -/
def Req.arrived (r : Req) : Bool := r.held.isSome || r.copy.isSome || match r.phase, r.kind with
  | .done _ _ _ _, _ => true
  | .waiting, _ => true
  | .sent, .object _ _ => true
  | .sent, .call _ _ => true
  | _, _ => false

/-- Whether a request was dropped and has not arrived since (R156). -/
def Req.dropped (r : Req) : Bool := decide (0 < r.naks) && !r.arrived

/-- Whether a request is known to be on its way. -/
def Req.onWay (r : Req) : Bool := (r.phase == .sent && !r.arrived) || r.held.isSome || r.dropped

/-- Whether a dropped request holds back another of its sender queue, until it has arrived again (R156): of the same core and queue; or,
where a die boundary's queue dropped it, across the same boundary and of the same reserved entries. -/
def State.dropsWith (s : State) (q r : Req) : Bool := q.dropped && decide (q.id < r.id) &&
  (match q.link with
    | some x => r.crossing.contains x && s.isolatedAt q.core == s.isolatedAt r.core
    | none => q.core == r.core && q.queue == r.queue)

/-- Whether a request may reach its home: no earlier dropped one of its sender queue has still to arrive, and the replay windows of 64,
of its core's queue and of each die boundary that it crosses, have room (R156). -/
def State.reaches (s : State) (r : Req) : Bool :=
  let room (p : Req → Bool) : Bool := decide ((s.reqs.filter fun q => decide (q.id < r.id) && p q).length < 64)
  r.resend.isNone && s.reqs.all (fun q => !(s.dropsWith q r)) &&
  room (fun q => q.core == r.core && q.queue == r.queue && q.onWay) &&
  r.crossing.all fun x => room fun q => q.crossing.contains x && s.isolatedAt q.core == s.isolatedAt r.core &&
    ((q.phase == .sent && !q.arrived) || q.dropped)

/-- CTIME_TICK: logical time advances by 1 every 16 clk (R153). -/
def execCtimeTick (core : Nat) (s : State) : Host.Outcome State Fault Refusal :=
  .next (if (s.core core).tick + 16 ≤ s.clk then
    s.modCore core fun c => { c with ctime := c.ctime + 1, tick := c.tick + 16 } else s)

/-- REMOTE_COPY_EXPIRY: a die's copy lapses (R154). -/
def execRemoteCopyExpiry (die line : Nat) (s : State) : Host.Outcome State Fault Refusal :=
  .next (s.modDie die fun d =>
    let gone := d.copies.any fun c => c.line == line && decide (c.grant + 4096 ≤ s.clk)
    { d with copies := d.copies.filter fun c => !(c.line == line && decide (c.grant + 4096 ≤ s.clk))
             l2 := d.l2.filter fun x => !(gone && x.line == line) })

/-- The back-off after the k-th consecutive negative acknowledgement (R156). -/
def backoff (base k : Nat) : Nat := base * 2 ^ min (k - 1) 6

/-- NEGATIVE_ACKNOWLEDGEMENT: a full queue drops a request on its way (R156): at its home's slice or a die boundary, or an MSPT at
the Carver; in deterministic mode none does (R424). -/
def execNegativeAcknowledgement (op : Nat) (s : State) : Host.Outcome State Fault Refusal :=
  .next (match s.req? op with
    | none => match s.tiles.find? (·.id == op) with
      | none => s
      | some t =>
        if !t.sparse || !t.issued || t.bind ≠ 0 || t.resend.isSome || (s.part (s.partAt t.bundle)).det then s
        else { s with tiles := upd s.tiles (·.id == op) fun t =>
          { t with naks := t.naks + 1, resend := some (s.clk + backoff (s.die (dieOf t.core)).backoff (t.naks + 1)) } }
    | some r => if r.arrived || r.resend.isSome || (s.part (s.partAt r.bundle)).det then s else (s.modReq op fun r =>
        { r with naks := r.naks + 1, link := if Config.choice s.draw then r.crossing[Config.pick s.draw % r.crossing.length]? else none
                 resend := some (s.clk + backoff (s.die (dieOf r.core)).backoff (r.naks + 1)) }).drawn)

/-- BACKOFF_RESEND: the sender resends the dropped request and everything after it (R156). -/
def execBackoffResend (op : Nat) (s : State) : Host.Outcome State Fault Refusal :=
  .next (match s.req? op with
    | none => { s with tiles := upd s.tiles (fun t => t.id == op && t.resend.any fun c => decide (c ≤ s.clk)) fun t => { t with resend := none } }
    | some r => match r.resend with
      | some c => if c ≤ s.clk then s.modReq op fun r => { r with resend := none } else s
      | none => s)

end Sys2Proof.Machine
end

