-- ==== Sys2Proof/Machine/Memory.lean ====
section
/-! DEFINITION. Loads and stores (R158 to R162, R417): their issue, how a store enters the L1 or an array, reaches its home and is
acknowledged (R147 to R155), and how a load's value is bound (R148, R149, R191). -/

namespace Sys2Proof.Machine

/-! Transactional bytes (R244). -/

/-- The bytes of a set of lines that an access covers, by offset. -/
def txCover (ls : List TxLine) (pa n : Nat) : List (Nat × Byte) :=
  (List.range n).filterMap fun i =>
    ((ls.find? (·.line == (pa + i) / 64)).bind fun x => x.bytes.lookup ((pa + i) % 64)).map fun v => (i, v)

/-- Put bytes into a set of lines. -/
def txPut (ls : List TxLine) (pa : Nat) (bs : List (Nat × Byte)) : List TxLine :=
  bs.foldl (fun ls x =>
    let ln := (pa + x.1) / 64
    let o := (pa + x.1) % 64
    if ls.any (·.line == ln) then
      upd ls (·.line == ln) fun t => { t with bytes := (t.bytes.filter fun y => !(y.1 == o)) ++ [(o, x.2)] }
    else ls ++ [{ line := ln, bytes := [(o, x.2)] }]) ls

/-- A place's address as a transaction's sets know it: a peer's memory lies above every physical address. -/
def Place.txAddr : Place → Option Nat
  | .mem pa => some pa
  | .peer k va => some (2 ^ 64 * (k + 1) + va)
  | _ => none

/-- The peer and its address that a line of a transaction's sets names. -/
def txPeer (ln : Nat) : Option (Nat × Nat) := if ln < 2 ^ 58 then none else some (ln / 2 ^ 58 - 1, 64 * (ln % 2 ^ 58))

/-- Bytes of one line of a peer's memory go there (R162); a Carver entry that watches the line is invalidated, as by any store (R313). -/
def State.toPeer (s : State) (p k va : Nat) (bs : List Byte) : State :=
  (s.send p (Message.peer k (leBytes 8 va ++ bs))).carverTouch ((2 ^ 64 * (k + 1) + va) / 64)

/-! Issue. -/

/-- The effective address of a form-M instruction (R144). -/
def Thread.ea {w : Nat} (t : Thread) (p : BitVec 6) (o : BitVec w) (scale : Nat) : DWord :=
  t.pair (2 * p.toNat) + BitVec.ofNat 64 (o.toNat * scale)

/-- A new request of a lane. -/
def State.newReq (s : State) (g : Group) (b : Bundle) (l stream : Nat) (kind : ReqKind) (place : Place) (ea : DWord)
    (size entry : Nat) : Req :=
  { id := s.fresh, entry := entry, core := b.core, bundle := b.id, lane := l, stream := stream, kind := kind, place := place
    ea := ea, size := size, pc := g.start, issued := s.clk
    issuedTime := BitVec.ofNat 64 (s.timeIn (s.partOf b) (dieOf b.core)), retired := ((s.blockOf b).map (·.retired)).getD 0 }

/-- Add a request behind all others. -/
def State.addReq (s : State) (r : Req) : State :=
  let s := { s with reqs := s.reqs ++ [r] }.next
  match r.place.line with
  | some ln => s.touch (64 * ln)
  | none => s

/-- How a load lane is sampled (R417, R418): 2 an LDSMP.w, 1 every N-th load lane of the core, 0 not. -/
def State.sampleOf (s : State) (b : Bundle) (smp : Bool) : State × Nat :=
  let q := s.part (s.partOf b)
  if bit q.control.toNat 0 then
    let n := (s.core b.core).sampled + 1
    let s := s.modCore b.core fun c => { c with sampled := n }
    (s, if smp then 2 else if q.period ≠ 0 && n % q.period == 0 then 1 else 0)
  else (s, 0)

/-- A load of a lane inside a transaction (R244): the read set takes the line; bytes of the write set come from there. A peer's
memory takes part as the package's own does. -/
def State.issueTxLoad (s : State) (g : Group) (b : Bundle) (l stream : Nat) (kind : ReqKind) (pl : Place) (ea : DWord)
    (size entry : Nat) (x : Tx) : State × LaneEnd :=
  let r := s.newReq g b l stream kind pl ea size entry
  match pl.txAddr with
  | some pa =>
    let own := txCover x.writes pa size
    if own.length = size then (s.addReq { r with tx := true, own := own, phase := .done 0 0 0 [] }, .next)
    else
      let known := x.reads.any (·.line == pa / 64)
      if !known && decide (16 ≤ x.reads.length) then (s.abortTx b.id l 0x00020000#32, .gone)
      else
        let reads := if known then x.reads else x.reads ++ [{ line := pa / 64, bytes := [] }]
        ((s.modThread b.id l fun t => { t with tx := some { x with reads := reads } }).addReq { r with tx := true, own := own }, .next)
  | none => (s.addReq { r with tx := true }, .next)

/-- A load of a lane (R158, R160, R417): its destination is pending from then on (R93), unless its transaction aborts instead. -/
def State.issueLoad (s : State) (g : Group) (b : Bundle) (l stream : Nat) (ea : DWord) (size code dst : Nat)
    (acq : Option Nat) (smp : Bool) (entry : Nat) : State × LaneEnd :=
  let pl := s.place b stream ea size
  let s := s.offend b pl (spaceOf (s.streamWord b stream)) ea
  let m := s.sampleOf b smp
  let s := m.1
  let kind := ReqKind.load code dst acq m.2
  let r := match (s.thread b.id l).tx with
    | some x => s.issueTxLoad g b l stream kind pl ea size entry x
    | none => (s.addReq (s.newReq g b l stream kind pl ea size entry), .next)
  if r.2 = .next then (r.1.modThread b.id l fun t => t.marks dst .pending (ldRegs code), .next) else r

/-- Whether a store's bundle counts for its block's Calipers (R349), and the address they see (R350). -/
def Bundle.counts (b : Bundle) : Bool := match b.owner with
  | .block _ => true
  | _ => false
def calAddr (space : Nat) (ea : DWord) : Nat := if space = 1 ∨ space = 2 then bits ea.toNat 31 0 else ea.toNat

/-- A line's home registers it for an irrevocable holder, behind those it is registered for (R249). -/
def State.enroll (s : State) (who : Nat × Nat) (ln : Nat) : State := s.modLine ln fun y => { y with irr := distinct (y.irr ++ [who]) }

/-- A store of a lane inside a transaction (R244): into the write set. -/
def State.issueTxStore (s : State) (b : Bundle) (l stream : Nat) (pl : Place) (ea : DWord) (bs : List Byte) (cal : Bool)
    (x : Tx) : State × LaneEnd :=
  match pl.txAddr with
  | some pa =>
    let writes := txPut x.writes pa ((List.range bs.length).map fun i => (i, bs.getD i 0))
    let s := if x.irrevocable && (txPeer (pa / 64)).isNone then s.enroll (b.id, l) (pa / 64) else s
    if 8 < writes.length then (s.abortTx b.id l 0x00020001#32, .gone)
    else (s.modThread b.id l fun t => { t with tx := some { x with
      writes := writes, streams := distinct (x.streams ++ [stream]), counted := if cal then x.counted ++ [(s.clk, stream, ea, bs)] else x.counted } }, .next)
  | none => (s, .next)

/-- A store of a lane (R159, R160): into its bundle's queue; it counts for the Calipers at issue. -/
def State.issueStore (s : State) (g : Group) (b : Bundle) (l stream : Nat) (ea : DWord) (bs : List Byte) (rel : Option Nat)
    (entry : Nat) : State × LaneEnd :=
  let w := s.streamWord b stream
  let pl := s.place b stream ea bs.length
  let s := s.offend b pl (spaceOf w) ea
  let cal := b.counts && calOf w
  match (s.thread b.id l).tx with
  | some x => s.issueTxStore b l stream pl ea bs cal x
  | none =>
    let s := if cal then s.modBlk b fun k => k.countStore s.clk stream (calAddr (spaceOf w) ea) bs else s
    (s.addReq (s.newReq g b l stream (.store bs rel) pl ea bs.length entry), .next)

/-- Data bytes of a store: n bytes from consecutive registers. -/
def Thread.storeData (t : Thread) (d n : Nat) : List Byte := (bytesOf (t.vals d ((n + 3) / 4))).take n

/-- Run a load: stream, size, code, destination, address, scope field of an acquire. Its lanes share an entry (R150). -/
def runLoad (i : Instr) (stream size code dst : Nat) (ea : Thread → DWord) (acq : Option Nat) (smp : Bool) (s : State) : Result :=
  runEntry i (fun s _ b _ t => s.accessChecks b stream (ea t) size true false) (fun entry s g b l =>
    s.issueLoad g b l stream (ea (s.thread b.id l)) size code dst (acq.map fun f => s.resolveScope b f stream) smp entry) s

/-- Run a store: one entry for all its lanes (R147). -/
def runStore (i : Instr) (stream size src : Nat) (ea : Thread → DWord) (rel : Option Nat) (s : State) : Result :=
  runEntry i (fun s _ b _ t => s.accessChecks b stream (ea t) size false true) (fun entry s g b l =>
    s.issueStore g b l stream (ea (s.thread b.id l)) ((s.thread b.id l).storeData src size)
      (rel.map fun f => s.resolveScope b f stream) entry) s

def execLd (o : BitVec 6) (z : BitVec 3) (st : BitVec 4) (p : BitVec 6) (d : BitVec 7) (s : State) : Result :=
  runLoad (.ld o z st p d) st.toNat (ldBytes z.toNat) z.toNat d.toNat (·.ea p o (ldBytes z.toNat)) none false s
def execSt (o : BitVec 6) (z : BitVec 3) (st : BitVec 4) (p : BitVec 6) (d : BitVec 7) (s : State) : Result :=
  runStore (.st o z st p d) st.toNat (stBytes z.toNat) d.toNat (·.ea p o (stBytes z.toNat)) none s
def execLdacqW (k : BitVec 3) (st : BitVec 4) (p : BitVec 6) (d : BitVec 7) (s : State) : Result :=
  runLoad (.ldacqW k st p d) st.toNat 4 4 d.toNat (·.ea p 0#6 1) (some k.toNat) false s
def execLdacqD (k : BitVec 3) (st : BitVec 4) (p : BitVec 6) (d : BitVec 7) (s : State) : Result :=
  runLoad (.ldacqD k st p d) st.toNat 8 5 d.toNat (·.ea p 0#6 1) (some k.toNat) false s
def execStrelW (k : BitVec 3) (st : BitVec 4) (p : BitVec 6) (d : BitVec 7) (s : State) : Result :=
  runStore (.strelW k st p d) st.toNat 4 d.toNat (·.ea p 0#6 1) (some k.toNat) s
def execStrelD (k : BitVec 3) (st : BitVec 4) (p : BitVec 6) (d : BitVec 7) (s : State) : Result :=
  runStore (.strelD k st p d) st.toNat 8 d.toNat (·.ea p 0#6 1) (some k.toNat) s
def execLdsmpW (o : BitVec 6) (st : BitVec 4) (p : BitVec 6) (d : BitVec 7) (s : State) : Result :=
  runLoad (.ldsmpW o st p d) st.toNat 4 4 d.toNat (·.ea p o 4) none true s

/-- PFETCH of a lane (R161): the line comes into the L2, and into the L1 unless the policy passes it by.
One that its home holds back is dropped (the model's choice, log entry 128). -/
def State.prefetch (s : State) (b : Bundle) (l stream : Nat) (ea : DWord) : State :=
  let w := s.streamWord b stream
  let a := ea.toNat / 64 * 64
  if spaceOf w = 1 ∨ spaceOf w = 2 ∨ 2 ^ 56 ≤ ea.toNat then s
  else if !((s.ranges b stream).any fun x => inside a 64 x.base x.len) then s
  else match s.globalPlace b stream (BitVec.ofNat 64 a) with
    | .mem pa =>
      if s.lineHeld (pa / 64) (b.id, l) false then s
      else
        let r := s.grant b.core (pa / 64) none (policyOf w)
        if policyOf w = 3 then r.1 else r.1.putL1 b.core r.2
    | _ => s

def execPfetch (o : BitVec 6) (st : BitVec 4) (p : BitVec 6) (s : State) : Result :=
  runLanes (.pfetch o st p) noCheck (fun s _ b l =>
    (s.prefetch b l st.toNat ((s.thread b.id l).ea p o 64), .next)) s

/-! Order of a request among its thread's others (R149, R160, R195, R241, R255). -/

/-- The lanes a request serves. -/
def Req.lanes (r : Req) : List Nat := r.lane :: r.also

/-- Whether a request's answer is done. -/
def Phase.isDone : Phase → Bool
  | .done _ _ _ _ => true
  | _ => false

/-- Whether an earlier access holds back every later access of its thread: an unbound acquire. -/
def Req.acquiring (r : Req) : Bool := match r.kind with
  | .load _ _ (some _) _ => true
  | .future 5 _ _ => true
  | .call _ _ => true
  | _ => false

/-- Whether an earlier load or ATOM holds back later accesses of a stream: until its logical time is the core's (R191, R241). -/
def Req.unbound (r : Req) : Bool := match r.kind with
  | .load _ _ _ _ => true
  | .atom _ _ _ _ _ => !r.phase.landed
  | _ => false

/-- The earlier requests of the threads that a request serves. -/
def State.earlier (s : State) (r : Req) : List Req :=
  s.reqs.filter fun q => decide (q.id < r.id) && r.lanes.any fun l => q.of r.bundle l

/-- Whether the thread order lets a request perform. -/
def State.inOrder (s : State) (r : Req) : Bool :=
  (s.earlier r).all fun q => !(q.acquiring || (q.unbound && (r.tx || q.stream == r.stream)))

/-! Stores into the L1 or an array (R147, R148, R171). -/

/-- The L1 copies of a core take a store's bytes (R152). -/
def Core.takeStore (c : Core) (pa : Nat) (bs : List Byte) : Core :=
  { c with l1 := c.l1.map fun k => if k.line == pa / 64 then { k with data := patch k.data (pa % 64) bs } else k }

/-- The line of a stash map that an offset of the allotment lies in. -/
def StashMap.lineAt (m : StashMap) (off : Nat) : StashLine :=
  (m.lines.find? (·.idx == (off - m.window) / 64)).getD { idx := (off - m.window) / 64 }

/-- Change a line of a map. -/
def StashMap.modLine (m : StashMap) (i : Nat) (f : StashLine → StashLine) : StashMap :=
  if m.lines.any (·.idx == i) then { m with lines := upd m.lines (·.idx == i) f }
  else { m with lines := m.lines ++ [f { idx := i }] }

/-- Change a line of a block's map. -/
def State.modStash (s : State) (k m i : Nat) (f : StashLine → StashLine) : State :=
  s.modBlock k fun x => { x with maps := upd x.maps (·.id == m) (·.modLine i f) }

/-- A map of a block. -/
def State.stashMap (s : State) (k m : Nat) : Option StashMap := (s.block? k).bind fun x => x.maps.find? (·.id == m)

/-- Whether a stash line of physical address pa can be used by its core now (R171), for a thread's acquire stamp (R195). -/
def State.stashUsable (s : State) (core pa : Nat) (stamp : Option Nat) (x : StashLine) : Bool := match x.state with
  | .untouched => false
  | .clean => decide ((s.core core).ctime ≤ x.rts) && decide (s.clk < x.grant + 4096) && (homeDie pa == dieOf core || match stamp with
      | none => true
      | some t => decide (t < x.grant))
  | .dirty => true
  | .writing => true

/-- A store stands in the write-through buffer, behind those that entered before it. -/
def State.toBuffer (s : State) (r : Req) : State :=
  { s with reqs := (s.reqs.filter fun (q : Req) => !(q.id == r.id)) ++ [{ r with phase := .sent }] }

/-- One lane of a store enters the L1's buffer, its array or its stash line. -/
def State.enter (s : State) (r : Req) (bs : List Byte) : State :=
  match r.place with
  | .mem pa => State.staleCode ((s.toBuffer r).modCore r.core (·.takeStore pa bs)) s pa bs.length
  | .peer _ _ => s.toBuffer r
  | .spad k off => (s.spadWrite k off bs).dropReq r.id
  | .stash k m off _ => match s.stashMap k m with
    | none => s.dropReq r.id
    | some x =>
      let i := (off - x.window) / 64
      let new := (List.range bs.length).map fun j => ((off - x.window) % 64 + j, bs.getD j 0)
      ((s.spadWrite k off bs).modStash k m i fun y => { y with
        state := .dirty, bytes := (y.bytes.filter fun z => !(new.any (·.1 == z.1))) ++ new
        bundles := distinct (y.bundles ++ [r.bundle]), streams := distinct (y.streams ++ [r.stream]) }).dropReq r.id
  | .nowhere => s.dropReq r.id

/-- The policy of a request's stream (R141); its block may be saved. -/
def State.policyFor (s : State) (r : Req) : Nat := match s.bundle? r.bundle with
  | some b => policyOf (s.streamWord b r.stream)
  | none => match s.saved.find? fun x => x.bundles.any (·.id == r.bundle) with
    | some x => policyOf (x.block.streams.getD r.stream 0)
    | none => 0

/-- The stamp that a thread's loads obey (R195). -/
def State.stampOf (s : State) (r : Req) : Option Nat := ((s.anyBundle r.bundle).bind (·.threads[r.lane]?)).bind (·.stamp)

/-- Whether a lane of a store may leave its queue: after the earlier stores, loads and ATOMs of its stream and the thread's
acquires; a release after all it waits for; a stash store once its line is there. -/
def State.mayEnter (s : State) (r : Req) : Bool :=
  s.inOrder r &&
  (match r.kind, s.anyBundle r.bundle with
    | .store _ (some sc), some b => s.allPerformed b r.lane sc 0 (some r.id)
    | _, _ => true) &&
  (match r.place with
    | .stash k m off pa => match s.stashMap k m with
      | some x => s.stashUsable r.core pa (s.stampOf r) (x.lineAt off)
      | none => true
    | _ => true)

/-- Whether a queue entry is the first of its bundle's stream (R147). -/
def State.firstInStream (s : State) (r : Req) : Bool :=
  s.reqs.all fun q => !(q.bundle == r.bundle && q.stream == r.stream && decide (q.entry < r.entry) && q.phase == .issued &&
    (match q.kind with
      | .store _ _ => true
      | _ => false))

/-- Start the write-back of stash lines of a block (R172): the lines chosen among the dirty ones. -/
def State.writeBack (s : State) (k : Block) (p : StashMap → StashLine → Bool) : State :=
  k.maps.foldl (fun s m => m.lines.foldl (fun s x =>
    if x.state == .dirty && p m x then
      let va := m.base + 64 * x.idx
      match (s.task? k.task).bind fun t => translate t.xlat va with
      | none => s
      | some pa =>
        let bs := (List.range 64).filterMap fun o => (x.bytes.lookup o).map fun v => (o, v)
        let s := s.modStash k.id m.id x.idx fun y => { y with state := .writing, bytes := [], bundles := [], streams := [] }
        s.addReq { id := s.fresh, entry := s.fresh, core := k.core, bundle := x.bundles.getD 0 0, lane := 32, stream := x.streams.getD 0 0
                   kind := .writeback k.id m.id x.idx bs x.bundles x.streams, place := .mem pa, ea := BitVec.ofNat 64 va, size := 64
                   pc := 0, phase := .sent, issued := s.clk }
    else s) s) s

/-- Start the write-back of the lines that a thread's bundle dirtied (R172). -/
def State.writeBackFor (s : State) (b : Bundle) : State := match s.blockOf b with
  | none => s
  | some k => s.writeBack k fun _ x => x.bundles.contains b.id

/-- Drain a store's queue entry, all its lanes in rising order (R147, R150). A release of any scope starts the write-back of the stash
lines that its bundle dirtied (R172, R196). -/
def State.drainEntry (s : State) (r : Req) : State :=
  let es := s.reqs.filter fun q => q.entry == r.entry && q.phase == .issued
  if !(s.firstInStream r) then s
  else
  let s := match r.kind, s.bundle? r.bundle with
    | .store _ (some _), some b => s.writeBackFor b
    | _, _ => s
  if es.all s.mayEnter then
    es.foldl (fun s q => match q.kind with
      | .store bs _ => s.enter q bs
      | _ => s) s
  else s

/-! Stores at their home (R153) and their acknowledgement (R148, R154, R204). -/

/-- Whether a request is a store or a write-back in the write-through buffer. -/
def Req.buffered (r : Req) : Bool := r.phase == .sent && match r.kind with
  | .store _ _ => true
  | .writeback _ _ _ _ _ _ => true
  | _ => false

/-- Whether two accesses go to one slice: of a peer, whose slices are not known here, to one line. -/
def Place.oneSlice (p q : Place) : Bool := match p, q with
  | .mem x, .mem y => homeSlice x == homeSlice y && homeDie x == homeDie y
  | .peer k x, .peer j y => k == j && x / 64 == y / 64
  | _, _ => false

/-- Whether what must reach a slice before a store or an ATOM has: the earlier stores of its stream and the lower lanes of its instruction
(R150, R152), and stores of its core to the same bytes that are in the L1 (R148, R238; log entry 102). What the L1 holds stands in the
order in which it entered; an ATOM that goes to its home itself follows what its stream has issued before it. -/
def State.sliceOrder (s : State) (r : Req) : Bool :=
  if r.buffered then
    (s.reqs.takeWhile fun q => !(q.id == r.id)).all fun q => !(q.buffered && ((q.core == r.core && r.place.meets r.size q.place q.size) ||
      (q.bundle == r.bundle && q.stream == r.stream && r.place.oneSlice q.place)))
  else s.reqs.all fun q => !(q.buffered && ((q.core == r.core && r.place.meets r.size q.place q.size) ||
    (q.bundle == r.bundle && q.stream == r.stream && decide (q.entry < r.entry) && r.place.oneSlice q.place)))

/-- The lapse clocks that the home reports with an acknowledgement (R204): for the storing die, and for all dies. -/
def State.lapseClocks (s : State) (core ln : Nat) : Nat × Nat :=
  let x := s.line ln
  (if homeDie (64 * ln) = dieOf core then x.lapse else x.remote, max x.lapse x.remote)

/-- A request has been applied at its home. -/
def State.doneAt (s : State) (op : Nat) (w : Nat) (lapse : Nat × Nat) (res : List Word) : State :=
  s.modReq op fun r => { r with phase := .done w lapse.1 lapse.2 res, held := none }

/-- The fresh lease of a stash line that its write-back brings (R172): known at the home, or to the die's record of a remote line, whose
copies lapse with it (R154, R204). -/
def State.stashLease (s : State) (core ln rts : Nat) : State :=
  if homeDie (64 * ln) = dieOf core then s.modLine ln fun x => { x with rts := max x.rts rts, lapse := max x.lapse (s.clk + 4096) }
  else (s.modLine ln fun x => { x with remote := max x.remote (s.clk + 4096) }).modDieLine (dieOf core) ln fun y => { y with rts := max y.rts rts }

/-- A store or a write-back arrives at its home slice. -/
def State.storeArrives (s : State) (r : Req) : State :=
  match r.place with
  | .mem pa =>
    let ln := pa / 64
    if !(s.reaches r) || !(s.sliceOrder r) then s
    else if s.mustHold r ln true then s.holdReq r
    else
      let lapse := s.lapseClocks r.core ln
      let t := s.storeTime r.core ln
      let s := (s.atHome r.core ln (s.policyFor r)).1
      match r.kind with
      | .store bs _ =>
        let h := s.homeStore t pa bs
        h.1.doneAt r.id h.2 lapse []
      | .writeback k m i bs _ _ =>
        let h := s.homeBytes t ln (bs.map fun x => (pa + x.1, x.2))
        let s := h.1.stashLease r.core ln (h.2 + 255)
        let s := s.modStash k m i fun y => { y with wts := h.2, rts := h.2 + 255, grant := s.clk, home := s.lineData ln }
        s.doneAt r.id h.2 lapse []
      | _ => s
  | .peer k va => if !(s.reaches r) || !(s.sliceOrder r) || s.compileHolds ((2 ^ 64 * (k + 1) + va) / 64) then s else match r.kind with
    | .store bs _ => (s.toPeer (s.partAt r.bundle) k va bs).doneAt r.id 0 (0, 0) []
    | _ => s
  | _ => s

/-- A copy takes a store that is newer than it. -/
def Copy.take (k : Copy) (ln w : Nat) (bs : List (Nat × Byte)) : Copy :=
  if k.line == ln && decide (k.wts < w) then { k with wts := w, data := bs.foldl (fun ds x => patch ds (x.1 % 64) [x.2]) k.data } else k

/-- The storing die's copy of a remote line takes an acknowledged store, and so do the core's own and those on their way to it
(R148, R154). -/
def State.copyTakes (s : State) (core pa w : Nat) (bs : List (Nat × Byte)) : State :=
  if homeDie pa = dieOf core then s
  else
    let s := (s.modDie (dieOf core) fun d => { d with copies := d.copies.map fun k => k.take (pa / 64) w bs }).modDieLine (dieOf core) (pa / 64)
      fun y => if y.home < w then { y with home := w, wts := w, rts := max y.rts w } else y
    let s := s.modCore core fun c => { c with l1 := c.l1.map fun k => k.take (pa / 64) w bs }
    { s with reqs := upd s.reqs (fun q => q.core == core && !q.tx) fun q => { q with copy := q.copy.map fun k => k.take (pa / 64) w bs } }

/-- Whether a die's earlier stores to a remote line have been acknowledged: its copy takes them in the store order (R154, R191). -/
def State.ackOrder (s : State) (r : Req) (w : Nat) : Bool := match r.place with
  | .mem pa => homeDie pa == dieOf r.core || s.reqs.all fun q => q.id == r.id || !(dieOf q.core == dieOf r.core) ||
      !(q.place.line == some (pa / 64)) || match q.phase with
        | .done v _ _ _ => v == 0 || decide (w ≤ v)
        | _ => true
  | _ => true

/-- Whether a write-back of a stash line is under way. -/
def State.writingBack (s : State) (block map line : Nat) : Bool := s.reqs.any fun r => match r.kind with
  | .writeback k m i _ _ _ => k == block && m == map && i == line
  | _ => false

/-- A stash line after its last write-back (R172): clean with the lease and the bytes that it had at its home. -/
def State.cleaned (s : State) (k m i : Nat) : State :=
  match s.stashMap k m with
  | none => s
  | some x =>
    let off := x.window + 64 * i
    if (x.lineAt off).state == .writing && !(s.writingBack k m i) then
      (s.spadWrite k off (x.lineAt off).home).modStash k m i fun y => { y with state := .clean, home := [] }
    else s

/-- A thread keeps the lapse clocks of an acknowledged store (R204). -/
def State.addLapse (s : State) (b l stream : Nat) (x : Nat × Nat) : State :=
  s.landThread b l fun t => { t with lapses := t.lapses ++ [{ stream := stream, die := x.1, pkg := x.2 }] }

/-- The lapse clocks of a stash write-back go to the threads of the bundles that dirtied its line (R204). -/
def State.addLapses (s : State) (bundles streams : List Nat) (x : Nat × Nat) : State :=
  streams.foldl (fun s st => bundles.foldl (fun s b => (List.range (((s.anyBundle b).map (·.threads.length)).getD 0)).foldl
    (fun s l => s.addLapse b l st x) s) s) s

/-- The acknowledgement reaches the core: ctime rises, the lapse clocks are kept, the request ends (R148, R153, R204). -/
def State.acknowledge (s : State) (r : Req) : State :=
  match r.phase with
  | .done w ld lp _ =>
    if !(s.ackOrder r w) then s
    else
    let u := (s.reachTime r w).dropReq r.id
    match r.kind, r.place with
    | .store bs _, .mem pa =>
      let u := (u.staleCode s pa bs.length).copyTakes r.core pa w ((List.range bs.length).map fun i => (pa + i, bs.getD i 0))
      r.lanes.foldl (fun s l => s.addLapse r.bundle l r.stream (ld, lp)) u
    | .store _ _, _ => u
    | .writeback k m i bs bundles streams, .mem pa =>
      ((u.copyTakes r.core pa w (bs.map fun x => (pa + x.1, x.2))).cleaned k m i).addLapses bundles streams (ld, lp)
    | _, _ => u
  | _ => s

/-- LAPSE_CLOCK_PASSED: reported lapse clocks that have passed are forgotten (R204). -/
def execLapseClockPassed (bundle lane : Nat) (s : State) : Result :=
  .next (s.modThread bundle lane fun t => { t with lapses := t.lapses.filter fun x => !(decide (max x.die x.pkg < s.clk)) })

/-! Binding a load's value. -/

/-- What a load lane may return now: its bytes, the write time they carry, and the serving level. -/
structure Bound where
  bytes : List Byte
  wts : Nat := 0
  level : Nat := 0
  deriving DecidableEq, Repr

/-- The newest of a thread's queued stores that shares a byte with a load (R149). -/
def State.forwarder (s : State) (r : Req) : Option Req :=
  ((s.earlier r).filter fun q => q.stream == r.stream && q.phase == .issued && r.place.meets r.size q.place q.size &&
    (match q.kind with
      | .store _ _ => true
      | _ => false)).getLast?

/-- Whether another thread of the core has a store to a load's bytes that its home has not acknowledged (R148). -/
def State.heldByStore (s : State) (r : Req) : Bool :=
  s.reqs.any fun q => q.core == r.core && !(q.phase == .issued) && r.place.meets r.size q.place q.size && match q.kind with
    | .store _ _ => !(q.of r.bundle r.lane)
    | .writeback _ _ _ _ _ _ => true
    | _ => false

/-- A line's bytes with a thread's own stores that wait in the write-through buffer and are newer than the copy (R148). -/
def State.ownStores (s : State) (r : Req) (k : Copy) : List Byte :=
  let at_ := r.place.key.2 / 64
  s.reqs.foldl (fun bs q =>
    if q.of r.bundle r.lane && q.place.key.1 == r.place.key.1 && q.place.key.2 / 64 == at_ then match q.kind, q.phase with
      | .store ds _, .sent => patch bs (q.place.key.2 % 64) ds
      | .store ds _, .done w _ _ _ => if k.wts < w ∨ w = 0 then patch bs (q.place.key.2 % 64) ds else bs
      | _, _ => bs
    else bs) k.data

/-- The other lanes of a load's instruction, not yet bound, that read some of its bytes (R150). -/
def State.loadMates (s : State) (r : Req) : List Req := s.reqs.filter fun q => !(q.id == r.id) && q.entry == r.entry &&
  q.bundle == r.bundle && q.tx == r.tx && r.place.meets r.size q.place q.size && match q.kind with
    | .load _ _ _ _ => true
    | _ => false

/-- The bytes that a bound lane of a load shares with another lane of it are that lane's too (R150). -/
def State.shareLoad (s : State) (r : Req) (bs : List Byte) : State :=
  let ms := (s.loadMates r).map (·.id)
  let base := r.place.key.2
  { s with reqs := upd s.reqs (fun q => ms.contains q.id) fun q =>
      { q with own := q.own ++ ((List.range q.size).filter fun i => base ≤ q.place.key.2 + i && q.place.key.2 + i < base + bs.length &&
          !(q.own.any (·.1 == i))).map fun i => (i, bs.getD (q.place.key.2 + i - base) 0) } }

/-- The copy a load may use: one that a trip brought, or the core's L1 line; under L1-bypass the L2's line as it is now, after
a trip. -/
def State.copyFor (s : State) (r : Req) (policy : Nat) : Option Copy :=
  match r.place with
  | .mem pa =>
    if policy = 3 then match r.copy with
      | none => none
      | some k =>
        if homeDie pa = dieOf r.core then
          (if s.lineHeld (pa / 64) (r.bundle, r.lane) false then none
          else some { line := pa / 64, data := s.lineData (pa / 64), wts := (s.line (pa / 64)).wts, rts := 0, grant := s.clk, level := k.level })
        else (s.dieCopy (dieOf r.core) (pa / 64)).filter (·.after (s.stampOf r))
    else
      match r.copy.filter fun k => s.usable r.core k (s.stampOf r) with
      | some k => some k
      | none => ((s.core r.core).l1.find? fun k => k.line == pa / 64 && s.usable r.core k (s.stampOf r)).map
          fun k => { k with level := 0 }
  | _ => r.copy

/-- The value of a load lane from its place, or none while it must wait. -/
def State.bindPlace (s : State) (r : Req) (policy : Nat) : Option Bound :=
  match r.place with
  | .nowhere => some { bytes := List.replicate r.size 0 }
  | .spad k off => some { bytes := s.spadRead k off r.size }
  | .stash k m off pa => match s.stashMap k m with
    | some x => if s.stashUsable r.core pa (s.stampOf r) (x.lineAt off) then
        some { bytes := s.spadRead k off r.size, wts := (x.lineAt off).wts, level := 1 } else none
    | none => none
  | .mem pa =>
    if s.heldByStore r then none
    else (s.copyFor r policy).map fun k => { bytes := ((s.ownStores r k).drop (pa % 64)).take r.size, wts := k.wts, level := k.level }
  | .peer _ va =>
    if s.heldByStore r then none
    else r.copy.map fun k => { bytes := ((s.ownStores r k).drop (va % 64)).take r.size, level := 7 }

/-- The value of a load lane, or none while it must wait: with the bytes that another lane of its instruction has bound (R150), from
the thread's own queue (R149), or from its place. Lanes that share bytes are bound together: no lane goes before another may. -/
def State.bind (s : State) (r : Req) (policy : Nat) : Option Bound :=
  let ms := s.loadMates r
  if !(s.inOrder r) || ms.any (fun q => !(s.inOrder q) || (s.forwarder q).isSome || s.heldByStore q) then none
  else if r.own.length = r.size then some { bytes := r.own.foldl (fun bs x => patch bs x.1 [x.2]) (List.replicate r.size 0) }
  else match s.forwarder r with
    | some q => match q.kind with
      | .store ds _ => if ms.isEmpty && r.place.within r.size q.place q.size then
          some { bytes := (ds.drop (r.place.key.2 - q.place.key.2)).take r.size } else none
      | _ => none
    | none => (s.bindPlace r policy).map fun v => { v with bytes := r.own.foldl (fun bs x => patch bs x.1 [x.2]) v.bytes }

/-- A transactional load's value (R244): its own writes over the bytes of the home. -/
def Req.txBound (r : Req) : Option Bound :=
  let withOwn (bs : List Byte) := r.own.foldl (fun bs x => patch bs x.1 [x.2]) bs
  if r.phase.isDone then some { bytes := withOwn (List.replicate r.size 0) }
  else match r.copy, r.place with
    | some k, .mem pa => some { bytes := withOwn ((k.data.drop (pa % 64)).take r.size), level := k.level }
    | some k, .peer _ va => some { bytes := withOwn ((k.data.drop (va % 64)).take r.size), level := 7 }
    | _, .nowhere => some { bytes := List.replicate r.size 0 }
    | _, _ => none

/-- The words a load writes, by its size code (R158). -/
def loadWords (code : Nat) (bs : List Byte) : List Word :=
  let v := leNat bs
  if code = 0 then [(BitVec.ofNat 8 v).signExtend 32]
  else if code = 1 then [BitVec.ofNat 32 v]
  else if code = 2 then [(BitVec.ofNat 16 v).signExtend 32]
  else if code ≤ 4 then [BitVec.ofNat 32 v]
  else wordsOf (ldRegs code) bs

/-- Whether a load visits a hop of R419: the transit to its home, the slice and the way back from the L2 on, memory beyond it. -/
def visits (level hop : Nat) : Bool := if hop = 0 ∨ hop = 5 then true else if hop = 3 then decide (4 ≤ level) else decide (2 ≤ level)

/-- The sample record of a tagged load (R419): the clk at each hop it visits is free, and 0 at the others. -/
def State.sample (s : State) (r : Req) (kind level : Nat) (poisoned : Bool) : State :=
  match s.anyBundle r.bundle with
  | none => s
  | some b =>
    let p := s.partOf b
    let q := s.part p
    if kind = 0 || !(bit q.control.toNat 0) then s
    else
      let w := r.lane + 32 * (b.index % 32) + 1024 * level + (if kind = 2 then 8192 else 0) + (if poisoned then 16384 else 0)
      (s.ringPut p 0 (leBytes 8 r.issuedTime.toNat ++ leBytes 8 r.pc.toNat ++ leBytes 8 r.ea.toNat ++
        leBytes 4 (((s.taskOf b).map (·.tid)).getD 0) ++ leBytes 4 w ++ leBytes 8 r.retired ++
        leBytes 4 (if q.det then q.interval else 0) ++ leBytes 4 0 ++ ((List.range 12).map fun i => if visits level (i / 2) then Config.freeByte s.draw i else 0) ++
        leBytes 4 0)).drawn

/-- The bytes that a transactional load returns from its home are recorded in the read set (R244), also one that an earlier load returned
otherwise: no home agrees with both. -/
def State.recordRead (s : State) (r : Req) : State :=
  match (s.thread r.bundle r.lane).tx, r.copy, r.place.txAddr with
  | some x, some k, some a =>
    let seen := ((List.range r.size).filter fun i => !(r.own.any (·.1 == i))).map fun i => ((a + i) % 64, k.data.getD ((a + i) % 64) 0)
    s.modThread r.bundle r.lane fun t => { t with tx := some { x with reads := upd x.reads (·.line == a / 64) fun y =>
      { y with bytes := distinct (y.bytes ++ seen) } } }
  | _, _, _ => s

/-- A load's result arrives (R93, R153, R195); one in a transaction was bound at its home. -/
def State.finishLoad (s : State) (r : Req) (code dst : Nat) (acq : Option Nat) (smp : Nat) : State :=
  let policy := s.policyFor r
  match if r.tx then (if s.inOrder r then r.txBound else none) else s.bind r policy with
  | none => s
  | some v =>
    let s := if r.tx then s.recordRead r else s.shareLoad r v.bytes
    let s := match r.place with
      | .mem pa => if r.tx then s
          else if policy = 3 then (if homeDie pa = dieOf r.core then s.modLine (pa / 64) fun x => { x with rts := max x.rts (s.core r.core).ctime }
            else s.modDieLine (dieOf r.core) (pa / 64) fun x => { x with rts := max x.rts (s.core r.core).ctime })
          else if v.level = 0 then s.touchL1 r.core (pa / 64) else s
      | _ => s
    let s := (s.reachTime r v.wts).dropReq r.id
    let s := s.landThread r.bundle r.lane fun t => { (t.writes dst (loadWords code v.bytes)) with
      stamp := match acq with
        | some sc => if 4 ≤ sc then some s.clk else t.stamp
        | none => t.stamp }
    s.sample r smp v.level false

/-! HOME_LOAD_REQUEST: a miss or a lapsed lease reaches the home (R153, R154). -/

/-- The bytes of a peer's line as they read there: free (log entry 13). -/
def State.peerLine (s : State) (k va : Nat) : Copy :=
  { line := va / 64, data := (List.range 64).map fun i => Config.peerByte k (va / 64 * 64 + i) s.draw, wts := 0, rts := 0, grant := s.clk, level := 7 }

/-- The irrevocable holders that a lane waits for (R249): those registered before it at a line where its load is held or its commit
stands. -/
def State.waitsFor (s : State) (who : Nat × Nat) : List (Nat × Nat) :=
  let x := (s.thread who.1 who.2).tx
  let lines := (s.reqs.filter fun r => r.of who.1 who.2 && r.tx && r.held.isSome).filterMap (·.place.line) ++
    (match x with
      | some x => if x.commit = some none then x.reads.map (·.line) ++ x.writes.map (·.line) else []
      | none => [])
  lines.flatMap fun ln => (s.line ln).irr.takeWhile fun y => !(y == who)

/-- Holders reached from some by waiting, in so many steps; each die has one at most. -/
def State.waitChain (s : State) : Nat → List (Nat × Nat) → List (Nat × Nat)
  | 0, xs => xs
  | n + 1, xs => State.waitChain s n (distinct (xs ++ xs.flatMap s.waitsFor))

/-- Where holders of several dies' tokens wait for each other in a ring, one of them, that with the fewest aborts behind it, aborts with
0x0001_0004 and releases its token, so that every holder commits or releases (R251; the model's choice, log entry 123). -/
def State.breakRing (s : State) (who : Nat × Nat) : State :=
  if !((s.waitsFor who).flatMap fun y => State.waitChain s 4 [y]).contains who then s
  else
    let ring := (State.waitChain s 4 [who]).filter fun y => (State.waitChain s 4 (s.waitsFor y)).contains who
    let v := ring.foldl (fun m y => if (s.thread y.1 y.2).aborts < (s.thread m.1 m.2).aborts then y else m) who
    s.abortTx v.1 v.2 0x00010004#32

/-- A transactional load at its line's home (R244, R249): it takes the bytes there, and an irrevocable holder registers the line, behind
a holder of another die's token that has it (the model's choice, log entry 123). -/
def State.txLoadHome (s : State) (r : Req) (ln : Nat) (x : Tx) : State :=
  let who := (r.bundle, r.lane)
  let s := if x.irrevocable then s.enroll who ln else s
  if ((s.line ln).irr.takeWhile fun y => !(y == who)) ≠ [] then
    (if x.irrevocable then (s.holdReq r).breakRing who else s.abortTx r.bundle r.lane 0x00010004#32)
  else
    let u := s.atHome r.core ln (s.policyFor r)
    u.1.modReq r.id fun q => { q with held := none, copy := some { line := ln, data := s.lineData ln, wts := (s.line ln).wts, rts := 0, grant := s.clk, level := u.2 } }

/-- The lanes of a transactional load that share bytes are bound together at their home (R150). -/
def State.txLoads (s : State) (r : Req) (ln : Nat) : State :=
  let ms := r :: s.loadMates r
  if ms.any fun q => s.heldByStore q || !(s.inOrder q) then s
  else ms.foldl (fun s q => match s.req? q.id, (s.thread q.bundle q.lane).tx with
    | some q, some x => if q.copy.isSome || q.phase.isDone then s else s.txLoadHome q ln x
    | _, _ => s) s

/-- A load, or a core-scope ATOM, obtains its line. -/
def State.fetchLine (s : State) (r : Req) : State :=
  match r.place with
  | .mem pa =>
    let ln := pa / 64
    let tx := if r.tx then (s.thread r.bundle r.lane).tx else none
    let stamp := s.stampOf r
    if !(s.reaches r) || r.phase.isDone then s
    else if (r.tx || s.goesHome r.core ln stamp) && s.mustHold r ln false then s.holdReq r
    else match tx with
      | some _ => if r.copy.isSome then s else s.txLoads r ln
      | none =>
        let policy := s.policyFor r
        let g := s.grant r.core ln stamp policy
        let s := g.1.modReq r.id fun q => { q with held := none, copy := some g.2 }
        if policy = 3 then s else s.putL1 r.core g.2
  | .peer k va =>
    let ms := r :: (if r.tx then s.loadMates r else [])
    if s.reaches r && ms.all fun q => !(s.heldByStore q) && (!r.tx || s.inOrder q) then
      { s with reqs := upd s.reqs (fun q => ms.any (·.id == q.id)) fun q => { q with copy := some (s.peerLine k va) } }.drawn
    else s
  | _ => s

/-- The peer statuses of R162. -/
def peerStatus (status : BitVec 16) : Bool := status == 1#16 || status == 2#16 || status == 0xFFFF#16

/-- A peer load fails, and its destination is poisoned (R162). -/
def State.peerLoadFails (s : State) (op : Nat) (status : BitVec 16) : State := match s.req? op with
  | none => s
  | some r => match r.kind, r.place with
    | .load code dst _ smp, .peer _ _ =>
      if !(peerStatus status) || !(s.inOrder r) then s
      else
        let s := (s.dropReq op).landThread r.bundle r.lane fun t => t.marks dst (.poisoned r.pc r.ea status) (ldRegs code)
        s.sample r smp 7 true
    | _, _ => s

/-- PEER_LOAD_FAILURE: an external input of the load's partition (R162, R425). -/
def execPeerLoadFailure (op : Nat) (status : BitVec 16) (s : State) : Result :=
  .next (match s.req? op with
    | none => s
    | some r => match r.kind, r.place with
      | .load _ _ _ _, .peer _ _ => s.externalOnce (s.partAt r.bundle) op (.failed op status) (·.peerLoadFails op status)
      | _, _ => s)

/-- A peer's answer lands: an external input of the request's partition (R425); what a thread forwards to itself is none. -/
def State.peerReply (s : State) (r : Req) (f : State → State) : State := match r.place with
  | .peer _ _ =>
    if r.copy.isNone && !(r.phase.isDone) then f s
    else
      let olds := match r.kind with
        | .atom _ _ _ _ ls => ls.flatMap fun x => [x.old.extractLsb' 0 32, x.old.extractLsb' 32 32]
        | _ => []
      let new := match r.phase with
        | .done _ _ _ ws => ws
        | _ => []
      s.externalOnce (s.partAt r.bundle) r.id (.reply r.id ((r.copy.map (·.data)).getD []) (olds ++ new)) f
  | _ => f s

/-- The latest of some clocks. -/
def latest : List Nat → Option Nat
  | [] => none
  | c :: cs => some (cs.foldl max c)

/-- STASH_FILL_RETURN: a line that waits for it is filled (R171): bytes that are not dirty, with a lease; from a copy that the acquire
stamps of those who wait for it allow (R195). -/
def execStashFillReturn (block map line : Nat) (s : State) : Result :=
  .next (match s.block? block, s.stashMap block map with
    | some k, some m =>
      let x := m.lineAt (m.window + 64 * line)
      let va := m.base + 64 * line
      let wanted := s.reqs.filter fun r => match r.place with
        | .stash b q off _ => b == block && q == map && (off - m.window) / 64 == line
        | _ => false
      let stamp := latest (wanted.filterMap s.stampOf)
      match (s.task? k.task).bind fun t => translate t.xlat va with
      | none => s
      | some pa =>
        if s.stashUsable k.core pa stamp x || wanted.isEmpty || s.writingBack block map line || s.lineHeld (pa / 64) (0, 64) false then s
        else
          let g := s.grant k.core (pa / 64) stamp 0
          (g.1.spadWrite block (m.window + 64 * line) g.2.data).modStash block map line fun y =>
            { y with state := .clean, wts := g.2.wts, rts := g.2.rts, grant := g.2.grant, bytes := [], bundles := [] }
    | _, _ => s)

/-- STASH_LINE_RECALL: an engine or the home recalls a line (R172): a dirty one is written back, and it is untouched. -/
def execStashLineRecall (block map line : Nat) (s : State) : Result :=
  .next (match s.block? block, s.stashMap block map with
    | some k, some m =>
      match (m.lineAt (m.window + 64 * line)).state with
      | .dirty =>
        let s := s.writeBack k fun m' x => m'.id == map && x.idx == line
        s.modStash block map line fun y => { y with state := .untouched, bytes := [], bundles := [] }
      | .clean => s.modStash block map line fun y => { y with state := .untouched }
      | _ => s
    | _, _ => s)

end Sys2Proof.Machine
end

