-- ==== Sys2Proof/Machine/Order.lean ====
section
/-! DEFINITION. FENCE (R202, R203), STFLUSH (R173) and SETSTRM (R143). Their waits are in Gate; what they start and leave is here. -/

namespace Sys2Proof.Machine

/-- The acquire stamp of a fence or an acquire at a scope (R195). -/
def Thread.stampAt (t : Thread) (scope clk : Nat) : Thread := if 4 ≤ scope then { t with stamp := some clk } else t

def execFenceX (m : BitVec 16) (s : State) : Result := runLanes (.fenceX m) noCheck (fun s _ _ _ => (s, .next)) s

/-- FENCE.AR and FENCE.SC of a lane: where the group found lines of its bundle dirty, start their write-back and wait; else, or after that,
complete and stamp (R203). -/
def State.fence (s : State) (b : Bundle) (l scope : Nat) (dirty : Bool) : State × LaneEnd :=
  if !((s.thread b.id l).mid == some .flush) && dirty then
    ((s.writeBackFor b).modThread b.id l fun t => { t with mid := some .flush }, .stay)
  else (s.modThread b.id l (·.stampAt scope s.clk), .next)

def execFenceAr (m : BitVec 16) (k : BitVec 3) (s : State) : Result :=
  runWith (.fenceAr m k) noCheck (fun s0 => each (fun s _ b l => s.fence b l (s.fenceScope b k.toNat m.toNat) (s0.stashDirty b)) s0) s
def execFenceSc (m : BitVec 16) (k : BitVec 3) (s : State) : Result :=
  runWith (.fenceSc m k) noCheck (fun s0 => each (fun s _ b l => s.fence b l (s.fenceScope b k.toNat m.toNat) (s0.stashDirty b)) s0) s
def execFenceEng (m : BitVec 16) (k : BitVec 3) (s : State) : Result :=
  runLanes (.fenceEng m k) noCheck (fun s _ b l =>
    ((s.raiseCtime b.core (s.thread b.id l).engWts).modThread b.id l (·.stampAt (s.fenceScope b k.toNat m.toNat) s.clk), .next)) s

/-- Whether a block has a dirty stash line. -/
def Block.anyDirty (k : Block) : Bool := k.maps.any fun m => m.lines.any fun x => x.state == .dirty

def execStflush (m : BitVec 16) (s : State) : Result :=
  runLanes (.stflush m) noCheck (fun s _ b l =>
    match s.blockOf b with
    | none => (s, .next)
    | some k =>
      if !((s.thread b.id l).mid == some .flush) && (k.anyDirty || s.blockWriting k.id) then
        ((s.writeBack k fun _ _ => true).modThread b.id l fun t => { t with mid := some .flush }, .stay)
      else (s, .next)) s

/-- Whether an attribute word is one of R141. -/
def streamWordOk (w : Word) : Bool :=
  let sc := scopeOf w
  bits w.toNat 31 8 == 0 && (if spaceOf w = 1 ∨ spaceOf w = 2 then sc == 0 else decide (1 ≤ sc) && decide (sc ≤ 5))

/-- Whether an access in a stream by a thread of the same block is outstanding (R143). -/
def State.streamBusy (s : State) (b : Bundle) (n : Nat) : Bool :=
  s.reqs.any fun r => r.stream == n && ((s.bundle? r.bundle).any fun x => x.owner.block? == b.owner.block? &&
    (x.owner == b.owner || !b.isWave)) && match r.kind with
    | .load _ _ _ _ => true
    | .store _ _ => r.phase == .issued
    | .atom _ _ _ _ _ => true
    | _ => false

def execSetstrm (n : BitVec 4) (a : BitVec 7) (s : State) : Result :=
  runWith (.setstrm n a) (fun _ _ _ _ t => if streamWordOk (t.val a.toNat) then [] else
      [{ cause := 3, detail := (t.val a.toNat).zeroExtend 64 }]) (fun s _ b ls => match ls with
    | [] => (s, [])
    | _ =>
      let w := match (s.blockOf b).bind fun k => k.drains.find? (·.1 == n.toNat) with
        | some x => x.2
        | none => (s.thread b.id (highest ls)).val a.toNat
      if s.streamBusy b n.toNat then
        (ls.foldl (fun s l => s.modThread b.id l fun t => { t with mid := some (.drain n.toNat) })
          (s.modBlk b fun k => { k with drains := (k.drains.filter fun x => !(x.1 == n.toNat)) ++ [(n.toNat, w)] }), allEnd ls .stay)
      else (s.modBlk b fun k => { k with
        streams := k.streams.set n.toNat w, drains := k.drains.filter fun x => !(x.1 == n.toNat) }, [])) s

end Sys2Proof.Machine
end

