-- ==== Sys2Proof/Machine/Atomics.lean ====
section
/-! DEFINITION. ATOM (R236 to R242), transactions (R243 to R250) and futures (R252 to R255). -/

namespace Sys2Proof.Machine

/-! ATOM. -/

/-- The mode of an ATOM's FP32 ops (R237): RNE, subnormals kept, canonical NaN. -/
def atomMode : FMode := { rm := .rne, flush := false, canon := true }

/-- The new memory value (R237), by op code: v the operand, v2 the new value of CAS. -/
def atomNew (op : Nat) (v : DWord) (v2 : Word) (m : DWord) : DWord :=
  let a : Word := m.extractLsb' 0 32
  let b : Word := v.extractLsb' 0 32
  if op = 15 then m + v
  else
    let r : Word :=
      if op = 0 then a + b
      else if op = 1 then (if a.toInt ≤ b.toInt then a else b)
      else if op = 2 then (if b.toInt ≤ a.toInt then a else b)
      else if op = 3 then (if a.toNat ≤ b.toNat then a else b)
      else if op = 4 then (if b.toNat ≤ a.toNat then a else b)
      else if op = 5 then a &&& b
      else if op = 6 then a ||| b
      else if op = 7 then a ^^^ b
      else if op = 8 then b
      else if op = 9 then (if a = b then v2 else a)
      else if op = 10 then (if b.toNat ≤ a.toNat then 0 else a + 1)
      else if op = 11 then (if a = 0 ∨ b.toNat < a.toNat then b else a - 1)
      else if op = 12 then BitVec.ofNat 32 (f32.add atomMode a.toNat b.toNat).1
      else if op = 13 then BitVec.ofNat 32 (f32.pick atomMode false a.toNat b.toNat).1
      else BitVec.ofNat 32 (f32.pick atomMode true a.toNat b.toNat).1
    r.zeroExtend 64

/-- Apply the lanes in rising order (R239): each receives the value held just before its own step. -/
def atomChain (op : Nat) : List AtomLane → DWord → List AtomLane × DWord
  | [], m => ([], m)
  | x :: xs, m =>
    let r := atomChain op xs (atomNew op x.v x.v2 m)
    ({ x with old := m } :: r.1, r.2)

/-- Bytes of an op (R237). -/
def atomSize (op : Nat) : Nat := if op = 15 then 8 else 4

/-- The operand of a lane. -/
def Thread.atomLane (t : Thread) (op d l : Nat) : AtomLane :=
  { lane := l, v := if op = 15 then t.pair d else (t.val d).zeroExtend 64, v2 := if op = 9 then t.val (d + 1) else 0 }

/-- The checks of ATOM (R238, R240). -/
def State.atomChecks (s : State) (g : Group) (b : Bundle) (op scope stream : Nat) (ea : DWord) : List Trap :=
  let space := spaceOf (s.streamWord b stream)
  (if (space = 1 ∨ space = 2) ∧ scope ≠ 0 then [{ cause := 3, detail := Config.illegalDetail g.word }] else []) ++
  (match s.place b stream ea (atomSize op) with
    | .stash _ _ _ _ => [{ cause := 3, detail := BitVec.ofNat 64 stream }]
    | _ => []) ++
  s.accessChecks b stream ea (atomSize op) true true

/-- Lanes that name the same bytes, in rising order of their lowest lane (R239). -/
def groupPlaces : List (Nat × Place) → List (Place × List Nat)
  | [] => []
  | (l, p) :: xs =>
    let rest := groupPlaces xs
    if p == .nowhere then (p, [l]) :: rest
    else match rest.find? (·.1 == p) with
      | some y => (p, l :: y.2) :: rest.filter fun z => !(z.1 == p)
      | none => (p, [l]) :: rest

/-- ATOM: one request for all lanes that name the same bytes (R239). -/
def runAtom (i : Instr) (op : Nat) (n : BitVec 1) (k : BitVec 3) (st : BitVec 4) (p : BitVec 6) (d : BitVec 7) (s : State) : Result :=
  runWith i (fun s g b _ t => s.atomChecks g b op k.toNat st.toNat (t.ea p 0#6 1)) (fun s g b ls =>
    let ea (l : Nat) : DWord := (s.thread b.id l).ea p 0#6 1
    let gs := groupPlaces (ls.map fun l => (l, s.place b st.toNat (ea l) (atomSize op)))
    let sc := s.resolveScope b k.toNat st.toNat
    let entry := s.fresh
    let s := ls.foldl (fun s l => s.offend b (s.place b st.toNat (ea l) (atomSize op)) (spaceOf (s.streamWord b st.toNat)) (ea l)) s.next
    let s := gs.foldl (fun s x =>
      let kind := ReqKind.atom op (n == 1#1) d.toNat sc (x.2.map fun l => (s.thread b.id l).atomLane op d.toNat l)
      s.addReq { s.newReq g b (x.2.headD 0) st.toNat kind x.1 (ea (x.2.headD 0)) (atomSize op) entry with also := x.2.drop 1 }) s
    (if n == 1#1 then s else ls.foldl (fun s l => s.modThread b.id l fun t => t.marks d.toNat .pending (if op = 15 then 2 else 1)) s, [])) s

def execAtomAdd (n : BitVec 1) (k : BitVec 3) (st : BitVec 4) (p : BitVec 6) (d : BitVec 7) (s : State) : Result :=
  runAtom (.atomAdd n k st p d) 0 n k st p d s
def execAtomMinI32 (n : BitVec 1) (k : BitVec 3) (st : BitVec 4) (p : BitVec 6) (d : BitVec 7) (s : State) : Result :=
  runAtom (.atomMinI32 n k st p d) 1 n k st p d s
def execAtomMaxI32 (n : BitVec 1) (k : BitVec 3) (st : BitVec 4) (p : BitVec 6) (d : BitVec 7) (s : State) : Result :=
  runAtom (.atomMaxI32 n k st p d) 2 n k st p d s
def execAtomMinZ32 (n : BitVec 1) (k : BitVec 3) (st : BitVec 4) (p : BitVec 6) (d : BitVec 7) (s : State) : Result :=
  runAtom (.atomMinZ32 n k st p d) 3 n k st p d s
def execAtomMaxZ32 (n : BitVec 1) (k : BitVec 3) (st : BitVec 4) (p : BitVec 6) (d : BitVec 7) (s : State) : Result :=
  runAtom (.atomMaxZ32 n k st p d) 4 n k st p d s
def execAtomAnd (n : BitVec 1) (k : BitVec 3) (st : BitVec 4) (p : BitVec 6) (d : BitVec 7) (s : State) : Result :=
  runAtom (.atomAnd n k st p d) 5 n k st p d s
def execAtomOr (n : BitVec 1) (k : BitVec 3) (st : BitVec 4) (p : BitVec 6) (d : BitVec 7) (s : State) : Result :=
  runAtom (.atomOr n k st p d) 6 n k st p d s
def execAtomXor (n : BitVec 1) (k : BitVec 3) (st : BitVec 4) (p : BitVec 6) (d : BitVec 7) (s : State) : Result :=
  runAtom (.atomXor n k st p d) 7 n k st p d s
def execAtomExch (n : BitVec 1) (k : BitVec 3) (st : BitVec 4) (p : BitVec 6) (d : BitVec 7) (s : State) : Result :=
  runAtom (.atomExch n k st p d) 8 n k st p d s
def execAtomCas (n : BitVec 1) (k : BitVec 3) (st : BitVec 4) (p : BitVec 6) (d : BitVec 7) (s : State) : Result :=
  runAtom (.atomCas n k st p d) 9 n k st p d s
def execAtomIncw (n : BitVec 1) (k : BitVec 3) (st : BitVec 4) (p : BitVec 6) (d : BitVec 7) (s : State) : Result :=
  runAtom (.atomIncw n k st p d) 10 n k st p d s
def execAtomDecw (n : BitVec 1) (k : BitVec 3) (st : BitVec 4) (p : BitVec 6) (d : BitVec 7) (s : State) : Result :=
  runAtom (.atomDecw n k st p d) 11 n k st p d s
def execAtomFaddF32 (n : BitVec 1) (k : BitVec 3) (st : BitVec 4) (p : BitVec 6) (d : BitVec 7) (s : State) : Result :=
  runAtom (.atomFaddF32 n k st p d) 12 n k st p d s
def execAtomFminF32 (n : BitVec 1) (k : BitVec 3) (st : BitVec 4) (p : BitVec 6) (d : BitVec 7) (s : State) : Result :=
  runAtom (.atomFminF32 n k st p d) 13 n k st p d s
def execAtomFmaxF32 (n : BitVec 1) (k : BitVec 3) (st : BitVec 4) (p : BitVec 6) (d : BitVec 7) (s : State) : Result :=
  runAtom (.atomFmaxF32 n k st p d) 14 n k st p d s
def execAtomAddD (n : BitVec 1) (k : BitVec 3) (st : BitVec 4) (p : BitVec 6) (d : BitVec 7) (s : State) : Result :=
  runAtom (.atomAddD n k st p d) 15 n k st p d s

/-- Whether the thread order lets an ATOM perform (R241): its stream's earlier loads, stores and ATOMs have. -/
def State.atomReady (s : State) (r : Req) : Bool :=
  s.inOrder r && (s.earlier r).all fun q => !(q.stream == r.stream && q.phase == .issued && (match q.kind with
    | .store _ _ => true
    | _ => false))

/-- The core's view of bytes of a line (R148, R238): its L1 copy with every store that waits for its home. -/
def State.coreBytes (s : State) (c pa n : Nat) (k : Copy) : List Byte :=
  ((s.reqs.foldl (fun bs q => match q.kind, q.place, q.phase with
    | .store ds _, .mem x, .sent => if q.core == c && x / 64 == pa / 64 then patch bs (x % 64) ds else bs
    | .store ds _, .mem x, .done w _ _ _ => if q.core == c && x / 64 == pa / 64 && decide (k.wts < w) then patch bs (x % 64) ds else bs
    | _, _, _ => bs) k.data).drop (pa % 64)).take n

/-- An ATOM has been applied: its lanes hold their old values, its answer the new one. -/
def State.atomDone (s : State) (r : Req) (op : Nat) (n : Bool) (dst sc : Nat) (ls : List AtomLane) (w : Nat) (lapse : Nat × Nat)
    (new : List Word) : State :=
  s.modReq r.id fun q => { q with kind := .atom op n dst sc ls, phase := .done w lapse.1 lapse.2 new, held := none }

/-- An ATOM in an array or in the core's L1 (R238): there its result is a store of its own place in the stream (R241). -/
def State.atomLocal (s : State) (r : Req) (op : Nat) (n : Bool) (dst sc : Nat) (ls : List AtomLane) : State :=
  if !(s.atomReady r) || r.phase.isDone then s
  else match r.place with
    | .spad k off =>
      let c := atomChain op ls (BitVec.ofNat 64 (leNat (s.spadRead k off r.size)))
      (s.spadWrite k off (leBytes r.size c.2.toNat)).atomDone r op n dst sc c.1 0 (0, 0) []
    | .nowhere => s.atomDone r op n dst sc (ls.map fun x => { x with old := 0 }) 0 (0, 0) []
    | .mem pa =>
      if 2 ≤ sc then s
      else match (r.copy.filter fun k => s.usable r.core k (s.stampOf r)).orElse fun _ =>
          (s.core r.core).l1.find? fun k => k.line == pa / 64 && s.usable r.core k (s.stampOf r) with
        | none => s
        | some k =>
          let c := atomChain op ls (BitVec.ofNat 64 (leNat (s.coreBytes r.core pa r.size k)))
          let bs := leBytes r.size c.2.toNat
          let w : Req := { r with id := s.fresh, kind := .store bs none, phase := .sent, copy := none }
          State.staleCode ((((s.raiseCtime r.core k.wts).atomDone r op n dst sc c.1 0 (0, 0) []).addReq w).modCore r.core
            (·.takeStore pa bs)) s pa bs.length
    | _ => s

/-- An ATOM at the line's home slice, or a peer's (R238). -/
def State.atomHome (s : State) (r : Req) (op : Nat) (n : Bool) (dst sc : Nat) (ls : List AtomLane) : State :=
  if !(s.atomReady r) || r.phase.isDone || !(s.reaches r) then s
  else match r.place with
    | .mem pa =>
      if sc ≤ 1 || !(s.sliceOrder r) then s
      else if s.mustHold r (pa / 64) true then s.holdReq r
      else
        let lapse := s.lapseClocks r.core (pa / 64)
        let c := atomChain op ls (BitVec.ofNat 64 (leNat (readBytes s.mem pa r.size)))
        let h := (s.atHome r.core (pa / 64) (s.policyFor r)).1.homeStore (s.storeTime r.core (pa / 64)) pa (leBytes r.size c.2.toNat)
        h.1.atomDone r op n dst sc c.1 h.2 lapse (wordsOf 2 (leBytes 8 c.2.toNat))
    | .peer k va =>
      if !(s.sliceOrder r) then s else
      let m := leNat ((List.range r.size).map fun i => Config.peerByte k (va + i) s.draw)
      let c := atomChain op ls (BitVec.ofNat 64 m)
      (s.drawn.toPeer (s.partAt r.bundle) k va (leBytes r.size c.2.toNat)).atomDone r op n dst sc c.1 0 (0, 0) []
    | _ => s

/-- An ATOM's answer reaches its threads (R93, R236). -/
def State.finishAtom (s : State) (r : Req) (op : Nat) (n : Bool) (dst : Nat) (ls : List AtomLane) : State :=
  match r.phase with
  | .done w ld lp new =>
    if !(s.ackOrder r w) then s
    else
    let s := (s.reachTime r w).dropReq r.id
    let s := match r.place with
      | .mem pa => if w = 0 then s else
          let s := s.copyTakes r.core pa w ((List.range r.size).map fun i => (pa + i, (bytesOf new).getD i 0))
          r.lanes.foldl (fun s l => s.addLapse r.bundle l r.stream (ld, lp)) s
      | _ => s
    if n then s
    else ls.foldl (fun s x => s.landThread r.bundle x.lane fun t =>
      if op = 15 then t.writePair dst x.old else t.write dst (x.old.extractLsb' 0 32)) s
  | _ => s

/-! Transactions. -/

def execTxb (d : BitVec 7) (s : State) : Result :=
  runWith (.txb d) noCheck (fun s0 => each (fun s g b l =>
    let t := s.thread b.id l
    let k := ((s.blockOf b).map (·.txlim)).getD 8
    let die := dieOf b.core
    if !(t.mid == some .flush) && s0.stashDirty b then
      ((s.writeBackFor b).modThread b.id l fun t => { t with mid := some .flush }, .stay)
    else
      let open_ (irr : Bool) (v : Word) (s : State) : State := s.modThread b.id l fun t =>
        { ((t.write d.toNat v).stampAt 4 s.clk) with
          tx := some { resume := g.ipc + BitVec.ofNat 64 g.size, reg := d.toNat, irrevocable := irr } }
      if t.aborts < k then (open_ false 0 s, .next)
      else if (s.die die).turn == some (b.id, l) then (open_ true 1 s, .next)
      else (s.modDie die fun x => if x.turnQueue.contains (b.id, l) then x
        else { x with turnQueue := x.turnQueue ++ [(b.id, l)] }, .stay)) s0) s

/-- TURN_TOKEN_GRANT: the die's turn token goes to the oldest waiting TXB (R249). -/
def execTurnTokenGrant (die : Nat) (s : State) : Result :=
  .next (s.modDie die fun d => match d.turn, d.turnQueue with
    | none, x :: xs => { d with turn := some x, turnQueue := xs }
    | _, _ => d)

/-- The lines of a transaction: of its write set, and of both sets. -/
def Tx.writeLines (x : Tx) : List Nat := x.writes.map (·.line)
def Tx.allLines (x : Tx) : List Nat := distinct (x.reads.map (·.line) ++ x.writes.map (·.line))

/-- Outside a transaction TXE and TXA trap ILLEGAL (R246, R248). -/
def needsTx : Check := fun _ g _ _ t => if t.tx.isSome then [] else [{ cause := 3, detail := Config.illegalDetail g.word }]

/-- Whether a lane's write set meets a set of a lower lane of the group (R246). -/
def State.losesInGroup (s : State) (b l : Nat) (ls : List Nat) : Bool :=
  match (s.thread b l).tx with
  | none => false
  | some x => ls.any fun m => decide (m < l) && match (s.thread b m).tx with
    | some y => x.writeLines.any fun n => y.allLines.contains n
    | none => false

def execTxe (s : State) : Result :=
  runWith .txe needsTx (fun s g b ls =>
    let s0 := s
    each (fun s _ b l =>
      if !(((s0.thread b.id l).tx.map (·.irrevocable)).getD false) && s0.losesInGroup b.id l ls then
        (s.abortTx b.id l 0x00010001#32, .gone)
      else (s.modThread b.id l fun t => { t with
        mid := some .commit, tx := t.tx.map fun x => { x with commit := some none } }, .stay)) s g b ls) s

def execTxa (i : BitVec 7) (s : State) : Result :=
  runLanes (.txa i) needsTx (fun s _ b l => (s.abortTx b.id l (BitVec.ofNat 32 (0x00030000 + i.toNat)), .gone)) s

/-- The answer of a line's slice to a commit (R246, R249): 0 where it agrees; a peer's slice answers as it may (log entry 13). -/
def State.slice (s : State) (who : Nat × Nat) (x : Tx) (ln : Nat) : Nat :=
  let y := s.line ln
  if (txPeer ln).isSome then [0, 0x00010002, 0x00010003, 0x00010004].getD (Config.pick (s.draw + ln) % 4) 0
  else if y.lock.isSome && !(y.lock == some who) then 0x00010003
  else if y.irr.any fun z => !(z == who) then 0x00010004
  else match x.reads.find? (·.line == ln) with
    | some r => if r.bytes.all fun z => readByte s.mem (64 * ln + z.1) == z.2 then 0 else 0x00010002
    | none => 0

/-- TX_VALIDATE_AT_HOME: the slices lock and validate a committing lane's lines (R246), once its transactional loads have returned, as
TXE acts as FENCE.AR. -/
def execTxValidateAtHome (bundle lane : Nat) (s : State) : Result :=
  .next (match (s.thread bundle lane).tx with
    | none => s
    | some x =>
      let who := (bundle, lane)
      let waits := s.reqs.any fun r => r.of bundle lane && r.tx
      let owned := x.allLines.any (fun ln => (s.line ln).owner.isSome) || x.writeLines.any s.compileHolds
      let busy := x.irrevocable && x.allLines.any fun ln => (s.line ln).lock.isSome && !((s.line ln).lock == some who)
      if !(x.commit == some none) || waits || owned || busy then s
      else if x.irrevocable && !(s.waitsFor who).isEmpty then s.breakRing who
      else
        let bad := if x.irrevocable then [] else (x.allLines.map (s.slice who x)).filter fun r => r ≠ 0
        match bad with
        | st :: _ => s.modThread bundle lane fun t => { t with tx := some { x with commit := some (some (BitVec.ofNat 32 st)) } }
        | [] => ((x.allLines.filter fun ln => (txPeer ln).isNone).foldl (fun s ln => s.modLine ln fun y => { y with lock := some who }) s).modThread bundle lane
            fun t => { t with tx := some { x with commit := some (some 0) } })

/-- The write time that every line of a commit takes, so that its stores appear as one event (R246): past the leases on each. -/
def State.commitTime (s : State) (core : Nat) (x : Tx) : Nat :=
  (x.writeLines.filter fun ln => (txPeer ln).isNone).foldl (fun t ln => max t (max (s.storeTime core ln) ((s.line ln).rts + 1))) 0

/-- A transaction's buffered bytes become stores in the lines' orders (R246), at the commit's time; those of a peer's lines go there. -/
def State.commitLine (s : State) (b : Bundle) (l : Nat) (x : Tx) (t : Nat) (w : TxLine) : State :=
  match txPeer w.line with
  | some (k, va) => (runsOf ((List.range 64).filterMap fun o => (w.bytes.lookup o).map fun v => (va + o, v))).foldl (fun s y =>
      s.toPeer (s.partOf b) k y.1 y.2) s
  | none =>
  let lapse := s.lapseClocks b.core w.line
  let bs := (List.range 64).filterMap fun o => (w.bytes.lookup o).map fun v => (64 * w.line + o, v)
  let h := (s.atHome b.core w.line 0).1.homeBytes t w.line bs
  let s := (h.1.raiseCtime b.core h.2).copyTakes b.core (64 * w.line) h.2 bs
  x.streams.foldl (fun s st => s.addLapse b.id l st lapse) s

/-- TX_COMMIT_RESULT: the slices' answers reach the core: the lane commits, or its transaction aborts (R246). -/
def execTxCommitResult (bundle lane : Nat) (s : State) : Result :=
  .next (match s.bundle? bundle, (s.thread bundle lane).tx with
    | some b, some x => match x.commit with
      | some (some st) =>
        let pc := (s.thread bundle lane).pc
        if st ≠ 0 then (s.abortTx bundle lane st).finishGone bundle lane pc
        else
          let s := x.writes.foldl (fun u w => u.commitLine b lane x (s.commitTime b.core x) w) s
          let s := x.counted.foldl (fun s c => s.modBlk b fun k => k.countStore c.1 c.2.1 c.2.2.1.toNat c.2.2.2) s
          let s := (s.releaseTurn bundle lane).modThread bundle lane fun t =>
            { (t.stampAt 4 s.clk) with tx := none, aborts := 0 }
          s.finishLane bundle lane pc (s.thread bundle lane).nxt
      | _ => s
    | _, _ => s)

/-! Futures. -/

/-- The checks of a future's address (R255): a global access with both rights, aligned to 8 B. -/
def futureChecks (a : BitVec 7) : Check := fun s _ b _ t => s.globalChecks b 0 (t.pair a.toNat) 8 true true 8

/-- Send a future operation: its destination is pending (R93), and the thread is held until the home has answered (R253, R254). -/
def runFuture (i : Instr) (sub dst a : Nat) (v : Thread → Word) (chk : Check) (s : State) : Result :=
  runLanes i chk (fun s g b l =>
    let t := s.thread b.id l
    let ea := t.pair a
    let op := s.fresh
    let r := s.newReq g b l 0 (.future sub dst (v t)) (s.globalPlace b 0 ea) ea 8 s.fresh
    ((s.addReq { r with old := t.reg dst }).modThread b.id l fun t => { (t.mark dst .pending) with mid := some (.answer op) }, .stay)) s

def execFput (b a d : BitVec 7) (s : State) : Result :=
  runFuture (.fput b a d) 3 d.toNat a.toNat (·.val b.toNat) (futureChecks a) s
def execFputt (b a d : BitVec 7) (s : State) : Result :=
  runFuture (.fputt b a d) 4 d.toNat a.toNat (·.val b.toNat) (futureChecks a) s
def execFget (a d : BitVec 7) (s : State) : Result :=
  runFuture (.fget a d) 5 d.toNat a.toNat (fun _ => 0) (futureChecks a) s

/-- A future operation's answer: a value, or the detail of FUTURE; with the lapse clocks of the store it made (R204). -/
def State.futureDone (s : State) (op w : Nat) (trap : Bool) (v : Word) (lapse : Nat × Nat) : State :=
  s.doneAt op w lapse [if trap then 1 else 0, v]

/-- A waiter is queued at the future's home, behind those queued before it (R254). -/
def State.queueWaiter (s : State) (r : Req) : State :=
  { s with reqs := (s.reqs.filter fun (q : Req) => !(q.id == r.id)) ++ [{ r with phase := .waiting, held := none }] }

/-- The waiters queued for a future, oldest first (R254). -/
def State.waiters (s : State) (p : Place) : List Req := s.reqs.filter fun r => r.phase == .waiting && r.place == p

/-- The operation at the home slice (R253, R254). -/
def State.futureApply (s : State) (r : Req) (sub pa : Nat) (v : Word) : State :=
  let ln := pa / 64
  let s := (s.atHome r.core ln 0).1
  let t := s.storeTime r.core ln
  let lapse := s.lapseClocks r.core ln
  let value : Word := BitVec.ofNat 32 (leNat (readBytes s.mem pa 4))
  let st := leNat (readBytes s.mem (pa + 4) 4)
  if 1 < st then s.futureDone r.id 0 true (BitVec.ofNat 32 st) (0, 0)
  else if sub = 5 then
    if st = 1 then
      let h := s.homeStore t (pa + 4) (leBytes 4 0)
      h.1.futureDone r.id h.2 false value lapse
    else if 4096 ≤ (s.reqs.filter fun q => q.phase == .waiting && (match q.place with
        | .mem x => homeDie x == homeDie pa
        | _ => false)).length then
      s.modReq r.id fun q => { q with
        held := none, link := none, naks := q.naks + 1, resend := some (s.clk + backoff (s.die (dieOf r.core)).backoff (q.naks + 1)) }
    else s.queueWaiter r
  else if st = 0 then match s.waiters r.place with
    | w :: _ => (s.futureDone w.id (max (s.core r.core).ctime (s.line ln).wts) false v (0, 0)).futureDone r.id (s.line ln).wts false 1 (0, 0)
    | [] =>
      let h := s.homeStore t pa (leBytes 4 v.toNat ++ leBytes 4 1)
      h.1.futureDone r.id h.2 false 1 lapse
  else if sub = 3 then s.futureDone r.id (s.line ln).wts false 0 (0, 0)
  else s.futureDone r.id 0 true value (0, 0)

/-- The operation at a peer's home slice, whose state is not known here (log entry 13): any answer of R253 and R254. A put sends its
value; a waiter queued there is served by a later event. -/
def State.futurePeer (s : State) (r : Req) (sub k va : Nat) (v : Word) : State :=
  let x : Word := BitVec.ofNat 32 (leNat ((List.range 4).map fun i => Config.peerByte k (va + i) s.draw))
  let n := Config.pick s.draw % 3
  let d := s.drawn
  if sub = 5 then
    if r.phase = .waiting ∨ n = 0 then d.futureDone r.id 0 false x (0, 0)
    else if n = 1 then d.queueWaiter r
    else d.futureDone r.id 0 true x (0, 0)
  else
    let d := d.toPeer (d.partAt r.bundle) k va (leBytes 4 v.toNat)
    if n = 0 then d.futureDone r.id 0 false 1 (0, 0)
    else if n = 1 && sub == 3 then d.futureDone r.id 0 false 0 (0, 0)
    else d.futureDone r.id 0 true x (0, 0)

/-- FUTURE_OP_AT_HOME: a release at package scope for a put; lanes of one group in rising order (R253, R254, R255). -/
def execFutureOpAtHome (op : Nat) (s : State) : Result :=
  .next (match s.req? op with
    | none => s
    | some r => match r.kind, s.anyBundle r.bundle with
      | .future sub _ v, some b =>
        let served := r.phase == .waiting && (match r.place with
          | .peer _ _ => true
          | _ => false)
        if !(r.phase == .issued || served) || !(s.reaches r) || !(s.inOrder r) then s
        else if !(sub == 5) && !(s.allPerformed b r.lane 4 0 (some r.id)) then s.writeBackFor b
        else if s.reqs.any fun q => q.bundle == r.bundle && decide (q.id < r.id) && q.place == r.place && q.phase == .issued &&
            (match q.kind with
              | .future _ _ _ => true
              | _ => false) then s
        else match r.place with
          | .mem pa => if s.mustHold r (pa / 64) true then s.holdReq r else s.futureApply r sub pa v
          | .peer k va => s.futurePeer r sub k va v
          | _ => s
      | _, _ => s)

/-- The home's answer, or a served waiter's value, reaches the thread (R253, R254, R255). -/
def State.futureAnswer (s : State) (op : Nat) : State := match s.req? op with
  | none => s
  | some r => match r.kind, r.phase with
    | .future sub dst _, .done w ld lp res =>
      let s := (s.reachTime r w).dropReq op
      let s := if ld = 0 ∧ lp = 0 then s else s.addLapse r.bundle r.lane r.stream (ld, lp)
      let t := s.thread r.bundle r.lane
      let held := t.mid == some (.answer op)
      if t.life = .exited then s
      else if res.getD 0 0 = 1 then
        (s.landThread r.bundle r.lane (·.put dst r.old)).raise r.bundle r.lane { cause := 0x0B, detail := (res.getD 1 0).zeroExtend 64, addr := r.ea } t.pc t.pc
      else
        let s := s.landThread r.bundle r.lane fun t =>
          let t := t.write dst (res.getD 1 0)
          if sub = 5 then { t with stamp := some s.clk } else t
        if held then s.finishLane r.bundle r.lane t.pc t.nxt else s
    | .future _ _ _, .waiting =>
      let t := s.thread r.bundle r.lane
      if t.mid == some (.answer op) then
        s.finishLane r.bundle r.lane t.pc t.nxt
      else s
    | _, _ => s

/-- FUTURE_ANSWER. -/
def execFutureAnswer (op : Nat) (s : State) : Result :=
  .next (match s.req? op with
    | none => s
    | some r => s.peerReply r (·.futureAnswer op))

end Sys2Proof.Machine
end

