-- ==== Sys2Proof/Machine/Lease.lean ====
section
/-! DEFINITION. Leases (R365, R366, R388, R450): which pages are leased, who holds the Headstock's leases, and the room of the translation
stores. -/

namespace Sys2Proof.Machine

/-- Whether a page of a partition is leased (R366): by a task, grid, node, object, handler range or Headstock structure. -/
def State.isLeased (s : State) (p va size : Nat) : Bool :=
  (s.leaseRuns p).any (fun x => overlap x.va x.len va size) ||
  s.leases.any (fun l => l.partition == p && overlap l.page l.size va size)

/-- The holders of the Headstock's leases (R450): a packet, a mapped slot, a partition's structures. -/
def packetHolder (p : Nat) : Nat := 3 * p
def slotHolder (k : Nat) : Nat := 3 * k + 1
def partHolder (p : Nat) : Nat := 3 * p + 2

/-- Lease a span for a holder: its pages' leaves are held as they are (R366). -/
def State.lease (s : State) (p va n holder : Nat) : State :=
  if n = 0 then s
  else
    let xs := match s.walkSpan p va n false false false noVersion with
      | .ok xs => xs
      | .error _ => []
    { s with leases := s.leases ++ [{ partition := p, page := va, size := n, holder := holder, xlat := xs }] }

/-- End a holder's leases. -/
def State.unlease (s : State) (holder : Nat) : State := { s with leases := s.leases.filter fun l => !(l.holder == holder) }

/-- The dies on which a partition holds a quad (R388). -/
def State.partDies (s : State) (p : Nat) : List Nat :=
  (List.range 4).filter fun d => (s.part p).quads.any fun q => q / 40 == d

/-- The dies in whose stores a task takes its entries (R388): a node's are those its grid may use. -/
def State.taskDies (s : State) (t : Task) : List Nat := match t.kind with
  | .plain => s.partDies t.partition
  | .node g _ _ _ => match s.grids.find? (·.id == g) with
    | some x => x.dieSet
    | none => []
  | .work n => match s.wnodes.find? (·.id == n) with
    | some x => [x.die]
    | none => []
  | .install n => match s.wnodes.find? (·.id == n) with
    | some x => [x.die]
    | none => []
  | .lathe g => match s.grids.find? (·.id == g) with
    | some x => x.dieSet
    | none => []

/-- The dies a task's block may be placed on: a node's is its billet's (R223, R385). -/
def State.placeDies (s : State) (t : Task) : List Nat := match t.kind with
  | .node g _ _ b => match (s.grids.find? (·.id == g)).bind fun x => x.billets.find? (·.id == b) with
    | some x => [x.die]
    | none => []
  | _ => s.taskDies t

/-- Whether a task's entries are its own; a work-graph bundle runs under those of its node (R385). -/
def Task.ownEntries (t : Task) : Bool := match t.kind with
  | .work _ => false
  | _ => true

/-- The entries of a die's translation store in use (R388): those of leased tasks, installed nodes and registered objects. -/
def State.storeUsed (s : State) (d : Nat) : Nat :=
  ((s.tasks.filter fun t => t.leased && t.ownEntries && (s.taskDies t).contains d).map (entryCount ·.xlat)).sum +
  ((s.wnodes.filter (·.die == d)).map (entryCount ·.xlat)).sum + ((s.objects.filter (·.die == d)).map (entryCount ·.xlat)).sum

/-- Whether the translation stores of some dies have room for more entries (R388). -/
def State.storeRoom (s : State) (dies : List Nat) (n : Nat) : Bool := dies.all fun d => decide (s.storeUsed d + n ≤ 65536)

end Sys2Proof.Machine
end

