-- ==== Sys2Proof/Machine/Settle.lean ====
section
/-! DEFINITION. What the core settles by itself after every event: convergence (R66, R75 to R77, R280), barriers that complete
(R183, R184, R352, R355), and the arrivals at REGROW and REGSHR (R87 to R90). -/

namespace Sys2Proof.Machine

/-! Lane collectives (R77). -/

/-- A lane's fetch of another's value: its own where the source lane is not among the active lanes. -/
def laneGet (vals : List (Nat × Word)) (own : Word) (src : Int) : Word :=
  if 0 ≤ src ∧ src ≤ 31 then (vals.lookup src.toNat).getD own else own

/-- The result of a LANE instruction in a lane, from its b operand and the a operands of the active lanes (R77). -/
def laneResult (i : Instr) (l : Nat) (own b : Word) (vals : List (Nat × Word)) : Word :=
  let n : Nat := b.toNat % 32
  match i with
  | .lgetIdx _ _ _ _ _ => laneGet vals own n
  | .lgetUp _ _ _ _ _ => laneGet vals own (l - n)
  | .lgetDn _ _ _ _ _ => laneGet vals own (l + n)
  | .lgetXor _ _ _ _ _ => laneGet vals own (l ^^^ n : Nat)
  | .ballot _ _ _ => BitVec.ofNat 32 ((vals.map fun x => if x.2 = 0 then 0 else 2 ^ x.1).foldl (· + ·) 0)
  | .redAddI32 _ _ _ => (vals.map (·.2)).foldl (· + ·) 0
  | .scanAddI32 _ _ _ => ((vals.filter fun x => decide (x.1 ≤ l)).map (·.2)).foldl (· + ·) 0
  | .redMinI32 _ _ _ => (vals.map (·.2)).foldl minI own
  | _ => own

/-- The registers a, b and d of a LANE instruction; those of the one-source forms have no b. -/
def laneOperands (i : Instr) : Option (Nat × Nat × Nat) := match i with
  | .lgetIdx _ _ b a d => some (a.toNat, b.toNat, d.toNat)
  | .lgetUp _ _ b a d => some (a.toNat, b.toNat, d.toNat)
  | .lgetDn _ _ b a d => some (a.toNat, b.toNat, d.toNat)
  | .lgetXor _ _ b a d => some (a.toNat, b.toNat, d.toNat)
  | .ballot _ a d => some (a.toNat, 0, d.toNat)
  | .redAddI32 _ a d => some (a.toNat, 0, d.toNat)
  | .scanAddI32 _ a d => some (a.toNat, 0, d.toNat)
  | .redMinI32 _ a d => some (a.toNat, 0, d.toNat)
  | _ => none

/-- The shares of a lane collective, from the values held at release (R76). -/
def laneShares (i : Instr) (ls : List (Nat × Thread)) (a b d : Nat) : List LaneShare :=
  let vals := ls.map fun x => (x.1, x.2.val a)
  if d = 0 then [] else ls.map fun x =>
    { lane := x.1, dst := d, new := [laneResult i x.1 (x.2.val a) (x.2.val b) vals], old := [x.2.val d] }

/-! MFRAG (R279, R280). -/

/-- Element e of a lane's eight-register operand of width w (R279); +0 for a lane outside the active ones. -/
def fragElem (ls : List (Nat × Thread)) (r w l e : Nat) : Nat :=
  match ls.lookup l with
  | none => 0
  | some t => elem (t.val (r + e / (32 / w))).toNat w (e % (32 / w))

/-- One accumulator of MFRAG: row r of A and column c of B, each element with its type, added to x (R280, R289). -/
def fragSum (f : Word) (canon : Bool) (k : Nat) (x : Word) (a b : Nat → Nat) : Nat × Word :=
  if fmtAcc f = 4 then
    ((x + BitVec.ofInt 32 (((List.range k).map fun j => readInt (fmtA f) (a j) * readInt (fmtB f) (b j)).foldl (· + ·) 0)).toNat, 0)
  else f32.dot canon (f32.value false x.toNat) ((List.range k).map fun j =>
    ((fmtOf (fmtA f)).value false (a j), (fmtOf (fmtB f)).value false (b j)))

/-- A lane's share of an MFRAG: its eight accumulators and the flags they raise (R280). -/
def fragShare (f : Word) (k : Nat) (ls : List (Nat × Thread)) (d a b l : Nat) (t : Thread) : LaneShare :=
  let wa := typeBits (fmtA f)
  let wb := typeBits (fmtB f)
  let rs := (List.range 8).map fun j =>
    let r := l % 16
    let c := 8 * (l / 16) + j
    fragSum f t.mode.canon k (t.val (d + j))
      (fun e => fragElem ls a wa (r + 16 * (e / (k / 2))) (e % (k / 2)))
      (fun e => fragElem ls b wb (c + 16 * (e / (k / 2))) (e % (k / 2)))
  { lane := l, dst := d, new := rs.map fun r => BitVec.ofNat 32 r.1, old := t.vals d 8
    flags := (rs.map (·.2)).foldl (· ||| ·) 0 }

/-! Convergence (R66, R75, R76, R280). -/

/-- Release the lanes of a bundle: each is over with the instruction and stands after it; STEP is taken once all of them are. -/
def State.releaseLanes (s : State) (bid : Nat) (ls : List (Nat × Conv)) : State :=
  State.takeAll (ls.foldl (fun (acc : State × List Met) x =>
    let m := acc.1.meetDone bid x.1 x.2.pc (x.2.ipc + 4)
    (m.1, acc.2 ++ m.2)) (s, [])) bid

/-- Record a released collective whose results are still to be written. -/
def State.addResults (s : State) (bid : Nat) (mfrag : Bool) (shares : List LaneShare) : State :=
  if shares.isEmpty then s
  else (s.modBundle bid fun b => { b with results := b.results ++ [{ id := s.fresh, mfrag := mfrag, shares := shares }] }).next

/-- A released convergence instruction leaves, in each lane that is parked, an RCV that it will pass alone (R75, R324); the lanes that were
there have missed none. -/
def Bundle.noteRcv (b : Bundle) (i : Instr) (pc : DWord) : Bundle :=
  { b with threads := b.threads.map fun t => match t.life with
      | .live => { t with missed := [] }
      | .parked _ => if i = .rcv then { t with missed := t.missed ++ [pc] } else t
      | .exited => t }

/-- All live lanes of a bundle stand at one convergence instruction: it runs. -/
def State.releaseAt (s : State) (b : Bundle) (i : Instr) (ls : List (Nat × Conv)) : State :=
  let act := (ls.filter fun x => x.2.active).map fun x => (x.1, b.threads.getD x.1 {})
  match i with
  | .mfrag c rb a d =>
    let words := act.map fun x => x.2.val c.toNat
    match words with
    | [] => s.releaseLanes b.id ls
    | f :: _ =>
      match if words.all (· == f) then mfragK f else none with
      | none =>
        let met := act.foldl (fun (acc : State × List Met) x =>
          let m := acc.1.meet b.id x.1 { cause := 9, detail := (x.2.val c.toNat).zeroExtend 64 } x.2.pc x.2.pc
          (m.1, acc.2 ++ m.2)) (s, [])
        State.takeAll (met.1.releaseLanes b.id (ls.filter fun x => !x.2.active), met.2) b.id
      | some k =>
        let s := s.addResults b.id true (act.map fun x => fragShare f k act d.toNat a.toNat rb.toNat x.1 x.2)
        s.releaseLanes b.id ls
  | i =>
    let s := match laneOperands i with
      | some (a, rb, d) => s.addResults b.id false (laneShares i act a rb d)
      | none => s
    s.releaseLanes b.id ls

/-- Settle a bundle's convergence: run the instruction all its live lanes stand at, or raise COLLECTIVE where they stand at
two or more (R66): in every lane that waits there, one that a PRED has switched off included (R66 says every waiting thread, R46 gives
such a lane no cause but R25's; the model's choice, log entry 110). -/
def State.converge (s : State) (bid : Nat) : State :=
  match s.bundle? bid with
  | none => s
  | some b =>
    let live := (List.range b.threads.length).filter fun l => (b.threads.getD l {}).live
    let ls := live.filterMap fun l => ((b.threads.getD l {}).conv).map fun c => (l, c)
    if !(s.issues b) || !(ls.length == live.length) then s
    else match ls with
      | [] => s
      | x :: _ =>
        let pcs := distinct (ls.map fun y => y.2.pc)
        if pcs.length = 1 then (s.modBundle bid fun b => b.noteRcv x.2.instr x.2.pc).releaseAt b x.2.instr ls
        else State.takeAll (ls.foldl (fun (acc : State × List Met) y =>
          let m := acc.1.meet bid y.1 { cause := 0x0A, detail := BitVec.ofNat 64 (0x01000000 + pcs.length) } y.2.pc y.2.pc
          (m.1, acc.2 ++ m.2)) (s, [])) bid

/-! Barriers (R183, R184, R352). -/

/-- The bundles of a block or a wave, without its handlers. -/
def State.bundlesOf (s : State) (o : Owner) : List Bundle := s.bundles.filter fun b => b.owner == o

/-- The live threads of a block or a wave, as bundle index, bundle and lane. -/
def State.liveOf (s : State) (o : Owner) : List (Nat × Nat × Nat) :=
  (s.bundlesOf o).flatMap fun b => ((List.range b.threads.length).filter fun l => (b.threads.getD l {}).live).map
    fun l => (b.index, b.id, l)

/-- Raise CALIPER on the lowest live thread among those that arrived with BAR.CHK (R355). -/
def State.raiseCaliper (s : State) (o : Owner) (checkers : List (Nat × Nat)) (t : Trap) : State :=
  match ((s.liveOf o).filter fun x => checkers.contains (x.1, x.2.2)) with
  | [] => s
  | y :: ys =>
    let low := ys.foldl (fun a b => if b.1 < a.1 ∨ (b.1 = a.1 ∧ b.2.2 < a.2.2) then b else a) y
    let th := s.thread low.2.1 low.2.2
    s.raise low.2.1 low.2.2 t th.pc th.nxt

/-- A barrier's phase completes in a block: monitors are checked in a checking phase, its own or its network's, and the phase advances. -/
def State.completeBar (s : State) (b : Bundle) (q : Nat) (sums : Option (List (List (Option (Int × Int))))) (chk : Bool) : State :=
  match s.blockOf b with
  | none => s
  | some k =>
    let r := k.bars.getD q {}
    let c := if r.checking || chk then k.checkMons sums (Config.mismatchSum s.draw) else (k, none)
    let s := (s.modBlk b fun _ => { c.1 with bars := c.1.bars.set q { r with
        phase := r.phase + 1, arrivals := [], checkers := [], network := none, checking := false, sent := false, sums := [] } }).drawn
    match c.2 with
    | some t => s.raiseCaliper b.owner r.checkers t
    | none => s

/-- Whether a thread still has a scratchpad store, or an ATOM there, that it issued before its arrival at a barrier (R184). -/
def State.spadBefore (s : State) (b : Bundle) (l q : Nat) : Bool :=
  s.reqs.any fun r => r.of b.id l && decide (r.id < ((b.threads.getD l {}).arrivedOp.getD q 0)) && match r.kind, r.place with
    | .store _ _, .spad _ _ => r.phase == .issued
    | .store _ _, .nowhere => r.phase == .issued
    | .atom _ _ _ _ _, .spad _ _ => !(r.phase.landed)
    | .atom _ _ _ _ _, .nowhere => !(r.phase.landed)
    | _, _ => false

/-- Whether a barrier has completed locally (R183); the scratchpad stores of the arrived threads, also of those that have ended or
parked since, have entered (R184). -/
def State.barFull (s : State) (b : Bundle) (q : Nat) (r : Bar) : Bool :=
  !r.arrivals.isEmpty && !r.sent && r.pending == 0 &&
  ((s.liveOf b.owner).all fun x => r.arrivals.contains (x.1, x.2.2)) &&
  !((s.bundlesOf b.owner).any fun x => (List.range x.threads.length).any fun l => r.arrivals.contains (x.index, l) && s.spadBefore x l q)

/-- A block's sums, as its arrival carries them (R354). -/
def Block.sums (k : Block) : List (Option (Int × Int)) := k.mons.map fun m => m.map fun m => (m.sum, m.q)

/-- Settle one barrier: a block barrier completes; a wider one sends its arrival to its network, with the sums of the moment (R186, R354). -/
def State.settleBar (s : State) (b : Bundle) (q : Nat) : State :=
  match s.blockOf b with
  | none => s
  | some k =>
    let r := k.bars.getD q {}
    if k.halted || !(s.barFull b q r) then s
    else match r.network with
      | some n => if n ≤ 1 then s.completeBar b q none false
        else s.modBlk b fun k => { k with bars := k.bars.set q { r with sent := true, sums := k.sums } }
      | none => s.completeBar b q none false

/-- Threads held in BAR.SYNC or BAR.CHK whose phase is over pass the barrier. -/
def State.passBars (s : State) (b : Bundle) : State :=
  (List.range b.threads.length).foldl (fun s l =>
    let t := s.thread b.id l
    match t.mid with
    | some (.barWait op _) =>
      let q := op.toNat % 8
      if t.live && !(t.arrived.getD q none == some (s.bar b q).phase) then s.finishLane b.id l t.pc t.nxt else s
    | _ => s) s

/-- Settle the barriers of the block or wave a bundle works for. -/
def State.settleBars (s : State) (b : Bundle) : State :=
  let s := (List.range 8).foldl (fun s q => s.settleBar b q) s
  if ((s.blockOf b).map (·.halted)).getD false then s else (s.bundlesOf b.owner).foldl State.passBars s

/-! REGROW and REGSHR (R87 to R90). -/

/-- Bundles of a block. -/
def Block.bundles (k : Block) : Nat := ceilDiv k.nthreads 32

/-- Every thread that waits in the request goes on, also one that came to it after a RETT, whatever value it named (R87; the model's
choice, log entry 129). -/
def State.finishRequests (s : State) (k : Nat) : State :=
  (s.liveOf (.block k)).foldl (fun s x =>
    let t := s.thread x.2.1 x.2.2
    match t.mid with
    | some (.request _ _) => s.finishLane x.2.1 x.2.2 t.pc t.nxt
    | _ => s) s

/-- Raise a cause at every thread that waits in the request. -/
def State.raiseRequests (s : State) (k : Nat) (tr : Trap) : State :=
  (s.liveOf (.block k)).foldl (fun s x =>
    let t := s.thread x.2.1 x.2.2
    match t.mid with
    | some (.request _ _) => s.raise x.2.1 x.2.2 tr t.pc t.pc
    | _ => s) s

/-- When every live thread of a block waits at a REGROW or a REGSHR, the block's request stands (R87, R88, R89, R90). -/
def State.settleRequest (s : State) (k : Block) : State :=
  let reqs := (s.liveOf (.block k.id)).map fun x => match (s.thread x.2.1 x.2.2).mid with
    | some (.request shed v) => some (shed, v)
    | _ => none
  if k.request.isSome || k.halted || reqs.isEmpty || reqs.any (·.isNone) then s
  else
    let rs := reqs.filterMap id
    let v := (rs.map (·.2)).foldl max 0
    if rs.any (·.1) && rs.any (fun r => !r.1) then s.raiseRequests k.id { cause := 0x0A, detail := 0x02000000 }
    else if rs.any (·.1) then
      if k.allot ≤ v then s.finishRequests k.id
      else (s.modBlock k.id fun k => { k with request := some { shed := true, value := v, order := s.fresh } }).next
    else if k.bundles * v > 4096 then s.raiseRequests k.id { cause := 0x0C, detail := BitVec.ofNat 64 v }
    else if v ≤ k.allot then s.finishRequests k.id
    else (s.modBlock k.id fun k => { k with request := some { shed := false, value := v, order := s.fresh } }).next

/-- Everything the cores settle by themselves. -/
def State.settle (s : State) : State :=
  let s := (s.bundles.map (·.id)).foldl State.converge s
  let s := (s.bundles.filter fun b => b.index == 0 && !b.isHandler).foldl State.settleBars s
  s.blocks.foldl State.settleRequest s

end Sys2Proof.Machine
end

