-- ==== Sys2Proof/Machine/Threads.lean ====
section
/-! DEFINITION. Threads: control transfers (R67 to R69), PRED, EXT and NOP (R46, R47, R70, R71), YIELD (R72), RCV and the lane
collectives (R75 to R77), special registers (R78 to R81), REFETCH (R82), REGROW and REGSHR (R87 to R90). -/

namespace Sys2Proof.Machine

/-- Go on from an outcome's next state. -/
def onNext (r : Result) (f : State → State) : Result := match r with
  | .next s => .next (f s)
  | .fault e => .fault e
  | .refused e => .refused e

/-! Control transfers. -/

/-- A displacement in parcels from an instruction's own address (R22, R46). -/
def dispFrom {w : Nat} (pc : DWord) (d : BitVec w) : DWord := pc + d.signExtend 64 * 2

/-- Write the link pair w126:w127 (R68). -/
def Thread.link (t : Thread) (pc : DWord) : Thread := t.writePair 126 pc

/-- An odd target traps ALIGN (R22, R69). -/
def oddTarget (p : BitVec 7) : Check := fun _ _ _ _ t =>
  if (t.pair p.toNat).toNat % 2 = 1 then [{ cause := 7, detail := t.pair p.toNat }] else []

def execBr (i : BitVec 19) (n : BitVec 1) (p : BitVec 3) (s : State) : Result :=
  runLanes (.br i n p) noCheck (fun s g _ l =>
    (s, if (s.thread g.bundle l).pred p.toNat ^^ (n == 1#1) then .goto (dispFrom g.ipc i) else .next)) s
def execCall (i : BitVec 23) (s : State) : Result :=
  runLanes (.call i) noCheck (fun s g _ l =>
    (s.modThread g.bundle l (·.link (g.ipc + BitVec.ofNat 64 g.size)), .goto (dispFrom g.ipc i))) s
def execJmp (p : BitVec 7) (s : State) : Result :=
  runLanes (.jmp p) (oddTarget p) (fun s g _ l => (s, .goto ((s.thread g.bundle l).pair p.toNat))) s
def execCallr (p : BitVec 7) (s : State) : Result :=
  runLanes (.callr p) (oddTarget p) (fun s g _ l =>
    (s.modThread g.bundle l (·.link (g.ipc + BitVec.ofNat 64 g.size)), .goto ((s.thread g.bundle l).pair p.toNat))) s
def execRet (p : BitVec 7) (s : State) : Result :=
  runLanes (.ret p) (oddTarget p) (fun s g _ l => (s, .goto ((s.thread g.bundle l).pair p.toNat))) s

/-! NOP, PRED and EXT. -/

def execNop (s : State) : Result := runPure .nop id s

/-- A lead word: it governs the next instruction of the same group, with fewer active lanes (PRED) or an immediate (EXT). -/
def lead (i : Instr) (f : State → Group → Group) (s : State) : Result :=
  match s.group with
  | none => .next s
  | some g => match s.bundle? g.bundle with
    | none => .next { s with group := none }
    | some b => match s.issuesOf g.pfx b i with
      | [] => .next { s with group := some { f s g with ipc := g.ipc + BitVec.ofNat 64 g.size } }
      | ds => .next ({ s with group := none }.raiseGroup g { cause := 3, detail := illegalDetail g.word ds })

def execPred (n : BitVec 1) (q : BitVec 3) (s : State) : Result :=
  lead (.pred n q) (fun s g => { g with
    pfx := .pred, active := g.active.filter fun l => (s.thread g.bundle l).pred q.toNat ^^ (n == 1#1) }) s
def execExt (i : BitVec 20) (s : State) : Result := lead (.ext i) (fun _ g => { g with pfx := .ext i }) s

/-! YIELD (R72). -/

/-- The other bundles of a bundle's pipe that have a ready group. -/
def State.readyNeighbours (s : State) (b : Bundle) : List Nat :=
  (s.bundles.filter fun x => x.core == b.core && x.pipe == b.pipe && !(x.id == b.id) && !(s.readyLanes x).isEmpty).map (·.id)

def execYield (s : State) : Result :=
  runWith .yield noCheck (fun s g b ls =>
    let others := s.readyNeighbours b
    (ls.foldl (fun s l => s.modThread g.bundle l fun t =>
      { t with yield := if others.isEmpty then none else some { until_ := s.clk + 64, others := others } }) s, [])) s

def execYieldEnd (bundle lane : Nat) (s : State) : Result :=
  .next (match (s.thread bundle lane).yield with
    | none => s
    | some y => if decide (y.until_ ≤ s.clk) || y.others.isEmpty then
        s.modThread bundle lane fun t => { t with yield := none, waitCount := 0 } else s)

/-! Convergence: arrival (R75, R76, R280). -/

/-- Arrive at a convergence instruction: the destinations of a late producer become empty. -/
def Thread.arrive (t : Thread) (g : Group) (i : Instr) (active : Bool) : Thread :=
  let ds := ((opnds i).dsts.filter fun x => x.late && decide (x.reg ≠ 0)).flatMap fun x => (List.range x.n).map (x.reg + ·)
  let saved := if active then ds.map fun r => (r, t.val r) else []
  { (saved.foldl (fun t x => t.mark x.1 .pending) t) with
    conv := some { pc := g.start, ipc := g.ipc, instr := i, active := active, saved := saved } }

/-- Whether a lane that reaches an RCV passes it alone: its bundle released it while the lane was parked (R75, R324; log entry 127). -/
def Thread.passesAlone (t : Thread) (i : Instr) (pc : DWord) : Bool := i == .rcv && t.missed.contains pc

/-- A convergence instruction: active and inactive lanes arrive, and the core runs it when all live lanes stand at it. -/
def runArrive (i : Instr) (s : State) : Result :=
  onNext (runWith i noCheck (fun s g b ls =>
    let off := g.lanes.filter fun l => !(g.active.contains l)
    let alone (l : Nat) : Bool := (b.threads.getD l {}).passesAlone i g.start
    ((ls ++ off).foldl (fun s l => s.modThread g.bundle l fun t =>
        if alone l then { t with missed := t.missed.erase g.start } else t.arrive g i (ls.contains l)) s,
      (ls ++ off).map fun l => (l, if alone l then .next else .stay))) s)
    fun t => match s.group with
      | some g => t.converge g.bundle
      | none => t

def execRcv (s : State) : Result := runArrive .rcv s
def execLgetIdx (x y : BitVec 1) (b a d : BitVec 7) (s : State) : Result := runArrive (.lgetIdx x y b a d) s
def execLgetUp (x y : BitVec 1) (b a d : BitVec 7) (s : State) : Result := runArrive (.lgetUp x y b a d) s
def execLgetDn (x y : BitVec 1) (b a d : BitVec 7) (s : State) : Result := runArrive (.lgetDn x y b a d) s
def execLgetXor (x y : BitVec 1) (b a d : BitVec 7) (s : State) : Result := runArrive (.lgetXor x y b a d) s
def execBallot (y : BitVec 1) (a d : BitVec 7) (s : State) : Result := runArrive (.ballot y a d) s
def execRedAddI32 (y : BitVec 1) (a d : BitVec 7) (s : State) : Result := runArrive (.redAddI32 y a d) s
def execScanAddI32 (y : BitVec 1) (a d : BitVec 7) (s : State) : Result := runArrive (.scanAddI32 y a d) s
def execRedMinI32 (y : BitVec 1) (a d : BitVec 7) (s : State) : Result := runArrive (.redMinI32 y a d) s
def execMfrag (c : BitVec 5) (b a d : BitVec 7) (s : State) : Result := runArrive (.mfrag c b a d) s

/-- Write a released collective's results: every destination becomes full (R76, R280). -/
def State.writeCollective (s : State) (op : Nat) (mfrag : Bool) : State :=
  { s with bundles := s.bundles.map fun b => match b.results.find? fun c => c.id == op && c.mfrag == mfrag with
      | none => b
      | some c => { b with
          results := b.results.filter fun x => !(x.id == op)
          threads := c.shares.foldl (fun ts x => ts.modify x.lane fun t => (t.writes x.dst x.new).orFlags x.flags) b.threads } }

def execLaneResultWrite (op : Nat) (s : State) : Result := .next (s.writeCollective op false)
def execMfragResultWrite (op : Nat) (s : State) : Result := .next (s.writeCollective op true)

/-! Special registers (R78 to R81). -/

/-- The progress estimate in thousandths (R337). -/
def Block.progress (k : Block) : Nat := match k.override with
  | some v => v
  | none => if k.expected = 0 then 0 else min 1000 (1000 * k.retired / k.expected)

/-- A register of the block's launch: the node fields (R226), the argument, or 0 for other launches (R79). -/
def State.launchWord (s : State) (b : Bundle) (a : Nat) : Word :=
  match s.blockOf b with
  | none => 0
  | some k => match k.node with
    | some n => if a = 0x0C then BitVec.ofNat 32 n.sweep else n.fields.getD (if a = 0x08 then 0 else if a = 0x09 then 3
        else if a = 0x0A then 11 else if a = 0x0B then 12 else if a = 0x0D then 7 else 8) 0
    | none =>
      let arg := ((s.taskOf b).map (·.arg)).getD 0
      if a = 0x0D then arg.extractLsb' 0 32 else if a = 0x0E then arg.extractLsb' 32 32 else 0

/-- The origin tag (R328). -/
def State.originWord (s : State) (b : Bundle) (o : Origin) (a : Nat) : Word :=
  if a = 0x40 then BitVec.ofNat 32 ((s.taskOf b).map (·.tid) |>.getD 0)
  else if a = 0x41 then BitVec.ofNat 32 o.bundleIndex
  else if a = 0x42 then BitVec.ofNat 32 o.lane
  else if a = 0x43 then o.opc.extractLsb' 0 32
  else if a = 0x44 then o.opc.extractLsb' 32 32
  else if a = 0x45 then BitVec.ofNat 32 (o.trap.cause + 65536 * o.trap.status.toNat)
  else if a = 0x46 then o.trap.addr.extractLsb' 0 32
  else if a = 0x47 then o.trap.addr.extractLsb' 32 32
  else if a = 0x48 then o.trap.detail.extractLsb' 0 32
  else if a = 0x49 then o.trap.detail.extractLsb' 32 32
  else BitVec.ofNat 32 ((if o.imprecise then 1 else 0) + (if o.exited then 2 else 0) + if o.afterAbort then 4 else 0)

/-- The value SRD reads (R79); a low half of %clock or %time goes through the latch first (R80). -/
def State.special (s : State) (b : Bundle) (l : Nat) (t : Thread) (a : Nat) : Word :=
  let k := s.blockOf b
  if a = 0x00 then BitVec.ofNat 32 (if b.isHandler then l else 32 * b.index + l)
  else if a = 0x01 then BitVec.ofNat 32 ((k.map (·.nthreads)).getD 0)
  else if a = 0x02 then BitVec.ofNat 32 b.index
  else if a = 0x03 then BitVec.ofNat 32 l
  else if a ≤ 0x0E then s.launchWord b a
  else if a = 0x10 then BitVec.ofNat 32 b.core
  else if a = 0x11 then BitVec.ofNat 32 (b.core / 4)
  else if a = 0x12 then BitVec.ofNat 32 (dieOf b.core)
  else if a = 0x13 then BitVec.ofNat 32 s.pkg
  else if a = 0x18 then t.clkLatch.extractLsb' 0 32
  else if a = 0x19 then t.clkLatch.extractLsb' 32 32
  else if a = 0x1A then t.timeLatch.extractLsb' 0 32
  else if a = 0x1B then t.timeLatch.extractLsb' 32 32
  else if a = 0x20 then t.fmode
  else if a = 0x21 then t.fflags
  else if a = 0x24 then (if (k.map (·.spflag)).getD false then 1 else 0)
  else if a = 0x25 then (k.map (·.spaddr)).getD 0
  else if a = 0x28 then BitVec.ofNat 32 ((k.map (·.txlim)).getD 8)
  else if a = 0x29 then BitVec.ofNat 32 ((k.map (·.carvth)).getD 40)
  else if a = 0x2C then BitVec.ofNat 32 ((k.map (·.retired)).getD 0)
  else if a = 0x2D then BitVec.ofNat 32 ((k.map (·.retired)).getD 0 / 2 ^ 32)
  else if a = 0x2E then BitVec.ofNat 32 ((k.map (·.progress)).getD 0)
  else match t.origin with
    | some o => s.originWord b o a
    | none => 0

/-- Capture %clock or %time where a low half is read (R80). One counter serves the %clock of every die: R10 leaves open whether the
dies leave reset in one clk (the model's choice, log entry 111). A thread's readings of %time never fall, though it may have moved to
a die whose %time lies lower (R11). -/
def State.latch (s : State) (b : Bundle) (t : Thread) (a : Nat) : Thread :=
  if a = 0x18 then { t with clkLatch := BitVec.ofNat 64 s.clk }
  else if a = 0x1A then
    { t with timeLatch := BitVec.ofNat 64 (max t.timeLatch.toNat (s.timeIn ((s.taskOf b).map (·.partition) |>.getD 0) (dieOf b.core))) }
  else t

def execSrd (a d : BitVec 7) (s : State) : Result :=
  runLanes (.srd a d) noCheck (fun s g b l =>
    (s.modThread g.bundle l fun t =>
      let t := s.latch b t a.toNat
      t.write d.toNat (s.special b l t a.toNat), .next)) s

/-- The value a write of %carvth or %txlim leaves (R79). -/
def carvthOf (v : Word) : Nat := let x := bits v.toNat 6 0; if x = 0 ∨ 100 < x then 100 else x
def txlimOf (v : Word) : Nat := let x := bits v.toNat 7 0; if x = 0 then 1 else x

/-- A lane's write of a special register (R79, R81). -/
def State.setSpecial (s : State) (b : Bundle) (l a : Nat) (v : Word) : State :=
  if a = 0x20 then s.modThread b.id l fun t => { t with fmode := v &&& 0xF }
  else if a = 0x21 then s.modThread b.id l fun t => { t with fflags := v &&& 0x1F }
  else if a = 0x24 then s.modBlk b fun k => { k with spflag := bit v.toNat 0 }
  else if a = 0x28 then s.modBlk b fun k => { k with txlim := txlimOf v }
  else if a = 0x29 then s.modBlk b fun k => { k with carvth := carvthOf v }
  else s

def execSwr (a d : BitVec 7) (s : State) : Result :=
  runLanes (.swr a d) noCheck (fun s g b l => (s.setSpecial b l a.toNat ((s.thread g.bundle l).val d.toNat), .next)) s

/-! REFETCH (R82). -/

/-- Drop every parcel held for the code of the issuing block. -/
def dropParcels : Body := fun s _ b ls => match ls with
  | [] => (s, [])
  | _ => (s.modBlk b fun k => { k with icode := [] }, [])

def execRefetch (s : State) : Result := runWith .refetch noCheck dropParcels s
def execRefetchFence (s : State) : Result := runWith .refetchFence noCheck dropParcels s

/-! REGROW and REGSHR (R87 to R90). -/

/-- Arrive at the block's request; in a handler or combiner thread it traps ILLEGAL on each active lane (R87), and a value above 128
registers traps GROW at issue (R90). -/
def runRequest (i : Instr) (shed : Bool) (v : Nat) (s : State) : Result :=
  onNext (runLanes i (fun _ g b _ _ => if b.isHandler || b.isWave then [{ cause := 3, detail := Config.illegalDetail g.word }] else if 128 < v then [{ cause := 0x0C, detail := BitVec.ofNat 64 v }] else [])
    (fun s g _ l => (s.modThread g.bundle l fun t => { t with mid := some (.request shed v) }, .stay)) s)
    fun t => match (s.group.bind fun g => t.bundle? g.bundle).bind t.blockOf with
      | some k => t.settleRequest k
      | none => t

def execRegrow (i : BitVec 7) (s : State) : Result := runRequest (.regrow i) false (8 * i.toNat) s
def execRegshr (i : BitVec 7) (s : State) : Result := runRequest (.regshr i) true (8 * i.toNat) s

end Sys2Proof.Machine
end

