-- ==== Sys2Proof/Machine/Traps.lean ====
section
/-! DEFINITION. EXIT (R73), TRAPI, BRK, HALT and SETPRG (R331, R333, R337), handler waves and what their threads do (R326 to R332),
and imprecise faults (R334, R335). Taking a cause is State.raise in Ops. -/

namespace Sys2Proof.Machine

/-! Ending threads. -/

/-- The origin lane exits (R330): as KILL. -/
def State.killOrigin (s : State) (o : Origin) : State := if o.exited then s else s.exitLane o.bundle o.lane

/-- End a handler thread with its origin (R330). -/
def State.kill (s : State) (b l : Nat) : State :=
  let s := match (s.thread b l).origin with
    | some o => s.killOrigin o
    | none => s
  s.exitLane b l

def execExit (s : State) : Result :=
  runLanes .exit noCheck (fun s _ b l => (if b.isHandler then s.kill b.id l else s.exitLane b.id l, .gone)) s

def execKill (s : State) : Result := runLanes .kill noCheck (fun s _ b l => (s.kill b.id l, .gone)) s

def execKillb (s : State) : Result :=
  runLanes .killb noCheck (fun s _ b l => match b.owner.block?, (s.thread b.id l).origin with
    | some k, some o => (s.endBlock k o.trap o.opc o.bundleIndex o.lane, .gone)
    | _, _ => (s, .gone)) s

def execRett (s : State) : Result :=
  runLanes .rett noCheck (fun s _ b l => match s.originOf (s.thread b.id l) with
    | some (o, some _) => ((s.resumeLane o.bundle o.lane).exitLane b.id l, .gone)
    | _ => (s.kill b.id l, .gone)) s

/-! The origin's state (R329). -/

def execOreg (n d : BitVec 7) (s : State) : Result :=
  runLanes (.oreg n d) noCheck (fun s _ b l =>
    let v := match s.originOf (s.thread b.id l) with
      | some (_, some u) => u.val n.toNat
      | _ => 0
    (s.modThread b.id l fun t => t.write d.toNat v, .next)) s

def execOwr (n d : BitVec 7) (s : State) : Result :=
  runLanes (.owr n d) noCheck (fun s _ b l =>
    match s.originOf (s.thread b.id l) with
    | some (o, some _) => (s.modThread o.bundle o.lane fun u => u.write n.toNat ((s.thread b.id l).val d.toNat), .next)
    | _ => (s, .next)) s

/-- An odd resume PC traps ALIGN (R329). -/
def oddResume (d : BitVec 7) : Check := fun _ _ _ _ t =>
  if (t.pair d.toNat).toNat % 2 = 1 then [{ cause := 7, detail := t.pair d.toNat }] else []

/-- Set a parked lane's resume PC. -/
def Thread.setResume (t : Thread) (pc : DWord) : Thread := match t.life with
  | .parked p => { t with life := .parked { p with resume := pc } }
  | _ => t

def execOpc (d : BitVec 7) (s : State) : Result :=
  runLanes (.opc d) (oddResume d) (fun s _ b l =>
    match s.originOf (s.thread b.id l) with
    | some (o, some _) => (s.modThread o.bundle o.lane fun u => u.setResume ((s.thread b.id l).pair d.toNat), .next)
    | _ => (s, .next)) s

/-! TRAPI, BRK, HALT, SETPRG. -/

def execTrapi (n : BitVec 4) (s : State) : Result :=
  runLanes (.trapi n) noCheck (fun s _ _ _ => (s, .trap { cause := 0x10, detail := n.zeroExtend 64 })) s

def execBrk (s : State) : Result := runLanes .brk noCheck (fun s _ _ _ => (s, .trap { cause := 0x0F })) s

/-- HALT: the group completes, except that a lane in a transaction stands at its resume point (R333). -/
def execHalt (s : State) : Result :=
  runWith .halt noCheck (fun s g b ls => match ls, b.owner.block? with
    | _ :: _, some k =>
      (s.haltBlock k, g.lanes.map fun l => (l, if (s.thread b.id l).tx.isSome then .gone else .next))
    | _, _ => (s, [])) s

def execSetprg (a : BitVec 7) (s : State) : Result :=
  runWith (.setprg a) noCheck (fun s _ b ls => match ls with
    | [] => (s, [])
    | _ => (s.modBlk b fun k => { k with override := some (min ((s.thread b.id (highest ls)).val a.toNat).toNat 1000) }, [])) s

/-! Handler waves (R326, R327). -/

/-- Lanes of a block that ask for a handler: order key (clock, bundle index, lane), bundle, lane, and the waiting fault of an exited
lane or the park of a parked one. -/
structure Asker where
  clk : Nat
  index : Nat
  lane : Nat
  bundle : Nat
  trap : Trap
  opc : DWord
  imprecise : Bool
  exited : Bool
  after : Bool
  /-- The waiting fault's own number (R334). -/
  seq : Nat := 0
  deriving DecidableEq, Repr

/-- Parking order; a tie by bundle and then by lane (R326). -/
def Asker.before (x y : Asker) : Bool :=
  decide (x.clk < y.clk) || (x.clk == y.clk && (decide (x.index < y.index) || (x.index == y.index && decide (x.lane ≤ y.lane))))

/-- Insertion into parking order. -/
def insertAsker (x : Asker) : List Asker → List Asker
  | [] => [x]
  | y :: ys => if x.before y then x :: y :: ys else y :: insertAsker x ys

/-- The lanes of a block that wait for a handler, in parking order. -/
def State.askers (s : State) (k : Block) : List Asker :=
  let parked := (s.bundlesOf (.block k.id)).flatMap fun b => (List.range b.threads.length).filterMap fun l =>
    ((b.threads.getD l {}).park?.filter fun p => p.server.isNone).map fun p =>
      ({ clk := p.clk, index := b.index, lane := l, bundle := b.id, trap := p.trap, opc := p.opc, imprecise := p.imprecise
         exited := false, after := p.afterAbort } : Asker)
  let late := k.faults.filterMap fun f => f.asks.map fun a =>
    ({ clk := a.2, index := f.index, lane := f.lane, bundle := f.bundle, trap := f.trap, opc := f.pc, imprecise := true
       exited := true, after := false, seq := a.1 } : Asker)
  (parked ++ late).foldr insertAsker []

/-- Whether some thread of a handler bundle has not ended. -/
def Bundle.working (b : Bundle) : Bool := b.threads.any fun t => !(t.life == .exited)

/-- Handler bundles in use on a core. -/
def State.handlersIn (s : State) (core : Nat) : Nat :=
  (s.bundles.filter fun b => b.core == core && b.isHandler && b.working).length

/-- The pipe of a core with the fewest resident bundles, the lowest-numbered on a tie (R58). A handler bundle whose threads have ended
is no longer one (R59). -/
def State.emptiestPipe (s : State) (core : Nat) : Nat :=
  let n (p : Nat) : Nat := (s.bundles.filter fun b => b.core == core && b.pipe == p && (!b.isHandler || b.working)).length
  (List.range 4).foldl (fun best p => if n p < n best then p else best) 0

/-- A handler thread's state at its start (R327). -/
def State.handlerThread (s : State) (p : Nat) (x : Asker) : Thread :=
  { pc := s.handlerPc p x.trap.cause, regs := List.replicate 32 {}
    origin := some { bundle := x.bundle, lane := x.lane, bundleIndex := x.index, trap := x.trap, opc := x.opc
                     imprecise := x.imprecise, exited := x.exited, afterAbort := x.after } }

/-- Whether a handler bundle may form for a block (R326). -/
def State.handlerDue (s : State) (k : Block) (xs : List Asker) : Bool :=
  decide (s.handlersIn k.core < 4) && !k.halted && k.ending == .running && match xs with
    | [] => false
    | x :: _ => decide (32 ≤ xs.length) || decide (x.clk + 16 ≤ s.clk) || (s.liveOf (.block k.id)).isEmpty

/-- HANDLER_WAVE_FORMATION: parked lanes of a block are packed into a handler bundle (R326, R327). -/
def execHandlerWaveFormation (block : Nat) (s : State) : Result :=
  .next (match s.block? block with
    | none => s
    | some k =>
      let xs := s.askers k
      if !(s.handlerDue k xs) then s
      else
        let ys := xs.take 32
        let p := ((s.task? k.task).map (·.partition)).getD 0
        let id := s.fresh
        let b : Bundle := { id := id, owner := .handler block, index := 0, core := k.core, pipe := s.emptiestPipe k.core
                            threads := ys.map (s.handlerThread p) }
        let serve (s : State) (i : Nat) (y : Asker) : State :=
          if y.exited then s.modBlock block fun k => { k with
            faults := k.faults.filter fun f => !((f.asks.map Prod.fst) == some y.seq) }
          else s.modThread y.bundle y.lane fun t => match t.life with
            | .parked q => { t with life := .parked { q with server := some (id, i) } }
            | _ => t
        let s := { s with bundles := s.bundles ++ [b] }.next
        ((List.range ys.length).zip ys).foldl (fun s x => serve s x.1 x.2) s)

/-- Whether an engine still works for a bundle: a copy, whose tag is counted in a thread of it, or a command (R74, R179). -/
def State.engineOf (s : State) (bid : Nat) : Bool :=
  s.copies.any (fun c => c.packet.isNone && c.bundle == bid) || s.acbs.any (·.bundle == bid) || s.tiles.any (·.bundle == bid) ||
  s.parts.any (·.bundle == bid)

/-- Handler bundles whose threads have ended leave once their stores and their tags have (R344, R74). -/
def State.sweepHandlers (s : State) : State :=
  { s with bundles := s.bundles.filter fun b => !b.isHandler || b.working || s.reqs.any (·.bundle == b.id) || s.engineOf b.id }

/-! Imprecise faults (R334, R335). -/

/-- Whether a lane's handler is running. -/
def State.isServed (s : State) (b l : Nat) : Bool :=
  s.bundles.any fun x => x.threads.any fun t => !(t.life == .exited) && match t.origin with
    | some o => o.bundle == b && o.lane == l
    | none => false

/-- Whether some thread of a block remains: live, parked or handler. -/
def State.anyThread (s : State) (k : Nat) : Bool := s.bundles.any fun b => b.owner.block? == some k && b.working

/-- A fault waits; beyond 64 it parks the task with its own cause (R334). -/
def State.holdFault (s : State) (k : Block) (f : LateFault) : State :=
  if 64 ≤ k.faults.length then s.endBlock k.id f.trap f.pc f.index f.lane
  else s.modBlock k.id fun k => { k with faults := k.faults ++ [f] }

/-- An imprecise fault meets its origin (R334, R335). -/
def State.arriveFault (s : State) (k : Block) (f : LateFault) : State :=
  let p := ((s.task? k.task).map (·.partition)).getD 0
  let t := s.thread f.bundle f.lane
  if !(s.anyThread k.id) then
    s.modBlock k.id fun k => { k with late := match k.late with
      | some x => some (x.1, true)
      | none => some (f, false) }
  else match t.life with
    | .live =>
      if t.mid == some .commit || (match t.mid with | some (.answer _) => true | _ => false) then s.holdFault k f
      else if s.handlerPc p f.trap.cause = 0 then s.endBlock k.id f.trap f.pc f.index f.lane
      else match t.tx with
        | some x => (s.abortTx f.bundle f.lane (BitVec.ofNat 32 (0x00070000 + f.trap.cause))).parkLane f.bundle f.lane f.trap f.pc
            x.resume true true
        | none => s.parkLane f.bundle f.lane f.trap f.pc t.pc true false
    | .parked _ => s.holdFault k f
    | .exited =>
      if s.isServed f.bundle f.lane then s.holdFault k f
      else if s.handlerPc p f.trap.cause = 0 then s.endBlock k.id f.trap f.pc f.index f.lane
      else (s.holdFault k { f with asks := some (s.fresh, s.clk) }).next

/-- Waiting faults whose lane is no longer parked or served are handled as if they had just arrived (R334). -/
def State.settleFaults (s : State) (id : Nat) : State :=
  match s.block? id with
  | none => s
  | some k =>
    if !(k.ending == .running) then s
    else match k.faults.find? fun f => f.asks.isNone && !(s.isServed f.bundle f.lane) && (match (s.thread f.bundle f.lane).life with
        | .parked _ => false
        | .live => !((s.thread f.bundle f.lane).mid == some .commit) && (match (s.thread f.bundle f.lane).mid with
          | some (.answer _) => false
          | _ => true)
        | .exited => true) with
      | none => s
      | some f =>
        let rest := k.faults.erase f
        let s := s.modBlock id fun k => { k with faults := rest }
        s.arriveFault { k with faults := rest } f

/-- The fault of a store or command of a bundle reaches its block, or its handler thread (R332, R334). -/
def State.faultFor (s : State) (bid l : Nat) (tr : Trap) (pc : DWord) : State :=
  match s.bundle? bid with
  | none => s
  | some b => match b.owner with
    | .block k => match s.block? k with
      | some k => s.arriveFault k { bundle := bid, index := b.index, lane := l, trap := tr, pc := pc }
      | none => s
    | .handler k =>
      let t := s.thread bid l
      if t.live then s.raise bid l tr pc t.pc
      else match t.origin, s.block? k with
        | some o, some k => s.arriveFault k { bundle := o.bundle, index := o.bundleIndex, lane := o.lane, trap := tr, pc := pc }
        | _, _ => s
    | .wave _ => s.raise bid l tr pc pc

/-- A peer refuses a store (R162). -/
def State.storeRefused (s : State) (op : Nat) (status : BitVec 16) : State := match s.req? op with
  | none => s
  | some r => match r.kind, r.place, r.phase with
    | .store _ _, .peer _ _, .sent =>
      if !(status == 1#16 || status == 2#16 || status == 0xFFFF#16) || (s.bundle? r.bundle).isNone then s
      else (s.dropReq op).faultFor r.bundle r.lane { cause := 0x12, detail := r.pc, addr := r.ea, status := status } r.pc
    | _, _, _ => s

/-- IMPRECISE_FAULT: a peer's refusal of a store, an external input (R162, R425), or the failure of an MSPT's compile (R311). -/
def execImpreciseFault (op : Nat) (status : BitVec 16) (s : State) : Result :=
  .next (match s.tiles.find? (·.id == op) with
    | some t =>
      if t.bind ≠ 4 ∨ (s.bundle? t.bundle).isNone then s
      else
        let id := t.words.getD 7 0 ++ t.words.getD 6 0
        { s with tiles := upd s.tiles (·.id == op) fun t => { t with bind := 5 } }.faultFor t.bundle t.lane
          { cause := 9, detail := BitVec.ofNat 64 t.failed, addr := id } t.pc
    | none => match s.req? op with
      | none => s
      | some r => match r.kind, r.place, r.phase with
        | .store _ _, .peer _ _, .sent => s.externalOnce (s.partAt r.bundle) op (.refused op status) (·.storeRefused op status)
        | _, _, _ => s)

/-- A drain of SETSTRM that no thread carries any more is withdrawn (R143, R325). -/
def Block.sweepDrains (s : State) (k : Block) : Block :=
  { k with drains := k.drains.filter fun d => s.bundles.any fun b => b.owner.block? == some k.id && b.threads.any fun t => t.mid == some (.drain d.1) }

/-- What the traps of a step leave to settle. -/
def State.settleTraps (s : State) : State :=
  let s := (s.blocks.map (·.id)).foldl State.settleFaults s
  let s := s.sweepHandlers
  { s with blocks := s.blocks.map fun k => if k.drains.isEmpty then k else k.sweepDrains s }

end Sys2Proof.Machine
end

