-- ==== Sys2Proof/Machine/Clamp.lean ====
section
/-! DEFINITION. The Clamp: objects (R257 to R259), CALLO and its replies (R260 to R262), combiner waves (R263 to R266), and what a
trap in one does (R269). -/

namespace Sys2Proof.Machine

/-- The pipe of a core with the fewest block bundles, the lowest-numbered on a tie (R58). -/
def State.leastPipe (s : State) (core : Nat) : Nat :=
  let n (p : Nat) : Nat := (s.bundles.filter fun b => b.core == core && b.pipe == p && match b.owner with
    | .block _ => true
    | _ => false).length
  (List.range 4).foldl (fun best p => if n p < n best then p else best) 0

/-! Objects. -/

/-- Whether the fields of an object's descriptor keep R257. -/
def objFieldsOk (d : List Byte) : Bool :=
  let pc := field d 0 8
  let sa := field d 8 8
  let sl := field d 16 8
  let code := field d 56 4
  decide (pc % 2 = 0) && decide (pc ≠ 0) && decide (sa % 64 = 0) && decide (sl % 64 = 0) && decide (64 ≤ sl) &&
  decide (sl ≤ 2 ^ 32) && decide (1 ≤ field d 24 1) && decide (field d 24 1 ≤ 4) && decide (1 ≤ field d 25 1) &&
  decide (field d 25 1 ≤ 4) && decide (1 ≤ field d 26 2) && decide (field d 26 2 ≤ 4096) && decide (field d 28 2 ≤ 1023) &&
  decide (field d 30 2 ≤ 1) && decide (2 ≤ code) && decide (code ≤ 2 ^ 20) && decide (code % 2 = 0) && zeroBytes d 60 4

/-- The registered copy of a descriptor. -/
def objOf (id pa p : Nat) (d : List Byte) (xs : List Xlat) : Obj :=
  { id := id, desc := pa, partition := p, die := homeDie pa, method := BitVec.ofNat 64 (field d 0 8), stateAddr := field d 8 8
    stateLen := field d 16 8, args := field d 24 1, replies := field d 25 1, capacity := field d 26 2, gather := field d 28 2
    codeLen := field d 56 4, xlat := xs }

/-- What an object's ranges find: a state with their pages usable and the translation, `some none` where they cannot be leased, none
where a page is moving. -/
def State.objRanges (s : State) (p : Nat) (d : List Byte) : Option (Option (State × List Xlat)) :=
  match s.useSpan p (field d 8 8) (field d 16 8) true true with
  | .bad => some none
  | .wait => none
  | .ready s => match s.useSpan p (field d 0 8) (field d 56 4) true false with
    | .bad => some none
    | .wait => none
    | .ready s => match s.walkSpan p (field d 8 8) (field d 16 8) true true false noVersion,
        s.walkSpan p (field d 0 8) (field d 56 4) true false false noVersion with
      | .ok a, .ok b => some (some (s, a ++ b))
      | _, _ => some none

/-- What the lease of an object's ranges finds: it also waits for room in the translation store of its home's die, where its waves run
(R388). -/
def State.objLease (s : State) (p die : Nat) (d : List Byte) : Option (Option (State × List Xlat)) :=
  match s.objRanges p d with
  | some (some (s, xs)) => if s.storeRoom [die] (entryCount xs) then some (some (s, xs)) else none
  | x => x

/-- The checks of a descriptor's address (R258, R260): both rights, a multiple of 64. -/
def objChecks (a : BitVec 7) : Check := fun s _ b _ t => s.globalChecks b 0 (t.pair a.toNat) 64 true true 64

/-- Send an OBJREG or OBJRST. -/
def runObject (i : Instr) (reset : Bool) (a d : BitVec 7) (s : State) : Result :=
  runLanes i (objChecks a) (fun s g b l =>
    let ea := (s.thread b.id l).pair a.toNat
    ((s.modThread b.id l (·.mark d.toNat .pending)).addReq
      (s.newReq g b l 0 (.object reset d.toNat) (s.globalPlace b 0 ea) ea 64 s.fresh), .next)) s

def execObjreg (a d : BitVec 7) (s : State) : Result := runObject (.objreg a d) false a d s
def execObjrst (a d : BitVec 7) (s : State) : Result := runObject (.objrst a d) true a d s

/-- The object registered at a descriptor line. -/
def State.objectAt (s : State) (pa : Nat) : Option Obj := s.objects.find? (·.desc == pa)

/-- The home writes a word field of a descriptor, as a store in the line's order (R257). -/
def State.descWrite (s : State) (t pa off n v : Nat) : State := (s.homeStore t (pa + off) (leBytes n v)).1

/-- OBJREG at the home (R258): the status, or none while the lease waits. Where several statuses apply the lowest is returned (DESIGN
CHOICE, log entry 124). -/
def State.register (s : State) (r : Req) (p pa : Nat) : Option State :=
  let d := readBytes s.mem pa 64
  let ans (s : State) (v : Word) : State := s.doneAt r.id (s.line (pa / 64)).wts (0, 0) [v]
  if !(objFieldsOk d) then some (ans s 1)
  else if (s.objectAt pa).isSome then some (ans s 2)
  else if 2048 ≤ (s.objects.filter fun o => o.die == homeDie pa).length then some (ans s 3)
  else match s.objLease p (homeDie pa) d with
    | none => none
    | some none => some (ans s 4)
    | some (some (s, xs)) =>
      let s := { s with objects := s.objects ++ [objOf s.fresh pa p d xs] }.next
      some (ans (s.descWrite (s.core r.core).ctime pa 32 4 1) 0)

/-- An OBJREG or OBJRST that waits at its home, where it has arrived (R258, R259). -/
def Req.waitsAtHome (r : Req) : Bool := match r.kind, r.phase with
  | .object _ _, .sent => true
  | _, _ => false

/-- Whether a request to the Clamp may act at its home: in the order of its thread, of its instruction's lanes (R267) and of its sender
queue, or where it waits there. -/
def State.clampReady (s : State) (r : Req) : Bool :=
  r.waitsAtHome || (r.phase == .issued && s.reaches r && s.inOrder r &&
    !(s.reqs.any fun q => decide (q.id < r.id) && (q.entry == r.entry || r.lanes.any fun l => q.of r.bundle l) &&
      q.queue.isSome && q.queue == r.queue && q.phase == .issued))

/-- Answer a request of a CALLO lane: status and reply words (R261), and the write time that its acquire takes over (R268). -/
def State.replyTo (s : State) (req w : Nat) (status : Word) (ws : List Word) : State :=
  s.modReq req fun r => { r with phase := .done w 0 0 (status :: ((List.range 4).map fun i => ws.getD i 0)), held := none }

/-- A request to a descriptor that a peer homes: the operation leaves for the peer, whose objects are not known here, and any answer of
R258, R259 or R261 comes back (log entry 89). -/
def State.clampPeer (s : State) (r : Req) (p k va : Nat) : State :=
  let n := Config.pick s.draw
  let word (i : Nat) : Word := BitVec.ofNat 32 (Config.pick (s.draw + i))
  let d (args : List Word) : State := (((List.range 5).foldl (fun s _ => s.drawn) s).send p (.peer k (leBytes 8 va ++ args.flatMap fun w => leBytes 4 w.toNat)))
  match r.kind with
  | .object reset _ => (d []).doneAt r.id 0 (0, 0) [BitVec.ofNat 32 (if reset then n % 3 else n % 5)]
  | .call _ args =>
    if n % 132 < 128 then (d args).replyTo r.id 0 (BitVec.ofNat 32 (n % 132)) ((List.range 4).map fun i => word (i + 1))
    else (d args).replyTo r.id 0 (BitVec.ofNat 32 (0x100 + n % 132 - 128)) []
  | _ => s

/-- A request to the Clamp reaches its home once its release is satisfied; stash lines are written back for it (R255). -/
def State.clampAt (s : State) (op : Nat) (f : Req → Bundle → Nat → State) : State :=
  match s.req? op with
  | none => s
  | some r => match s.anyBundle r.bundle, r.place with
    | some b, .mem pa =>
      if !(s.clampReady r) then s
      else if !r.waitsAtHome && !(s.allPerformed b r.lane 4 0 (some r.id)) then s.writeBackFor b
      else if s.mustHold r (pa / 64) true then s.holdReq r
      else f r b pa
    | some b, .peer k va =>
      if !(s.clampReady r) then s
      else if !(s.allPerformed b r.lane 4 0 (some r.id)) then s.writeBackFor b
      else s.clampPeer r (s.partOf b) k va
    | _, _ => s

/-- A request has arrived at its home and waits there for a lease or a wave's end. -/
def State.waitAtHome (s : State) (r : Req) : State := s.modReq r.id fun q => { q with phase := .sent, held := none }

/-- OBJREG_AT_HOME. -/
def execObjregAtHome (op : Nat) (s : State) : Result :=
  .next (s.clampAt op fun r b pa => match r.kind with
    | .object false _ => (s.register r (s.partOf b) pa).getD (s.waitAtHome r)
    | _ => s)

/-- Answer every queued request of an object with a status, in arrival order. -/
def State.replyQueued (s : State) (obj w : Nat) (status : Word) : State :=
  let s := (s.calls.filter (·.obj == obj)).foldl (fun s c => s.replyTo c.req w status []) s
  { s with calls := s.calls.filter fun c => !(c.obj == obj) }

/-- OBJRST at the home (R259). -/
def State.resetObject (s : State) (r : Req) (p pa : Nat) : State :=
  let ans (s : State) (v : Word) : State := s.doneAt r.id (s.line (pa / 64)).wts (0, 0) [v]
  match s.objectAt pa with
  | none => ans s 1
  | some o =>
    let d := readBytes s.mem pa 64
    if s.waves.any (·.obj == o.id) then s.waitAtHome r
    else if !(objFieldsOk d) then ans s 2
    else if bit (field d 30 2) 0 then match s.objRanges p d with
      | none => s.waitAtHome r
      | some none => ans s 2
      | some (some (s, _)) =>
        let s := s.replyQueued o.id (s.line (pa / 64)).wts 0x103
        ans ({ s with objects := s.objects.filter fun x => !(x.id == o.id) }.descWrite (s.core r.core).ctime pa 32 4 0) 0
    else match s.objLease p (homeDie pa) d with
      | none => s.waitAtHome r
      | some none => ans s 2
      | some (some (s, xs)) => ans ({ s with objects := upd s.objects (·.id == o.id) fun _ => objOf o.id pa p d xs }.descWrite (s.core r.core).ctime pa 32 4 1) 0

/-- OBJRST_AT_HOME. -/
def execObjrstAtHome (op : Nat) (s : State) : Result :=
  .next (s.clampAt op fun r b pa => match r.kind with
    | .object true _ => s.resetObject r (s.partOf b) pa
    | _ => s)

/-! Calling. -/

def execCallo (b a d : BitVec 7) (s : State) : Result :=
  runEntry (.callo b a d) (objChecks a) (fun entry s g x l =>
    let t := s.thread x.id l
    let ea := t.pair a.toNat
    ((s.modThread x.id l fun t => t.marks d.toNat .pending 5).addReq
      (s.newReq g x l 0 (.call d.toNat (t.vals b.toNat 4)) (s.globalPlace x 0 ea) ea 64 entry), .next)) s

/-- Queue entries in use of an object, and of a die (R262, R271). -/
def State.entriesOf (s : State) (obj : Nat) : Nat :=
  (s.calls.filter (·.obj == obj)).length + ((s.waves.filter (·.obj == obj)).map (·.calls.length)).foldl (· + ·) 0
def State.entriesIn (s : State) (die : Nat) : Nat :=
  ((s.objects.filter (·.die == die)).map fun o => s.entriesOf o.id).foldl (· + ·) 0

/-- CALLO_ARRIVAL: the request is queued, answered, or refused for want of an entry (R260, R262). -/
def execCalloArrival (op : Nat) (s : State) : Result :=
  .next (s.clampAt op fun r _ pa => match r.kind with
    | .call _ args => match s.objectAt pa with
      | none => s.replyTo op (s.line (pa / 64)).wts 0x103 []
      | some o =>
        if o.broken then s.replyTo op (s.line (pa / 64)).wts 0x102 []
        else if o.capacity ≤ s.entriesOf o.id ∨ 16384 ≤ s.entriesIn o.die then
          s.modReq op fun r => { r with
            held := none, link := none, naks := r.naks + 1, resend := some (s.clk + backoff (s.die (dieOf r.core)).backoff (r.naks + 1)) }
        else
          let c : Call := { id := s.fresh, obj := o.id, req := op, core := r.core, arrived := s.clk, time := (s.core r.core).ctime
                            args := (List.range 4).map fun i => args.getD i 0 }
          ({ s with calls := s.calls ++ [c] }.modReq op fun r => { r with phase := .sent, held := none }).next
    | _ => s)

/-- CALLO_REPLY: the five registers become full together; an acquire at package scope (R261, R268). -/
def execCalloReply (op : Nat) (s : State) : Result :=
  .next (match s.req? op with
    | none => s
    | some r => match r.kind, r.phase with
      | .call dst _, .done w _ _ ws =>
        ((s.reachTime r w).dropReq op).landThread r.bundle r.lane fun t => { (t.writes dst ws) with stamp := some s.clk }
      | _, _ => s)

/-! Combiner waves. -/

/-- A combiner thread's registers (R264): the object's argument count is the one in force when its wave forms (R259). -/
def waveThread (o : Obj) (n : Nat) (clk : Nat) (c : Call) : Thread :=
  let ws : List Word := [0] ++ ((List.range 4).map fun i => if i < o.args then c.args.getD i 0 else 0) ++ [BitVec.ofNat 32 o.stateAddr, BitVec.ofNat 32 (o.stateAddr / 2 ^ 32), BitVec.ofNat 32 n,
    BitVec.ofNat 32 c.core] ++ List.replicate 23 0
  { pc := o.method, regs := ws.map fun v => { val := v }, stamp := some clk }

/-- The queued requests of an object, oldest first. -/
def State.queuedCalls (s : State) (obj : Nat) : List Call := s.calls.filter (·.obj == obj)

/-- Whether an object's wave may form (R263). -/
def State.waveDue (s : State) (o : Obj) : Bool :=
  !o.broken && !(s.waves.any (·.obj == o.id)) && match s.queuedCalls o.id with
    | [] => false
    | c :: cs => decide (32 ≤ cs.length + 1) || decide (c.arrived + o.gather ≤ s.clk)

/-- The logical time a wave starts from: its callers' releases and the object's previous wave are before it (R268). -/
def State.waveTime (s : State) (o : Obj) (calls : List Call) : Nat :=
  calls.foldl (fun n c => max n c.time) (s.line (o.desc / 64)).wts

/-- A wave forms for an object that is due: it takes the oldest requests, at most 32, and has no bundle yet (R263). -/
def State.formWave (s : State) (o : Obj) : State :=
  if !(s.waveDue o) then s
  else
    let calls := (s.queuedCalls o.id).take 32
    let blk : Block := { id := s.fresh + 1, task := 0, core := 0, order := s.fresh, nthreads := calls.length, allot := 32, spadSize := 0
                         streams := defaultStreams }
    { s with
      calls := s.calls.filter fun c => !(calls.any (·.id == c.id))
      waves := s.waves ++ [{ id := s.fresh, obj := o.id, bundle := 0, calls := calls, blk := blk }]
      fresh := s.fresh + 2 }

/-- A formed wave that waits for a combiner bundle. -/
def Wave.unstarted (w : Wave) : Bool := w.bundle == 0

/-- The arrival of a wave's oldest request. -/
def Wave.oldest (w : Wave) : Nat := (w.calls.map (·.id)).headD 0

/-- The formed waves that wait for a bundle of a die. -/
def State.waitingWaves (s : State) (die : Nat) : List Wave :=
  s.waves.filter fun w => w.unstarted && s.objects.any fun o => o.id == w.obj && o.die == die

/-- A formed wave starts on one of the die's eight combiner bundles, in the order of the waves' oldest requests (R263, R264). -/
def State.startWave (s : State) (o : Obj) : State :=
  let load (c : Nat) : Nat := (s.bundles.filter fun b => b.core == c && b.isWave).length
  match (s.waitingWaves o.die).find? (·.obj == o.id), (s.die o.die).combinerCores.find? fun c => decide (load c < 2) with
  | some w, some core =>
    if !((s.waitingWaves o.die).all fun x => decide (w.oldest ≤ x.oldest)) then s
    else
      let b : Bundle := { id := s.fresh, owner := .wave w.id, index := 0, core := core, pipe := s.emptiestPipe core
                          threads := w.calls.map (waveThread o w.calls.length s.clk) }
      { (s.raiseCtime core (s.waveTime o w.calls)) with
        waves := upd s.waves (·.id == w.id) fun x => { x with bundle := s.fresh, blk := { x.blk with core := core } }
        bundles := s.bundles ++ [b], fresh := s.fresh + 1 }
  | _, _ => s

/-- COMBINER_WAVE_FORMATION: the waves that are due on an object's die form, and the object's own starts if it is the first of those
that wait (R263). -/
def execCombinerWaveFormation (object : Nat) (s : State) : Result :=
  .next (match s.objects.find? (·.id == object) with
    | none => s
    | some o => ((s.objects.filter (·.die == o.die)).foldl State.formWave s).startWave o)

/-- The sources of CRPLY, and a second reply (R265). -/
def replyChecks (a : BitVec 7) : Check := fun s g b _ t => match s.waveObj b with
  | none => []
  | some o => (if t.reply.isSome then [{ cause := 3, detail := Config.illegalDetail g.word }] else []) ++
      (match t.srcTrap { reg := a.toNat, n := o.replies } with
        | some tr => [tr]
        | none => [])

def execCrply (i a : BitVec 7) (s : State) : Result :=
  runLanes (.crply i a) (replyChecks a) (fun s _ b l =>
    let n := ((s.waveObj b).map (·.replies)).getD 0
    (s.modThread b.id l fun t => { t with reply := some (i.toNat, t.vals a.toNat n) }, .next)) s

/-- Whether every store and ATOM of a wave has performed at package scope (R266), and every FPUT and FPUTT has been applied (DESIGN
CHOICE, log entry 126). -/
def State.waveQuiet (s : State) (w : Wave) : Bool :=
  s.reqs.all fun r => !(r.bundle == w.bundle) || match r.kind with
    | .store _ _ => false
    | .atom _ _ _ _ _ | .future _ _ _ => r.phase.isDone
    | _ => true

/-- The logical time that a wave's stores and ATOMs have reached. -/
def State.waveSeen (s : State) (w : Wave) : Nat :=
  s.reqs.foldl (fun n r => match r.phase with
    | .done x _ _ _ => if r.bundle == w.bundle then max n x else n
    | _ => n) (s.core w.blk.core).ctime

/-- Free a wave's bundle, entries and owed results; an FPUT or FPUTT not yet applied goes with it (the model's choice, log entry 126). -/
def State.dropWave (s : State) (w : Wave) : State :=
  { s with
    waves := s.waves.filter fun x => !(x.id == w.id)
    bundles := s.bundles.filter fun b => !(b.id == w.bundle)
    reqs := s.reqs.filter fun r => !(r.bundle == w.bundle) }

/-- COMBINER_WAVE_END: the count rises, the replies go out, the wave is freed (R266). -/
def execCombinerWaveEnd (wave : Nat) (s : State) : Result :=
  .next (match s.waves.find? (·.id == wave) with
    | none => s
    | some w => match s.bundle? w.bundle, s.objects.find? (·.id == w.obj) with
      | some b, some o =>
        if w.abort.isSome || !(b.threads.all fun t => t.life == .exited) || !(s.waveQuiet w) ||
          s.lineHeld (o.desc / 64) (0, 64) true then s
        else
          let s := s.descWrite (s.waveSeen w) o.desc 48 8 (leNat (readBytes s.mem (o.desc + 48) 8) + w.calls.length)
          let t := (s.line (o.desc / 64)).wts
          let s := (List.range w.calls.length).foldl (fun s k =>
            let req := (w.calls.map (·.req)).getD k 0
            match (b.threads.getD k {}).reply with
            | some x => s.replyTo req t (BitVec.ofNat 32 x.1) x.2
            | none => s.replyTo req t 0x100 []) s
          s.dropWave w
      | _, _ => s)

/-- COMBINER_WAVE_ABORT: the fault record, FAULT for the wave, BROKEN for the queue (R269). -/
def execCombinerWaveAbort (wave : Nat) (s : State) : Result :=
  .next (match s.waves.find? (·.id == wave) with
    | none => s
    | some w => match w.abort, s.objects.find? (·.id == w.obj) with
      | some (lane, tr, pc), some o =>
        if !(s.waveQuiet w) || s.lineHeld (o.desc / 64) (0, 64) true then s
        else
          let c := s.waveSeen w
          let s := ((s.descWrite c o.desc 36 4 (256 * lane + tr.cause)).descWrite c o.desc 40 8 pc.toNat).descWrite c o.desc 32 4 2
          let t := (s.line (o.desc / 64)).wts
          let s := { s with objects := upd s.objects (·.id == o.id) fun x => { x with broken := true } }
          let s := w.calls.foldl (fun s c => s.replyTo c.req t 0x101 []) s
          (s.replyQueued o.id t 0x102).dropWave w
      | _, _ => s)

end Sys2Proof.Machine
end

