-- ==== Sys2Proof/Machine/Scratch.lean ====
section
/-! DEFINITION. Stash maps (R169, R170), circular buffers (R175 to R178), the copy engine (R179 to R182) and barriers (R183 to
R187, R380). -/

namespace Sys2Proof.Machine

/-! Stash maps. -/

/-- Whether two maps share a byte of the window or of the global range. -/
def StashMap.clash (m : StashMap) (w len base : Nat) : Bool := overlap m.window m.length w len || overlap m.base m.length base len

/-- The status of a map descriptor (R169): the first that applies. -/
def State.mapStatus (s : State) (k : Block) (ws : List Word) : Nat :=
  let w0 := (ws.getD 0 0).toNat
  let w := bits w0 18 0
  let len := (ws.getD 1 0).toNat
  let base := (ws.getD 2 0).toNat + 2 ^ 32 * (ws.getD 3 0).toNat
  if w0 / 2 ^ 19 ≠ 0 || w % 256 ≠ 0 || len % 256 ≠ 0 || len = 0 || decide (393216 < len) || base % 256 ≠ 0 ||
      decide (2 ^ 56 ≤ base) || decide (k.spadSize < w + len) then 1
  else if !(((s.task? k.task).map (·.program.ranges)).getD [] |>.any fun r => r.r && inside base len r.base r.len) then 2
  else if k.maps.any (·.clash w len base) then 3
  else if 4 ≤ k.maps.length then 4
  else 0

/-- STMAP's status is written, and a status of 0 makes the map (R169). -/
def State.finishMap (s : State) (r : Req) (dst : Nat) (ws : List Word) : State :=
  if s.reqs.any fun q => decide (q.id < r.id) && (match q.kind with
      | .stmap _ _ => q.core == r.core && q.bundle == r.bundle
      | _ => false) then s
  else match (s.bundle? r.bundle).bind s.blockOf with
    | none => s.dropReq r.id
    | some k =>
      let st := s.mapStatus k ws
      let m : StashMap := { id := s.fresh, window := bits (ws.getD 0 0).toNat 18 0, length := (ws.getD 1 0).toNat
                            base := (ws.getD 2 0).toNat + 2 ^ 32 * (ws.getD 3 0).toNat }
      let s := if st = 0 then (s.modBlock k.id fun x => { x with maps := x.maps ++ [m] }).next else s
      (s.dropReq r.id).landThread r.bundle r.lane fun t => t.write dst (BitVec.ofNat 32 st)

def execStmap (a d : BitVec 7) (s : State) : Result :=
  runLanes (.stmap a d) noCheck (fun s g b l =>
    let ws := (s.thread b.id l).vals a.toNat 4
    ((s.modThread b.id l (·.mark d.toNat .pending)).addReq
      (s.newReq g b l 0 (.stmap d.toNat ws) .nowhere 0 0 s.fresh), .next)) s

def execStunmap (a : BitVec 7) (s : State) : Result :=
  runLanes (.stunmap a) noCheck (fun s _ b l =>
    match (s.blockOf b).bind fun k => (k.mapAt ((s.thread b.id l).pair a.toNat).toNat).map fun m => (k, m) with
    | none => (s, .next)
    | some (k, m) =>
      if m.lines.any (fun x => x.state == .dirty) || s.reqs.any (fun r => match r.kind with
          | .writeback kb mb _ _ _ _ => kb == k.id && mb == m.id
          | _ => r.viaMap k.id m.id) then
        ((s.writeBack k fun m' _ => m'.id == m.id).modThread b.id l fun t => { t with mid := some (.unmap m.id) }, .stay)
      else (s.modBlock k.id fun x => { x with maps := x.maps.filter fun y => !(y.id == m.id) }, .next)) s

/-! Circular buffers (R177). -/

/-- Change the record of a buffer where it is kept. -/
def State.modBuf (s : State) (k q : Nat) (f : Buf → Buf) : State :=
  if 8 ≤ q then { s with gangs := upd s.gangs (·.id == k) fun g => { g with bufs := g.bufs.modify (q - 8) f } }
  else s.modBlock k fun x => { x with bufs := x.bufs.modify q fun u => u.map f }

/-- One operation of a group on a buffer: what it changes, and the offset it returns. -/
def runBuf (i : Instr) (q : BitVec 3) (d : Nat) (ok : Buf → Option LaneEnd) (f : Buf → Buf) (off : Buf → Nat) (s : State) : Result :=
  runWith i noCheck (fun s _ b ls => match ls with
    | [] => (s, [])
    | _ => match (s.blockOf b).bind (s.bufRef · q.toNat) with
      | none => (s, [])
      | some (hk, hq, u) => match ok u with
        | some e => (s, allEnd ls e)
        | none =>
          let s := s.modBuf hk hq f
          (ls.foldl (fun s l => s.modThread b.id l fun t => t.write d (BitVec.ofNat 32 (off u))) s, [])) s

def execCbpush (q : BitVec 3) (d : BitVec 7) (s : State) : Result :=
  runBuf (.cbpush q d) q d.toNat (fun u => if u.free = 0 then some .stay else none)
    (fun u => { u with free := u.free - 1, reserved := u.reserved + 1, reserve := (u.reserve + 1) % u.count })
    (fun u => u.base + u.reserve * u.size) s
def execCbcmt (q : BitVec 3) (s : State) : Result :=
  runBuf (.cbcmt q) q 0
    (fun u => if u.reserved = 0 then some (.trap { cause := 3, detail := BitVec.ofNat 64 (0x100 + q.toNat) }) else none)
    (fun u => { u with reserved := u.reserved - 1, filled := u.filled + 1 }) (fun _ => 0) s
def execCbwait (q : BitVec 3) (d : BitVec 7) (s : State) : Result :=
  runBuf (.cbwait q d) q d.toNat (fun u => if u.filled = 0 then some .stay else none)
    (fun u => { u with filled := u.filled - 1, claimed := u.claimed + 1, claim := (u.claim + 1) % u.count })
    (fun u => u.base + u.claim * u.size) s
def execCbpop (q : BitVec 3) (s : State) : Result :=
  runBuf (.cbpop q) q 0
    (fun u => if u.claimed = 0 then some (.trap { cause := 3, detail := BitVec.ofNat 64 (0x100 + q.toNat) }) else none)
    (fun u => { u with claimed := u.claimed - 1, free := u.free + 1, release := (u.release + 1) % u.count }) (fun _ => 0) s

/-! The copy engine. -/

/-- The pending count of b0 of the block a bundle works for. -/
def State.pending0 (s : State) (b : Bundle) : Nat := (s.bar b 0).pending

/-- Change b0's pending count. -/
def State.modPending0 (s : State) (b : Bundle) (f : Nat → Nat) : State :=
  s.modBlk b fun k => { k with bars := k.bars.modify 0 fun r => { r with pending := f r.pending } }

/-- A lane's tag counter. -/
def Thread.modTag (t : Thread) (n : Nat) (f : Nat → Nat) : Thread := { t with tags := t.tags.modify n f }

def execAcp (bb : BitVec 1) (st : BitVec 4) (t : BitVec 3) (v : BitVec 5) (p : BitVec 6) (o : BitVec 7) (s : State) : Result :=
  runLanes (.acp bb st t v p o) (fun s _ b _ x => s.acpTraps b x bb st v p o)
    (fun s g b l =>
      let x := s.thread b.id l
      let ga := x.pair (2 * p.toNat)
      let n := min (x.val v.toNat).toNat 32
      if bb == 1#1 && decide (2 ^ 32 - 1 < s.pending0 b + 32) then
        (s, .trap { cause := 0x15, detail := BitVec.ofNat 64 (s.pending0 b) })
      else
        let s := if bb == 1#1 then s.modPending0 b (· + 32) else s
        let pl := s.globalPlace b st.toNat ga
        let c : CopyCmd := { id := s.fresh, block := ((s.blockOf b).map (·.id)).getD 0, bundle := b.id, lane := l, stream := st.toNat
                             pc := g.start, valid := n, off := (x.val o.toNat).toNat, tag := t.toNat, b := bb == 1#1, ea := ga
                             src := match pl with
                               | .mem pa => pa
                               | .peer _ va => va
                               | _ => 0
                             peer := match pl with
                               | .peer k _ => some k
                               | _ => none }
        ({ (s.modThread b.id l (·.modTag t.toNat (· + 1))) with copies := s.copies ++ [c] }.next, .next)) s

def execAcwait (t : BitVec 3) (s : State) : Result := runLanes (.acwait t) noCheck (fun s _ _ _ => (s, .next)) s

/-- A die's engine reads bytes of a line (R199): at the home, or in the die's valid copy. -/
def State.engineBytes (s : State) (d pa n : Nat) : List Byte :=
  if homeDie pa = d then readBytes s.mem pa n
  else match s.dieCopy d (pa / 64) with
    | some k => (k.data.drop (pa % 64)).take n
    | none => readBytes s.mem pa n

/-- The same, where a store that came while its command runs is read or not, word by word. -/
def State.engineRead (s : State) (d : Nat) (olds : List OldWord) (pa n : Nat) : List Byte :=
  (s.engineBytes d pa n).mapIdx fun i v => s.oldOr olds none (pa + i) v

/-- Whether an engine's read is held at an owned line's home (R200). -/
def State.engineHeld (s : State) (d pa : Nat) : Bool :=
  s.lineHeld (pa / 64) (0, 64) false && (homeDie pa == d || (s.dieCopy d (pa / 64)).isNone)

/-- A thread's earlier stores in a stream are not all where its die's engines read them (R181, R199): at their homes; for a remote
line, also in the die's copy, which takes them when they are acknowledged (R154). -/
def State.storesBefore (s : State) (bundle lane stream id : Nat) : Bool :=
  s.reqs.any fun r => r.of bundle lane && r.stream == stream && decide (r.id < id) && match r.kind with
    | .store _ _ => !(r.phase.isDone) || !r.crossing.isEmpty
    | .atom _ _ _ _ _ => !(r.phase.isDone) || !r.crossing.isEmpty
    | _ => false

/-- The engine writes 32 bytes at a scratchpad offset of a bundle's allotment (R165, R179). -/
def State.engineSpad (s : State) (b : Bundle) (space off : Nat) (bs : List Byte) : State :=
  let pl := s.spadPlace b space (BitVec.ofNat 64 off) bs.length
  let s := s.offend b pl space (BitVec.ofNat 64 off)
  match pl with
  | .spad k o => s.spadWrite k o bs
  | _ => s

/-- An ACP's 32 bytes are written and its counters lowered (R179); a peer's bytes are those of a draw. Where ACB subtractions have left
b0's pending count below 32, it is cut at 0, as R182 cuts ACB's own (the model's choice, log entry 107). -/
def State.copyDone (s : State) (op draw : Nat) : State := match s.copies.find? fun c => c.id == op && c.packet.isNone with
  | none => s
  | some c => match s.bundle? c.bundle with
    | none => s
    | some b =>
      if s.storesBefore c.bundle c.lane c.stream c.id ||
        (decide (0 < c.valid) && c.peer.isNone && s.engineHeld (dieOf b.core) c.src) then s
      else
        let data := if c.valid = 0 then [] else match c.peer with
          | some k => (List.range c.valid).map fun i => Config.peerByte k (c.src + i) draw
          | none => s.engineRead (dieOf b.core) c.olds c.src c.valid
        let s := if c.valid = 0 ∨ c.peer.isSome then s else s.touch c.src
        let s := s.drawn.engineSpad b 1 c.off (data ++ List.replicate (32 - c.valid) 0)
        let s := if c.b then s.modPending0 b (· - 32) else s
        { s with copies := s.copies.filter fun x => !(x.id == op) }.modThread c.bundle c.lane (·.modTag c.tag (· - 1))

/-- COPY_COMPLETE; a copy from a peer completes by an external input (R425). -/
def execCopyComplete (op : Nat) (s : State) : Result :=
  .next (match s.copies.find? fun c => c.id == op && c.packet.isNone with
    | none => s
    | some c => if c.valid = 0 ∨ c.peer.isNone then s.copyDone op s.draw
      else s.externalOnce (s.partAt c.bundle) op (.copied op s.draw) (·.copyDone op s.draw))

def execAcb (q : BitVec 3) (a : BitVec 7) (s : State) : Result :=
  runLanes (.acb q a) (fun s g b _ t => s.acbTraps g.word b t a)
    (fun s g b l =>
      let t := s.thread b.id l
      let ws := t.vals a.toNat 4
      let w := (ws.getD 3 0).toNat
      let n := (ws.getD 2 0).toNat
      if n = 0 then (s, .next)
      else if 16 ≤ s.acbCount b.core then (s, .stay)
      else
        let c : AcbCmd := { id := s.fresh, block := ((s.blockOf b).map (·.id)).getD 0, bundle := b.id, lane := l
                            stream := bits w 3 0, pc := g.start, src := (t.pair a.toNat).toNat, left := n, buf := q.toNat
                            tag := bits w 6 4, b := bit w 7, desc := ws }
        ({ (s.modThread b.id l (·.modTag c.tag (· + 1))) with acbs := s.acbs ++ [c] }.next, .next)) s

/-- The bytes of a virtual span as an engine of a bundle's die reads them; a peer's are those of a draw. -/
def State.engineSpanAt (s : State) (b : Bundle) (olds : List OldWord) (stream va n draw : Nat) : List Byte :=
  (List.range n).map fun i => match s.globalPlace b stream (BitVec.ofNat 64 (va + i)) with
    | .mem pa => (s.engineRead (dieOf b.core) olds pa 1).getD 0 0
    | .peer k a => Config.peerByte k a draw
    | _ => 0

/-- The same at the draw of the moment. -/
def State.engineSpan (s : State) (b : Bundle) (olds : List OldWord) (stream va n : Nat) : List Byte := s.engineSpanAt b olds stream va n s.draw

/-- Whether a virtual span that an engine reads lies in a peer's memory, in part. -/
def State.peerSpan (s : State) (b : Bundle) (va n : Nat) : Bool := s.peerMaps.any fun m => m.partition == s.partOf b && overlap m.base m.len va n

/-- An engine of a bundle's die touches the pages of a virtual span of at most 64 KiB (R389). -/
def State.touchSpan (s : State) (b : Bundle) (stream va n : Nat) : State :=
  if n = 0 then s
  else [va, va + n - 1].foldl (fun s a => match s.globalPlace b stream (BitVec.ofNat 64 a) with
    | .mem pa => s.touch pa
    | _ => s) s

/-- Whether an ACB is the first of those outstanding on its buffer, kept at a block or gang: the engine fills in order. -/
def State.acbFirst (s : State) (c : AcbCmd) (hk hq : Nat) : Bool :=
  !(s.acbs.any fun x => decide (x.id < c.id) && ((s.block? x.block).bind (s.bufRef · x.buf)).any fun y => y.1 == hk && y.2.1 == hq)

/-- The engine fills and commits the slot that an ACB has reserved (R182). -/
def State.commitAcb (s : State) (b : Bundle) (c : AcbCmd) (hk hq i : Nat) (u : Buf) (draw : Nat) : State :=
  let n := min u.size c.left
  let data := s.engineSpanAt b c.olds c.stream c.src n draw ++ List.replicate (u.size - n) 0
  let s := (List.range (u.size / 32)).foldl (fun s j =>
    s.engineSpad b (if u.cluster then 2 else 1) (u.base + i * u.size + 32 * j) ((data.drop (32 * j)).take 32)) (s.drawn.touchSpan b c.stream c.src n)
  let s := s.modBuf hk hq fun u => { u with reserved := u.reserved - 1, filled := u.filled + 1 }
  let s := if c.b then s.modPending0 b (· - n) else s
  if c.left = n then { s with acbs := s.acbs.filter fun x => !(x.id == c.id) }.modThread c.bundle c.lane (·.modTag c.tag (· - 1))
  else { s with acbs := upd s.acbs (·.id == c.id) fun x => { x with src := x.src + n, left := x.left - n, slot := none } }

/-- An ACB that has a slot fills and commits it (R182): in the order of reservation among the slots of threads and of other ACBs (R177),
once the thread's earlier stores are there. -/
def State.acbFill (s : State) (op draw : Nat) : State := match s.acbs.find? (·.id == op) with
  | none => s
  | some c => match s.bundle? c.bundle, (s.block? c.block).bind (s.bufRef · c.buf), c.slot with
    | some b, some (hk, hq, u), some i =>
      let n := min u.size c.left
      let held := (List.range ((n + 63) / 64 + 1)).any fun j => match s.globalPlace b c.stream (BitVec.ofNat 64 (min (c.src + 64 * j) (c.src + n - 1))) with
        | .mem pa => s.engineHeld (dieOf b.core) pa
        | _ => false
      if !(u.oldest == i) || s.storesBefore c.bundle c.lane c.stream c.id || held then s else s.commitAcb b c hk hq i u draw
    | _, _, _ => s

/-- ACB_SLOT_COMMIT: the engine reserves a slot as CBPUSH does, or, where it has one, fills and commits it (R182); bytes of a peer come by
an external input (R425). -/
def execAcbSlotCommit (op : Nat) (s : State) : Result :=
  .next (match s.acbs.find? (·.id == op) with
    | none => s
    | some c => match s.bundle? c.bundle, (s.block? c.block).bind (s.bufRef · c.buf) with
      | some b, some (hk, hq, u) => match c.slot with
        | none =>
          if !(s.acbFirst c hk hq) || u.free == 0 then s
          else { s with acbs := upd s.acbs (·.id == op) fun x => { x with slot := some u.reserve } }.modBuf hk hq fun u =>
            { u with free := u.free - 1, reserved := u.reserved + 1, reserve := (u.reserve + 1) % u.count }
        | some _ => if s.peerSpan b c.src (min u.size c.left) then s.externalOnce (s.partOf b) op (.copied op s.draw) (·.acbFill op s.draw)
          else s.acbFill op s.draw
      | _, _ => s)

/-! Barriers (R184). -/

/-- A network code: 0 and 1 both name the block network (R48). -/
def netCode (n : Nat) : Nat := if n ≤ 1 then 0 else n

/-- The participants of a network instance (R380): the gang's members that use the barrier, or the count of the word. -/
def State.netCount (s : State) (k : Block) (n q : Nat) : Nat :=
  if n = 2 then match k.gang with
    | some g => (((s.gangs.find? (·.id == g.1)).map (·.bars)).getD []).countP fun ws => !(bits (ws.getD q 0).toNat 15 0 == 0)
    | none => 1
  else bits (k.bars.getD q {}).word.toNat 15 0

/-- The name of a network instance: partition, network, barrier, and gang or instance number (R380). A name has no die, so the blocks
that name one die-network instance on several dies join one instance (the model's choice, log entry 108). -/
def State.netName (s : State) (k : Block) (n q : Nat) : Nat × Nat × Nat × Nat :=
  (((s.task? k.task).map (·.partition)).getD 0, n, q,
    if n = 2 then (match k.gang with
      | some g => g.1
      | none => 2 ^ 32 + k.id)
    else bits (k.bars.getD q {}).word.toNat 31 16)

/-- The running phase of a network instance. -/
def State.net? (s : State) (x : Nat × Nat × Nat × Nat) : Option Net :=
  s.nets.find? fun n => (n.partition, n.network, n.bar, n.number) == x

/-- Whether another block has arrived at a network instance of a block's barrier with another participant count (R380). -/
def State.countDiffers (s : State) (k : Block) (n q : Nat) : Bool :=
  let name := s.netName k n q
  let count := s.netCount k n q
  ((s.net? name).any fun x => !(x.count == count)) || (s.blocks ++ s.saved.map (·.block)).any fun x => !(x.id == k.id) &&
    (x.bars.getD q {}).network == some n && !((x.bars.getD q {}).arrivals.isEmpty) && s.netName x n q == name && !(s.netCount x n q == count)

/-- One lane arrives at a barrier (R183, R184, R380). -/
def State.arriveBar (s : State) (b : Bundle) (l n q : Nat) (chk : Bool) : State × Option Trap :=
  match s.blockOf b with
  | none => (s, none)
  | some k =>
    let r := k.bars.getD q {}
    let net := netCode n
    if !r.arrivals.isEmpty && !(r.network == some net) then
      (s, some { cause := 0x0A, detail := BitVec.ofNat 64 (0x03000000 + n) })
    else if decide (3 ≤ net) && s.countDiffers k net q then
      (s, some { cause := 0x0A, detail := BitVec.ofNat 64 (0x04000000 + s.netCount k net q) })
    else
      let s := s.modBlk b fun k => { k with bars := k.bars.set q { r with
        arrivals := r.arrivals ++ [(b.index, l)], network := some net, checking := r.checking || chk
        checkers := if chk then r.checkers ++ [(b.index, l)] else r.checkers } }
      (s.modThread b.id l fun t => { t with arrived := t.arrived.set q (some r.phase), arrivedOp := t.arrivedOp.set q s.fresh }, none)

/-- BAR.ARR, BAR.SYNC and BAR.CHK: arrive, and wait for the phase where asked. -/
def runBar (i : Instr) (n q : BitVec 3) (wait chk : Bool) (s : State) : Result :=
  runLanes i noCheck (fun s _ b l => match s.arriveBar b l n.toNat q.toNat chk with
    | (s, some t) => (s, .trap t)
    | (s, none) =>
      if wait then (s.modThread b.id l fun t => { t with mid := some (.barWait (BitVec.ofNat 7 (8 * n.toNat + q.toNat)) chk) }, .stay)
      else (s, .next)) s

def execBarArr (n q : BitVec 3) (s : State) : Result := runBar (.barArr n q) n q false false s
def execBarSync (n q : BitVec 3) (s : State) : Result := runBar (.barSync n q) n q true false s
def execBarChk (n q : BitVec 3) (s : State) : Result := runBar (.barChk n q) n q true true s
def execBarWait (n q : BitVec 3) (s : State) : Result := runLanes (.barWait n q) noCheck (fun s _ _ _ => (s, .next)) s
def execBarAddb (n q : BitVec 3) (a : BitVec 7) (s : State) : Result :=
  runLanes (.barAddb n q a) noCheck (fun s _ b l =>
    let v := ((s.thread b.id l).val a.toNat).toNat
    let p := (s.bar b q.toNat).pending
    if 2 ^ 32 - 1 < p + v then (s, .trap { cause := 0x15, detail := BitVec.ofNat 64 p })
    else (s.modBlk b fun k => { k with bars := k.bars.modify q.toNat fun r => { r with pending := p + v } }, .next)) s

/-- A saved block's barrier completes in its record (R187); a check that fails there is raised at the restore (R354, R357). -/
def State.completeSaved (s : State) (k q : Nat) (sums : List (List (Option (Int × Int)))) (chk : Bool) : State :=
  let one (b : Block) : Block :=
    let r := b.bars.getD q {}
    let c := if r.checking || chk then b.checkMons (some sums) (Config.mismatchSum s.draw) else (b, none)
    { c.1 with
      caliper := (c.2.map fun t => (t, r.checkers)).or b.caliper
      bars := c.1.bars.set q { r with
        phase := r.phase + 1, arrivals := [], checkers := [], network := none, checking := false, sent := false, sums := [] } }
  { s.drawn with saved := s.saved.map fun x => if x.block.id == k then { x with stale := true, block := one x.block } else x }

/-- Complete a barrier in one participant of a network. -/
def State.completeFor (s : State) (q : Nat) (sums : List (List (Option (Int × Int)))) (chk : Bool) (k : Nat) : State :=
  match s.bundles.find? fun b => b.owner == .block k with
  | some b => s.completeBar b q (some sums) chk
  | none => s.completeSaved k q sums chk

/-- A network phase completes where enough participants have arrived: every one of them is released, and checks where any of them entered
with BAR.CHK (R186, R352, R354). -/
def State.completeNet (s : State) (x : Net) : State :=
  let s := { s with nets := s.nets.filter fun y => !((y.partition, y.network, y.bar, y.number) == (x.partition, x.network, x.bar, x.number)) }
  if x.arrived.length < x.count then { s with nets := s.nets ++ [x] }
  else (x.arrived.map (·.1)).foldl (fun s k => s.completeFor x.bar (x.arrived.map (·.2)) x.checking k) s

/-- An arrival that a block has sent reaches its network; one for the pod's is also carried over the dowel links (R5, R186). -/
def State.deliverArrival (s : State) (k : Block) (bar : Nat) : State :=
  let r := k.bars.getD bar {}
  match if r.sent then r.network else none with
  | none => s
  | some n =>
    let name := s.netName k n bar
    let old := (s.net? name).getD { partition := name.1, network := n, bar := bar, number := name.2.2.2
                                    count := s.netCount k n bar, arrived := [] }
    if old.arrived.any (·.1 == k.id) then s
    else
      let s := if n = 5 then s.send name.1 (.barrier name.1 bar name.2.2.2 old.count r.checking r.sums) else s
      s.completeNet { old with arrived := old.arrived ++ [(k.id, r.sums)], checking := old.checking || r.checking }

/-- The arrivals of a block that are on their way to their networks reach them, though the block has ended (R186). -/
def State.deliverAll (s : State) (k : Block) : State := (List.range 8).foldl (fun s q => s.deliverArrival k q) s

/-- The sums that a peer's block sends with its arrival (R354), which are not known here: each monitor is configured or not, with any scale
and any sum (log entry 109). -/
def peerSums (d : Nat) : List (Option (Int × Int)) := (List.range 4).map fun i =>
  if Config.choice (d + 4 * i) then
    some ((if Config.choice (d + 4 * i + 1) then -(Config.pick (d + 4 * i + 2) : Int) else Config.pick (d + 4 * i + 2)),
      (Config.pick (d + 4 * i + 3) % 4096 : Int) - 2048)
  else none

/-- An arrival of another package's block at a pod barrier (R5, R186): its name and its network's count come with it, whether its phase
checks and its monitors' sums are free (log entry 109). -/
def State.podArrival (s : State) (p bar number count peer draw : Nat) : State :=
  let old := (s.net? (p, 5, bar, number)).getD { partition := p, network := 5, bar := bar, number := number, count := count, arrived := [] }
  if old.arrived.any (·.1 == peer) || !(old.count == count) then s
  else ((List.range 17).foldl (fun s _ => s.drawn) s).completeNet { old with
    arrived := old.arrived ++ [(peer, peerSums draw)], checking := old.checking || Config.choice (draw + 16) }

/-- NETWORK_BARRIER_ARRIVAL: a block's arrival reaches its network; at its participant count every participant is released
(R186, R354). A block number from 2^64 on is a peer's arrival at a pod barrier, with partition, instance, count and the peer's own
number packed above the barrier's (log entry 109). -/
def execNetworkBarrierArrival (block bar : Nat) (s : State) : Result :=
  .next (if 2 ^ 64 ≤ block then
      let x := block - 2 ^ 64
      s.external (x % 8) (.pod (x % 8) (bar % 8) (x / 8 % 65536) (x / 2 ^ 19 % 65536) block s.draw)
        (·.podArrival (x % 8) (bar % 8) (x / 8 % 65536) (x / 2 ^ 19 % 65536) block s.draw)
    else match (s.block? block).or ((s.saved.find? (·.block.id == block)).map (·.block)) with
      | none => s
      | some k => s.deliverArrival k bar)

end Sys2Proof.Machine
end

