-- ==== Sys2Proof/Machine/Matrix.lean ====
section
/-! DEFINITION. The tile path: the accumulator ring (R281, R282), tile commands and their checks (R283 to R291), power tokens (R297
to R299), and what a command computes. MFRAG is in Settle; PART in Part; the sparse operand of MSPT in Carver. -/

namespace Sys2Proof.Machine

/-! The ring. -/

/-- Bytes of a slot, by slot-size code (R281). -/
def slotBytes (code : Nat) : Nat := 65536 * 2 ^ code

def execMring (z : BitVec 2) (s : State) : Result :=
  runWith (.mring z) noCheck (fun s _ b ls => match ls, b.owner with
    | _ :: _, .block k => (s.modCore b.core fun c => { c with
        ringHolder := some k, slotCode := z.toNat, slots := List.replicate (8 / 2 ^ z.toNat) none, head := 0 }, [])
    | _, _ => (s, [])) s

/-- The oldest held slot in the order of taking (R282). -/
def Core.tail (c : Core) : Option Nat :=
  let held := (List.range c.slots.length).filterMap fun i => (c.slots.getD i none).map fun x => (x.2.2.2, i)
  (held.foldl (fun m x => match m with
    | none => some x
    | some y => if x.1 < y.1 then some x else some y) none).map (·.2)

/-- Free a slot. -/
def State.freeSlot (s : State) (core i : Nat) : State := s.modCore core fun c => { c with slots := c.slots.set i none }

/-- The launch a block belongs to (R287): its gang, its tree grid, its TASK packet, or its own task. -/
def State.launchOf (s : State) (k : Block) : Nat × Nat := match k.gang with
  | some g => (1, g.1)
  | none => match s.task? k.task with
    | none => (0, k.task)
    | some t => match t.kind with
      | .node g _ _ _ => (2, g)
      | .plain => (3, t.packet)
      | .work _ => (0, k.task)
      | .install _ => (0, k.task)
      | .lathe _ => (0, k.task)

/-! The checks of MTILE and MSPT. -/

/-- A tile operand's descriptor word and registers (R284, R285, R286); shaped: the words that give its shape can be read. -/
def tileOperandOk (allot : Nat) (t : Thread) (ws : List Word) (isB shaped : Bool) : Bool :=
  let d := (tileDesc ws isB).toNat
  let r := tileReg ws isB
  d / 256 == 0 && decide (8 ≤ r) &&
  (if tileInRegs ws isB then
    !shaped || (decide ((tileStored ws isB).1 ≤ 32) && decide (r + tileRegs ws isB ≤ allot))
  else
    let x := (t.val r).toNat
    let y := (t.val (r + 1)).toNat
    decide (r % 2 = 0) && decide (r + 2 ≤ allot) && (t.unread r 2 || bits x 31 28 == 0 && bits x 23 21 == 0 && decide (bits x 18 0 % 4 = 0) &&
    (if bits x 27 24 = 0 then decide (bits y 15 0 % 4 = 0) else decide (bits y 15 0 % 128 = 0))))

/-- Whether the atype of a format word is one of the five tile types (R302). -/
def tileType (f : Word) : Bool := fmtA f == 0 || fmtA f == 9 || fmtA f == 12 || fmtA f == 13 || fmtA f == 14

/-- Bytes of a row of the expansion area (R305). -/
def expandRow (f : Word) : Nat := 64 * typeBits (fmtA f) / 8

/-- Whether a parameter word breaks R284 or R305, as far as the words it is judged with are known (a held or poisoned register gives
none, R94); allot and spad are the block's. -/
def tileWordBad (sparse : Bool) (allot spad : Nat) (t : Thread) (ws : List Word) (known : Nat → Bool) (i : Nat) : Bool :=
  let w := (ws.getD i 0).toNat
  let m := tileM ws
  let n := tileN ws
  let f := tileFormat ws
  let sp := tileSpan ws
  let shaped := known 0 && known 1 && known 4
  known i &&
  (if i = 0 then
    !(bits w 31 22 == 0) || decide (n % 16 ≠ 0) || decide (n < 16) || decide (1024 < n) ||
    (if sparse then decide (m ≠ 64)
      else decide (m % 16 ≠ 0) || (known 5 && decide (m % (16 * sp) ≠ 0)) || decide (m < 16) || decide (1024 < m))
  else if i = 1 then
    (if sparse then decide (w ≠ 64)
      else decide (w = 0) || decide (65536 < w) || (known 4 && decide (w % ((tileStep f).getD 1) ≠ 0)))
  else if i = 2 then
    (if sparse then decide (w / 2 ^ 19 ≠ 0) || decide (w % 256 ≠ 0) || (known 4 && tileType f && decide (spad < w + 64 * expandRow f))
      else !(tileOperandOk allot t ws false shaped))
  else if i = 3 then !(tileOperandOk allot t ws true shaped)
  else if i = 4 then sparse && fmtTA f
  else if i = 5 then
    !(bits w 31 16 == 0) || decide (160 ≤ tileBase ws) || decide (tileBase ws % sp ≠ 0) ||
    decide ((if sparse then 2 else 4) < bits w 7 5) || (tileAcc ws && tileSlot ws == 15)
  else if sparse then (if i = 6 then known 7 && w == 0 && ws.getD 7 0 == 0 else decide (bits w 31 24 ≠ 0))
  else decide (w ≠ 0))

/-- The cores of a span named by a parameter block on a die. -/
def tileCores (die : Nat) (ws : List Word) : List Nat :=
  (List.range (tileSpan ws)).map fun i => 160 * die + tileBase ws + i

/-- Bytes of an accumulator element. -/
def accBytes (f : Word) : Nat := if fmtAcc f = 11 then 8 else 4

/-- What fails in the span of a command (R284, R287, R288): 5 for a slot code that names no slot, 0x105 for a span core that
breaks R287 or whose explicit slot is free. -/
def State.spanFails (s : State) (k : Block) (die : Nat) (ws : List Word) : Option Nat :=
  let cs := (tileCores die ws).map s.core
  let share := tileM ws / tileSpan ws * tileN ws * accBytes (tileFormat ws)
  let ours (c : Core) : Bool := match c.ringHolder.bind s.block? with
    | some h => s.launchOf h == s.launchOf k
    | none => false
  let q := tileSlot ws
  if q ≠ 15 && cs.any fun c => ours c && decide (c.slots.length ≤ q) then some 5
  else if cs.any fun c => !(ours c) || decide (slotBytes c.slotCode < share) || (q ≠ 15 && (c.slots.getD q none).isNone) then some 0x105
  else none

/-- The cost of a command (R297). -/
def tileCost (ws : List Word) : Nat :=
  let w := typeBits (fmtA (tileFormat ws))
  ceilDiv (tileM ws * tileN ws) 4096 * (if w = 4 then 1 else if w = 8 then 2 else 4)

/-- The registers an operand of a command names: run by run. -/
def tileRuns (ws : List Word) (sparse isB : Bool) : List (Nat × Nat) :=
  if sparse && !isB then [] else if tileInRegs ws isB then [(tileReg ws isB, tileRegs ws isB)] else []

/-- What reading the register operands raises at the issuing lane (R286): a held register in any lane that has not exited, else a
poisoned one. -/
def tileRegTraps (b : Bundle) (ws : List Word) (sparse : Bool) : List Trap :=
  let runs := tileRuns ws sparse false ++ tileRuns ws sparse true
  let live := b.threads.filter fun u => !(u.life == .exited)
  let held := runs.flatMap fun x => live.filterMap fun u => u.firstIn x.1 x.2 (·.isHeld)
  let poison := runs.flatMap fun x => live.filterMap fun u => u.srcTrap { reg := x.1, n := x.2 }
  match held with
  | r :: _ => [{ cause := 8, detail := BitVec.ofNat 64 r }]
  | [] => poison.take 1

/-- What reading the descriptor registers of scratchpad operands raises. -/
def tileDescTraps (t : Thread) (ws : List Word) (sparse : Bool) : List Trap :=
  ([false, true].filterMap fun isB => if (isB || !sparse) && !(tileInRegs ws isB) then
    t.srcTrap { reg := tileReg ws isB, n := 2 } else none).take 1

/-- The longest extent of a tile of a type (R302). -/
def tileExtent (f : Word) : Nat := 704 + 4096 * typeBits (fmtA f) / 8

/-- The identity of an MSPT. -/
def tileIdentity (ws : List Word) : DWord := ws.getD 7 0 ++ ws.getD 6 0

/-- A die's token pool P for a partition (R298): in deterministic mode the one in force since its last boundary (R425, R433). -/
def State.poolFor (s : State) (p die : Nat) : Nat :=
  if (s.part p).det then ((s.part p).pool).getD (s.die die).pool else (s.die die).pool

/-- Its free tokens for a partition. -/
def State.freeFor (s : State) (p die : Nat) : Int := (s.die die).free + (s.poolFor p die : Int) - ((s.die die).pool : Int)

/-- The one cause a lane's MTILE or MSPT raises at issue (R288, R306), in priority order, as far as its parameter words can be
read. -/
def tileChecks (sparse : Bool) (a : BitVec 7) : Check := fun s _ b _ t =>
  let ws := t.vals a.toNat 8
  let known (i : Nat) : Bool := !(t.unread (a.toNat + i) 1)
  let all := (List.range 8).all known
  match s.blockOf b with
  | none => []
  | some k =>
    let f := tileFormat ws
    let bad := (List.range 8).find? (tileWordBad sparse k.allot k.spadSize t ws known)
    let span := if all then s.spanFails k (dieOf b.core) ws else none
    let ill : Option Nat := match bad with
      | some i => if i ≤ 5 then some i else span.or (some i)
      | none => span
    match ill with
    | some d => [{ cause := 3, detail := BitVec.ofNat 64 d }]
    | none =>
      let id := tileIdentity ws
      let reach := if !sparse || !(known 6 && known 7) then []
        else if known 4 && tileType f then s.globalChecks b 0 id (tileExtent f) true false 64
        else if id.toNat % 64 = 0 then [] else [{ cause := 7, detail := id, addr := id }]
      match lowest reach with
      | some tr => [tr]
      | none => match (t.srcTrap { reg := a.toNat, n := 8 }).toList ++ (if all then tileRegTraps b ws sparse ++ tileDescTraps t ws sparse else []) with
        | tr :: _ => [tr]
        | [] =>
          if (tileStep f).isNone || (sparse && !(tileType f)) then [{ cause := 9, detail := f.zeroExtend 64 }]
          else if s.poolFor (s.partOf b) (dieOf b.core) < tileCost ws then [{ cause := 0x0E, detail := BitVec.ofNat 64 (tileCost ws) }]
          else []

/-! Tokens, issue and the wait for it. -/

/-- Tokens return to a die's pool (R298): its free tokens and those lent add up to P. -/
def State.refund (s : State) (die cost : Nat) : State := s.modDie die fun d => { d with free := d.free + Int.ofNat cost }

/-- Withdraw a command that has not issued; its tokens return. -/
def State.dropTile (s : State) (t : Tile) : State :=
  let s := if t.granted then s.refund (dieOf t.core) t.cost else s
  { s with tiles := s.tiles.filter fun x => !(x.id == t.id)
           dies := s.dies.map fun d => { d with tokenQueue := d.tokenQueue.filter fun x => !(x == t.id) } }

/-- Start the wait of a group's commands: one request for tokens, in ascending lane order (R288, R298). -/
def runTile (i : Instr) (sparse : Bool) (a : BitVec 7) (s : State) : Result :=
  runWith i (tileChecks sparse a) (fun s g b ls =>
    let order := s.fresh
    each (fun s _ b l =>
      let t := s.thread b.id l
      let ws := t.vals a.toNat 8
      let desc (isB : Bool) : Word × Word := (t.val (tileReg ws isB), t.val (tileReg ws isB + 1))
      let k := s.blockOf b
      let x : Tile := { id := s.fresh, block := (k.map (·.id)).getD 0, bundle := b.id, lane := l, core := b.core, pc := g.start
                        sparse := sparse, words := ws, descA := desc false, descB := desc true, cost := tileCost ws
                        order := order, threshold := (k.map (·.carvth)).getD 40
                        pa := ((s.globalPlace b 0 (tileIdentity ws)).txAddr).getD 0 }
      let s := s.modDie (dieOf b.core) fun d => { d with tokenQueue := d.tokenQueue ++ [x.id] }
      ({ (s.modThread b.id l fun t => { t with mid := some (.tile x.id) }) with tiles := s.tiles ++ [x] }.next, .stay)) s.next g b ls) s

def execMtile (a : BitVec 7) (s : State) : Result := runTile (.mtile a) false a s
def execMspt (a : BitVec 7) (s : State) : Result := runTile (.mspt a) true a s

/-- POWER_TOKEN_GRANT: a die's oldest request gets its tokens when their sum is free (R298). -/
def execPowerTokenGrant (die : Nat) (s : State) : Result :=
  .next (let d := s.die die
    match d.tokenQueue with
    | [] => s
    | h :: _ => match s.tiles.find? (·.id == h) with
      | none => s.modDie die fun d => { d with tokenQueue := d.tokenQueue.drop 1 }
      | some x =>
        let mates := s.tiles.filter fun y => d.tokenQueue.contains y.id && y.order == x.order && y.bundle == x.bundle
        let sum : Nat := (mates.map (·.cost)).foldl (· + ·) 0
        if s.freeFor (s.partAt x.bundle) die < (sum : Int) then s
        else
          let s := s.modDie die fun d => { d with
            free := d.free - (sum : Int), tokenQueue := d.tokenQueue.filter fun y => !(mates.any (·.id == y)) }
          { s with tiles := upd s.tiles (fun y => mates.any (·.id == y.id)) fun y => { y with granted := true } })

/-- The register rows of an operand, one per stored row (R286): +0 for a lane that is exited or does not exist. -/
def tileRows (b : Bundle) (ws : List Word) (isB : Bool) : List (List Word) :=
  if tileInRegs ws isB then (List.range (tileStored ws isB).1).map fun r => match b.threads[r]? with
    | some u => if u.life == .exited then List.replicate (tileRegs ws isB) 0 else u.vals (tileReg ws isB) (tileRegs ws isB)
    | none => List.replicate (tileRegs ws isB) 0
  else []

/-- Issue a granted command when its heads are free and its registers full (R282, R286, R288). -/
def State.issueTile (s : State) (t : Tile) : State :=
  match s.bundle? t.bundle with
  | none => s
  | some b =>
    let ws := t.words
    let th := s.thread t.bundle t.lane
    let cores := t.span
    let q := tileSlot ws
    let at_ (c : Nat) : Nat := if q = 15 then (s.core c).head else q
    let isFree (c : Nat) : Bool := ((s.core c).slots.getD (at_ c) none).isNone
    let before := s.tiles.any fun y => y.order == t.order && y.bundle == t.bundle && decide (y.id < t.id) && !y.issued
    if !(s.issues b) || !th.live || before || t.regsPending b || s.tileStoresWait t || (q == 15 && !(cores.all isFree)) then s
    else if q ≠ 15 && cores.any isFree then
      (s.dropTile t).raise t.bundle t.lane { cause := 3, detail := 0x105 } th.pc th.nxt
    else match tileRegTraps b ws t.sparse with
      | tr :: _ => (s.dropTile t).raise t.bundle t.lane tr th.pc th.nxt
      | [] =>
        let shape := (tileM ws / tileSpan ws, tileN ws, fmtAcc (tileFormat ws), s.fresh)
        let slots := cores.map at_
        let s := if q = 15 then cores.foldl (fun s c => s.modCore c fun x => { x with
            slots := x.slots.set x.head (some shape), head := (x.head + 1) % x.slots.length }) s else s
        let th40 := ((s.blockOf b).map fun (k : Block) => k.carvth).getD t.threshold
        let s := { s with tiles := upd s.tiles (·.id == t.id) fun y => { y with
            issued := true, slots := slots, order := s.fresh, threshold := th40, regsA := tileRows b ws false, regsB := tileRows b ws true } }.next
        s.finishLane t.bundle t.lane th.pc th.nxt

/-- A command whose thread no longer waits for it is withdrawn; one whose cost no longer fits the pool traps TOKEN (R298). -/
def State.settleTile (s : State) (id : Nat) : State :=
  match s.tiles.find? (·.id == id) with
  | none => s
  | some t =>
    if t.issued || (s.bundle? t.bundle).isNone then s
    else
      let th := s.thread t.bundle t.lane
      if !(th.mid == some (.tile id)) then s.dropTile t
      else if !t.granted && decide (s.poolFor (s.partAt t.bundle) (dieOf t.core) < t.cost) && th.live then
        (s.dropTile t).raise t.bundle t.lane { cause := 0x0E, detail := BitVec.ofNat 64 t.cost } th.pc th.nxt
      else if t.granted then s.issueTile t
      else s

/-- Commands issue by themselves once nothing holds them. -/
def State.settleTiles (s : State) : State := (s.tiles.map (·.id)).foldl State.settleTile s

/-- MWAIT and PWAIT: a slot number that names no slot of the core's ring (R291, R296). -/
def slotNamed (z : BitVec 4) : Check := fun s g b _ _ =>
  if z == 15#4 || decide (z.toNat < (s.core b.core).slots.length) then []
  else [{ cause := 3, detail := Config.illegalDetail g.word }]

def execMwait (z : BitVec 4) (s : State) : Result := runLanes (.mwait z) (slotNamed z) (fun s _ _ _ => (s, .next)) s

def execMtok (d : BitVec 7) (s : State) : Result :=
  runLanes (.mtok d) noCheck (fun s _ b l =>
    let p := s.poolFor (s.partOf b) (dieOf b.core)
    let f := s.freeFor (s.partOf b) (dieOf b.core)
    (s.modThread b.id l fun t => t.write d.toNat (BitVec.ofNat 32 (p % 65536 * 65536 + (f % 65536).toNat)), .next)) s

/-! What a command computes (R285, R286, R289). -/

/-- Element γ of a row packed into words (R118). -/
def packedElem (ws : List Word) (w γ : Nat) : Nat := leNat (bytesOf ws) / 2 ^ (w * γ) % 2 ^ w

/-- The byte offset of byte u of stored row ρ of a scratchpad operand (R285). -/
def tileByte (d : Word × Word) (ρ u : Nat) : Nat :=
  let w := u / 4
  bits d.1.toNat 18 0 + ρ / 16 * bits d.2.toNat 31 16 * 32 + ρ % 16 * bits d.2.toNat 15 0 +
    4 * (32 * (w / 32) + (w % 32 + ρ % 16 * bits d.1.toNat 27 24) % 32) + u % 4

/-- Where a byte of a scratchpad operand lies, with the space and offset it counts as (R164, R285). -/
def State.tilePlace (s : State) (b : Bundle) (d : Word × Word) (off : Nat) : Place × Nat × DWord :=
  let c := bits d.1.toNat 20 19
  if c = b.core % 4 then (s.spadPlace b 1 (BitVec.ofNat 64 off) 1, 1, BitVec.ofNat 64 off)
  else
    let ea := BitVec.ofNat 64 (c * 2 ^ 19 + off)
    if 2 ^ 19 ≤ off then (.nowhere, 2, ea) else (s.spadPlace b 2 ea 1, 2, ea)

/-- The bytes of the stored rows of a scratchpad operand (a word that changed while the command runs is read or not, R199), and the
state with the allotment flag an outside byte sets (R165). -/
def State.tileSpad (s : State) (b : Bundle) (olds : List OldWord) (d : Word × Word) (rows len : Nat) : State × List (List Byte) :=
  (List.range rows).foldl (fun acc ρ =>
    let row := (List.range len).foldl (fun (x : State × List Byte) u =>
      let pl := x.1.tilePlace b d (tileByte d ρ u)
      match pl.1 with
      | .spad k o => (x.1, x.2 ++ [x.1.oldOr olds (some k) o ((x.1.spadRead k o 1).getD 0 0)])
      | p => (x.1.offend b p pl.2.1 pl.2.2, x.2 ++ [0])) (acc.1, [])
    (row.1, acc.2 ++ [row.2])) (s, [])

/-- The stored rows of an operand as codes (R285, R286). -/
def State.tileCodes (s : State) (b : Bundle) (t : Tile) (isB : Bool) : State × List (List Nat) :=
  let ws := t.words
  let f := tileFormat ws
  let w := typeBits (if isB then fmtB f else fmtA f)
  let n := (tileStored ws isB).2
  if tileInRegs ws isB then
    (s, (if isB then t.regsB else t.regsA).map fun r => (List.range n).map (packedElem r w))
  else
    let x := s.tileSpad b t.olds (if isB then t.descB else t.descA) (tileStored ws isB).1 (ceilDiv (n * w) 8)
    (x.1, x.2.map fun bs => (List.range n).map fun γ => leNat bs / 2 ^ (w * γ) % 2 ^ w)

/-- One element of a product (R289): the old slot element, or +0, and the sum over K. -/
def tileElement (f : Word) (k : Nat) (x0 : Nat) (a b : Nat → Nat) : Nat :=
  if fmtAcc f = 4 then
    (BitVec.ofNat 32 x0 + BitVec.ofInt 32 (((List.range k).map fun j => readInt (fmtA f) (a j) * readInt (fmtB f) (b j)).foldl (· + ·) 0)).toNat
  else
    let g := fmtOf (fmtAcc f)
    (g.dot true (g.value false x0) ((List.range k).map fun j =>
      ((fmtOf (fmtA f)).value false (a j), (fmtOf (fmtB f)).value false (b j)))).1

/-- Write every element of a command's slots, from a function of core, row and column and the old element. -/
def State.fillSlots (s : State) (t : Tile) (v : Nat → Nat → Nat → Nat → Nat) : State :=
  let rows := tileM t.words / tileSpan t.words
  let n := tileN t.words
  let eb := accBytes (tileFormat t.words)
  ((List.range t.span.length).map fun i => (i, t.span.getD i 0, t.slots.getD i 0)).foldl (fun s x =>
    s.modCore x.2.1 fun c =>
      let base := x.2.2 * slotBytes c.slotCode
      { c with ringMem := (List.range (rows * n)).foldl (fun (m : Mem) j =>
          writeBytes m (base + j * eb) (leBytes eb (v x.1 (j / n) (j % n) (leNat (readBytes c.ringMem (base + j * eb) eb))))) c.ringMem }) s

/-- The product of a command (R289), from A by row and inner index and B by inner index and column. -/
def State.multiply (s : State) (t : Tile) (a b : Nat → Nat → Nat) : State :=
  let ws := t.words
  s.fillSlots t fun i r c old =>
    let m := i * (tileM ws / tileSpan ws) + r
    tileElement (tileFormat ws) (tileK ws) (if tileAcc ws then old else 0) (a m) (fun k => b k c)

/-- An operand by its own indices, from its stored rows. -/
def operand (codes : List (List Nat)) (transposed : Bool) (i j : Nat) : Nat :=
  if transposed then (codes.getD j []).getD i 0 else (codes.getD i []).getD j 0

/-- A command and its thread are done: tokens return (R290). -/
def State.endTile (s : State) (t : Tile) : State :=
  let s := if t.granted then s.refund (dieOf t.core) t.cost else s
  { s with tiles := s.tiles.filter fun x => !(x.id == t.id) }

/-- Whether two commands write one slot of one core. -/
def Tile.shares (x y : Tile) : Bool :=
  (x.span.zip x.slots).any fun p => (y.span.zip y.slots).contains p

/-- Whether a tile command may complete: granted, issued, after the commands and PARTs of its slots that issued before it, and
after its thread's earlier scratchpad stores (R199, R289). -/
def State.tileMayEnd (s : State) (t : Tile) : Bool :=
  t.issued && t.granted && (s.bundle? t.bundle).isSome &&
  !(s.tiles.any fun y => y.issued && decide (y.order < t.order) && t.shares y) &&
  !(s.parts.any fun p => decide (p.order < t.order) && (t.span.zip t.slots).contains (p.core, p.slot)) &&
  !(s.spadStoresBefore t.bundle t.lane t.id)

/-- A dense command's result (R289). -/
def State.denseResult (s : State) (b : Bundle) (t : Tile) : State :=
  let f := tileFormat t.words
  let a := s.tileCodes b t false
  let c := a.1.tileCodes b t true
  c.1.multiply t (operand a.2 (fmtTA f)) (operand c.2 (fmtTB f))

end Sys2Proof.Machine
end

