-- ==== Sys2Proof/Machine/Part.lean ====
section
/-! DEFINITION. The Parting engine (R292 to R296), and how an engine command writes global memory: it registers its destination
lines and writes each once (R200), for PART and for the COPY packet (R402). -/

namespace Sys2Proof.Machine

/-! Fields of the parameter block (R292). -/

def partSlot (ws : List Word) : Nat := bits (ws.getD 0 0).toNat 3 0
def partType (ws : List Word) : Nat := bits (ws.getD 0 0).toNat 11 8
def partSpace (ws : List Word) : Nat := bits (ws.getD 0 0).toNat 14 13
def partRnd (ws : List Word) : Bool := bit (ws.getD 0 0).toNat 15
def partAct (ws : List Word) : Nat := bits (ws.getD 0 0).toNat 18 16
def partScales (ws : List Word) : Bool := bit (ws.getD 0 0).toNat 19
def partBiases (ws : List Word) : Bool := bit (ws.getD 0 0).toNat 20
def partPitch (ws : List Word) : Nat := bits (ws.getD 1 0).toNat 15 0
def partRes (ws : List Word) : Nat := bits (ws.getD 1 0).toNat 31 16 * 256
def partPair (ws : List Word) (i : Nat) : DWord := ws.getD (i + 1) 0 ++ ws.getD i 0

/-- Saturation, for the types it concerns (R292). -/
def partSat (ws : List Word) : Bool :=
  bit (ws.getD 0 0).toNat 21 && (partType ws == 8 || partType ws == 9 || partType ws == 13)

/-- Whether a slot's accumulator, a destination type and a rounding go together (R293). -/
def partCombines (acc dtype : Nat) (rnd : Bool) : Bool :=
  if acc = 11 then (dtype == 11 || dtype == 10) && !rnd
  else if dtype = 10 ∨ dtype = 4 then !rnd
  else dtype == 8 || dtype == 9 || dtype == 12 || dtype == 13 || dtype == 14 || dtype == 0 || dtype == 1 || dtype == 7 || dtype == 15

/-- Bytes of a destination row of n elements. -/
def partRow (ws : List Word) (n : Nat) : Nat := n * typeBits (partType ws) / 8

/-- Bytes of a scale or bias value: f64 for an f64 slot. -/
def vecBytes (acc : Nat) : Nat := if acc = 11 then 8 else 4

/-- The slot a PART names on its core: the slot number, or the tail (R282, R292). -/
def Core.partSlot (c : Core) (ws : List Word) : Option Nat :=
  if Sys2Proof.Machine.partSlot ws = 15 then c.tail else some (Sys2Proof.Machine.partSlot ws)

/-- The shape of the share a PART reads: none where its slot is free or names none. -/
def State.partShape (s : State) (b : Bundle) (ws : List Word) : Option (Nat × Nat × Nat × Nat) :=
  let c := s.core b.core
  if c.ringHolder == b.owner.block? then (c.partSlot ws).bind fun i => (c.slots.getD i none).map fun x => (i, x.1, x.2.1, x.2.2.1)
  else none

/-- The first parameter word that makes a PART illegal, as far as its words can be read (R292, R293). -/
def partBadWord (spad : Nat) (ws : List Word) (known : Nat → Bool) (sh : Option (Nat × Nat × Nat × Nat)) : Option Nat :=
  let w := (ws.getD 0 0).toNat
  let shape := if known 0 then sh else none
  let bad0 := known 0 && (w / 2 ^ 22 ≠ 0 || bit w 12 || bits w 7 4 ≠ 0 || decide (4 ≤ partAct ws) || partSpace ws == 3 || match sh with
    | none => true
    | some (_, _, _, acc) => !(partCombines acc (partType ws) (partRnd ws)))
  let bad1 := known 1 && (partPitch ws % 16 ≠ 0 || decide (393216 ≤ partRes ws) || match shape with
    | none => false
    | some (_, rows, n, _) => decide (partPitch ws < partRow ws n) || (partRnd ws && decide (spad < partRes ws + rows * n * 4)))
  let vec (i : Nat) (asked : Bool) : Bool := known i && match shape with
    | none => false
    | some (_, _, _, acc) => asked && decide ((partPair ws i).toNat % vecBytes acc ≠ 0)
  (([(0, bad0), (1, bad1), (2, known 2 && (partPair ws 2).toNat % 16 ≠ 0), (4, vec 4 (partScales ws)), (6, vec 6 (partBiases ws))].find?
    (·.2)).map (·.1))

/-- The checks of PART (R293), as far as its parameter words can be read; those that cannot rank behind them. -/
def partChecks (a : BitVec 7) : Check := fun s _ b _ t =>
  let ws := t.vals a.toNat 8
  let known (i : Nat) : Bool := !(t.unread (a.toNat + i) 1)
  let sh := s.partShape b ws
  match partBadWord (((s.blockOf b).map (·.spadSize)).getD 0) ws known sh, (if known 0 then sh else none) with
  | some d, _ => [{ cause := 3, detail := BitVec.ofNat 64 d }]
  | none, none => []
  | none, some (_, rows, n, acc) =>
    (if partSpace ws = 0 && known 1 && known 2 && known 3 then ((List.range rows).flatMap fun r =>
        s.globalChecks b 0 (partPair ws 2 + BitVec.ofNat 64 (r * partPitch ws)) (partRow ws n) false true 1) else []) ++
    (if partScales ws && known 4 && known 5 then s.globalChecks b 0 (partPair ws 4) (n * vecBytes acc) true false 1 else []) ++
    (if partBiases ws && known 6 && known 7 then s.globalChecks b 0 (partPair ws 6) (n * vecBytes acc) true false 1 else [])

def execPart (a : BitVec 7) (s : State) : Result :=
  runLanes (.part a) (partChecks a) (fun s g b l =>
    let ws := (s.thread b.id l).vals a.toNat 8
    if 16 ≤ (s.parts.filter (·.core == b.core)).length then (s, .stay)
    else match s.partShape b ws with
      | none => (s, .next)
      | some (i, rows, n, acc) =>
        let p : PartCmd := { id := s.fresh, block := (b.owner.block?).getD 0, bundle := b.id, lane := l, core := b.core, pc := g.start
                             words := ws, slot := i, order := s.fresh, shape := (rows, n, acc) }
        ({ s with parts := s.parts ++ [p] }.next, .next)) s

/-- PWAIT is FENCE.ENG at die scope for the PARTs it waits for: their writes are the thread's earlier stores (R296). -/
def execPwait (z : BitVec 4) (s : State) : Result :=
  runLanes (.pwait z) (slotNamed z) (fun s _ b l => (s.raiseCtime b.core (s.thread b.id l).engWts, .next)) s

/-! What a PART computes (R294). -/

/-- The engine's mode: RNE, subnormals kept, canonical NaN. -/
def engineMode : FMode := { rm := .rne, flush := false, canon := true }

/-- Scale and bias, rounded once. -/
def partScaled (f : Fmt) (x : FVal) (sc bi : Option FVal) : Nat :=
  match sc, bi with
  | none, none => (f.convert .rne false false true x).1
  | some a, none => (f.fma engineMode [x, a] x a none).1
  | none, some b => (f.fma engineMode [x, b] x .one (some b)).1
  | some a, some b => (f.fma engineMode [x, a, b] x a (some b)).1

/-- The activation of a code; silu of −∞ is left open (log entry 16). -/
def partActed (f : Fmt) (act v : Nat) : Nat :=
  let x := f.value false v
  if act = 0 then v
  else if x.isNan then f.canonical.1
  else if act = 3 then match x with
    | .fin n m e => silu f n m e
    | .inf true => (Config.siluMinusInf f.eb).toNat % 2 ^ (1 + f.eb + f.fb)
    | _ => v
  else
    let v := if f.rank v < 0 then 0 else v
    let six := (f.convert .rne false false true (.fin false 6 0)).1
    if act = 2 ∧ f.rank six < f.rank v then six else v

/-- One element: its code in the destination type, and its new residue. -/
def partElement (ws : List Word) (acc x : Nat) (sc bi : Option Nat) (e : Nat) : Nat × Nat :=
  let f := if acc = 11 then f64 else f32
  let u := partType ws
  let xv := if acc = 4 then FVal.ofInt (readInt 4 x) else (fmtOf acc).value false x
  let v := if sc.isSome || bi.isSome || partAct ws ≠ 0 || !(isInt u) then
      f.value false (partActed f (partAct ws) (partScaled f xv (sc.map (f.value false)) (bi.map (f.value false))))
    else xv
  if partRnd ws then
    let y := feedback u (partSat ws) engineMode v e
    (y.1, y.2.2)
  else ((narrow u (partSat ws) engineMode v).1, 0)

/-- An element of a PART by its number, row by row: its code and its new residue, as computed before, or from the slot, the vectors and
the residue tile as they are read now (R199, R294). -/
def State.partElem (s : State) (b : Bundle) (p : PartCmd) (k : Nat) : Nat × Nat :=
  match p.done.lookup k with
  | some x => x
  | none =>
    let ws := p.words
    let acc := p.shape.2.2
    let eb := vecBytes acc
    let c := s.core p.core
    let j := k % p.shape.2.1
    let vec (i : Nat) : Nat := leNat (s.engineSpan b p.olds 0 ((partPair ws i).toNat + j * eb) eb)
    let e := partRes ws + 4 * k
    let residue := leNat ((s.spadRead p.block e 4).mapIdx fun i v => s.oldOr p.olds (some p.block) (e + i) v)
    partElement ws acc (leNat (readBytes c.ringMem (p.slot * slotBytes c.slotCode + k * eb) eb))
      (if partScales ws then some (vec 4) else none) (if partBiases ws then some (vec 6) else none) residue

/-- A PART computes some of its elements. -/
def State.partTake (s : State) (b : Bundle) (p : PartCmd) (ks : List Nat) : PartCmd :=
  { p with done := p.done ++ (ks.filter fun k => (p.done.lookup k).isNone).map fun k => (k, s.partElem b p k) }

/-- Change a queued PART. -/
def State.modPart_ (s : State) (p : PartCmd) : State := { s with parts := upd s.parts (·.id == p.id) fun _ => p }

/-- The elements of a PART. -/
def PartCmd.elements (p : PartCmd) : List Nat := List.range (p.shape.1 * p.shape.2.1)

/-- The elements that have a byte among some offsets from its destination. -/
def PartCmd.meeting (p : PartCmd) (os : List Nat) : List Nat :=
  let w := typeBits (partType p.words)
  let n := p.shape.2.1
  distinct (os.flatMap fun o =>
    let i := o % partPitch p.words
    (List.range (ceilDiv 8 w)).filterMap fun u =>
      let j := (8 * i + w * u) / w
      if j < n ∧ o / partPitch p.words < p.shape.1 then some (o / partPitch p.words * n + j) else none)

/-- A row of codes as bytes: element j above element j − 1, two 4-bit elements to a byte. -/
def rowBytes (w : Nat) (codes : List Nat) : List Byte :=
  leBytes (codes.length * w / 8) (codes.foldr (fun c acc => c % 2 ^ w + 2 ^ w * acc) 0)

/-- The bytes of a PART by their offset from its destination, from the elements it has computed. -/
def PartCmd.bytes (p : PartCmd) : List (Nat × Byte) :=
  (List.range p.shape.1).flatMap fun r =>
    let bs := rowBytes (typeBits (partType p.words)) ((List.range p.shape.2.1).map fun j => ((p.done.lookup (r * p.shape.2.1 + j)).getD (0, 0)).1)
    (List.range bs.length).map fun i => (r * partPitch p.words + i, bs.getD i 0)

/-! Destination lines (R200). -/

/-- The offsets a PART writes. -/
def PartCmd.offsets (p : PartCmd) : List Nat :=
  (List.range p.shape.1).flatMap fun r => (List.range (partRow p.words p.shape.2.1)).map fun i => r * partPitch p.words + i

/-- The physical address of an offset from a PART's global destination. -/
def State.partPa (s : State) (b : Bundle) (p : PartCmd) (off : Nat) : Option Nat :=
  match s.globalPlace b 0 (partPair p.words 2 + BitVec.ofNat 64 off) with
  | .mem pa => some pa
  | _ => none

/-- The physical destination bytes of an engine command, by offset: none where it writes no global memory of this package. -/
def State.engineDest (s : State) (op : Nat) : List (Nat × Nat) :=
  match s.parts.find? (·.id == op) with
  | some p => match s.bundle? p.bundle with
    | some b => if partSpace p.words = 0 then p.offsets.filterMap fun o => (s.partPa b p o).map fun pa => (o, pa) else []
    | none => []
  | none => match s.copies.find? (·.id == op) with
    | some c => match c.packet with
      | some (dest, n, _) => (List.range n).filterMap fun o => (s.vpa c.block (dest + o) true).map fun pa => (o, pa)
      | none => []
    | none => []

/-- The lines of an engine command, registered lines, and lines written. -/
def State.engineLines (s : State) (op : Nat) : List Nat × List Nat × List Nat :=
  let all := distinct ((s.engineDest op).map fun x => x.2 / 64)
  match s.parts.find? (·.id == op) with
  | some p => (all, p.lines, p.written)
  | none => match s.copies.find? (·.id == op) with
    | some c => (all, c.lines, c.written)
    | none => ([], [], [])

/-- Commands that are given up own no line any more. -/
def State.disown (s : State) (ops : List Nat) : State :=
  { s with lines := s.lines.map fun x => if x.owner.any ops.contains then { x with owner := none } else x }

/-- Whether a PART has begun to compute or to write. -/
def PartCmd.begun (p : PartCmd) : Bool := !(p.done.isEmpty && p.landed.isEmpty && p.written.isEmpty)

/-- Whether every destination line of a command is written. -/
def State.engineWritten (s : State) (op : Nat) : Bool :=
  (s.engineLines op).1.all fun ln => (s.engineLines op).2.2.contains ln

/-- ENGINE_REGISTRATION: the next destination line is registered at its home, behind the requests that are held there (R200). -/
def execEngineRegistration (op : Nat) (s : State) : Result :=
  .next (let x := s.engineLines op
    match x.1.find? fun ln => !(x.2.1.contains ln) with
    | none => s
    | some ln =>
      let behind := s.reqs.any (fun r => r.held.isSome && r.place.line == some ln) || s.heldStores.any fun x => x.bytes.any fun y => y.1 / 64 == ln
      if s.lineHeld ln (0, 64) true || behind then s
      else
        let s := (s.homeBytes 0 ln []).1.modLine ln fun y => { y with owner := some op }
        { s with parts := upd s.parts (·.id == op) fun p => { p with lines := p.lines ++ [ln] }
                 copies := upd s.copies (·.id == op) fun c => { c with lines := c.lines ++ [ln] } })

/-- A line at which another engine or a commit holds an engine's read. -/
def State.engineWaits (s : State) (op d pa : Nat) : Bool :=
  let x := s.line (pa / 64)
  (homeDie pa == d || (s.dieCopy d (pa / 64)).isNone) && ((x.owner.isSome && !(x.owner == some op)) || x.lock.isSome)

/-- Whether the reads of a PART's vectors must wait. -/
def State.partReadsWait (s : State) (b : Bundle) (p : PartCmd) : Bool :=
  let span (on : Bool) (i : Nat) : Bool := on && (List.range (p.shape.2.1 * vecBytes p.shape.2.2)).any fun o =>
    match s.globalPlace b 0 (partPair p.words i + BitVec.ofNat 64 o) with
    | .mem pa => s.engineWaits p.id (dieOf b.core) pa
    | _ => false
  span (partScales p.words) 4 || span (partBiases p.words) 6

/-- Whether a PART may run: first of its core, after the commands of its slot issued before it, after its thread's scratchpad
stores where it reads a residue tile (R199, R294). -/
def State.partMayRun (s : State) (b : Bundle) (p : PartCmd) : Bool :=
  !(s.parts.any fun q => q.core == p.core && decide (q.order < p.order)) &&
  !(s.tiles.any fun t => t.issued && decide (t.order < p.order) && (t.span.zip t.slots).contains (p.core, p.slot)) &&
  !(s.partReadsWait b p) && !(s.spadStoresBefore p.bundle p.lane p.id)

/-- The bytes an engine command writes to a line now, by physical address, and the state in which a PART has computed them; none where it
must wait. -/
def State.engineData (s : State) (op ln : Nat) : Option (State × List (Nat × Byte) × Nat) :=
  match s.parts.find? (·.id == op) with
  | some p => match s.bundle? p.bundle with
    | none => none
    | some b =>
      if !(s.partMayRun b p) then none
      else
        let here := (s.engineDest op).filter fun x => x.2 / 64 == ln
        let p := s.partTake b p (p.meeting (here.map (·.1)))
        let bs := p.bytes
        some (s.drawn.modPart_ p, here.map (fun x => (x.2, (bs.lookup x.1).getD 0)), p.core)
  | none => match s.copies.find? (·.id == op) with
    | none => none
    | some c =>
      let here := (s.engineDest op).filter fun x => x.2 / 64 == ln
      let srcs := here.filterMap fun x => (s.vpa c.block (c.src + x.1) false).map fun q => (x.2, q)
      if srcs.any fun x => s.engineWaits op c.bundle x.2 then none
      else some (srcs.foldl (fun s x => s.touch x.2) s.drawn, srcs.map (fun x => (x.1, (s.engineRead c.bundle c.olds x.2 1).getD 0 0)), 160 * c.bundle)

/-- ENGINE_LINE_WRITE: the next registered line is written in one store, and its ownership ends (R200). -/
def execEngineLineWrite (op : Nat) (s : State) : Result :=
  .next (let x := s.engineLines op
    match x.2.1.find? fun ln => !(x.2.2.contains ln) with
    | none => s
    | some ln => match s.engineData op ln with
      | none => s
      | some (s, bs, core) =>
        let h := s.homeBytes (s.engineTime core ln) ln bs
        let s := (h.1.modLine ln fun y => { y with owner := none }).copyTakes core (64 * ln) h.2 bs
        { s with parts := upd s.parts (·.id == op) fun p => { p with written := p.written ++ [ln], wts := max p.wts h.2 }
                 copies := upd s.copies (·.id == op) fun c => { c with written := c.written ++ [ln] } })

/-- The words a PART writes to scratchpads (R181, R294, R295): of its destination, as offsets from it, and of its residue tile, as
element numbers above 2^32. -/
def PartCmd.spadWords (p : PartCmd) : List Nat :=
  (if partSpace p.words = 0 then [] else p.offsets.filter (· % 4 == 0)) ++
  (if partRnd p.words then p.elements.map (2 ^ 32 + ·) else [])

/-- One of those words lands. -/
def State.partLand (s : State) (b : Bundle) (p : PartCmd) (w : Nat) : State :=
  if 2 ^ 32 ≤ w then
    let k := w - 2 ^ 32
    let p := s.partTake b p [k]
    (s.modPart_ { p with landed := p.landed ++ [w] }).spadWrite p.block (partRes p.words + 4 * k) (leBytes 4 ((p.done.lookup k).getD (0, 0)).2)
  else
    let p := s.partTake b p (p.meeting [w, w + 1, w + 2, w + 3])
    let bs := p.bytes
    (s.modPart_ { p with landed := p.landed ++ [w] }).engineSpad b (partSpace p.words) ((p.words.getD 2 0).toNat + w)
      ((List.range 4).map fun i => (bs.lookup (w + i)).getD 0)

/-- The same, of a PART by name. -/
def State.partLandOf (s : State) (b : Bundle) (op w : Nat) : State := match s.parts.find? (·.id == op) with
  | some p => s.partLand b p w
  | none => s

/-- The parts of a PART's destination in a peer's memory leave the package as messages (R162). -/
def State.partPeers (s : State) (b : Bundle) (p : PartCmd) (bs : List (Nat × Byte)) : State :=
  if partSpace p.words ≠ 0 then s
  else bs.foldl (fun s x => match s.globalPlace b 0 (partPair p.words 2 + BitVec.ofNat 64 x.1) with
    | .peer k va => s.toPeer (s.partOf b) k va [x.2]
    | _ => s) s

/-- PART_COMPLETE: a scratchpad word lands; or all that are left do, the last element is written, and the slot is free (R294, R295). -/
def execPartComplete (op : Nat) (s : State) : Result :=
  .next (match s.parts.find? (·.id == op) with
    | none => s
    | some p => match s.bundle? p.bundle with
      | none => s
      | some b =>
        let left := p.spadWords.filter fun w => !(p.landed.contains w)
        let vector (s : State) (on : Bool) (i : Nat) : State :=
          if on then s.touchSpan b 0 (partPair p.words i).toNat (p.shape.2.1 * vecBytes p.shape.2.2) else s
        if !(s.partMayRun b p) || !(s.engineWritten op) then s
        else match if left.isEmpty then false else Config.choice s.draw with
        | true => (s.partLand b p (left.getD (Config.pick s.draw % left.length) 0)).drawn
        | false =>
          let s := left.foldl (fun s w => s.partLandOf b op w) (vector (vector s.drawn (partScales p.words) 4) (partBiases p.words) 6)
          let p := s.partTake b ((s.parts.find? (·.id == op)).getD p) p.elements
          let s := ((s.partPeers b p p.bytes).freeSlot p.core p.slot).landThread p.bundle p.lane fun t => { t with engWts := max t.engWts p.wts }
          { s with parts := s.parts.filter fun x => !(x.id == op) })

end Sys2Proof.Machine
end

