-- ==== Sys2Proof/Machine/Tcb.lean ====
section
/-! DEFINITION. The structures that a launch names: the task control block (R361 to R363), its declared ranges, buffers and stream
entries, and the dependence table with its rename versions (R372 to R375). -/

namespace Sys2Proof.Machine

/-! Stream entries (R56, R141, R142). -/

/-- Whether an 8-byte stream entry is one that `.stream` can write: any other fails the check of the structure that names it
(DESIGN CHOICE, log entry 117). -/
def streamEntryOk (e : List Byte) : Bool :=
  let space := field e 1 1
  let scope := field e 2 1
  decide (field e 0 1 ≤ 14) && decide (space ≤ 3) && decide (field e 3 1 ≤ 3) && decide (field e 4 4 ≤ 1) &&
  (if space = 1 ∨ space = 2 then scope == 0 else decide (1 ≤ scope) && decide (scope ≤ 5))

/-- The attribute word of an entry (R141). -/
def streamEntry (e : List Byte) : Nat × Word :=
  (field e 0 1, BitVec.ofNat 32 (field e 1 1 + 4 * field e 2 1 + 32 * field e 3 1 + 128 * (field e 4 4 % 2)))

/-- The entries of a table. -/
def streamEntries (bs : List Byte) (n : Nat) : List (List Byte) := (List.range n).map fun i => (bs.drop (8 * i)).take 8

/-- The table a block starts with (R142): the defaults, and its program's entries over them. -/
def startStreams (es : List (Nat × Word)) : List Word := es.foldl (fun t e => t.set e.1 e.2) defaultStreams

/-! Buffers (R175). -/

/-- Whether a buffer descriptor is all zero, or valid. -/
def bufOk (w0 w1 : Word) : Bool :=
  (w0 == 0 && w1 == 0) ||
  (bits w0.toNat 31 22 == 0 && decide (bits w0.toNat 20 0 % 32 = 0) && decide (1 ≤ bits w1.toNat 31 16) &&
    decide (bits w1.toNat 31 16 ≤ 1024) && decide (bits w1.toNat 15 0 % 32 = 0) && decide (32 ≤ bits w1.toNat 15 0) &&
    decide (bits w1.toNat 15 0 ≤ 32768))

/-- The buffer of a descriptor at launch (R176). -/
def bufOf (w0 w1 : Word) : Option Buf :=
  if w0 = 0 ∧ w1 = 0 then none
  else some { cluster := bit w0.toNat 21, base := bits w0.toNat 20 0, count := bits w1.toNat 31 16
              size := bits w1.toNat 15 0, free := bits w1.toNat 31 16 }

/-! Ranges (R212, R362). -/

/-- An entry's range, with the argument added where it asks. -/
def rangeOf (e : List Byte) (arg : DWord) : Range :=
  let w := field e 8 8
  { base := (field e 0 8 + if bit w 50 then arg.toNat else 0) % 2 ^ 64, len := bits w 47 0, r := bit w 48, w := bit w 49
    gran := bits w 55 52, ren := bit w 51, hbm := bit w 56 }

/-- Bytes of a range's tile. -/
def Range.tile (r : Range) : Nat := 2 ^ (6 + r.gran)

/-- Whether a base is wrong, of an unused entry too (R362). -/
def rangeBaseBad (e : List Byte) (arg : DWord) : Bool :=
  let r := rangeOf e arg
  decide (2 ^ 56 ≤ r.base) || decide (2 ^ 56 < r.base + r.len) || (r.ren && decide (r.base % 65536 ≠ 0 ∨ r.base % r.tile ≠ 0))

/-- Whether an entry's second word is wrong; node templates keep hbm and ren reserved (R212). -/
def rangeWordBad (e : List Byte) (arg : DWord) (node : Bool) : Bool :=
  let r := rangeOf e arg
  decide (bits (field e 8 8) 63 57 ≠ 0) || (node && (r.hbm || r.ren)) || (decide (0 < r.len) && !r.r && !r.w) ||
  (r.ren && (!r.w || r.r || decide (r.len % 65536 ≠ 0 ∨ r.len % r.tile ≠ 0)))

/-! The task control block. -/

/-- The program a TCB describes, with its stream table's bytes. -/
def tcbProgram (bs streams : List Byte) (arg : DWord) : Program :=
  let word (o : Nat) : Word := BitVec.ofNat 32 (field bs o 4)
  { entry := BitVec.ofNat 64 (field bs 0 8), expected := field bs 8 8, codeBase := field bs 16 8, codeLen := field bs 24 4
    threads := field bs 28 2, regs := field bs 30 2, spad := field bs 32 4, blocks := field bs 36 2
    idem := bit (field bs 38 2) 0, coplace := bit (field bs 38 2) 1, tracked := bit (field bs 38 2) 2
    streams := (streamEntries streams (field bs 48 2)).map streamEntry
    bufs := (List.range 8).map fun i => (word (64 + 8 * i), word (68 + 8 * i))
    bars := (List.range 8).map fun i => word (128 + 4 * i)
    ranges := (List.range 8).map fun i => rangeOf ((bs.drop (192 + 16 * i)).take 16) arg }

/-- Bundles of a program's block. -/
def Program.bundles (p : Program) : Nat := ceilDiv p.threads 32

/-- Whether n blocks of a program fit an empty core together (R58, R364). -/
def Program.fits (p : Program) (n : Nat) : Bool :=
  decide (n * p.bundles ≤ 64) && decide (n * p.bundles * (p.regs / 8) ≤ 512) && decide (n * p.spad ≤ 393216)

/-- The first field of a TCB that breaks R361 to R363 in offset order; streams: its table's bytes, none where they cannot be read.
A continuation ignores the scratchpad and block count fields (R382). -/
def tcbBad (bs : List Byte) (streams : Option (List Byte)) (arg : DWord) (cont : Bool) : Option Nat :=
  let p := tcbProgram bs [] arg
  let n := field bs 48 2
  let checks : List (Nat × Bool) :=
    [(0, decide (p.entry.toNat % 2 = 1) || !(inside p.entry.toNat 1 p.codeBase p.codeLen)),
     (16, decide (p.codeBase % 64 ≠ 0) || decide (2 ^ 56 ≤ p.codeBase)),
     (24, decide (p.codeLen % 2 = 1) || decide (p.codeLen < 2) || decide (2 ^ 31 < p.codeLen)),
     (28, decide (p.threads < 1) || decide (1024 < p.threads)),
     (30, decide (p.regs % 8 ≠ 0) || decide (p.regs < 8) || decide (128 < p.regs)),
     (32, !cont && (decide (p.spad % 256 ≠ 0) || decide (393216 < p.spad))),
     (36, !cont && (decide (p.blocks < 1) || (p.coplace && !(p.fits p.blocks)))),
     (38, decide (8 ≤ field bs 38 2)),
     (40, (n == 0 && !(zeroBytes bs 40 8)) || (decide (n ≤ 16) && match streams with
        | none => true
        | some t => !((streamEntries t n).all streamEntryOk))),
     (48, decide (16 < n)),
     (50, !(zeroBytes bs 50 14))] ++
    (List.range 8).map (fun i => (64 + 8 * i, !(bufOk ((p.bufs.getD i (0, 0)).1) ((p.bufs.getD i (0, 0)).2)))) ++
    [(160, !(zeroBytes bs 160 32))] ++
    (List.range 8).flatMap fun i =>
      let e := (bs.drop (192 + 16 * i)).take 16
      [(192 + 16 * i, rangeBaseBad e arg), (200 + 16 * i, rangeWordBad e arg false)]
  (checks.find? (·.2)).map (·.1)

/-- Whether a new block's ranges lie inside the task's, with no right added: the field that does not (R382). -/
def contBad (all : List Range) (p : Program) : Option Nat :=
  let code := if all.any fun x => x.r && inside p.codeBase p.codeLen x.base x.len then [] else [(16, true)]
  let ranges := (List.range 8).filterMap fun i => match p.ranges[i]? with
    | none => none
    | some r => if decide (0 < r.len) && !(all.any fun x => inside r.base r.len x.base x.len && (!r.r || x.r) && (!r.w || x.w)) then
        some (192 + 16 * i, true) else none
  (code ++ ranges).head?.map (·.1)

/-- The lower of two offsets. -/
def lowerOf : Option Nat → Option Nat → Option Nat
  | some a, some b => some (min a b)
  | none, b => b
  | a, none => a

/-- What the Headstock reads at a virtual address of a partition (R450): the bytes; none where it must wait; nothing mapped. -/
inductive Got where
  | bytes (s : State) (bs : List Byte)
  | wait
  | bad

/-- Read a structure. -/
def State.get (s : State) (p va n : Nat) : Got :=
  match s.useSpan p va n true false with
  | .ready s => match s.vread p va n with
    | some bs => .bytes s bs
    | none => .bad
  | .wait => .wait
  | .bad => .bad

/-- A TCB's bytes and its stream table. -/
inductive TcbRead where
  | ok (s : State) (bs : List Byte) (program : Program)
  /-- The field that fails, by its offset in the TCB; none where the TCB itself cannot be read. -/
  | fails (s : State) (field : Option Nat)
  | wait

/-- The first failing field of a TCB, with what R382 asks of a continuation of a task with some ranges. -/
def tcbFails (bs : List Byte) (streams : Option (List Byte)) (arg : DWord) (cont : Option (List Range)) : Option Nat :=
  lowerOf (tcbBad bs streams arg cont.isSome) (cont.bind fun all => contBad all (tcbProgram bs [] arg))

/-- Read and check a TCB (R363, R382, R450). -/
def State.readTcb (s : State) (p : Nat) (va arg : DWord) (cont : Option (List Range)) : TcbRead :=
  if va.toNat % 64 ≠ 0 then .fails s none
  else match s.get p va.toNat 320 with
  | .wait => .wait
  | .bad => .fails s none
  | .bytes s bs =>
    let n := field bs 48 2
    match if 0 < n ∧ n ≤ 16 then s.get p (field bs 40 8) (8 * n) else .bytes s [] with
    | .wait => .wait
    | .bad => .fails s (tcbFails bs none arg cont)
    | .bytes s t => match tcbFails bs (some t) arg cont with
      | some o => .fails s (some o)
      | none => .ok s bs (tcbProgram bs t arg)

/-! The dependence table (R372, R373). -/

/-- The tiles a range covers, as one span: its extent rounded outward (R373). -/
def Range.cover (r : Range) : Nat × Nat :=
  let lo := r.base / r.tile * r.tile
  (lo, ceilDiv (r.base + r.len) r.tile * r.tile - lo)

/-- Whether two ranges order their units (R373): overlapping tiles, one of them written. -/
def Range.orders (e l : Range) : Bool := overlap e.cover.1 e.cover.2 l.cover.1 l.cover.2 && (e.w || l.w)

/-- Whether a later unit's use of a range meets an older unit only through a version between them (R374). -/
def State.hidden (s : State) (e : Dep) (l : Range) (order : Nat) : Bool :=
  let lo := max e.range.cover.1 l.cover.1
  let hi := min (e.range.cover.1 + e.range.cover.2) (l.cover.1 + l.cover.2)
  s.versions.any fun v => v.scope == e.scope && decide (e.order < v.order) && decide (v.order < order) && inside lo (hi - lo) v.base v.len

/-- The earlier live units that a range of a later unit depends on (R373). -/
def State.rangeDeps (s : State) (die scope order : Nat) (r : Range) : List Dep :=
  if r.len = 0 then [] else s.deps.filter fun e => e.die == die && e.scope == scope && decide (e.order < order) && e.range.orders r &&
    !(s.hidden e r order)

/-- Entries in a die's table. -/
def State.depRoom (s : State) (die n : Nat) : Bool := decide ((s.deps.filter (·.die == die)).length + n ≤ 4096)

/-! Rename versions (R374). -/

/-- Whether no page of a range lies in a leaf larger than 64 KiB: such a leaf cannot hold a version of a part of it (log entry 48). -/
def State.smallLeaves (s : State) (p base len : Nat) : Bool :=
  (List.range (len / 65536)).all fun i => match s.walk p (base + 65536 * i) with
    | some lf => lf.size == 65536
    | none => true

/-- Whether a range of a unit is renamed (R374): it has dependences, which a write-only range makes write after read or write
after write, and the pool has the pages. -/
def State.renames (s : State) (p : Nat) (r : Range) (ds : List Dep) : Bool :=
  r.ren && !ds.isEmpty && decide (r.len / 65536 ≤ (s.part p).renameFree.length) && s.smallLeaves p r.base r.len

/-- The versions of one scope in a partition that meet a span. -/
def State.versionsOf (s : State) (p scope base len : Nat) : List Version :=
  s.versions.filter fun v => v.partition == p && v.scope == scope && overlap v.base v.len base len

/-- Take fresh pages for a range: its version, and one for each page that no version stands for yet: the page in the table (R374). -/
def State.rename (s : State) (p scope unit order : Nat) (r : Range) : State :=
  let n := r.len / 65536
  let free := (s.part p).renameFree
  let bare := ((List.range n).map fun i => r.base + 65536 * i).filter fun a => (s.versionsOf p scope a 65536).isEmpty
  let base : List Version := bare.zipIdx.map fun x =>
    { id := s.fresh + 1 + x.2, partition := p, scope := scope, unit := 0, order := 0, base := x.1, len := 65536, frames := [], installed := true }
  let v : Version := { id := s.fresh, partition := p, scope := scope, unit := unit, order := order, base := r.base
                       len := r.len, frames := free.take n }
  let s := s.modPart p fun q => { q with renameFree := q.renameFree.drop n }
  { s with versions := s.versions ++ base ++ [v], fresh := s.fresh + 1 + bare.length }

/-- A unit takes its entries (R375): the units it waits for, and its renamed ranges take versions. -/
def State.takeDeps (s : State) (p die unit scope order : Nat) (rs : List Range) : State × List Nat :=
  let used := rs.filter fun r => decide (0 < r.len)
  let step (acc : State × List Nat) (r : Range) : State × List Nat :=
    let ds := acc.1.rangeDeps die scope order r
    if acc.1.renames p r ds then (acc.1.rename p scope unit order r, acc.2) else (acc.1, acc.2 ++ ds.map (·.unit))
  let r := used.foldl step (s, [])
  let mine := used.map fun x => ({ die := die, unit := unit, scope := scope, range := x, order := order } : Dep)
  ({ r.1 with deps := r.1.deps ++ mine }, distinct r.2)

/-- The version through which a unit translates a page: the newest of its scope not later than it (R374). -/
def State.versionAt (s : State) (p scope order va : Nat) : Option Version :=
  ((s.versionsOf p scope va 1).filter fun v => decide (v.order ≤ order)).foldl
    (fun m v => match m with
      | none => some v
      | some x => if x.order < v.order then some v else some x) none

/-- The frame override of a lease by a tracked unit; an untracked task has none. -/
def State.versionFrame (s : State) (p : Nat) (unit : Option (Nat × Nat)) (va : Nat) : Option Nat :=
  match unit with
  | none => none
  | some (scope, order) => (s.versionAt p scope order va).bind fun v => v.frames[(va - v.base) / 65536]?

/-- A run without its hold on the leaves of a span. -/
def Xlat.unhold (lo n : Nat) (x : Xlat) : List Xlat :=
  if !x.table || !(overlap x.va x.len lo n) then [x]
  else
    let part (a b : Nat) (t : Bool) : Xlat := { x with va := a, pa := x.pa + (a - x.va), len := b - a, table := t }
    let a := max x.va lo
    let b := min (x.va + x.len) (lo + n)
    [part x.va a true, part a b false, part b (x.va + x.len) true].filter fun y => decide (0 < y.len)

/-- Current leases hold the leaves of a span no longer: the Headstock itself writes them (R374). -/
def State.unhold (s : State) (p lo n : Nat) : State :=
  let cut (q : Nat) (xs : List Xlat) : List Xlat := if q = p then xs.flatMap (Xlat.unhold lo n) else xs
  let s := s.modPart p fun q => { q with handlers := cut p q.handlers }
  { s with tasks := s.tasks.map fun t => { t with xlat := cut t.partition t.xlat }
           grids := s.grids.map fun g => { g with xlat := cut g.partition g.xlat }
           wnodes := s.wnodes.map fun x => { x with xlat := cut x.partition x.xlat }
           objects := s.objects.map fun o => { o with xlat := cut o.partition o.xlat }
           leases := s.leases.map fun l => { l with xlat := cut l.partition l.xlat } }

/-- Whether a live unit translates through a version: one whose newest version of a page, not later than it, this is. -/
def State.versionWanted (s : State) (v : Version) : Bool :=
  s.deps.any fun e => e.scope == v.scope && overlap e.range.base e.range.len v.base v.len &&
    (List.range (v.len / 65536)).any fun i => ((s.versionAt v.partition v.scope e.order (v.base + 65536 * i)).map (·.id)) == some v.id

/-- The page that stands in the table until now becomes its version's own, before a later one is installed there: a compressed one that
a unit still wants is expanded (R389), and a move of it ends where the bytes are. -/
def State.capture (s : State) (v : Version) : State :=
  let s := if s.versionWanted v then s.expand v.partition v.base else s
  match s.walk v.partition v.base with
  | none => s
  | some lf =>
    let frames := if lf.c then [] else [lf.pa]
    { s with
      versions := upd s.versions (·.id == v.id) fun x => { x with frames := frames }
      moves := s.moves.filter fun m => !(m.partition == v.partition && m.va == v.base)
      zone := if lf.c then s.zone.filter (fun z => !(z.partition == v.partition && z.slot == lf.pa)) else s.zone }

/-- Rewrite the leaves of a version's range (R374). -/
def State.install (s : State) (v : Version) : State :=
  let bare := (s.versionsOf v.partition v.scope v.base v.len).filter fun x => x.frames.isEmpty && x.installed
  let s := bare.foldl State.capture s
  ((List.range v.frames.length).foldl (fun s i => match s.walk v.partition (v.base + 65536 * i) with
    | none => s
    | some lf =>
      let f := v.frames.getD i 0
      s.putLeaf lf.entry (leafWord (leNat (readBytes s.mem lf.entry 8)) f (inTier2 f) false false)) (s.unhold v.partition v.base v.len))

/-- Whether a live unit, or a lease of any holder, still uses a version: a unit that translates through it, or a frame of it. -/
def State.versionUsed (s : State) (v : Version) : Bool :=
  s.versionWanted v || (s.leaseRuns v.partition).any fun x => v.frames.any fun f => overlap x.pa x.len f 65536

/-- Forget a version, whose pages return to the pool. -/
def State.dropVersion (s : State) (v : Version) : State :=
  let s := s.modPart v.partition fun q => { q with renameFree := q.renameFree ++ v.frames }
  { s with versions := s.versions.filter fun x => !(x.id == v.id) }

/-- Superseded versions that nothing uses return their pages to the pool; one that is installed and alone is the page table's own
(R374). -/
def State.reclaim (s : State) : State :=
  let covered (v : Version) : Bool := (s.versionsOf v.partition v.scope v.base v.len).any fun x =>
    x.installed && decide (v.order < x.order) && inside v.base v.len x.base x.len
  let s := (s.versions.filter fun v => v.installed && covered v && !(s.versionUsed v)).foldl State.dropVersion s
  let alone (v : Version) : Bool := v.installed && (s.versionsOf v.partition v.scope v.base v.len).length == 1
  { s with versions := s.versions.filter fun v => !(alone v) }

/-- A unit ends (R369, R373, R374): its versions are installed, or discarded at a cancel; its entries are freed and each counter
that waits for it falls. -/
def State.endUnit (s : State) (unit : Nat) (cancelled : Bool) : State :=
  let one (s : State) (v : Version) : State :=
    if cancelled || v.cancelled then s.dropVersion v
    else
      let later := (s.versionsOf v.partition v.scope v.base v.len).any fun x => x.installed && decide (v.order < x.order)
      let s := if later then s else s.install v
      { s with versions := upd s.versions (·.id == v.id) fun x => { x with installed := true, unit := 0 } }
  let s := (s.versions.filter (·.unit == unit)).foldl one s
  let deps := s.deps.filter fun e => !(e.unit == unit)
  let tasks := s.tasks.map fun t => { t with deps := t.deps.filter fun u => !(u == unit) }
  { s with deps := deps, tasks := tasks }.reclaim

end Sys2Proof.Machine
end

