-- ==== Sys2Proof/Machine/Record.lean ====
section
/-! DEFINITION. The context record of a saved block (R342, R343). Bytes whose form only restore reads are free (log entry 6). -/

namespace Sys2Proof.Machine

/-- n free bytes: a part of the record whose layout no rule gives. -/
def freeBytes (draw at_ n : Nat) : List Byte := (List.range n).map fun i => Config.freeByte draw (at_ + i)

/-- The bundles of a saved block, and its handlers. -/
def Saved.main (x : Saved) : List Bundle := x.bundles.filter fun b => !b.isHandler
def Saved.handlers (x : Saved) : List Bundle := x.bundles.filter fun b => b.isHandler && b.working

/-- The handler threads that have not ended. -/
def Saved.handlerThreads (x : Saved) : List Thread := x.handlers.flatMap fun b => b.threads.filter fun t => !(t.life == .exited)

/-- The thread of a block by %tid. -/
def Saved.thread? (x : Saved) (tid : Nat) : Option Thread :=
  (x.main.find? (·.index == tid / 32)).bind (·.threads[tid % 32]?)

/-- The registers section (R343): 0 for a lane that does not exist. -/
def Saved.registers (x : Saved) : List Byte :=
  (List.range x.block.bundles).flatMap fun b => (List.range x.block.allot).flatMap fun n => (List.range 32).flatMap fun l =>
    leBytes 4 (((x.thread? (32 * b + l)).map fun t => (t.val n).toNat).getD 0)

/-- Two bits of a register's state. -/
def RegState.code : RegState → Nat
  | .full => 0
  | .pending => 1
  | .held => 2
  | .poisoned _ _ _ => 3

/-- A thread's entry (R343). -/
def threadEntry (t : Option Thread) : List Byte :=
  match t with
  | none => patch (List.replicate 320 0) 8 [3]
  | some t =>
    let pc := match t.life with
      | .parked p => p.resume
      | _ => t.pc
    let st := match t.life with
      | .live => 0
      | .parked _ => 1
      | .exited => 2
    let wait := match t.mid with
      | some (.barWait op _) => op.toNat
      | _ => 0xFF
    let parked := match t.life with
      | .parked p => p.trap.cause + if p.server.isSome then 256 else 0
      | _ => 0
    leBytes 8 pc.toNat ++ leBytes 1 st ++ leBytes 1 wait ++
      leBytes 1 ((List.range 7).map (fun i => if t.pred i then 2 ^ i else 0)).sum ++
      leBytes 1 t.fmode.toNat ++ leBytes 1 t.fflags.toNat ++ leBytes 1 t.aborts ++ leBytes 2 parked ++
      leBytes 8 (t.stamp.getD 0) ++ leBytes 32 ((List.range 128).map fun n => (t.reg n).st.code * 4 ^ n).sum ++ leBytes 8 0 ++
      (List.range 64).flatMap fun i => leBytes 4 (t.resid.getD i 0).toNat

/-- A barrier's entry (R343). -/
def barEntry (r : Bar) : List Byte :=
  let bits := (List.range 1024).map fun i => if r.arrivals.contains (i / 32, i % 32) then 2 ^ i else 0
  leBytes 4 r.phase ++ leBytes 4 r.pending ++ leBytes 1 (r.network.getD 0) ++ leBytes 1 (if r.sent then 1 else 0) ++
    leBytes 6 0 ++ leBytes 128 bits.sum

/-- A buffer's entry: its descriptor, indices and counters (R175, R176, R343). -/
def bufEntry (u : Option Buf) : List Byte :=
  match u with
  | none => leBytes 24 0
  | some u => leBytes 4 ((if u.cluster then 2 ^ 21 else 0) + u.base % 2 ^ 21) ++ leBytes 4 (65536 * u.count + u.size) ++
      leBytes 2 u.reserve ++ leBytes 2 u.claim ++ leBytes 2 u.release ++ leBytes 2 u.free ++ leBytes 2 u.reserved ++
      leBytes 2 u.filled ++ leBytes 2 u.claimed ++ leBytes 2 0

/-- The buffers and stash section. -/
def Saved.buffers (x : Saved) : List Byte :=
  let acb (i : Nat) : List Byte := match x.acbs[i]? with
    | none => leBytes 32 0
    | some c => bytesOf c.desc ++ leBytes 4 c.left ++ leBytes 4 c.buf ++ leBytes 8 0
  let map (i : Nat) : List Byte := match x.block.maps[i]? with
    | none => leBytes 16 0
    | some m => leBytes 4 m.window ++ leBytes 4 m.length ++ leBytes 8 m.base
  (x.block.bufs.flatMap bufEntry) ++ (List.range 16).flatMap acb ++ (List.range 4).flatMap map

/-- The ring section: 16 B of slot size code, slot states (bit i: slot i is held), H and T, a z32 each (log entry 113); held slots; stopped
commands; queued PARTs. -/
def Saved.ringBytes (x : Saved) (draw at_ : Nat) : List Byte :=
  let tiles := x.tiles.flatMap fun t => bytesOf t.words ++ freeBytes draw (at_ + t.id) (tileM t.words * tileN t.words * 8)
  let parts := x.parts.flatMap fun p => bytesOf p.words
  match x.ring with
  | none => if tiles.isEmpty && parts.isEmpty then [] else leBytes 16 0 ++ tiles ++ parts
  | some r =>
    let held (i : Nat) : Bool := (r.slots.getD i none).isSome
    let slot (i : Nat) : List Byte := if held i then readBytes r.mem (i * slotBytes r.code) (slotBytes r.code) else []
    let c : Core := { slots := r.slots }
    leBytes 4 r.code ++ leBytes 4 ((List.range r.slots.length).map fun i => if held i then 2 ^ i else 0).sum ++ leBytes 4 r.head ++
      leBytes 4 (c.tail.getD 0) ++ (List.range r.slots.length).flatMap slot ++ tiles ++ parts

/-- A handler thread's entry (R328, R343). -/
def handlerEntry (tid : Nat) (t : Thread) : List Byte :=
  let o := t.origin
  let tr : Trap := (o.map (·.trap)).getD { cause := 0 }
  let flags := (if (o.map (·.imprecise)).getD false then 1 else 0) + (if (o.map (·.exited)).getD false then 2 else 0) +
    if (o.map (·.afterAbort)).getD false then 4 else 0
  leBytes 4 tid ++ leBytes 4 (laneBundle ((o.map (·.bundleIndex)).getD 0) ((o.map (·.lane)).getD 0)) ++
    leBytes 8 ((o.map Origin.opc).getD 0).toNat ++ leBytes 4 (tr.cause + 65536 * tr.status.toNat) ++ leBytes 4 flags ++
    leBytes 8 tr.addr.toNat ++ leBytes 8 tr.detail.toNat ++ leBytes 8 t.pc.toNat ++
    leBytes 1 ((List.range 7).map (fun i => if t.pred i then 2 ^ i else 0)).sum ++ leBytes 15 0 ++ leBytes 64 0 ++
    (List.range 32).flatMap fun n => leBytes 4 (t.val n).toNat

/-- The faults section: waiting imprecise faults (lane, cause, saved PC, address) and poison entries (thread, register, load PC,
address, status), 32 B each. -/
def Saved.faultBytes (x : Saved) : List Byte :=
  let late := x.block.faults.flatMap fun f => leBytes 4 (laneBundle f.index f.lane) ++ leBytes 4 f.trap.cause ++
    leBytes 8 f.pc.toNat ++ leBytes 8 f.trap.addr.toNat ++ leBytes 8 0
  let poison := (List.range x.block.nthreads).flatMap fun tid => match x.thread? tid with
    | none => []
    | some t => (List.range 128).flatMap fun n => match (t.reg n).st with
      | .poisoned pc a st => leBytes 4 tid ++ leBytes 4 n ++ leBytes 8 pc.toNat ++ leBytes 8 a.toNat ++ leBytes 8 st.toNat
      | _ => []
  late ++ poison

/-- Whether a saved block must return to its core (R339): it holds a ring, or has stopped commands that span other cores. -/
def Saved.mustReturn (x : Saved) : Bool := x.ring.isSome || x.tiles.any fun t => t.issued && t.span.any fun c => !(c == x.block.core)

/-- The record of a saved block (R342, R343), its check word last: a function of every other byte (log entry 10). -/
def Saved.record (x : Saved) (tid draw : Nat) : List Byte :=
  let k := x.block
  let hs := x.handlerThreads
  let secs : List (List Byte) :=
    [x.registers, (List.range k.nthreads).flatMap fun t => threadEntry (x.thread? t), readBytes k.spad 0 k.spadSize,
     (List.range 8).flatMap fun q => barEntry (k.bars.getD q {}), x.buffers, x.ringBytes draw 0, hs.flatMap (handlerEntry tid),
     x.faultBytes]
  let offs := (List.range 8).map fun i => 256 + ((secs.take i).map (·.length)).sum
  let body := secs.flatten
  let mons := if k.mons.any (·.isSome) then
      (List.range 4).flatMap fun n => if (k.mons.getD n none).isSome then freeBytes draw (2 ^ 40 + 128 * n) 128 else leBytes 128 0
    else []
  let size := 256 + body.length + mons.length
  let request := match k.request with
    | some r => r.value + if r.shed then 2 ^ 31 else 0
    | none => 0
  let flags := (if hs.isEmpty then 0 else 1) + (if x.ring.isSome then 2 else 0) + (if x.mustReturn then 4 else 0) +
    if k.gang.isSome then 8 else 0
  let head := leBytes 4 size ++ leBytes 2 1 ++ leBytes 2 flags ++ leBytes 4 tid ++ leBytes 2 k.nthreads ++ leBytes 2 k.allot ++
    leBytes 4 k.spadSize ++ leBytes 2 hs.length ++ leBytes 2 k.faults.length ++ leBytes 8 k.retired ++
    leBytes 4 (k.override.getD 0xFFFFFFFF) ++ leBytes 4 ((if k.spflag then 1 else 0) + 256 * k.txlim + 65536 * k.carvth) ++
    leBytes 4 k.spaddr.toNat ++ leBytes 4 request ++ leBytes 2 k.core ++ leBytes 6 0 ++ offs.flatMap (leBytes 8) ++
    leBytes 8 (if mons.isEmpty then 0 else 256 + body.length) ++ k.streams.flatMap (fun w => leBytes 4 w.toNat) ++ leBytes 56 0
  head ++ leBytes 8 (Config.checkWord (head ++ body ++ mons)).toNat ++ body ++ mons

/-- Whether a record read back carries its own check word (R342). -/
def recordSound (bs : List Byte) : Bool := field bs 248 8 == (Config.checkWord (bs.take 248 ++ bs.drop 256)).toNat

/-! The save pool. -/

/-- Positions of a partition's save pool, 4 KiB apart, at which n bytes are free. -/
def State.poolFree (s : State) (p n : Nat) : List Nat :=
  let q := s.part p
  let base := ceilDiv q.savePool.toNat 4096 * 4096
  let used := s.saved.filter fun x => ((s.task? x.block.task).map (·.partition)) == some p
  ((List.range (q.saveSize.toNat / 4096 + 1)).map fun i => base + 4096 * i).filter fun a =>
    inside a n q.savePool.toNat q.saveSize.toNat && used.all fun x => !(overlap a n x.addr.toNat x.size)

/-- The task id that a saved block's record carries. -/
def State.tidOf (s : State) (x : Saved) : Nat := ((s.task? x.block.task).map (·.tid)).getD 0

/-- Write a saved block's record at its place. -/
def State.writeRecord (s : State) (x : Saved) : State :=
  let p := ((s.task? x.block.task).map (·.partition)).getD 0
  let s' := { s with saved := upd s.saved (fun y => y.block.id == x.block.id) fun y => { y with stale := false } }
  (s'.vwrite p x.addr.toNat (x.record (s.tidOf x) s.draw)).getD s'

/-- Records follow results that land while their block is saved (R97, R187). -/
def State.settleRecords (s : State) : State := (s.saved.filter (·.stale)).foldl State.writeRecord s

end Sys2Proof.Machine
end

