-- ==== Sys2Proof/Machine/Admit.lean ====
section
/-! DEFINITION. Launching a block (R58, R84, R142, R163, R175, R226, R357): the room of a core, which cores a task may use, admission
of single blocks, co-placed packets and gangs, and REGROW and REGSHR grants (R88, R89). -/

namespace Sys2Proof.Machine

/-! The room of a core (R58, R83, R163). -/

/-- What a core's resident blocks use: contexts, segments, scratchpad bytes; a waiting continuation keeps its scratchpad. -/
def State.usage (s : State) (core : Nat) : Nat × Nat × Nat :=
  let ks := s.blocks.filter (·.core == core)
  let kept := s.tasks.filterMap fun t => t.kept.bind fun x => if x.1 = core then some x.2.1 else none
  ((ks.map Block.bundles).sum, (ks.map fun k => k.bundles * (k.allot / 8)).sum, (ks.map (·.spadSize)).sum + kept.sum)

/-- Whether bundles, segments and scratchpad fit what a core has left. -/
def State.hasRoom (s : State) (core bundles segs spad : Nat) : Bool :=
  let u := s.usage core
  decide (u.1 + bundles ≤ 64) && decide (u.2.1 + segs ≤ 512) && decide (u.2.2 + spad ≤ 393216)

/-- Whether n blocks of a task fit a core: a continuation holds its scratchpad already. -/
def State.fitsOn (s : State) (t : Task) (core n : Nat) : Bool :=
  let p := t.program
  s.hasRoom core (n * p.bundles) (n * p.bundles * (p.regs / 8)) (if t.kept.isSome then 0 else n * p.spad)

/-- The class of a task's queue (R393). -/
def State.classOf (_ : State) (t : Task) : Nat := t.cls

/-- Whether a partition's blocks may be placed: it is neither stopped nor fail-stopped. -/
def Partition.runs (q : Partition) : Bool := !q.failStopped && !q.stopReached

/-- Whether a partition launches tasks: its fault queue has room, too (R368). -/
def Partition.launches (q : Partition) : Bool := q.fqHeld.isEmpty && q.runs

/-- Whether a core is the partition's, on an allowed die, with no draining block (R223, R336, R395). -/
def State.mayUse (s : State) (t : Task) (core : Nat) : Bool :=
  (s.part t.partition).quads.contains (core / 4) && (s.placeDies t).contains (dieOf core) &&
  !(s.blocks.any fun k => k.core == core && k.draining.isSome) &&
  match t.kept with
  | some x => x.1 == core
  | none => !t.restart || t.gang.isNone || t.spot == some core

/-- The tasks admitted together with one (R364): a co-placed packet's, or itself. -/
def State.mates (s : State) (t : Task) : List Task :=
  if t.program.coplace && t.kept.isNone && t.kind == .plain && !t.restart then
    s.tasks.filter fun u => u.packet == t.packet && u.program.coplace && !(u.restart) else [t]

/-- Whether a task may be launched: a continuation goes on with a task that was (R368, R382). -/
def State.mayLaunch (s : State) (t : Task) : Bool :=
  if t.kept.isSome then (s.part t.partition).runs else (s.part t.partition).launches

/-- Whether every mate is ready, and the core takes them all. -/
def State.admits (s : State) (t : Task) (core : Nat) : Bool :=
  let ms := s.mates t
  ms.all (·.phase == .ready) && (t.gang.isNone || t.kept.isSome || t.restart) && s.mayLaunch t &&
  s.mayUse t core && s.fitsOn t core ms.length

/-! Saved blocks that ask for a core (R339, R357, R379). -/

/-- Registers per thread a saved block needs: A′ of a standing REGROW (R91). -/
def Saved.allot (x : Saved) : Nat := match x.block.request with
  | some r => if r.shed then x.block.allot else r.value
  | none => x.block.allot

/-- Whether a core takes a saved block back, with its standing REGROW served; an older standing REGROW of that core does not stop it
(R91; the model's choice, log entry 129). -/
def State.restoreFits (s : State) (x : Saved) (t : Task) (core : Nat) : Bool :=
  let n := x.block.bundles
  (s.part t.partition).runs && s.mayUse t core && s.hasRoom core n (n * (x.allot / 8)) x.block.spadSize &&
  (!x.mustReturn || core == x.block.core) && (x.ring.isNone || (s.core core).ringHolder.isNone) &&
  decide (s.handlersIn core + x.handlers.length ≤ 4) &&
  decide (s.enginesUsed core + (x.block.mons.filter (·.isSome)).length ≤ 16)

/-- The saved blocks restored together, with their cores: a gang to one quad, each at its place in it (R379). -/
def State.restoreSet (s : State) (x : Saved) (core : Nat) : List (Saved × Nat) := match x.block.gang with
  | some g => (s.saved.filter fun y => (y.block.gang.map Prod.fst) == some g.1).map fun y => (y, core / 4 * 4 + y.block.core % 4)
  | none => [(x, core)]

/-- Whether a saved block, with its gang, can be restored with itself on a core. -/
def State.canRestore (s : State) (x : Saved) (core : Nat) : Bool :=
  ((s.restoreSet x core).all fun y => match s.task? y.1.block.task with
    | some t => s.restoreFits y.1 t y.2
    | none => false) &&
  match x.block.gang with
  | some g => core % 4 == x.block.core % 4 && !(s.blocks.any fun k => (k.gang.map Prod.fst) == some g.1 &&
      (k.ending == .saving || !(k.core / 4 == core / 4) || k.core == core))
  | none => true

/-- Whether a core is offered to one task before another: a higher class, or an older launch of the class (R395). -/
def State.goesBefore (s : State) (u t : Task) : Bool :=
  !(u.id == t.id) && (decide (s.classOf u < s.classOf t) || (s.classOf u == s.classOf t && decide (u.order < t.order)))

/-- The members of a gang, in order. -/
def State.members (s : State) (g : Gang) : List Task := g.tasks.filterMap s.task?

/-- The members of a gang that its admission places. -/
def State.unplaced (s : State) (g : Gang) : List Task := (s.members g).filter fun t => !(t.phase == .parked)

/-- The ways to give members 0 to 3 different cores of a quad. -/
def placements : List (List Nat) :=
  (List.range 4).flatMap fun a => (List.range 4).flatMap fun b => (List.range 4).flatMap fun c => (List.range 4).filterMap fun d =>
    if a ≠ b ∧ a ≠ c ∧ a ≠ d ∧ b ≠ c ∧ b ≠ d ∧ c ≠ d then some [a, b, c, d] else none

/-- A gang member's core in a quad. -/
def Task.gangCore (t : Task) (quad : Nat) (pl : List Nat) : Nat := 4 * quad + pl.getD ((t.gang.map Prod.snd).getD 0) 0

/-- Whether every member of a gang finds room on its core of a quad (R378). -/
def State.gangRoom (s : State) (ms : List Task) (quad : Nat) (pl : List Nat) : Bool :=
  ms.all fun t => s.mayUse t (t.gangCore quad pl) && s.fitsOn t (t.gangCore quad pl) 1

/-- Whether a gang waits for its admission, with every member ready. -/
def State.gangReady (s : State) (g : Gang) : Bool :=
  let ms := s.unplaced g
  g.quad.isNone && !ms.isEmpty && ms.all (·.phase == .ready) && (s.part g.partition).launches

/-- Whether a gang could be admitted with a member on a core. -/
def State.gangTakes (s : State) (g : Gang) (core : Nat) : Bool :=
  s.gangReady g && placements.any fun pl =>
    s.gangRoom (s.unplaced g) (core / 4) pl && (s.unplaced g).any fun t => t.gangCore (core / 4) pl == core

/-- Whether a core goes to another task first: a ready one, a gang of ready ones, or one whose block is saved (R339, R378, R395). -/
def State.outranked (s : State) (t : Task) (core : Nat) : Bool :=
  (s.tasks.any fun u => u.phase == .ready && s.goesBefore u t && s.admits u core) ||
  (s.gangs.any fun g => !(g.tasks.contains t.id) && (s.unplaced g).any (s.goesBefore · t) && s.gangTakes g core) ||
  s.saved.any fun x => match s.task? x.block.task with
    | some u => s.goesBefore u t && s.canRestore x core
    | none => false

/-! Launch. -/

/-- What NODE.RD reads in a node's block (R226). -/
def State.nodeInfo (s : State) (g index sweep billet : Nat) : Option NodeInfo :=
  match s.grids.find? (·.id == g) with
  | none => none
  | some x => match x.nodes.find? (·.node.index == index) with
    | none => none
    | some n =>
      let r := n.node
      let vals : List Nat := [r.index, r.parent, r.first, r.count, r.threads, r.upb, r.dnb, bits r.arg.toNat 31 0, bits r.arg.toNat 63 32,
        r.sel, r.ctl.toNat, n.ordinal, n.depth, n.myup, n.mydn, field x.desc 8 4]
      some { grid := g, index := index, fields := vals.map (BitVec.ofNat 32), sweep := sweep, billet := billet }

/-- A thread at launch (R84): its record's words, for a work-graph bundle (R385). -/
def launchThread (t : Task) (clk tid : Nat) : Thread :=
  let th : Thread := { pc := t.program.entry, regs := List.replicate t.program.regs {}, stamp := if 4 ≤ t.acq then some clk else none }
  th.writes 1 (t.records.getD tid [])

/-- The threads of bundle i of n threads: lanes beyond n do not exist (R57). -/
def laneCount (n i : Nat) : Nat := min 32 (n - 32 * i)

/-- The most logical time a partition's completed blocks have reached is where an acquiring launch starts (R195, R376). -/
def State.acquireCore (s : State) (p core : Nat) : State := s.raiseCtime core (s.part p).seen

/-- Place one block of a task on a core, with its buffers (R58, R84, R142). -/
def State.launch (s : State) (t : Task) (core : Nat) (bufs : List (Option Buf)) : State :=
  let p := t.program
  let id := s.fresh
  let spad := t.kept.map (·.2)
  let k : Block :=
    { id := id, task := t.id, core := core, order := id, nthreads := p.threads, allot := p.regs
      spadSize := (spad.map (·.1)).getD p.spad, spad := (spad.map (·.2)).getD [], streams := startStreams p.streams
      expected := p.expected, idem := p.idem, bufs := bufs
      bars := (List.range 8).map fun i => { word := p.bars.getD i 0 }
      node := match t.kind with
        | .node g i sw b => s.nodeInfo g i sw b
        | _ => none
      singleStep := t.singleStep, priv := t.priv, launched := s.timeIn t.partition (dieOf core), gang := t.gang }
  let s := if 0 < t.acq then s.acquireCore t.partition core else s
  let place (s : State) (i : Nat) : State :=
    let b : Bundle := { id := s.fresh, owner := .block id, index := i, core := core, pipe := s.leastPipe core
                        threads := (List.range (laneCount p.threads i)).map fun l => launchThread t s.clk (32 * i + l) }
    { s with bundles := s.bundles ++ [b] }.next
  let s := (List.range p.bundles).foldl place { s with blocks := s.blocks ++ [k] }.next
  s.modTask t.id fun t => { t with phase := .running, since := none, kept := none, restart := false, flushed := false, spot := t.gang.map fun _ => core }

/-- The buffers of a program's own descriptors. -/
def Program.buffers (p : Program) : List (Option Buf) := (List.range 8).map fun i =>
  bufOf (p.bufs.getD i (0, 0)).1 (p.bufs.getD i (0, 0)).2

/-- A task's buffers: a gang member's pipes stand for the gang's records (R378); others come from its program. -/
def State.gangBuffers (s : State) (t : Task) : List (Option Buf) :=
  match t.gang.bind fun x => (s.gangs.find? (·.id == x.1)).map fun g => (g, x.2) with
  | none => t.program.buffers
  | some (g, m) => (List.range 8).map fun q =>
    match (List.range g.pipes.length).find? fun i => match g.pipes[i]? with
        | some x => (x.cons == m && x.consBuf == q) || (x.prod == m && x.prodBuf == q)
        | none => false with
    | some i => (g.bufs[i]?).map fun u => { u with home := some (g.id, i) }
    | none => t.program.buffers.getD q none

/-- The Headstock's choice among places for a block, which no rule publishes (R395): in deterministic mode a function of the partition's
state (R424); else the event names it. -/
def State.chosen (s : State) (p what place : Nat) (places : List Nat) : Bool :=
  places.contains place &&
  (!((s.part p).det) || place == places.getD (Config.detPick (what :: places) % places.length) place)

/-- The cores that may admit a task now. -/
def State.coresFor (s : State) (t : Task) : List Nat := (List.range 640).filter fun c => s.admits t c && !(s.outranked t c)

/-- BLOCK_ADMISSION: a ready task, or its co-placed packet, is admitted to a core with room (R58, R364, R395, R424). -/
def execBlockAdmission (task core : Nat) (s : State) : Result :=
  .next (match s.task? task with
    | none => s
    | some t => if decide (640 ≤ core) || !(s.admits t core) || s.outranked t core || ((s.part t.partition).det && !(s.chosen t.partition t.tid core (s.coresFor t))) then s
      else (s.mates t).foldl (fun s u => s.launch u core (if u.kept.isSome then u.program.buffers else s.gangBuffers u)) s)

/-! Gangs (R377, R378). -/

/-- Whether every member of a gang finds room on its core of a quad, and no core goes to another task first. -/
def State.gangFits (s : State) (ms : List Task) (quad : Nat) (pl : List Nat) : Bool :=
  s.gangRoom ms quad pl && ms.all fun t => !(s.outranked t (t.gangCore quad pl))

/-- A pipe's buffer: its slots lie in the consumer's allotment, in cluster space: the core fills ea[20:19] (R378). -/
def pipeBuf (pl : List Nat) (x : Pipe) : Buf :=
  { cluster := true, base := x.base % 2 ^ 19 + 2 ^ 19 * pl.getD x.cons 0, count := x.count, size := x.size, free := x.count }

/-- GANG_ADMISSION: every member to a core of its own in one quad, all at once; which member gets which core is free (R378, R395). -/
def execGangAdmission (op quad : Nat) (s : State) : Result :=
  .next (match s.gangs.find? (·.id == op) with
    | none => s
    | some g =>
      let ms := s.unplaced g
      let det := (s.part g.partition).det
      let quads := (List.range 160).filter fun q => placements.any (s.gangFits ms q)
      let ways := placements.filter (s.gangFits ms quad)
      match ways with
      | [] => s
      | w :: _ =>
        if !(s.gangReady g) || decide (160 ≤ quad) || (det && !(s.chosen g.partition ((ms.map (·.tid)).headD 0) quad quads)) then s
        else
          let pl := ways.getD ((if det then Config.detPick (quad :: ms.map (·.tid)) else Config.pick s.draw) % ways.length) w
          let s := { s with gangs := upd s.gangs (·.id == op) fun x => { x with quad := some quad, bufs := x.pipes.map (pipeBuf pl) } }
          ms.foldl (fun s t => s.launch t (t.gangCore quad pl) (s.gangBuffers t)) (if det then s else s.drawn))

/-! REGROW_GRANT and REGSHR_SHED. -/

/-- A block's registers become those of an allotment: new ones are 0 and full, shed ones are gone (R88, R89). -/
def State.setAllot (s : State) (k v : Nat) : State :=
  let s := s.modBlock k fun x => { x with allot := v, request := none }
  let size (t : Thread) : Thread := { t with regs := t.regs.take v ++ List.replicate (v - t.regs.length) {} }
  { s with bundles := s.bundles.map fun b => if b.owner == .block k then { b with threads := b.threads.map size } else b }

/-- The oldest standing REGROW of a core. -/
def State.oldestGrow (s : State) (core : Nat) : Option (Block × Request) :=
  (s.blocks.filterMap fun k => k.request.bind fun r => if k.core = core ∧ !r.shed then some (k, r) else none).foldl
    (fun m x => match m with
      | none => some x
      | some y => if x.2.order < y.2.order then some x else some y) none

/-- Whether the segments that a standing request needs are free (R88). -/
def State.growFits (s : State) (core : Nat) (k : Block) (r : Request) : Bool :=
  decide ((s.usage core).2.1 + k.bundles * (r.value - k.allot) / 8 ≤ 512)

/-- REGROW_GRANT: the oldest standing request gets its segments when they are free (R88). A halted block's request stands until the block
resumes, and holds later ones back (the model's choice, log entry 114). Where every resident block of the core waits in one and the
oldest does not fit, R91 saves the youngest (Preempt). -/
def State.grantGrow (s : State) (core : Nat) : Option State :=
  match s.oldestGrow core with
  | none => none
  | some (k, r) =>
    if k.ending == .running && !k.halted && s.growFits core k r then
      some ((s.setAllot k.id r.value).finishRequests k.id)
    else none

/-- REGSHR_SHED: once no shed register has a producer outstanding (R89), and not while the block is halted (log entry 114). -/
def execRegshrShed (block : Nat) (s : State) : Result :=
  .next (match s.block? block with
    | none => s
    | some k => match k.request with
      | none => s
      | some r =>
        let owed := (s.bundlesOf (.block block)).any fun b => b.threads.any fun t =>
          !(t.life == .exited) && t.anyPending r.value (k.allot - r.value)
        if !r.shed || owed || k.halted || !(k.ending == .running) then s
        else (s.setAllot block r.value).finishRequests block)

end Sys2Proof.Machine
end

