-- ==== Sys2Proof/Machine/Carver.lean ====
section
/-! DEFINITION. The Carver (R302 to R317): sound tiles, binding, compilation, invalidation, and what a bound command computes; the end
of a tile command (R290); XNEXT (R318). MSPT's issue is in Matrix. -/

namespace Sys2Proof.Machine

/-! The SB tile (R302, R303). -/

/-- Count and bitmap of a row. -/
def sbCount (st : List Byte) (r : Nat) : Nat := field st (32 + 2 * r) 2
def sbBitmap (st : List Byte) (r : Nat) : Nat := field st (160 + 8 * r) 8

/-- The first row whose count is not that of its bitmap. -/
def sbBadRow (st : List Byte) : Option Nat := (List.range 64).find? fun r => !(sbCount st r == popBits 64 (sbBitmap st r))

/-- The sum of the counts of the rows below r. -/
def sbBefore (st : List Byte) (r : Nat) : Nat := ((List.range r).map (sbCount st)).foldl (· + ·) 0

/-- The detail of an unsound tile (R303, R311): check number, and for check 3 the row; none for a sound tile. -/
def sbFails (st : List Byte) : Option Nat :=
  let t := field st 0 1
  if !(t == 0 || t == 9 || t == 12 || t == 13 || t == 14) then some 1
  else if !(zeroBytes st 1 1 && zeroBytes st 4 28 && zeroBytes st 672 32) then some 2
  else match sbBadRow st with
    | some r => some (3 + 256 * r)
    | none => if field st 2 2 = sbBefore st 64 then none else some 4

/-- The index of the value of a present element (R303); none for an absent one. -/
def sbIndex (st : List Byte) (r c : Nat) : Option Nat :=
  let b := sbBitmap st r
  if bit b c then some (sbBefore st r + popBits c b) else none

/-- Micro-ops of a compile, and whether it takes the dense path (R309). -/
def sbOps (st : List Byte) : Nat :=
  field st 2 2 + ((List.range 64).filter fun r => sbCount st r ≠ 0).length + 1
def sbDense (st : List Byte) (t : Nat) : Bool := decide (t * 4096 < 100 * field st 2 2) || decide (4096 < sbOps st)

/-! Binding and compiling (R307 to R312). -/

/-- A die's entry for a tile. -/
def State.carverAt (s : State) (die pa : Nat) : Option CarverEntry := s.carver.find? fun e => e.die == die && e.pa == pa

/-- Whether commands pin an entry (R312): bound to it, or waiting for its compile. -/
def State.pinned (s : State) (e : CarverEntry) : Bool :=
  s.tiles.any fun t => t.sparse && ((t.bind == 1 && dieOf t.core == e.die && t.pa == e.pa) || ((t.bind == 2 || t.bind == 3) && t.prog == e.id))

/-- The unpinned entry of a die that was bound longest ago. -/
def State.evictable (s : State) (die : Nat) : Option CarverEntry :=
  (s.carver.filter fun e => e.die == die && !e.compiling && !(s.pinned e)).foldl (fun m e => match m with
    | none => some e
    | some x => if e.bound < x.bound then some e else some x) none

/-- Remove an entry. -/
def State.dropEntry (s : State) (e : CarverEntry) : State :=
  { s with carver := s.carver.filter fun x => !(x.id == e.id) }

/-- Bind a command to an entry. -/
def State.bindTile (s : State) (e : CarverEntry) (p : Tile → Bool) : State :=
  let b := if e.dense then 3 else 2
  { s with tiles := upd s.tiles p fun t => { t with bind := b, program := e.structure_, prog := e.id }
           carver := upd s.carver (·.id == e.id) fun x => { x with bound := s.fresh } }.next

/-- The lines of a tile's structure (R302): physical, or a peer's. -/
def State.tileLines (s : State) (b : Bundle) (t : Tile) : List Nat :=
  (List.range 11).filterMap fun i => ((s.globalPlace b 0 (tileIdentity t.words + BitVec.ofNat 64 (64 * i))).txAddr).map (· / 64)

/-- The bytes of a structure line at its home: a peer's are free (log entry 13). -/
def State.structLine (s : State) (ln : Nat) : List Byte := match txPeer ln with
  | some (k, va) => (s.peerLine k va).data
  | none => s.lineData ln

/-- The programs of a die whose entries are gone and to which commands are still bound: their names and structures (R307, R313). -/
def State.lostPrograms (s : State) (die : Nat) : List (Nat × List Byte) :=
  distinct ((s.tiles.filter fun t => t.sparse && (t.bind == 2 || t.bind == 3) && dieOf t.core == die && !(s.carver.any (·.id == t.prog))).map
    fun t => (t.prog, if t.bind = 2 then t.program else []))

/-- The entries of a die in use: an invalidated one until its last bound command is done (R317). -/
def State.entriesUsed (s : State) (die : Nat) : Nat := (s.carver.filter (·.die == die)).length + (s.lostPrograms die).length

/-- Micro-ops held on a die: by its entries, and by programs whose entry is gone (R312, R313). -/
def State.opsHeld (s : State) (die : Nat) : Nat :=
  ((s.carver.filter (·.die == die)).map (·.ops)).sum + ((s.lostPrograms die).map fun x => if x.2.isEmpty then 0 else sbOps x.2).sum

/-- The command that starts the compile of a command's tile: the first on its die that waits for it (R309). -/
def State.starter (s : State) (t : Tile) : Tile :=
  (s.tiles.filter fun x => x.sparse && x.bind == 1 && dieOf x.core == dieOf t.core && x.pa == t.pa).foldl
    (fun m x => if m.bind ≠ 1 ∨ x.came < m.came then x else m) t

/-- A compile starts for a command's tile, in a free entry or in that of the one evicted for it; while all are pinned it waits (R312). -/
def State.startCompile (s : State) (b : Bundle) (t : Tile) : State :=
  let die := dieOf t.core
  let t := s.starter t
  let b := (s.bundle? t.bundle).getD b
  let e : CarverEntry := { id := s.fresh, die := die, pa := t.pa, lines := s.tileLines b t, threshold := t.threshold, bound := s.fresh }
  let start (s : State) : State := { s with carver := s.carver ++ [e] }.next
  if s.entriesUsed die < 2048 then start s
  else match s.evictable die with
    | some v => start (s.dropEntry v)
    | none => s

/-- A peer's own store to a structure line of its tile, which is not seen here, may have invalidated the entry (R313; log entry 13). -/
def State.peerStored (s : State) (t : Tile) : State :=
  if (txPeer (t.pa / 64)).isNone then s
  else if Config.choice s.draw then s.drawn.carverTouch (t.pa / 64) else s.drawn

/-- MSPT_AT_CARVER: a command reaches its die's Carver, in the order of its core's queue (R156, R306), and binds, waits for the compile
of its tile, or starts one (R307). -/
def execMsptAtCarver (op : Nat) (s : State) : Result :=
  .next (match s.tiles.find? (·.id == op) with
    | none => s
    | some t => match s.bundle? t.bundle with
      | none => s
      | some b =>
        let before := s.tiles.any fun x => x.sparse && x.issued && x.bind == 0 && x.core == t.core && decide (x.order < t.order)
        if !t.sparse || !t.issued || t.bind ≠ 0 || t.resend.isSome || before then s
        else
          let waits (s : State) : State := { s with tiles := upd s.tiles (·.id == op) fun t => { t with bind := 1, came := s.fresh } }.next
          let s := s.peerStored t
          match s.carverAt (dieOf t.core) t.pa with
          | some e => if e.compiling then waits s else s.bindTile e (·.id == op)
          | none => waits (s.startCompile b t))

/-- A compile ends (R309 to R311): its waiting commands bind, or fail. -/
def State.endCompile (s : State) (e : CarverEntry) : State :=
  if !e.compiling || e.lines.any fun ln => (s.line ln).owner.isSome || (s.line ln).lock.isSome then s
  else
    let st := e.lines.flatMap s.structLine
    let s := (e.lines.filter fun ln => (txPeer ln).isNone).foldl (fun s ln => s.touch (64 * ln)) s.drawn
    let waits (x : Tile) : Bool := x.sparse && x.bind == 1 && dieOf x.core == e.die && x.pa == e.pa
    match sbFails st with
    | some d => { (s.dropEntry e) with tiles := upd s.tiles waits fun x => { x with bind := 4, failed := d } }
    | none =>
      let dense := sbDense st e.threshold
      let ops := if dense then 0 else sbOps st
      if 2 ^ 20 < s.opsHeld e.die + ops then match s.evictable e.die with
        | some v => s.dropEntry v
        | none => s
      else
        let e' := { e with compiling := false, dense := dense, ops := ops, structure_ := st }
        ({ s with carver := upd s.carver (·.id == e.id) fun _ => e' }).bindTile e' waits

/-- CARVER_COMPILE_END: the compile of an entry, or that a command waits for, ends; one that waited for an entry starts. -/
def execCarverCompileEnd (op : Nat) (s : State) : Result :=
  .next (match s.carver.find? (·.id == op) with
    | some e => s.endCompile e
    | none => match s.tiles.find? (·.id == op) with
      | none => s
      | some t => match if t.bind = 1 then s.bundle? t.bundle else none with
        | none => s
        | some b => match s.carverAt (dieOf t.core) t.pa with
          | some e => s.endCompile e
          | none => s.startCompile b t)

/-! CARVINV (R314). -/

def execCarvinv (a : BitVec 7) (s : State) : Result :=
  runLanes (.carvinv a) (fun s _ b _ t => s.globalChecks b 0 (t.pair a.toNat) 704 true false 64) (fun s _ b l =>
    (match (s.globalPlace b 0 ((s.thread b.id l).pair a.toNat)).txAddr with
      | some pa => { s with carver := s.carver.filterMap fun e =>
          if e.pa ≠ pa then some e else if e.compiling then some { e with restarts := e.restarts + 1 } else none }
      | none => s, .next)) s

/-! The result of a sparse command (R308, R310, R311). -/

/-- The bits of an element's type. -/
def Tile.elemBits (t : Tile) : Nat := typeBits (fmtA (tileFormat t.words))

/-- The 4-byte words that hold a tile's values. -/
def Tile.valueWords (t : Tile) : List Nat := List.range (ceilDiv (field t.program 2 2 * t.elemBits) 32)

/-- A command reads value words that it has not read yet: a store that came while it runs is read or not, word by word (R308). -/
def State.readValues (s : State) (b : Bundle) (t : Tile) (js : List Nat) : Tile :=
  { t with vals := t.vals ++ (js.filter fun j => (t.vals.lookup j).isNone).map fun j =>
      (j, s.engineSpan b t.olds 0 ((tileIdentity t.words).toNat + 704 + 4 * j) 4) }

/-- The code of an element of the expanded form, from the structure a command is bound to and the values it has read. -/
def Tile.expandedAt (t : Tile) (r c : Nat) : Nat := match sbIndex t.program r c with
  | some p => leNat ((t.vals.lookup (p * t.elemBits / 32)).getD []) / 2 ^ (p * t.elemBits % 32) % 2 ^ t.elemBits
  | none => 0

/-- Whether a value byte lies in a line that an engine owns or a commit locks. -/
def State.valuesHeld (s : State) (b : Bundle) (t : Tile) : Bool :=
  (List.range (ceilDiv (field t.program 2 2 * typeBits (fmtA (tileFormat t.words))) 8)).any fun i =>
    match s.globalPlace b 0 (tileIdentity t.words + BitVec.ofNat 64 (704 + i)) with
    | .mem pa => s.engineWaits t.id (dieOf b.core) pa
    | _ => false

/-- The words of a command's expansion area, by number (R310). -/
def Tile.areaWords (t : Tile) : List Nat := List.range (64 * expandRow (tileFormat t.words) / 4)

/-- The elements that a word of the area holds: rows and columns. -/
def Tile.areaElems (t : Tile) (w : Nat) : List (Nat × Nat) :=
  let n := 32 / t.elemBits
  (List.range n).map fun i => ((w * n + i) / 64, (w * n + i) % 64)

/-- A word of the expansion area lands (R181, R310); what it replaces is no longer what the command reads there. -/
def State.landArea (s : State) (b : Bundle) (t : Tile) (w : Nat) : State :=
  let es := t.areaElems w
  let t := s.readValues b t (es.filterMap fun x => (sbIndex t.program x.1 x.2).map fun p => p * t.elemBits / 32)
  let off := bits (t.words.getD 2 0).toNat 18 0 + 4 * w
  let v := rowBytes t.elemBits (es.map fun x => t.expandedAt x.1 x.2)
  let s := ({ s with tiles := upd s.tiles (·.id == t.id) fun _ => { t with landed := t.landed ++ [w] } }).engineSpad b 1 off v
  match s.spadPlace b 1 (BitVec.ofNat 64 off) 4 with
  | .spad k o => { s with tiles := upd s.tiles (·.id == t.id) fun x => { x with olds := x.olds.filter fun y => !(y.block == some k && y.at_ == o) } }
  | _ => s

/-- The same, of a command by name. -/
def State.landAreaOf (s : State) (b : Bundle) (id w : Nat) : State := match s.tiles.find? (·.id == id) with
  | some t => s.landArea b t w
  | none => s

/-- The product of a command whose area is written: it multiplies as MTILE does, with A there (R310). -/
def State.areaResult (s : State) (b : Bundle) (t : Tile) : State :=
  let q := expandRow (tileFormat t.words)
  let d : Word × Word := (BitVec.ofNat 32 (bits (t.words.getD 2 0).toNat 18 0 + 2 ^ 19 * (b.core % 4)), BitVec.ofNat 32 (q + 65536 * (q / 2)))
  let a := s.tileSpad b t.olds d 64 q
  let c := a.1.tileCodes b t true
  c.1.multiply t (operand (a.2.map fun bs => (List.range 64).map fun γ => leNat bs / 2 ^ (t.elemBits * γ) % 2 ^ t.elemBits) false)
    (operand c.2 (fmtTB (tileFormat t.words)))

/-- A bound or failed sparse command goes on: a word of its area lands, or it ends with its result. -/
def State.sparseStep (s : State) (b : Bundle) (t : Tile) : State :=
  let f := tileFormat t.words
  let left := if t.bind = 3 then t.areaWords.filter fun w => !(t.landed.contains w) else []
  if t.bind = 5 then
    (s.fillSlots t fun _ _ _ _ => if fmtAcc f = 4 then 0x80000000 else (fmtOf (fmtAcc f)).canonical.1).endTile t
  else if (t.bind ≠ 2 ∧ t.bind ≠ 3) ∨ s.valuesHeld b t then s
  else
    let s := s.touchSpan b 0 ((tileIdentity t.words).toNat + 704) (4 * t.valueWords.length)
    if t.bind = 2 then
    let t := s.readValues b t t.valueWords
    let c := s.tileCodes b t true
    (c.1.multiply t t.expandedAt (operand c.2 (fmtTB f))).drawn.endTile t
    else match if left.isEmpty then false else Config.choice s.draw with
    | true => (s.landArea b t (left.getD (Config.pick s.draw % left.length) 0)).drawn
    | false =>
      let s := left.foldl (fun s w => s.landAreaOf b t.id w) s.drawn
      (s.areaResult b ((s.tiles.find? (·.id == t.id)).getD t)).drawn.endTile t

/-- TILE_COMMAND_COMPLETE: an MTILE or MSPT writes its slots and returns its tokens (R289, R290, R308, R310). -/
def execTileCommandComplete (op : Nat) (s : State) : Result :=
  .next (match s.tiles.find? (·.id == op) with
    | none => s
    | some t => match s.bundle? t.bundle with
      | none => s
      | some b => if !(s.tileMayEnd t) then s else if t.sparse then s.sparseStep b t else ((s.denseResult b t).drawn).endTile t)

/-! XNEXT (R318). -/

def execXnext (b a d : BitVec 7) (s : State) : Result :=
  runPure (.xnext b a d) (fun t =>
    let m := (t.val a.toNat).toNat
    let x := (t.val b.toNat).toNat
    let y := (t.val (b.toNat + 1)).toNat
    if m = 0 then
      ((t.write d.toNat 0xFFFFFFFF#32).write (d.toNat + 1) 0xFFFFFFFF#32).setPred 0 false
    else
      let k := lowBit 32 m
      (((t.write d.toNat (BitVec.ofNat 32 (popBits k x))).write (d.toNat + 1) (BitVec.ofNat 32 (popBits k y))).write a.toNat
        ((t.val a.toNat) &&& (t.val a.toNat - 1))).setPred 0 true) s

end Sys2Proof.Machine
end

