-- ==== Sys2Proof/Machine/Finish.lean ====
section
/-! DEFINITION. How a block ends (R74): its exit record (R415), parking its task in the fault queue (R321, R335, R368, R369), its
continuation (R382), or the end of its task and of the unit and packet it belongs to (R364, R372, R404, R406). -/

namespace Sys2Proof.Machine

/-! Packets. -/

/-- A packet by name; change one. -/
def State.packet? (s : State) (p : Nat) : Option Packet := s.packets.find? (·.id == p)
def State.modPacket (s : State) (p : Nat) (f : Packet → Packet) : State := { s with packets := upd s.packets (·.id == p) f }

/-- The source word of a record (R405): slot, packet type, index. -/
def Packet.source (p : Packet) : Nat := p.slot + 256 * field p.bytes 0 1 + 65536 * (p.index % 65536)

/-- The source of a task's records; no slot caused a work-graph bundle. -/
def State.taskSource (s : State) (t : Task) : Nat := match s.packet? t.packet with
  | some p => p.source
  | none => 0x7F

/-- Whether a leader holds a lease that has not lapsed and has taken over: outside this, fetching stops in every slot (R411, R412). -/
def State.fetching (s : State) : Bool := s.leaderValid && !s.takingOver && decide (s.time 0 ≤ s.expiry)

/-- A packet's work is over, with a status if none stands yet; its completion follows (R404). -/
def State.endPacket (s : State) (p status cause : Nat) (detail : DWord) (task : Nat) : State :=
  (s.modPacket p fun x => if x.status.isSome && x.left == 0 then x else { x with
    left := 0, status := some (x.status.getD (status, cause, detail, task)), seq := s.fresh, gap := !s.fetching
    ended := s.timeIn x.partition 0 }).next

/-- One block of a packet is over, with a status to report. -/
def State.lessPacket (s : State) (t : Task) (status cause : Nat) : State :=
  let s := s.modPacket t.packet fun x => { x with
    left := x.left - 1
    status := if status = 0 then x.status else some (x.status.getD (status, cause, 0, t.tid)) }
  match s.packet? t.packet with
  | some x => if x.left = 0 then s.endPacket t.packet 0 0 0 0 else s
  | none => s

/-! Tasks that end. -/

/-- A task gives back its lease (R366, R369). -/
def State.unleaseTask (s : State) (t : Nat) : State := s.modTask t fun t => { t with leased := false, xlat := [] }

/-- The unit of a task ends when no task of it is left (R372). -/
def State.taskUnit (s : State) (t : Task) (cancelled : Bool) : State := match t.unit with
  | none => s
  | some u => if s.tasks.any fun x => x.unit == some u then s else s.endUnit u.1 cancelled

/-- A task ends, completed or cancelled: a node task is left for the Lathe (R231); a gang forgets its member. -/
def State.endTask (s : State) (t : Task) (status cause : Nat) : State :=
  match t.kind with
  | .node _ _ _ _ => (s.unleaseTask t.id).modTask t.id fun t => { t with phase := .done }
  | .install _ => s
  | .lathe _ => s
  | .work _ => { s with tasks := s.tasks.filter fun x => !(x.id == t.id) }
  | .plain =>
    let s := { s with tasks := s.tasks.filter fun x => !(x.id == t.id) }
    let s := match t.gang with
      | some (g, _) => if s.tasks.any fun x => (x.gang.map Prod.fst) == some g then s
          else { s with gangs := s.gangs.filter fun x => !(x.id == g) }
      | none => s
    (s.taskUnit t (status == 5)).lessPacket t status cause

/-- Flags of a fault-queue entry (R368). -/
def Task.faultFlags (t : Task) : Nat := match t.kind with
  | .plain => if t.unit.isSome then 1 else 0
  | .node _ _ _ _ => 3
  | .work _ => 4
  | .install _ => 0
  | .lathe _ => 0

/-- A task's block index within its packet (R368): a gang's member by its place in the gang. -/
def Task.blockIndex (t : Task) : Nat := match t.gang with
  | some (_, m) => m
  | none => t.index

/-- A task parks (R321, R335, R368): its fault-queue entry, its status-6 record; cause is the record's 16 bits. -/
def State.parkTask (s : State) (t : Task) (cause : Nat) (detail addr pc : DWord) (lb : Nat) : State :=
  let time := s.timeIn t.partition 0
  let s := (s.unleaseTask t.id).modTask t.id fun t => { t with
    phase := .parked, fault := some ({ cause := cause % 256, detail := detail, addr := addr }, pc), kept := none }
  let s := s.faultEntry t.partition (faultBytes t.tcb t.tid t.blockIndex cause detail addr pc lb t.faultFlags time)
  s.event t.partition 6 (recordBytes time (s.taskSource t) 6 cause detail t.tid lb)

/-! Completion (R74). -/

/-- The bundles of a block and its handlers. -/
def State.allBundles (s : State) (k : Nat) : List Bundle := s.bundles.filter fun b => b.owner.block? == some k

/-- Whether a request keeps a block from completing: a store or write-back not acknowledged, an operation its home has not
applied. What is owed to an exited thread is discarded (R73). -/
def Req.keeps (r : Req) : Bool := match r.kind with
  | .store _ _ => true
  | .writeback _ _ _ _ _ _ => true
  | .atom _ _ _ _ _ => !r.phase.isDone
  | .future _ _ _ => !r.phase.isDone
  | .object _ _ => !r.phase.isDone
  | .call _ _ => r.phase == .issued
  | .pwenq _ _ _ _ => !r.phase.isDone
  | .nodeWrite _ _ _ _ => true
  | .wrec _ _ _ => true
  | _ => false

/-- Whether a request belongs to a block. -/
def State.reqOf (s : State) (k : Nat) (r : Req) : Bool := (match r.kind with
    | .writeback kb _ _ _ _ _ => kb == k
    | _ => false) || (s.allBundles k).any (·.id == r.bundle)

/-- Whether engine commands or tags of a block are outstanding. -/
def State.enginesBusy (s : State) (k : Nat) : Bool :=
  (s.allBundles k).any fun b => s.engineOf b.id

/-- Whether every thread of a block has exited, and its faults have found their handlers. -/
def State.blockQuiet (s : State) (k : Block) : Bool :=
  !(s.anyThread k.id) && !(s.reqs.any fun r => s.reqOf k.id r && r.keeps) && !(s.enginesBusy k.id) &&
  (k.faults.isEmpty || !(k.ending == .running))

/-- The 96 bytes of an exit record (R415). -/
def State.exitRecord (s : State) (k : Block) (t : Task) (parks : Bool) : List Byte :=
  leBytes 4 t.tid ++ leBytes 2 k.core ++ leBytes 2 ((if parks then 1 else 0) + if k.restored then 2 else 0) ++ leBytes 8 k.retired ++
    leBytes 8 k.launched ++ leBytes 8 (s.timeIn t.partition (dieOf k.core)) ++ k.stall.flatMap fun w => leBytes 4 w.toNat

/-- The logical time a block has reached, its engines' writes included (R74, R203). -/
def State.blockTime (s : State) (k : Block) : Nat :=
  (((s.allBundles k.id).flatMap (·.threads)).map (·.engWts)).foldl max (s.core k.core).ctime

/-- A block leaves its core: contexts, registers, scratchpad, ring and monitors are free; its logical time is what later acquirers
start from (R74, R195, R344). The arrivals it has sent to barrier networks reach them (R186). -/
def State.freeBlock (s : State) (k : Block) : State :=
  let s := s.deliverAll k
  let p := ((s.task? k.task).map (·.partition)).getD 0
  let t := s.blockTime k
  let ids := (s.allBundles k.id).map (·.id)
  let s := s.modPart p fun q => { q with seen := max q.seen t }
  let s := s.modCore k.core fun c => if c.ringHolder == some k.id then { c with ringHolder := none, slots := [], ringMem := [] } else c
  { s with
    blocks := s.blocks.filter fun x => !(x.id == k.id)
    bundles := s.bundles.filter fun b => !(ids.contains b.id)
    reqs := s.reqs.filter fun r => !(ids.contains r.bundle) || (match r.kind with
      | .call _ _ => !r.phase.isDone
      | _ => false) }

/-- The first field of a continuation packet or its TCB that keeps R382 from launching it; none: the task's new program. -/
inductive ContRead where
  | ok (s : State) (tcb : DWord) (arg : DWord) (p : Program)
  | fails (s : State) (field : DWord)
  | wait

/-- Read a continuation packet and its TCB (R382). -/
def State.readCont (s : State) (t : Task) (a : DWord) : ContRead :=
  match if a.toNat % 64 = 0 then s.get t.partition a.toNat 64 else .bad with
  | .wait => .wait
  | .bad => .fails s (Config.fetchDetail a.toNat)
  | .bytes s bs =>
    if field bs 0 8 % 64 ≠ 0 then .fails s 0
    else if !(zeroBytes bs 16 48) then .fails s 16
    else
      let arg := BitVec.ofNat 64 (field bs 8 8)
      match s.readTcb t.partition (BitVec.ofNat 64 (field bs 0 8)) arg (some t.all) with
      | .wait => .wait
      | .fails s o => .fails s (BitVec.ofNat 64 (o.getD 0))
      | .ok s _ p => .ok s (BitVec.ofNat 64 (field bs 0 8)) arg p

/-- A gang's member has other barrier words, or none: the phases that run in its networks count its members anew (R378, R380). -/
def State.setGangBars (s : State) (p g m : Nat) (ws : List Word) : State :=
  let s := { s with gangs := upd s.gangs (·.id == g) fun x => { x with bars := x.bars.set m ws } }
  let bars := ((s.gangs.find? (·.id == g)).map (·.bars)).getD []
  let count (q : Nat) : Nat := bars.countP fun ws => !(bits (ws.getD q 0).toNat 15 0 == 0)
  (s.nets.filter fun x => x.network == 2 && x.number == g && x.partition == p).foldl
    (fun s x => s.completeNet { x with count := count x.bar }) s

/-- A block continues (R382): one block of the new program on the same core, with the scratchpad as it stands. -/
def State.continueTask (s : State) (k : Block) (t : Task) (tcb arg : DWord) (p : Program) : State :=
  let s := match t.gang with
    | some (g, m) => s.setGangBars t.partition g m p.bars
    | none => s
  s.modTask t.id fun t => { t with
    tcb := tcb, arg := arg, program := { p with spad := k.spadSize, blocks := 1, coplace := false }, phase := .ready, acq := 4
    kept := some (k.core, k.spadSize, k.spad), records := [] }

/-- The end of a block's task: it parks, continues, or ends (R74, R321, R335, R382). -/
def State.afterBlock (s : State) (k : Block) (t : Task) : Option State :=
  match k.ending with
  | .parking tr opc b l => some ((s.freeBlock k).parkTask t tr.cause tr.detail tr.addr opc (laneBundle b l))
  | _ => match k.late with
    | some (f, more) => some ((s.freeBlock k).parkTask t (0x13 + 256 * f.trap.cause) f.pc f.trap.addr f.pc
        (laneBundle f.index f.lane + if more then 32768 else 0))
    | none => match k.cont with
      | none => some ((s.freeBlock k).endTask t 0 0)
      | some a => match s.readCont t a with
        | .wait => none
        | .fails s d => some ((s.freeBlock k).parkTask t 5 d a 0 0)
        | .ok s tcb arg p => some ((s.freeBlock k).continueTask k t tcb arg p)

/-- BLOCK_COMPLETION: once quiet, dirty stash lines are written back, and then the block completes (R74, R172). -/
def execBlockCompletion (block : Nat) (s : State) : Result :=
  .next (match s.block? block with
    | none => s
    | some k => match s.task? k.task with
      | none => s
      | some t =>
        if !(s.blockQuiet k) || (match k.ending with
            | .flushing => true
            | .saving => true
            | _ => false) then s
        else if k.anyDirty then s.writeBack k fun _ _ => true
        else match s.afterBlock k t with
          | none => s
          | some s' => if bit (s.part t.partition).control.toNat 3 then s'.ringPut t.partition 2 (s.exitRecord k t
              (((s'.task? t.id).map (·.phase)) == some .parked)) else s')

end Sys2Proof.Machine
end

