-- ==== Sys2Proof/Machine/Preempt.lean ====
section
/-! DEFINITION. Pre-emption (R336 to R341, R379, R395): the choice of a method, drain, flush, save and restore; the save of R91. -/

namespace Sys2Proof.Machine

/-! Stopping a block (R325). -/

/-- Every thread and handler thread of a block stops for a save or a flush (R338, R340). -/
def State.stopBlock (s : State) (k : Nat) (e : Ending) : State :=
  (s.standStill k).modBlock k fun x => { x with ending := e, draining := none, preempt := false }

/-- The blocks pre-empted together (R379): a gang's resident members, or one block; those that end already are not (R336). -/
def State.preemptSet (s : State) (k : Block) : List Block := match k.gang with
  | some g => s.blocks.filter fun x => (x.gang.map Prod.fst) == some g.1 && x.ending == .running
  | none => [k]

/-- The methods of R336. -/
inductive Method where
  | drain
  | flush
  | save
  deriving DecidableEq, Repr

/-- The method a block takes (R336). -/
def State.method (s : State) (k : Block) : Method :=
  let q := s.part (((s.task? k.task).map (·.partition)).getD 0)
  if q.drainThr ≤ k.progress then .drain
  else if k.idem ∧ k.progress < q.restartThr then .flush
  else .save

/-- Start a method for a block. -/
def State.startMethod (s : State) (m : Method) (k : Nat) : State := match m with
  | .drain => s.modBlock k fun x => { x with draining := some s.clk, preempt := false }
  | .flush => s.stopBlock k .flushing
  | .save => s.stopBlock k .saving

/-- A request reaches the core, which chooses drain, flush or save; a gang takes the method of its youngest member (R336). -/
def State.preempt (s : State) (block : Nat) : State :=
  match s.block? block with
  | none => s
  | some k =>
    if !k.preempt || !(k.ending == .running) || k.draining.isSome then s
    else
      let ks := s.preemptSet k
      let young := ks.foldl (fun a b => if a.order < b.order then b else a) k
      (ks.map (·.id)).foldl (fun s i => s.startMethod (s.method young) i) s

/-- PREEMPTION_REQUEST: an external input in deterministic mode (R336, R425). -/
def execPreemptionRequest (block : Nat) (s : State) : Result :=
  .next (match s.block? block with
    | none => s
    | some k => s.external (((s.task? k.task).map (·.partition)).getD 0) (.preempt block) (·.preempt block))

/-- DRAIN_LIMIT_EXPIRY: a draining block past the drain limit is saved (R336). -/
def execDrainLimitExpiry (block : Nat) (s : State) : Result :=
  .next (match s.block? block with
    | none => s
    | some k => match k.draining with
      | none => s
      | some c =>
        let limit := (s.part (((s.task? k.task).map (·.partition)).getD 0)).drainLimit * 1050
        if s.clk < c + limit || !(k.ending == .running) then s
        else ((s.preemptSet k).map (·.id)).foldl (fun s i => s.stopBlock i .saving) s)

/-- REGROW_GRANT: the oldest standing request is granted; where every resident block of the core waits in one and the oldest does not
fit, the youngest is saved, with its gang (R88, R91, R379). -/
def execRegrowGrant (core : Nat) (s : State) : Result :=
  .next (match s.grantGrow core with
    | some s => s
    | none =>
      let ks := s.blocks.filter (·.core == core)
      let waits (k : Block) : Bool := k.ending == .running && match k.request with
        | some r => !r.shed
        | none => false
      match ks with
      | k :: _ :: _ =>
        let young := ks.foldl (fun a b => if a.order < b.order then b else a) k
        if ks.all waits && (s.oldestGrow core).any fun x => !(s.growFits core x.1 x.2) then
          ((s.preemptSet young).map (·.id)).foldl (fun s i => s.stopBlock i .saving) s
        else s
      | _ => s)

/-! URGENT_ADMISSION_TIMEOUT (R395). -/

/-- Whether taking a block off its core would make room there for a task. -/
def State.makesRoom (s : State) (t : Task) (k : Block) : Bool :=
  ({ s with blocks := s.blocks.filter fun x => !(x.id == k.id) }).fitsOn t k.core (s.mates t).length &&
  (s.part t.partition).quads.contains (k.core / 4) && (s.placeDies t).contains (dieOf k.core)

/-- The youngest block of a class whose removal makes room for a task. -/
def State.victim (s : State) (t : Task) (cls : Nat) : Option Block :=
  (s.blocks.filter fun k => k.ending == .running && s.makesRoom t k && ((s.task? k.task).map s.classOf) == some cls).foldl
    (fun m k => match m with
      | none => some k
      | some x => if x.order < k.order then some k else some x) none

/-- URGENT_ADMISSION_TIMEOUT: an urgent or realtime block without room for 10 µs has a bulk, or failing that a standard, block
pre-empted (R394, R395). -/
def execUrgentAdmissionTimeout (block : Nat) (s : State) : Result :=
  .next (match s.task? block with
    | none => s
    | some t => match t.since with
      | none => s
      | some c =>
        if s.clk < c + 10500 || decide (1 < s.classOf t) then s
        else match (s.victim t 3).or (s.victim t 2) with
          | none => s
          | some k => ((s.preemptSet k).map (·.id)).foldl (fun s i => s.modBlock i fun x => { x with preempt := true }) s)

/-- When an urgent or realtime task first finds no core with room. -/
def State.settleRoom (s : State) : State :=
  let wants := s.tasks.filter fun t => t.phase == .ready && decide (s.classOf t ≤ 1)
  wants.foldl (fun s t =>
    let room := (List.range 640).any fun c => s.mayUse t c && s.fitsOn t c (s.mates t).length
    s.modTask t.id fun t => { t with since := if room then none else some (t.since.getD s.clk) }) s

/-! Save (R338, R300, R316). -/

/-- Whether a request is held at its line's home, or follows one of its core that is held at the same line. -/
def State.heldBehind (s : State) (r : Req) : Bool :=
  s.reqs.any fun q => q.held.isSome && (q.id == r.id || (q.core == r.core && decide (q.id < r.id) && r.place.line.isSome && q.place.line == r.place.line))

/-- Whether a request of a block waits for a line that an engine owns (R200): it is held there itself, or it is behind an access of its
bundle that is (a STREL waits for those, and what its stream has issued after it waits for the STREL). -/
def State.stuck (s : State) (k : Block) (r : Req) : Bool :=
  s.reqs.any fun z => z.bundle == r.bundle && decide (z.id ≤ r.id) && s.reqOf k.id z && s.heldBehind z

/-- Whether a block's stores have left its queues, and its write-backs, copies, bound commands and held answers are done, so that its
record may be written (R338): a store or write-back that an engine's line holds, or that stands behind such an access, does not keep it
(R200), nor does a queued PART that owns lines. -/
def State.saveDrained (s : State) (k : Block) : Bool :=
  let bs := s.allBundles k.id
  let ids := bs.map (·.id)
  let local_ (r : Req) : Bool := match r.place with
    | .mem _ => false
    | .peer _ _ => false
    | _ => true
  !(bs.any fun b => !b.results.isEmpty || b.threads.any fun t => match t.mid with
      | some (.answer _) => true
      | some .commit => true
      | _ => false) &&
  !(s.reqs.any fun r => s.reqOf k.id r && ((match r.kind with
      | .store _ _ => r.phase == .issued && !(s.stuck k r)
      | .writeback _ _ _ _ _ _ => !(s.stuck k r)
      | .stmap _ _ => true
      | _ => false) || (local_ r && match r.kind with
      | .load _ _ _ _ => true
      | .atom _ _ _ _ _ => true
      | _ => false))) &&
  !(s.copies.any fun c => c.packet.isNone && ids.contains c.bundle) &&
  !(s.parts.any fun p => ids.contains p.bundle && p.begun) &&
  !(s.tiles.any fun t => ids.contains t.bundle && (!t.issued || (t.sparse && decide (2 ≤ t.bind)))) &&
  (!((s.core k.core).ringHolder == some k.id) || !(s.tiles.any fun t => t.writes k.core && !(ids.contains t.bundle)))

/-- The ring a block holds. -/
def State.ringOf (s : State) (k : Block) : Option SavedRing :=
  let c := s.core k.core
  if c.ringHolder = some k.id then some { code := c.slotCode, slots := c.slots, head := c.head, mem := c.ringMem } else none

/-- What a save takes of a block: tokens go back, maps lose their lines, late results keep landing (R97, R172, R298, R300). -/
def State.savedOf (s : State) (k : Block) : Saved :=
  let ids := (s.allBundles k.id).map (·.id)
  { block := { k with ending := .running, draining := none, preempt := false, maps := k.maps.map fun m => { m with lines := [] }
                      request := k.request }
    bundles := s.allBundles k.id, addr := 0, size := 0, ring := s.ringOf k
    acbs := s.acbs.filter fun c => ids.contains c.bundle
    tiles := (s.tiles.filter fun c => ids.contains c.bundle).map fun t => { t with granted := false, bind := if t.bind ≤ 1 then 0 else t.bind }
    parts := s.parts.filter fun c => ids.contains c.bundle }

/-- Complete a save once all is drained and the save pool has room (R338, R344): the record, and everything off the core. -/
def State.completeSave (s : State) (k : Block) : State :=
  let p := ((s.task? k.task).map (·.partition)).getD 0
  let x := s.savedOf k
  let tid := s.tidOf x
  let size := (x.record tid s.draw).length
  let spots := s.poolFree p size
  match spots with
  | [] => s
  | a :: _ =>
    let at_ := spots.getD (Config.pick s.draw % spots.length) a
    let x := { x with addr := BitVec.ofNat 64 at_, size := size }
    let ids := x.bundles.map (·.id)
    let t := (s.core k.core).ctime
    let s := (s.tiles.filter fun c => ids.contains c.bundle && c.granted).foldl (fun s c => s.refund (dieOf c.core) c.cost) s
    let s := s.modPart p fun q => { q with seen := max q.seen t }
    let s := s.modCore k.core fun c => if c.ringHolder == some k.id then { c with ringHolder := none, slots := [], ringMem := [] } else c
    let s := s.modTask k.task fun t => { t with phase := .saved }
    let s := { s with
      blocks := s.blocks.filter fun y => !(y.id == k.id)
      bundles := s.bundles.filter fun b => !(ids.contains b.id)
      acbs := s.acbs.filter fun c => !(ids.contains c.bundle)
      tiles := s.tiles.filter fun c => !(ids.contains c.bundle)
      parts := s.parts.filter fun c => !(ids.contains c.bundle)
      saved := s.saved ++ [x] }
    ((s.vwrite p at_ (x.record tid s.draw)).getD s).drawn

/-- Complete a flush once what has issued is done (R340): everything is discarded, and the task is launched again first of its
class, from its entry. -/
def State.completeFlush (s : State) (k : Block) : State :=
  let s := s.freeBlock k
  let s := match k.gang with
    | some g => { s with gangs := upd s.gangs (·.id == g.1) fun x => { x with quad := none } }
    | none => s
  s.modTask k.task fun t => { t with phase := .ready, order := 0, restart := t.gang.isNone, flushed := true }

/-- Whether a flush is done: copies end in nothing, bound engine commands complete. -/
def State.flushDrained (s : State) (k : Block) : Bool :=
  !((s.allBundles k.id).any fun b => b.threads.any fun t => match t.mid with
      | some (.answer _) => true
      | some .commit => true
      | _ => false) &&
  !(s.reqs.any fun r => s.reqOf k.id r && r.keeps) &&
  !(s.tiles.any fun t => t.block == k.id) && !(s.parts.any fun t => t.block == k.id) &&
  (!((s.core k.core).ringHolder == some k.id) || !(s.tiles.any fun t => t.writes k.core))

/-- A flush discards copies, unbound sparse commands and dirty lines; the commands' tokens return. -/
def State.flushDiscard (s : State) (k : Block) : State :=
  let ids := (s.allBundles k.id).map (·.id)
  let s := (s.tiles.filter fun t => ids.contains t.bundle && (!t.issued || (t.sparse && decide (t.bind ≤ 1)))).foldl State.dropTile s
  { s.modBlock k.id fun x => { x with maps := [] } with
    copies := s.copies.filter fun c => !(c.packet.isNone && ids.contains c.bundle)
    acbs := s.acbs.filter fun c => !(ids.contains c.bundle) }

/-- Saves and flushes under way go on by themselves. -/
def State.settleSave (s : State) (id : Nat) : State :=
  match s.block? id with
  | none => s
  | some k => match k.ending with
    | .saving =>
      let dirty := k.anyDirty && !(s.reqs.any fun r => s.reqOf id r && r.phase == .issued && (match r.kind with
        | .store _ _ => true
        | _ => false))
      if dirty then s.writeBack k fun _ _ => true
      else if s.saveDrained k && !k.anyDirty then s.completeSave k else s
    | .flushing =>
      let s := s.flushDiscard k
      if s.flushDrained k then s.completeFlush k else s
    | _ => s

/-- Everything that saves leave to settle. -/
def State.settleSaves (s : State) : State :=
  (((s.blocks.filter fun k => k.ending == .saving || k.ending == .flushing).map (·.id)).foldl State.settleSave s).settleRecords.settleRoom

/-! Restore (R339, R342, R357, R379). -/

/-- A restored thread starts as after FENCE.AR at package scope (R339). -/
def Thread.restored (t : Thread) (clk : Nat) : Thread := { t with stamp := some clk }

/-- Put a saved block on a core (R339). -/
def State.restore (s : State) (x : Saved) (core : Nat) : State :=
  let k := { x.block with core := core, restored := true, order := s.fresh }
  let p := ((s.task? k.task).map (·.partition)).getD 0
  let s := ((s.next).acquireCore p core).raiseCtime core x.time
  let ids := x.bundles.map (·.id)
  let place (s : State) (b : Bundle) : State :=
    let pipe := if b.isHandler then s.emptiestPipe core else s.leastPipe core
    { s with bundles := s.bundles ++ [{ b with core := core, pipe := pipe, threads := b.threads.map fun t => t.restored s.clk }] }
  let move (r : Req) : Req := if ids.contains r.bundle then { r with core := core } else r
  let saved := s.saved.filter fun y => !(y.block.id == k.id)
  let s : State := { s with saved := saved, blocks := s.blocks ++ [k], reqs := s.reqs.map move }
  let s := x.bundles.foldl place s
  let s := match x.ring with
    | none => s
    | some r => s.modCore core fun c => { c with
        ringHolder := some k.id, slotCode := r.code, slots := r.slots, head := r.head, ringMem := r.mem }
  let tiles := x.tiles.map fun t => ({ t with core := core } : Tile)
  let s := s.modDie (dieOf core) fun d => { d with tokenQueue := d.tokenQueue ++ (tiles.filter (·.issued)).map (·.id) }
  let parts := x.parts.map fun q => ({ q with core := core } : PartCmd)
  let s := { s with tiles := s.tiles ++ tiles, acbs := s.acbs ++ x.acbs, parts := s.parts ++ parts }
  let s := s.modTask k.task fun t => { t with phase := .running }
  let s := match k.caliper with
    | some c => (s.modBlock k.id fun k => { k with caliper := none }).raiseCaliper (.block k.id) c.2 c.1
    | none => s
  match k.request with
  | some r => if r.shed then s else (s.setAllot k.id r.value).finishRequests k.id
  | none => s

/-- A saved block's record as memory holds it (R342). -/
def State.readRecord (s : State) (x : Saved) : Bool :=
  match s.vread (((s.task? x.block.task).map (·.partition)).getD 0) x.addr.toNat x.size with
  | some bs => recordSound bs
  | none => false

/-- A saved block whose record is refused parks its task with MCHK, detail 4 (R342); the lines it owned are free. -/
def State.refuseRecord (s : State) (x : Saved) : State := match s.task? x.block.task with
  | none => s
  | some t => (({ s with saved := s.saved.filter fun y => !(y.block.id == x.block.id) }).disown (x.parts.map fun (q : PartCmd) => q.id)).parkTask t 1 4 0 0 0

/-- BLOCK_RESTORE: a saved block, or its gang, resumes on a core with room; one whose record's check word fails is refused (R339, R342,
R379). -/
def execBlockRestore (block core : Nat) (s : State) : Result :=
  .next (match s.saved.find? (·.block.id == block) with
    | none => s
    | some x =>
      let xs := s.restoreSet x core
      let first := match s.task? x.block.task with
        | some u => !(s.outranked u core)
        | none => false
      let places := (List.range 640).filter fun c => s.canRestore x c && (match s.task? x.block.task with
        | some u => !(s.outranked u c)
        | none => false)
      let p := ((s.task? x.block.task).map (·.partition)).getD 0
      if decide (640 ≤ core) || !(s.canRestore x core) || !first || ((s.part p).det && !(s.chosen p (s.tidOf x) core places)) then s
      else match xs.filter fun y => !(s.readRecord y.1) with
        | [] => xs.foldl (fun s y => s.restore y.1 y.2) s
        | bad => bad.foldl (fun s y => s.refuseRecord y.1) s)

end Sys2Proof.Machine
end

