-- ==== Sys2Proof/Machine/Tasks.lean ====
section
/-! DEFINITION. Tasks before they run: the TASK, GANG and WNODE packets' launches (R363, R364, R375, R377, R383), the lease (R365,
R388), the paging doorbell, requeue and cancel (R370, R371), CONT (R381), WREC and work-graph bundles (R384, R385), and pages that
are compressed or moved (R389, R390). -/

namespace Sys2Proof.Machine

/-! Taking a packet's body. -/

/-- What becomes of a packet whose header is sound: its work is set up, it completes with status 1 and a detail, or the Headstock
must wait before it takes it. -/
inductive Taken where
  | ok (s : State)
  | launch (s : State) (detail : DWord)
  | wait

/-- The barrier bit, scope and record bit of a packet's control byte (R401). -/
def Packet.barrierBit (p : Packet) : Bool := bit (field p.bytes 1 1) 0
def Packet.scope (p : Packet) : Nat := let x := bits (field p.bytes 1 1) 3 1; if x = 0 then 4 else x
def Packet.records (p : Packet) : Bool := bit (field p.bytes 1 1) 4

/-- A field of a packet's body. -/
def Packet.word (p : Packet) (off n : Nat) : Nat := field p.bytes off n

/-- Whether an earlier packet of the queue holds a packet back by its barrier bit (R404). -/
def State.heldBack (s : State) (p : Packet) : Bool :=
  s.packets.any fun q => q.partition == p.partition && q.qcb == p.qcb && decide (q.id < p.id) && q.barrierBit

/-- Whether a task's packet is held back. -/
def State.taskHeld (s : State) (t : Task) : Bool := match s.packet? t.packet with
  | some p => s.heldBack p
  | none => false

/-- The scope of the FENCE.AR after which a packet's threads start: its own, behind a barrier bit, which may have been taken through
another slot, or a payload (R404, R409). -/
def State.packetAcq (s : State) (p : Packet) : Nat :=
  if (s.slot p.slot).barred || s.heldBack p || (s.slot p.slot).pushed.contains p.index then p.scope else 0

/-- The name of a queue's scope in the dependence table (R372); a grid's is 1 + 2 × its name. -/
def Packet.depScope (p : Packet) : Nat := 2 * (8 * p.qcb.toNat + p.partition)

/-- The next task id of a partition's counter that is not in use (R364). -/
def freeTid (used : List Nat) (c : Nat) : Nat → Nat
  | 0 => c
  | n + 1 => if c = 0 ∨ used.contains c then freeTid used ((c + 1) % 2 ^ 32) n else c

/-- Take a task id. -/
def State.takeTid (s : State) (p : Nat) : State × Nat :=
  let used := (s.tasks.filter (·.partition == p)).map (·.tid)
  let id := freeTid used (s.part p).nextTask (used.length + 2)
  (s.modPart p fun q => { q with nextTask := (id + 1) % 2 ^ 32 }, id)

/-- Add one task of a packet. -/
def State.addTask (s : State) (pk : Packet) (kind : TaskKind) (index : Nat) (tcb : DWord) (prog : Program) (arg : DWord) (deps : List Nat)
    (unit : Option (Nat × Nat × Nat)) (gang : Option (Nat × Nat)) (acq : Nat) : State :=
  let x := s.takeTid pk.partition
  let t : Task := { id := s.fresh, tid := x.2, partition := pk.partition, cls := pk.cls, packet := pk.id, kind := kind, index := index
                    tcb := tcb, program := prog, arg := arg, priv := pk.priv, deps := deps, unit := unit, gang := gang
                    order := pk.id, acq := acq, all := prog.allRanges }
  { x.1 with tasks := x.1.tasks ++ [t] }.next

/-- The die of a queue slot's table and engine (R372, R402). -/
def slotDie (slot : Nat) : Nat := Config.queueDie slot % 4

/-- Take a unit's dependence entries where it is tracked: none where the table has no room (R375). -/
def State.trackUnit (s : State) (pk : Packet) (tracked : Bool) (rs : List Range) : Option (State × List Nat × Option (Nat × Nat × Nat)) :=
  if !tracked then some (s, [], none)
  else
    let used := rs.filter fun r => decide (0 < r.len)
    if s.depRoom (slotDie pk.slot) used.length then
      let x := s.takeDeps pk.partition (slotDie pk.slot) pk.id pk.depScope pk.id used
      some (x.1, x.2, some (pk.id, pk.depScope, pk.id))
    else none

/-- The scope an acquiring launch has: package scope after units it depended on (R376), or the packet's own. -/
def launchAcq (deps : List Nat) (own : Nat) : Nat := if deps.isEmpty then own else max 4 own

/-- A TASK packet (R363, R364). -/
def State.bodyTask (s : State) (pk : Packet) : Taken :=
  let tcb := BitVec.ofNat 64 (pk.word 16 8)
  let arg := BitVec.ofNat 64 (pk.word 24 8)
  match s.readTcb pk.partition tcb arg none with
  | .wait => .wait
  | .fails s o => .launch s (BitVec.ofNat 64 (o.getD 16))
  | .ok s _ p => match s.trackUnit pk p.tracked p.ranges with
    | none => .wait
    | some (s, deps, unit) =>
      let acq := launchAcq deps pk.acq
      let s := (List.range p.blocks).foldl (fun s i => s.addTask pk .plain i tcb p arg deps unit none acq) s
      .ok (s.modPacket pk.id fun x => { x with left := p.blocks })

/-- A pipe entry of a gang descriptor (R377). -/
def pipeOf (e : List Byte) : Pipe :=
  { prod := field e 0 1, prodBuf := field e 1 1, cons := field e 2 1, consBuf := field e 3 1, base := field e 4 4, count := field e 8 2
    size := field e 10 2 }

/-- The first of some checks that fails, as its offset. -/
def firstBad (xs : List (Nat × Bool)) : Option Nat := (xs.find? (·.2)).map (·.1)

/-- The fields of a gang descriptor before its members (R377). -/
def gangHeadBad (d : List Byte) : Option Nat :=
  firstBad [(0, decide (field d 0 1 < 1) || decide (4 < field d 0 1)), (1, decide (4 < field d 1 1)), (2, !(zeroBytes d 2 6))]

/-- The pipes of a gang descriptor. -/
def gangPipes (d : List Byte) : List Pipe := (List.range (field d 1 1)).map fun i => pipeOf ((d.drop (48 + 16 * i)).take 16)

/-- Whether a member's TCB describes a buffer. -/
def describesBuf (ms : List (DWord × Program)) (m q : Nat) : Bool := match ms[m]? with
  | some x => !(x.2.bufs.getD q (0, 0) == (0, 0))
  | none => false

/-- The checks of a pipe entry (R377), in the order of its fields; named: the buffers that earlier pipes name. -/
def pipeChecks (d : List Byte) (ms : List (DWord × Program)) (i : Nat) : List (Nat × Bool) :=
  let m := field d 0 1
  let o := 48 + 16 * i
  if field d 1 1 ≤ i then [(o, !(zeroBytes d o 16))]
  else
    let named := ((gangPipes d).take i).flatMap fun x => [(x.prod, x.prodBuf), (x.cons, x.consBuf)]
    let bad (who q : Nat) : Bool := decide (8 ≤ q) || named.contains (who, q) || describesBuf ms who q
    let x := pipeOf ((d.drop o).take 16)
    [(o, decide (m ≤ x.prod)), (o + 1, bad x.prod x.prodBuf), (o + 2, decide (m ≤ x.cons) || x.cons == x.prod), (o + 3, bad x.cons x.consBuf),
     (o + 4, decide (x.base % 32 ≠ 0)), (o + 8, decide (x.count < 1) || decide (1024 < x.count)),
     (o + 10, decide (x.size % 32 ≠ 0) || decide (x.size < 32) || decide (32768 < x.size)), (o + 12, !(zeroBytes d (o + 12) 4))]

/-- The fields of a gang descriptor after its members (R377). -/
def gangTailBad (d : List Byte) (ms : List (DWord × Program)) : Option Nat :=
  let m := field d 0 1
  let absent := (List.range (4 - m)).map fun i => (8 + 8 * (m + i), !(zeroBytes d (8 + 8 * (m + i)) 8))
  firstBad (absent ++ [(40, !(zeroBytes d 40 8))] ++ (List.range 4).flatMap (pipeChecks d ms) ++ [(112, !(zeroBytes d 112 16))])

/-- Read the member TCBs of a gang: their programs, or the detail of the first that fails. -/
def State.readMembers (s : State) (p : Nat) (arg : DWord) : List (Nat × DWord) → Except (Option (State × DWord)) (State × List (DWord × Program))
  | [] => .ok (s, [])
  | (i, tcb) :: rest => match s.readTcb p tcb arg none with
    | .wait => .error none
    | .fails s none => .error (some (s, BitVec.ofNat 64 (0x10008 + 8 * i)))
    | .fails s (some o) => .error (some (s, BitVec.ofNat 64 o))
    | .ok s _ pr =>
      if pr.blocks ≠ 1 ∨ pr.coplace then .error (some (s, BitVec.ofNat 64 (0x10008 + 8 * i)))
      else match State.readMembers s p arg rest with
        | .ok (s, xs) => .ok (s, (tcb, pr) :: xs)
        | .error e => .error e

/-- A GANG packet (R377). Every member fits an empty core, so only a partition without a quad can never hold the gang (R378). -/
def State.bodyGang (s : State) (pk : Packet) : Taken :=
  let va := pk.word 16 8
  let arg := BitVec.ofNat 64 (pk.word 24 8)
  let at_ (o : Nat) : DWord := BitVec.ofNat 64 (0x10000 + o)
  match if va % 64 = 0 then s.get pk.partition va 128 else .bad with
  | .wait => .wait
  | .bad => .launch s 16
  | .bytes s d => match gangHeadBad d with
    | some o => .launch s (at_ o)
    | none =>
      let tcbs := (List.range (field d 0 1)).map fun i => (i, BitVec.ofNat 64 (field d (8 + 8 * i) 8))
      match s.readMembers pk.partition arg tcbs with
      | .error none => .wait
      | .error (some (s, o)) => .launch s o
      | .ok (s, ms) => match gangTailBad d ms with
        | some o => .launch s (at_ o)
        | none =>
          if (s.part pk.partition).quads.isEmpty then .launch s 16
          else match s.trackUnit pk (ms.all (·.2.tracked)) (ms.flatMap (·.2.ranges)) with
          | none => .wait
          | some (s, deps, unit) =>
            let g := s.fresh
            let acq := launchAcq deps pk.acq
            let one (s : State) (i : Nat) : State := match ms[i]? with
              | some x => s.addTask pk .plain 0 x.1 x.2 arg deps unit (some (g, i)) acq
              | none => s
            let s := (List.range ms.length).foldl one s.next
            let ids := (s.tasks.filter fun t => (t.gang.map Prod.fst) == some g).map (·.id)
            let gang : Gang := { id := g, partition := pk.partition, tasks := ids, pipes := gangPipes d, bars := ms.map (·.2.bars) }
            .ok ({ s with gangs := s.gangs ++ [gang] }.modPacket pk.id fun x => { x with left := ms.length })

/-- The TCB of a WNODE packet is read and checked when the packet is taken (R450): the packet keeps its program. -/
def State.takeWnode (s : State) (pk : Packet) : Taken :=
  if pk.word 16 8 = 0 then .ok s
  else match s.readTcb pk.partition (BitVec.ofNat 64 (pk.word 16 8)) 0 none with
    | .wait => .wait
    | .fails s o => .launch s (BitVec.ofNat 64 (o.getD 16))
    | .ok s _ p => if p.regs < 16 then .launch s 30 else .ok (s.modPacket pk.id fun x => { x with wnode := some p })

/-- A WNODE packet that nothing holds back (R383, R385, R402): the node is installed once its ranges are leased, or removed once it is
empty. -/
def State.bodyWnode (s : State) (pk : Packet) : Taken :=
  let tcb := pk.word 16 8
  let index := pk.word 24 1
  let r := pk.word 25 1
  let timer := pk.word 26 2
  let die := pk.word 28 1
  let old := s.wnodes.find? fun n => n.die == die && n.index == index && n.partition == pk.partition
  if tcb = 0 then match old with
    | none => .ok (s.endPacket pk.id 0 0 0 0)
    | some n => .ok { s with wnodes := upd s.wnodes (·.id == n.id) fun n => { n with removing := some pk.id } }
  else if s.wnodes.any fun n => n.die == die && n.index == index then .launch s 24
  else match pk.wnode with
    | none => .wait
    | some p =>
          let n : WNode := { id := s.fresh, die := die, index := index, partition := pk.partition, tcb := BitVec.ofNat 64 tcb, words := r, timer := timer
                             program := p, xlat := [], packet := pk.id, cls := pk.cls, priv := pk.priv }
          let t : Task := { id := s.fresh + 1, tid := 0, partition := pk.partition, cls := pk.cls, packet := pk.id, kind := .install n.id
                            index := 0, tcb := BitVec.ofNat 64 tcb, program := p, arg := 0, order := pk.id }
          .ok { s with wnodes := s.wnodes ++ [n], tasks := s.tasks ++ [t], fresh := s.fresh + 2 }

/-! The lease (R365). -/

/-- Start to move a page: M is set until the move ends (R390); where the tier is full it waits. -/
def State.startMove (s : State) (p va : Nat) (tier : Bool) : State :=
  match s.walk p va with
  | none => s
  | some lf => match s.frameFor lf.size tier with
    | none => s
    | some to_ =>
      let base := va / lf.size * lf.size
      let m : Move := { id := s.fresh, partition := p, va := base, entry := lf.entry, frm := lf.pa, to_ := to_, size := lf.size, tier := tier }
      let old := leNat (readBytes s.mem lf.entry 8)
      ({ s.drawn with moves := s.moves ++ [m] }.putLeaf lf.entry (leafWord old lf.pa (inTier2 lf.pa) lf.c true)).next

/-- Whether the page of an address is leased, by its own size (R366). -/
def State.pageLeased (s : State) (p va : Nat) : Bool :=
  let n := ((s.walk p va).map (·.size)).getD 65536
  s.isLeased p (va / n * n) n

/-- A task is leased (R365): an installation ends with it; a packet's task is ready for admission. -/
def State.leased (s : State) (t : Task) (xs : List Xlat) : State := match t.kind with
  | .install n =>
    let s := { s with
      wnodes := upd s.wnodes (·.id == n) fun x => { x with xlat := xs, installed := true }
      tasks := s.tasks.filter fun u => !(u.id == t.id) }
    s.endPacket t.packet 0 0 0 0
  | .lathe g =>
    let s := { s with grids := upd s.grids (·.id == g) fun x => { x with xlat := xs, leased := true } }
    s.modTask t.id fun u => { u with xlat := xs, leased := true, phase := .done }
  | _ => s.modTask t.id fun u => { u with xlat := xs, leased := true, phase := .ready }

/-- PAGE_LEASE: walk a task's pages; the first that is not ready is paged in, waited for, expanded or moved (R365, R366). -/
def execPageLease (task : Nat) (s : State) : Result :=
  .next (match s.task? task with
    | none => s
    | some t =>
      if !(t.phase == .waiting) || !(t.deps.isEmpty) || s.taskHeld t || !((s.part t.partition).launches) then s
      else
        let ov := s.versionFrame t.partition (t.unit.map (·.2))
        match s.walkAll t.partition ov t.program.allRanges with
        | .ok xs => if s.storeRoom (s.taskDies t) (entryCount xs) then s.leased t xs else s
        | .error (.migrating _) => s
        | .error (.compressed va) => s.expand t.partition va
        | .error (.tier va) => if s.pageLeased t.partition va then s else s.startMove t.partition va false
        | .error (.absent va) =>
          let tid := if t.tid = 0 then Config.pick s.draw % 2 ^ 32 else t.tid
          (s.drawn.modTask task fun u => { u with phase := .paging va }).event t.partition 7
            (recordBytes (s.timeIn t.partition 0) (s.taskSource t) 7 0 (BitVec.ofNat 64 va) tid 0))

/-- The paging doorbell of a partition is written: every waiting lease walks again (R365, R400). -/
def State.pagingDoorbell (s : State) (p : Nat) : State :=
  { s with tasks := s.tasks.map fun t => if t.partition == p then (match t.phase with
      | .paging _ => { t with phase := .waiting }
      | _ => t) else t }

/-! Requeue and cancel (R370, R371). -/

/-- The result of the last command of a partition (R400). -/
def State.cmdResult (s : State) (p : Nat) (v : Word) : State := s.modPart p fun q => { q with lastCmd := v }

/-- A node's outbox is zeroed again (R232). -/
def State.zeroBox (s : State) (g index : Nat) : State :=
  let box (b : Box) : Box := if b.node = index then { b with bytes := [] } else b
  let grid (x : Grid) : Grid := if x.id = g then { x with billets := x.billets.map fun y => { y with stack := y.stack.map box } } else x
  { s with grids := s.grids.map grid }

/-- A parked task is launched again (R370). -/
def State.relaunch (s : State) (t : Task) (p : Program) : State :=
  let s := match t.kind with
    | .node g i 2 _ => s.zeroBox g i
    | _ => s
  s.modTask t.id fun u => { u with program := p, phase := .waiting, restart := true, flushed := false, fault := none, all := p.allRanges }

/-- Requeue a parked task of a partition (R370). -/
def State.requeue (s : State) (p : Nat) (tid : Word) : State :=
  match s.tasks.find? fun t => t.partition == p && t.tid == tid.toNat && t.phase == .parked with
  | none => s.cmdResult p 1
  | some t => match t.kind with
    | .node _ _ _ _ => (s.relaunch t t.program).cmdResult p 0
    | k => match s.readTcb p t.tcb t.arg none with
      | .wait => s.modPart p fun q => { q with requeues := distinct (q.requeues ++ [tid]) }
      | .fails s o => (s.faultEntry p (faultBytes t.tcb t.tid t.blockIndex 3 (BitVec.ofNat 64 (o.getD 0)) 0 0 0 t.faultFlags
          (s.timeIn p 0))).cmdResult p 0
      | .ok s _ pr => (s.relaunch t (match k with
          | .work _ => if t.records.isEmpty then pr else { pr with threads := t.records.length }
          | _ => pr)).cmdResult p 0

/-- Requeue commands that wait for a page of their TCB are tried again (R450). -/
def State.settleRequeues (s : State) : State :=
  (List.range 8).foldl (fun s p => match (s.part p).requeues with
    | [] => s
    | tids => tids.foldl (fun s tid => s.requeue p tid) (s.modPart p fun q => { q with requeues := [] })) s

/-- Whether a task waits in its lease (R371). -/
def Task.inLease (t : Task) : Bool := match t.phase with
  | .paging _ => true
  | .waiting => t.deps.isEmpty
  | _ => false

/-- A cancelled gang member takes no more part in the gang's barriers (R378, R380). -/
def State.leaveGang (s : State) (t : Task) : State := match t.gang with
  | none => s
  | some (g, m) => s.setGangBars t.partition g m []

/-- A cancel discards the versions of the task's unit, which ends with its last block (R370; log entry 125). -/
def State.discard (s : State) (t : Task) : State := match t.unit with
  | none => s
  | some u => { s with versions := upd s.versions (·.unit == u.1) fun v => { v with cancelled := true } }

/-- Cancel a parked or leasing task (R370, R371); a node task's grid ends with status 5 (R233). -/
def State.cancelTask (s : State) (p : Nat) (tid : Word) : State :=
  match s.tasks.find? fun t => t.partition == p && t.tid == tid.toNat && (t.phase == .parked || t.inLease) with
  | none => s.cmdResult p 1
  | some t => match t.kind with
    | .install _ => s.cmdResult p 1
    | .lathe _ => s.cmdResult p 1
    | .node g i _ _ =>
      let cause := ((t.fault.map (·.1.cause)).getD 0)
      let stop (x : Grid) : Grid := { x with ended := some (x.ended.getD (5, cause, BitVec.ofNat 64 i, t.tid)) }
      let s := { s with grids := upd s.grids (·.id == g) stop, tasks := s.tasks.filter fun u => !(u.id == t.id) }
      (s.endUnit t.id true).cmdResult p 0
    | _ => (((s.leaveGang t).discard t).endTask t 5 0).cmdResult p 0

/-! CONT (R381). -/

def execCont (a : BitVec 7) (s : State) : Result :=
  runLanes (.cont a) noCheck (fun s _ b l =>
    let x := (s.thread b.id l).pair a.toNat
    ((s.modBlk b fun k => { k with cont := some x }).exitLane b.id l, .gone)) s

/-! Work-graph nodes (R383 to R385). -/

/-- The installed node that a node word names on a die. -/
def State.wnodeAt (s : State) (die : Nat) (w : Word) : Option WNode :=
  if w.toNat / 256 ≠ 0 then none else s.wnodes.find? fun n => n.die == die && n.index == w.toNat && n.installed

def execWrec (b a : BitVec 7) (s : State) : Result :=
  runEntry (.wrec b a) (fun s _ x _ t => match s.wnodeAt (dieOf x.core) (t.val b.toNat) with
      | some _ => []
      | none => [{ cause := 3, detail := (t.val b.toNat).zeroExtend 64 }])
    (fun entry s g x l =>
      let t := s.thread x.id l
      let n := ((s.wnodeAt (dieOf x.core) (t.val b.toNat)).map (·.words)).getD 0
      (s.addReq (s.newReq g x l 0 (.wrec (dieOf x.core) (t.val b.toNat).toNat (t.vals a.toNat n)) .nowhere 0 0 entry), .next)) s

/-- WORK_GRAPH_RECORD_ARRIVAL: a record, once its release is satisfied and in its order, enters the node's buffer or is refused
(R384). -/
def execWorkGraphRecordArrival (op : Nat) (s : State) : Result :=
  .next (match s.req? op with
    | none => s
    | some r => match r.kind, s.anyBundle r.bundle with
      | .wrec die i ws, some b =>
        let before := s.reqs.any fun q => q.bundle == r.bundle && decide (q.id < r.id) && (q.lane == r.lane || q.entry == r.entry) &&
          match q.kind with
          | .wrec _ _ _ => true
          | _ => false
        if !(s.reaches r) || !(s.inOrder r) || before then s
        else if !(s.allPerformed b r.lane 3 0 (some r.id)) then s.writeBackFor b
        else match s.wnodes.find? fun n => n.die == die && n.index == i with
          | none => s.dropReq op
          | some n =>
            if 160 ≤ n.records.length then s.modReq op fun r => { r with
              naks := r.naks + 1, resend := some (s.clk + backoff (s.die (dieOf r.core)).backoff (r.naks + 1)) }
            else
              let s := s.modPart n.partition fun q => { q with seen := max q.seen (s.core r.core).ctime }
              { s with wnodes := upd s.wnodes (·.id == n.id) fun n => { n with records := n.records ++ [(s.clk, ws)] } }.dropReq op
      | _, _ => s)

/-- WORK_GRAPH_BUNDLE_LAUNCH: 32 records, or a record that has waited the timer, become one bundle (R385). -/
def execWorkGraphBundleLaunch (node : Nat) (s : State) : Result :=
  .next (match s.wnodes.find? (·.id == node) with
    | none => s
    | some n =>
      let due := decide (32 ≤ n.records.length) || match n.records with
        | [] => false
        | r :: _ => decide (r.1 + 1050 * n.timer ≤ s.clk)
      if !due || !((s.part n.partition).launches) then s
      else
        let rs := (n.records.take 32).map (·.2)
        let x := s.takeTid n.partition
        let p := { n.program with threads := rs.length, blocks := 1, coplace := false, tracked := false }
        let t : Task := { id := s.fresh, tid := x.2, partition := n.partition, cls := n.cls, packet := 0, kind := .work node, index := 0
                          tcb := n.tcb, program := p, arg := 0, phase := .ready, xlat := n.xlat, leased := true, records := rs
                          order := s.fresh, acq := 3, priv := n.priv, all := p.allRanges }
        { x.1 with
          tasks := x.1.tasks ++ [t]
          wnodes := upd x.1.wnodes (·.id == node) fun n => { n with records := n.records.drop 32 } }.next)

/-- Removed nodes leave once their buffers are empty and their bundles have completed (R383). -/
def State.settleNodes (s : State) : State :=
  let idle (n : WNode) : Bool := n.removing.isSome && n.installed && n.records.isEmpty && !(s.tasks.any fun t => t.kind == .work n.id)
  let gone := s.wnodes.filter idle
  if gone.isEmpty then s
  else
    let s := gone.foldl (fun s n => s.endPacket (n.removing.getD 0) 0 0 0 0) s
    { s with wnodes := s.wnodes.filter fun n => !(gone.any (·.id == n.id)) }

/-! Pages (R389, R390). -/

/-- Free slots of a partition's compression zone, as leaf addresses. -/
def State.zoneSlots (s : State) (p : Nat) : List Nat :=
  ((List.range ((s.part p).zoneSize / 32768)).map (65536 * ·)).filter fun a => !(s.zone.any fun z => z.partition == p && z.slot == a)

/-- PAGE_COMPRESSION: an unleased 64 KiB HBM page that no agent has touched for the cold interval and that compresses goes into the zone
(R389). -/
def execPageCompression (partition va : Nat) (s : State) : Result :=
  .next (match s.walk partition va with
    | none => s
    | some lf =>
      let base := va / 65536 * 65536
      let bs := readBytes s.mem lf.pa 65536
      match s.zoneSlots partition with
      | [] => s
      | z :: _ =>
        let cold := decide (s.lastTouch lf.pa + 1050000 * (s.part partition).cold ≤ s.clk)
        if lf.size ≠ 65536 ∨ lf.c ∨ lf.m ∨ inTier2 lf.pa || s.isLeased partition base 65536 || !cold || !(Config.compresses bs) then s
        else
          let rel : Mem := (s.mem.filter fun c => decide (lf.pa ≤ c.1) && decide (c.1 < lf.pa + 65536)).map fun c => (c.1 - lf.pa, c.2)
          let old := leNat (readBytes s.mem lf.entry 8)
          let zone := s.zone ++ [{ partition := partition, slot := z, bytes := rel }]
          ({ s with zone := zone } : State).putLeaf lf.entry (leafWord old z false true false))

/-- PAGE_MIGRATION: an unleased page starts to move to the other tier (R390). -/
def execPageMigration (partition va : Nat) (s : State) : Result :=
  .next (match s.walk partition va with
    | none => s
    | some lf =>
      if lf.c ∨ lf.m || s.pageLeased partition va then s
      else s.startMove partition va (!(inTier2 lf.pa)))

/-- A moved page was last touched when it was before the move. -/
def carryTouch (m : Move) (xs : List (Nat × Nat)) : List (Nat × Nat) :=
  (xs.filterMap fun x => if m.frm ≤ 65536 * x.1 ∧ 65536 * x.1 < m.frm + m.size then some (x.1 + m.to_ / 65536 - m.frm / 65536, x.2) else none) ++ xs

/-- PAGE_MOVE_END: the bytes stand in the new frame, addr and T are rewritten together, and M is cleared (R387, R390). -/
def execPageMoveEnd (op : Nat) (s : State) : Result :=
  .next (match s.moves.find? (·.id == op) with
    | none => s
    | some m =>
      let moved := s.mem.filter fun c => decide (m.frm ≤ c.1) && decide (c.1 < m.frm + m.size)
      let clear : Mem := s.mem.filter fun c => decide (c.1 < m.to_) || decide (m.to_ + m.size ≤ c.1)
      let mem := moved.foldl (fun (a : Mem) (c : Host.Cell) => writeByte a (m.to_ + (c.1 - m.frm)) c.2) clear
      let s := ({ s with mem := mem, moves := s.moves.filter fun x => !(x.id == op) } : State).frameTaken m.to_ m.size
      let s := { s with touched := carryTouch m s.touched }
      s.putLeaf m.entry (leafWord (leNat (readBytes s.mem m.entry 8)) m.to_ m.tier false false))

end Sys2Proof.Machine
end

