-- ==== Sys2Proof/Machine/Lathe.lean ====
section
/-! DEFINITION. Tree grids (R208 to R233): checks, the MEASURE walk, billets and boxes, the sweeps, splits, and the node
instructions. -/

namespace Sys2Proof.Machine

/-! Records and checks (R208 to R213). -/

/-- A node record's fields (R208). -/
def nodeRec (index : Nat) (bs : List Byte) : NodeRec :=
  { index := index, parent := field bs 0 4, first := field bs 4 4, count := field bs 8 2, threads := field bs 10 2, upb := field bs 12 2
    dnb := field bs 14 2, arg := BitVec.ofNat 64 (field bs 16 8), sel := field bs 24 4, ctl := BitVec.ofNat 32 (field bs 28 4) }

/-- The prune bit of a record: all that is read of a pruned one (R209). -/
def pruned (bs : List Byte) : Bool := bit (field bs 28 4) 16

/-- The root's parent field. -/
def noParent : Nat := 0xFFFFFFFF

/-- The dies a grid may use (R210): the mask's, where it is not 0, among those on which the partition holds a quad. -/
def State.gridDies (s : State) (p : Nat) (d : List Byte) : List Nat :=
  let mask := bits (field d 27 1) 3 0
  (s.partDies p).filter fun k => mask == 0 || bit mask k

/-- Check 0 on the fields from +0 to +42 (R210, R213, R214); a descriptor that MEASURE reads may count no program entries. -/
def descHeadBad (d : List Byte) (measure : Bool) : Bool :=
  decide (field d 0 8 % 32 ≠ 0) || decide (field d 8 4 < 1) || decide (2 ^ 32 - 2 < field d 8 4) || decide (field d 8 4 ≤ field d 12 4) ||
  decide (field d 16 8 % 16 ≠ 0) || (!measure && field d 24 2 == 0) || decide (3 < field d 26 1) || decide (16 ≤ field d 27 1) ||
  decide (field d 28 2 % 4 ≠ 0) || decide (1024 < field d 28 2) || !(zeroBytes d 30 2) || decide (field d 32 8 % 16 ≠ 0) ||
  (field d 40 2 == 0 && !(zeroBytes d 32 8)) || !(zeroBytes d 42 6)

/-- Check 0 on the other fields. -/
def descTailBad (d : List Byte) : Bool :=
  decide (field d 48 8 % 4096 ≠ 0) || decide (field d 56 8 % 4096 ≠ 0) || decide (field d 72 8 % 4096 ≠ 0) ||
  decide (field d 80 8 % 4096 ≠ 0) || (zeroBytes d 80 8 && !(zeroBytes d 72 8)) || decide (field d 88 8 % 4 ≠ 0) ||
  decide (field d 96 8 % 64 ≠ 0) || decide (2 ^ 56 ≤ field d 96 8) || decide (field d 104 4 % 2 ≠ 0) || decide (field d 104 4 < 2) ||
  decide (2 ^ 31 < field d 104 4) || !(zeroBytes d 108 20)

/-- How the Lathe reads n bytes at a virtual address. -/
abbrev Reader := Nat → Nat → List Byte

/-- A grid's sweep mode. -/
def modeOf (d : List Byte) : Nat := field d 26 1

/-- Whether a program table entry's stream entry table can be read and is sound; one that cannot breaks R211 (the model's choice, log
entry 125). -/
def streamTableOk (rd : Reader) (e : List Byte) : Bool :=
  let n := min 16 (field e 40 2)
  let t := rd (field e 32 8) (8 * n)
  t.length == 8 * n && (streamEntries t n).all streamEntryOk

/-- Whether a program table entry breaks R211 or lacks the entry PC that the mode needs of a node (check 7): up for modes 0 and
2 and a leaf of mode 3, down for modes 1 and 2. -/
def entryBad (rd : Reader) (d e : List Byte) (leaf measure : Bool) : Bool :=
  let pcBad (o : Nat) : Bool := decide (field e o 8 % 2 ≠ 0) ||
    (!measure && decide (field e o 8 ≠ 0) && !(inside (field e o 8) 1 (field d 96 8) (field d 104 4)))
  let m := modeOf d
  pcBad 0 || pcBad 8 || decide (field e 16 2 % 8 ≠ 0) || decide (field e 16 2 < 8) || decide (128 < field e 16 2) ||
  decide (2 ≤ field e 18 2) || decide (field e 20 4 % 256 ≠ 0) || decide (393216 < field e 20 4) || decide (16 < field e 40 2) ||
  (field e 40 2 == 0 && !(zeroBytes e 32 8)) || !(zeroBytes e 42 6) ||
  !(streamTableOk rd e) ||
  ((m == 0 || m == 2 || (m == 3 && leaf)) && field e 0 8 == 0) || ((m == 1 || m == 2) && field e 8 8 == 0)

/-- A range template's entries. -/
def templateEntries (rd : Reader) (d : List Byte) (k : Nat) : List (List Byte) :=
  let t := rd (field d 32 8 + 128 * k) 128
  (List.range 8).map fun i => (t.drop (16 * i)).take 16

/-- A program table entry. -/
def programEntry (rd : Reader) (d : List Byte) (sel : Nat) : List Byte := rd (field d 16 8 + 48 * sel) 48

/-- The first check of R213 that a record fails, from 1 to 9; parent: the node whose child it is, none for the root. -/
def nodeBad (rd : Reader) (d : List Byte) (parent : Option Nat) (r : NodeRec) (measure : Bool) : Option Nat :=
  let n := field d 24 2
  let tmpl := bits r.ctl.toNat 15 0
  let checks : List (Nat × Bool) :=
    [(1, parent.isNone && decide (r.parent ≠ noParent)), (2, decide (r.threads < 1) || decide (1024 < r.threads)),
     (3, decide (r.upb % 4 ≠ 0 ∨ r.dnb % 4 ≠ 0) || decide (1024 < r.upb ∨ 1024 < r.dnb)),
     (4, decide (0 < r.count) && decide (field d 8 4 < r.first + r.count)),
     (5, match parent with
       | some p => decide (r.parent ≠ p)
       | none => false)]
  let tables : List (Nat × Bool) := if n = 0 then [] else
    [(6, decide (n ≤ r.sel)), (7, decide (r.sel < n) && entryBad rd d (programEntry rd d r.sel) (r.count == 0) measure),
     (8, decide (tmpl ≠ 0xFFFF) && (decide (field d 40 2 ≤ tmpl) ||
        (templateEntries rd d tmpl).any fun e => rangeBaseBad e r.arg || rangeWordBad e r.arg true))]
  ((checks ++ tables ++ [(9, decide (bits r.ctl.toNat 31 17 ≠ 0))]).find? Prod.snd).map Prod.fst

/-- The children of a node that are reached, with their ordinals, and the index and number of the first check that fails: those
before it are reached then. -/
def readKids (rd : Reader) (d : List Byte) (parent : NodeRec) (measure : Bool) : Nat → Nat → List (Nat × NodeRec) × Option (Nat × Nat)
  | 0, _ => ([], none)
  | n + 1, i =>
    let bs := rd (field d 0 8 + 32 * (parent.first + i)) 32
    if pruned bs then readKids rd d parent measure n (i + 1)
    else
      let r := nodeRec (parent.first + i) bs
      match nodeBad rd d (some parent.index) r measure with
      | some c => ([], some (r.index, c))
      | none =>
        let x := readKids rd d parent measure n (i + 1)
        ((i, r) :: x.1, x.2)

/-! MEASURE (R214, R215). -/

/-- A reached node on its path: depth, ordinal, the sums of the boxes above it, and its own slots' bytes. -/
structure Visit where
  node : NodeRec
  depth : Nat
  ordinal : Nat
  up : Nat
  down : Nat
  myup : Nat
  mydn : Nat
  deriving DecidableEq, Repr

/-- A child's visit. -/
def Visit.child (v : Visit) (x : Nat × NodeRec) : Visit :=
  { node := x.2, depth := v.depth + 1, ordinal := x.1, up := v.up + v.node.count * v.node.upb
    down := v.down + v.node.count * v.node.dnb, myup := v.node.upb, mydn := v.node.dnb }

/-- A node of a walk as the sweep first holds it: a leaf has no child to meet. -/
def Visit.state (v : Visit) (billet : Nat) : NodeState :=
  { node := v.node, billet := billet, depth := v.depth, ordinal := v.ordinal, myup := v.myup, mydn := v.mydn, entered := v.node.count == 0 }

/-- The root's visit. -/
def rootVisit (d : List Byte) (r : NodeRec) : Visit :=
  { node := r, depth := 0, ordinal := 0, up := 0, down := 0, myup := field d 28 2, mydn := 0 }

/-- What a walk has found: S_up, S_down, nodes, leaves, depth, threads, and the failing check with its node. -/
structure Measured where
  up : Nat := 0
  down : Nat := 0
  nodes : Nat := 0
  leaves : Nat := 0
  depth : Nat := 0
  threads : Nat := 0
  failed : Option (Nat × Nat) := none
  /-- The leaves themselves. -/
  ends : List Visit := []

/-- A node is reached. -/
def Measured.reach (m : Measured) (v : Visit) : Measured :=
  { m with
    nodes := m.nodes + 1
    depth := max m.depth v.depth
    threads := max m.threads v.node.threads
    leaves := m.leaves + if v.node.count = 0 then 1 else 0
    ends := if v.node.count = 0 then m.ends ++ [v] else m.ends }

/-- A path ends at a reached node, whose own box counts. -/
def Measured.pathEnd (m : Measured) (v : Visit) : Measured :=
  { m with up := max m.up (v.up + v.node.count * v.node.upb), down := max m.down (v.down + v.node.count * v.node.dnb) }

/-- The walk over a list of reached nodes; fuel counts visits. A failing check stops it: what is reached then ends its paths. -/
def measureWalk (rd : Reader) (d : List Byte) (measure : Bool) : Nat → List Visit → Measured → Measured
  | 0, _, m => m
  | _, [], m => m
  | k + 1, v :: rest, m =>
    let x := readKids rd d v.node measure v.node.count 0
    let kids := x.1.map v.child
    let m := m.reach v
    match x.2 with
    | some (i, c) => { (kids ++ rest).foldl (fun m y => (m.reach y).pathEnd y) (m.pathEnd v) with failed := some (c, i) }
    | none => measureWalk rd d measure k (kids ++ rest) (if kids.isEmpty then m.pathEnd v else m)

/-- Measure a tree from its root; a pruned root reaches nothing. -/
def measureTree (rd : Reader) (d : List Byte) (measure : Bool) : Measured :=
  let i := field d 12 4
  let bs := rd (field d 0 8 + 32 * i) 32
  if pruned bs then {}
  else
    let r := nodeRec i bs
    match nodeBad rd d none r measure with
    | some c => { failed := some (c, i) }
    | none => measureWalk rd d measure (field d 8 4) [rootVisit d r] {}

/-- The 48-byte record of MEASURE. -/
def Measured.record (m : Measured) : List Byte :=
  leBytes 8 m.up ++ leBytes 8 m.down ++ leBytes 4 m.nodes ++ leBytes 4 m.leaves ++ leBytes 4 m.depth ++ leBytes 2 m.threads ++ leBytes 2 0 ++
    leBytes 4 ((m.failed.map fun x => x.1 + 1).getD 0) ++ leBytes 4 ((m.failed.map Prod.snd).getD noParent) ++ leBytes 8 0

/-! Grids. -/

/-- A grid by name; change one. -/
def State.grid? (s : State) (g : Nat) : Option Grid := s.grids.find? (·.id == g)
def State.modGrid (s : State) (g : Nat) (f : Grid → Grid) : State := { s with grids := upd s.grids (·.id == g) f }

/-- A grid reads through the pages it leased (R210), and elsewhere (a stream entry table) through the page table (R450); nothing where
some byte is not mapped. -/
def State.gridReader (s : State) (g : Grid) : Reader := fun va n =>
  ((List.range n).mapM fun i => ((translate g.xlat (va + i)).orElse fun _ => s.vpa g.partition (va + i) false).map (readByte s.mem)).getD []

/-- The spans of the stream entry tables that a program table names (R211). -/
def streamSpans (table : List Byte) (n : Nat) : List (Nat × Nat) :=
  (List.range n).filterMap fun i =>
    let e := (table.drop (48 * i)).take 48
    if field e 40 2 = 0 then none else some (field e 32 8, 8 * min 16 (field e 40 2))

/-- The Headstock leases a grid's stream entry tables before it reads them: it expands a compressed page, and waits for a migrating one
(R389, R450); one that is not mapped is left to check 7. None while it waits. -/
def State.leaseStreams (s : State) (g : Grid) : Option State :=
  (streamSpans (s.gridReader g (field g.desc 16 8) (48 * field g.desc 24 2)) (field g.desc 24 2)).foldl (fun s x => s.bind fun s =>
    match s.useSpan g.partition x.1 x.2 true false with
    | .wait => none
    | .bad => some s
    | .ready s => some (s.lease g.partition x.1 x.2 (packetHolder g.packet))) (some s)

/-- A node of a grid's walk. -/
def Grid.node? (g : Grid) (i : Nat) : Option NodeState := g.nodes.find? (·.node.index == i)
def Grid.modNode (g : Grid) (i : Nat) (f : NodeState → NodeState) : Grid := { g with nodes := upd g.nodes (·.node.index == i) f }

/-- The reached children of a node, in ascending index order. -/
def Grid.kids (g : Grid) (i : Nat) : List NodeState := g.nodes.filter fun n => n.node.parent == i

/-- The status that ends a grid, unless one stands (R233). -/
def Grid.fail (g : Grid) (status cause : Nat) (detail : DWord) : Grid := { g with ended := some (g.ended.getD (status, cause, detail, 0)) }

/-- Check c of node i has failed (R233 status 2). -/
def Grid.failNode (g : Grid) (i c : Nat) : Grid := g.fail 2 0 (BitVec.ofNat 64 (i + 2 ^ 32 * (c + 1)))

/-- Spill space in use, in bytes: whole 4 KiB units for each spilled box (R222; the model's choice, log entry 132). -/
def Grid.spillUsed (g : Grid) : Nat := ((g.boxes.filter (·.spilled)).map fun b => ceilDiv b.size 4096 * 4096).sum

/-- Live bytes of a stack in its segment. -/
def liveBytes (bs : List Box) : Nat := ((bs.filter fun b => !b.spilled).map (·.size)).sum

/-- Spill the oldest unspilled box of a stack (its top comes first). -/
def spillOldest (bs : List Box) : List Box := match bs.reverse.find? fun b => !b.spilled with
  | none => bs
  | some o => upd bs (·.id == o.id) fun b => { b with spilled := true }

/-- Make room for a push: spill the oldest boxes until it fits (R222); fuel counts boxes. -/
def makeRoom (stride size : Nat) : Nat → List Box → List Box
  | 0, bs => bs
  | k + 1, bs => if liveBytes bs + size ≤ stride then bs else makeRoom stride size k (spillOldest bs)

/-- Push a box of zeros for a node on a billet's stack (R216, R217, R222); a full spill area ends the grid (R233). -/
def Grid.push (g : Grid) (id billet node size : Nat) : Grid :=
  let stack := ((g.billets.find? (·.id == billet)).map (·.stack)).getD []
  let direct := decide (g.stride < size)
  let below := if direct then stack else makeRoom g.stride size stack.length stack
  let box : Box := { id := id, node := node, size := size, bytes := [], spilled := direct }
  let g' : Grid := { g with billets := upd g.billets (·.id == billet) fun b => { b with stack := box :: below } }
  if g'.spillUsed ≤ field g.desc 80 8 || g'.spillUsed == g.spillUsed then g' else g.fail 3 0x14 (BitVec.ofNat 64 size)

/-- Pop a node's box; a billet whose root's box goes ends (R220). -/
def Grid.pop (g : Grid) (i : Nat) : Grid :=
  let billets := g.billets.map fun b => { b with stack := b.stack.filter fun x => !(x.node == i) }
  { g with billets := billets.filter fun b => !(b.root == i) }

/-- Segments of the arena (R219). -/
def segmentsOf (d : List Byte) (stride dies : Nat) : Nat := if stride = 0 then 0 else min (field d 56 8 / stride) (1024 * dies)

/-! The packet's body and the grid's start. -/

/-- The areas that the Headstock leases for the life of a grid (R210), with the rights that their use needs (the model's choice, log
entry 131). -/
def gridRanges (d : List Byte) : List Range :=
  let one (base len : Nat) (w : Bool) : List Range := if len = 0 then [] else [{ base := base, len := len, r := true, w := w }]
  one (field d 0 8) (32 * field d 8 4) false ++ one (field d 16 8) (48 * field d 24 2) false ++
    one (field d 32 8) (128 * field d 40 2) false ++ one (field d 48 8) (field d 56 8) true ++ one (field d 72 8) (field d 80 8) true ++
    one (field d 88 8) (field d 28 2) true

/-- A TREE packet: the descriptor's check, then the lease of the grid's areas (R213, R233, R450). -/
def State.bodyTree (s : State) (pk : Packet) : Taken :=
  let va := pk.word 16 8
  if va % 64 ≠ 0 then .launch s 1
  else match s.get pk.partition va 128 with
    | .wait => .wait
    | .bad => .launch s 16
    | .bytes s d =>
      let dies := s.gridDies pk.partition d
      let stride := ceilDiv (field d 64 8) 64 * 64
      if descHeadBad d false || descTailBad d || dies.isEmpty || (decide (0 < stride) && segmentsOf d stride dies.length == 0) then .launch s 1
      else
        let g : Grid := { id := s.fresh, packet := pk.id, partition := pk.partition, desc := d
                          arg := BitVec.ofNat 64 (pk.word 24 8), sweep := 0, stride := stride, segments := segmentsOf d stride dies.length
                          dieSet := dies }
        let p : Program := { codeBase := field d 96 8, codeLen := field d 104 4, ranges := gridRanges d }
        let t : Task := { id := s.fresh + 1, tid := 0, partition := pk.partition, cls := pk.cls, packet := pk.id, kind := .lathe g.id, index := 0
                          tcb := 0, program := p, arg := 0, order := pk.id }
        .ok ({ s with grids := s.grids ++ [g], tasks := s.tasks ++ [t], fresh := s.fresh + 2 }.modPacket pk.id fun x => { x with left := 1 })

/-- The first billet (R223): the lowest die that the grid may use, segment 0. -/
def Grid.firstBillet (g : Grid) (id root : Nat) : Billet := { id := id, die := (least g.dieSet).getD 0, segment := 0, root := root }

/-- Begin a sweep at the root: 1 upward, 2 downward. -/
def State.beginSweep (s : State) (g : Nat) (sweep : Nat) : State :=
  match s.grid? g with
  | none => s
  | some x =>
    let i := field x.desc 12 4
    let bs := s.gridReader x (field x.desc 0 8 + 32 * i) 32
    if pruned bs then s.modGrid g fun x => x.fail 0 0 0
    else
      let r := nodeRec i bs
      match nodeBad (s.gridReader x) x.desc none r false with
      | some c => s.modGrid g fun x => x.failNode i c
      | none =>
        let root := (rootVisit x.desc r).state s.fresh
        (s.modGrid g fun x => { x with sweep := sweep, nodes := [root], billets := [x.firstBillet s.fresh i] }).next

/-- Whether a leased grid's arena lies outside HBM, or its spill area outside the second tier (R210): seen at the base's page. -/
def Grid.areasBad (g : Grid) : Bool :=
  let page (base : Nat) : Nat := (translate g.xlat (field g.desc base 8)).getD 0
  (decide (field g.desc 56 8 ≠ 0) && !(inHbm (page 48))) || (decide (field g.desc 80 8 ≠ 0) && !(inTier2 (page 72)))

/-- A leased grid starts (R215, R218): where no path bound is given it measures first; mode 3 reaches every leaf at once. -/
def State.startGrid (s : State) (g : Grid) : State :=
  if g.areasBad then s.modGrid g.id fun x => x.fail 1 0 1
  else match s.leaseStreams g with
  | none => s
  | some s =>
  let mode := modeOf g.desc
  let rd := s.gridReader g
  let m : Measured := if mode = 3 ∨ field g.desc 64 8 = 0 then measureTree rd g.desc false else {}
  match m.failed with
  | some (c, i) => s.modGrid g.id fun x => x.failNode i c
  | none =>
    if mode = 3 then
      if m.ends.isEmpty then s.modGrid g.id fun x => x.fail 0 0 0
      else
        (s.modGrid g.id fun x => { x with sweep := 3, nodes := m.ends.map (·.state s.fresh), billets := [x.firstBillet s.fresh (field x.desc 12 4)] }).next
    else
      let bound := if field g.desc 64 8 ≠ 0 then field g.desc 64 8
        else if mode = 0 then m.up else if mode = 1 then m.down else max m.up m.down
      let stride := ceilDiv bound 64 * 64
      let n := segmentsOf g.desc stride g.dieSet.length
      if 0 < stride ∧ n = 0 then s.modGrid g.id fun x => x.fail 1 0 1
      else (s.modGrid g.id fun x => { x with stride := stride, segments := n }).beginSweep g.id (if mode = 1 then 2 else 1)

/-! Reaching nodes. -/

/-- Meet a node's children: each is checked, and a failing one ends the grid (R213). -/
def State.meetKids (s : State) (g : Grid) (n : NodeState) : Grid :=
  let x := readKids (s.gridReader g) g.desc n.node false n.node.count 0
  let v : Visit := { node := n.node, depth := n.depth, ordinal := n.ordinal, up := 0, down := 0, myup := n.myup, mydn := n.mydn }
  match x.2 with
  | some (i, c) => g.failNode i c
  | none => { g with nodes := g.nodes ++ x.1.map fun y => (v.child y).state n.billet }

/-- Push a node's box on its billet's stack: the inbox on entry (R216), the outbox at its block's launch (R217). -/
def State.pushBox (s : State) (gid i : Nat) : State :=
  match s.grid? gid, (s.grid? gid).bind (·.node? i) with
  | some g, some n =>
    let size := n.node.count * if g.sweep = 2 then n.node.dnb else n.node.upb
    (s.modGrid gid fun _ => (g.modNode i fun n => { n with boxed := true }).push s.fresh n.billet i size).next
  | _, _ => s

/-- Enter a non-leaf node: its children are met; upward its box is pushed (R216 step 1). -/
def State.enterNode (s : State) (gid i : Nat) : State :=
  match s.grid? gid, (s.grid? gid).bind (·.node? i) with
  | some g, some n =>
    let g := s.meetKids (g.modNode i fun n => { n with entered := true }) n
    let s := s.modGrid gid fun _ => g
    if g.ended.isSome || g.sweep != 1 then s else s.pushBox gid i
  | _, _ => s

/-- The program of a node's block (R211, R212, R232). -/
def State.nodeProgram (s : State) (g : Grid) (n : NodeState) : Program :=
  let rd := s.gridReader g
  let e := programEntry rd g.desc n.node.sel
  let tmpl := bits n.node.ctl.toNat 15 0
  { entry := BitVec.ofNat 64 (field e (if g.sweep = 2 then 8 else 0) 8), expected := field e 24 8, codeBase := field g.desc 96 8
    codeLen := field g.desc 104 4, threads := n.node.threads, regs := field e 16 2, spad := field e 20 4, idem := bit (field e 18 2) 0
    tracked := true
    streams := (streamEntries (rd (field e 32 8) (8 * field e 40 2)) (field e 40 2)).map streamEntry
    ranges := if tmpl = 0xFFFF then [] else (templateEntries rd g.desc tmpl).map fun x => rangeOf x n.node.arg }

/-- The scope of a node's starting FENCE.AR (R231): package scope after another node, else its packet's own. -/
def State.nodeAcq (s : State) (g : Grid) (n : NodeState) : Nat :=
  let after := if g.sweep = 1 then !((g.kids n.node.index).isEmpty) else if g.sweep = 2 then decide (0 < n.depth) || modeOf g.desc == 2 else false
  if after then 4 else ((s.packet? g.packet).map (·.acq)).getD 0

/-- Make a node ready (R372, R375): none while the dependence table lacks entries. A node task's TCB address and block index, which
its fault-queue entry shows, are free values. -/
def State.readyNode (s : State) (gid i : Nat) : Option State :=
  match s.grid? gid, (s.grid? gid).bind (·.node? i), (s.grid? gid).bind fun g => s.packet? g.packet with
  | some g, some n, some pk =>
    let p := s.nodeProgram g n
    let die := (least g.dieSet).getD 0
    let rs := p.ranges.filter fun r => decide (0 < r.len)
    if !(s.depRoom die rs.length) then none
    else
      let id := s.fresh
      let x := s.next.takeDeps g.partition die id (2 * gid + 1) id rs
      let y := x.1.takeTid g.partition
      let t : Task := { id := id, tid := y.2, partition := g.partition, cls := pk.cls, packet := g.packet, kind := .node gid i g.sweep n.billet
                        index := Config.pick s.draw % 65536, tcb := BitVec.ofNat 64 (Config.pick (s.draw + 1)), program := p, arg := n.node.arg
                        priv := pk.priv, deps := x.2, unit := some (id, 2 * gid + 1, id), order := g.packet
                        acq := launchAcq x.2 (s.nodeAcq g n), all := p.allRanges }
      some (({ y.1 with tasks := y.1.tasks ++ [t] }.modGrid gid fun g => g.modNode i fun n => { n with launched := true }).drawn.drawn)
  | _, _, _ => none

/-! The walk (R216, R217). -/

/-- What the walk does next. -/
inductive Move1 where
  | enter (i : Nat)
  | ready (i : Nat)
  /-- A downward subtree is complete: its box is popped. -/
  | close (i : Nat)
  | none

/-- Whether a child's turn has come: it roots its billet (R220), or the non-leaf children before it in its parent's billet are
complete. -/
def Grid.turnOf (g : Grid) (n : NodeState) : Bool :=
  g.billets.any (fun b => b.root == n.node.index && b.id == n.billet) ||
  (g.kids n.node.parent).all fun m => !(decide (m.node.index < n.node.index)) || m.node.count == 0 || m.complete ||
    g.billets.any fun b => b.root == m.node.index && b.id == m.billet

/-- A node's next move, upward: enter, then, once its reached children are complete, be ready; a leaf is ready at once. -/
def Grid.moveUp (g : Grid) (n : NodeState) : Move1 :=
  if !n.entered then (if n.depth == 0 || g.turnOf n then .enter n.node.index else .none)
  else if !n.launched && (g.kids n.node.index).all (·.complete) then .ready n.node.index
  else .none

/-- A node's next move, downward (R217): meet its children and be ready in its turn once its parent has run, close once they are
complete. -/
def Grid.moveDown (g : Grid) (n : NodeState) : Move1 :=
  let open_ := (match g.node? n.node.parent with
    | some p => p.ran
    | none => true) && (n.node.count == 0 || n.depth == 0 || g.turnOf n)
  if !n.entered then (if open_ then .enter n.node.index else .none)
  else if !n.launched then (if open_ then .ready n.node.index else .none)
  else if n.ran && !n.complete && (g.kids n.node.index).all (·.complete) then .close n.node.index
  else .none

/-- A node's next move in the sweep under way; every leaf of mode 3 is ready. -/
def Grid.move (g : Grid) (n : NodeState) : Move1 :=
  if g.sweep = 1 then g.moveUp n else if g.sweep = 2 then g.moveDown n else if n.launched then .none else .ready n.node.index

/-- The nodes in the order the walk looks at them: index order. -/
def Grid.order (g : Grid) : List Nat := sortNat (g.nodes.map (·.node.index))

/-- How soon a move is made: nodes become ready before the walk enters another (R216 steps 2 and 3). -/
def Move1.rank : Move1 → Nat
  | .ready _ => 0
  | .close _ => 1
  | .enter _ => 2
  | .none => 3

/-- The first move of the walk. -/
def Grid.firstMove (g : Grid) : Move1 :=
  ((g.order.filterMap g.node?).map g.move).foldl (fun m x => if x.rank < m.rank then x else m) .none

/-- The root's block in the upward sweep, or a downward subtree, is complete: where the grid stands. -/
def State.afterRoot (s : State) (gid : Nat) : State :=
  match s.grid? gid with
  | none => s
  | some g => if g.sweep = 1 ∧ modeOf g.desc = 2 then s.beginSweep gid 2 else s.modGrid gid fun x => x.fail 0 0 0

/-- Walk on while some node has a move; fuel counts moves. -/
def State.walkGrid (s : State) (gid : Nat) : Nat → State
  | 0 => s
  | k + 1 => match s.grid? gid with
    | none => s
    | some g =>
      if g.ended.isSome then s
      else match g.firstMove with
        | .none => s
        | .enter i => State.walkGrid (s.enterNode gid i) gid k
        | .ready i => match s.readyNode gid i with
          | none => s
          | some s => State.walkGrid s gid k
        | .close i =>
          let s := s.modGrid gid fun g => (g.modNode i fun n => { n with complete := true }).pop i
          let s := if i = field g.desc 12 4 then s.afterRoot gid else s
          State.walkGrid s gid k

/-! Splits (R220). -/

/-- An idle core: no resident block, and no task waits to be admitted to it. -/
def State.idle (s : State) (core : Nat) : Bool :=
  !(s.blocks.any (·.core == core)) && !(s.tasks.any fun t => t.phase == .ready && s.mayUse t core)

/-- A node's first non-leaf child that the walk has not entered (upward) or whose block is not launched (downward), unless it roots
a billet: its box is not pushed. -/
def Grid.splitChild (g : Grid) (n : NodeState) : Option NodeState :=
  if !n.entered then none
  else (g.kids n.node.index).find? fun m => decide (0 < m.node.count) && !(if g.sweep = 2 then m.boxed else m.entered) &&
    !(g.billets.any fun b => b.root == m.node.index)

/-- Move a node, and its children that are met, to a billet. -/
def Grid.moveNode (g : Grid) (i billet : Nat) : Grid :=
  { g with nodes := upd g.nodes (fun n => n.node.index == i || n.node.parent == i) fun n => { n with billet := billet } }

/-- A task of a moved node follows it (R223). -/
def Task.moveNode (t : Task) (grid i billet : Nat) : Task := match t.kind with
  | .node g j sw _ => if g = grid ∧ j = i then { t with kind := .node g j sw billet } else t
  | _ => t

/-- The shallowest node with such a child; a tie goes to the lowest index. -/
def Grid.splitNode (g : Grid) : Option NodeState :=
  ((g.order.filterMap g.node?).filter fun n => (g.splitChild n).isSome).foldl (fun m n => match m with
    | none => some n
    | some x => if n.depth < x.depth then some n else some x) none

/-- The lowest free segment. -/
def Grid.freeSegment (g : Grid) : Option Nat :=
  (List.range (min g.segments (g.billets.length + 1))).find? fun i => !(g.billets.any (·.segment == i))

/-- Try one split, to a die (R220). -/
def State.split (s : State) (gid die : Nat) : State :=
  match s.grid? gid with
  | none => s
  | some g =>
    let full := decide (1024 ≤ ((s.grids.map fun x => (x.billets.filter (·.die == die)).length).sum))
    match g.splitNode.bind g.splitChild, g.freeSegment with
    | some c, some seg =>
      if g.ended.isSome || full || g.sweep == 3 then s
      else
        let b : Billet := { id := s.fresh, die := die, segment := seg, root := c.node.index }
        let s' := s.modGrid gid fun g => { g.moveNode c.node.index s.fresh with billets := g.billets ++ [b] }
        (State.next { s' with tasks := s'.tasks.map (·.moveNode gid c.node.index s.fresh) }).walkGrid gid 4096
    | _, _ => s

/-- One split for each core of a grid's dies that has become idle since a state (R220). -/
def State.settleIdle (before s : State) : State :=
  let fresh := (List.range 640).filter fun c => s.idle c && !(before.idle c)
  s.grids.foldl (fun s g => fresh.foldl (fun s c => if g.dieSet.contains (dieOf c) then s.split g.id (dieOf c) else s) s) s

/-- After a node's completion, one split while some core of the grid's dies is idle: which of them is free (R220). -/
def State.splitAfter (s : State) (gid : Nat) : State :=
  match s.grid? gid with
  | none => s
  | some g =>
    let cs := (List.range 640).filter fun c => g.dieSet.contains (dieOf c) && s.idle c
    match cs with
    | [] => s
    | c :: _ => s.drawn.split gid (dieOf (cs.getD (Config.pick s.draw % cs.length) c))

/-! Completion (R231 to R233). -/

/-- Store what the root's NODE.UP wrote (R230), performed at its home. -/
def State.rootStore (s : State) (g : Grid) : State :=
  g.rootWrites.foldl (fun s x => match translate g.xlat (field g.desc 88 8 + x.1) with
    | some pa => s.headStore g.partition pa [x.2]
    | none => s) s

/-- A node's block has completed (R216, R217, R231). -/
def State.nodeDone (s : State) (gid i : Nat) : State :=
  match s.grid? gid with
  | none => s
  | some g =>
    if g.ended.isSome then s
    else
      let root := decide (i = field g.desc 12 4)
      let up := decide (g.sweep ≠ 2)
      let leaf := ((g.node? i).map fun n => n.node.count == 0).getD true
      let s := if up && root then s.rootStore g else s
      let s := s.modGrid gid fun g =>
        let g := g.modNode i fun n => { n with ran := true, complete := up || leaf }
        if up && g.sweep == 1 then g.pop i else g
      let ended := match s.grid? gid with
        | some g => if g.sweep = 3 then g.nodes.all (·.complete) else root && (up || leaf)
        | none => false
      if ended then s.afterRoot gid else s

/-- NODE_COMPLETION: the node task's block has completed and its writes have landed; the walk goes on (R231). -/
def execNodeCompletion (op : Nat) (s : State) : Result :=
  .next (match s.task? op with
    | none => s
    | some t => match t.kind with
      | .node g i _ _ =>
        if !(t.phase == .done) then s
        else
          let s := { s with tasks := s.tasks.filter fun x => !(x.id == op) }.endUnit op false
          (s.nodeDone g i).splitAfter g
      | _ => s)

/-- Whether a task of a grid still has a launched block: also one that a flush has taken off its core. -/
def Task.launchedBlock (t : Task) : Bool := t.phase == .running || t.phase == .saved || t.phase == .done || (t.phase == .ready && t.flushed)

/-- The node tasks of a grid. -/
def State.nodeTasks (s : State) (gid : Nat) : List Task := s.tasks.filter fun t => match t.kind with
  | .node g _ _ _ => g == gid
  | _ => false

/-- An ended grid: unlaunched node tasks go; once every launched block has completed, so do the arena, the lease and the grid, then the
dependence entries of its node tasks, and the packet completes (R233). -/
def State.endGrid (s : State) (g : Grid) : State :=
  match g.ended with
  | none => s
  | some (status, cause, detail, tid) =>
    let ts := s.nodeTasks g.id
    let drop := ts.filter fun t => !t.launchedBlock
    let s := { s with tasks := s.tasks.filter fun t => !(drop.any (·.id == t.id)) }
    if ts.any Task.launchedBlock || s.heldStores.any (fun x => x.part == some g.partition) then s
    else
      let s := { s with
        tasks := s.tasks.filter fun t => !(t.kind == TaskKind.lathe g.id)
        grids := s.grids.filter fun x => !(x.id == g.id) }
      let units := distinct ((s.deps.filter (·.scope == 2 * g.id + 1)).map (·.unit) ++
        (s.versions.filter fun v => v.scope == 2 * g.id + 1 && v.unit ≠ 0).map (·.unit))
      (units.foldl (fun s u => s.endUnit u true) s).endPacket g.packet status cause detail tid

/-- The outbox of each node whose block has been launched in a downward sweep is pushed (R217). -/
def State.pushOutboxes (s : State) (gid : Nat) : State :=
  (s.nodeTasks gid).foldl (fun s t => match t.kind with
    | .node _ i 2 _ =>
      let due := ((s.grid? gid).bind (·.node? i)).any fun n => decide (0 < n.node.count) && !n.boxed
      if t.launchedBlock && due then s.pushBox gid i else s
    | _ => s) s

/-- Grids start once leased, walk on, and end. -/
def State.settleGrid (s : State) (g : Grid) : State :=
  let s := if g.leased && g.sweep == 0 && g.ended.isNone then s.startGrid g else s
  let s := s.pushOutboxes g.id
  let s := s.walkGrid g.id (4 * (((s.grid? g.id).map (·.nodes.length)).getD 0) + 65540 * 4)
  match s.grid? g.id with
  | some g => s.endGrid g
  | none => s

/-- Every grid, and splits for cores that have become idle since a state. -/
def State.settleGrids (before s : State) : State :=
  if s.grids.isEmpty then s
  else
    let s := s.grids.foldl State.settleGrid s
    if s.grids.isEmpty then s else State.settleIdle before s

/-! The node instructions (R225 to R230). -/

/-- A field that NODE.RD names, of the node of a bundle's block (R226). -/
def State.nodeField (s : State) (b : Bundle) (i : Nat) : Nat :=
  ((((s.blockOf b).bind (·.node)).map NodeInfo.fields).getD []).getD i 0 |>.toNat

/-- The sweep of a bundle's node. -/
def State.nodeSweep (s : State) (b : Bundle) : Nat := (((s.blockOf b).bind (·.node)).map (·.sweep)).getD 0

/-- NODE.RD. -/
def execNodeRd (b : BitVec 4) (d : BitVec 7) (s : State) : Result :=
  runLanes (.nodeRd b d) noCheck (fun s g x l =>
    let v := BitVec.ofNat 32 (s.nodeField x b.toNat)
    (s.modThread g.bundle l (·.write d.toNat v), .next)) s

/-- The range and alignment of an offset, with the trap's detail (R227 to R229). -/
def boxChecks (off size : Nat) (bad : Bool) (detail : DWord) : List Trap :=
  (if bad || decide (size ≤ off) then [{ cause := 5, detail := detail }] else []) ++
  if off % 4 ≠ 0 then [{ cause := 7, detail := detail }] else []

/-- NODE.IN (R227): a word of the inbox, or of the node's slot in its parent's outbox. -/
def execNodeIn (a d : BitVec 7) (s : State) : Result :=
  runLanes (.nodeIn a d)
    (fun s _ b _ t =>
      let off := t.val a.toNat
      if s.nodeSweep b = 3 then [{ cause := 3 }]
      else if t.unread a.toNat 1 then []
      else boxChecks off.toNat (if s.nodeSweep b = 1 then s.nodeField b 3 * s.nodeField b 5 else s.nodeField b 14) false (off.zeroExtend 64))
    (fun s g b l =>
      let t := s.thread b.id l
      let n := (((s.blockOf b).bind (·.node)).map fun n => (n.grid, n.index)).getD (0, 0)
      let off := (t.val a.toNat).toNat
      let up := s.nodeSweep b = 1
      let box := if up then n.2 else s.nodeField b 1
      let at_ := if up then off else s.nodeField b 11 * s.nodeField b 14 + off
      let r := s.newReq g b l 0 (.nodeIn d.toNat n.1 box at_) .nowhere 0 4 s.fresh
      ((s.addReq r).modThread b.id l fun t => t.mark d.toNat .pending, .next)) s

/-- NODE.UP (R228): a word of the node's slot in its parent's inbox, or of the root's result. -/
def execNodeUp (b a : BitVec 7) (s : State) : Result :=
  runEntry (.nodeUp b a)
    (fun s _ x _ t =>
      let off := t.val b.toNat
      if s.nodeSweep x ≠ 1 then [{ cause := 3 }] else if t.unread b.toNat 1 then [] else boxChecks off.toNat (s.nodeField x 13) false (off.zeroExtend 64))
    (fun entry s g x l =>
      let t := s.thread x.id l
      let n := (((s.blockOf x).bind (·.node)).map fun n => (n.grid, n.index)).getD (0, 0)
      let root := s.nodeField x 1 = noParent
      let off := (t.val b.toNat).toNat
      let k : ReqKind := .nodeWrite n.1 (if root then none else some (s.nodeField x 1))
        (if root then off else s.nodeField x 11 * s.nodeField x 13 + off) (t.val a.toNat)
      (s.addReq (s.newReq g x l 0 k .nowhere 0 4 entry), .next)) s

/-- NODE.DN (R229): a word of a child's slot in the node's outbox. -/
def execNodeDn (b a : BitVec 7) (s : State) : Result :=
  runEntry (.nodeDn b a)
    (fun s _ x _ t =>
      let w := t.val b.toNat
      let off := bits w.toNat 11 0
      if s.nodeSweep x ≠ 2 then [{ cause := 3 }]
      else if t.unread b.toNat 1 then []
      else boxChecks off (s.nodeField x 6) (decide (s.nodeField x 3 ≤ bits w.toNat 31 12)) (w.zeroExtend 64))
    (fun entry s g x l =>
      let t := s.thread x.id l
      let w := (t.val b.toNat).toNat
      let n := (((s.blockOf x).bind (·.node)).map fun n => (n.grid, n.index)).getD (0, 0)
      let k : ReqKind := .nodeWrite n.1 (some n.2) (bits w 31 12 * s.nodeField x 6 + bits w 11 0) (t.val a.toNat)
      (s.addReq (s.newReq g x l 0 k .nowhere 0 4 entry), .next)) s

/-- A NODE.UP or NODE.DN word lands (R230): in issue order of its thread, ascending lanes of its instruction; an ended grid
discards it (R233). -/
def State.landNodeWrite (s : State) (r : Req) : State :=
  match r.kind with
  | .nodeWrite g box off data =>
    let before := s.reqs.any fun q => q.bundle == r.bundle && decide (q.id < r.id) && (q.lane == r.lane || q.entry == r.entry) &&
      match q.kind with
      | .nodeWrite _ _ _ _ => true
      | _ => false
    if before then s
    else
      let bs := leBytes 4 data.toNat
      let write (x : Grid) : Grid :=
        if x.ended.isSome then x
        else match box with
          | none => { x with rootWrites := x.rootWrites ++ (List.range 4).map fun i => (off + i, bs.getD i 0) }
          | some n => match x.boxes.find? (·.node == n) with
            | none => x
            | some y => x.modBox y.id fun y => { y with bytes := writeBytes y.bytes off bs }
      (s.modGrid g write).dropReq r.id
  | _ => s

/-- A NODE.IN word arrives (R227). -/
def State.landNodeIn (s : State) (r : Req) : State :=
  match r.kind with
  | .nodeIn d g box off =>
    let bs := match (s.grid? g).bind fun x => x.boxes.find? (·.node == box) with
      | some y => readBytes y.bytes off 4
      | none => (List.range 4).map (Config.freeByte s.draw)
    (s.landThread r.bundle r.lane fun t => t.write d (BitVec.ofNat 32 (leNat bs))).dropReq r.id
  | _ => s

end Sys2Proof.Machine
end

