-- ==== Sys2Proof/Machine/Queues.lean ====
section
/-! DEFINITION. Queues (R393 to R399), packets (R401 to R404, R450), completion records and interrupts (R405 to R408), and the
packet events. -/

namespace Sys2Proof.Machine

/-! Mapping (R393, R394, R396, R399, R450). -/

/-- Whether a QCB meets R393 for a partition. -/
def qcbOk (p : Nat) (bs : List Byte) : Bool :=
  field bs 0 8 % 4096 == 0 && decide (field bs 0 8 < 2 ^ 56) && decide (4 ≤ field bs 8 1) && decide (field bs 8 1 ≤ 20) &&
  decide (field bs 9 1 ≤ 3) && field bs 10 1 == p && decide (field bs 11 1 ≤ 1) && zeroBytes bs 12 4 && zeroBytes bs 36 28

/-- The structures of a partition that its first mapping leases after its vector table, which names the handler range, with both rights
(R450); an address of 0 is absent. -/
def State.structures (s : State) (p : Nat) : List (Nat × Nat) :=
  let q := s.part p
  let v := q.vector.toNat
  let head := match if v = 0 then none else s.vread p v 12 with
    | some bs => [(field bs 0 8, field bs 8 4 * 65536)]
    | none => []
  let det := if q.det then [(q.logBase.toNat, q.logSize.toNat)] else []
  (head ++ [(q.fqBase.toNat, 64 * q.fqCap), (q.evBase.toNat, 32 * q.evSize), (q.savePool.toNat, q.saveSize.toNat)] ++ det).filter
    fun x => decide (0 < x.1) && decide (0 < x.2)

/-- Lease spans with both rights, one after the other. -/
def State.leaseAll (s : State) (p holder : Nat) : List (Nat × Nat) → Avail
  | [] => .ready s
  | (va, n) :: rest => match s.useSpan p va n true true with
    | .ready s => State.leaseAll (s.lease p va n holder) p holder rest
    | .wait => .wait
    | .bad => .bad

/-- Whether some slot of a partition is mapped. -/
def State.anyMapped (s : State) (p : Nat) : Bool := s.slots.any fun k => k.mapped && k.partition == p

/-- Lease a partition's structures at its first mapping; its handler range is translated then (R323). -/
def State.firstMapping (s : State) (p : Nat) : Avail :=
  if s.anyMapped p then .ready s
  else match (match s.leaseAll p (partHolder p) (if (s.part p).vector = 0 then [] else [((s.part p).vector.toNat, 512)]) with
      | .ready s => s.leaseAll p (partHolder p) (s.structures p)
      | a => a) with
    | .ready s =>
      let v := (s.part p).vector.toNat
      let xs := match if v = 0 then none else s.vread p v 12 with
        | some bs => match s.walkSpan p (field bs 0 8) (field bs 8 4 * 65536) true true false noVersion with
          | .ok xs => xs
          | .error _ => []
        | none => []
      .ready (s.modPart p fun q => { q with handlers := xs })
    | a => a

/-- Write a mapped slot's indices and state to its QCB (R393). -/
def State.writeQcb (s : State) (k : Nat) : State :=
  let x := s.slot k
  let st := (if x.mapped then 1 else 0) + (if x.error then 2 else 0) + if x.borrowed then 4 else 0
  (s.vwrite x.partition (x.qcb.toNat + 16) (leBytes 8 x.readIdx ++ leBytes 8 x.writeIdx ++ leBytes 4 st)).getD s

/-- A status-9 record for a slot (R406). -/
def State.queueRecord (s : State) (p source : Nat) (detail : DWord) (bitNo : Nat) : State :=
  s.event p 9 (recordBytes (s.timeIn p 0) source 9 0 detail 0 (2 ^ bitNo))

/-- Unmap a slot (R396): fetching stops, the QCB is written; the last slot of a partition ends its structures' leases. -/
def State.unmapQueue (s : State) (k : Nat) : State :=
  let x := s.slot k
  if !x.mapped then s.modSlot k fun x => { x with wants := none }
  else
    let s := (s.modSlot k fun x => { x with mapped := false }).writeQcb k
    let s := (s.modSlot k fun x => { x with error := false, borrowed := false, qcb := 0, barred := false, pushed := [] }).unlease (slotHolder k)
    if s.anyMapped x.partition then s
    else (s.unlease (partHolder x.partition)).modPart x.partition fun q => { q with handlers := [] }

/-- Reserved slots of a class (R394). -/
def reservedSlots (cls : Nat) : Nat := [8, 32, 16, 8].getD cls 0

/-- Mapped slots that are borrowed, or held from the reserve of a class. -/
def State.borrowedSlots (s : State) : List Slot := s.slots.filter fun k => k.mapped && k.borrowed
def State.reserveUsed (s : State) (cls : Nat) : Nat := (s.slots.filter fun k => k.mapped && !k.borrowed && k.cls == cls).length

/-- The borrowed slot that R396 reclaims for a class: of the lowest class below it, the most recently mapped. -/
def State.reclaimable (s : State) (cls : Nat) : Option Nat :=
  ((List.range 128).filter fun k => (s.slot k).mapped && (s.slot k).borrowed && decide (cls < (s.slot k).cls)).foldl (fun m k => match m with
    | none => some k
    | some j => if (s.slot j).cls < (s.slot k).cls ∨ ((s.slot j).cls = (s.slot k).cls ∧ (s.slot j).order < (s.slot k).order) then some k
      else some j) none

/-- Room for a map request of a class: whether the slot is borrowed, after a reclaim where one is needed; none: refused. -/
def State.slotRoom (s : State) (cls : Nat) : Option (State × Bool) :=
  if s.reserveUsed cls < reservedSlots cls then some (s, false)
  else if s.borrowedSlots.length < 64 then some (s, true)
  else (s.reclaimable cls).map fun v =>
    ((s.unmapQueue v).queueRecord (s.slot v).partition v (BitVec.ofNat 64 v) 0, true)

/-- A map request is refused (R399). -/
def State.refuseMap (s : State) (k : Nat) : State := s.modSlot k fun x => { x with lastRefused := true, wants := none }

/-- A partition's map request (R394, R399, R450); one that must wait for a migrating page is held, and tried again. -/
def State.mapFor (s : State) (k p : Nat) (qcb : DWord) : State :=
  let hold := s.modSlot k fun x => { x with wants := some (qcb, p) }
  if (s.slot k).mapped || decide (qcb.toNat % 64 ≠ 0) then s.refuseMap k
  else match s.useSpan p qcb.toNat 64 true true with
    | .wait => hold
    | .bad => s.refuseMap k
    | .ready s => match s.vread p qcb.toNat 64 with
      | none => s.refuseMap k
      | some bs =>
        if !(qcbOk p bs) then s.refuseMap k
        else match s.useSpan p (field bs 0 8) (64 * 2 ^ field bs 8 1) true false with
          | .wait => hold
          | .bad => s.refuseMap k
          | .ready s' => match s'.firstMapping p with
            | .wait => hold
            | .bad => s.refuseMap k
            | .ready s' => match s'.slotRoom (field bs 9 1) with
              | none => s.refuseMap k
              | some (s, borrowed) =>
                let s := (s.lease p qcb.toNat 64 (slotHolder k)).lease p (field bs 0 8) (64 * 2 ^ field bs 8 1) (slotHolder k)
                ((s.modSlot k fun _ => { qcb := qcb, mapped := true, borrowed := borrowed, partition := p, cls := field bs 9 1
                                         priv := bit (field bs 11 1) 0, base := field bs 0 8, log2 := field bs 8 1
                                         readIdx := field bs 16 8, writeIdx := field bs 24 8, order := s.fresh }).next).writeQcb k

/-- A slot's QCB register is written: an address is a request of the partition that the window register named then, 0 unmaps (R399). -/
def State.mapQueue (s : State) (p k : Nat) (qcb : DWord) : State :=
  if qcb = 0 then s.unmapQueue k else if s.bringup < 6 then s else s.mapFor k p qcb

/-- Map requests that wait for a page are tried again (R450). -/
def State.settleMaps (s : State) : State :=
  if s.slots.any (·.wants.isSome) then (List.range 128).foldl (fun s k => match (s.slot k).wants with
    | some (q, p) => s.mapFor k p q
    | none => s) s
  else s

/-- The partition a slot register's write concerns: the mapped queue's, or the window's. -/
def State.slotPart (s : State) (k : Nat) : Nat := if (s.slot k).mapped then (s.slot k).partition else s.winPartition

/-- Reset a queue (R399, R404): its error state is cleared. -/
def State.resetQueue (s : State) (k : Nat) : State :=
  if !(s.slot k).mapped then s else (s.modSlot k fun x => { x with error := false }).writeQcb k

/-- A write index is accepted: latched, and written to the QCB by the Headstock unless it is being replaced (R398, R411). -/
def State.acceptIndex (s : State) (k v : Nat) : State :=
  let s := s.modSlot k fun x => { x with writeIdx := v }
  if s.fetching then s.writeQcb k else s

/-- A doorbell (R398). -/
def State.doorbell (s : State) (k v : Nat) : State :=
  let x := s.slot k
  if s.bringup < 6 ∨ !x.mapped ∨ v < x.writeIdx then s
  else if x.readIdx + 2 ^ x.log2 < v then
    ((s.modSlot k fun x => { x with error := true }).writeQcb k).queueRecord x.partition k (BitVec.ofNat 64 v) 1
  else
    s.acceptIndex k v

/-- QUEUE_MAP: the QCB register of a slot is written with an address, or 0 (R399). -/
def execQueueMap (slot : Nat) (qcb : BitVec 64) (s : State) : Result :=
  .next (s.external (s.slotPart slot) (.queueMap s.winPartition slot qcb) (·.mapQueue s.winPartition slot qcb))

/-- QUEUE_UNMAP: 0 is written to the register (R396, R399). -/
def execQueueUnmap (slot : Nat) (s : State) : Result :=
  .next (s.external (s.slotPart slot) (.queueUnmap slot) (·.unmapQueue slot))

/-- QUEUE_RESET. -/
def execQueueReset (slot : Nat) (s : State) : Result :=
  .next (s.external (s.slotPart slot) (.queueReset slot) (·.resetQueue slot))

/-- DOORBELL. -/
def execDoorbell (slot : Nat) (value : BitVec 64) (s : State) : Result :=
  .next (s.external (s.slotPart slot) (.doorbell slot value.toNat) (·.doorbell slot value.toNat))

/-- PAGING_DOORBELL. -/
def execPagingDoorbell (partition : Nat) (s : State) : Result :=
  .next (s.external partition (.pagingDoorbell partition) (·.pagingDoorbell partition))

/-- REQUEUE and CANCEL commands. -/
def execRequeue (partition : Nat) (task : BitVec 32) (s : State) : Result :=
  .next (s.external partition (.requeue partition task) (·.requeue partition task))
def execCancel (partition : Nat) (task : BitVec 32) (s : State) : Result :=
  .next (s.external partition (.cancel partition task) (·.cancelTask partition task))

/-! The format of a packet (R401 to R403). -/

/-- Bytes +16 on that a packet type names (R402). -/
def namedEnd (type : Nat) : Nat := [64, 32, 32, 32, 56, 40, 33, 29, 32, 16].getD type 16

/-- The offset of the first field of a packet that breaks R401 or R402. -/
def packetBad (bs : List Byte) : Option Nat :=
  let ty := field bs 0 1
  let ctl := field bs 1 1
  let scope := bits ctl 3 1
  let head : List (Nat × Bool) :=
    [(0, decide (ty < 1 ∨ 9 < ty)), (1, decide (32 ≤ ctl) || [1, 2, 6, 7].contains scope), (2, !(zeroBytes bs 2 2)), (8, decide (field bs 8 8 % 8 ≠ 0))]
  let body : List (Nat × Bool) := match ty with
    | 4 => (List.range 5).map fun i => (16 + 8 * i, decide (field bs (16 + 8 * i) 8 % 8 ≠ 0))
    | 5 => (List.range 3).map fun i => (16 + 8 * i, decide (field bs (16 + 8 * i) 8 % 4 ≠ 0))
    | 6 => [(16, decide (field bs 16 8 % 8 ≠ 0)), (32, decide (1 < field bs 32 1))]
    | 7 => [(25, decide (field bs 25 1 < 1 ∨ 8 < field bs 25 1)), (26, decide (field bs 26 2 < 1 ∨ 100 < field bs 26 2)), (28, decide (3 < field bs 28 1))]
    | 8 => [(24, decide (field bs 24 8 % 16 ≠ 0))]
    | _ => []
  let reserved := (List.range (64 - namedEnd ty)).map fun i => (namedEnd ty + i, !(field bs (namedEnd ty + i) 1 == 0))
  ((head ++ body ++ reserved).find? Prod.snd).map Prod.fst

/-! Bodies. -/

/-- Lease a span that a packet names, with the rights it needs; a failure completes the packet at the field's offset (R450). -/
def State.needs (s : State) (pk : Packet) : List (Nat × Nat × Nat × Bool × Bool) → Taken
  | [] => .ok s
  | (off, va, n, r, w) :: rest =>
    if n = 0 then State.needs s pk rest
    else match s.useSpan pk.partition va n r w with
      | .wait => .wait
      | .bad => .launch s (BitVec.ofNat 64 off)
      | .ready s => State.needs (s.lease pk.partition va n (packetHolder pk.id)) pk rest

/-- MEASURE's pages: the Headstock expands them, and waits for a migrating one, before it reads them (R450). -/
def State.measurePages (s : State) (p : Nat) (d : List Byte) : Option State :=
  [(field d 0 8, 32 * field d 8 4), (field d 16 8, 48 * field d 24 2), (field d 32 8, 128 * field d 40 2)].foldl (fun s x => s.bind fun s =>
    match s.useSpan p x.1 x.2 true false with
    | .wait => none
    | .bad => some s
    | .ready s => some s) (some s) >>= fun s =>
  (streamSpans ((s.vread p (field d 16 8) (48 * field d 24 2)).getD []) (field d 24 2)).foldl (fun s x => s.bind fun s =>
    match s.useSpan p x.1 x.2 true false with
    | .wait => none
    | .bad => some s
    | .ready s => some s) (some s)

/-- What the Headstock checks and leases of a packet's body when it takes it. -/
def State.body (s : State) (pk : Packet) : Taken :=
  match pk.word 0 1 with
  | 1 => s.bodyTree pk
  | 2 => s.bodyTask pk
  | 3 => s.bodyGang pk
  | 4 => s.needs pk ((List.range 5).filterMap fun i => let a := pk.word (16 + 8 * i) 8
      if a = 0 then none else some (16 + 8 * i, a, 8, true, false))
  | 5 => s.needs pk [(16, pk.word 16 8, pk.word 32 8, true, false), (24, pk.word 24 8, pk.word 32 8, false, true)]
  | 6 => s.needs pk [(16, pk.word 16 8, 8, false, true)]
  | 7 => s.takeWnode pk
  | 8 => s.needs pk [(16, pk.word 16 8, 128, true, false), (24, pk.word 24 8, 48, false, true)]
  | _ => .ok s

/-- MEASURE (R214): walk and write the record; none while a page must be waited for. -/
def State.measure (s : State) (pk : Packet) : Option State :=
  match s.vread pk.partition (pk.word 16 8) 128 with
  | none => some (s.endPacket pk.id 0 0 0 0)
  | some d =>
    let bad := decide (pk.word 16 8 % 64 ≠ 0) || descHeadBad d true || (s.gridDies pk.partition d).isEmpty
    (if bad then some s else s.measurePages pk.partition d).map fun s =>
      let rd : Reader := fun va n => (s.vread pk.partition va n).getD ((List.range n).map (Config.freeByte s.draw))
      let m : Measured := if bad then { failed := some (0, noParent) } else measureTree rd d true
      ((s.vwrite pk.partition (pk.word 24 8) m.record).getD s).endPacket pk.id 0 0 0 0

/-- A signal is stored, or added to, at its address's home (R402, R404). -/
def State.signalHome (s : State) (p pa : Nat) (add : Bool) (v : Nat) : State :=
  s.headStore p pa (leBytes 8 (if add then (leNat (readBytes s.mem pa 8) + v) % 2 ^ 64 else v))

/-- A partition's packet updates a signal; one in the memory of another partition that runs in deterministic mode is an external input
there (R425). -/
def State.signalAt (s : State) (p pa : Nat) (add : Bool) (v : Nat) : State :=
  match (List.range 8).find? fun d => d ≠ p && (s.part d).det && s.partMem d pa with
  | some d => s.external d (.signal d p pa add v) (·.signalHome p pa add v)
  | none => s.signalHome p pa add v

/-- SIGNAL (R402): a store, or an addition, at the address's home. -/
def State.signalPacket (s : State) (pk : Packet) : State :=
  let s := match s.vpa pk.partition (pk.word 16 8) true with
    | some pa => s.signalAt pk.partition pa (pk.word 32 1 ≠ 0) (pk.word 24 8)
    | none => s
  s.endPacket pk.id 0 0 0 0

/-- A COPY begins (R402); its engine is its die's, and no thread's tag counts it. -/
def State.copyPacket (s : State) (pk : Packet) : State :=
  if pk.word 32 8 = 0 then s.endPacket pk.id 0 0 0 0
  else
    let c : CopyCmd := { id := s.fresh, block := pk.partition, bundle := pk.die, lane := 32, stream := 0, pc := 0, src := pk.word 16 8, valid := 0
                         off := 0, tag := 0, b := false, packet := some (pk.word 24 8, pk.word 32 8, pk.id) }
    { s with copies := s.copies ++ [c] }.next

/-- Begin a packet that nothing holds back (R404): none while it must wait. -/
def State.begin (s : State) (pk : Packet) : Option State :=
  let s' := s.modPacket pk.id fun x => { x with started := true }
  match pk.word 0 1 with
  | 5 => some (s'.copyPacket pk)
  | 6 => if s'.headWaits pk.partition (pk.word 16 8) then none else some (s'.signalPacket pk)
  | 7 => match s'.bodyWnode pk with
    | .ok s => some s
    | .launch s d => some (s.endPacket pk.id 1 0 d 0)
    | .wait => none
  | 8 => s'.measure pk
  | 9 => some (s'.endPacket pk.id 0 0 0 0)
  | _ => some s'

/-- What a packet had set up is undone: it completes without running (R404). -/
def State.dropWork (s : State) (p : Nat) : State :=
  let ts := s.tasks.filter (·.packet == p)
  let gs := s.grids.filter (·.packet == p)
  let s := { s with
    tasks := s.tasks.filter fun t => !(t.packet == p)
    grids := s.grids.filter fun g => !(g.packet == p)
    gangs := s.gangs.filter fun g => !(g.tasks.any fun i => ts.any (·.id == i))
    wnodes := s.wnodes.filter fun n => !(n.packet == p && !n.installed) }
  let s := gs.foldl (fun s g => s.endUnit g.id true) s
  (distinct (ts.filterMap fun t => t.unit.map (·.1))).foldl (fun s u => s.endUnit u true) s

/-- A BARRIER finds a negative signal (R404): status 4, its queue is in error, and the packets its barrier bit held back complete
with status 4 without running. -/
def State.abortBarrier (s : State) (pk : Packet) : State :=
  let here (k : Slot) : Bool := k.mapped && k.partition == pk.partition && k.qcb == pk.qcb
  let s := s.endPacket pk.id 4 0 0 0
  let s := ((List.range 128).filter fun k => here (s.slot k)).foldl (fun s k => (s.modSlot k fun x => { x with error := true }).writeQcb k) s
  if !pk.barrierBit then s
  else (s.packets.filter fun q => q.partition == pk.partition && q.qcb == pk.qcb && decide (pk.id < q.id)).foldl (fun s q =>
    (s.dropWork q.id).modPacket q.id fun x => { x with left := 0, status := some (4, 0, 0, 0), started := true, seq := s.fresh, gap := !s.fetching, ended := s.timeIn q.partition 0 }) s

/-- A BARRIER looks at its signals (R404). -/
def State.checkBarrier (s : State) (pk : Packet) : State :=
  let vals := (List.range 5).filterMap fun i => let a := pk.word (16 + 8 * i) 8
    if a = 0 then none else (s.vread pk.partition a 8).map leNat
  if vals.any fun v => decide (2 ^ 63 ≤ v) then s.abortBarrier pk
  else if vals.all (· == 0) then s.endPacket pk.id 0 0 0 0
  else s

/-- Whether an earlier packet of the queue has not begun: packets of a queue begin in index order (R404). -/
def State.beginsAfter (s : State) (pk : Packet) : Bool :=
  s.packets.any fun q => q.partition == pk.partition && q.qcb == pk.qcb && decide (q.id < pk.id) && !q.started && q.status.isNone

/-- Packets begin and BARRIERs look, in the order they were taken; a COPY ends when its last line is written. -/
def State.settlePackets (s : State) : State :=
  let one (s : State) (id : Nat) : State := match s.packet? id with
    | none => s
    | some pk =>
      if pk.status.isSome || s.heldBack pk then s
      else
        let s := if pk.started || s.beginsAfter pk then s else (s.begin pk).getD s
        if pk.word 0 1 = 4 ∧ ((s.packet? id).map (·.started)) = some true then s.checkBarrier pk else s
  let s := (s.packets.map (·.id)).foldl one s
  let ended := s.copies.filter fun c => c.packet.isSome && s.engineWritten c.id
  ended.foldl (fun s c => match c.packet with
    | some (_, _, p) =>
      let pa := ((s.packet? p).map (·.partition)).getD 0
      let w := (c.written.map fun ln => (s.line ln).wts).foldl max 0
      let s := s.modPart pa fun q => { q with seen := max q.seen w }
      { s with copies := s.copies.filter fun x => !(x.id == c.id) }.endPacket p 0 0 0 0
    | none => s) s

/-! Taking packets (R395, R404, R407, R411). -/

/-- Whether a slot has a packet ready and its partition is fetched for. -/
def State.hasPacket (s : State) (k : Nat) : Bool :=
  (s.slot k).mapped && decide ((s.slot k).readIdx < (s.slot k).writeIdx) && decide ((s.part (s.slot k).partition).evHeld.length ≤ 4096)

/-- The bytes of a slot's next packet. -/
def State.nextPacket (s : State) (k : Nat) : Option (List Byte) :=
  let x := s.slot k
  s.vread x.partition (x.base + 64 * (x.readIdx % 2 ^ x.log2)) 64

/-- The packet of some bytes at a slot's read index; a TREE, TASK or GANG has begun once it is taken. -/
def State.packetOf (s : State) (k : Nat) (bs : List Byte) : Packet :=
  let x := s.slot k
  let pk : Packet := { id := s.fresh, slot := k, partition := x.partition, die := slotDie k, index := x.readIdx, bytes := bs, qcb := x.qcb
                       cls := x.cls, priv := x.priv }
  { pk with acq := s.packetAcq pk, started := decide (pk.word 0 1 ≤ 3) }

/-- A packet joins those taken: the rotation of its class stands at its slot, and the slot's read index moves on (R393, R395). -/
def State.withPacket (s : State) (pk : Packet) : State :=
  let s := { s with packets := s.packets ++ [pk], rotor := s.rotor.set pk.cls pk.slot }.next
  (s.modSlot pk.slot fun x => { x with readIdx := x.readIdx + 1, barred := x.barred || pk.barrierBit }).writeQcb pk.slot

/-- Take a slot's next packet: none where the Headstock must wait. -/
def State.tryTake (s : State) (k : Nat) : Option State :=
  let x := s.slot k
  (s.nextPacket k).bind fun bs =>
    let pk := s.packetOf k bs
    let s := s.withPacket pk
    let bad (s : State) : State := s.modPacket pk.id fun y => { y with signalOk := false }
    let sig := pk.word 8 8
    let format := if x.error then none else packetBad bs
    if sig ≠ 0 ∧ sig % 8 ≠ 0 then
      some ((bad s).endPacket pk.id (if x.error then 4 else 1) 0 (BitVec.ofNat 64 (format.getD 0)) 0)
    else match if sig = 0 then .ready s else s.useSpan x.partition sig 8 true true with
      | .wait => none
      | .bad => some ((bad s).endPacket pk.id (if x.error then 4 else 1) 0 (BitVec.ofNat 64 (if x.error then 0 else format.getD 8)) 0)
      | .ready s =>
        let s := if sig = 0 then s else s.lease x.partition sig 8 (packetHolder pk.id)
        if x.error then some (s.endPacket pk.id 4 0 0 0)
        else match format with
          | some o => some (s.endPacket pk.id 1 0 (BitVec.ofNat 64 o) 0)
          | none => match s.body pk with
            | .ok s => some s
            | .launch s d => some (s.endPacket pk.id 1 0 d 0)
            | .wait => none

/-- Places after a slot in its class's rotation. -/
def rotation (last k : Nat) : Nat := (k + 127 - last) % 128

/-- Whether the Headstock serves another slot first (R395): a higher class, or an earlier one in the rotation of its class. -/
def State.servedBefore (s : State) (k : Nat) : Bool :=
  let c := (s.slot k).cls
  (List.range 128).any fun j => j ≠ k && s.hasPacket j && (s.tryTake j).isSome && (decide ((s.slot j).cls < c) ||
    ((s.slot j).cls == c && decide (rotation (s.rotor.getD c 127) j < rotation (s.rotor.getD c 127) k)))

/-- Take a packet of a type (R404); NOP's event also takes one of an unknown type. -/
def State.takePacket (s : State) (type k : Nat) : State :=
  let ty := ((s.nextPacket k).map fun bs => field bs 0 1).getD 0
  let mine := ty == type || (type == 9 && decide (ty < 1 ∨ 9 < ty))
  if !s.fetching || !(s.hasPacket k) || !mine || s.servedBefore k then s else (s.tryTake k).getD s

def execTree (slot : Nat) (s : State) : Result := .next (s.takePacket 1 slot)
def execTask (slot : Nat) (s : State) : Result := .next (s.takePacket 2 slot)
def execGang (slot : Nat) (s : State) : Result := .next (s.takePacket 3 slot)
def execBarrier (slot : Nat) (s : State) : Result := .next (s.takePacket 4 slot)
def execCopy (slot : Nat) (s : State) : Result := .next (s.takePacket 5 slot)
def execSignal (slot : Nat) (s : State) : Result := .next (s.takePacket 6 slot)
def execWnode (slot : Nat) (s : State) : Result := .next (s.takePacket 7 slot)
def execMeasure (slot : Nat) (s : State) : Result := .next (s.takePacket 8 slot)
def execNopPacket (slot : Nat) (s : State) : Result := .next (s.takePacket 9 slot)

/-! Completion (R404 to R408, R412). -/

/-- Update a packet's signal (R404): ATOM.ADD.d of −1 on status 0, else a store of −1. -/
def State.updateSignal (s : State) (pk : Packet) (status : Nat) : State :=
  if pk.word 8 8 = 0 ∨ !pk.signalOk then s
  else match s.vpa pk.partition (pk.word 8 8) true with
    | none => s
    | some pa => s.signalAt pk.partition pa (status = 0) (2 ^ 64 - 1)

/-- Complete a packet whose work is over: its signal, then its record. -/
def State.complete (s : State) (pk : Packet) (st : Nat × Nat × DWord × Nat) : State :=
  let s := s.updateSignal pk st.1
  let word := if st.1 = 5 then st.2.2.2 else pk.word 4 4
  let s := if st.1 = 0 ∧ !pk.records then s
    else s.event pk.partition st.1 (recordBytes (if pk.gap then pk.ended else s.timeIn pk.partition 0) pk.source st.1 st.2.1 st.2.2.1 word 0)
  { s.unlease (packetHolder pk.id) with packets := s.packets.filter fun x => !(x.id == pk.id) }

/-- PACKET_COMPLETION: not while work of it is left, nor while it is held back, nor between leaders, nor while its signal's line is held; completions of a gap go in their order (R404, R412). -/
def execPacketCompletion (op : Nat) (s : State) : Result :=
  .next (match s.packet? op with
    | none => s
    | some pk => match pk.status with
      | none => s
      | some st =>
        let before := pk.gap && s.packets.any fun q => q.gap && q.status.isSome && decide (q.seq < pk.seq)
        if decide (0 < pk.left) || s.heldBack pk || !s.fetching || before || (decide (pk.word 8 8 ≠ 0) && s.headWaits pk.partition (pk.word 8 8)) then s
        else s.complete pk st)

/-- HELD_RECORD_FLUSH: room has appeared in the event ring (R407). -/
def execHeldRecordFlush (partition : Nat) (s : State) : Result := .next (s.flushEvents partition)

/-- INTERRUPT_COALESCE_TIMEOUT: the oldest pending record has waited T (R408). -/
def execInterruptCoalesceTimeout (partition : Nat) (s : State) : Result :=
  .next (let q := s.part partition
    match q.evOldest with
    | some c => if 0 < q.evPending ∧ c + 1050 * q.coalesceT ≤ s.clk then
        (s.modPart partition fun q => { q with evPending := 0, evOldest := none }).msix q.vectorNo
      else s
    | none => s)

/-- MSI_X_VECTOR_UNMASK: a pending message is delivered (R408). Only the 2,048 vectors of the table exist. -/
def State.unmask (s : State) (vector : Nat) : State :=
  (let pend := s.msixPending.contains vector
    let s := { s with msixOpen := distinct (vector :: s.msixOpen), msixPending := s.msixPending.filter fun v => !(v == vector) }
    if pend then s.msix vector else s)

def execMsiXVectorUnmask (vector : Nat) (s : State) : Result := .next (s.unmask vector)

/-- Software has freed entries of the fault queue (R368, R400). -/
def State.readFaults (s : State) (p : Nat) (v : Nat) : State := (s.modPart p fun q => { q with fqRead := v % 2 ^ 32 }).flushFaults p

/-- FAULT_QUEUE_READ_INDEX_WRITE. -/
def execFaultQueueReadIndexWrite (partition : Nat) (value : BitVec 64) (s : State) : Result :=
  .next (s.external partition (.faultRead partition value.toNat) (·.readFaults partition value.toNat))

end Sys2Proof.Machine
end

