-- ==== Sys2Proof/Machine/Headstock.lean ====
section
/-! DEFINITION. Inbound accesses (R391, R410), write-with-enqueue (R409), the Headstock's leader (R411, R412) and the partition
configuration block (R16 to R19). -/

namespace Sys2Proof.Machine

/-! Inbound accesses. -/

/-- Answer an inbound access of a partition. -/
def State.answer (s : State) (p op : Nat) (ok : Bool) (data : List Byte) : State := s.send p (.answer op ok data)

/-- A status-8 record at the target (R406, R410). -/
def State.inboundRecord (s : State) (p : Nat) (va : Nat) (timeout write host : Bool) (pkg : Nat) : State :=
  let w := (if timeout then 1 else 0) + (if write then 2 else 0) + (if host then 4 else 0) + 65536 * ((if host then s.pkg else pkg) % 512)
  s.event p 8 (recordBytes (s.timeIn p 0) 0x7F 8 0 (BitVec.ofNat 64 va) 0 w)

/-- The first page of a span that a partition's table does not serve with the rights (R391). -/
def State.faultPage (s : State) (p va n : Nat) (r w : Bool) : Nat := match s.walkSpan p va n r w false noVersion with
  | .error (.absent a) => a
  | _ => va

/-- Serve an inbound access, hold it while a page migrates or a line's home holds it (R200, R246, R249), or answer it with an error
(R391). -/
def State.serve (s : State) (x : Inbound) : State :=
  let drop (s : State) : State := { s with inbound := s.inbound.filter fun y => !(y.id == x.id) }
  let va := x.va.toNat
  match s.useSpan x.partition va x.size x.write.isNone x.write.isSome with
  | .wait => s
  | .bad => ((drop s).inboundRecord x.partition (max va (s.faultPage x.partition va x.size x.write.isNone x.write.isSome)) false x.write.isSome
      x.host x.pkg).answer x.partition x.id false []
  | .ready s => match (List.range x.size).mapM fun i => s.vpa x.partition (va + i) x.write.isSome with
    | none => s
    | some pas =>
      if (distinct (pas.map (· / 64))).any fun ln => s.lineHeld ln (0, 64) x.write.isSome then s
      else match x.write with
        | none => (pas.foldl State.touch (drop s)).answer x.partition x.id true (pas.map (readByte s.mem))
        | some bs =>
          let s := (distinct (pas.map (· / 64))).foldl (fun s ln => s.undoFor x.partition ln) (drop s)
          ((byLine (pas.zip bs)).foldl (fun s y => s.headLine { part := none, bytes := y }) s).answer x.partition x.id true []

/-- The partition and the virtual address of an inbound access: the host's offset lies in the 64 GiB of BAR2, which the window register
maps (R397); a peer's mapping names both. -/
def State.inboundAt (s : State) (p source : Nat) (va : DWord) : Nat × DWord :=
  if source = 0 then (s.winPartition, s.winBase + BitVec.ofNat 64 (va.toNat % 2 ^ 36)) else (p, va)

/-- An access arrives, or is tried again. -/
def State.inboundAccess (s : State) (op p source : Nat) (va : DWord) (size : Nat) (data : List Byte) : State :=
  match s.inbound.find? fun x => x.id == op && x.enqueue.isNone with
  | some x => s.serve x
  | none =>
    let x : Inbound := { id := op, partition := p, va := va, size := if data.isEmpty then size else data.length
                         write := if data.isEmpty then none else some data, host := source == 0, pkg := source - 1, arrived := s.clk }
    ({ s with inbound := s.inbound ++ [x] }).serve x

/-- INBOUND_ACCESS: source 0 is the host, whose address is its offset in BAR2 (R397), k + 1 package k; no data is a read (R391). -/
def execInboundAccess (op partition source : Nat) (va : BitVec 64) (size : Nat) (data : List (BitVec 8)) (s : State) : Result :=
  .next (let x := s.inboundAt partition source va
    if s.inbound.any fun y => y.id == op && y.enqueue.isNone then s.inboundAccess op x.1 source x.2 size data
    else s.external x.1 (.access op x.1 source x.2 size data) (·.inboundAccess op x.1 source x.2 size data))

/-! Write-with-enqueue (R409). -/

/-- A byte of memory with a thread's own stores that have not reached it (R148, R149), newest last. -/
def State.ownByte (s : State) (b l pa : Nat) : Byte :=
  s.reqs.foldl (fun v r => match r.kind, r.place with
    | .store d _, .mem q => if r.of b l && !(r.phase.isDone) && decide (q ≤ pa) && decide (pa < q + d.length) then d.getD (pa - q) 0 else v
    | _, _ => v) (readByte s.mem pa)

/-- The bytes of a thread's virtual span in local memory, as the thread sees them; a byte that is nowhere is free. -/
def State.localBytes (s : State) (b : Bundle) (l va n : Nat) : List Byte :=
  (List.range n).map fun i => match s.globalPlace b 0 (BitVec.ofNat 64 (va + i)) with
    | .mem pa => s.ownByte b.id l pa
    | _ => Config.freeByte s.draw i

/-- Whether some byte of a span lies in a peer mapping of a partition. -/
def State.peerMeets (s : State) (p va n : Nat) : Bool := s.peerMaps.any fun m => m.partition == p && overlap m.base m.len va n

/-- The offset of the first field of a descriptor out of its range. -/
def enqueueBad (d : List Byte) : Option Nat :=
  (([(0, decide (field d 0 8 % 4 ≠ 0)), (8, decide (field d 8 4 % 4 ≠ 0) || decide (2 ^ 20 < field d 8 4)), (12, decide (511 < field d 12 2)),
     (14, decide (127 < field d 14 1)), (15, !(zeroBytes d 15 1)), (16, decide (field d 16 8 % 4 ≠ 0)),
     (24, decide (field d 24 8 % 64 ≠ 0)), (32, !(zeroBytes d 32 32))] : List (Nat × Bool)).find? Prod.snd).map Prod.fst

/-- The checks of PWENQ at issue; both sources are local: no peer mapping holds them. -/
def enqueueChecks (a : BitVec 7) : Check := fun s _ b l t =>
  let ea := t.pair a.toNat
  match s.globalChecks b 0 ea 64 true false 64 with
  | [] =>
    let d := s.localBytes b l ea.toNat 64
    (match enqueueBad d with
      | some o => [{ cause := 3, detail := BitVec.ofNat 64 o }]
      | none =>
        let far (va n : Nat) : Bool := s.peerMeets (s.partOf b) va n
        if far (field d 0 8) (field d 8 4) then [{ cause := 3, detail := 0 }]
        else if far (field d 24 8) 64 then [{ cause := 3, detail := 24 }] else []) ++
    (if field d 8 4 = 0 then [] else s.globalChecks b 0 (BitVec.ofNat 64 (field d 0 8)) (field d 8 4) true false 1) ++
    s.globalChecks b 0 (BitVec.ofNat 64 (field d 24 8)) 64 true false 1
  | ts => ts

def execPwenq (a d : BitVec 7) (s : State) : Result :=
  runLanes (.pwenq a d) (enqueueChecks a) (fun s g b l =>
    let ea := (s.thread b.id l).pair a.toNat
    ((s.modThread b.id l (·.mark d.toNat .pending)).addReq
      (s.newReq g b l 0 (.pwenq d.toNat (s.localBytes b l ea.toNat 64) [] []) .nowhere ea 64 s.fresh), .next)) s

/-- A PWENQ leaves once every earlier access of its thread has performed at `.pod`: payload and packet are read then. -/
def State.sendEnqueue (s : State) (r : Req) : State :=
  match r.kind, s.anyBundle r.bundle with
  | .pwenq dst d _ _, some b =>
    if !(s.inOrder r) then s
    else if !(s.allPerformed b r.lane 5 0 (some r.id)) then s.writeBackFor b
    else
      let pay := s.localBytes b r.lane (field d 0 8) (field d 8 4)
      let pkt := s.localBytes b r.lane (field d 24 8) 64
      let s := s.drawn.modReq r.id fun r => { r with phase := .sent, kind := .pwenq dst d pay pkt, sentAt := s.clk }
      if field d 12 2 = s.pkg then s else s.send (s.partOf b) (Message.peer (field d 12 2) (d ++ pay ++ pkt))
  | _, _ => s

/-- Every PWENQ that waits to leave. -/
def State.settleEnqueues (s : State) : State :=
  let wait (r : Req) : Bool := r.phase == .issued && match r.kind with
    | .pwenq _ _ _ _ => true
    | _ => false
  (s.reqs.filter wait).foldl State.sendEnqueue s

/-- The answer of a target: reply 0 to 2, or the page that faulted. -/
inductive EnqueueAnswer where
  | reply (s : State) (code : Nat)
  | fault (s : State) (page : Nat)
  | wait

/-- A write-with-enqueue at its target. -/
def State.enqueueAt (s : State) (pkg p : Nat) (d pay pkt : List Byte) : EnqueueAnswer :=
  let k := field d 14 1
  let x := s.slot k
  let va := field d 16 8
  if !x.mapped ∨ x.partition ≠ p then .reply s 2
  else if x.readIdx + 2 ^ x.log2 ≤ x.writeIdx then .reply s 1
  else match if pay.isEmpty then .ready s else s.useSpan p va pay.length false true with
    | .wait => .wait
    | .bad =>
      let page := s.faultPage p va pay.length false true / 65536 * 65536
      .fault (s.inboundRecord p page false true false pkg) page
    | .ready s =>
      let lines (va n : Nat) : List Nat := distinct ((List.range n).filterMap fun i => (s.vpa p (va + i) true).map (· / 64))
      if (lines va pay.length).any (s.headHeld (some p)) then .wait else
      let put (s : State) (va : Nat) (bs : List Byte) (wr : Bool) : State :=
        ((List.range bs.length).filterMap fun i => (s.vpa p (va + i) wr).map fun pa => (pa, bs.getD i 0)).foldl (fun s y => s.headStore p y.1 [y.2]) s
      let s := put s va pay true
      let s := put s (x.base + 64 * (x.writeIdx % 2 ^ x.log2)) pkt false
      .reply ((s.modSlot k fun y => { y with pushed := y.pushed ++ [x.writeIdx] }).acceptIndex k (x.writeIdx + 1)) 0

/-- What a target's answer becomes in a request of this package: code 3 is an error reply. -/
def State.enqueueDone (s : State) (op : Nat) (code page : Nat) : State :=
  s.modReq op fun r => { r with phase := .done 0 0 0 [BitVec.ofNat 32 code, BitVec.ofNat 32 (page % 2 ^ 32), BitVec.ofNat 32 (page / 2 ^ 32)] }

/-- An error reply to a peer's write-with-enqueue, with a page (R409, R410). -/
def State.enqueueError (s : State) (p op pkg page : Nat) : State := s.send p (Message.peer pkg (leBytes 8 op ++ leBytes 2 3 ++ leBytes 8 page))

/-- A PWENQ of this package to itself, or one of a peer, is served; a peer's that must wait is an inbound access from its arrival on
(R410). -/
def State.serveEnqueue (s : State) (op pkg p : Nat) (desc payload packet : List Byte) : State :=
  match s.req? op with
  | some r => match r.kind, r.phase, s.anyBundle r.bundle with
    | .pwenq _ d pay pkt, .sent, some b =>
      if field d 12 2 ≠ s.pkg then s
      else match s.enqueueAt s.pkg (s.partOf b) d pay pkt with
        | .wait => s
        | .reply s c => s.enqueueDone op c 0
        | .fault s page => s.enqueueDone op 3 page
    | _, _, _ => s
  | none =>
    let mine (x : Inbound) : Bool := x.id == op && x.enqueue.isSome
    let drop (s : State) : State := { s with inbound := s.inbound.filter fun x => !(mine x) }
    match s.enqueueAt pkg p desc payload packet with
    | .wait => if s.inbound.any mine then s
        else { s with inbound := s.inbound ++ [{ id := op, partition := p, va := BitVec.ofNat 64 (field desc 16 8), size := payload.length, write := some payload
                                                 host := false, pkg := pkg, arrived := s.clk, enqueue := some (desc, packet) }] }
    | .reply s c => (drop s).send p (Message.peer pkg (leBytes 8 op ++ leBytes 2 c))
    | .fault s page => (drop s).enqueueError p op pkg page

/-- INBOUND_TIMEOUT: a host or peer access, or a peer's write-with-enqueue, not served within 2 ms of its arrival (R391, R410). -/
def execInboundTimeout (op : Nat) (s : State) : Result :=
  .next (match s.inbound.find? (·.id == op) with
    | none => s
    | some x =>
      if s.clk < x.arrived + 2100000 then s
      else
        let s := ({ s with inbound := s.inbound.filter fun y => !(y == x) }).inboundRecord x.partition x.va.toNat true x.write.isSome x.host x.pkg
        if x.enqueue.isSome then s.enqueueError x.partition op x.pkg (x.va.toNat / 65536 * 65536) else s.answer x.partition op false [])

/-- PWENQ_AT_TARGET: op names a request of this package, or a peer's message with what it carries. -/
def execPwenqAtTarget (op : Nat) (pkg : BitVec 16) (partition : Nat) (desc payload packet : List (BitVec 8)) (s : State) : Result :=
  .next (if (s.req? op).isSome || s.inbound.any (fun y => y.id == op && y.enqueue.isSome) then s.serveEnqueue op pkg.toNat partition desc payload packet
    else s.external partition (.enqueue op pkg.toNat partition desc payload packet)
      (·.serveEnqueue op pkg.toNat partition desc payload packet))

/-- Fill or poison a PWENQ's destination. An error reply's status is a free value: no rule gives it. -/
def State.finishEnqueue (s : State) (op code : Nat) (page : DWord) (status : BitVec 16) : State :=
  match s.req? op with
  | none => s
  | some r => match r.kind with
    | .pwenq dst _ _ _ =>
      (s.dropReq op).landThread r.bundle r.lane fun t =>
        if code ≤ 2 then t.write dst (BitVec.ofNat 32 code) else t.mark dst (.poisoned r.pc page status)
    | _ => s

/-- A reply from another package reaches its sender. -/
def State.enqueueReply (s : State) (op code : Nat) (page : DWord) : State :=
  match s.req? op with
  | some r => if r.phase == .sent then s.drawn.finishEnqueue op code page (BitVec.ofNat 16 (Config.pick s.draw)) else s
  | none => s

/-- The partition of a request's thread. -/
def State.reqPart (s : State) (op : Nat) : Nat := (((s.req? op).bind fun r => s.anyBundle r.bundle).map s.partOf).getD 0

/-- PWENQ_REPLY: a reply of 0, 1 or 2, or an error reply with a page; a request served here already has its answer. -/
def execPwenqReply (op : Nat) (code : BitVec 16) (page : BitVec 64) (s : State) : Result :=
  .next (match ((s.req? op).map (·.phase) : Option Phase) with
    | some (.done _ _ _ [c, lo, hi]) => s.drawn.finishEnqueue op c.toNat (hi ++ lo) (BitVec.ofNat 16 (Config.pick s.draw))
    | some .sent => s.external (s.reqPart op) (.enqueueReply op code.toNat page) (·.enqueueReply op code.toNat page)
    | _ => s)

/-- No reply within 4 ms of sending. The poison's address is free: no rule gives one. -/
def State.noReply (s : State) (op : Nat) : State :=
  match s.req? op with
  | some r => if r.phase == .sent && decide (r.sentAt + 4200000 ≤ s.clk) then
      s.drawn.finishEnqueue op 3 (BitVec.ofNat 64 (Config.pick s.draw)) 0xFFFF#16
    else s
  | none => s

/-- PWENQ_NO_REPLY. -/
def execPwenqNoReply (op : Nat) (s : State) : Result := .next (s.external (s.reqPart op) (.noReply op) (·.noReply op))

/-! The leader (R411, R412). -/

/-- LEADER_RENEW: the leader sets the expiry to now plus 1 ms. -/
def execLeaderRenew (s : State) : Result :=
  .next (if s.leaderValid && decide (s.time 0 ≤ s.expiry) then { s with expiry := s.time s.leaderDie + 1000000 } else s)

/-- LEADER_POLL: a follower past the expiry takes the lease with the next epoch; none before step 3 of bring-up (R437). -/
def execLeaderPoll (die : Nat) (s : State) : Result :=
  .next (if decide (3 < die) || decide (s.bringup < 3) || (s.leaderValid && (s.leaderDie == die || decide (s.time die ≤ s.expiry))) then s
    else { s with leaderDie := die, leaderValid := true, epoch := (s.epoch + 1) % 2 ^ 29, expiry := s.time die + 1000000, takingOver := true })

/-- HEADSTOCK_TAKEOVER: the slot map is rebuilt from the QCBs, the latched doorbells are adopted, and every partition's ring gets a
status-9 record with the epoch. -/
def execHeadstockTakeover (die : Nat) (s : State) : Result :=
  .next (if !s.takingOver || !(s.leaderDie == die) then s
    else
      let s := (List.range 128).foldl (fun s k => if (s.slot k).mapped then s.writeQcb k else s) { s with takingOver := false }
      ((List.range 8).filter fun p => !((s.part p).mode == 0)).foldl (fun s p => s.queueRecord p 0x7F (BitVec.ofNat 64 s.epoch) 2) s)

/-! The partition configuration block (R16 to R19). -/

/-- The quads of an entry's mask. -/
def entryQuads (e : List Byte) : List Nat := (List.range 160).filter fun q => bit (field e (q / 8) 1) (q % 8)

/-- Result 2: a reserved byte, or a field that breaks R19. DESIGN CHOICE (log entry 116): an entry of mode 1 or 2 may hold no quad. -/
def tableEntryBad (e : List Byte) : Bool :=
  let m := field e 20 1
  decide (2 < m) || !(zeroBytes e 23 41) || (m == 0 && !(entryQuads e).isEmpty) ||
  (decide (m ≤ 1) && !(zeroBytes e 21 2)) ||
  (m == 2 && (decide (field e 21 1 < 2 ∨ 14 < field e 21 1) || decide (field e 22 1 < 4 ∨ 28 < field e 22 1)))

/-- Result 4: a die on which the isolated reservations leave too little (R18). -/
def overReserved (t : List (List Byte)) : Bool :=
  (List.range 4).any fun d =>
    let here := t.filter fun e => field e 20 1 == 2 && (entryQuads e).any fun q => q / 40 == d
    decide (14 < (here.map fun e => field e 21 1).sum) || decide (28 < (here.map fun e => field e 22 1).sum)

/-- Whether an entry changes a partition's quads or mode. -/
def State.entryChanges (s : State) (p : Nat) (e : List Byte) : Bool := !(entryQuads e == (s.part p).quads) || !(field e 20 1 == (s.part p).mode)

/-- The result of checking a table (R19): none when every check passes. -/
def State.tableBad (s : State) (t : List (List Byte)) : Option Nat :=
  let all := t.flatMap entryQuads
  let at_ (p : Nat) : List Byte := t.getD p []
  let ps := List.range 8
  if t.any tableEntryBad then some 2
  else if (List.range 160).any fun q => !(all.count q == 1) then some 3
  else if overReserved t then some 4
  else if ps.any fun p => s.entryChanges p (at_ p) && s.anyMapped p then some 5
  else if ps.any fun p => (bit (s.part p).control.toNat 4 || bit (s.part p).control.toNat 5) &&
      (field (at_ p) 20 1 == 1 || !(entryQuads (at_ p) == (s.part p).quads)) then some 6
  else none

/-- Command 1: the table is checked; a sound one waits for its quads. DESIGN CHOICE (log entry 116): it is the table of this moment
that is installed, though entries may be written meanwhile. -/
def State.configCommand (s : State) (v : Nat) : State :=
  if v ≠ 1 ∨ s.presult = 1 then s
  else match s.tableBad s.ptable with
    | some r => { s with presult := r }
    | none => { s with presult := 1, pnext := s.ptable }

/-- PARTITION_CONFIG_COMMAND. -/
def execPartitionConfigCommand (value : BitVec 32) (s : State) : Result := .next (s.configCommand value.toNat)

/-- The owner and mode of a quad. -/
def State.quadOwner (s : State) (q : Nat) : Nat × Nat :=
  ((List.range 8).find? fun p => (s.part p).quads.contains q).map (fun p => (p, (s.part p).mode)) |>.getD (8, 0)
def tableOwner (t : List (List Byte)) (q : Nat) : Nat × Nat :=
  ((List.range 8).find? fun p => (entryQuads (t.getD p [])).contains q).map (fun p => (p, field (t.getD p []) 20 1)) |>.getD (8, 0)

/-- PARTITION_INSTALL: once every quad that changes owner or mode holds no resident block (R16, R19). A slot mapped, or deterministic mode
enabled, in a changing partition since the check does not stop it: checks 5 and 6 are not made again, on which the spec is silent (the
model's choice, log entry 116). -/
def execPartitionInstall (s : State) : Result :=
  .next (if s.presult ≠ 1 then s
    else
      let busy := s.blocks.any fun k => !(s.quadOwner (k.core / 4) == tableOwner s.pnext (k.core / 4))
      if busy then s
      else
        let set (p : Nat) (q : Partition) : Partition :=
          let e := s.pnext.getD p []
          { q with mode := field e 20 1, quads := entryQuads e, ways := field e 21 1, channels := field e 22 1 }
        { s with partitions := s.partitions.mapIdx set, presult := 0, pnext := [] })

end Sys2Proof.Machine
end

