-- ==== Sys2Proof/Machine/Results.lean ====
section
/-! DEFINITION. The events by which requests go to their homes and answers come back (R93, R147, R148, R153, R238). -/

namespace Sys2Proof.Machine

/-- OBJREG's and OBJRST's status arrives (R258, R259). -/
def State.finishObject (s : State) (r : Req) (dst : Nat) : State :=
  match r.phase with
  | .done _ _ _ (v :: _) => (s.dropReq r.id).landThread r.bundle r.lane fun t => t.write dst v
  | _ => s

/-- LATE_RESULT_ARRIVAL: a late producer's result arrives and fills its destination (R93). -/
def execLateResultArrival (op : Nat) (s : State) : Result :=
  .next (match s.req? op with
    | none => s
    | some r => match r.kind with
      | .load c d acq smp => s.peerReply r (·.finishLoad r c d acq smp)
      | .atom a n d _ ls => if n then s else s.peerReply r (·.finishAtom r a n d ls)
      | .stmap d ws => s.finishMap r d ws
      | .object _ d => s.peerReply r (·.finishObject r d)
      | .nodeIn _ _ _ _ => s.landNodeIn r
      | _ => s)

/-- STORE_QUEUE_DRAIN: an entry enters the L1's buffer or an array, or an ATOM acts there (R147, R238). -/
def execStoreQueueDrain (op : Nat) (s : State) : Result :=
  .next (match s.req? op with
    | none => s
    | some r => match r.kind, r.phase with
      | .store _ _, .issued => s.drainEntry r
      | .atom a n d sc ls, _ => s.atomLocal r a n d sc ls
      | _, _ => s)

/-- HOME_STORE_ARRIVAL: a store, a write-back, an ATOM or a node's word reaches its home (R153, R230, R238). -/
def execHomeStoreArrival (op : Nat) (s : State) : Result :=
  .next (match s.req? op with
    | none => s
    | some r => match r.kind, r.phase with
      | .store _ _, .sent => s.storeArrives r
      | .writeback _ _ _ _ _ _, .sent => s.storeArrives r
      | .atom a n d sc ls, _ => s.atomHome r a n d sc ls
      | .nodeWrite _ _ _ _, _ => s.landNodeWrite r
      | _, _ => s)

/-- STORE_ACKNOWLEDGEMENT: a home's answer to a store, a write-back or a resultless ATOM reaches the core (R148, R236). -/
def execStoreAcknowledgement (op : Nat) (s : State) : Result :=
  .next (match s.req? op with
    | none => s
    | some r => match r.kind with
      | .store _ _ => s.peerReply r (·.acknowledge r)
      | .writeback _ _ _ _ _ _ => s.acknowledge r
      | .atom a n d _ ls => if n then s.peerReply r (·.finishAtom r a n d ls) else s
      | _ => s)

/-- HOME_LOAD_REQUEST: a load, or an ATOM of core scope, obtains its line (R153, R154, R238). -/
def execHomeLoadRequest (op : Nat) (s : State) : Result :=
  .next (match s.req? op with
    | none => s
    | some r => match r.kind with
      | .load _ _ _ _ => s.fetchLine r
      | .atom _ _ _ sc _ => if sc ≤ 1 then s.fetchLine r else s
      | _ => s)

/-- The old values of an ATOM's lanes, from the words of an answer. -/
def answerLanes (ls : List AtomLane) (ws : List Word) : List AtomLane :=
  ls.mapIdx fun i x => { x with old := ws.getD (2 * i + 1) 0 ++ ws.getD (2 * i) 0 }

/-- A peer's answer, held to a boundary or taken from the input log, lands (R425, R428). -/
def State.landReply (s : State) (op : Nat) (data : List Byte) (ws : List Word) : State :=
  let done (s : State) (ws : List Word) : State := s.modReq op fun r => { r with phase := .done 0 0 0 ws }
  let again (s : State) (f : State → Req → State) : State := match s.req? op with
    | some r => f s r
    | none => s
  match s.req? op with
  | none => s
  | some r => match r.kind, r.place with
    | .load c d acq smp, .peer k va =>
      again (if data.isEmpty then s else s.modReq op fun r => { r with copy := some { s.peerLine k va with data := data } }) fun s r =>
        s.finishLoad r c d acq smp
    | .atom a n d _ ls, .peer _ _ => again (done s (ws.drop (2 * ls.length))) fun s r => s.finishAtom r a n d (answerLanes ls ws)
    | .store _ _, .peer _ _ => again (done s ws) State.acknowledge
    | .object _ d, .peer _ _ => again (done s ws) fun s r => s.finishObject r d
    | .future _ _ _, .peer _ _ => again (if r.phase == .waiting && ws.isEmpty then s else done s ws) fun s _ => s.futureAnswer op
    | _, _ => s

end Sys2Proof.Machine
end

