-- ==== Sys2Proof/Machine/Trace.lean ====
section
/-! DEFINITION. Trace records (R422, R423) and stall counters (R414): what a step leaves in the observation rings. -/

namespace Sys2Proof.Machine

/-! Sync groups and LOST (R420, R423). -/

/-- Whether a partition traces, and whether it traces a task. -/
def Partition.traces (q : Partition) : Bool := bit q.control.toNat 1
def State.traced (s : State) (k : Block) : Option Task :=
  (s.task? k.task).filter fun t => let q := s.part t.partition
    q.traces && decide (q.traceLow ≤ t.tid) && decide (t.tid ≤ q.traceHigh)

/-- The interval number a record carries: 0 outside deterministic mode. -/
def Partition.intervalNo (q : Partition) : Nat := if q.det then q.interval else 0

/-- A mask of lanes. -/
def laneMask (ls : List Nat) : Nat := (ls.map (2 ^ ·)).sum

/-- The distinct PCs of a bundle's live threads. -/
def Bundle.livePcs (b : Bundle) : List DWord := distinct ((b.threads.filter Thread.live).map (·.pc))

/-- Live lanes of a bundle at a PC. -/
def Bundle.lanesAt (b : Bundle) (pc : DWord) : List Nat := (List.range b.threads.length).filter fun l =>
  ((b.threads[l]?).map fun t => t.live && t.pc == pc).getD false

/-- The records of a sync group: SYNC, then each traced block with its (bundle, PC) pairs (R423). -/
def State.syncRecords (s : State) (p : Nat) : List (List Byte) :=
  let q := s.part p
  let ks := s.blocks.filterMap fun k => (s.traced k).bind fun t => if t.partition = p then some (k, t) else none
  let block (x : Block × Task) : List (List Byte) :=
    let pcs := (s.bundlesOf (.block x.1.id)).flatMap fun b => b.livePcs.map fun pc =>
      traceBytes 10 b.index x.1.core x.2.tid (laneMask (b.lanesAt pc)) q.intervalNo pc 0
    traceBytes 9 0 x.1.core x.2.tid pcs.length q.intervalNo 0 (BitVec.ofNat 64 x.1.retired) :: pcs
  traceBytes 7 0 0 0 ks.length q.intervalNo 0 (BitVec.ofNat 64 (s.timeIn p 0)) :: ks.flatMap block

/-- Whether a ring in wrap mode stands past its end after a write. -/
def Partition.wraps (q : Partition) (w : Nat) : Bool :=
  bit q.control.toNat 2 && !(q.trace.write == w) && decide (0 < q.trace.size) && q.trace.write % q.trace.size == 0

/-- Write a record; whether wrap mode has passed the end of the ring with it. -/
def State.tracePut (s : State) (p : Nat) (rec : List Byte) : State × Bool :=
  let w := (s.part p).trace.write
  let s := s.traceRaw p rec
  (s, (s.part p).wraps w)

/-- The LOST record that goes first where records were dropped and room has appeared (R420). -/
def State.lostFirst (s : State) (p : Nat) : State × Bool :=
  let q := s.part p
  let lost := q.trace.lost
  if 0 < lost ∧ !q.trace.full ∧ !q.trace.suspended then
    (s.modPart p fun q => { q with trace := { q.trace with lost := 0 }, traceCount := q.traceCount + 1 }).tracePut p
      (traceBytes 8 0 0 0 lost q.intervalNo 0 0)
  else (s, false)

/-- Write a sync group; where its own records pass the end of the ring, another follows (R423), which a ring of two groups or more holds. -/
def State.syncGroup (s : State) (p : Nat) : State :=
  let once (s : State) : State × Bool :=
    let s := (s.lostFirst p).1.modPart p fun q => { q with traceCount := 0 }
    (s.syncRecords p).foldl (fun acc r => let x := acc.1.tracePut p r; (x.1, acc.2 || x.2)) (s, false)
  let x := once s
  if x.2 then (once x.1).1 else x.1

/-- Write a record of types 1 to 6: a LOST record goes first when room has appeared; every 4,096 records, and where wrap mode passes the
end of the ring, a sync group follows (R420, R423). -/
def State.trace (s : State) (p : Nat) (rec : List Byte) : State :=
  let a := s.lostFirst p
  let b := a.1.tracePut p rec
  let s := b.1.modPart p fun q => { q with traceCount := q.traceCount + 1 }
  if 4096 ≤ (s.part p).traceCount ∨ a.2 ∨ b.2 then s.syncGroup p else s

/-- Write a block's record. -/
def State.traceBlock (s : State) (t : Task) (k : Block) (type bundle mask : Nat) (pc aux : DWord) : State :=
  s.trace t.partition (traceBytes type bundle k.core t.tid mask (s.part t.partition).intervalNo pc aux)

/-! What a step did. -/

/-- The PC a block's first thread stands at. -/
def State.firstPc (s : State) (k : Nat) : DWord :=
  (((s.bundlesOf (.block k)).flatMap (·.threads)).map (·.pc)).headD 0

/-- Lanes of a bundle that have parked since a state: origin PC, cause, and lane. -/
def Bundle.newParks (before b : Bundle) : List (DWord × Nat × Nat) :=
  (List.range b.threads.length).filterMap fun l => match (b.threads[l]?).bind Thread.park?, ((before.threads[l]?).bind Thread.park?) with
    | some p, none => some (p.opc, p.trap.cause, l)
    | some p, some q => if p.seq = q.seq then none else some (p.opc, p.trap.cause, l)
    | _, _ => none

/-- PARK records of a bundle: one for each origin PC and cause. -/
def State.tracePark (s : State) (t : Task) (k : Block) (before b : Bundle) : State :=
  let ps := Bundle.newParks before b
  (distinct (ps.map fun x => (x.1, x.2.1))).foldl (fun s g =>
    s.traceBlock t k 4 b.index (laneMask ((ps.filter fun x => x.1 == g.1 && x.2.1 == g.2).map fun x => x.2.2)) g.1 (BitVec.ofNat 64 g.2)) s

/-- RESUME records of a bundle: lanes that a handler's RETT made live again, also those that have parked anew in the same step. -/
def State.traceResume (s : State) (t : Task) (k : Block) (before b : Bundle) : State :=
  (List.range b.threads.length).foldl (fun s l => match (b.threads[l]?), (before.threads[l]?).bind Thread.park? with
    | some u, some p => if u.live || u.park?.any (fun q => !(q.seq == p.seq)) then s.traceBlock t k 5 b.index (2 ^ l) p.resume 0 else s
    | _, _ => s) s

/-- PARK and RESUME records of a block's bundles, between two states. -/
def State.traceLanes (before after s : State) (t : Task) (k : Block) : State :=
  (after.bundlesOf (.block k.id)).foldl (fun s b => match before.bundle? b.id with
    | some b0 => if b0 = b then s else State.tracePark (s.traceResume t k b0 b) t k b0 b
    | none => s) s

/-- The records of one block: LAUNCH, PARK, RESUME, and the STOPs of a halt or a resume. -/
def State.traceOne (before s : State) (k : Block) : State :=
  match s.traced k with
  | none => s
  | some t => match before.block? k.id with
    | none =>
      let s := s.traceBlock t k 1 0 0 (s.firstPc k.id) (BitVec.ofNat 64 (s.timeIn t.partition (dieOf k.core)))
      if before.saved.any (·.block.id == k.id) then s.traceBlock t k 6 0 0 0 4 else s
    | some k0 =>
      let s := State.traceLanes before s s t k
      if k.halted && !k0.halted then s.traceBlock t k 6 0 0 0 1
      else if k0.halted && !k.halted then s.traceBlock t k 6 0 0 0 2
      else s

/-- The records of a block that has left its core, as what the step did left it: PARK and RESUME, then EXIT at completion, STOP at a
save or a flush. -/
def State.traceGone (before mid s : State) (k0 : Block) : State :=
  if (s.block? k0.id).isSome then s
  else match before.traced k0 with
    | none => s
    | some t =>
      let k := (mid.block? k0.id).getD k0
      let s := State.traceLanes before mid s t k
      if s.saved.any (·.block.id == k.id) then s.traceBlock t k 6 0 0 0 3
      else if k.ending == .flushing then s.traceBlock t k 6 0 0 0 5
      else s.traceBlock t k 2 0 0 0 (BitVec.ofNat 64 k.retired)

/-- Every record that a step calls for: from the state before it, over the one its own effect left, to the one that settled. -/
def State.observe (before mid s : State) : State :=
  if !(s.partitions.any Partition.traces) then s
  else before.blocks.foldl (fun x k => State.traceGone before mid x k) (s.blocks.foldl (fun x k => State.traceOne before x k) s)

/-- Whether an instruction writes BRANCH records (R422). -/
def isBranch (i : Instr) : Bool := match i with
  | .br _ _ _ | .call _ | .callr _ | .jmp _ | .ret _ => true
  | _ => false

/-- Lanes of a group that took its branch, with the target: a BR's whose condition held, another transfer's active lanes; none that trapped
at it, but those that STEP parked after it (R331). -/
def Bundle.taken (before after : Bundle) (g : Group) (i : Instr) : List (Nat × DWord) :=
  g.active.filterMap fun l => match before.threads[l]?, after.threads[l]? with
    | some t, some u =>
      let cond := match i with
        | .br _ n p => t.pred p.toNat ^^ (n == 1#1)
        | _ => true
      if cond && u.live then some (l, u.pc)
      else match u.park? with
        | some p => if cond && p.trap.cause == 0x11 && p.opc == g.start then some (l, p.resume) else none
        | none => none
    | _, _ => none

/-- BRANCH records of an issue group, one for each target. -/
def State.traceBranch (s : State) (before : Bundle) (g : Group) (i : Instr) : State :=
  match s.bundle? g.bundle with
  | none => s
  | some b => match s.blockOf b with
    | none => s
    | some k => match s.traced k with
      | none => s
      | some t =>
        if !(isBranch i) || b.isWave then s
        else
          let ts := Bundle.taken before b g i
          (distinct (ts.map Prod.snd)).foldl (fun s pc =>
            s.traceBlock t k 3 b.index (laneMask ((ts.filter fun x => x.2 == pc).map Prod.fst)) g.start pc) s

/-! Stall counters (R414). -/

/-- The code of a stall reason. -/
def Stall.code : Stall → Nat
  | .emptyRegister => 0
  | .fetch => 1
  | .notSelected => 2
  | .barrier => 3
  | .rcv => 4
  | .backOff => 5
  | .storeQueueFull => 6
  | .bankConflict => 7
  | .powerToken => 8
  | .ringFull => 9
  | .bufferWait => 10
  | .transactionTurn => 11
  | .collective => 12
  | .yield => 15

/-- Whether a thread waits on a back-off (R156): a request or MSPT of it was dropped and is not yet sent again, or stands behind one in its
sender queue. -/
def State.backedOff (s : State) (b : Bundle) (l : Nat) : Bool :=
  (s.reqs.any fun r => r.of b.id l && !r.arrived && (r.resend.isSome || s.reqs.any fun q => q.resend.isSome && s.dropsWith q r)) ||
  s.tiles.any fun t => t.bundle == b.id && t.lane == l && t.sparse && t.bind == 0 && s.tiles.any fun u =>
    u.resend.isSome && u.core == t.core && decide (u.id ≤ t.id)

/-- A reason, where what the thread waits for is on its way to memory or the Carver. -/
def State.orBackOff (s : State) (b : Bundle) (l : Nat) (r : Stall) : Stall := match r with
  | .emptyRegister | .storeQueueFull | .ringFull => if s.backedOff b l then .backOff else r
  | _ => r

/-- The reason a live thread does not issue. -/
def State.reason (s : State) (b : Bundle) (l : Nat) (t : Thread) : Stall :=
  if t.yield.isSome then .yield
  else match t.conv with
    | some c => if c.instr = .rcv then .rcv else .collective
    | none => match s.gateAt b l t with
      | none => .notSelected
      | some r => s.orBackOff b l r

/-- The counter of a block that rises in a clk without issue. -/
def State.stallOf (s : State) (k : Block) : Nat :=
  let bs := s.bundlesOf (.block k.id)
  let old (b : Bundle) : Bool := b.threads.any fun t => !(t.life == .exited)
  if k.halted || k.ending == .saving then 13
  else match (bs.filter old).foldl (fun m b => match m with
      | none => some b
      | some x => if b.index < x.index then some b else some x) (none : Option Bundle) with
    | none => if (s.bundles.any fun b => b.owner == .handler k.id && old b) then 14 else 6
    | some b =>
      let rs := (List.range b.threads.length).filterMap fun l => (b.threads[l]?).bind fun t => if t.live then some (s.reason b l t).code else none
      (least rs).getD 14

/-- A counter rises by 1, up to 2^32 − 1, and the clk is over for the block. -/
def Block.stallUp (k : Block) (c : Nat) : Block :=
  { k with clkDone := true, clkOver := true, stall := k.stall.modify c fun w => if w = 0xFFFFFFFF#32 then w else w + 1 }

/-- One block in the clk that ends: exactly one counter rises unless some bundle of it issued. -/
def State.stallBlock (s : State) (id : Nat) : State := match s.block? id with
  | none => s
  | some k => if k.clkDone then s else s.modBlock id fun _ => k.stallUp (s.stallOf k)

/-- STALL_COUNTER_CLOCK. -/
def execStallCounterClock (block : Nat) (s : State) : Result := .next (s.stallBlock block)

/-- The clk ends for every resident block. -/
def State.endClk (s : State) : State :=
  let s := (s.blocks.map (·.id)).foldl State.stallBlock s
  { s with blocks := s.blocks.map fun k => { k with clkDone := false, clkOver := false } }

end Sys2Proof.Machine
end

