-- ==== Sys2Proof/Machine/Observe.lean ====
section
/-! DEFINITION. The observation control register (R416, R424), the observation commands (R333, R331, R421), checkpoints, work
marks and precise stops (R426 to R428), and lockstep pairs (R429). -/

namespace Sys2Proof.Machine

/-! What belongs to a partition. -/

/-- The partition of a block. -/
def State.blockPart (s : State) (k : Block) : Nat := ((s.task? k.task).map (·.partition)).getD 8

/-- The resident blocks of a partition. -/
def State.partBlocks (s : State) (p : Nat) : List Block := s.blocks.filter fun k => s.blockPart k == p

/-- Whether a bundle belongs to a partition. -/
def State.bundleIn (s : State) (p b : Nat) : Bool := s.partAt b == p && (s.anyBundle b).isSome

/-- The running registers of a partition. -/
def Partition.run (q : Partition) : PartRun :=
  { nextTask := q.nextTask, fqRead := q.fqRead, fqWrite := q.fqWrite, fqHeld := q.fqHeld, evRead := q.evRead, evWrite := q.evWrite
    evLost := q.evLost, evHeld := q.evHeld, evPending := q.evPending, evOldest := q.evOldest, renameFree := q.renameFree
    seen := q.seen, lastCmd := q.lastCmd, requeues := q.requeues, pool := q.pool, sample := q.sample, trace := q.trace, exits := q.exits, faultAddr := q.faultAddr
    traceCount := q.traceCount }

/-- Put them back. -/
def Partition.putRun (q : Partition) (r : PartRun) : Partition :=
  { q with
    nextTask := r.nextTask, fqRead := r.fqRead, fqWrite := r.fqWrite, fqHeld := r.fqHeld, evRead := r.evRead, evWrite := r.evWrite
    evLost := r.evLost, evHeld := r.evHeld, evPending := r.evPending, evOldest := r.evOldest, renameFree := r.renameFree
    seen := r.seen, lastCmd := r.lastCmd, requeues := r.requeues, pool := r.pool, sample := r.sample, trace := r.trace, exits := r.exits, faultAddr := r.faultAddr
    traceCount := r.traceCount }

/-- Whether a line of a partition is owned, locked or held. -/
def Line.taken (x : Line) : Bool := x.owner.isSome || x.lock.isSome || !x.irr.isEmpty

/-- The cores of a partition. -/
def State.partCores (s : State) (p : Nat) : List Nat := (List.range 640).filter fun c => (s.part p).quads.contains (c / 4)

/-- Everything of a partition that its next steps depend on, but memory and lines' times (R426, R428). -/
def State.snapshot (s : State) (p : Nat) : Snapshot :=
  let inP (b : Nat) : Bool := s.bundleIn p b
  let objs := s.objects.filter (·.partition == p)
  { blocks := s.partBlocks p
    bundles := s.bundles.filter fun b => inP b.id
    saved := s.saved.filter fun x => s.blockPart x.block == p
    tasks := s.tasks.filter (·.partition == p)
    packets := s.packets.filter (·.partition == p)
    gangs := s.gangs.filter (·.partition == p)
    grids := s.grids.filter (·.partition == p)
    deps := s.deps.filter fun d => s.tasks.any fun t => t.partition == p && t.unit.map (·.1) == some d.unit
    wnodes := s.wnodes.filter (·.partition == p)
    reqs := s.reqs.filter fun r => inP r.bundle
    copies := s.copies.filter fun c => if c.packet.isSome then c.block == p else inP c.bundle
    acbs := s.acbs.filter fun c => inP c.bundle
    tiles := s.tiles.filter fun c => inP c.bundle
    parts := s.parts.filter fun c => inP c.bundle
    nets := s.nets.filter (·.partition == p)
    objects := objs
    calls := s.calls.filter fun c => objs.any (·.id == c.obj)
    waves := s.waves.filter fun w => objs.any (·.id == w.obj)
    cores := (s.partCores p).map fun c => (c, s.core c)
    slots := ((List.range 128).filter fun k => (s.slot k).mapped && (s.slot k).partition == p).map fun k => (k, s.slot k)
    versions := s.versions.filter (·.partition == p)
    leases := s.leases.filter (·.partition == p)
    moves := s.moves.filter (·.partition == p)
    zone := s.zone.filter (·.partition == p)
    inbound := s.inbound.filter (·.partition == p)
    lines := s.lines.filter fun x => x.taken && s.partMem p (64 * x.line)
    run := (s.part p).run }

/-- Put one kind of record back: those of the partition go, those of the snapshot come. -/
def putBack {α : Type} [BEq α] (now mine old : List α) : List α := now.filter (fun x => !(mine.contains x)) ++ old

/-- Tokens that a partition's tile commands hold of a die. -/
def Snapshot.tokens (x : Snapshot) (d : Nat) : Nat := ((x.tiles.filter fun t => t.granted && dieOf t.core == d).map (·.cost)).sum

/-- Restore a snapshot of a partition: its records, its dies' tokens and turns, its lines' owners (R428). Timing has no part in it. -/
def State.restoreSnapshot (s : State) (p : Nat) (x : Snapshot) : State :=
  let m := s.snapshot p
  let mineTile (i : Nat) : Bool := m.tiles.any (·.id == i)
  let mineBundle (b : Nat × Nat) : Bool := m.bundles.any (·.id == b.1)
  let die (d : Nat) (y : Die) : Die := { y with
    free := y.free + m.tokens d - x.tokens d
    tokenQueue := y.tokenQueue.filter (fun i => !(mineTile i)) ++
      (x.tiles.filter fun t => t.issued && !t.granted && dieOf t.core == d).map (·.id)
    turn := y.turn.filter fun b => !(mineBundle b)
    turnQueue := y.turnQueue.filter fun b => !(mineBundle b) }
  let line (y : Line) : Line :=
    let o := (x.lines.find? (·.line == y.line)).getD { line := y.line }
    if s.partMem p (64 * y.line) then { y with owner := o.owner, lock := o.lock, irr := o.irr } else y
  let s : State := { s with
    blocks := putBack s.blocks m.blocks x.blocks, bundles := putBack s.bundles m.bundles x.bundles
    saved := putBack s.saved m.saved x.saved, tasks := putBack s.tasks m.tasks x.tasks
    packets := putBack s.packets m.packets x.packets, gangs := putBack s.gangs m.gangs x.gangs
    grids := putBack s.grids m.grids x.grids, deps := putBack s.deps m.deps x.deps
    wnodes := putBack s.wnodes m.wnodes x.wnodes, reqs := putBack s.reqs m.reqs x.reqs
    copies := putBack s.copies m.copies x.copies, acbs := putBack s.acbs m.acbs x.acbs
    tiles := putBack s.tiles m.tiles x.tiles, parts := putBack s.parts m.parts x.parts
    nets := putBack s.nets m.nets x.nets, objects := putBack s.objects m.objects x.objects
    calls := putBack s.calls m.calls x.calls, waves := putBack s.waves m.waves x.waves
    versions := putBack s.versions m.versions x.versions, leases := putBack s.leases m.leases x.leases
    moves := putBack s.moves m.moves x.moves, zone := putBack s.zone m.zone x.zone
    inbound := putBack s.inbound m.inbound x.inbound
    dies := s.dies.mapIdx die, lines := s.lines.map line }
  let s := x.cores.foldl (fun s c => s.modCore c.1 fun _ => c.2) s
  let s := m.slots.foldl (fun s k => s.modSlot k.1 fun _ => {}) s
  let s := x.slots.foldl (fun s k => s.modSlot k.1 fun _ => k.2) s
  s.modPart p fun q => q.putRun x.run

/-! The control register (R416, R424). -/

/-- A first interval, from now. -/
def State.startInterval (s : State) (p : Nat) : State :=
  let x := s.snapshot p
  s.modPart p fun q => { q with
    interval := 0, boundary := 0, boundaryClk := s.clk, boundaryTime := s.time 0, pool := none, replay := [], quiet := false, hashes := []
    theirs := [], mismatch := false, logs := [{ number := 0, snapshot := x, time := s.time 0 }] }

/-- The control word that a write leaves: bits 4 to 6 change only while no slot of the partition is mapped; bit 4 stays 0 on a
partition that is not isolated, and bits 5 and 6 while bit 4 is 0. -/
def controlAfter (mode old new : Nat) (mapped : Bool) : Nat :=
  let det := if mapped then bit old 4 else bit new 4 && mode == 2
  let lock := (if mapped then bit old 5 else bit new 5) && det
  let prim := (if mapped then bit old 6 else bit new 6) && det
  new % 16 + (if det then 16 else 0) + (if lock then 32 else 0) + if prim then 64 else 0

/-- Write the control register. -/
def State.writeControl (s : State) (p : Nat) (v : Word) : State :=
  if s.bringup < 6 then s
  else
  let q := s.part p
  let new := controlAfter q.mode q.control.toNat v.toNat (s.anyMapped p)
  let s := s.modPart p fun q => { q with control := BitVec.ofNat 32 new }
  let s := if bit new 4 && !q.det then s.startInterval p else s
  if bit new 1 && !q.traces then s.syncGroup p else s

/-- The window offset of a partition's register. -/
def partReg (p off : Nat) : Nat := 0x190000 + 4096 * p + off

/-- OBSERVATION_CONTROL_WRITE. -/
def execObservationControlWrite (partition : Nat) (value : BitVec 32) (s : State) : Result :=
  .next (s.external partition (.register (partReg partition 0x100) (value.zeroExtend 64)) (·.writeControl partition value))

/-! Rollback (R428). -/

/-- Apply the undo logs of intervals, newest first; copies of what changes go. -/
def State.undoAll (s : State) (logs : List Interval) : State :=
  let ls := logs.flatMap (·.undo)
  let hit (ln : Nat) : Bool := ls.any fun x => x.1 == ln
  { s with
    mem := ls.foldl (fun m x => writeBytes m (64 * x.1) x.2) s.mem
    dies := s.dies.map fun d => { d with copies := d.copies.filter fun c => !(hit c.line) }
    carver := s.carver.filter fun e => !(e.lines.any hit) }

/-- Go back to the start of an interval that the logs keep: memory and snapshot are restored, and what was applied since is to be
applied again. -/
def State.rollback (s : State) (p n : Nat) (quiet : Bool) : State :=
  let q := s.part p
  match q.logs.find? (·.number == n) with
  | none => s
  | some i =>
    let newer := q.logs.filter fun x => decide (n ≤ x.number)
    let again := (newer.reverse.flatMap (·.inputs)) ++ q.replay
    let s := (s.undoAll newer).restoreSnapshot p i.snapshot
    s.modPart p fun q => { q with
      interval := n, boundary := i.start, boundaryClk := s.clk, boundaryTime := i.time
      logs := { i with undo := [], inputs := [], stores := [] } :: q.logs.filter fun x => decide (x.number < n)
      replay := again, quiet := quiet }

/-! The commands (R416). -/

/-- Record a command's result. -/
def State.obsResult (s : State) (p : Nat) (v : Word) : State := s.modPart p fun q => { q with obsResult := v }

/-- The tasks of a partition with the id that +0x194 names. -/
def State.markTasks (s : State) (p : Nat) : List Task :=
  s.tasks.filter fun t => t.partition == p && t.tid == (s.part p).mark.2.1 && !(t.phase == .done)

/-- Change the blocks of a task, resident or saved. -/
def State.modTaskBlocks (s : State) (t : Nat) (f : Block → Block) : State :=
  { s with
    blocks := upd s.blocks (·.task == t) f
    saved := upd s.saved (·.block.task == t) fun x => { x with block := f x.block } }

/-- Halt every block of a partition (R333). -/
def State.haltAll (s : State) (p : Nat) : State :=
  let s := ((s.partBlocks p).map (·.id)).foldl (fun s k => s.haltBlock k) s
  ((s.tasks.filter (·.partition == p)).map (·.id)).foldl (fun s t => s.modTaskBlocks t fun k => { k with halted := true }) s

/-- Command 1: stop at the mark (R428). -/
def State.stopAtMark (s : State) (p : Nat) : State :=
  let q := s.part p
  if !q.det then s.obsResult p 3
  else if (q.logs.find? (·.number == q.mark.1)).isSome then
    (s.rollback p q.mark.1 true).modPart p fun q => { q with stopping := some (q.mark.2.1, q.mark.2.2), obsResult := 0 }
  else if q.mark.1 < q.interval then s.obsResult p 2
  else s.modPart p fun q => { q with stopping := some (q.mark.2.1, q.mark.2.2), obsResult := 0 }

/-- Command 2: every halted block of the partition resumes. -/
def State.resumeAll (s : State) (p : Nat) : State :=
  let s := ((s.tasks.filter (·.partition == p)).map (·.id)).foldl (fun s t => s.modTaskBlocks t fun k => { k with halted := false }) s
  s.modPart p fun q => { q with stopReached := false, obsResult := 0 }

/-- Commands 3 to 6 on the named task. -/
def State.onMarkTask (s : State) (p : Nat) (f : State → Task → State) : State :=
  match s.markTasks p with
  | [] => s.obsResult p 1
  | ts => (ts.foldl f s).obsResult p 0

/-- Halt the blocks of a task. -/
def State.haltTask (s : State) (t : Task) : State :=
  let s := ((s.blocks.filter (·.task == t.id)).map (·.id)).foldl (fun s k => s.haltBlock k) s
  s.modTaskBlocks t.id fun k => { k with halted := true }

/-- Resume the blocks of a task. -/
def State.resumeTask (s : State) (t : Task) : State := s.modTaskBlocks t.id fun k => { k with halted := false }

/-- Set or clear a task's single-step flag. -/
def State.stepTask (s : State) (v : Bool) (t : Task) : State :=
  (s.modTask t.id fun t => { t with singleStep := v }).modTaskBlocks t.id fun k => { k with singleStep := v }

/-- Command 7: every suspended ring is re-armed; a resumed trace ring starts with a sync group (R421, R423). -/
def State.rearm (s : State) (p : Nat) : State :=
  let q := s.part p
  let on (r : Ring) : Ring := { r with suspended := false }
  let s := s.modPart p fun q => { q with sample := on q.sample, trace := on q.trace, exits := on q.exits, obsResult := 0 }
  if q.trace.suspended && q.traces then s.syncGroup p else s

/-- A write of a command; values that name none are ignored. -/
def State.command (s : State) (p v : Nat) : State :=
  if s.bringup < 6 then s
  else if v = 1 then s.stopAtMark p
  else if v = 2 then s.resumeAll p
  else if v = 3 then s.onMarkTask p State.haltTask
  else if v = 4 then s.onMarkTask p State.resumeTask
  else if v = 5 then s.onMarkTask p fun s t => s.stepTask true t
  else if v = 6 then s.onMarkTask p fun s t => s.stepTask false t
  else if v = 7 then s.rearm p
  else s

def execStopAtTheMark (partition : Nat) (s : State) : Result :=
  .next (s.external partition (.command partition 1) (·.command partition 1))
def execResumeThePartition (partition : Nat) (s : State) : Result :=
  .next (s.external partition (.command partition 2) (·.command partition 2))
def execHaltTask (partition : Nat) (s : State) : Result :=
  .next (s.external partition (.command partition 3) (·.command partition 3))
def execResumeTask (partition : Nat) (s : State) : Result :=
  .next (s.external partition (.command partition 4) (·.command partition 4))
def execSetSingleStep (partition : Nat) (s : State) : Result :=
  .next (s.external partition (.command partition 5) (·.command partition 5))
def execClearSingleStep (partition : Nat) (s : State) : Result :=
  .next (s.external partition (.command partition 6) (·.command partition 6))
def execResumeObservation (partition : Nat) (s : State) : Result :=
  .next (s.external partition (.command partition 7) (·.command partition 7))

/-- A stop at a mark is reached by the group that brings the task's retired count there (R428); it is given up when the task
completes first. -/
def State.settleStop (before s : State) (p : Nat) : State :=
  match (s.part p).stopping with
  | none => s
  | some (tid, n) =>
    let of (s : State) : List Block := (s.blocks ++ s.saved.map (·.block)).filter fun k => match s.task? k.task with
      | some t => t.partition == p && t.tid == tid
      | none => false
    if (of s).any fun k => decide (n ≤ k.retired) then
      (s.haltAll p).modPart p fun q => { q with stopping := none, stopReached := true }
    else if !(of before).isEmpty && (of s).isEmpty then s.modPart p fun q => { q with stopping := none }
    else s

/-- The same for every partition. -/
def State.settleStops (before s : State) : State :=
  if s.partitions.any (·.stopping.isSome) then (List.range 8).foldl (fun x p => State.settleStop before x p) s else s

/-! Lockstep (R429). -/

/-- Fail-stop: every block halts, held output is discarded, every queue is in error, and a record is written. -/
def State.failStop (s : State) (p n : Nat) : State :=
  let s := (s.haltAll p).modPart p fun q => { q with heldOut := [], hashes := [], theirs := [], failStopped := true }
  let s := ((List.range 128).filter fun k => (s.slot k).mapped && (s.slot k).partition == p).foldl (fun s k =>
    (s.modSlot k fun x => { x with error := true }).writeQcb k) s
  s.event p 9 (recordBytes (s.timeIn p 0) 0x7F 9 1 (BitVec.ofNat 64 n) 0 0)

/-- Release the output held for intervals up to one. -/
def State.releaseOut (s : State) (p n : Nat) : State :=
  let ms := (s.part p).heldOut.filter fun x => decide (x.1 ≤ n)
  ms.foldl (fun s x => s.emit x.2) (s.modPart p fun q => { q with heldOut := q.heldOut.filter fun x => decide (n < x.1) })

/-- The two hashes of an interval meet: a match releases its output; a first mismatch runs the interval again, a second one, or one of an
interval whose log is freed already (the model's choice, log entry 70), fail-stops. -/
def State.compareHashes (s : State) (p : Nat) : State :=
  let q := s.part p
  match q.hashes, q.theirs with
  | (n, mine, _) :: hs, t :: ts =>
    if mine = t then (s.releaseOut p n).modPart p fun q => { q with hashes := hs, theirs := ts, mismatch := false }
    else if q.mismatch || !(q.logs.any (·.number == n)) then s.failStop p n
    else (s.rollback p n false).modPart p fun q => { q with
      hashes := [], theirs := [], mismatch := true, heldOut := q.heldOut.filter fun x => decide (x.1 < n) }
  | _, _ => s

/-- Every pair of hashes that has met. -/
def State.compareAll (s : State) (p : Nat) : State := (s.part p).theirs.foldl (fun s _ => s.compareHashes p) s

/-- LOCKSTEP_HASH_ARRIVAL. -/
def execLockstepHashArrival (partition : Nat) (hash : List (BitVec 8)) (s : State) : Result :=
  .next (let q := s.part partition
    if !q.lockstep || q.failStopped then s
    else (s.modPart partition fun q => { q with theirs := q.theirs ++ [hash] }).compareAll partition)

/-- LOCKSTEP_HASH_TIMEOUT: no hash within 1 ms of the device's own. -/
def execLockstepHashTimeout (partition : Nat) (s : State) : Result :=
  .next (let q := s.part partition
    match q.hashes with
    | (n, _, c) :: _ => if q.lockstep && decide (c + 1050000 ≤ s.clk) then s.failStop partition n else s
    | [] => s)

/-- The bytes packed in a number from a bit on: their count in 32 bits, then they. -/
def packedBytes (x pos : Nat) : List Byte := leBytes (x / 2 ^ pos % 2 ^ 32) (x / 2 ^ (pos + 32))

/-- What a lockstep secondary makes of its primary's message: every kind of external input has a code; a request, command or block is named
by its place among the partition's (log entry 61). -/
def inputOf (p kind target : Nat) (value : DWord) : Option Input :=
  match kind with
  | 0 => some (.doorbell target value.toNat)
  | 1 => some (.queueMap p target value)
  | 2 => some (.queueUnmap target)
  | 3 => some (.queueReset target)
  | 4 => some (.pagingDoorbell p)
  | 5 => some (.requeue p (value.extractLsb' 0 32))
  | 6 => some (.cancel p (value.extractLsb' 0 32))
  | 7 => some (.faultRead p value.toNat)
  | 8 => some (.command p value.toNat)
  | 9 => some (.register target value)
  | 10 => some (.pool value.toNat)
  | 11 => some (.nth (.preempt target))
  | 12 => some (.access (target % 2 ^ 32) p (target / 2 ^ 32 % 2 ^ 16) value (target / 2 ^ 48) [])
  | 13 => some (.access (target % 2 ^ 32) p (target / 2 ^ 32 % 2 ^ 16) value 0 (packedBytes target 48))
  | 14 =>
    let bs := packedBytes target 48
    some (.enqueue (target % 2 ^ 32) (target / 2 ^ 32 % 2 ^ 16) p (bs.take 64) (bs.drop 128) ((bs.drop 64).take 64))
  | 15 => some (.nth (.enqueueReply (target % 2 ^ 32) (target / 2 ^ 32) value))
  | 16 => some (.nth (.noReply target))
  | 17 => some (.window (target / 2 ^ 40) (target % 2 ^ 32) (target / 2 ^ 32 % 2 ^ 8) value)
  | 18 => some (.nth (.reply (target % 2 ^ 32) (packedBytes target 32) []))
  | 19 => some (.nth (.reply (target % 2 ^ 32) [] (wordsOf ((packedBytes target 32).length / 4) (packedBytes target 32))))
  | 20 => some (.nth (.failed target (value.extractLsb' 0 16)))
  | 21 => some (.nth (.refused target (value.extractLsb' 0 16)))
  | 22 => some (.nth (.copied target value.toNat))
  | 23 => some (.signal p (target % 8) (target / 16) (bit target 3) value.toNat)
  | 24 => some (.pod p (target % 8) (target / 8 % 65536) (target / 2 ^ 19 % 65536) (target / 2 ^ 35) value.toNat)
  | _ => none

/-- LOCKSTEP_INPUT_MESSAGE: the secondary holds the primary's input to its own boundary. -/
def execLockstepInputMessage (partition kind target : Nat) (value : BitVec 64) (s : State) : Result :=
  .next (let q := s.part partition
    if !q.lockstep || bit q.control.toNat 6 then s
    else match inputOf partition kind target value with
      | some i => s.modPart partition fun q => { q with inputs := q.inputs ++ [i] }
      | none => s)

/-! Checkpoints (R426). -/

/-- Bytes of a logged input: what R426 logs has no layout; a record of 32 bytes and the data it carries (log entry 70). -/
def Input.size : Input → Nat
  | .access _ _ _ _ _ data => 32 + data.length
  | .enqueue _ _ _ desc payload packet => 32 + desc.length + payload.length + packet.length
  | .reply _ data words => 32 + data.length + 4 * words.length
  | .nth i => i.size
  | _ => 32

/-- Bytes that an interval takes of the log area: its context records, its undo log, and its input log. -/
def Interval.size (i : Interval) : Nat := i.len + 72 * i.undo.length + (i.inputs.map fun x => 16 + (x.2.2.map Input.size).sum).sum

/-- Whether the log area is full, by what the current and the previous interval hold of it (R426, R431). -/
def State.logFull (s : State) (p : Nat) : Bool := decide ((s.part p).logSize.toNat ≤ ((s.part p).logs.map Interval.size).sum)

/-- Whether a checkpoint is due at the present boundary. -/
def State.checkpointDue (s : State) (p : Nat) : Bool :=
  let q := s.part p
  let start := (q.logs.head?.map (·.start)).getD 0
  q.det && q.boundaryClk == s.clk && decide (start < q.boundary) && !q.failStopped &&
    (decide (start + 2 ^ (q.m - q.k) ≤ q.boundary) || s.logFull p)

/-- The places in the log area that hold n bytes and touch no record of some intervals: its start, and the end of each record. -/
def Partition.logSpots (q : Partition) (kept : List Interval) (n : Nat) : List Nat :=
  (0 :: kept.map fun i => i.at_ + i.len).filter fun o => decide (o + n ≤ q.logSize.toNat) && !(kept.any fun i => overlap i.at_ i.len o n)

/-- A block stops at its boundary for the checkpoint and runs on (R325, R426). -/
def State.pauseBlock (s : State) (k : Nat) : State :=
  let s := (s.allBundles k).foldl (fun s b => (List.range b.threads.length).foldl (fun s l => s.abortTx b.id l 0x00060000#32) s) s
  { s with bundles := s.bundles.map fun b =>
      if b.owner.block? = some k then { b with threads := b.threads.map Thread.atBoundary } else b }

/-- Take a checkpoint: the blocks' records go to the log area, at a free place that no rule gives, where they fit one (log entry 70); a
lockstep partition hashes the interval that ends, and both logs but the last two are freed (R426, R429, R431). -/
def State.checkpoint (s : State) (p : Nat) : State :=
  let s := ((s.partBlocks p).map (·.id)).foldl State.pauseBlock s
  let bytes := (((s.partBlocks p).map s.savedOf).map fun x => x.record (s.tidOf x) s.draw).flatten
  let q := s.part p
  let spots := q.logSpots (q.logs.take 1) bytes.length
  let at_ := spots.getD (Config.pick s.draw % spots.length) 0
  let len := if spots.isEmpty then 0 else bytes.length
  let s := (if len = 0 then s else (s.vwrite p (q.logBase.toNat + at_) bytes).getD s).drawn
  let ended := (s.part p).logs.headD { number := 0, snapshot := {} }
  let x := s.snapshot p
  let s := s.modPart p fun q => { q with
    interval := q.interval + 1
    logs := ({ number := q.interval + 1, snapshot := x, start := q.boundary, time := q.boundaryTime, at_ := at_, len := len } :: q.logs).take 2 }
  if !q.lockstep then s
  else
    let stores := (List.range 128).flatMap fun n => (ended.stores.filter fun y => y.1 == n).flatMap Prod.snd
    let h := Config.digest (stores ++ bytes)
    let s := { s with out := s.out ++ [Message.lockstep q.link h] }
    (s.modPart p fun y => { y with hashes := y.hashes ++ [(q.interval, h, s.clk)] }).compareAll p

/-- CHECKPOINT. -/
def execCheckpoint (partition : Nat) (s : State) : Result :=
  .next (if s.checkpointDue partition then s.checkpoint partition else s)

end Sys2Proof.Machine
end

