-- ==== Sys2Proof/Machine/Device.lean ====
section
/-! DEFINITION. Freeze and the test port (R430), power (R298, R433), monitors (R434, R435), identity, signatures and attestation
(R438 to R441), bring-up and reset (R437). -/

namespace Sys2Proof.Machine

/-! Freeze and the test port. -/

/-- Every clock of the package stops (R430, R435). -/
def State.freeze (s : State) : State := { s with frozen := true }

def execFreezePin (s : State) : Result := .next s.freeze
def execFreezeRegisterWrite (value : BitVec 32) (s : State) : Result := .next (if value = 1 then s.freeze else s)

/-- SELECT: the unit whose state READ returns. -/
def execSelect (unit : BitVec 32) (s : State) : Result :=
  .next { s with jtagInstr := 0x40, jtagUnit := unit, jtagWord := 0 }

/-- The bytes a selected unit reads as: a core's resident blocks in the layout of R343, or a slice's lines, and the copies of remote
lines that it keeps (R154), address first. -/
def State.unitBytes (s : State) : List Byte :=
  let u := s.jtagUnit.toNat
  let d := bits u 1 0
  let n := bits u 9 2
  if bit u 10 then
    ((s.lines.filter fun x => homeDie (64 * x.line) == d && homeSlice (64 * x.line) == n).flatMap fun x =>
      leBytes 8 (64 * x.line) ++ s.lineData x.line) ++
    (((s.die d).copies.filter fun k => homeSlice (64 * k.line) == n).flatMap fun k => leBytes 8 (64 * k.line) ++ k.data)
  else ((s.blocks.filter fun k => k.core == 160 * d + n).map s.savedOf).flatMap fun x => x.record (s.tidOf x) s.draw

/-- READ: the next 64-bit word of the frozen unit; past its end the word is free. -/
def execRead (s : State) : Result :=
  .next (let bs := (s.unitBytes.drop (8 * s.jtagWord)).take 8
    if !s.frozen then { s with jtagInstr := 0x41 }
    else { s.drawn with
      jtagInstr := 0x41, jtagWord := s.jtagWord + 1
      out := s.out ++ [.jtag ((List.range 8).map fun i => bs.getD i (Config.freeByte s.draw i))] })

/-- IDCODE: the part's own code. -/
def execIdcode (s : State) : Result :=
  .next { s with jtagInstr := 0x01, out := s.out ++ [.jtag (leBytes 4 (Config.identityWord 0xFFFF0001).toNat)] }

/-- BYPASS: the register that passes what is shifted in. -/
def execBypass (s : State) : Result := .next { s with jtagInstr := 0xFF }

/-! Power. -/

/-- P for an effective cap (R298). -/
def poolOf (cap : Nat) : Nat := max 256 (2560 * cap / 1800)

/-- Give a die a new P: tokens granted stay granted (R298, R433). -/
def Die.setPool (d : Die) (p : Nat) (held : Nat) : Die := { d with pool := p, free := (p : Int) - held }

/-- Tokens that tile commands hold of a die. -/
def State.tokensHeld (s : State) (d : Nat) : Nat := ((s.tiles.filter fun t => t.granted && dieOf t.core == d).map (·.cost)).sum

/-- Give some dies a new P. -/
def State.poolDies (s : State) (ds : List Nat) (p : Nat) : State :=
  ds.foldl (fun s d => let held := s.tokensHeld d
    s.modDie d fun x => x.setPool p held) s

/-- The Headstock recomputes P on every die at once; for a deterministic partition the old P stays in force until its own next input
boundary (R425, R433). -/
def State.newPool (s : State) (p : Nat) : State :=
  let det := (List.range 8).filter fun q => (s.part q).det
  let keep (s : State) (q : Nat) : State := s.modPart q fun x => { x with pool := some (x.pool.getD s.target) }
  let s := ({ det.foldl keep s with target := p }).poolDies (List.range 4) p
  det.foldl (fun s q => s.external q (.pool p) id) s

/-- Module power now, at most the 1,800 W that the module draws (R1, R433). -/
def State.modulePower (s : State) : Nat := min 1800 (Config.modulePower s.clk)

/-- Module power above or below the effective cap now. -/
def State.overCap (s : State) : Bool := decide (s.effCap < s.modulePower)

/-- Whether some die is throttled. -/
def State.throttled (s : State) : Bool := s.dies.any (·.throttled)

/-- Write the cap (R433): a value outside 300 to 1,800 is taken as the nearer limit. -/
def State.writeCap (s : State) (v : Nat) : State :=
  let c := max 300 (min 1800 v)
  let e := if s.throttled then c / 2 else c
  ({ s with cap := c, effCap := e }).newPool (poolOf e)

def execPowerCapWrite (value : BitVec 32) (s : State) : Result := .next (s.writeCap value.toNat)

/-- POWER_OVERAGE: once power has been above the cap for 10 ms, P falls every further 1 ms by 1/8, not below 256; how an uneven eighth is rounded
is free. -/
def execPowerOverage (s : State) : Result :=
  .next (match s.overSince with
    | none => s
    | some c =>
      if s.clk < c + 11550000 ∨ !s.overCap then s
      else
        let p := s.target - (s.target + Config.pick s.draw % 8) / 8
        ({ s.drawn with overSince := some (s.clk - 10500000) }).newPool (max 256 p))

/-- POWER_FALLS_BELOW_CAP: P by R298 again. -/
def execPowerFallsBelowCap (s : State) : Result :=
  .next (if s.modulePower < s.effCap ∧ s.target ≠ poolOf s.effCap then ({ s with overSince := none }).newPool (poolOf s.effCap) else s)

/-! Monitors. -/

/-- A module event (R435): a record in the ring of every partition, and vector 2,047. -/
def State.moduleEvent (s : State) (die mon kind act : Nat) : State :=
  let d := BitVec.ofNat 64 (die + 4 * mon + 128 * kind + 1024 * act)
  let ps := (List.range 8).filter fun p => !((s.part p).mode == 0)
  (ps.foldl (fun s p => s.event p 9 (recordBytes (s.timeIn p 0) 0x7F 9 1 d 0 0)) s).msix moduleVector

/-- The highest of some signed readings. -/
def highestReading (o : Option (BitVec 16)) (xs : List (BitVec 16)) : Option (BitVec 16) :=
  xs.foldl (fun m x => match m with
    | none => some x
    | some y => some (if y.slt x then x else y)) o

/-- The first thermal monitor of a die at or above a reading, in 1/16 °C. -/
def Die.hotMonitor (d : Die) (t : Int) : Option Nat :=
  (List.range 24).find? fun i => decide (t ≤ (d.thermal.getD i 0).toInt)

/-- Whether a voltage monitor of a die is more than 5 % from its nominal value. -/
def Die.badVoltage (d : Die) (i : Nat) : Bool :=
  let v := (d.voltage.getD i 0).toNat
  let n := Config.nominalVoltage i
  decide (100 * v < 95 * n) || decide (105 * n < 100 * v)

/-- One complete refresh of a die's readings (R434). -/
def State.readMonitors (s : State) (die : Nat) : State :=
  s.modDie die fun d =>
    let n := d.refresh + 1
    let th := (List.range 24).map fun i => Config.reading die i n
    let d : Die := { d with
      thermal := th
      voltage := (List.range 8).map fun i => Config.reading die (24 + i) n
      process := (List.range 4).map fun i => Config.reading die (32 + i) n
      hottest := highestReading d.hottest th
      refresh := n }
    { d with
      outOfRange := (List.range 8).any d.badVoltage
      voltSince := (List.range 8).map fun i => if d.badVoltage i then some (((d.voltSince.getD i none)).getD s.clk) else none }

/-- What the Headstock does on a die's readings (R435). -/
def State.actOnReadings (s : State) (die : Nat) : State :=
  let cool := s.dies.all fun d => (d.hotMonitor 1520).isNone
  let s : State := { s with coolSince := if cool then some (s.coolSince.getD s.clk) else none }
  match (s.die die).hotMonitor 1840 with
  | some m => ((s.modDie die fun d => { d with shutDown := true }).moduleEvent die m 0 2).freeze
  | none => match (s.die die).hotMonitor 1600 with
    | none => s
    | some m =>
      let was := s.throttled
      let s := s.modDie die fun d => { d with throttled := true }
      if was then s else (({ s with effCap := s.cap / 2 }).newPool (poolOf (s.cap / 2))).moduleEvent die m 0 0

/-- MONITOR_REFRESH: every 100 µs. -/
def execMonitorRefresh (die : Nat) (s : State) : Result :=
  .next (if 3 < die ∨ (0 < (s.die die).refresh ∧ s.clk < (s.die die).refreshClk + 105000) then s
    else ((s.readMonitors die).modDie die fun d => { d with refreshClk := s.clk }).actOnReadings die)

/-- THERMAL_RESTORE: all monitors below 95 °C for 100 ms while throttled. The event's die and monitor are free: no rule names them. -/
def execThermalRestore (s : State) : Result :=
  .next (match s.coolSince with
    | none => s
    | some c =>
      if s.clk < c + 105000000 ∨ !s.throttled then s
      else
        let t : State := { s.drawn with dies := s.dies.map fun d => { d with throttled := false }, effCap := s.cap }
        (t.newPool (poolOf s.cap)).moduleEvent (Config.pick s.draw % 4) (Config.pick s.draw / 4 % 24) 0 1)

/-- The first voltage monitor, with its die, that has been out of its range for 1 ms. -/
def State.voltageOut (s : State) : Option (Nat × Nat) :=
  ((List.range 4).flatMap fun d => (List.range 8).map fun i => (d, i)).find? fun x => match (s.die x.1).voltSince.getD x.2 none with
    | some c => decide (c + 1050000 ≤ s.clk)
    | none => false

/-- VOLTAGE_STOP: one voltage more than 5 % from nominal for 1 ms; the event is written before the clocks stop. -/
def execVoltageStop (s : State) : Result :=
  .next (match s.voltageOut with
    | some (d, i) => ((s.modDie d fun x => { x with shutDown := true }).moduleEvent d i 1 2).freeze
    | none => s)

/-- HOTTEST_READING_READ: the read answers and restarts the tracking; a read before any refresh since the last finds a free value. -/
def State.readHottest (s : State) (die : Nat) : State :=
  let v := (s.die die).hottest.getD (Config.reading die 36 s.draw)
  ({ s.drawn with out := s.out ++ [Message.window (0x14048 + 256 * die) (leBytes 2 v.toNat)] }).modDie die fun d => { d with hottest := none }

def execHottestReadingRead (die : Nat) (s : State) : Result := .next (if 3 < die then s else s.readHottest die)

/-! Identity and attestation. -/

/-- The 32 bytes of a digest. -/
def digest32 (bs : List Byte) : List Byte := (List.range 32).map fun i => (Config.digest bs).getD i 0

/-- n bytes of the part's own, from an offset. -/
def partBytes (off n : Nat) : List Byte :=
  (List.range n).map fun i => (Config.identityWord (BitVec.ofNat 32 (off + i)).toNat).extractLsb' 0 8

/-- A value of the part's own that is never 0. -/
def partNonzero (off n : Nat) : List Byte := leBytes n (1 + leNat (partBytes off n) % (2 ^ (8 * n) - 1))

/-- The identity block up to +0xBF (R438), for a package number and a count of signatures. -/
def identityHead (pkg left : Nat) : List Byte :=
  partBytes 0 2 ++ leBytes 2 0x0640 ++ partBytes 4 1 ++ partNonzero 5 1 ++ leBytes 2 0 ++ partNonzero 8 8 ++ leBytes 2 pkg ++ [4, 8] ++
    leBytes 2 64 ++ leBytes 2 8 ++ partNonzero 0x18 4 ++ partNonzero 0x1C 4 ++ digest32 Config.image ++ partBytes 0x40 68 ++
    leBytes 4 left ++ List.replicate 56 0

/-- Signatures still available. -/
def State.signsLeft (s : State) : Nat := 2 ^ 20 - s.signIdx

/-- The identity block (R438): the package number is valid from step 4. -/
def State.identity (s : State) : List Byte :=
  identityHead s.pkg s.signsLeft ++ leBytes 4 s.idSignature.length ++ List.replicate 60 0

/-- What the identity signature covers: the package number and the count read as zero. -/
def idCovers : List Byte := identityHead 0 0

/-- A signature is begun (R440): index + 1 is stored before it is released; none once 2^20 are used. -/
def State.beginSign (s : State) (c : Option (List Byte)) : Option State :=
  if 2 ^ 20 ≤ s.signIdx then none else some { s with signIdx := s.signIdx + 1, signing := some (s.signIdx, c) }

/-- The partition configuration in force (R19), by entries. -/
def State.configBytes (s : State) : List Byte := (List.range 8).flatMap fun p =>
  let q := s.part p
  leBytes 20 ((q.quads.map fun x => 2 ^ x).sum) ++ leBytes 1 q.mode ++ leBytes 1 q.ways ++ leBytes 1 q.channels ++ List.replicate 41 0

/-- A report is begun for a challenge (R441); with no index left the request completes with status 0xFFFF, and no report is ready (R440;
the status stands above bit 0, log entry 62). -/
def State.beginReport (s : State) (c : List Byte) : State :=
  let s : State := { s with challenge := c, report := [], reportStatus := 0 }
  (s.beginSign (some c)).getD { s with reportStatus := 0xFFFF0000 }

/-- An attestation request (R441), from step 5 of bring-up on; one that comes while a signature is being made waits. -/
def State.attest (s : State) (c : List Byte) : State :=
  if s.bringup < 5 ∨ c.length ≠ 32 then s
  else if s.signing.isSome then { s with challenges := s.challenges ++ [c] }
  else s.beginReport c

/-- The report of a challenge, signed with an index. -/
def State.reportOf (s : State) (c : List Byte) (n : Nat) : List Byte :=
  let body := c ++ digest32 Config.image ++ s.identity ++ s.configBytes ++ leBytes 4 n
  body ++ Config.signature n body

/-- The signature being made is released: the report is ready, or the identity is signed and with it step 5 of bring-up reached. A
challenge that waits is next. -/
def State.release (s : State) : State := match s.signing with
  | none => s
  | some (n, some c) =>
    let s : State := { s with signing := none, report := s.reportOf c n, reportStatus := 1 }
    match s.challenges with
    | [] => s
    | x :: xs => ({ s with challenges := xs } : State).beginReport x
  | some (n, none) => { s with signing := none, idCovered := idCovers, idSignature := (Config.signature n idCovers).take 4096, bringup := max 5 s.bringup }

/-- A signature is released some time after its index is stored: when is free (R440). -/
def State.settleSigning (s : State) : State :=
  if s.signing.isNone then s else if Config.choice s.draw then s.drawn.release else s.drawn

def execAttestationChallenge (challenge : List (BitVec 8)) (s : State) : Result := .next (s.attest challenge)

/-! Bring-up and reset. -/

/-- n members of a list, chosen by free values. -/
def pickSome (draw : Nat) : Nat → List Nat → List Nat
  | 0, _ => []
  | n + 1, xs => match xs[Config.pick (draw + n) % xs.length]? with
    | none => []
    | some x => x :: pickSome draw n (xs.erase x)

/-- BRINGUP_STEP (R437): the next step, once what it waits for is done; step 5 comes with the identity's signature, which is made afresh when
the covered bytes differ from the stored one's (R438). -/
def execBringupStep (s : State) : Result :=
  .next (match s.bringup with
    | 1 => { s with bringup := 2 }
    | 2 =>
      if (List.range 4).all Config.imageSound then
        { s.drawn with bringup := 3, leaderDie := Config.pick s.draw % 4, leaderValid := true, epoch := (s.epoch + 1) % 2 ^ 29
                       expiry := s.time 0 + 1000000 }
      else s
    | 3 => { s with bringup := 4, pkg := Config.topology % 512 }
    | 4 => if s.signing.isSome then s
      else if s.idCovered = idCovers ∧ !s.idSignature.isEmpty then { s with bringup := 5 }
      else (s.beginSign none).getD { s with bringup := 5 }
    | 5 => { s with
        bringup := 6, draw := s.draw + 16
        dies := s.dies.mapIdx fun d x => { x with
          backoff := max 4 (min 4096 (Config.backoffBase d))
          combinerCores := pickSome (s.draw + 4 * d) 4 ((List.range 160).map (160 * d + ·)) } }
    | _ => s)

/-- The state after reset, with what non-volatile storage keeps (R438, R440) and the model's own counters. -/
def State.afterReset (s : State) : State :=
  { State.reset with
    signIdx := s.signIdx, idCovered := s.idCovered, idSignature := s.idSignature, peerMaps := s.peerMaps
    turnNo := s.turnNo, fresh := s.fresh, draw := s.draw }

/-- POWER_ON_RESET. -/
def execPowerOnReset (s : State) : Result := .next s.afterReset

/-- POWER_FAILURE: nothing runs until the next power-on reset. -/
def execPowerFailure (s : State) : Result := .next { s.afterReset with bringup := 0 }

end Sys2Proof.Machine
end

