-- ==== Sys2Proof/Machine/Window.lean ====
section
/-! DEFINITION. The control window (R397 to R400, R416, R433, R436 to R438): what its registers read as, what a write of each does,
and the input boundaries that apply what a deterministic partition has held (R425). -/

namespace Sys2Proof.Machine

/-! Reads. -/

/-- The capability list (R436), from offset 0x100. -/
def capabilities : List Byte :=
  (([(1, 0x13000), (2, 0x14000), (3, 0x190000), (4, 0x15000), (5, 0x190100)] : List (Nat × Nat)).flatMap fun x =>
    leBytes 2 x.1 ++ partBytes (0x102 + 16 * (x.1 - 1)) 1 ++ [12] ++ leBytes 2 (if x.1 = 5 then 0 else 0x100 + 16 * x.1) ++ leBytes 2 0 ++
      leBytes 4 x.2 ++ leBytes 4 0)

/-- The leader register (R411). -/
def State.leaderBytes (s : State) : List Byte :=
  leBytes 4 (s.leaderDie + (if s.leaderValid then 4 else 0) + 8 * s.epoch) ++ leBytes 4 0 ++ leBytes 8 s.expiry

/-- The power registers (R433). -/
def State.powerBytes (s : State) : List Byte :=
  leBytes 4 s.cap ++ leBytes 4 s.modulePower ++ leBytes 4 s.target ++ leBytes 4 s.effCap

/-- A die's monitor block (R434); the hottest reading has its own read. -/
def Die.monitorBytes (d : Die) (draw : Nat) : List Byte :=
  (d.thermal ++ d.voltage ++ d.process).flatMap (fun v => leBytes 2 v.toNat) ++
    leBytes 2 (d.hottest.getD (Config.reading 0 36 draw)).toNat ++
    leBytes 2 ((if d.throttled then 1 else 0) + (if d.shutDown then 2 else 0) + if d.outOfRange then 4 else 0)

/-- The attestation registers, the identity signature after them and, at its first four bytes, the bring-up step: R437 and R438 name
the same offset (log entry 62). -/
def State.attestBytes (s : State) : List Byte :=
  let base := leBytes 4 s.reportStatus ++ List.replicate 12 0 ++ (List.range 32).map (fun i => s.challenge.getD i 0) ++ List.replicate 16 0
  let report := (List.range (0x1000 - 0x40)).map fun i => s.report.getD i 0
  base ++ report ++ leBytes 4 s.bringup ++ s.idSignature.drop 4

/-- A slot's registers (R399). -/
def Slot.bytes (k : Slot) : List Byte :=
  leBytes 8 k.qcb.toNat ++ leBytes 8 k.readIdx ++
    leBytes 4 ((if k.mapped then 1 else 0) + (if k.error then 2 else 0) + (if k.borrowed then 4 else 0) + if k.lastRefused then 8 else 0) ++ leBytes 44 0

/-- A ring's registers: base, size, write index, read index. -/
def Ring.bytes (r : Ring) : List Byte := leBytes 8 r.base.toNat ++ leBytes 4 r.size ++ leBytes 4 r.write ++ leBytes 4 r.read ++ leBytes 4 0

/-- The observation status (R416). -/
def Partition.obsStatus (q : Partition) : Nat :=
  (if q.trace.suspended then 1 else 0) + (if q.sample.suspended then 2 else 0) + (if q.exits.suspended then 4 else 0) +
    (if q.failStopped then 8 else 0) + if q.stopReached then 16 else 0

/-- A partition's registers (R400, R416). -/
def Partition.bytes (q : Partition) : List Byte :=
  let low := leBytes 8 q.root.toNat ++ leBytes 8 q.vector.toNat ++ leBytes 8 q.fqBase.toNat ++ leBytes 4 q.fqCap ++ leBytes 4 q.fqRead ++
    leBytes 4 q.fqWrite ++ leBytes 4 0 ++ leBytes 8 q.evBase.toNat ++ leBytes 4 q.evSize ++ leBytes 4 q.evRead ++ leBytes 4 q.evWrite ++
    leBytes 4 q.evLost ++ leBytes 4 q.coalesceN ++ leBytes 4 q.coalesceT ++ leBytes 2 q.vectorNo ++ leBytes 6 0 ++ leBytes 8 q.savePool.toNat ++
    leBytes 8 q.saveSize.toNat ++ leBytes 8 q.renamePool.toNat ++ leBytes 4 q.renamePages ++ leBytes 4 0 ++ leBytes 8 q.zoneBase.toNat ++
    leBytes 4 q.zoneSize ++ leBytes 4 q.cold ++ leBytes 2 q.drainThr ++ leBytes 2 q.restartThr ++ leBytes 4 q.drainLimit ++ leBytes 24 0 ++
    leBytes 4 q.lastCmd.toNat ++ leBytes 92 0
  low ++ leBytes 4 q.control.toNat ++ leBytes 4 q.obsStatus ++ leBytes 4 q.period ++ leBytes 4 0 ++ q.sample.bytes ++ q.trace.bytes ++
    q.exits.bytes ++ leBytes 8 q.faultAddr.toNat ++ leBytes 4 q.traceLow ++ leBytes 4 q.traceHigh ++ leBytes 8 0 ++ leBytes 1 q.k ++ leBytes 1 q.m ++
    leBytes 6 0 ++ leBytes 8 q.logBase.toNat ++ leBytes 8 q.logSize.toNat ++ leBytes 4 q.interval ++ leBytes 4 0 ++ leBytes 4 q.mark.1 ++
    leBytes 4 q.mark.2.1 ++ leBytes 8 q.mark.2.2 ++ leBytes 4 0 ++ leBytes 4 q.obsResult.toNat ++ leBytes 2 q.link ++ leBytes 2 q.partner

/-- A vector's entry in the MSI-X table (R397). -/
def State.vectorBytes (s : State) (v : Nat) : List Byte :=
  readBytes s.msixTable (16 * v) 12 ++ leBytes 4 (if s.msixOpen.contains v then 0 else 1)

/-- A byte of the control window; an offset that names nothing reads 0 (R397). -/
def State.windowByte (s : State) (o : Nat) : Byte :=
  let at_ (base : Nat) (bs : List Byte) : Byte := bs.getD (o - base) 0
  if o < 0x100 then at_ 0 s.identity
  else if o < 0x150 then at_ 0x100 capabilities
  else if 0x10000 ≤ o ∧ o < 0x10010 then at_ 0x10000 s.leaderBytes
  else if 0x11000 ≤ o ∧ o < 0x11010 then at_ 0x11000 (leBytes 8 s.winPartition ++ leBytes 8 s.winBase.toNat)
  else if 0x12000 ≤ o ∧ o < 0x12004 then at_ 0x12000 (leBytes 4 (if s.frozen then 1 else 0))
  else if 0x13000 ≤ o ∧ o < 0x13010 then at_ 0x13000 s.powerBytes
  else if 0x14000 ≤ o ∧ o < 0x14400 then at_ ((o / 256) * 256) ((s.die (o / 256 % 4)).monitorBytes s.draw)
  else if 0x15000 ≤ o ∧ o < 0x17000 then at_ 0x15000 s.attestBytes
  else if 0x18000 ≤ o ∧ o < 0x18208 then at_ 0x18000 (s.ptable.flatten ++ leBytes 4 0 ++ leBytes 4 s.presult)
  else if 0x100000 ≤ o ∧ o < 0x180000 then 0
  else if 0x180000 ≤ o ∧ o < 0x182000 then at_ (o / 64 * 64) (s.slot ((o - 0x180000) / 64)).bytes
  else if 0x190000 ≤ o ∧ o < 0x198000 then at_ (o / 4096 * 4096) (s.shown ((o - 0x190000) / 4096)).bytes
  else if 0x200000 ≤ o ∧ o < 0x208000 then at_ (o / 16 * 16) (s.vectorBytes ((o - 0x200000) / 16))
  else if 0x208000 ≤ o ∧ o < 0x208100 then
    BitVec.ofNat 8 ((List.range 8).map fun i => if s.msixPending.contains (8 * (o - 0x208000) + i) then 2 ^ i else 0).sum
  else 0

/-- What a read of n bytes returns, from step 3 of bring-up on (R437). -/
def State.windowRead (s : State) (o n : Nat) : Option (List Byte) :=
  if s.bringup < 3 then none else some ((List.range n).map fun i => s.windowByte (o + i))

/-! Writes of one register; a value outside the range its rule states is ignored (log entry 63). -/

/-- Whether a value is a power of two between two bounds. -/
def powerBetween (v lo hi : Nat) : Bool := decide (lo ≤ v) && decide (v ≤ hi) && v == 2 ^ (bitLen 32 v - 1)

/-- A register of a partition that only changes while no slot is mapped (R400). -/
def Partition.writeLow (q : Partition) (off : Nat) (v : Nat) : Partition :=
  let d : DWord := BitVec.ofNat 64 v
  let w := v % 2 ^ 32
  match off with
  | 0x000 => { q with root := d }
  | 0x008 => { q with vector := d }
  | 0x010 => { q with fqBase := d }
  | 0x018 => { q with fqCap := w }
  | 0x028 => if v % 4096 = 0 then { q with evBase := d } else q
  | 0x030 => if powerBetween w 64 (2 ^ 20) then { q with evSize := w } else q
  | 0x040 => if 1 ≤ w ∧ w ≤ 4096 then { q with coalesceN := w } else q
  | 0x044 => if w ≤ 1000 then { q with coalesceT := w } else q
  | 0x048 => if v % 65536 < moduleVector then { q with vectorNo := v % 65536 } else q
  | 0x050 => { q with savePool := d }
  | 0x058 => { q with saveSize := d }
  | 0x060 => { q with renamePool := d, renameFree := (List.range q.renamePages).map fun i => v + 65536 * i }
  | 0x068 => { q with renamePages := w, renameFree := (List.range w).map fun i => q.renamePool.toNat + 65536 * i }
  | 0x070 => { q with zoneBase := d }
  | 0x078 => { q with zoneSize := w }
  | 0x07C => { q with cold := w }
  | 0x080 => { q with drainThr := v % 65536 }
  | 0x082 => { q with restartThr := v % 65536 }
  | 0x084 => { q with drainLimit := w }
  | _ => q

/-- A ring's base, size and read index at offsets from its first register (R416): the first two change only while it is off. -/
def Ring.put (r : Ring) (on : Bool) (off v : Nat) : Ring :=
  if off = 0 then (if on || !(v % 4096 == 0) then r else { r with base := BitVec.ofNat 64 v })
  else if off = 8 then (if on || !(powerBetween (v % 2 ^ 32) 64 (2 ^ 20)) then r else { r with size := v % 2 ^ 32 })
  else if off = 16 then { r with read := v % 2 ^ 32 }
  else r

/-- An observation register without an action of its own (R416); k, m and the log area change only while no slot is mapped. -/
def Partition.writeObs (q : Partition) (mapped : Bool) (off v : Nat) : Partition :=
  let c := q.control.toNat
  let w := v % 2 ^ 32
  let b := v % 256
  if 0x110 ≤ off ∧ off ≤ 0x120 then { q with sample := q.sample.put (bit c 0) (off - 0x110) v }
  else if 0x128 ≤ off ∧ off ≤ 0x138 then { q with trace := q.trace.put (bit c 1) (off - 0x128) v }
  else if 0x140 ≤ off ∧ off ≤ 0x150 then { q with exits := q.exits.put (bit c 3) (off - 0x140) v }
  else match off with
    | 0x108 => if w = 0 ∨ (16 ≤ w ∧ w ≤ 2 ^ 24) then { q with period := w } else q
    | 0x160 => { q with traceLow := w }
    | 0x164 => { q with traceHigh := w }
    | 0x170 => if !mapped && decide (10 ≤ b) && decide (b ≤ 22) && decide (b ≤ q.m) then { q with k := b } else q
    | 0x171 => if !mapped && decide (q.k ≤ b) && decide (b ≤ 26) then { q with m := b } else q
    | 0x178 => if !mapped && v % 4096 == 0 then { q with logBase := BitVec.ofNat 64 v } else q
    | 0x180 => if !mapped && v % 4096 == 0 then { q with logSize := BitVec.ofNat 64 v } else q
    | 0x190 => { q with mark := (w, q.mark.2.1, q.mark.2.2) }
    | 0x194 => { q with mark := (q.mark.1, w, q.mark.2.2) }
    | 0x198 => { q with mark := (q.mark.1, q.mark.2.1, v) }
    | 0x1A8 => if v % 65536 ≤ 15 then { q with link := v % 65536 } else q
    | 0x1AA => if v % 65536 ≤ 511 then { q with partner := v % 65536 } else q
    | _ => q

/-- A write of a partition's register (R400, R416). -/
def State.writePart (s : State) (p off v : Nat) : State :=
  match off with
  | 0x01C => s.readFaults p v
  | 0x034 => s.modPart p fun q => { q with evRead := v % 2 ^ 32 }
  | 0x090 => s.pagingDoorbell p
  | 0x098 => s.requeue p (BitVec.ofNat 32 v)
  | 0x09C => s.cancelTask p (BitVec.ofNat 32 v)
  | 0x100 => s.writeControl p (BitVec.ofNat 32 v)
  | 0x1A0 => s.command p (v % 2 ^ 32)
  | _ =>
    let mapped := s.anyMapped p
    if off < 0x088 then (if mapped then s else s.modPart p fun q => q.writeLow off v)
    else s.modPart p fun q => q.writeObs mapped off v

/-- A write of a dword of the MSI-X table (R397): clearing the mask delivers what is pending (R408). -/
def State.writeVector (s : State) (o v : Nat) : State :=
  let n := o / 16
  if o % 16 = 12 then (if v % 2 = 0 then s.unmask n else { s with msixOpen := s.msixOpen.filter fun x => !(x == n) })
  else { s with msixTable := writeBytes s.msixTable o (leBytes 4 v) }

/-- A write of the control window (R397 to R400); an offset that names no writable register is ignored. Slots and partitions are
written from step 6 of bring-up on (R437); the partition table and its command at any time (DESIGN CHOICE, log entry 116). -/
def State.writeReg (s : State) (o v : Nat) : State :=
  if o = 0x11000 then (if v % 256 < 8 then { s with winPartition := v % 256 } else s)
  else if o = 0x11008 then (if v % 2 ^ 36 = 0 then { s with winBase := BitVec.ofNat 64 v } else s)
  else if o = 0x12000 then (if v % 2 ^ 32 = 1 then s.freeze else s)
  else if o = 0x13000 then s.writeCap (v % 2 ^ 32)
  else if 0x18000 ≤ o ∧ o < 0x18200 then
    let e := (o - 0x18000) / 64
    (if o % 8 = 0 then { s with ptable := s.ptable.modify e fun b => patch b (o % 64) (leBytes 8 v) } else s)
  else if o = 0x18200 then s.configCommand (v % 2 ^ 32)
  else if 0x200000 ≤ o ∧ o < 0x208000 ∧ o % 4 = 0 then s.writeVector (o - 0x200000) (v % 2 ^ 32)
  else if s.bringup < 6 then s
  else if 0x100000 ≤ o ∧ o < 0x180000 ∧ o % 4096 = 0 then s.doorbell ((o - 0x100000) / 4096) v
  else if 0x180000 ≤ o ∧ o < 0x182000 then
    let k := (o - 0x180000) / 64
    (if o % 64 = 0 then s.mapQueue s.winPartition k (BitVec.ofNat 64 v)
    else if o % 64 = 20 ∧ v % 2 ^ 32 = 1 then s.resetQueue k else s)
  else if 0x190000 ≤ o ∧ o < 0x198000 then s.writePart ((o - 0x190000) / 4096) (o % 4096) v
  else s

/-- The one partition that a write concerns, if it concerns one (R425). -/
def State.regPart (s : State) (o : Nat) : Option Nat :=
  if 0x100000 ≤ o ∧ o < 0x180000 then some (s.slotPart ((o - 0x100000) / 4096))
  else if 0x180000 ≤ o ∧ o < 0x182000 then some (s.slotPart ((o - 0x180000) / 64))
  else if 0x190000 ≤ o ∧ o < 0x198000 then some ((o - 0x190000) / 4096)
  else none

/-- The writable registers of a partition's block (R400, R416): offset and width. -/
def partRegs : List (Nat × Nat) :=
  [(0x000, 8), (0x008, 8), (0x010, 8), (0x018, 4), (0x01C, 4), (0x028, 8), (0x030, 4), (0x034, 4), (0x040, 4), (0x044, 4), (0x048, 2),
   (0x050, 8), (0x058, 8), (0x060, 8), (0x068, 4), (0x070, 8), (0x078, 4), (0x07C, 4), (0x080, 2), (0x082, 2), (0x084, 4), (0x090, 4),
   (0x098, 4), (0x09C, 4)] ++
  [(0x100, 4), (0x108, 4), (0x110, 8), (0x118, 4), (0x120, 4), (0x128, 8), (0x130, 4), (0x138, 4), (0x140, 8), (0x148, 4), (0x150, 4),
   (0x160, 4), (0x164, 4), (0x170, 1), (0x171, 1), (0x178, 8), (0x180, 8), (0x190, 4), (0x194, 4), (0x198, 8), (0x1A0, 4), (0x1A8, 2),
   (0x1AA, 2)]

/-- The writable registers of the window, other than doorbells, near an offset: offset and width. -/
def regsNear (o : Nat) : List (Nat × Nat) :=
  let u := o / 8 * 8
  if 0x18000 ≤ o ∧ o < 0x18200 then [(u, 8)]
  else if 0x200000 ≤ o ∧ o < 0x208000 then [(u, 4), (u + 4, 4)]
  else if 0x180000 ≤ o ∧ o < 0x182000 then [(o / 64 * 64, 8), (o / 64 * 64 + 20, 4)]
  else if 0x190000 ≤ o ∧ o < 0x198000 then partRegs.map fun x => (o / 4096 * 4096 + x.1, x.2)
  else [(0x11000, 1), (0x11008, 8), (0x12000, 4), (0x13000, 4), (0x18200, 4)]

/-- A register's value after a write of n bytes at an offset: the bytes covered change. -/
def State.mergeReg (s : State) (r w o n v : Nat) : Nat :=
  leNat ((List.range w).map fun i => if o ≤ r + i ∧ r + i < o + n then BitVec.ofNat 8 (v / 2 ^ (8 * (r + i - o))) else s.windowByte (r + i))

/-- A write of n bytes of the window: aligned; a doorbell's has 8 bytes (R398); it writes every register it covers a byte of (log
entry 63). -/
def State.writeWindow (s : State) (o n v : Nat) : State :=
  if !([1, 2, 4, 8].contains n) || !(o % n == 0) then s
  else if 0x100000 ≤ o ∧ o < 0x180000 then (if n = 8 then s.writeReg o v else s)
  else ((regsNear o).filter fun x => overlap x.1 x.2 o n).foldl (fun s x => s.writeReg x.1 (s.mergeReg x.1 x.2 o n v)) s

/-- A write held until a boundary takes effect with the partition that the window register named when it was made (R399). -/
def State.writeWindowFor (s : State) (p o n v : Nat) : State :=
  { ({ s with winPartition := p } : State).writeWindow o n v with winPartition := s.winPartition }

/-- HOST_REGISTER_WRITE: a write of some bytes at an offset of the control window. -/
def execHostRegisterWrite (offset : BitVec 32) (size : Nat) (value : BitVec 64) (s : State) : Result :=
  .next (match s.regPart offset.toNat with
    | some p => s.external p (.window s.winPartition offset.toNat size value) (·.writeWindow offset.toNat size value.toNat)
    | none => s.writeWindow offset.toNat size value.toNat)

/-! Input boundaries (R425). -/

/-- The source kind of an input, in the order R425 lists them. -/
def Input.kind : Input → Nat
  | .queueMap _ _ _ | .queueUnmap _ | .queueReset _ | .doorbell _ _ | .pagingDoorbell _ | .requeue _ _ | .cancel _ _ | .faultRead _ _
  | .register _ _ | .window _ _ _ _ => 0
  | .command _ v => if v = 3 then 4 else 0
  | .access _ _ _ _ _ _ | .enqueue _ _ _ _ _ _ | .enqueueReply _ _ _ | .noReply _ | .reply _ _ _ | .failed _ _ | .refused _ _ | .copied _ _ => 1
  | .signal _ _ _ _ _ | .pod _ _ _ _ _ _ => 2
  | .pool _ => 3
  | .preempt _ => 4
  | .nth i => i.kind

/-- Whether an input asks for a stop at a mark: it has no part in the re-execution that it starts. -/
def Input.isStop : Input → Bool
  | .command _ v => v == 1
  | _ => false

/-- Apply an input to its partition. -/
def applyPlain (p : Nat) (s : State) : Input → State
  | .queueMap p k a => s.mapQueue p k a
  | .queueUnmap k => s.unmapQueue k
  | .queueReset k => s.resetQueue k
  | .doorbell k v => s.doorbell k v
  | .pagingDoorbell q => s.pagingDoorbell q
  | .requeue q t => s.requeue q t
  | .cancel q t => s.cancelTask q t
  | .faultRead q v => s.readFaults q v
  | .command q v => s.command q v
  | .register o v => s.writeReg o v.toNat
  | .window p o n v => s.writeWindowFor p o n v.toNat
  | .access op q src va n bs => s.inboundAccess op q src va n bs
  | .enqueue op k q d pay pk => s.serveEnqueue op k q d pay pk
  | .enqueueReply op c pg => s.enqueueReply op c pg
  | .noReply op => s.noReply op
  | .reply op bs ws => s.landReply op bs ws
  | .failed op st => s.peerLoadFails op st
  | .refused op st => s.storeRefused op st
  | .copied op d => (s.copyDone op d).acbFill op d
  | .signal _ q pa add v => s.signalHome q pa add v
  | .pod q b n c k d => s.podArrival q b n c k d
  | .pool v => s.modPart p fun q => { q with pool := some v }
  | .preempt b => s.preempt b
  | .nth _ => s

/-- An input with what it names renamed. -/
def Input.rename (req copy blk : Nat → Nat) : Input → Input
  | .enqueueReply op c pg => .enqueueReply (req op) c pg
  | .noReply op => .noReply (req op)
  | .reply op bs ws => .reply (req op) bs ws
  | .failed op st => .failed (req op) st
  | .refused op st => .refused (req op) st
  | .copied op d => .copied (copy op) d
  | .preempt b => .preempt (blk b)
  | i => i

/-- The names of a partition's requests, engine copies and blocks, in their order. -/
def State.reqNames (s : State) (p : Nat) : List Nat := (s.reqs.filter fun r => s.bundleIn p r.bundle).map (·.id)
def State.copyNames (s : State) (p : Nat) : List Nat :=
  (s.copies.filter fun c => c.packet.isNone && s.bundleIn p c.bundle).map (·.id) ++ (s.acbs.filter fun c => s.bundleIn p c.bundle).map (·.id)
def State.blockNames (s : State) (p : Nat) : List Nat := (s.partBlocks p).map (·.id)

/-- An input as the log keeps it (R426). -/
def State.logged (s : State) (p : Nat) : Input → Input
  | .nth i => .nth i
  | i => if i.op.isNone then i
    else .nth (i.rename (fun x => (s.reqNames p).idxOf x) (fun x => (s.copyNames p).idxOf x) fun x => (s.blockNames p).idxOf x)

/-- An input as it applies now; a place that nothing has names nothing. -/
def State.denoted (s : State) (p : Nat) : Input → Input
  | .nth i =>
    let at_ (xs : List Nat) (k : Nat) : Nat := xs.getD k s.fresh
    i.rename (at_ (s.reqNames p)) (at_ (s.copyNames p)) (at_ (s.blockNames p))
  | i => i

/-- Whether a peer's answer could not land yet: it waits for a later boundary. -/
def Input.standing (s : State) : Input → Bool
  | .reply op _ _ | .failed op _ | .refused op _ => (s.req? op).isSome
  | .copied op _ => s.copies.any (·.id == op) || s.acbs.any fun c => c.id == op && c.slot.isSome
  | _ => false

/-- Apply inputs in order: the state, what was applied as the log keeps it, and the answers that wait. -/
def State.applyInputs (s : State) (p : Nat) (xs : List Input) : State × List Input × List Input :=
  xs.foldl (fun (acc : State × List Input × List Input) x =>
    let y := acc.1.denoted p x
    let t := applyPlain p acc.1 y
    if y.standing t then (t, acc.2.1, acc.2.2 ++ [y]) else (t, acc.2.1 ++ [acc.1.logged p x], acc.2.2)) (s, [], [])

/-- The inputs in the order a boundary applies them: by source kind, and within one by arrival. -/
def inputOrder (xs : List Input) : List Input := (List.range 5).flatMap fun k => xs.filter fun x => x.kind == k

/-- Whether a boundary is due: every 2^k clk; inputs still held when the mode has ended are applied at once. -/
def State.boundaryDue (s : State) (p : Nat) : Bool :=
  let q := s.part p
  if q.det then decide (q.boundaryClk + 2 ^ q.k ≤ s.clk) else !q.inputs.isEmpty

/-- A boundary: the held inputs, or in a re-execution the logged ones, are applied and logged, and %time is sampled; a stop at a mark, which
may start a re-execution of all of them, comes last (R425, R426, R428). -/
def State.inputBoundary (s : State) (p : Nat) : State :=
  let q := s.part p
  let again := if q.det then q.replay.head? else none
  let xs := match again with
    | some x => x.2.2
    | none => inputOrder q.inputs
  let now := match again with
    | some x => x.2.1
    | none => s.time 0
  let s := s.modPart p fun q => { q with
    boundary := q.boundary + 1, boundaryClk := s.clk, boundaryTime := now, inputs := if again.isSome then q.inputs else [] }
  let r := s.applyInputs p (xs.filter fun x => !x.isStop)
  let s := r.1.modPart p fun y => { y with
    inputs := y.inputs ++ r.2.2, replay := y.replay.drop 1
    logs := match y.logs with
      | [] => []
      | i :: is => { i with inputs := i.inputs ++ [(y.boundary, now, r.2.1)] } :: is }
  (xs.filter Input.isStop).foldl (fun s x => applyPlain p s x) s

/-- INPUT_BOUNDARY. -/
def execInputBoundary (partition : Nat) (s : State) : Result :=
  .next (if s.boundaryDue partition then s.inputBoundary partition else s)

end Sys2Proof.Machine
end

