-- ==== Sys2Proof/Machine/Turns.lean ====
section
/-! DEFINITION. What a step does around an instruction: whose turn it is (log entry 5), the clock's turn, a pipe's selection of an issue
group (R60 to R63), the fetch of its instruction (R21, R22), and what settles after every step. -/

namespace Sys2Proof.Machine

/-! The clock. -/

/-- The end of a clk: stall counters (R414), the clock, and since when module power has exceeded the cap (R433). -/
def State.tickClock (s : State) : State :=
  let s := { s.endClk with clk := s.clk + 1 }
  { s with overSince := if s.overCap then some (s.overSince.getD s.clk) else none }

/-- The clock's turn: input boundaries and checkpoints that are due come first (R425, R426). -/
def State.clockTurn (s : State) : State :=
  match (List.range 8).find? fun p => s.boundaryDue p && (s.part p).det with
  | some p => s.inputBoundary p
  | none => match (List.range 8).find? s.checkpointDue with
    | some p => s.checkpoint p
    | none => s.tickClock

/-! Selection (R61 to R63). -/

/-- The resident bundles of a pipe, in rotation order: those after the bundle that issued last come first (R62). -/
def State.pipeOrder (s : State) (core pipe : Nat) : List Bundle :=
  let bs := s.bundles.filter fun b => b.core == core && b.pipe == pipe
  let last := ((s.core core).pipes.getD pipe (0, 0)).1
  let n := bs.findIdx (·.id == last)
  if n < bs.length then bs.drop (n + 1) ++ bs.take (n + 1) else bs

/-- The lowest of some PCs, as unsigned addresses. -/
def lowestPc : List DWord → Option DWord
  | [] => none
  | p :: ps => match lowestPc ps with
    | none => some p
    | some q => some (if p.toNat ≤ q.toNat then p else q)

/-- The PC of the group that a bundle issues from its ready lanes (R62): the lowest, but the lowest with age 64 or more if there is
one. -/
def Bundle.choosePc (b : Bundle) (ready : List Nat) : Option DWord :=
  let old := ready.filter fun l => decide (64 ≤ (b.threads.getD l {}).waitCount)
  match lowestPc (old.map fun l => (b.threads.getD l {}).pc) with
  | some p => some p
  | none => lowestPc (ready.map fun l => (b.threads.getD l {}).pc)

/-- The ready lanes that stand at a PC: an issue group (R61). -/
def Bundle.groupAt (b : Bundle) (ready : List Nat) (pc : DWord) : List Nat := ready.filter fun l => (b.threads.getD l {}).pc == pc

/-- The bundle a pipe serves next, with its ready lanes. -/
def State.servedBundle (s : State) (core pipe : Nat) : Option (Bundle × List Nat) :=
  ((s.pipeOrder core pipe).map fun (b : Bundle) => (b, s.readyLanes b)).find? fun x => !x.2.isEmpty

/-- The issue interval of an instruction in clk (R63, R444). -/
def issueInterval (i : Instr) : Nat := match i with
  | .divI32 _ _ _ _ _ | .divZ32 _ _ _ _ _ | .remI32 _ _ _ _ _ | .remZ32 _ _ _ _ _ => 8
  | .dfma _ _ _ _ | .dadd _ _ _ _ _ | .dsub _ _ _ _ _ | .dmul _ _ _ _ _ | .dmin _ _ _ _ _ | .dmax _ _ _ _ _ => 2
  | .ddiv _ _ _ _ _ | .dsqrt _ _ _ => 16
  | .frcp _ _ _ | .frsq _ _ _ | .fsqrt _ _ _ | .fdiv _ _ _ _ _ | .fexp2 _ _ _ | .flog2 _ _ _ => 4
  | .fsinpi _ _ _ | .fcospi _ _ _ => 8
  | .mfrag _ _ _ _ => 4
  | _ => 1

/-- The wait counts after a group issues (R62): ready lanes outside it count one more, its own return to 0. -/
def Bundle.countWaits (b : Bundle) (ready group : List Nat) : Bundle :=
  { b with threads := b.threads.mapIdx fun l t =>
      if group.contains l then { t with waitCount := 0 } else if ready.contains l then { t with waitCount := t.waitCount + 1 } else t }

/-- A bundle has its turn: yields that wait for it no longer do (R72). -/
def Bundle.hadTurn (b : Bundle) (id : Nat) : Bundle :=
  { b with threads := b.threads.map fun t => match t.yield with
      | some y => { t with yield := some { y with others := y.others.filter fun o => !(o == id) } }
      | none => t }

/-- What a step is about to do. -/
inductive Action where
  | done (s : State)
  | run (s : State) (i : Instr)

/-- A bundle has issued on its pipe, which it holds for an interval (R59, R62, R63). -/
def State.usePipe (s : State) (b : Bundle) (n : Nat) : State :=
  s.modCore b.core fun c => { c with pipes := c.pipes.set b.pipe (b.id, s.clk + n) }

/-- A group whose instruction cannot be read traps RANGE (R22) in its active lanes; a lane that a PRED has switched off raises nothing
(R46) and goes on past the instruction: 4 bytes on where its first parcel is a long one's, else 2 or 4 (log entry 112). -/
def State.faultGroup (s : State) (g : Group) (b : Bundle) : State :=
  let long := match s.parcel b g.ipc.toNat with
    | some p => isLong p
    | none => Config.choice s.draw
  let off : State × List Met := (g.lanes.filter fun l => !(g.active.contains l)).foldl (fun acc l =>
    let m := acc.1.meetFinish g.bundle l g.start (g.ipc + if long then 4 else 2)
    (m.1, acc.2 ++ m.2)) (s.drawn, [])
  let met := off.1.meetAll g.bundle g.start g.ipc (g.active.map fun l =>
    (l, ({ cause := 5, detail := Config.fetchDetail g.start.toNat, addr := g.start } : Trap)))
  State.takeAll (met.1, met.2 ++ off.2) g.bundle

/-- An uncorrectable soft error that a thread's next instruction to use a structure will find (R321): 1 registers, 2 scratchpad,
3 accumulator. -/
def State.softError (s : State) (b l d : Nat) : State := s.modThread b l fun t => { t with soft := some (d % 3 + 1) }

/-- Whether an instruction uses a structure (R321): 1 a register it reads; 2 the scratchpad, by its stream's space, a copy engine or the
matrix unit's operands; 3 the accumulator store, by the engines of the matrix unit. -/
def State.usesUnit (s : State) (b : Bundle) (i : Instr) (d : Nat) : Bool :=
  let engine := match i with
    | .mtile _ | .mspt _ | .part _ => true
    | _ => false
  let copy := match i with
    | .acp _ _ _ _ _ _ | .acb _ _ => true
    | _ => false
  if d = 1 then (opnds i).srcs.any fun x => !(x.reg == 0 && x.n == 1)
  else if d = 2 then engine || copy || (streamOf i).any fun n => !(spaceOf (s.streamWord b n) == 0)
  else engine

/-- The lanes of a group whose instruction finds a soft error, with the structure (R321). -/
def State.softIn (s : State) (b : Bundle) (i : Instr) (ls : List Nat) : List (Nat × Nat) :=
  ls.filterMap fun l => ((b.threads.getD l {}).soft.filter (s.usesUnit b i)).map fun d => (l, d)

/-- A group without the lanes that find a soft error: they raise MCHK once the others are through (R322). -/
def Group.without (g : Group) (hits : List (Nat × Nat)) : Group :=
  let keep (ls : List Nat) : List Nat := ls.filter fun l => !(hits.any (·.1 == l))
  { g with lanes := keep g.lanes, active := keep g.active, hits := hits }

/-- The instruction of the issue group, fetched where it stands; one that cannot be read or decoded traps (R22, R25). -/
def State.fetchGroup (s : State) (g : Group) : Action :=
  match s.bundle? g.bundle with
  | none => .done { s with group := none }
  | some b => match s.fetch b g.ipc with
    | .instr i size word =>
      .run { s.usePipe b (issueInterval i) with group := some ({ g with size := size, word := word }.without (s.softIn b i g.active)) } i
    | .bad size word =>
      .done (({ s.usePipe b 1 with group := none }).raiseGroup { g with size := size, word := word } { cause := 3, detail := illegalDetail word [none] })
    | .fault => .done (({ s.usePipe b 1 with group := none }).faultGroup g b)

/-- A pipe's selection (R62, R63): none while the interval of its last instruction runs. -/
def State.pipeTurn (s : State) (core pipe : Nat) : Action :=
  if s.clk < ((s.core core).pipes.getD pipe (0, 0)).2 then .done s
  else match s.servedBundle core pipe with
    | none => .done s
    | some (b, ready) => match b.choosePc ready with
      | none => .done s
      | some pc =>
        let ls := b.groupAt ready pc
        let s := s.modBundle b.id fun (x : Bundle) => x.countWaits ready ls
        let s : State := { s with bundles := s.bundles.map fun (x : Bundle) => if x.core == core && x.pipe == pipe then x.hadTurn b.id else x }
        let s := s.modBlk b fun k => { k with clkDone := true }
        let s := match s.fetchPa b pc.toNat pc.toNat with
          | some pa => s.touch pa
          | none => s
        s.fetchGroup { bundle := b.id, lanes := ls, active := ls, start := pc, ipc := pc, size := 2, word := 0 }

/-! Turns. -/

/-- Events that act on a package whose clocks have stopped (R430, R435): reset, loss of power, and the test port. -/
def actsFrozen (i : Instr) : Bool := match i with
  | .powerOnReset | .powerFailure | .select _ | .read | .idcode | .bypass => true
  | _ => false

/-- Take the next turn from the agenda, or a free one. -/
def State.popTurn (s : State) : Turn × State := match s.agenda with
  | t :: ts => (t, { s with agenda := ts })
  | [] => (nextTurn s.turnNo, { s with turnNo := s.turnNo + 1 })

/-- What a step is about to do (log entry 5): go on with an issue group, or take a turn. -/
def State.move (s : State) : Action :=
  let still := s.frozen || s.bringup == 0
  match if still then none else s.group with
  | some g => s.fetchGroup g
  | none => match s.popTurn with
    | (.clk, s) => .done (if still then s else s.clockTurn)
    | (.pipe c p, s) => if still then .done s else s.pipeTurn c p
    | (.event e, s) => if still && !(actsFrozen e) then .done s else .run s e
    | (.soft b l d, s) => .done (if still then s else s.softError b l d)

/-! After a step. -/

/-- Everything that the units settle by themselves. -/
def State.settleAll (before s : State) : State :=
  let s := (((s.settleHeld.settle.settleTiles).settleTraps).settleSaves).settleNodes
  ((((State.settleGrids before s).settleMaps.settleRequeues).settlePackets).settleEnqueues).reclaim.settleSigning

/-- What a step leaves: nothing between a lead word and its follower, nor while the clocks stand; else what settles, the trace
records and the stops. -/
def State.afterStep (before s : State) : State :=
  if s.group.isSome || s.frozen || s.bringup == 0 then s
  else
    State.settleStops before (State.observe before s (State.settleAll before s))

/-- What an instruction leaves: MCHK in the lanes that found a soft error (R321, R322), and BRANCH records of its group (R422). -/
def State.afterInstr (t u : State) (i : Instr) : State :=
  match t.group with
  | some g => match t.bundle? g.bundle with
    | some b =>
      let u := u.raiseAll g.bundle g.start g.ipc (g.hits.map fun x => (x.1, { cause := 1, detail := BitVec.ofNat 64 x.2 }))
      u.traceBranch b g i
    | none => u
  | none => u

/-! Placing an instruction (log entry 20): what stands for a program's load and launch. -/

/-- Where the placed code lies, virtual and physical. -/
def placeAt : Nat := 0x10000

/-- A block of one thread that stands at an instruction's bytes, on core 0 and pipe 0, whose turn is next. -/
def State.place1 (s : State) (code : List Byte) : State :=
  let range : Range := { base := placeAt, len := code.length, r := true, w := false }
  let prog : Program := { entry := BitVec.ofNat 64 placeAt, codeBase := placeAt, codeLen := code.length, threads := 1, regs := 128 }
  let task : Task := {
    id := s.fresh, tid := 0, partition := 0, cls := 0, packet := 0, kind := .plain, index := 0, tcb := 0, program := prog, arg := 0
    phase := .running, leased := true, all := [range], xlat := [{ va := placeAt, pa := placeAt, len := code.length }] }
  let block : Block := {
    id := s.fresh + 1, task := s.fresh, core := 0, order := 0, nthreads := 1, allot := 128, spadSize := 0, streams := defaultStreams }
  let thread : Thread := { pc := BitVec.ofNat 64 placeAt, regs := List.replicate 128 {} }
  let bundle : Bundle := { id := s.fresh + 2, owner := .block (s.fresh + 1), index := 0, core := 0, pipe := 0, threads := [thread] }
  let others := s.bundles.filter fun b => !(b.core == 0 && b.pipe == 0)
  let reqs := s.reqs.filter fun r => !(r.core == 0)
  let s := s.modCore 0 fun c => { c with pipes := c.pipes.set 0 (0, 0) }
  { s with
    bringup := 6, frozen := false, group := none, agenda := [.pipe 0 0], fresh := s.fresh + 3, reqs := reqs
    mem := writeBytes s.mem placeAt code, tasks := task :: s.tasks, blocks := block :: s.blocks, bundles := bundle :: others }

end Sys2Proof.Machine
end

