-- ==== Sys2Proof/Machine/Dispatch.lean ====
section
/-! DEFINITION. The dispatch: one arm for each constructor of Instr, each one call of that instruction's meaning. -/

namespace Sys2Proof.Machine

/-- What an instruction, or an event of another agent, does to the machine. -/
def exec (i : Instr) (s : State) : Host.Outcome State Fault Refusal :=
  match i with
  | .movH imm b d => Sys2Proof.Machine.execMovH imm b d s
  | .addH imm b d => Sys2Proof.Machine.execAddH imm b d s
  | .subH imm b d => Sys2Proof.Machine.execSubH imm b d s
  | .mulH imm b d => Sys2Proof.Machine.execMulH imm b d s
  | .andH imm b d => Sys2Proof.Machine.execAndH imm b d s
  | .orH imm b d => Sys2Proof.Machine.execOrH imm b d s
  | .xorH imm b d => Sys2Proof.Machine.execXorH imm b d s
  | .shlH imm b d => Sys2Proof.Machine.execShlH imm b d s
  | .shrH imm b d => Sys2Proof.Machine.execShrH imm b d s
  | .sarH imm b d => Sys2Proof.Machine.execSarH imm b d s
  | .minH imm b d => Sys2Proof.Machine.execMinH imm b d s
  | .maxH imm b d => Sys2Proof.Machine.execMaxH imm b d s
  | .faddH imm b d => Sys2Proof.Machine.execFaddH imm b d s
  | .fmulH imm b d => Sys2Proof.Machine.execFmulH imm b d s
  | .fminH imm b d => Sys2Proof.Machine.execFminH imm b d s
  | .fmaxH imm b d => Sys2Proof.Machine.execFmaxH imm b d s
  | .add x y b a d => Sys2Proof.Machine.execAdd x y b a d s
  | .sub x y b a d => Sys2Proof.Machine.execSub x y b a d s
  | .and x y b a d => Sys2Proof.Machine.execAnd x y b a d s
  | .or x y b a d => Sys2Proof.Machine.execOr x y b a d s
  | .xor x y b a d => Sys2Proof.Machine.execXor x y b a d s
  | .andn x y b a d => Sys2Proof.Machine.execAndn x y b a d s
  | .addD x y b a d => Sys2Proof.Machine.execAddD x y b a d s
  | .subD x y b a d => Sys2Proof.Machine.execSubD x y b a d s
  | .shl x y b a d => Sys2Proof.Machine.execShl x y b a d s
  | .shr x y b a d => Sys2Proof.Machine.execShr x y b a d s
  | .sar x y b a d => Sys2Proof.Machine.execSar x y b a d s
  | .rol x y b a d => Sys2Proof.Machine.execRol x y b a d s
  | .ror x y b a d => Sys2Proof.Machine.execRor x y b a d s
  | .bfxi x y b a d => Sys2Proof.Machine.execBfxi x y b a d s
  | .bfxz x y b a d => Sys2Proof.Machine.execBfxz x y b a d s
  | .bfi x y b a d => Sys2Proof.Machine.execBfi x y b a d s
  | .minI32 x y b a d => Sys2Proof.Machine.execMinI32 x y b a d s
  | .maxI32 x y b a d => Sys2Proof.Machine.execMaxI32 x y b a d s
  | .minZ32 x y b a d => Sys2Proof.Machine.execMinZ32 x y b a d s
  | .maxZ32 x y b a d => Sys2Proof.Machine.execMaxZ32 x y b a d s
  | .addmin x y b a d => Sys2Proof.Machine.execAddmin x y b a d s
  | .addmax x y b a d => Sys2Proof.Machine.execAddmax x y b a d s
  | .absd x y b a d => Sys2Proof.Machine.execAbsd x y b a d s
  | .clamp x y b a d => Sys2Proof.Machine.execClamp x y b a d s
  | .mullo x y b a d => Sys2Proof.Machine.execMullo x y b a d s
  | .mulhiI32 x y b a d => Sys2Proof.Machine.execMulhiI32 x y b a d s
  | .mulhiZ32 x y b a d => Sys2Proof.Machine.execMulhiZ32 x y b a d s
  | .madlo x y b a d => Sys2Proof.Machine.execMadlo x y b a d s
  | .divI32 x y b a d => Sys2Proof.Machine.execDivI32 x y b a d s
  | .divZ32 x y b a d => Sys2Proof.Machine.execDivZ32 x y b a d s
  | .remI32 x y b a d => Sys2Proof.Machine.execRemI32 x y b a d s
  | .remZ32 x y b a d => Sys2Proof.Machine.execRemZ32 x y b a d s
  | .popc y a d => Sys2Proof.Machine.execPopc y a d s
  | .clz y a d => Sys2Proof.Machine.execClz y a d s
  | .ctz y a d => Sys2Proof.Machine.execCtz y a d s
  | .brev y a d => Sys2Proof.Machine.execBrev y a d s
  | .pfxp x y b a d => Sys2Proof.Machine.execPfxp x y b a d s
  | .perm x y b a d => Sys2Proof.Machine.execPerm x y b a d s
  | .find x y b a d => Sys2Proof.Machine.execFind x y b a d s
  | .addi imm a d => Sys2Proof.Machine.execAddi imm a d s
  | .andi imm a d => Sys2Proof.Machine.execAndi imm a d s
  | .ori imm a d => Sys2Proof.Machine.execOri imm a d s
  | .xori imm a d => Sys2Proof.Machine.execXori imm a d s
  | .shli imm a d => Sys2Proof.Machine.execShli imm a d s
  | .shri imm a d => Sys2Proof.Machine.execShri imm a d s
  | .sari imm a d => Sys2Proof.Machine.execSari imm a d s
  | .roli imm a d => Sys2Proof.Machine.execRoli imm a d s
  | .movi imm d => Sys2Proof.Machine.execMovi imm d s
  | .cmp x y c b a k p => Sys2Proof.Machine.execCmp x y c b a k p s
  | .cmpi y c imm a k p => Sys2Proof.Machine.execCmpi y c imm a k p s
  | .sel x y q b a d => Sys2Proof.Machine.execSel x y q b a d s
  | .fadd x y b a d => Sys2Proof.Machine.execFadd x y b a d s
  | .fsub x y b a d => Sys2Proof.Machine.execFsub x y b a d s
  | .fmul x y b a d => Sys2Proof.Machine.execFmul x y b a d s
  | .fmin x y b a d => Sys2Proof.Machine.execFmin x y b a d s
  | .fmax x y b a d => Sys2Proof.Machine.execFmax x y b a d s
  | .fabs y a d => Sys2Proof.Machine.execFabs y a d s
  | .fneg y a d => Sys2Proof.Machine.execFneg y a d s
  | .fcpys x y b a d => Sys2Proof.Machine.execFcpys x y b a d s
  | .ffma c b a d => Sys2Proof.Machine.execFfma c b a d s
  | .fma2 t c b a d => Sys2Proof.Machine.execFma2 t c b a d s
  | .dfma c b a d => Sys2Proof.Machine.execDfma c b a d s
  | .duaddF16 x y b a d => Sys2Proof.Machine.execDuaddF16 x y b a d s
  | .duaddBf16 x y b a d => Sys2Proof.Machine.execDuaddBf16 x y b a d s
  | .dumulF16 x y b a d => Sys2Proof.Machine.execDumulF16 x y b a d s
  | .dumulBf16 x y b a d => Sys2Proof.Machine.execDumulBf16 x y b a d s
  | .duminF16 x y b a d => Sys2Proof.Machine.execDuminF16 x y b a d s
  | .duminBf16 x y b a d => Sys2Proof.Machine.execDuminBf16 x y b a d s
  | .dumaxF16 x y b a d => Sys2Proof.Machine.execDumaxF16 x y b a d s
  | .dumaxBf16 x y b a d => Sys2Proof.Machine.execDumaxBf16 x y b a d s
  | .dadd x y b a d => Sys2Proof.Machine.execDadd x y b a d s
  | .dsub x y b a d => Sys2Proof.Machine.execDsub x y b a d s
  | .dmul x y b a d => Sys2Proof.Machine.execDmul x y b a d s
  | .dmin x y b a d => Sys2Proof.Machine.execDmin x y b a d s
  | .dmax x y b a d => Sys2Proof.Machine.execDmax x y b a d s
  | .ddiv x y b a d => Sys2Proof.Machine.execDdiv x y b a d s
  | .dsqrt y a d => Sys2Proof.Machine.execDsqrt y a d s
  | .frcp y a d => Sys2Proof.Machine.execFrcp y a d s
  | .frsq y a d => Sys2Proof.Machine.execFrsq y a d s
  | .fsqrt y a d => Sys2Proof.Machine.execFsqrt y a d s
  | .fdiv x y b a d => Sys2Proof.Machine.execFdiv x y b a d s
  | .fexp2 y a d => Sys2Proof.Machine.execFexp2 y a d s
  | .flog2 y a d => Sys2Proof.Machine.execFlog2 y a d s
  | .fsinpi y a d => Sys2Proof.Machine.execFsinpi y a d s
  | .fcospi y a d => Sys2Proof.Machine.execFcospi y a d s
  | .cvt st r t u a d => Sys2Proof.Machine.execCvt st r t u a d s
  | .cvtp st u a d => Sys2Proof.Machine.execCvtp st u a d s
  | .cvtpEf st u e a d => Sys2Proof.Machine.execCvtpEf st u e a d s
  | .dot4I8 x y b a d => Sys2Proof.Machine.execDot4I8 x y b a d s
  | .dot4Z8 x y b a d => Sys2Proof.Machine.execDot4Z8 x y b a d s
  | .dot8I4 x y b a d => Sys2Proof.Machine.execDot8I4 x y b a d s
  | .dot8Z4 x y b a d => Sys2Proof.Machine.execDot8Z4 x y b a d s
  | .dot4D8a x y b a d => Sys2Proof.Machine.execDot4D8a x y b a d s
  | .dot4D8b x y b a d => Sys2Proof.Machine.execDot4D8b x y b a d s
  | .dot8D4 x y b a d => Sys2Proof.Machine.execDot8D4 x y b a d s
  | .dot2Bf16 x y b a d => Sys2Proof.Machine.execDot2Bf16 x y b a d s
  | .lgetIdx x y b a d => Sys2Proof.Machine.execLgetIdx x y b a d s
  | .lgetUp x y b a d => Sys2Proof.Machine.execLgetUp x y b a d s
  | .lgetDn x y b a d => Sys2Proof.Machine.execLgetDn x y b a d s
  | .lgetXor x y b a d => Sys2Proof.Machine.execLgetXor x y b a d s
  | .ballot y a d => Sys2Proof.Machine.execBallot y a d s
  | .redAddI32 y a d => Sys2Proof.Machine.execRedAddI32 y a d s
  | .scanAddI32 y a d => Sys2Proof.Machine.execScanAddI32 y a d s
  | .redMinI32 y a d => Sys2Proof.Machine.execRedMinI32 y a d s
  | .ld o z st p d => Sys2Proof.Machine.execLd o z st p d s
  | .st o z st p d => Sys2Proof.Machine.execSt o z st p d s
  | .ldacqW k st p d => Sys2Proof.Machine.execLdacqW k st p d s
  | .ldacqD k st p d => Sys2Proof.Machine.execLdacqD k st p d s
  | .strelW k st p d => Sys2Proof.Machine.execStrelW k st p d s
  | .strelD k st p d => Sys2Proof.Machine.execStrelD k st p d s
  | .pfetch o st p => Sys2Proof.Machine.execPfetch o st p s
  | .ldsmpW o st p d => Sys2Proof.Machine.execLdsmpW o st p d s
  | .fenceX m => Sys2Proof.Machine.execFenceX m s
  | .fenceAr m k => Sys2Proof.Machine.execFenceAr m k s
  | .fenceSc m k => Sys2Proof.Machine.execFenceSc m k s
  | .fenceEng m k => Sys2Proof.Machine.execFenceEng m k s
  | .stflush m => Sys2Proof.Machine.execStflush m s
  | .refetchFence => Sys2Proof.Machine.execRefetchFence s
  | .atomAdd n k st p d => Sys2Proof.Machine.execAtomAdd n k st p d s
  | .atomMinI32 n k st p d => Sys2Proof.Machine.execAtomMinI32 n k st p d s
  | .atomMaxI32 n k st p d => Sys2Proof.Machine.execAtomMaxI32 n k st p d s
  | .atomMinZ32 n k st p d => Sys2Proof.Machine.execAtomMinZ32 n k st p d s
  | .atomMaxZ32 n k st p d => Sys2Proof.Machine.execAtomMaxZ32 n k st p d s
  | .atomAnd n k st p d => Sys2Proof.Machine.execAtomAnd n k st p d s
  | .atomOr n k st p d => Sys2Proof.Machine.execAtomOr n k st p d s
  | .atomXor n k st p d => Sys2Proof.Machine.execAtomXor n k st p d s
  | .atomExch n k st p d => Sys2Proof.Machine.execAtomExch n k st p d s
  | .atomCas n k st p d => Sys2Proof.Machine.execAtomCas n k st p d s
  | .atomIncw n k st p d => Sys2Proof.Machine.execAtomIncw n k st p d s
  | .atomDecw n k st p d => Sys2Proof.Machine.execAtomDecw n k st p d s
  | .atomFaddF32 n k st p d => Sys2Proof.Machine.execAtomFaddF32 n k st p d s
  | .atomFminF32 n k st p d => Sys2Proof.Machine.execAtomFminF32 n k st p d s
  | .atomFmaxF32 n k st p d => Sys2Proof.Machine.execAtomFmaxF32 n k st p d s
  | .atomAddD n k st p d => Sys2Proof.Machine.execAtomAddD n k st p d s
  | .txb d => Sys2Proof.Machine.execTxb d s
  | .txe => Sys2Proof.Machine.execTxe s
  | .txa imm => Sys2Proof.Machine.execTxa imm s
  | .fput b a d => Sys2Proof.Machine.execFput b a d s
  | .fputt b a d => Sys2Proof.Machine.execFputt b a d s
  | .fget a d => Sys2Proof.Machine.execFget a d s
  | .barArr n q => Sys2Proof.Machine.execBarArr n q s
  | .barWait n q => Sys2Proof.Machine.execBarWait n q s
  | .barSync n q => Sys2Proof.Machine.execBarSync n q s
  | .barAddb n q a => Sys2Proof.Machine.execBarAddb n q a s
  | .barChk n q => Sys2Proof.Machine.execBarChk n q s
  | .callo b a d => Sys2Proof.Machine.execCallo b a d s
  | .crply imm a => Sys2Proof.Machine.execCrply imm a s
  | .objreg a d => Sys2Proof.Machine.execObjreg a d s
  | .objrst a d => Sys2Proof.Machine.execObjrst a d s
  | .rcv => Sys2Proof.Machine.execRcv s
  | .mke d => Sys2Proof.Machine.execMke d s
  | .waitf a => Sys2Proof.Machine.execWaitf a s
  | .cbpush q d => Sys2Proof.Machine.execCbpush q d s
  | .cbcmt q => Sys2Proof.Machine.execCbcmt q s
  | .cbwait q d => Sys2Proof.Machine.execCbwait q d s
  | .cbpop q => Sys2Proof.Machine.execCbpop q s
  | .acwait t => Sys2Proof.Machine.execAcwait t s
  | .regrow imm => Sys2Proof.Machine.execRegrow imm s
  | .regshr imm => Sys2Proof.Machine.execRegshr imm s
  | .cont a => Sys2Proof.Machine.execCont a s
  | .wrec b a => Sys2Proof.Machine.execWrec b a s
  | .pwenq a d => Sys2Proof.Machine.execPwenq a d s
  | .yield => Sys2Proof.Machine.execYield s
  | .exit => Sys2Proof.Machine.execExit s
  | .setprg a => Sys2Proof.Machine.execSetprg a s
  | .acp b st t v p o => Sys2Proof.Machine.execAcp b st t v p o s
  | .mfrag c b a d => Sys2Proof.Machine.execMfrag c b a d s
  | .mtile a => Sys2Proof.Machine.execMtile a s
  | .mspt a => Sys2Proof.Machine.execMspt a s
  | .mring z => Sys2Proof.Machine.execMring z s
  | .mwait st => Sys2Proof.Machine.execMwait st s
  | .part a => Sys2Proof.Machine.execPart a s
  | .pwait st => Sys2Proof.Machine.execPwait st s
  | .acb q a => Sys2Proof.Machine.execAcb q a s
  | .calcfg k a => Sys2Proof.Machine.execCalcfg k a s
  | .calref k a => Sys2Proof.Machine.execCalref k a s
  | .calbnd k a => Sys2Proof.Machine.execCalbnd k a s
  | .calrd v k d => Sys2Proof.Machine.execCalrd v k d s
  | .carvinv a => Sys2Proof.Machine.execCarvinv a s
  | .stmap a d => Sys2Proof.Machine.execStmap a d s
  | .stunmap a => Sys2Proof.Machine.execStunmap a s
  | .nodeRd f d => Sys2Proof.Machine.execNodeRd f d s
  | .nodeIn a d => Sys2Proof.Machine.execNodeIn a d s
  | .nodeUp b a => Sys2Proof.Machine.execNodeUp b a s
  | .nodeDn b a => Sys2Proof.Machine.execNodeDn b a s
  | .xnext b a d => Sys2Proof.Machine.execXnext b a d s
  | .setstrm st a => Sys2Proof.Machine.execSetstrm st a s
  | .mtok d => Sys2Proof.Machine.execMtok d s
  | .br imm n p => Sys2Proof.Machine.execBr imm n p s
  | .call imm => Sys2Proof.Machine.execCall imm s
  | .jmp p => Sys2Proof.Machine.execJmp p s
  | .callr p => Sys2Proof.Machine.execCallr p s
  | .ret p => Sys2Proof.Machine.execRet p s
  | .nop => Sys2Proof.Machine.execNop s
  | .pred n q => Sys2Proof.Machine.execPred n q s
  | .srd a d => Sys2Proof.Machine.execSrd a d s
  | .swr a d => Sys2Proof.Machine.execSwr a d s
  | .setrm r => Sys2Proof.Machine.execSetrm r s
  | .clrff d => Sys2Proof.Machine.execClrff d s
  | .trapi imm => Sys2Proof.Machine.execTrapi imm s
  | .brk => Sys2Proof.Machine.execBrk s
  | .rett => Sys2Proof.Machine.execRett s
  | .kill => Sys2Proof.Machine.execKill s
  | .killb => Sys2Proof.Machine.execKillb s
  | .oreg a d => Sys2Proof.Machine.execOreg a d s
  | .owr a d => Sys2Proof.Machine.execOwr a d s
  | .opc d => Sys2Proof.Machine.execOpc d s
  | .halt => Sys2Proof.Machine.execHalt s
  | .refetch => Sys2Proof.Machine.execRefetch s
  | .ext imm => Sys2Proof.Machine.execExt imm s
  | .laneResultWrite op => Sys2Proof.Machine.execLaneResultWrite op s
  | .mfragResultWrite op => Sys2Proof.Machine.execMfragResultWrite op s
  | .yieldEnd bundle lane => Sys2Proof.Machine.execYieldEnd bundle lane s
  | .lateResultArrival op => Sys2Proof.Machine.execLateResultArrival op s
  | .storeQueueDrain op => Sys2Proof.Machine.execStoreQueueDrain op s
  | .homeStoreArrival op => Sys2Proof.Machine.execHomeStoreArrival op s
  | .storeAcknowledgement op => Sys2Proof.Machine.execStoreAcknowledgement op s
  | .homeLoadRequest op => Sys2Proof.Machine.execHomeLoadRequest op s
  | .ctimeTick core => Sys2Proof.Machine.execCtimeTick core s
  | .remoteCopyExpiry die line => Sys2Proof.Machine.execRemoteCopyExpiry die line s
  | .negativeAcknowledgement op => Sys2Proof.Machine.execNegativeAcknowledgement op s
  | .backoffResend op => Sys2Proof.Machine.execBackoffResend op s
  | .peerLoadFailure op status => Sys2Proof.Machine.execPeerLoadFailure op status s
  | .stashFillReturn block map line => Sys2Proof.Machine.execStashFillReturn block map line s
  | .stashLineRecall block map line => Sys2Proof.Machine.execStashLineRecall block map line s
  | .engineRegistration op => Sys2Proof.Machine.execEngineRegistration op s
  | .engineLineWrite op => Sys2Proof.Machine.execEngineLineWrite op s
  | .copyComplete op => Sys2Proof.Machine.execCopyComplete op s
  | .acbSlotCommit op => Sys2Proof.Machine.execAcbSlotCommit op s
  | .networkBarrierArrival block bar => Sys2Proof.Machine.execNetworkBarrierArrival block bar s
  | .blockAdmission block core => Sys2Proof.Machine.execBlockAdmission block core s
  | .blockCompletion block => Sys2Proof.Machine.execBlockCompletion block s
  | .regrowGrant core => Sys2Proof.Machine.execRegrowGrant core s
  | .regshrShed block => Sys2Proof.Machine.execRegshrShed block s
  | .handlerWaveFormation block => Sys2Proof.Machine.execHandlerWaveFormation block s
  | .impreciseFault op status => Sys2Proof.Machine.execImpreciseFault op status s
  | .preemptionRequest block => Sys2Proof.Machine.execPreemptionRequest block s
  | .drainLimitExpiry block => Sys2Proof.Machine.execDrainLimitExpiry block s
  | .blockRestore block core => Sys2Proof.Machine.execBlockRestore block core s
  | .urgentAdmissionTimeout block => Sys2Proof.Machine.execUrgentAdmissionTimeout block s
  | .txValidateAtHome bundle lane => Sys2Proof.Machine.execTxValidateAtHome bundle lane s
  | .txCommitResult bundle lane => Sys2Proof.Machine.execTxCommitResult bundle lane s
  | .turnTokenGrant die => Sys2Proof.Machine.execTurnTokenGrant die s
  | .futureOpAtHome op => Sys2Proof.Machine.execFutureOpAtHome op s
  | .futureAnswer op => Sys2Proof.Machine.execFutureAnswer op s
  | .objregAtHome op => Sys2Proof.Machine.execObjregAtHome op s
  | .calloArrival op => Sys2Proof.Machine.execCalloArrival op s
  | .combinerWaveFormation object => Sys2Proof.Machine.execCombinerWaveFormation object s
  | .combinerWaveEnd wave => Sys2Proof.Machine.execCombinerWaveEnd wave s
  | .combinerWaveAbort wave => Sys2Proof.Machine.execCombinerWaveAbort wave s
  | .calloReply op => Sys2Proof.Machine.execCalloReply op s
  | .powerTokenGrant die => Sys2Proof.Machine.execPowerTokenGrant die s
  | .tileCommandComplete op => Sys2Proof.Machine.execTileCommandComplete op s
  | .partComplete op => Sys2Proof.Machine.execPartComplete op s
  | .msptAtCarver op => Sys2Proof.Machine.execMsptAtCarver op s
  | .carverCompileEnd op => Sys2Proof.Machine.execCarverCompileEnd op s
  | .nodeCompletion op => Sys2Proof.Machine.execNodeCompletion op s
  | .pageLease task => Sys2Proof.Machine.execPageLease task s
  | .pagingDoorbell partition => Sys2Proof.Machine.execPagingDoorbell partition s
  | .requeue partition task => Sys2Proof.Machine.execRequeue partition task s
  | .cancel partition task => Sys2Proof.Machine.execCancel partition task s
  | .gangAdmission op quad => Sys2Proof.Machine.execGangAdmission op quad s
  | .workGraphRecordArrival op => Sys2Proof.Machine.execWorkGraphRecordArrival op s
  | .workGraphBundleLaunch node => Sys2Proof.Machine.execWorkGraphBundleLaunch node s
  | .pageCompression partition va => Sys2Proof.Machine.execPageCompression partition va s
  | .pageMigration partition va => Sys2Proof.Machine.execPageMigration partition va s
  | .inboundAccess op partition source va size data => Sys2Proof.Machine.execInboundAccess op partition source va size data s
  | .inboundTimeout op => Sys2Proof.Machine.execInboundTimeout op s
  | .pwenqAtTarget op pkg partition desc payload packet => Sys2Proof.Machine.execPwenqAtTarget op pkg partition desc payload packet s
  | .pwenqReply op code page => Sys2Proof.Machine.execPwenqReply op code page s
  | .pwenqNoReply op => Sys2Proof.Machine.execPwenqNoReply op s
  | .queueMap slot qcb => Sys2Proof.Machine.execQueueMap slot qcb s
  | .queueUnmap slot => Sys2Proof.Machine.execQueueUnmap slot s
  | .queueReset slot => Sys2Proof.Machine.execQueueReset slot s
  | .doorbell slot value => Sys2Proof.Machine.execDoorbell slot value s
  | .tree slot => Sys2Proof.Machine.execTree slot s
  | .task slot => Sys2Proof.Machine.execTask slot s
  | .gang slot => Sys2Proof.Machine.execGang slot s
  | .barrier slot => Sys2Proof.Machine.execBarrier slot s
  | .copy slot => Sys2Proof.Machine.execCopy slot s
  | .signal slot => Sys2Proof.Machine.execSignal slot s
  | .wnode slot => Sys2Proof.Machine.execWnode slot s
  | .measure slot => Sys2Proof.Machine.execMeasure slot s
  | .nopPacket slot => Sys2Proof.Machine.execNopPacket slot s
  | .packetCompletion op => Sys2Proof.Machine.execPacketCompletion op s
  | .heldRecordFlush partition => Sys2Proof.Machine.execHeldRecordFlush partition s
  | .interruptCoalesceTimeout partition => Sys2Proof.Machine.execInterruptCoalesceTimeout partition s
  | .partitionConfigCommand value => Sys2Proof.Machine.execPartitionConfigCommand value s
  | .partitionInstall => Sys2Proof.Machine.execPartitionInstall s
  | .leaderRenew => Sys2Proof.Machine.execLeaderRenew s
  | .leaderPoll die => Sys2Proof.Machine.execLeaderPoll die s
  | .headstockTakeover die => Sys2Proof.Machine.execHeadstockTakeover die s
  | .observationControlWrite partition value => Sys2Proof.Machine.execObservationControlWrite partition value s
  | .stopAtTheMark partition => Sys2Proof.Machine.execStopAtTheMark partition s
  | .resumeThePartition partition => Sys2Proof.Machine.execResumeThePartition partition s
  | .haltTask partition => Sys2Proof.Machine.execHaltTask partition s
  | .resumeTask partition => Sys2Proof.Machine.execResumeTask partition s
  | .setSingleStep partition => Sys2Proof.Machine.execSetSingleStep partition s
  | .clearSingleStep partition => Sys2Proof.Machine.execClearSingleStep partition s
  | .resumeObservation partition => Sys2Proof.Machine.execResumeObservation partition s
  | .inputBoundary partition => Sys2Proof.Machine.execInputBoundary partition s
  | .checkpoint partition => Sys2Proof.Machine.execCheckpoint partition s
  | .lockstepInputMessage partition kind target value => Sys2Proof.Machine.execLockstepInputMessage partition kind target value s
  | .lockstepHashArrival partition hash => Sys2Proof.Machine.execLockstepHashArrival partition hash s
  | .lockstepHashTimeout partition => Sys2Proof.Machine.execLockstepHashTimeout partition s
  | .freezePin => Sys2Proof.Machine.execFreezePin s
  | .freezeRegisterWrite value => Sys2Proof.Machine.execFreezeRegisterWrite value s
  | .select unit => Sys2Proof.Machine.execSelect unit s
  | .read => Sys2Proof.Machine.execRead s
  | .idcode => Sys2Proof.Machine.execIdcode s
  | .bypass => Sys2Proof.Machine.execBypass s
  | .powerCapWrite value => Sys2Proof.Machine.execPowerCapWrite value s
  | .powerOverage => Sys2Proof.Machine.execPowerOverage s
  | .monitorRefresh die => Sys2Proof.Machine.execMonitorRefresh die s
  | .thermalRestore => Sys2Proof.Machine.execThermalRestore s
  | .voltageStop => Sys2Proof.Machine.execVoltageStop s
  | .attestationChallenge challenge => Sys2Proof.Machine.execAttestationChallenge challenge s
  | .powerOnReset => Sys2Proof.Machine.execPowerOnReset s
  | .bringupStep => Sys2Proof.Machine.execBringupStep s
  | .hostRegisterWrite offset size value => Sys2Proof.Machine.execHostRegisterWrite offset size value s
  | .lapseClockPassed bundle lane => Sys2Proof.Machine.execLapseClockPassed bundle lane s
  | .stallCounterClock block => Sys2Proof.Machine.execStallCounterClock block s
  | .powerFallsBelowCap => Sys2Proof.Machine.execPowerFallsBelowCap s
  | .msiXVectorUnmask vector => Sys2Proof.Machine.execMsiXVectorUnmask vector s
  | .faultQueueReadIndexWrite partition value => Sys2Proof.Machine.execFaultQueueReadIndexWrite partition value s
  | .objrstAtHome op => Sys2Proof.Machine.execObjrstAtHome op s
  | .pageMoveEnd op => Sys2Proof.Machine.execPageMoveEnd op s
  | .hottestReadingRead die => Sys2Proof.Machine.execHottestReadingRead die s
  | .powerFailure => Sys2Proof.Machine.execPowerFailure s

end Sys2Proof.Machine
end

