-- ==== Sys2Proof/Machine/Step.lean ====
section
/-! DEFINITION. The step, and the placing of an instruction where the next step fetches. -/

namespace Sys2Proof.Machine

/-- One step: a turn of the clock or of a pipe, an event, or an issue group's next instruction. -/
def step (s : State) : Host.Outcome State Fault Refusal :=
  match s.move with
  | .done t => .next (State.afterStep s t)
  | .run t i => match exec i t with
    | .next u => .next (State.afterStep s (State.afterInstr t u i))
    | .fault r => .fault r
    | .refused r => .refused r

/-- The state with an instruction where the next step fetches: its bits numbered as the opcode table numbers them, zeros above
them up to the longest instruction. -/
def State.withFetchWord (s : State) (nbits w : Nat) : State := s.place1 (Sys2Proof.tableBytes nbits w)

end Sys2Proof.Machine
end

