-- ==== Sys2Proof/Laws/Decode.lean ====
section
/-! SUPPORT. The bytes of an encoding come back as its word (R2, R21), and which decoder reads it. -/

namespace Sys2Proof

theorem short_bytes (w : BitVec 16) : w.extractLsb' 8 8 ++ w.extractLsb' 0 8 = w := by
  ext i hi
  simp only [BitVec.getElem_append, BitVec.getElem_extractLsb']
  split
  · simp [BitVec.getElem_eq_testBit_toNat, BitVec.testBit_toNat]
  · next h => simp [show 8 + (i - 8) = i by omega, BitVec.getElem_eq_testBit_toNat, BitVec.testBit_toNat]

theorem low_parcel (w : BitVec 32) : w.extractLsb' 8 8 ++ w.extractLsb' 0 8 = w.extractLsb' 0 16 := by
  ext i hi
  simp only [BitVec.getElem_append, BitVec.getElem_extractLsb']
  split
  · simp
  · next h => simp [show 8 + (i - 8) = i by omega]

theorem long_bytes (w : BitVec 32) : (w.extractLsb' 24 8 ++ w.extractLsb' 16 8) ++ (w.extractLsb' 8 8 ++ w.extractLsb' 0 8) = w := by
  ext i hi
  simp only [BitVec.getElem_append, BitVec.getElem_extractLsb']
  split
  · split
    · simp [BitVec.getElem_eq_testBit_toNat, BitVec.testBit_toNat]
    · next h => simp [show 8 + (i - 8) = i by omega, BitVec.getElem_eq_testBit_toNat, BitVec.testBit_toNat]
  · split
    · next h => simp [show 16 + (i - 16) = i by omega, BitVec.getElem_eq_testBit_toNat, BitVec.testBit_toNat]
    · next h => simp [show 24 + (i - 16 - 8) = i by omega, BitVec.getElem_eq_testBit_toNat, BitVec.testBit_toNat]

/-- A word of 16 bits whose lowest bit is clear is read back as form H. -/
theorem decodeBytes_short (w : BitVec 16) (h : w.extractLsb' 0 1 = 0#1) (rest : List (BitVec 8)) :
    decodeBytes ((Encoding.short w).bytes ++ rest) = some (.ok (decodeH w), rest) := by
  simp [Encoding.bytes, decodeBytes, short_bytes, isLong, h]

/-- A word of 32 bits whose lowest bit is set is read back whole. -/
theorem decodeBytes_long (w : BitVec 32) (h : w.extractLsb' 0 1 = 1#1) (rest : List (BitVec 8)) :
    decodeBytes ((Encoding.long w).bytes ++ rest) = some (decode32 w, rest) := by
  have hl : isLong (w.extractLsb' 8 8 ++ w.extractLsb' 0 8) = true := by
    have : (w.extractLsb' 0 16).extractLsb' 0 1 = w.extractLsb' 0 1 := by
      ext i hi
      simp [BitVec.getElem_extractLsb']
    simp [low_parcel, isLong, this, h]
  simp only [Encoding.bytes, List.cons_append, List.nil_append, decodeBytes, hl, if_true, decodeWord, long_bytes]

end Sys2Proof
end

