-- ==== Sys2Proof/Laws/PerInstr.lean ====
section
/-! SUPPORT. Per instruction: the bytes of its encoding decode to it again, every operand at every value its field holds (R21 to
R48). An event has no encoding. -/

set_option linter.unusedSimpArgs false

namespace Sys2Proof.Laws.EncodeDecode

open Sys2Proof

/-- What is said of each instruction. -/
def Statement (i : Instr) : Prop :=
  ∀ e, encode i = some e → ∀ rest, decodeBytes (e.bytes ++ rest) = some (.ok i, rest)

theorem ofShort {i : Instr} {w : BitVec 16} (he : encode i = some (.short w)) (h0 : w.extractLsb' 0 1 = 0#1) (hd : decodeH w = i) :
    Statement i := by
  intro e h rest
  rw [he] at h
  cases h
  rw [decodeBytes_short w h0, hd]

theorem ofLong {i : Instr} {w : BitVec 32} (he : encode i = some (.long w)) (h0 : w.extractLsb' 0 1 = 1#1) (hd : decode32 w = .ok i) :
    Statement i := by
  intro e h rest
  rw [he] at h
  cases h
  rw [decodeBytes_long w h0, hd]

theorem ofEvent {i : Instr} (he : encode i = none) : Statement i := by
  intro e h
  rw [he] at h
  cases h

theorem movH (i : BitVec 1) (b d : BitVec 5) : Statement (.movH i b d) := by
  refine ofShort rfl ?_ ?_
  · simp (disch := decide) only [BitVec.extractLsb'_append_eq_of_le, BitVec.extractLsb'_append_eq_of_add_le]; decide
  · simp (disch := decide) only [decodeH, BitVec.extractLsb'_append_eq_of_le, BitVec.extractLsb'_append_eq_of_add_le]; simp
theorem addH (i : BitVec 1) (b d : BitVec 5) : Statement (.addH i b d) := by
  refine ofShort rfl ?_ ?_
  · simp (disch := decide) only [BitVec.extractLsb'_append_eq_of_le, BitVec.extractLsb'_append_eq_of_add_le]; decide
  · simp (disch := decide) only [decodeH, BitVec.extractLsb'_append_eq_of_le, BitVec.extractLsb'_append_eq_of_add_le]; simp
theorem subH (i : BitVec 1) (b d : BitVec 5) : Statement (.subH i b d) := by
  refine ofShort rfl ?_ ?_
  · simp (disch := decide) only [BitVec.extractLsb'_append_eq_of_le, BitVec.extractLsb'_append_eq_of_add_le]; decide
  · simp (disch := decide) only [decodeH, BitVec.extractLsb'_append_eq_of_le, BitVec.extractLsb'_append_eq_of_add_le]; simp
theorem mulH (i : BitVec 1) (b d : BitVec 5) : Statement (.mulH i b d) := by
  refine ofShort rfl ?_ ?_
  · simp (disch := decide) only [BitVec.extractLsb'_append_eq_of_le, BitVec.extractLsb'_append_eq_of_add_le]; decide
  · simp (disch := decide) only [decodeH, BitVec.extractLsb'_append_eq_of_le, BitVec.extractLsb'_append_eq_of_add_le]; simp
theorem andH (i : BitVec 1) (b d : BitVec 5) : Statement (.andH i b d) := by
  refine ofShort rfl ?_ ?_
  · simp (disch := decide) only [BitVec.extractLsb'_append_eq_of_le, BitVec.extractLsb'_append_eq_of_add_le]; decide
  · simp (disch := decide) only [decodeH, BitVec.extractLsb'_append_eq_of_le, BitVec.extractLsb'_append_eq_of_add_le]; simp
theorem orH (i : BitVec 1) (b d : BitVec 5) : Statement (.orH i b d) := by
  refine ofShort rfl ?_ ?_
  · simp (disch := decide) only [BitVec.extractLsb'_append_eq_of_le, BitVec.extractLsb'_append_eq_of_add_le]; decide
  · simp (disch := decide) only [decodeH, BitVec.extractLsb'_append_eq_of_le, BitVec.extractLsb'_append_eq_of_add_le]; simp
theorem xorH (i : BitVec 1) (b d : BitVec 5) : Statement (.xorH i b d) := by
  refine ofShort rfl ?_ ?_
  · simp (disch := decide) only [BitVec.extractLsb'_append_eq_of_le, BitVec.extractLsb'_append_eq_of_add_le]; decide
  · simp (disch := decide) only [decodeH, BitVec.extractLsb'_append_eq_of_le, BitVec.extractLsb'_append_eq_of_add_le]; simp
theorem shlH (i : BitVec 1) (b d : BitVec 5) : Statement (.shlH i b d) := by
  refine ofShort rfl ?_ ?_
  · simp (disch := decide) only [BitVec.extractLsb'_append_eq_of_le, BitVec.extractLsb'_append_eq_of_add_le]; decide
  · simp (disch := decide) only [decodeH, BitVec.extractLsb'_append_eq_of_le, BitVec.extractLsb'_append_eq_of_add_le]; simp
theorem shrH (i : BitVec 1) (b d : BitVec 5) : Statement (.shrH i b d) := by
  refine ofShort rfl ?_ ?_
  · simp (disch := decide) only [BitVec.extractLsb'_append_eq_of_le, BitVec.extractLsb'_append_eq_of_add_le]; decide
  · simp (disch := decide) only [decodeH, BitVec.extractLsb'_append_eq_of_le, BitVec.extractLsb'_append_eq_of_add_le]; simp
theorem sarH (i : BitVec 1) (b d : BitVec 5) : Statement (.sarH i b d) := by
  refine ofShort rfl ?_ ?_
  · simp (disch := decide) only [BitVec.extractLsb'_append_eq_of_le, BitVec.extractLsb'_append_eq_of_add_le]; decide
  · simp (disch := decide) only [decodeH, BitVec.extractLsb'_append_eq_of_le, BitVec.extractLsb'_append_eq_of_add_le]; simp
theorem minH (i : BitVec 1) (b d : BitVec 5) : Statement (.minH i b d) := by
  refine ofShort rfl ?_ ?_
  · simp (disch := decide) only [BitVec.extractLsb'_append_eq_of_le, BitVec.extractLsb'_append_eq_of_add_le]; decide
  · simp (disch := decide) only [decodeH, BitVec.extractLsb'_append_eq_of_le, BitVec.extractLsb'_append_eq_of_add_le]; simp
theorem maxH (i : BitVec 1) (b d : BitVec 5) : Statement (.maxH i b d) := by
  refine ofShort rfl ?_ ?_
  · simp (disch := decide) only [BitVec.extractLsb'_append_eq_of_le, BitVec.extractLsb'_append_eq_of_add_le]; decide
  · simp (disch := decide) only [decodeH, BitVec.extractLsb'_append_eq_of_le, BitVec.extractLsb'_append_eq_of_add_le]; simp
theorem faddH (i : BitVec 1) (b d : BitVec 5) : Statement (.faddH i b d) := by
  refine ofShort rfl ?_ ?_
  · simp (disch := decide) only [BitVec.extractLsb'_append_eq_of_le, BitVec.extractLsb'_append_eq_of_add_le]; decide
  · simp (disch := decide) only [decodeH, BitVec.extractLsb'_append_eq_of_le, BitVec.extractLsb'_append_eq_of_add_le]; simp
theorem fmulH (i : BitVec 1) (b d : BitVec 5) : Statement (.fmulH i b d) := by
  refine ofShort rfl ?_ ?_
  · simp (disch := decide) only [BitVec.extractLsb'_append_eq_of_le, BitVec.extractLsb'_append_eq_of_add_le]; decide
  · simp (disch := decide) only [decodeH, BitVec.extractLsb'_append_eq_of_le, BitVec.extractLsb'_append_eq_of_add_le]; simp
theorem fminH (i : BitVec 1) (b d : BitVec 5) : Statement (.fminH i b d) := by
  refine ofShort rfl ?_ ?_
  · simp (disch := decide) only [BitVec.extractLsb'_append_eq_of_le, BitVec.extractLsb'_append_eq_of_add_le]; decide
  · simp (disch := decide) only [decodeH, BitVec.extractLsb'_append_eq_of_le, BitVec.extractLsb'_append_eq_of_add_le]; simp
theorem fmaxH (i : BitVec 1) (b d : BitVec 5) : Statement (.fmaxH i b d) := by
  refine ofShort rfl ?_ ?_
  · simp (disch := decide) only [BitVec.extractLsb'_append_eq_of_le, BitVec.extractLsb'_append_eq_of_add_le]; decide
  · simp (disch := decide) only [decodeH, BitVec.extractLsb'_append_eq_of_le, BitVec.extractLsb'_append_eq_of_add_le]; simp
theorem add (x y : BitVec 1) (b a d : BitVec 7) : Statement (.add x y b a d) := by
  refine ofLong rfl ?_ ?_
  · simp (disch := decide) only [BitVec.extractLsb'_append_eq_of_le, BitVec.extractLsb'_append_eq_of_add_le]; decide
  · simp (disch := decide) only [decode32, decodeMajor00, BitVec.extractLsb'_append_eq_of_le, BitVec.extractLsb'_append_eq_of_add_le]; simp
theorem sub (x y : BitVec 1) (b a d : BitVec 7) : Statement (.sub x y b a d) := by
  refine ofLong rfl ?_ ?_
  · simp (disch := decide) only [BitVec.extractLsb'_append_eq_of_le, BitVec.extractLsb'_append_eq_of_add_le]; decide
  · simp (disch := decide) only [decode32, decodeMajor00, BitVec.extractLsb'_append_eq_of_le, BitVec.extractLsb'_append_eq_of_add_le]; simp
theorem and (x y : BitVec 1) (b a d : BitVec 7) : Statement (.and x y b a d) := by
  refine ofLong rfl ?_ ?_
  · simp (disch := decide) only [BitVec.extractLsb'_append_eq_of_le, BitVec.extractLsb'_append_eq_of_add_le]; decide
  · simp (disch := decide) only [decode32, decodeMajor00, BitVec.extractLsb'_append_eq_of_le, BitVec.extractLsb'_append_eq_of_add_le]; simp
theorem or (x y : BitVec 1) (b a d : BitVec 7) : Statement (.or x y b a d) := by
  refine ofLong rfl ?_ ?_
  · simp (disch := decide) only [BitVec.extractLsb'_append_eq_of_le, BitVec.extractLsb'_append_eq_of_add_le]; decide
  · simp (disch := decide) only [decode32, decodeMajor00, BitVec.extractLsb'_append_eq_of_le, BitVec.extractLsb'_append_eq_of_add_le]; simp
theorem xor (x y : BitVec 1) (b a d : BitVec 7) : Statement (.xor x y b a d) := by
  refine ofLong rfl ?_ ?_
  · simp (disch := decide) only [BitVec.extractLsb'_append_eq_of_le, BitVec.extractLsb'_append_eq_of_add_le]; decide
  · simp (disch := decide) only [decode32, decodeMajor00, BitVec.extractLsb'_append_eq_of_le, BitVec.extractLsb'_append_eq_of_add_le]; simp
theorem andn (x y : BitVec 1) (b a d : BitVec 7) : Statement (.andn x y b a d) := by
  refine ofLong rfl ?_ ?_
  · simp (disch := decide) only [BitVec.extractLsb'_append_eq_of_le, BitVec.extractLsb'_append_eq_of_add_le]; decide
  · simp (disch := decide) only [decode32, decodeMajor00, BitVec.extractLsb'_append_eq_of_le, BitVec.extractLsb'_append_eq_of_add_le]; simp
theorem addD (x y : BitVec 1) (b a d : BitVec 7) : Statement (.addD x y b a d) := by
  refine ofLong rfl ?_ ?_
  · simp (disch := decide) only [BitVec.extractLsb'_append_eq_of_le, BitVec.extractLsb'_append_eq_of_add_le]; decide
  · simp (disch := decide) only [decode32, decodeMajor00, BitVec.extractLsb'_append_eq_of_le, BitVec.extractLsb'_append_eq_of_add_le]; simp
theorem subD (x y : BitVec 1) (b a d : BitVec 7) : Statement (.subD x y b a d) := by
  refine ofLong rfl ?_ ?_
  · simp (disch := decide) only [BitVec.extractLsb'_append_eq_of_le, BitVec.extractLsb'_append_eq_of_add_le]; decide
  · simp (disch := decide) only [decode32, decodeMajor00, BitVec.extractLsb'_append_eq_of_le, BitVec.extractLsb'_append_eq_of_add_le]; simp
theorem shl (x y : BitVec 1) (b a d : BitVec 7) : Statement (.shl x y b a d) := by
  refine ofLong rfl ?_ ?_
  · simp (disch := decide) only [BitVec.extractLsb'_append_eq_of_le, BitVec.extractLsb'_append_eq_of_add_le]; decide
  · simp (disch := decide) only [decode32, decodeMajor01, BitVec.extractLsb'_append_eq_of_le, BitVec.extractLsb'_append_eq_of_add_le]; simp
theorem shr (x y : BitVec 1) (b a d : BitVec 7) : Statement (.shr x y b a d) := by
  refine ofLong rfl ?_ ?_
  · simp (disch := decide) only [BitVec.extractLsb'_append_eq_of_le, BitVec.extractLsb'_append_eq_of_add_le]; decide
  · simp (disch := decide) only [decode32, decodeMajor01, BitVec.extractLsb'_append_eq_of_le, BitVec.extractLsb'_append_eq_of_add_le]; simp
theorem sar (x y : BitVec 1) (b a d : BitVec 7) : Statement (.sar x y b a d) := by
  refine ofLong rfl ?_ ?_
  · simp (disch := decide) only [BitVec.extractLsb'_append_eq_of_le, BitVec.extractLsb'_append_eq_of_add_le]; decide
  · simp (disch := decide) only [decode32, decodeMajor01, BitVec.extractLsb'_append_eq_of_le, BitVec.extractLsb'_append_eq_of_add_le]; simp
theorem rol (x y : BitVec 1) (b a d : BitVec 7) : Statement (.rol x y b a d) := by
  refine ofLong rfl ?_ ?_
  · simp (disch := decide) only [BitVec.extractLsb'_append_eq_of_le, BitVec.extractLsb'_append_eq_of_add_le]; decide
  · simp (disch := decide) only [decode32, decodeMajor01, BitVec.extractLsb'_append_eq_of_le, BitVec.extractLsb'_append_eq_of_add_le]; simp
theorem ror (x y : BitVec 1) (b a d : BitVec 7) : Statement (.ror x y b a d) := by
  refine ofLong rfl ?_ ?_
  · simp (disch := decide) only [BitVec.extractLsb'_append_eq_of_le, BitVec.extractLsb'_append_eq_of_add_le]; decide
  · simp (disch := decide) only [decode32, decodeMajor01, BitVec.extractLsb'_append_eq_of_le, BitVec.extractLsb'_append_eq_of_add_le]; simp
theorem bfxi (x y : BitVec 1) (b a d : BitVec 7) : Statement (.bfxi x y b a d) := by
  refine ofLong rfl ?_ ?_
  · simp (disch := decide) only [BitVec.extractLsb'_append_eq_of_le, BitVec.extractLsb'_append_eq_of_add_le]; decide
  · simp (disch := decide) only [decode32, decodeMajor01, BitVec.extractLsb'_append_eq_of_le, BitVec.extractLsb'_append_eq_of_add_le]; simp
theorem bfxz (x y : BitVec 1) (b a d : BitVec 7) : Statement (.bfxz x y b a d) := by
  refine ofLong rfl ?_ ?_
  · simp (disch := decide) only [BitVec.extractLsb'_append_eq_of_le, BitVec.extractLsb'_append_eq_of_add_le]; decide
  · simp (disch := decide) only [decode32, decodeMajor01, BitVec.extractLsb'_append_eq_of_le, BitVec.extractLsb'_append_eq_of_add_le]; simp
theorem bfi (x y : BitVec 1) (b a d : BitVec 7) : Statement (.bfi x y b a d) := by
  refine ofLong rfl ?_ ?_
  · simp (disch := decide) only [BitVec.extractLsb'_append_eq_of_le, BitVec.extractLsb'_append_eq_of_add_le]; decide
  · simp (disch := decide) only [decode32, decodeMajor01, BitVec.extractLsb'_append_eq_of_le, BitVec.extractLsb'_append_eq_of_add_le]; simp
theorem minI32 (x y : BitVec 1) (b a d : BitVec 7) : Statement (.minI32 x y b a d) := by
  refine ofLong rfl ?_ ?_
  · simp (disch := decide) only [BitVec.extractLsb'_append_eq_of_le, BitVec.extractLsb'_append_eq_of_add_le]; decide
  · simp (disch := decide) only [decode32, decodeMajor02, BitVec.extractLsb'_append_eq_of_le, BitVec.extractLsb'_append_eq_of_add_le]; simp
theorem maxI32 (x y : BitVec 1) (b a d : BitVec 7) : Statement (.maxI32 x y b a d) := by
  refine ofLong rfl ?_ ?_
  · simp (disch := decide) only [BitVec.extractLsb'_append_eq_of_le, BitVec.extractLsb'_append_eq_of_add_le]; decide
  · simp (disch := decide) only [decode32, decodeMajor02, BitVec.extractLsb'_append_eq_of_le, BitVec.extractLsb'_append_eq_of_add_le]; simp
theorem minZ32 (x y : BitVec 1) (b a d : BitVec 7) : Statement (.minZ32 x y b a d) := by
  refine ofLong rfl ?_ ?_
  · simp (disch := decide) only [BitVec.extractLsb'_append_eq_of_le, BitVec.extractLsb'_append_eq_of_add_le]; decide
  · simp (disch := decide) only [decode32, decodeMajor02, BitVec.extractLsb'_append_eq_of_le, BitVec.extractLsb'_append_eq_of_add_le]; simp
theorem maxZ32 (x y : BitVec 1) (b a d : BitVec 7) : Statement (.maxZ32 x y b a d) := by
  refine ofLong rfl ?_ ?_
  · simp (disch := decide) only [BitVec.extractLsb'_append_eq_of_le, BitVec.extractLsb'_append_eq_of_add_le]; decide
  · simp (disch := decide) only [decode32, decodeMajor02, BitVec.extractLsb'_append_eq_of_le, BitVec.extractLsb'_append_eq_of_add_le]; simp
theorem addmin (x y : BitVec 1) (b a d : BitVec 7) : Statement (.addmin x y b a d) := by
  refine ofLong rfl ?_ ?_
  · simp (disch := decide) only [BitVec.extractLsb'_append_eq_of_le, BitVec.extractLsb'_append_eq_of_add_le]; decide
  · simp (disch := decide) only [decode32, decodeMajor02, BitVec.extractLsb'_append_eq_of_le, BitVec.extractLsb'_append_eq_of_add_le]; simp
theorem addmax (x y : BitVec 1) (b a d : BitVec 7) : Statement (.addmax x y b a d) := by
  refine ofLong rfl ?_ ?_
  · simp (disch := decide) only [BitVec.extractLsb'_append_eq_of_le, BitVec.extractLsb'_append_eq_of_add_le]; decide
  · simp (disch := decide) only [decode32, decodeMajor02, BitVec.extractLsb'_append_eq_of_le, BitVec.extractLsb'_append_eq_of_add_le]; simp
theorem absd (x y : BitVec 1) (b a d : BitVec 7) : Statement (.absd x y b a d) := by
  refine ofLong rfl ?_ ?_
  · simp (disch := decide) only [BitVec.extractLsb'_append_eq_of_le, BitVec.extractLsb'_append_eq_of_add_le]; decide
  · simp (disch := decide) only [decode32, decodeMajor02, BitVec.extractLsb'_append_eq_of_le, BitVec.extractLsb'_append_eq_of_add_le]; simp
theorem clamp (x y : BitVec 1) (b a d : BitVec 7) : Statement (.clamp x y b a d) := by
  refine ofLong rfl ?_ ?_
  · simp (disch := decide) only [BitVec.extractLsb'_append_eq_of_le, BitVec.extractLsb'_append_eq_of_add_le]; decide
  · simp (disch := decide) only [decode32, decodeMajor02, BitVec.extractLsb'_append_eq_of_le, BitVec.extractLsb'_append_eq_of_add_le]; simp
theorem mullo (x y : BitVec 1) (b a d : BitVec 7) : Statement (.mullo x y b a d) := by
  refine ofLong rfl ?_ ?_
  · simp (disch := decide) only [BitVec.extractLsb'_append_eq_of_le, BitVec.extractLsb'_append_eq_of_add_le]; decide
  · simp (disch := decide) only [decode32, decodeMajor03, BitVec.extractLsb'_append_eq_of_le, BitVec.extractLsb'_append_eq_of_add_le]; simp
theorem mulhiI32 (x y : BitVec 1) (b a d : BitVec 7) : Statement (.mulhiI32 x y b a d) := by
  refine ofLong rfl ?_ ?_
  · simp (disch := decide) only [BitVec.extractLsb'_append_eq_of_le, BitVec.extractLsb'_append_eq_of_add_le]; decide
  · simp (disch := decide) only [decode32, decodeMajor03, BitVec.extractLsb'_append_eq_of_le, BitVec.extractLsb'_append_eq_of_add_le]; simp
theorem mulhiZ32 (x y : BitVec 1) (b a d : BitVec 7) : Statement (.mulhiZ32 x y b a d) := by
  refine ofLong rfl ?_ ?_
  · simp (disch := decide) only [BitVec.extractLsb'_append_eq_of_le, BitVec.extractLsb'_append_eq_of_add_le]; decide
  · simp (disch := decide) only [decode32, decodeMajor03, BitVec.extractLsb'_append_eq_of_le, BitVec.extractLsb'_append_eq_of_add_le]; simp
theorem madlo (x y : BitVec 1) (b a d : BitVec 7) : Statement (.madlo x y b a d) := by
  refine ofLong rfl ?_ ?_
  · simp (disch := decide) only [BitVec.extractLsb'_append_eq_of_le, BitVec.extractLsb'_append_eq_of_add_le]; decide
  · simp (disch := decide) only [decode32, decodeMajor03, BitVec.extractLsb'_append_eq_of_le, BitVec.extractLsb'_append_eq_of_add_le]; simp
theorem divI32 (x y : BitVec 1) (b a d : BitVec 7) : Statement (.divI32 x y b a d) := by
  refine ofLong rfl ?_ ?_
  · simp (disch := decide) only [BitVec.extractLsb'_append_eq_of_le, BitVec.extractLsb'_append_eq_of_add_le]; decide
  · simp (disch := decide) only [decode32, decodeMajor03, BitVec.extractLsb'_append_eq_of_le, BitVec.extractLsb'_append_eq_of_add_le]; simp
theorem divZ32 (x y : BitVec 1) (b a d : BitVec 7) : Statement (.divZ32 x y b a d) := by
  refine ofLong rfl ?_ ?_
  · simp (disch := decide) only [BitVec.extractLsb'_append_eq_of_le, BitVec.extractLsb'_append_eq_of_add_le]; decide
  · simp (disch := decide) only [decode32, decodeMajor03, BitVec.extractLsb'_append_eq_of_le, BitVec.extractLsb'_append_eq_of_add_le]; simp
theorem remI32 (x y : BitVec 1) (b a d : BitVec 7) : Statement (.remI32 x y b a d) := by
  refine ofLong rfl ?_ ?_
  · simp (disch := decide) only [BitVec.extractLsb'_append_eq_of_le, BitVec.extractLsb'_append_eq_of_add_le]; decide
  · simp (disch := decide) only [decode32, decodeMajor03, BitVec.extractLsb'_append_eq_of_le, BitVec.extractLsb'_append_eq_of_add_le]; simp
theorem remZ32 (x y : BitVec 1) (b a d : BitVec 7) : Statement (.remZ32 x y b a d) := by
  refine ofLong rfl ?_ ?_
  · simp (disch := decide) only [BitVec.extractLsb'_append_eq_of_le, BitVec.extractLsb'_append_eq_of_add_le]; decide
  · simp (disch := decide) only [decode32, decodeMajor03, BitVec.extractLsb'_append_eq_of_le, BitVec.extractLsb'_append_eq_of_add_le]; simp
theorem popc (y : BitVec 1) (a d : BitVec 7) : Statement (.popc y a d) := by
  refine ofLong rfl ?_ ?_
  · simp (disch := decide) only [BitVec.extractLsb'_append_eq_of_le, BitVec.extractLsb'_append_eq_of_add_le]; decide
  · simp (disch := decide) only [decode32, decodeMajor04, BitVec.extractLsb'_append_eq_of_le, BitVec.extractLsb'_append_eq_of_add_le]; simp
theorem clz (y : BitVec 1) (a d : BitVec 7) : Statement (.clz y a d) := by
  refine ofLong rfl ?_ ?_
  · simp (disch := decide) only [BitVec.extractLsb'_append_eq_of_le, BitVec.extractLsb'_append_eq_of_add_le]; decide
  · simp (disch := decide) only [decode32, decodeMajor04, BitVec.extractLsb'_append_eq_of_le, BitVec.extractLsb'_append_eq_of_add_le]; simp
theorem ctz (y : BitVec 1) (a d : BitVec 7) : Statement (.ctz y a d) := by
  refine ofLong rfl ?_ ?_
  · simp (disch := decide) only [BitVec.extractLsb'_append_eq_of_le, BitVec.extractLsb'_append_eq_of_add_le]; decide
  · simp (disch := decide) only [decode32, decodeMajor04, BitVec.extractLsb'_append_eq_of_le, BitVec.extractLsb'_append_eq_of_add_le]; simp
theorem brev (y : BitVec 1) (a d : BitVec 7) : Statement (.brev y a d) := by
  refine ofLong rfl ?_ ?_
  · simp (disch := decide) only [BitVec.extractLsb'_append_eq_of_le, BitVec.extractLsb'_append_eq_of_add_le]; decide
  · simp (disch := decide) only [decode32, decodeMajor04, BitVec.extractLsb'_append_eq_of_le, BitVec.extractLsb'_append_eq_of_add_le]; simp
theorem pfxp (x y : BitVec 1) (b a d : BitVec 7) : Statement (.pfxp x y b a d) := by
  refine ofLong rfl ?_ ?_
  · simp (disch := decide) only [BitVec.extractLsb'_append_eq_of_le, BitVec.extractLsb'_append_eq_of_add_le]; decide
  · simp (disch := decide) only [decode32, decodeMajor04, BitVec.extractLsb'_append_eq_of_le, BitVec.extractLsb'_append_eq_of_add_le]; simp
theorem perm (x y : BitVec 1) (b a d : BitVec 7) : Statement (.perm x y b a d) := by
  refine ofLong rfl ?_ ?_
  · simp (disch := decide) only [BitVec.extractLsb'_append_eq_of_le, BitVec.extractLsb'_append_eq_of_add_le]; decide
  · simp (disch := decide) only [decode32, decodeMajor04, BitVec.extractLsb'_append_eq_of_le, BitVec.extractLsb'_append_eq_of_add_le]; simp
theorem find (x y : BitVec 1) (b a d : BitVec 7) : Statement (.find x y b a d) := by
  refine ofLong rfl ?_ ?_
  · simp (disch := decide) only [BitVec.extractLsb'_append_eq_of_le, BitVec.extractLsb'_append_eq_of_add_le]; decide
  · simp (disch := decide) only [decode32, decodeMajor04, BitVec.extractLsb'_append_eq_of_le, BitVec.extractLsb'_append_eq_of_add_le]; simp
theorem addi (i : BitVec 12) (a d : BitVec 7) : Statement (.addi i a d) := by
  refine ofLong rfl ?_ ?_
  · simp (disch := decide) only [BitVec.extractLsb'_append_eq_of_le, BitVec.extractLsb'_append_eq_of_add_le]; decide
  · simp (disch := decide) only [decode32, decodeMajor05, BitVec.extractLsb'_append_eq_of_le, BitVec.extractLsb'_append_eq_of_add_le]; simp
theorem andi (i : BitVec 9) (a d : BitVec 7) : Statement (.andi i a d) := by
  refine ofLong rfl ?_ ?_
  · simp (disch := decide) only [BitVec.extractLsb'_append_eq_of_le, BitVec.extractLsb'_append_eq_of_add_le]; decide
  · simp (disch := decide) only [decode32, decodeMajor06, BitVec.extractLsb'_append_eq_of_le, BitVec.extractLsb'_append_eq_of_add_le]; simp
theorem ori (i : BitVec 9) (a d : BitVec 7) : Statement (.ori i a d) := by
  refine ofLong rfl ?_ ?_
  · simp (disch := decide) only [BitVec.extractLsb'_append_eq_of_le, BitVec.extractLsb'_append_eq_of_add_le]; decide
  · simp (disch := decide) only [decode32, decodeMajor06, BitVec.extractLsb'_append_eq_of_le, BitVec.extractLsb'_append_eq_of_add_le]; simp
theorem xori (i : BitVec 9) (a d : BitVec 7) : Statement (.xori i a d) := by
  refine ofLong rfl ?_ ?_
  · simp (disch := decide) only [BitVec.extractLsb'_append_eq_of_le, BitVec.extractLsb'_append_eq_of_add_le]; decide
  · simp (disch := decide) only [decode32, decodeMajor06, BitVec.extractLsb'_append_eq_of_le, BitVec.extractLsb'_append_eq_of_add_le]; simp
theorem shli (i : BitVec 5) (a d : BitVec 7) : Statement (.shli i a d) := by
  refine ofLong rfl ?_ ?_
  · simp (disch := decide) only [BitVec.extractLsb'_append_eq_of_le, BitVec.extractLsb'_append_eq_of_add_le]; decide
  · simp (disch := decide) only [decode32, decodeMajor06, BitVec.extractLsb'_append_eq_of_le, BitVec.extractLsb'_append_eq_of_add_le]; simp
theorem shri (i : BitVec 5) (a d : BitVec 7) : Statement (.shri i a d) := by
  refine ofLong rfl ?_ ?_
  · simp (disch := decide) only [BitVec.extractLsb'_append_eq_of_le, BitVec.extractLsb'_append_eq_of_add_le]; decide
  · simp (disch := decide) only [decode32, decodeMajor06, BitVec.extractLsb'_append_eq_of_le, BitVec.extractLsb'_append_eq_of_add_le]; simp
theorem sari (i : BitVec 5) (a d : BitVec 7) : Statement (.sari i a d) := by
  refine ofLong rfl ?_ ?_
  · simp (disch := decide) only [BitVec.extractLsb'_append_eq_of_le, BitVec.extractLsb'_append_eq_of_add_le]; decide
  · simp (disch := decide) only [decode32, decodeMajor06, BitVec.extractLsb'_append_eq_of_le, BitVec.extractLsb'_append_eq_of_add_le]; simp
theorem roli (i : BitVec 5) (a d : BitVec 7) : Statement (.roli i a d) := by
  refine ofLong rfl ?_ ?_
  · simp (disch := decide) only [BitVec.extractLsb'_append_eq_of_le, BitVec.extractLsb'_append_eq_of_add_le]; decide
  · simp (disch := decide) only [decode32, decodeMajor06, BitVec.extractLsb'_append_eq_of_le, BitVec.extractLsb'_append_eq_of_add_le]; simp
theorem movi (i : BitVec 19) (d : BitVec 7) : Statement (.movi i d) := by
  refine ofLong rfl ?_ ?_
  · simp (disch := decide) only [BitVec.extractLsb'_append_eq_of_le, BitVec.extractLsb'_append_eq_of_add_le]; decide
  · simp (disch := decide) only [decode32, decodeMajor07, BitVec.extractLsb'_append_eq_of_le, BitVec.extractLsb'_append_eq_of_add_le]; simp
theorem cmp (x y : BitVec 1) (c : BitVec 2) (b a : BitVec 7) (k : BitVec 4) (p : BitVec 3) : Statement (.cmp x y c b a k p) := by
  refine ofLong rfl ?_ ?_
  · simp (disch := decide) only [BitVec.extractLsb'_append_eq_of_le, BitVec.extractLsb'_append_eq_of_add_le]; decide
  · simp (disch := decide) only [decode32, decodeMajor08, BitVec.extractLsb'_append_eq_of_le, BitVec.extractLsb'_append_eq_of_add_le]; simp
theorem cmpi (y : BitVec 1) (c : BitVec 2) (i a : BitVec 7) (k : BitVec 4) (p : BitVec 3) : Statement (.cmpi y c i a k p) := by
  refine ofLong rfl ?_ ?_
  · simp (disch := decide) only [BitVec.extractLsb'_append_eq_of_le, BitVec.extractLsb'_append_eq_of_add_le]; decide
  · simp (disch := decide) only [decode32, decodeMajor09, BitVec.extractLsb'_append_eq_of_le, BitVec.extractLsb'_append_eq_of_add_le]; simp
theorem sel (x y : BitVec 1) (q : BitVec 3) (b a d : BitVec 7) : Statement (.sel x y q b a d) := by
  refine ofLong rfl ?_ ?_
  · simp (disch := decide) only [BitVec.extractLsb'_append_eq_of_le, BitVec.extractLsb'_append_eq_of_add_le]; decide
  · simp (disch := decide) only [decode32, decodeMajor0A, BitVec.extractLsb'_append_eq_of_le, BitVec.extractLsb'_append_eq_of_add_le]; simp
theorem fadd (x y : BitVec 1) (b a d : BitVec 7) : Statement (.fadd x y b a d) := by
  refine ofLong rfl ?_ ?_
  · simp (disch := decide) only [BitVec.extractLsb'_append_eq_of_le, BitVec.extractLsb'_append_eq_of_add_le]; decide
  · simp (disch := decide) only [decode32, decodeMajor0B, BitVec.extractLsb'_append_eq_of_le, BitVec.extractLsb'_append_eq_of_add_le]; simp
theorem fsub (x y : BitVec 1) (b a d : BitVec 7) : Statement (.fsub x y b a d) := by
  refine ofLong rfl ?_ ?_
  · simp (disch := decide) only [BitVec.extractLsb'_append_eq_of_le, BitVec.extractLsb'_append_eq_of_add_le]; decide
  · simp (disch := decide) only [decode32, decodeMajor0B, BitVec.extractLsb'_append_eq_of_le, BitVec.extractLsb'_append_eq_of_add_le]; simp
theorem fmul (x y : BitVec 1) (b a d : BitVec 7) : Statement (.fmul x y b a d) := by
  refine ofLong rfl ?_ ?_
  · simp (disch := decide) only [BitVec.extractLsb'_append_eq_of_le, BitVec.extractLsb'_append_eq_of_add_le]; decide
  · simp (disch := decide) only [decode32, decodeMajor0B, BitVec.extractLsb'_append_eq_of_le, BitVec.extractLsb'_append_eq_of_add_le]; simp
theorem fmin (x y : BitVec 1) (b a d : BitVec 7) : Statement (.fmin x y b a d) := by
  refine ofLong rfl ?_ ?_
  · simp (disch := decide) only [BitVec.extractLsb'_append_eq_of_le, BitVec.extractLsb'_append_eq_of_add_le]; decide
  · simp (disch := decide) only [decode32, decodeMajor0B, BitVec.extractLsb'_append_eq_of_le, BitVec.extractLsb'_append_eq_of_add_le]; simp
theorem fmax (x y : BitVec 1) (b a d : BitVec 7) : Statement (.fmax x y b a d) := by
  refine ofLong rfl ?_ ?_
  · simp (disch := decide) only [BitVec.extractLsb'_append_eq_of_le, BitVec.extractLsb'_append_eq_of_add_le]; decide
  · simp (disch := decide) only [decode32, decodeMajor0B, BitVec.extractLsb'_append_eq_of_le, BitVec.extractLsb'_append_eq_of_add_le]; simp
theorem fabs (y : BitVec 1) (a d : BitVec 7) : Statement (.fabs y a d) := by
  refine ofLong rfl ?_ ?_
  · simp (disch := decide) only [BitVec.extractLsb'_append_eq_of_le, BitVec.extractLsb'_append_eq_of_add_le]; decide
  · simp (disch := decide) only [decode32, decodeMajor0B, BitVec.extractLsb'_append_eq_of_le, BitVec.extractLsb'_append_eq_of_add_le]; simp
theorem fneg (y : BitVec 1) (a d : BitVec 7) : Statement (.fneg y a d) := by
  refine ofLong rfl ?_ ?_
  · simp (disch := decide) only [BitVec.extractLsb'_append_eq_of_le, BitVec.extractLsb'_append_eq_of_add_le]; decide
  · simp (disch := decide) only [decode32, decodeMajor0B, BitVec.extractLsb'_append_eq_of_le, BitVec.extractLsb'_append_eq_of_add_le]; simp
theorem fcpys (x y : BitVec 1) (b a d : BitVec 7) : Statement (.fcpys x y b a d) := by
  refine ofLong rfl ?_ ?_
  · simp (disch := decide) only [BitVec.extractLsb'_append_eq_of_le, BitVec.extractLsb'_append_eq_of_add_le]; decide
  · simp (disch := decide) only [decode32, decodeMajor0B, BitVec.extractLsb'_append_eq_of_le, BitVec.extractLsb'_append_eq_of_add_le]; simp
theorem ffma (c : BitVec 5) (b a d : BitVec 7) : Statement (.ffma c b a d) := by
  refine ofLong rfl ?_ ?_
  · simp (disch := decide) only [BitVec.extractLsb'_append_eq_of_le, BitVec.extractLsb'_append_eq_of_add_le]; decide
  · simp (disch := decide) only [decode32, decodeMajor0C, BitVec.extractLsb'_append_eq_of_le, BitVec.extractLsb'_append_eq_of_add_le]; simp
theorem fma2 (t : BitVec 1) (c : BitVec 4) (b a d : BitVec 7) : Statement (.fma2 t c b a d) := by
  refine ofLong rfl ?_ ?_
  · simp (disch := decide) only [BitVec.extractLsb'_append_eq_of_le, BitVec.extractLsb'_append_eq_of_add_le]; decide
  · simp (disch := decide) only [decode32, decodeMajor0D, BitVec.extractLsb'_append_eq_of_le, BitVec.extractLsb'_append_eq_of_add_le]; simp
theorem dfma (c : BitVec 5) (b a d : BitVec 7) : Statement (.dfma c b a d) := by
  refine ofLong rfl ?_ ?_
  · simp (disch := decide) only [BitVec.extractLsb'_append_eq_of_le, BitVec.extractLsb'_append_eq_of_add_le]; decide
  · simp (disch := decide) only [decode32, decodeMajor0E, BitVec.extractLsb'_append_eq_of_le, BitVec.extractLsb'_append_eq_of_add_le]; simp
theorem duaddF16 (x y : BitVec 1) (b a d : BitVec 7) : Statement (.duaddF16 x y b a d) := by
  refine ofLong rfl ?_ ?_
  · simp (disch := decide) only [BitVec.extractLsb'_append_eq_of_le, BitVec.extractLsb'_append_eq_of_add_le]; decide
  · simp (disch := decide) only [decode32, decodeMajor0F, BitVec.extractLsb'_append_eq_of_le, BitVec.extractLsb'_append_eq_of_add_le]; simp
theorem duaddBf16 (x y : BitVec 1) (b a d : BitVec 7) : Statement (.duaddBf16 x y b a d) := by
  refine ofLong rfl ?_ ?_
  · simp (disch := decide) only [BitVec.extractLsb'_append_eq_of_le, BitVec.extractLsb'_append_eq_of_add_le]; decide
  · simp (disch := decide) only [decode32, decodeMajor0F, BitVec.extractLsb'_append_eq_of_le, BitVec.extractLsb'_append_eq_of_add_le]; simp
theorem dumulF16 (x y : BitVec 1) (b a d : BitVec 7) : Statement (.dumulF16 x y b a d) := by
  refine ofLong rfl ?_ ?_
  · simp (disch := decide) only [BitVec.extractLsb'_append_eq_of_le, BitVec.extractLsb'_append_eq_of_add_le]; decide
  · simp (disch := decide) only [decode32, decodeMajor0F, BitVec.extractLsb'_append_eq_of_le, BitVec.extractLsb'_append_eq_of_add_le]; simp
theorem dumulBf16 (x y : BitVec 1) (b a d : BitVec 7) : Statement (.dumulBf16 x y b a d) := by
  refine ofLong rfl ?_ ?_
  · simp (disch := decide) only [BitVec.extractLsb'_append_eq_of_le, BitVec.extractLsb'_append_eq_of_add_le]; decide
  · simp (disch := decide) only [decode32, decodeMajor0F, BitVec.extractLsb'_append_eq_of_le, BitVec.extractLsb'_append_eq_of_add_le]; simp
theorem duminF16 (x y : BitVec 1) (b a d : BitVec 7) : Statement (.duminF16 x y b a d) := by
  refine ofLong rfl ?_ ?_
  · simp (disch := decide) only [BitVec.extractLsb'_append_eq_of_le, BitVec.extractLsb'_append_eq_of_add_le]; decide
  · simp (disch := decide) only [decode32, decodeMajor0F, BitVec.extractLsb'_append_eq_of_le, BitVec.extractLsb'_append_eq_of_add_le]; simp
theorem duminBf16 (x y : BitVec 1) (b a d : BitVec 7) : Statement (.duminBf16 x y b a d) := by
  refine ofLong rfl ?_ ?_
  · simp (disch := decide) only [BitVec.extractLsb'_append_eq_of_le, BitVec.extractLsb'_append_eq_of_add_le]; decide
  · simp (disch := decide) only [decode32, decodeMajor0F, BitVec.extractLsb'_append_eq_of_le, BitVec.extractLsb'_append_eq_of_add_le]; simp
theorem dumaxF16 (x y : BitVec 1) (b a d : BitVec 7) : Statement (.dumaxF16 x y b a d) := by
  refine ofLong rfl ?_ ?_
  · simp (disch := decide) only [BitVec.extractLsb'_append_eq_of_le, BitVec.extractLsb'_append_eq_of_add_le]; decide
  · simp (disch := decide) only [decode32, decodeMajor0F, BitVec.extractLsb'_append_eq_of_le, BitVec.extractLsb'_append_eq_of_add_le]; simp
theorem dumaxBf16 (x y : BitVec 1) (b a d : BitVec 7) : Statement (.dumaxBf16 x y b a d) := by
  refine ofLong rfl ?_ ?_
  · simp (disch := decide) only [BitVec.extractLsb'_append_eq_of_le, BitVec.extractLsb'_append_eq_of_add_le]; decide
  · simp (disch := decide) only [decode32, decodeMajor0F, BitVec.extractLsb'_append_eq_of_le, BitVec.extractLsb'_append_eq_of_add_le]; simp
theorem dadd (x y : BitVec 1) (b a d : BitVec 7) : Statement (.dadd x y b a d) := by
  refine ofLong rfl ?_ ?_
  · simp (disch := decide) only [BitVec.extractLsb'_append_eq_of_le, BitVec.extractLsb'_append_eq_of_add_le]; decide
  · simp (disch := decide) only [decode32, decodeMajor10, BitVec.extractLsb'_append_eq_of_le, BitVec.extractLsb'_append_eq_of_add_le]; simp
theorem dsub (x y : BitVec 1) (b a d : BitVec 7) : Statement (.dsub x y b a d) := by
  refine ofLong rfl ?_ ?_
  · simp (disch := decide) only [BitVec.extractLsb'_append_eq_of_le, BitVec.extractLsb'_append_eq_of_add_le]; decide
  · simp (disch := decide) only [decode32, decodeMajor10, BitVec.extractLsb'_append_eq_of_le, BitVec.extractLsb'_append_eq_of_add_le]; simp
theorem dmul (x y : BitVec 1) (b a d : BitVec 7) : Statement (.dmul x y b a d) := by
  refine ofLong rfl ?_ ?_
  · simp (disch := decide) only [BitVec.extractLsb'_append_eq_of_le, BitVec.extractLsb'_append_eq_of_add_le]; decide
  · simp (disch := decide) only [decode32, decodeMajor10, BitVec.extractLsb'_append_eq_of_le, BitVec.extractLsb'_append_eq_of_add_le]; simp
theorem dmin (x y : BitVec 1) (b a d : BitVec 7) : Statement (.dmin x y b a d) := by
  refine ofLong rfl ?_ ?_
  · simp (disch := decide) only [BitVec.extractLsb'_append_eq_of_le, BitVec.extractLsb'_append_eq_of_add_le]; decide
  · simp (disch := decide) only [decode32, decodeMajor10, BitVec.extractLsb'_append_eq_of_le, BitVec.extractLsb'_append_eq_of_add_le]; simp
theorem dmax (x y : BitVec 1) (b a d : BitVec 7) : Statement (.dmax x y b a d) := by
  refine ofLong rfl ?_ ?_
  · simp (disch := decide) only [BitVec.extractLsb'_append_eq_of_le, BitVec.extractLsb'_append_eq_of_add_le]; decide
  · simp (disch := decide) only [decode32, decodeMajor10, BitVec.extractLsb'_append_eq_of_le, BitVec.extractLsb'_append_eq_of_add_le]; simp
theorem ddiv (x y : BitVec 1) (b a d : BitVec 7) : Statement (.ddiv x y b a d) := by
  refine ofLong rfl ?_ ?_
  · simp (disch := decide) only [BitVec.extractLsb'_append_eq_of_le, BitVec.extractLsb'_append_eq_of_add_le]; decide
  · simp (disch := decide) only [decode32, decodeMajor10, BitVec.extractLsb'_append_eq_of_le, BitVec.extractLsb'_append_eq_of_add_le]; simp
theorem dsqrt (y : BitVec 1) (a d : BitVec 7) : Statement (.dsqrt y a d) := by
  refine ofLong rfl ?_ ?_
  · simp (disch := decide) only [BitVec.extractLsb'_append_eq_of_le, BitVec.extractLsb'_append_eq_of_add_le]; decide
  · simp (disch := decide) only [decode32, decodeMajor10, BitVec.extractLsb'_append_eq_of_le, BitVec.extractLsb'_append_eq_of_add_le]; simp
theorem frcp (y : BitVec 1) (a d : BitVec 7) : Statement (.frcp y a d) := by
  refine ofLong rfl ?_ ?_
  · simp (disch := decide) only [BitVec.extractLsb'_append_eq_of_le, BitVec.extractLsb'_append_eq_of_add_le]; decide
  · simp (disch := decide) only [decode32, decodeMajor11, BitVec.extractLsb'_append_eq_of_le, BitVec.extractLsb'_append_eq_of_add_le]; simp
theorem frsq (y : BitVec 1) (a d : BitVec 7) : Statement (.frsq y a d) := by
  refine ofLong rfl ?_ ?_
  · simp (disch := decide) only [BitVec.extractLsb'_append_eq_of_le, BitVec.extractLsb'_append_eq_of_add_le]; decide
  · simp (disch := decide) only [decode32, decodeMajor11, BitVec.extractLsb'_append_eq_of_le, BitVec.extractLsb'_append_eq_of_add_le]; simp
theorem fsqrt (y : BitVec 1) (a d : BitVec 7) : Statement (.fsqrt y a d) := by
  refine ofLong rfl ?_ ?_
  · simp (disch := decide) only [BitVec.extractLsb'_append_eq_of_le, BitVec.extractLsb'_append_eq_of_add_le]; decide
  · simp (disch := decide) only [decode32, decodeMajor11, BitVec.extractLsb'_append_eq_of_le, BitVec.extractLsb'_append_eq_of_add_le]; simp
theorem fdiv (x y : BitVec 1) (b a d : BitVec 7) : Statement (.fdiv x y b a d) := by
  refine ofLong rfl ?_ ?_
  · simp (disch := decide) only [BitVec.extractLsb'_append_eq_of_le, BitVec.extractLsb'_append_eq_of_add_le]; decide
  · simp (disch := decide) only [decode32, decodeMajor11, BitVec.extractLsb'_append_eq_of_le, BitVec.extractLsb'_append_eq_of_add_le]; simp
theorem fexp2 (y : BitVec 1) (a d : BitVec 7) : Statement (.fexp2 y a d) := by
  refine ofLong rfl ?_ ?_
  · simp (disch := decide) only [BitVec.extractLsb'_append_eq_of_le, BitVec.extractLsb'_append_eq_of_add_le]; decide
  · simp (disch := decide) only [decode32, decodeMajor11, BitVec.extractLsb'_append_eq_of_le, BitVec.extractLsb'_append_eq_of_add_le]; simp
theorem flog2 (y : BitVec 1) (a d : BitVec 7) : Statement (.flog2 y a d) := by
  refine ofLong rfl ?_ ?_
  · simp (disch := decide) only [BitVec.extractLsb'_append_eq_of_le, BitVec.extractLsb'_append_eq_of_add_le]; decide
  · simp (disch := decide) only [decode32, decodeMajor11, BitVec.extractLsb'_append_eq_of_le, BitVec.extractLsb'_append_eq_of_add_le]; simp
theorem fsinpi (y : BitVec 1) (a d : BitVec 7) : Statement (.fsinpi y a d) := by
  refine ofLong rfl ?_ ?_
  · simp (disch := decide) only [BitVec.extractLsb'_append_eq_of_le, BitVec.extractLsb'_append_eq_of_add_le]; decide
  · simp (disch := decide) only [decode32, decodeMajor11, BitVec.extractLsb'_append_eq_of_le, BitVec.extractLsb'_append_eq_of_add_le]; simp
theorem fcospi (y : BitVec 1) (a d : BitVec 7) : Statement (.fcospi y a d) := by
  refine ofLong rfl ?_ ?_
  · simp (disch := decide) only [BitVec.extractLsb'_append_eq_of_le, BitVec.extractLsb'_append_eq_of_add_le]; decide
  · simp (disch := decide) only [decode32, decodeMajor11, BitVec.extractLsb'_append_eq_of_le, BitVec.extractLsb'_append_eq_of_add_le]; simp
theorem cvt (s : BitVec 1) (r : BitVec 3) (t u : BitVec 4) (a d : BitVec 7) : Statement (.cvt s r t u a d) := by
  refine ofLong rfl ?_ ?_
  · simp (disch := decide) only [BitVec.extractLsb'_append_eq_of_le, BitVec.extractLsb'_append_eq_of_add_le]; decide
  · simp (disch := decide) only [decode32, decodeMajor12, BitVec.extractLsb'_append_eq_of_le, BitVec.extractLsb'_append_eq_of_add_le]; simp
theorem cvtp (s : BitVec 1) (u : BitVec 4) (a d : BitVec 7) : Statement (.cvtp s u a d) := by
  refine ofLong rfl ?_ ?_
  · simp (disch := decide) only [BitVec.extractLsb'_append_eq_of_le, BitVec.extractLsb'_append_eq_of_add_le]; decide
  · simp (disch := decide) only [decode32, decodeMajor13, BitVec.extractLsb'_append_eq_of_le, BitVec.extractLsb'_append_eq_of_add_le]; simp
theorem cvtpEf (s : BitVec 1) (u : BitVec 4) (e : BitVec 3) (a d : BitVec 7) : Statement (.cvtpEf s u e a d) := by
  refine ofLong rfl ?_ ?_
  · simp (disch := decide) only [BitVec.extractLsb'_append_eq_of_le, BitVec.extractLsb'_append_eq_of_add_le]; decide
  · simp (disch := decide) only [decode32, decodeMajor13, BitVec.extractLsb'_append_eq_of_le, BitVec.extractLsb'_append_eq_of_add_le]; simp
theorem dot4I8 (x y : BitVec 1) (b a d : BitVec 7) : Statement (.dot4I8 x y b a d) := by
  refine ofLong rfl ?_ ?_
  · simp (disch := decide) only [BitVec.extractLsb'_append_eq_of_le, BitVec.extractLsb'_append_eq_of_add_le]; decide
  · simp (disch := decide) only [decode32, decodeMajor14, BitVec.extractLsb'_append_eq_of_le, BitVec.extractLsb'_append_eq_of_add_le]; simp
theorem dot4Z8 (x y : BitVec 1) (b a d : BitVec 7) : Statement (.dot4Z8 x y b a d) := by
  refine ofLong rfl ?_ ?_
  · simp (disch := decide) only [BitVec.extractLsb'_append_eq_of_le, BitVec.extractLsb'_append_eq_of_add_le]; decide
  · simp (disch := decide) only [decode32, decodeMajor14, BitVec.extractLsb'_append_eq_of_le, BitVec.extractLsb'_append_eq_of_add_le]; simp
theorem dot8I4 (x y : BitVec 1) (b a d : BitVec 7) : Statement (.dot8I4 x y b a d) := by
  refine ofLong rfl ?_ ?_
  · simp (disch := decide) only [BitVec.extractLsb'_append_eq_of_le, BitVec.extractLsb'_append_eq_of_add_le]; decide
  · simp (disch := decide) only [decode32, decodeMajor14, BitVec.extractLsb'_append_eq_of_le, BitVec.extractLsb'_append_eq_of_add_le]; simp
theorem dot8Z4 (x y : BitVec 1) (b a d : BitVec 7) : Statement (.dot8Z4 x y b a d) := by
  refine ofLong rfl ?_ ?_
  · simp (disch := decide) only [BitVec.extractLsb'_append_eq_of_le, BitVec.extractLsb'_append_eq_of_add_le]; decide
  · simp (disch := decide) only [decode32, decodeMajor14, BitVec.extractLsb'_append_eq_of_le, BitVec.extractLsb'_append_eq_of_add_le]; simp
theorem dot4D8a (x y : BitVec 1) (b a d : BitVec 7) : Statement (.dot4D8a x y b a d) := by
  refine ofLong rfl ?_ ?_
  · simp (disch := decide) only [BitVec.extractLsb'_append_eq_of_le, BitVec.extractLsb'_append_eq_of_add_le]; decide
  · simp (disch := decide) only [decode32, decodeMajor14, BitVec.extractLsb'_append_eq_of_le, BitVec.extractLsb'_append_eq_of_add_le]; simp
theorem dot4D8b (x y : BitVec 1) (b a d : BitVec 7) : Statement (.dot4D8b x y b a d) := by
  refine ofLong rfl ?_ ?_
  · simp (disch := decide) only [BitVec.extractLsb'_append_eq_of_le, BitVec.extractLsb'_append_eq_of_add_le]; decide
  · simp (disch := decide) only [decode32, decodeMajor14, BitVec.extractLsb'_append_eq_of_le, BitVec.extractLsb'_append_eq_of_add_le]; simp
theorem dot8D4 (x y : BitVec 1) (b a d : BitVec 7) : Statement (.dot8D4 x y b a d) := by
  refine ofLong rfl ?_ ?_
  · simp (disch := decide) only [BitVec.extractLsb'_append_eq_of_le, BitVec.extractLsb'_append_eq_of_add_le]; decide
  · simp (disch := decide) only [decode32, decodeMajor14, BitVec.extractLsb'_append_eq_of_le, BitVec.extractLsb'_append_eq_of_add_le]; simp
theorem dot2Bf16 (x y : BitVec 1) (b a d : BitVec 7) : Statement (.dot2Bf16 x y b a d) := by
  refine ofLong rfl ?_ ?_
  · simp (disch := decide) only [BitVec.extractLsb'_append_eq_of_le, BitVec.extractLsb'_append_eq_of_add_le]; decide
  · simp (disch := decide) only [decode32, decodeMajor14, BitVec.extractLsb'_append_eq_of_le, BitVec.extractLsb'_append_eq_of_add_le]; simp
theorem lgetIdx (x y : BitVec 1) (b a d : BitVec 7) : Statement (.lgetIdx x y b a d) := by
  refine ofLong rfl ?_ ?_
  · simp (disch := decide) only [BitVec.extractLsb'_append_eq_of_le, BitVec.extractLsb'_append_eq_of_add_le]; decide
  · simp (disch := decide) only [decode32, decodeMajor15, BitVec.extractLsb'_append_eq_of_le, BitVec.extractLsb'_append_eq_of_add_le]; simp
theorem lgetUp (x y : BitVec 1) (b a d : BitVec 7) : Statement (.lgetUp x y b a d) := by
  refine ofLong rfl ?_ ?_
  · simp (disch := decide) only [BitVec.extractLsb'_append_eq_of_le, BitVec.extractLsb'_append_eq_of_add_le]; decide
  · simp (disch := decide) only [decode32, decodeMajor15, BitVec.extractLsb'_append_eq_of_le, BitVec.extractLsb'_append_eq_of_add_le]; simp
theorem lgetDn (x y : BitVec 1) (b a d : BitVec 7) : Statement (.lgetDn x y b a d) := by
  refine ofLong rfl ?_ ?_
  · simp (disch := decide) only [BitVec.extractLsb'_append_eq_of_le, BitVec.extractLsb'_append_eq_of_add_le]; decide
  · simp (disch := decide) only [decode32, decodeMajor15, BitVec.extractLsb'_append_eq_of_le, BitVec.extractLsb'_append_eq_of_add_le]; simp
theorem lgetXor (x y : BitVec 1) (b a d : BitVec 7) : Statement (.lgetXor x y b a d) := by
  refine ofLong rfl ?_ ?_
  · simp (disch := decide) only [BitVec.extractLsb'_append_eq_of_le, BitVec.extractLsb'_append_eq_of_add_le]; decide
  · simp (disch := decide) only [decode32, decodeMajor15, BitVec.extractLsb'_append_eq_of_le, BitVec.extractLsb'_append_eq_of_add_le]; simp
theorem ballot (y : BitVec 1) (a d : BitVec 7) : Statement (.ballot y a d) := by
  refine ofLong rfl ?_ ?_
  · simp (disch := decide) only [BitVec.extractLsb'_append_eq_of_le, BitVec.extractLsb'_append_eq_of_add_le]; decide
  · simp (disch := decide) only [decode32, decodeMajor15, BitVec.extractLsb'_append_eq_of_le, BitVec.extractLsb'_append_eq_of_add_le]; simp
theorem redAddI32 (y : BitVec 1) (a d : BitVec 7) : Statement (.redAddI32 y a d) := by
  refine ofLong rfl ?_ ?_
  · simp (disch := decide) only [BitVec.extractLsb'_append_eq_of_le, BitVec.extractLsb'_append_eq_of_add_le]; decide
  · simp (disch := decide) only [decode32, decodeMajor15, BitVec.extractLsb'_append_eq_of_le, BitVec.extractLsb'_append_eq_of_add_le]; simp
theorem scanAddI32 (y : BitVec 1) (a d : BitVec 7) : Statement (.scanAddI32 y a d) := by
  refine ofLong rfl ?_ ?_
  · simp (disch := decide) only [BitVec.extractLsb'_append_eq_of_le, BitVec.extractLsb'_append_eq_of_add_le]; decide
  · simp (disch := decide) only [decode32, decodeMajor15, BitVec.extractLsb'_append_eq_of_le, BitVec.extractLsb'_append_eq_of_add_le]; simp
theorem redMinI32 (y : BitVec 1) (a d : BitVec 7) : Statement (.redMinI32 y a d) := by
  refine ofLong rfl ?_ ?_
  · simp (disch := decide) only [BitVec.extractLsb'_append_eq_of_le, BitVec.extractLsb'_append_eq_of_add_le]; decide
  · simp (disch := decide) only [decode32, decodeMajor15, BitVec.extractLsb'_append_eq_of_le, BitVec.extractLsb'_append_eq_of_add_le]; simp
theorem ld (o : BitVec 6) (z : BitVec 3) (s : BitVec 4) (p : BitVec 6) (d : BitVec 7) : Statement (.ld o z s p d) := by
  refine ofLong rfl ?_ ?_
  · simp (disch := decide) only [BitVec.extractLsb'_append_eq_of_le, BitVec.extractLsb'_append_eq_of_add_le]; decide
  · simp (disch := decide) only [decode32, decodeMajor16, BitVec.extractLsb'_append_eq_of_le, BitVec.extractLsb'_append_eq_of_add_le]; simp
theorem st (o : BitVec 6) (z : BitVec 3) (s : BitVec 4) (p : BitVec 6) (d : BitVec 7) : Statement (.st o z s p d) := by
  refine ofLong rfl ?_ ?_
  · simp (disch := decide) only [BitVec.extractLsb'_append_eq_of_le, BitVec.extractLsb'_append_eq_of_add_le]; decide
  · simp (disch := decide) only [decode32, decodeMajor17, BitVec.extractLsb'_append_eq_of_le, BitVec.extractLsb'_append_eq_of_add_le]; simp
theorem ldacqW (k : BitVec 3) (s : BitVec 4) (p : BitVec 6) (d : BitVec 7) : Statement (.ldacqW k s p d) := by
  refine ofLong rfl ?_ ?_
  · simp (disch := decide) only [BitVec.extractLsb'_append_eq_of_le, BitVec.extractLsb'_append_eq_of_add_le]; decide
  · simp (disch := decide) only [decode32, decodeMajor18, BitVec.extractLsb'_append_eq_of_le, BitVec.extractLsb'_append_eq_of_add_le]; simp
theorem ldacqD (k : BitVec 3) (s : BitVec 4) (p : BitVec 6) (d : BitVec 7) : Statement (.ldacqD k s p d) := by
  refine ofLong rfl ?_ ?_
  · simp (disch := decide) only [BitVec.extractLsb'_append_eq_of_le, BitVec.extractLsb'_append_eq_of_add_le]; decide
  · simp (disch := decide) only [decode32, decodeMajor18, BitVec.extractLsb'_append_eq_of_le, BitVec.extractLsb'_append_eq_of_add_le]; simp
theorem strelW (k : BitVec 3) (s : BitVec 4) (p : BitVec 6) (d : BitVec 7) : Statement (.strelW k s p d) := by
  refine ofLong rfl ?_ ?_
  · simp (disch := decide) only [BitVec.extractLsb'_append_eq_of_le, BitVec.extractLsb'_append_eq_of_add_le]; decide
  · simp (disch := decide) only [decode32, decodeMajor18, BitVec.extractLsb'_append_eq_of_le, BitVec.extractLsb'_append_eq_of_add_le]; simp
theorem strelD (k : BitVec 3) (s : BitVec 4) (p : BitVec 6) (d : BitVec 7) : Statement (.strelD k s p d) := by
  refine ofLong rfl ?_ ?_
  · simp (disch := decide) only [BitVec.extractLsb'_append_eq_of_le, BitVec.extractLsb'_append_eq_of_add_le]; decide
  · simp (disch := decide) only [decode32, decodeMajor18, BitVec.extractLsb'_append_eq_of_le, BitVec.extractLsb'_append_eq_of_add_le]; simp
theorem pfetch (o : BitVec 6) (s : BitVec 4) (p : BitVec 6) : Statement (.pfetch o s p) := by
  refine ofLong rfl ?_ ?_
  · simp (disch := decide) only [BitVec.extractLsb'_append_eq_of_le, BitVec.extractLsb'_append_eq_of_add_le]; decide
  · simp (disch := decide) only [decode32, decodeMajor18, BitVec.extractLsb'_append_eq_of_le, BitVec.extractLsb'_append_eq_of_add_le]; simp
theorem ldsmpW (o : BitVec 6) (s : BitVec 4) (p : BitVec 6) (d : BitVec 7) : Statement (.ldsmpW o s p d) := by
  refine ofLong rfl ?_ ?_
  · simp (disch := decide) only [BitVec.extractLsb'_append_eq_of_le, BitVec.extractLsb'_append_eq_of_add_le]; decide
  · simp (disch := decide) only [decode32, decodeMajor18, BitVec.extractLsb'_append_eq_of_le, BitVec.extractLsb'_append_eq_of_add_le]; simp
theorem fenceX (m : BitVec 16) : Statement (.fenceX m) := by
  refine ofLong rfl ?_ ?_
  · simp (disch := decide) only [BitVec.extractLsb'_append_eq_of_le, BitVec.extractLsb'_append_eq_of_add_le]; decide
  · simp (disch := decide) only [decode32, decodeMajor19, BitVec.extractLsb'_append_eq_of_le, BitVec.extractLsb'_append_eq_of_add_le]; simp
theorem fenceAr (m : BitVec 16) (k : BitVec 3) : Statement (.fenceAr m k) := by
  refine ofLong rfl ?_ ?_
  · simp (disch := decide) only [BitVec.extractLsb'_append_eq_of_le, BitVec.extractLsb'_append_eq_of_add_le]; decide
  · simp (disch := decide) only [decode32, decodeMajor19, BitVec.extractLsb'_append_eq_of_le, BitVec.extractLsb'_append_eq_of_add_le]; simp
theorem fenceSc (m : BitVec 16) (k : BitVec 3) : Statement (.fenceSc m k) := by
  refine ofLong rfl ?_ ?_
  · simp (disch := decide) only [BitVec.extractLsb'_append_eq_of_le, BitVec.extractLsb'_append_eq_of_add_le]; decide
  · simp (disch := decide) only [decode32, decodeMajor19, BitVec.extractLsb'_append_eq_of_le, BitVec.extractLsb'_append_eq_of_add_le]; simp
theorem fenceEng (m : BitVec 16) (k : BitVec 3) : Statement (.fenceEng m k) := by
  refine ofLong rfl ?_ ?_
  · simp (disch := decide) only [BitVec.extractLsb'_append_eq_of_le, BitVec.extractLsb'_append_eq_of_add_le]; decide
  · simp (disch := decide) only [decode32, decodeMajor19, BitVec.extractLsb'_append_eq_of_le, BitVec.extractLsb'_append_eq_of_add_le]; simp
theorem stflush (m : BitVec 16) : Statement (.stflush m) := by
  refine ofLong rfl ?_ ?_
  · simp (disch := decide) only [BitVec.extractLsb'_append_eq_of_le, BitVec.extractLsb'_append_eq_of_add_le]; decide
  · simp (disch := decide) only [decode32, decodeMajor19, BitVec.extractLsb'_append_eq_of_le, BitVec.extractLsb'_append_eq_of_add_le]; simp
theorem refetchFence : Statement (.refetchFence) := ofLong rfl rfl rfl
theorem atomAdd (n : BitVec 1) (k : BitVec 3) (s : BitVec 4) (p : BitVec 6) (d : BitVec 7) : Statement (.atomAdd n k s p d) := by
  refine ofLong rfl ?_ ?_
  · simp (disch := decide) only [BitVec.extractLsb'_append_eq_of_le, BitVec.extractLsb'_append_eq_of_add_le]; decide
  · simp (disch := decide) only [decode32, decodeMajor1A, BitVec.extractLsb'_append_eq_of_le, BitVec.extractLsb'_append_eq_of_add_le]; simp
theorem atomMinI32 (n : BitVec 1) (k : BitVec 3) (s : BitVec 4) (p : BitVec 6) (d : BitVec 7) : Statement (.atomMinI32 n k s p d) := by
  refine ofLong rfl ?_ ?_
  · simp (disch := decide) only [BitVec.extractLsb'_append_eq_of_le, BitVec.extractLsb'_append_eq_of_add_le]; decide
  · simp (disch := decide) only [decode32, decodeMajor1A, BitVec.extractLsb'_append_eq_of_le, BitVec.extractLsb'_append_eq_of_add_le]; simp
theorem atomMaxI32 (n : BitVec 1) (k : BitVec 3) (s : BitVec 4) (p : BitVec 6) (d : BitVec 7) : Statement (.atomMaxI32 n k s p d) := by
  refine ofLong rfl ?_ ?_
  · simp (disch := decide) only [BitVec.extractLsb'_append_eq_of_le, BitVec.extractLsb'_append_eq_of_add_le]; decide
  · simp (disch := decide) only [decode32, decodeMajor1A, BitVec.extractLsb'_append_eq_of_le, BitVec.extractLsb'_append_eq_of_add_le]; simp
theorem atomMinZ32 (n : BitVec 1) (k : BitVec 3) (s : BitVec 4) (p : BitVec 6) (d : BitVec 7) : Statement (.atomMinZ32 n k s p d) := by
  refine ofLong rfl ?_ ?_
  · simp (disch := decide) only [BitVec.extractLsb'_append_eq_of_le, BitVec.extractLsb'_append_eq_of_add_le]; decide
  · simp (disch := decide) only [decode32, decodeMajor1A, BitVec.extractLsb'_append_eq_of_le, BitVec.extractLsb'_append_eq_of_add_le]; simp
theorem atomMaxZ32 (n : BitVec 1) (k : BitVec 3) (s : BitVec 4) (p : BitVec 6) (d : BitVec 7) : Statement (.atomMaxZ32 n k s p d) := by
  refine ofLong rfl ?_ ?_
  · simp (disch := decide) only [BitVec.extractLsb'_append_eq_of_le, BitVec.extractLsb'_append_eq_of_add_le]; decide
  · simp (disch := decide) only [decode32, decodeMajor1A, BitVec.extractLsb'_append_eq_of_le, BitVec.extractLsb'_append_eq_of_add_le]; simp
theorem atomAnd (n : BitVec 1) (k : BitVec 3) (s : BitVec 4) (p : BitVec 6) (d : BitVec 7) : Statement (.atomAnd n k s p d) := by
  refine ofLong rfl ?_ ?_
  · simp (disch := decide) only [BitVec.extractLsb'_append_eq_of_le, BitVec.extractLsb'_append_eq_of_add_le]; decide
  · simp (disch := decide) only [decode32, decodeMajor1A, BitVec.extractLsb'_append_eq_of_le, BitVec.extractLsb'_append_eq_of_add_le]; simp
theorem atomOr (n : BitVec 1) (k : BitVec 3) (s : BitVec 4) (p : BitVec 6) (d : BitVec 7) : Statement (.atomOr n k s p d) := by
  refine ofLong rfl ?_ ?_
  · simp (disch := decide) only [BitVec.extractLsb'_append_eq_of_le, BitVec.extractLsb'_append_eq_of_add_le]; decide
  · simp (disch := decide) only [decode32, decodeMajor1A, BitVec.extractLsb'_append_eq_of_le, BitVec.extractLsb'_append_eq_of_add_le]; simp
theorem atomXor (n : BitVec 1) (k : BitVec 3) (s : BitVec 4) (p : BitVec 6) (d : BitVec 7) : Statement (.atomXor n k s p d) := by
  refine ofLong rfl ?_ ?_
  · simp (disch := decide) only [BitVec.extractLsb'_append_eq_of_le, BitVec.extractLsb'_append_eq_of_add_le]; decide
  · simp (disch := decide) only [decode32, decodeMajor1A, BitVec.extractLsb'_append_eq_of_le, BitVec.extractLsb'_append_eq_of_add_le]; simp
theorem atomExch (n : BitVec 1) (k : BitVec 3) (s : BitVec 4) (p : BitVec 6) (d : BitVec 7) : Statement (.atomExch n k s p d) := by
  refine ofLong rfl ?_ ?_
  · simp (disch := decide) only [BitVec.extractLsb'_append_eq_of_le, BitVec.extractLsb'_append_eq_of_add_le]; decide
  · simp (disch := decide) only [decode32, decodeMajor1A, BitVec.extractLsb'_append_eq_of_le, BitVec.extractLsb'_append_eq_of_add_le]; simp
theorem atomCas (n : BitVec 1) (k : BitVec 3) (s : BitVec 4) (p : BitVec 6) (d : BitVec 7) : Statement (.atomCas n k s p d) := by
  refine ofLong rfl ?_ ?_
  · simp (disch := decide) only [BitVec.extractLsb'_append_eq_of_le, BitVec.extractLsb'_append_eq_of_add_le]; decide
  · simp (disch := decide) only [decode32, decodeMajor1A, BitVec.extractLsb'_append_eq_of_le, BitVec.extractLsb'_append_eq_of_add_le]; simp
theorem atomIncw (n : BitVec 1) (k : BitVec 3) (s : BitVec 4) (p : BitVec 6) (d : BitVec 7) : Statement (.atomIncw n k s p d) := by
  refine ofLong rfl ?_ ?_
  · simp (disch := decide) only [BitVec.extractLsb'_append_eq_of_le, BitVec.extractLsb'_append_eq_of_add_le]; decide
  · simp (disch := decide) only [decode32, decodeMajor1A, BitVec.extractLsb'_append_eq_of_le, BitVec.extractLsb'_append_eq_of_add_le]; simp
theorem atomDecw (n : BitVec 1) (k : BitVec 3) (s : BitVec 4) (p : BitVec 6) (d : BitVec 7) : Statement (.atomDecw n k s p d) := by
  refine ofLong rfl ?_ ?_
  · simp (disch := decide) only [BitVec.extractLsb'_append_eq_of_le, BitVec.extractLsb'_append_eq_of_add_le]; decide
  · simp (disch := decide) only [decode32, decodeMajor1A, BitVec.extractLsb'_append_eq_of_le, BitVec.extractLsb'_append_eq_of_add_le]; simp
theorem atomFaddF32 (n : BitVec 1) (k : BitVec 3) (s : BitVec 4) (p : BitVec 6) (d : BitVec 7) : Statement (.atomFaddF32 n k s p d) := by
  refine ofLong rfl ?_ ?_
  · simp (disch := decide) only [BitVec.extractLsb'_append_eq_of_le, BitVec.extractLsb'_append_eq_of_add_le]; decide
  · simp (disch := decide) only [decode32, decodeMajor1A, BitVec.extractLsb'_append_eq_of_le, BitVec.extractLsb'_append_eq_of_add_le]; simp
theorem atomFminF32 (n : BitVec 1) (k : BitVec 3) (s : BitVec 4) (p : BitVec 6) (d : BitVec 7) : Statement (.atomFminF32 n k s p d) := by
  refine ofLong rfl ?_ ?_
  · simp (disch := decide) only [BitVec.extractLsb'_append_eq_of_le, BitVec.extractLsb'_append_eq_of_add_le]; decide
  · simp (disch := decide) only [decode32, decodeMajor1A, BitVec.extractLsb'_append_eq_of_le, BitVec.extractLsb'_append_eq_of_add_le]; simp
theorem atomFmaxF32 (n : BitVec 1) (k : BitVec 3) (s : BitVec 4) (p : BitVec 6) (d : BitVec 7) : Statement (.atomFmaxF32 n k s p d) := by
  refine ofLong rfl ?_ ?_
  · simp (disch := decide) only [BitVec.extractLsb'_append_eq_of_le, BitVec.extractLsb'_append_eq_of_add_le]; decide
  · simp (disch := decide) only [decode32, decodeMajor1A, BitVec.extractLsb'_append_eq_of_le, BitVec.extractLsb'_append_eq_of_add_le]; simp
theorem atomAddD (n : BitVec 1) (k : BitVec 3) (s : BitVec 4) (p : BitVec 6) (d : BitVec 7) : Statement (.atomAddD n k s p d) := by
  refine ofLong rfl ?_ ?_
  · simp (disch := decide) only [BitVec.extractLsb'_append_eq_of_le, BitVec.extractLsb'_append_eq_of_add_le]; decide
  · simp (disch := decide) only [decode32, decodeMajor1A, BitVec.extractLsb'_append_eq_of_le, BitVec.extractLsb'_append_eq_of_add_le]; simp
theorem txb (d : BitVec 7) : Statement (.txb d) := by
  refine ofLong rfl ?_ ?_
  · simp (disch := decide) only [BitVec.extractLsb'_append_eq_of_le, BitVec.extractLsb'_append_eq_of_add_le]; decide
  · simp (disch := decide) only [decode32, decodeMajor1B, BitVec.extractLsb'_append_eq_of_le, BitVec.extractLsb'_append_eq_of_add_le]; simp
theorem txe : Statement (.txe) := ofLong rfl rfl rfl
theorem txa (i : BitVec 7) : Statement (.txa i) := by
  refine ofLong rfl ?_ ?_
  · simp (disch := decide) only [BitVec.extractLsb'_append_eq_of_le, BitVec.extractLsb'_append_eq_of_add_le]; decide
  · simp (disch := decide) only [decode32, decodeMajor1B, BitVec.extractLsb'_append_eq_of_le, BitVec.extractLsb'_append_eq_of_add_le]; simp
theorem fput (b a d : BitVec 7) : Statement (.fput b a d) := by
  refine ofLong rfl ?_ ?_
  · simp (disch := decide) only [BitVec.extractLsb'_append_eq_of_le, BitVec.extractLsb'_append_eq_of_add_le]; decide
  · simp (disch := decide) only [decode32, decodeMajor1B, BitVec.extractLsb'_append_eq_of_le, BitVec.extractLsb'_append_eq_of_add_le]; simp
theorem fputt (b a d : BitVec 7) : Statement (.fputt b a d) := by
  refine ofLong rfl ?_ ?_
  · simp (disch := decide) only [BitVec.extractLsb'_append_eq_of_le, BitVec.extractLsb'_append_eq_of_add_le]; decide
  · simp (disch := decide) only [decode32, decodeMajor1B, BitVec.extractLsb'_append_eq_of_le, BitVec.extractLsb'_append_eq_of_add_le]; simp
theorem fget (a d : BitVec 7) : Statement (.fget a d) := by
  refine ofLong rfl ?_ ?_
  · simp (disch := decide) only [BitVec.extractLsb'_append_eq_of_le, BitVec.extractLsb'_append_eq_of_add_le]; decide
  · simp (disch := decide) only [decode32, decodeMajor1B, BitVec.extractLsb'_append_eq_of_le, BitVec.extractLsb'_append_eq_of_add_le]; simp
theorem barArr (n q : BitVec 3) : Statement (.barArr n q) := by
  refine ofLong rfl ?_ ?_
  · simp (disch := decide) only [BitVec.extractLsb'_append_eq_of_le, BitVec.extractLsb'_append_eq_of_add_le]; decide
  · simp (disch := decide) only [decode32, decodeMajor1B, BitVec.extractLsb'_append_eq_of_le, BitVec.extractLsb'_append_eq_of_add_le]; simp
theorem barWait (n q : BitVec 3) : Statement (.barWait n q) := by
  refine ofLong rfl ?_ ?_
  · simp (disch := decide) only [BitVec.extractLsb'_append_eq_of_le, BitVec.extractLsb'_append_eq_of_add_le]; decide
  · simp (disch := decide) only [decode32, decodeMajor1B, BitVec.extractLsb'_append_eq_of_le, BitVec.extractLsb'_append_eq_of_add_le]; simp
theorem barSync (n q : BitVec 3) : Statement (.barSync n q) := by
  refine ofLong rfl ?_ ?_
  · simp (disch := decide) only [BitVec.extractLsb'_append_eq_of_le, BitVec.extractLsb'_append_eq_of_add_le]; decide
  · simp (disch := decide) only [decode32, decodeMajor1B, BitVec.extractLsb'_append_eq_of_le, BitVec.extractLsb'_append_eq_of_add_le]; simp
theorem barAddb (n q : BitVec 3) (a : BitVec 7) : Statement (.barAddb n q a) := by
  refine ofLong rfl ?_ ?_
  · simp (disch := decide) only [BitVec.extractLsb'_append_eq_of_le, BitVec.extractLsb'_append_eq_of_add_le]; decide
  · simp (disch := decide) only [decode32, decodeMajor1B, BitVec.extractLsb'_append_eq_of_le, BitVec.extractLsb'_append_eq_of_add_le]; simp
theorem barChk (n q : BitVec 3) : Statement (.barChk n q) := by
  refine ofLong rfl ?_ ?_
  · simp (disch := decide) only [BitVec.extractLsb'_append_eq_of_le, BitVec.extractLsb'_append_eq_of_add_le]; decide
  · simp (disch := decide) only [decode32, decodeMajor1B, BitVec.extractLsb'_append_eq_of_le, BitVec.extractLsb'_append_eq_of_add_le]; simp
theorem callo (b a d : BitVec 7) : Statement (.callo b a d) := by
  refine ofLong rfl ?_ ?_
  · simp (disch := decide) only [BitVec.extractLsb'_append_eq_of_le, BitVec.extractLsb'_append_eq_of_add_le]; decide
  · simp (disch := decide) only [decode32, decodeMajor1B, BitVec.extractLsb'_append_eq_of_le, BitVec.extractLsb'_append_eq_of_add_le]; simp
theorem crply (i a : BitVec 7) : Statement (.crply i a) := by
  refine ofLong rfl ?_ ?_
  · simp (disch := decide) only [BitVec.extractLsb'_append_eq_of_le, BitVec.extractLsb'_append_eq_of_add_le]; decide
  · simp (disch := decide) only [decode32, decodeMajor1B, BitVec.extractLsb'_append_eq_of_le, BitVec.extractLsb'_append_eq_of_add_le]; simp
theorem objreg (a d : BitVec 7) : Statement (.objreg a d) := by
  refine ofLong rfl ?_ ?_
  · simp (disch := decide) only [BitVec.extractLsb'_append_eq_of_le, BitVec.extractLsb'_append_eq_of_add_le]; decide
  · simp (disch := decide) only [decode32, decodeMajor1B, BitVec.extractLsb'_append_eq_of_le, BitVec.extractLsb'_append_eq_of_add_le]; simp
theorem objrst (a d : BitVec 7) : Statement (.objrst a d) := by
  refine ofLong rfl ?_ ?_
  · simp (disch := decide) only [BitVec.extractLsb'_append_eq_of_le, BitVec.extractLsb'_append_eq_of_add_le]; decide
  · simp (disch := decide) only [decode32, decodeMajor1B, BitVec.extractLsb'_append_eq_of_le, BitVec.extractLsb'_append_eq_of_add_le]; simp
theorem rcv : Statement (.rcv) := ofLong rfl rfl rfl
theorem mke (d : BitVec 7) : Statement (.mke d) := by
  refine ofLong rfl ?_ ?_
  · simp (disch := decide) only [BitVec.extractLsb'_append_eq_of_le, BitVec.extractLsb'_append_eq_of_add_le]; decide
  · simp (disch := decide) only [decode32, decodeMajor1B, BitVec.extractLsb'_append_eq_of_le, BitVec.extractLsb'_append_eq_of_add_le]; simp
theorem waitf (a : BitVec 7) : Statement (.waitf a) := by
  refine ofLong rfl ?_ ?_
  · simp (disch := decide) only [BitVec.extractLsb'_append_eq_of_le, BitVec.extractLsb'_append_eq_of_add_le]; decide
  · simp (disch := decide) only [decode32, decodeMajor1B, BitVec.extractLsb'_append_eq_of_le, BitVec.extractLsb'_append_eq_of_add_le]; simp
theorem cbpush (q : BitVec 3) (d : BitVec 7) : Statement (.cbpush q d) := by
  refine ofLong rfl ?_ ?_
  · simp (disch := decide) only [BitVec.extractLsb'_append_eq_of_le, BitVec.extractLsb'_append_eq_of_add_le]; decide
  · simp (disch := decide) only [decode32, decodeMajor1B, BitVec.extractLsb'_append_eq_of_le, BitVec.extractLsb'_append_eq_of_add_le]; simp
theorem cbcmt (q : BitVec 3) : Statement (.cbcmt q) := by
  refine ofLong rfl ?_ ?_
  · simp (disch := decide) only [BitVec.extractLsb'_append_eq_of_le, BitVec.extractLsb'_append_eq_of_add_le]; decide
  · simp (disch := decide) only [decode32, decodeMajor1B, BitVec.extractLsb'_append_eq_of_le, BitVec.extractLsb'_append_eq_of_add_le]; simp
theorem cbwait (q : BitVec 3) (d : BitVec 7) : Statement (.cbwait q d) := by
  refine ofLong rfl ?_ ?_
  · simp (disch := decide) only [BitVec.extractLsb'_append_eq_of_le, BitVec.extractLsb'_append_eq_of_add_le]; decide
  · simp (disch := decide) only [decode32, decodeMajor1B, BitVec.extractLsb'_append_eq_of_le, BitVec.extractLsb'_append_eq_of_add_le]; simp
theorem cbpop (q : BitVec 3) : Statement (.cbpop q) := by
  refine ofLong rfl ?_ ?_
  · simp (disch := decide) only [BitVec.extractLsb'_append_eq_of_le, BitVec.extractLsb'_append_eq_of_add_le]; decide
  · simp (disch := decide) only [decode32, decodeMajor1B, BitVec.extractLsb'_append_eq_of_le, BitVec.extractLsb'_append_eq_of_add_le]; simp
theorem acwait (t : BitVec 3) : Statement (.acwait t) := by
  refine ofLong rfl ?_ ?_
  · simp (disch := decide) only [BitVec.extractLsb'_append_eq_of_le, BitVec.extractLsb'_append_eq_of_add_le]; decide
  · simp (disch := decide) only [decode32, decodeMajor1B, BitVec.extractLsb'_append_eq_of_le, BitVec.extractLsb'_append_eq_of_add_le]; simp
theorem regrow (i : BitVec 7) : Statement (.regrow i) := by
  refine ofLong rfl ?_ ?_
  · simp (disch := decide) only [BitVec.extractLsb'_append_eq_of_le, BitVec.extractLsb'_append_eq_of_add_le]; decide
  · simp (disch := decide) only [decode32, decodeMajor1B, BitVec.extractLsb'_append_eq_of_le, BitVec.extractLsb'_append_eq_of_add_le]; simp
theorem regshr (i : BitVec 7) : Statement (.regshr i) := by
  refine ofLong rfl ?_ ?_
  · simp (disch := decide) only [BitVec.extractLsb'_append_eq_of_le, BitVec.extractLsb'_append_eq_of_add_le]; decide
  · simp (disch := decide) only [decode32, decodeMajor1B, BitVec.extractLsb'_append_eq_of_le, BitVec.extractLsb'_append_eq_of_add_le]; simp
theorem cont (a : BitVec 7) : Statement (.cont a) := by
  refine ofLong rfl ?_ ?_
  · simp (disch := decide) only [BitVec.extractLsb'_append_eq_of_le, BitVec.extractLsb'_append_eq_of_add_le]; decide
  · simp (disch := decide) only [decode32, decodeMajor1B, BitVec.extractLsb'_append_eq_of_le, BitVec.extractLsb'_append_eq_of_add_le]; simp
theorem wrec (b a : BitVec 7) : Statement (.wrec b a) := by
  refine ofLong rfl ?_ ?_
  · simp (disch := decide) only [BitVec.extractLsb'_append_eq_of_le, BitVec.extractLsb'_append_eq_of_add_le]; decide
  · simp (disch := decide) only [decode32, decodeMajor1B, BitVec.extractLsb'_append_eq_of_le, BitVec.extractLsb'_append_eq_of_add_le]; simp
theorem pwenq (a d : BitVec 7) : Statement (.pwenq a d) := by
  refine ofLong rfl ?_ ?_
  · simp (disch := decide) only [BitVec.extractLsb'_append_eq_of_le, BitVec.extractLsb'_append_eq_of_add_le]; decide
  · simp (disch := decide) only [decode32, decodeMajor1B, BitVec.extractLsb'_append_eq_of_le, BitVec.extractLsb'_append_eq_of_add_le]; simp
theorem yield : Statement (.yield) := ofLong rfl rfl rfl
theorem exit : Statement (.exit) := ofLong rfl rfl rfl
theorem setprg (a : BitVec 7) : Statement (.setprg a) := by
  refine ofLong rfl ?_ ?_
  · simp (disch := decide) only [BitVec.extractLsb'_append_eq_of_le, BitVec.extractLsb'_append_eq_of_add_le]; decide
  · simp (disch := decide) only [decode32, decodeMajor1B, BitVec.extractLsb'_append_eq_of_le, BitVec.extractLsb'_append_eq_of_add_le]; simp
theorem acp (b : BitVec 1) (s : BitVec 4) (t : BitVec 3) (v : BitVec 5) (p : BitVec 6) (o : BitVec 7) : Statement (.acp b s t v p o) := by
  refine ofLong rfl ?_ ?_
  · simp (disch := decide) only [BitVec.extractLsb'_append_eq_of_le, BitVec.extractLsb'_append_eq_of_add_le]; decide
  · simp (disch := decide) only [decode32, decodeMajor1C, BitVec.extractLsb'_append_eq_of_le, BitVec.extractLsb'_append_eq_of_add_le]; simp
theorem mfrag (c : BitVec 5) (b a d : BitVec 7) : Statement (.mfrag c b a d) := by
  refine ofLong rfl ?_ ?_
  · simp (disch := decide) only [BitVec.extractLsb'_append_eq_of_le, BitVec.extractLsb'_append_eq_of_add_le]; decide
  · simp (disch := decide) only [decode32, decodeMajor1D, BitVec.extractLsb'_append_eq_of_le, BitVec.extractLsb'_append_eq_of_add_le]; simp
theorem mtile (a : BitVec 7) : Statement (.mtile a) := by
  refine ofLong rfl ?_ ?_
  · simp (disch := decide) only [BitVec.extractLsb'_append_eq_of_le, BitVec.extractLsb'_append_eq_of_add_le]; decide
  · simp (disch := decide) only [decode32, decodeMajor1E, BitVec.extractLsb'_append_eq_of_le, BitVec.extractLsb'_append_eq_of_add_le]; simp
theorem mspt (a : BitVec 7) : Statement (.mspt a) := by
  refine ofLong rfl ?_ ?_
  · simp (disch := decide) only [BitVec.extractLsb'_append_eq_of_le, BitVec.extractLsb'_append_eq_of_add_le]; decide
  · simp (disch := decide) only [decode32, decodeMajor1E, BitVec.extractLsb'_append_eq_of_le, BitVec.extractLsb'_append_eq_of_add_le]; simp
theorem mring (z : BitVec 2) : Statement (.mring z) := by
  refine ofLong rfl ?_ ?_
  · simp (disch := decide) only [BitVec.extractLsb'_append_eq_of_le, BitVec.extractLsb'_append_eq_of_add_le]; decide
  · simp (disch := decide) only [decode32, decodeMajor1E, BitVec.extractLsb'_append_eq_of_le, BitVec.extractLsb'_append_eq_of_add_le]; simp
theorem mwait (s : BitVec 4) : Statement (.mwait s) := by
  refine ofLong rfl ?_ ?_
  · simp (disch := decide) only [BitVec.extractLsb'_append_eq_of_le, BitVec.extractLsb'_append_eq_of_add_le]; decide
  · simp (disch := decide) only [decode32, decodeMajor1E, BitVec.extractLsb'_append_eq_of_le, BitVec.extractLsb'_append_eq_of_add_le]; simp
theorem part (a : BitVec 7) : Statement (.part a) := by
  refine ofLong rfl ?_ ?_
  · simp (disch := decide) only [BitVec.extractLsb'_append_eq_of_le, BitVec.extractLsb'_append_eq_of_add_le]; decide
  · simp (disch := decide) only [decode32, decodeMajor1E, BitVec.extractLsb'_append_eq_of_le, BitVec.extractLsb'_append_eq_of_add_le]; simp
theorem pwait (s : BitVec 4) : Statement (.pwait s) := by
  refine ofLong rfl ?_ ?_
  · simp (disch := decide) only [BitVec.extractLsb'_append_eq_of_le, BitVec.extractLsb'_append_eq_of_add_le]; decide
  · simp (disch := decide) only [decode32, decodeMajor1E, BitVec.extractLsb'_append_eq_of_le, BitVec.extractLsb'_append_eq_of_add_le]; simp
theorem acb (q : BitVec 3) (a : BitVec 7) : Statement (.acb q a) := by
  refine ofLong rfl ?_ ?_
  · simp (disch := decide) only [BitVec.extractLsb'_append_eq_of_le, BitVec.extractLsb'_append_eq_of_add_le]; decide
  · simp (disch := decide) only [decode32, decodeMajor1E, BitVec.extractLsb'_append_eq_of_le, BitVec.extractLsb'_append_eq_of_add_le]; simp
theorem calcfg (k : BitVec 2) (a : BitVec 7) : Statement (.calcfg k a) := by
  refine ofLong rfl ?_ ?_
  · simp (disch := decide) only [BitVec.extractLsb'_append_eq_of_le, BitVec.extractLsb'_append_eq_of_add_le]; decide
  · simp (disch := decide) only [decode32, decodeMajor1E, BitVec.extractLsb'_append_eq_of_le, BitVec.extractLsb'_append_eq_of_add_le]; simp
theorem calref (k : BitVec 2) (a : BitVec 7) : Statement (.calref k a) := by
  refine ofLong rfl ?_ ?_
  · simp (disch := decide) only [BitVec.extractLsb'_append_eq_of_le, BitVec.extractLsb'_append_eq_of_add_le]; decide
  · simp (disch := decide) only [decode32, decodeMajor1E, BitVec.extractLsb'_append_eq_of_le, BitVec.extractLsb'_append_eq_of_add_le]; simp
theorem calbnd (k : BitVec 2) (a : BitVec 7) : Statement (.calbnd k a) := by
  refine ofLong rfl ?_ ?_
  · simp (disch := decide) only [BitVec.extractLsb'_append_eq_of_le, BitVec.extractLsb'_append_eq_of_add_le]; decide
  · simp (disch := decide) only [decode32, decodeMajor1E, BitVec.extractLsb'_append_eq_of_le, BitVec.extractLsb'_append_eq_of_add_le]; simp
theorem calrd (v : BitVec 3) (k : BitVec 2) (d : BitVec 7) : Statement (.calrd v k d) := by
  refine ofLong rfl ?_ ?_
  · simp (disch := decide) only [BitVec.extractLsb'_append_eq_of_le, BitVec.extractLsb'_append_eq_of_add_le]; decide
  · simp (disch := decide) only [decode32, decodeMajor1E, BitVec.extractLsb'_append_eq_of_le, BitVec.extractLsb'_append_eq_of_add_le]; simp
theorem carvinv (a : BitVec 7) : Statement (.carvinv a) := by
  refine ofLong rfl ?_ ?_
  · simp (disch := decide) only [BitVec.extractLsb'_append_eq_of_le, BitVec.extractLsb'_append_eq_of_add_le]; decide
  · simp (disch := decide) only [decode32, decodeMajor1E, BitVec.extractLsb'_append_eq_of_le, BitVec.extractLsb'_append_eq_of_add_le]; simp
theorem stmap (a d : BitVec 7) : Statement (.stmap a d) := by
  refine ofLong rfl ?_ ?_
  · simp (disch := decide) only [BitVec.extractLsb'_append_eq_of_le, BitVec.extractLsb'_append_eq_of_add_le]; decide
  · simp (disch := decide) only [decode32, decodeMajor1E, BitVec.extractLsb'_append_eq_of_le, BitVec.extractLsb'_append_eq_of_add_le]; simp
theorem stunmap (a : BitVec 7) : Statement (.stunmap a) := by
  refine ofLong rfl ?_ ?_
  · simp (disch := decide) only [BitVec.extractLsb'_append_eq_of_le, BitVec.extractLsb'_append_eq_of_add_le]; decide
  · simp (disch := decide) only [decode32, decodeMajor1E, BitVec.extractLsb'_append_eq_of_le, BitVec.extractLsb'_append_eq_of_add_le]; simp
theorem nodeRd (f : BitVec 4) (d : BitVec 7) : Statement (.nodeRd f d) := by
  refine ofLong rfl ?_ ?_
  · simp (disch := decide) only [BitVec.extractLsb'_append_eq_of_le, BitVec.extractLsb'_append_eq_of_add_le]; decide
  · simp (disch := decide) only [decode32, decodeMajor1E, BitVec.extractLsb'_append_eq_of_le, BitVec.extractLsb'_append_eq_of_add_le]; simp
theorem nodeIn (a d : BitVec 7) : Statement (.nodeIn a d) := by
  refine ofLong rfl ?_ ?_
  · simp (disch := decide) only [BitVec.extractLsb'_append_eq_of_le, BitVec.extractLsb'_append_eq_of_add_le]; decide
  · simp (disch := decide) only [decode32, decodeMajor1E, BitVec.extractLsb'_append_eq_of_le, BitVec.extractLsb'_append_eq_of_add_le]; simp
theorem nodeUp (b a : BitVec 7) : Statement (.nodeUp b a) := by
  refine ofLong rfl ?_ ?_
  · simp (disch := decide) only [BitVec.extractLsb'_append_eq_of_le, BitVec.extractLsb'_append_eq_of_add_le]; decide
  · simp (disch := decide) only [decode32, decodeMajor1E, BitVec.extractLsb'_append_eq_of_le, BitVec.extractLsb'_append_eq_of_add_le]; simp
theorem nodeDn (b a : BitVec 7) : Statement (.nodeDn b a) := by
  refine ofLong rfl ?_ ?_
  · simp (disch := decide) only [BitVec.extractLsb'_append_eq_of_le, BitVec.extractLsb'_append_eq_of_add_le]; decide
  · simp (disch := decide) only [decode32, decodeMajor1E, BitVec.extractLsb'_append_eq_of_le, BitVec.extractLsb'_append_eq_of_add_le]; simp
theorem xnext (b a d : BitVec 7) : Statement (.xnext b a d) := by
  refine ofLong rfl ?_ ?_
  · simp (disch := decide) only [BitVec.extractLsb'_append_eq_of_le, BitVec.extractLsb'_append_eq_of_add_le]; decide
  · simp (disch := decide) only [decode32, decodeMajor1E, BitVec.extractLsb'_append_eq_of_le, BitVec.extractLsb'_append_eq_of_add_le]; simp
theorem setstrm (s : BitVec 4) (a : BitVec 7) : Statement (.setstrm s a) := by
  refine ofLong rfl ?_ ?_
  · simp (disch := decide) only [BitVec.extractLsb'_append_eq_of_le, BitVec.extractLsb'_append_eq_of_add_le]; decide
  · simp (disch := decide) only [decode32, decodeMajor1E, BitVec.extractLsb'_append_eq_of_le, BitVec.extractLsb'_append_eq_of_add_le]; simp
theorem mtok (d : BitVec 7) : Statement (.mtok d) := by
  refine ofLong rfl ?_ ?_
  · simp (disch := decide) only [BitVec.extractLsb'_append_eq_of_le, BitVec.extractLsb'_append_eq_of_add_le]; decide
  · simp (disch := decide) only [decode32, decodeMajor1E, BitVec.extractLsb'_append_eq_of_le, BitVec.extractLsb'_append_eq_of_add_le]; simp
theorem br (i : BitVec 19) (n : BitVec 1) (p : BitVec 3) : Statement (.br i n p) := by
  refine ofLong rfl ?_ ?_
  · simp (disch := decide) only [BitVec.extractLsb'_append_eq_of_le, BitVec.extractLsb'_append_eq_of_add_le]; decide
  · simp (disch := decide) only [decode32, decodeMajor1F, BitVec.extractLsb'_append_eq_of_le, BitVec.extractLsb'_append_eq_of_add_le]; simp
theorem call (i : BitVec 23) : Statement (.call i) := by
  refine ofLong rfl ?_ ?_
  · simp (disch := decide) only [BitVec.extractLsb'_append_eq_of_le, BitVec.extractLsb'_append_eq_of_add_le]; decide
  · simp (disch := decide) only [decode32, decodeMajor1F, BitVec.extractLsb'_append_eq_of_le, BitVec.extractLsb'_append_eq_of_add_le]; simp
theorem jmp (p : BitVec 7) : Statement (.jmp p) := by
  refine ofLong rfl ?_ ?_
  · simp (disch := decide) only [BitVec.extractLsb'_append_eq_of_le, BitVec.extractLsb'_append_eq_of_add_le]; decide
  · simp (disch := decide) only [decode32, decodeMajor1F, BitVec.extractLsb'_append_eq_of_le, BitVec.extractLsb'_append_eq_of_add_le]; simp
theorem callr (p : BitVec 7) : Statement (.callr p) := by
  refine ofLong rfl ?_ ?_
  · simp (disch := decide) only [BitVec.extractLsb'_append_eq_of_le, BitVec.extractLsb'_append_eq_of_add_le]; decide
  · simp (disch := decide) only [decode32, decodeMajor1F, BitVec.extractLsb'_append_eq_of_le, BitVec.extractLsb'_append_eq_of_add_le]; simp
theorem ret (p : BitVec 7) : Statement (.ret p) := by
  refine ofLong rfl ?_ ?_
  · simp (disch := decide) only [BitVec.extractLsb'_append_eq_of_le, BitVec.extractLsb'_append_eq_of_add_le]; decide
  · simp (disch := decide) only [decode32, decodeMajor1F, BitVec.extractLsb'_append_eq_of_le, BitVec.extractLsb'_append_eq_of_add_le]; simp
theorem nop : Statement (.nop) := ofLong rfl rfl rfl
theorem pred (n : BitVec 1) (q : BitVec 3) : Statement (.pred n q) := by
  refine ofLong rfl ?_ ?_
  · simp (disch := decide) only [BitVec.extractLsb'_append_eq_of_le, BitVec.extractLsb'_append_eq_of_add_le]; decide
  · simp (disch := decide) only [decode32, decodeMajor1F, BitVec.extractLsb'_append_eq_of_le, BitVec.extractLsb'_append_eq_of_add_le]; simp
theorem srd (a d : BitVec 7) : Statement (.srd a d) := by
  refine ofLong rfl ?_ ?_
  · simp (disch := decide) only [BitVec.extractLsb'_append_eq_of_le, BitVec.extractLsb'_append_eq_of_add_le]; decide
  · simp (disch := decide) only [decode32, decodeMajor1F, BitVec.extractLsb'_append_eq_of_le, BitVec.extractLsb'_append_eq_of_add_le]; simp
theorem swr (a d : BitVec 7) : Statement (.swr a d) := by
  refine ofLong rfl ?_ ?_
  · simp (disch := decide) only [BitVec.extractLsb'_append_eq_of_le, BitVec.extractLsb'_append_eq_of_add_le]; decide
  · simp (disch := decide) only [decode32, decodeMajor1F, BitVec.extractLsb'_append_eq_of_le, BitVec.extractLsb'_append_eq_of_add_le]; simp
theorem setrm (r : BitVec 2) : Statement (.setrm r) := by
  refine ofLong rfl ?_ ?_
  · simp (disch := decide) only [BitVec.extractLsb'_append_eq_of_le, BitVec.extractLsb'_append_eq_of_add_le]; decide
  · simp (disch := decide) only [decode32, decodeMajor1F, BitVec.extractLsb'_append_eq_of_le, BitVec.extractLsb'_append_eq_of_add_le]; simp
theorem clrff (d : BitVec 7) : Statement (.clrff d) := by
  refine ofLong rfl ?_ ?_
  · simp (disch := decide) only [BitVec.extractLsb'_append_eq_of_le, BitVec.extractLsb'_append_eq_of_add_le]; decide
  · simp (disch := decide) only [decode32, decodeMajor1F, BitVec.extractLsb'_append_eq_of_le, BitVec.extractLsb'_append_eq_of_add_le]; simp
theorem trapi (i : BitVec 4) : Statement (.trapi i) := by
  refine ofLong rfl ?_ ?_
  · simp (disch := decide) only [BitVec.extractLsb'_append_eq_of_le, BitVec.extractLsb'_append_eq_of_add_le]; decide
  · simp (disch := decide) only [decode32, decodeMajor1F, BitVec.extractLsb'_append_eq_of_le, BitVec.extractLsb'_append_eq_of_add_le]; simp
theorem brk : Statement (.brk) := ofLong rfl rfl rfl
theorem rett : Statement (.rett) := ofLong rfl rfl rfl
theorem kill : Statement (.kill) := ofLong rfl rfl rfl
theorem killb : Statement (.killb) := ofLong rfl rfl rfl
theorem oreg (a d : BitVec 7) : Statement (.oreg a d) := by
  refine ofLong rfl ?_ ?_
  · simp (disch := decide) only [BitVec.extractLsb'_append_eq_of_le, BitVec.extractLsb'_append_eq_of_add_le]; decide
  · simp (disch := decide) only [decode32, decodeMajor1F, BitVec.extractLsb'_append_eq_of_le, BitVec.extractLsb'_append_eq_of_add_le]; simp
theorem owr (a d : BitVec 7) : Statement (.owr a d) := by
  refine ofLong rfl ?_ ?_
  · simp (disch := decide) only [BitVec.extractLsb'_append_eq_of_le, BitVec.extractLsb'_append_eq_of_add_le]; decide
  · simp (disch := decide) only [decode32, decodeMajor1F, BitVec.extractLsb'_append_eq_of_le, BitVec.extractLsb'_append_eq_of_add_le]; simp
theorem opc (d : BitVec 7) : Statement (.opc d) := by
  refine ofLong rfl ?_ ?_
  · simp (disch := decide) only [BitVec.extractLsb'_append_eq_of_le, BitVec.extractLsb'_append_eq_of_add_le]; decide
  · simp (disch := decide) only [decode32, decodeMajor1F, BitVec.extractLsb'_append_eq_of_le, BitVec.extractLsb'_append_eq_of_add_le]; simp
theorem halt : Statement (.halt) := ofLong rfl rfl rfl
theorem refetch : Statement (.refetch) := ofLong rfl rfl rfl
theorem ext (i : BitVec 20) : Statement (.ext i) := by
  refine ofLong rfl ?_ ?_
  · simp (disch := decide) only [BitVec.extractLsb'_append_eq_of_le, BitVec.extractLsb'_append_eq_of_add_le]; decide
  · simp (disch := decide) only [decode32, decodeMajor1F, BitVec.extractLsb'_append_eq_of_le, BitVec.extractLsb'_append_eq_of_add_le]; simp
theorem laneResultWrite (op : Nat) : Statement (.laneResultWrite op) := ofEvent rfl
theorem mfragResultWrite (op : Nat) : Statement (.mfragResultWrite op) := ofEvent rfl
theorem yieldEnd (bundle lane : Nat) : Statement (.yieldEnd bundle lane) := ofEvent rfl
theorem lateResultArrival (op : Nat) : Statement (.lateResultArrival op) := ofEvent rfl
theorem storeQueueDrain (op : Nat) : Statement (.storeQueueDrain op) := ofEvent rfl
theorem homeStoreArrival (op : Nat) : Statement (.homeStoreArrival op) := ofEvent rfl
theorem storeAcknowledgement (op : Nat) : Statement (.storeAcknowledgement op) := ofEvent rfl
theorem homeLoadRequest (op : Nat) : Statement (.homeLoadRequest op) := ofEvent rfl
theorem ctimeTick (core : Nat) : Statement (.ctimeTick core) := ofEvent rfl
theorem remoteCopyExpiry (die line : Nat) : Statement (.remoteCopyExpiry die line) := ofEvent rfl
theorem negativeAcknowledgement (op : Nat) : Statement (.negativeAcknowledgement op) := ofEvent rfl
theorem backoffResend (op : Nat) : Statement (.backoffResend op) := ofEvent rfl
theorem peerLoadFailure (op : Nat) (status : BitVec 16) : Statement (.peerLoadFailure op status) := ofEvent rfl
theorem stashFillReturn (block map line : Nat) : Statement (.stashFillReturn block map line) := ofEvent rfl
theorem stashLineRecall (block map line : Nat) : Statement (.stashLineRecall block map line) := ofEvent rfl
theorem engineRegistration (op : Nat) : Statement (.engineRegistration op) := ofEvent rfl
theorem engineLineWrite (op : Nat) : Statement (.engineLineWrite op) := ofEvent rfl
theorem copyComplete (op : Nat) : Statement (.copyComplete op) := ofEvent rfl
theorem acbSlotCommit (op : Nat) : Statement (.acbSlotCommit op) := ofEvent rfl
theorem networkBarrierArrival (block bar : Nat) : Statement (.networkBarrierArrival block bar) := ofEvent rfl
theorem blockAdmission (block core : Nat) : Statement (.blockAdmission block core) := ofEvent rfl
theorem blockCompletion (block : Nat) : Statement (.blockCompletion block) := ofEvent rfl
theorem regrowGrant (core : Nat) : Statement (.regrowGrant core) := ofEvent rfl
theorem regshrShed (block : Nat) : Statement (.regshrShed block) := ofEvent rfl
theorem handlerWaveFormation (block : Nat) : Statement (.handlerWaveFormation block) := ofEvent rfl
theorem impreciseFault (op : Nat) (status : BitVec 16) : Statement (.impreciseFault op status) := ofEvent rfl
theorem preemptionRequest (block : Nat) : Statement (.preemptionRequest block) := ofEvent rfl
theorem drainLimitExpiry (block : Nat) : Statement (.drainLimitExpiry block) := ofEvent rfl
theorem blockRestore (block core : Nat) : Statement (.blockRestore block core) := ofEvent rfl
theorem urgentAdmissionTimeout (block : Nat) : Statement (.urgentAdmissionTimeout block) := ofEvent rfl
theorem txValidateAtHome (bundle lane : Nat) : Statement (.txValidateAtHome bundle lane) := ofEvent rfl
theorem txCommitResult (bundle lane : Nat) : Statement (.txCommitResult bundle lane) := ofEvent rfl
theorem turnTokenGrant (die : Nat) : Statement (.turnTokenGrant die) := ofEvent rfl
theorem futureOpAtHome (op : Nat) : Statement (.futureOpAtHome op) := ofEvent rfl
theorem futureAnswer (op : Nat) : Statement (.futureAnswer op) := ofEvent rfl
theorem objregAtHome (op : Nat) : Statement (.objregAtHome op) := ofEvent rfl
theorem calloArrival (op : Nat) : Statement (.calloArrival op) := ofEvent rfl
theorem combinerWaveFormation (object : Nat) : Statement (.combinerWaveFormation object) := ofEvent rfl
theorem combinerWaveEnd (wave : Nat) : Statement (.combinerWaveEnd wave) := ofEvent rfl
theorem combinerWaveAbort (wave : Nat) : Statement (.combinerWaveAbort wave) := ofEvent rfl
theorem calloReply (op : Nat) : Statement (.calloReply op) := ofEvent rfl
theorem powerTokenGrant (die : Nat) : Statement (.powerTokenGrant die) := ofEvent rfl
theorem tileCommandComplete (op : Nat) : Statement (.tileCommandComplete op) := ofEvent rfl
theorem partComplete (op : Nat) : Statement (.partComplete op) := ofEvent rfl
theorem msptAtCarver (op : Nat) : Statement (.msptAtCarver op) := ofEvent rfl
theorem carverCompileEnd (op : Nat) : Statement (.carverCompileEnd op) := ofEvent rfl
theorem nodeCompletion (op : Nat) : Statement (.nodeCompletion op) := ofEvent rfl
theorem pageLease (task : Nat) : Statement (.pageLease task) := ofEvent rfl
theorem pagingDoorbell (partition : Nat) : Statement (.pagingDoorbell partition) := ofEvent rfl
theorem requeue (partition : Nat) (task : BitVec 32) : Statement (.requeue partition task) := ofEvent rfl
theorem cancel (partition : Nat) (task : BitVec 32) : Statement (.cancel partition task) := ofEvent rfl
theorem gangAdmission (op quad : Nat) : Statement (.gangAdmission op quad) := ofEvent rfl
theorem workGraphRecordArrival (op : Nat) : Statement (.workGraphRecordArrival op) := ofEvent rfl
theorem workGraphBundleLaunch (node : Nat) : Statement (.workGraphBundleLaunch node) := ofEvent rfl
theorem pageCompression (partition va : Nat) : Statement (.pageCompression partition va) := ofEvent rfl
theorem pageMigration (partition va : Nat) : Statement (.pageMigration partition va) := ofEvent rfl
theorem inboundAccess (op partition source : Nat) (va : BitVec 64) (size : Nat) (data : List (BitVec 8)) : Statement (.inboundAccess op partition source va size data) := ofEvent rfl
theorem inboundTimeout (op : Nat) : Statement (.inboundTimeout op) := ofEvent rfl
theorem pwenqAtTarget (op : Nat) (pkg : BitVec 16) (partition : Nat) (desc payload packet : List (BitVec 8)) : Statement (.pwenqAtTarget op pkg partition desc payload packet) := ofEvent rfl
theorem pwenqReply (op : Nat) (code : BitVec 16) (page : BitVec 64) : Statement (.pwenqReply op code page) := ofEvent rfl
theorem pwenqNoReply (op : Nat) : Statement (.pwenqNoReply op) := ofEvent rfl
theorem queueMap (slot : Nat) (qcb : BitVec 64) : Statement (.queueMap slot qcb) := ofEvent rfl
theorem queueUnmap (slot : Nat) : Statement (.queueUnmap slot) := ofEvent rfl
theorem queueReset (slot : Nat) : Statement (.queueReset slot) := ofEvent rfl
theorem doorbell (slot : Nat) (value : BitVec 64) : Statement (.doorbell slot value) := ofEvent rfl
theorem tree (slot : Nat) : Statement (.tree slot) := ofEvent rfl
theorem task (slot : Nat) : Statement (.task slot) := ofEvent rfl
theorem gang (slot : Nat) : Statement (.gang slot) := ofEvent rfl
theorem barrier (slot : Nat) : Statement (.barrier slot) := ofEvent rfl
theorem copy (slot : Nat) : Statement (.copy slot) := ofEvent rfl
theorem signal (slot : Nat) : Statement (.signal slot) := ofEvent rfl
theorem wnode (slot : Nat) : Statement (.wnode slot) := ofEvent rfl
theorem measure (slot : Nat) : Statement (.measure slot) := ofEvent rfl
theorem nopPacket (slot : Nat) : Statement (.nopPacket slot) := ofEvent rfl
theorem packetCompletion (op : Nat) : Statement (.packetCompletion op) := ofEvent rfl
theorem heldRecordFlush (partition : Nat) : Statement (.heldRecordFlush partition) := ofEvent rfl
theorem interruptCoalesceTimeout (partition : Nat) : Statement (.interruptCoalesceTimeout partition) := ofEvent rfl
theorem partitionConfigCommand (value : BitVec 32) : Statement (.partitionConfigCommand value) := ofEvent rfl
theorem partitionInstall : Statement (.partitionInstall) := ofEvent rfl
theorem leaderRenew : Statement (.leaderRenew) := ofEvent rfl
theorem leaderPoll (die : Nat) : Statement (.leaderPoll die) := ofEvent rfl
theorem headstockTakeover (die : Nat) : Statement (.headstockTakeover die) := ofEvent rfl
theorem observationControlWrite (partition : Nat) (value : BitVec 32) : Statement (.observationControlWrite partition value) := ofEvent rfl
theorem stopAtTheMark (partition : Nat) : Statement (.stopAtTheMark partition) := ofEvent rfl
theorem resumeThePartition (partition : Nat) : Statement (.resumeThePartition partition) := ofEvent rfl
theorem haltTask (partition : Nat) : Statement (.haltTask partition) := ofEvent rfl
theorem resumeTask (partition : Nat) : Statement (.resumeTask partition) := ofEvent rfl
theorem setSingleStep (partition : Nat) : Statement (.setSingleStep partition) := ofEvent rfl
theorem clearSingleStep (partition : Nat) : Statement (.clearSingleStep partition) := ofEvent rfl
theorem resumeObservation (partition : Nat) : Statement (.resumeObservation partition) := ofEvent rfl
theorem inputBoundary (partition : Nat) : Statement (.inputBoundary partition) := ofEvent rfl
theorem checkpoint (partition : Nat) : Statement (.checkpoint partition) := ofEvent rfl
theorem lockstepInputMessage (partition kind target : Nat) (value : BitVec 64) : Statement (.lockstepInputMessage partition kind target value) := ofEvent rfl
theorem lockstepHashArrival (partition : Nat) (hash : List (BitVec 8)) : Statement (.lockstepHashArrival partition hash) := ofEvent rfl
theorem lockstepHashTimeout (partition : Nat) : Statement (.lockstepHashTimeout partition) := ofEvent rfl
theorem freezePin : Statement (.freezePin) := ofEvent rfl
theorem freezeRegisterWrite (value : BitVec 32) : Statement (.freezeRegisterWrite value) := ofEvent rfl
theorem select (unit : BitVec 32) : Statement (.select unit) := ofEvent rfl
theorem read : Statement (.read) := ofEvent rfl
theorem idcode : Statement (.idcode) := ofEvent rfl
theorem bypass : Statement (.bypass) := ofEvent rfl
theorem powerCapWrite (value : BitVec 32) : Statement (.powerCapWrite value) := ofEvent rfl
theorem powerOverage : Statement (.powerOverage) := ofEvent rfl
theorem monitorRefresh (die : Nat) : Statement (.monitorRefresh die) := ofEvent rfl
theorem thermalRestore : Statement (.thermalRestore) := ofEvent rfl
theorem voltageStop : Statement (.voltageStop) := ofEvent rfl
theorem attestationChallenge (challenge : List (BitVec 8)) : Statement (.attestationChallenge challenge) := ofEvent rfl
theorem powerOnReset : Statement (.powerOnReset) := ofEvent rfl
theorem bringupStep : Statement (.bringupStep) := ofEvent rfl
theorem hostRegisterWrite (offset : BitVec 32) (size : Nat) (value : BitVec 64) : Statement (.hostRegisterWrite offset size value) := ofEvent rfl
theorem lapseClockPassed (bundle lane : Nat) : Statement (.lapseClockPassed bundle lane) := ofEvent rfl
theorem stallCounterClock (block : Nat) : Statement (.stallCounterClock block) := ofEvent rfl
theorem powerFallsBelowCap : Statement (.powerFallsBelowCap) := ofEvent rfl
theorem msiXVectorUnmask (vector : Nat) : Statement (.msiXVectorUnmask vector) := ofEvent rfl
theorem faultQueueReadIndexWrite (partition : Nat) (value : BitVec 64) : Statement (.faultQueueReadIndexWrite partition value) := ofEvent rfl
theorem objrstAtHome (op : Nat) : Statement (.objrstAtHome op) := ofEvent rfl
theorem pageMoveEnd (op : Nat) : Statement (.pageMoveEnd op) := ofEvent rfl
theorem hottestReadingRead (die : Nat) : Statement (.hottestReadingRead die) := ofEvent rfl
theorem powerFailure : Statement (.powerFailure) := ofEvent rfl

end Sys2Proof.Laws.EncodeDecode
end

