-- ==== Sys2Proof/WellFormed.lean ====
section
/-! DEFINITION. Well-formed instructions: an encoded one whose fields no rule makes illegal wherever it stands (R24, R28 to
R48), and an event whose operands name units that the part has (R5, R7, R16, R19, R393, R408). -/

namespace Sys2Proof

open Sys2Proof.Machine

/-- Whether an event's operands name a unit the part has; an encoded instruction has no such operand. -/
def Instr.unitsExist (i : Instr) : Bool :=
  match i with
  | .movH _ _ _ => true
  | .addH _ _ _ => true
  | .subH _ _ _ => true
  | .mulH _ _ _ => true
  | .andH _ _ _ => true
  | .orH _ _ _ => true
  | .xorH _ _ _ => true
  | .shlH _ _ _ => true
  | .shrH _ _ _ => true
  | .sarH _ _ _ => true
  | .minH _ _ _ => true
  | .maxH _ _ _ => true
  | .faddH _ _ _ => true
  | .fmulH _ _ _ => true
  | .fminH _ _ _ => true
  | .fmaxH _ _ _ => true
  | .add _ _ _ _ _ => true
  | .sub _ _ _ _ _ => true
  | .and _ _ _ _ _ => true
  | .or _ _ _ _ _ => true
  | .xor _ _ _ _ _ => true
  | .andn _ _ _ _ _ => true
  | .addD _ _ _ _ _ => true
  | .subD _ _ _ _ _ => true
  | .shl _ _ _ _ _ => true
  | .shr _ _ _ _ _ => true
  | .sar _ _ _ _ _ => true
  | .rol _ _ _ _ _ => true
  | .ror _ _ _ _ _ => true
  | .bfxi _ _ _ _ _ => true
  | .bfxz _ _ _ _ _ => true
  | .bfi _ _ _ _ _ => true
  | .minI32 _ _ _ _ _ => true
  | .maxI32 _ _ _ _ _ => true
  | .minZ32 _ _ _ _ _ => true
  | .maxZ32 _ _ _ _ _ => true
  | .addmin _ _ _ _ _ => true
  | .addmax _ _ _ _ _ => true
  | .absd _ _ _ _ _ => true
  | .clamp _ _ _ _ _ => true
  | .mullo _ _ _ _ _ => true
  | .mulhiI32 _ _ _ _ _ => true
  | .mulhiZ32 _ _ _ _ _ => true
  | .madlo _ _ _ _ _ => true
  | .divI32 _ _ _ _ _ => true
  | .divZ32 _ _ _ _ _ => true
  | .remI32 _ _ _ _ _ => true
  | .remZ32 _ _ _ _ _ => true
  | .popc _ _ _ => true
  | .clz _ _ _ => true
  | .ctz _ _ _ => true
  | .brev _ _ _ => true
  | .pfxp _ _ _ _ _ => true
  | .perm _ _ _ _ _ => true
  | .find _ _ _ _ _ => true
  | .addi _ _ _ => true
  | .andi _ _ _ => true
  | .ori _ _ _ => true
  | .xori _ _ _ => true
  | .shli _ _ _ => true
  | .shri _ _ _ => true
  | .sari _ _ _ => true
  | .roli _ _ _ => true
  | .movi _ _ => true
  | .cmp _ _ _ _ _ _ _ => true
  | .cmpi _ _ _ _ _ _ => true
  | .sel _ _ _ _ _ _ => true
  | .fadd _ _ _ _ _ => true
  | .fsub _ _ _ _ _ => true
  | .fmul _ _ _ _ _ => true
  | .fmin _ _ _ _ _ => true
  | .fmax _ _ _ _ _ => true
  | .fabs _ _ _ => true
  | .fneg _ _ _ => true
  | .fcpys _ _ _ _ _ => true
  | .ffma _ _ _ _ => true
  | .fma2 _ _ _ _ _ => true
  | .dfma _ _ _ _ => true
  | .duaddF16 _ _ _ _ _ => true
  | .duaddBf16 _ _ _ _ _ => true
  | .dumulF16 _ _ _ _ _ => true
  | .dumulBf16 _ _ _ _ _ => true
  | .duminF16 _ _ _ _ _ => true
  | .duminBf16 _ _ _ _ _ => true
  | .dumaxF16 _ _ _ _ _ => true
  | .dumaxBf16 _ _ _ _ _ => true
  | .dadd _ _ _ _ _ => true
  | .dsub _ _ _ _ _ => true
  | .dmul _ _ _ _ _ => true
  | .dmin _ _ _ _ _ => true
  | .dmax _ _ _ _ _ => true
  | .ddiv _ _ _ _ _ => true
  | .dsqrt _ _ _ => true
  | .frcp _ _ _ => true
  | .frsq _ _ _ => true
  | .fsqrt _ _ _ => true
  | .fdiv _ _ _ _ _ => true
  | .fexp2 _ _ _ => true
  | .flog2 _ _ _ => true
  | .fsinpi _ _ _ => true
  | .fcospi _ _ _ => true
  | .cvt _ _ _ _ _ _ => true
  | .cvtp _ _ _ _ => true
  | .cvtpEf _ _ _ _ _ => true
  | .dot4I8 _ _ _ _ _ => true
  | .dot4Z8 _ _ _ _ _ => true
  | .dot8I4 _ _ _ _ _ => true
  | .dot8Z4 _ _ _ _ _ => true
  | .dot4D8a _ _ _ _ _ => true
  | .dot4D8b _ _ _ _ _ => true
  | .dot8D4 _ _ _ _ _ => true
  | .dot2Bf16 _ _ _ _ _ => true
  | .lgetIdx _ _ _ _ _ => true
  | .lgetUp _ _ _ _ _ => true
  | .lgetDn _ _ _ _ _ => true
  | .lgetXor _ _ _ _ _ => true
  | .ballot _ _ _ => true
  | .redAddI32 _ _ _ => true
  | .scanAddI32 _ _ _ => true
  | .redMinI32 _ _ _ => true
  | .ld _ _ _ _ _ => true
  | .st _ _ _ _ _ => true
  | .ldacqW _ _ _ _ => true
  | .ldacqD _ _ _ _ => true
  | .strelW _ _ _ _ => true
  | .strelD _ _ _ _ => true
  | .pfetch _ _ _ => true
  | .ldsmpW _ _ _ _ => true
  | .fenceX _ => true
  | .fenceAr _ _ => true
  | .fenceSc _ _ => true
  | .fenceEng _ _ => true
  | .stflush _ => true
  | .refetchFence => true
  | .atomAdd _ _ _ _ _ => true
  | .atomMinI32 _ _ _ _ _ => true
  | .atomMaxI32 _ _ _ _ _ => true
  | .atomMinZ32 _ _ _ _ _ => true
  | .atomMaxZ32 _ _ _ _ _ => true
  | .atomAnd _ _ _ _ _ => true
  | .atomOr _ _ _ _ _ => true
  | .atomXor _ _ _ _ _ => true
  | .atomExch _ _ _ _ _ => true
  | .atomCas _ _ _ _ _ => true
  | .atomIncw _ _ _ _ _ => true
  | .atomDecw _ _ _ _ _ => true
  | .atomFaddF32 _ _ _ _ _ => true
  | .atomFminF32 _ _ _ _ _ => true
  | .atomFmaxF32 _ _ _ _ _ => true
  | .atomAddD _ _ _ _ _ => true
  | .txb _ => true
  | .txe => true
  | .txa _ => true
  | .fput _ _ _ => true
  | .fputt _ _ _ => true
  | .fget _ _ => true
  | .barArr _ _ => true
  | .barWait _ _ => true
  | .barSync _ _ => true
  | .barAddb _ _ _ => true
  | .barChk _ _ => true
  | .callo _ _ _ => true
  | .crply _ _ => true
  | .objreg _ _ => true
  | .objrst _ _ => true
  | .rcv => true
  | .mke _ => true
  | .waitf _ => true
  | .cbpush _ _ => true
  | .cbcmt _ => true
  | .cbwait _ _ => true
  | .cbpop _ => true
  | .acwait _ => true
  | .regrow _ => true
  | .regshr _ => true
  | .cont _ => true
  | .wrec _ _ => true
  | .pwenq _ _ => true
  | .yield => true
  | .exit => true
  | .setprg _ => true
  | .acp _ _ _ _ _ _ => true
  | .mfrag _ _ _ _ => true
  | .mtile _ => true
  | .mspt _ => true
  | .mring _ => true
  | .mwait _ => true
  | .part _ => true
  | .pwait _ => true
  | .acb _ _ => true
  | .calcfg _ _ => true
  | .calref _ _ => true
  | .calbnd _ _ => true
  | .calrd _ _ _ => true
  | .carvinv _ => true
  | .stmap _ _ => true
  | .stunmap _ => true
  | .nodeRd _ _ => true
  | .nodeIn _ _ => true
  | .nodeUp _ _ => true
  | .nodeDn _ _ => true
  | .xnext _ _ _ => true
  | .setstrm _ _ => true
  | .mtok _ => true
  | .br _ _ _ => true
  | .call _ => true
  | .jmp _ => true
  | .callr _ => true
  | .ret _ => true
  | .nop => true
  | .pred _ _ => true
  | .srd _ _ => true
  | .swr _ _ => true
  | .setrm _ => true
  | .clrff _ => true
  | .trapi _ => true
  | .brk => true
  | .rett => true
  | .kill => true
  | .killb => true
  | .oreg _ _ => true
  | .owr _ _ => true
  | .opc _ => true
  | .halt => true
  | .refetch => true
  | .ext _ => true
  | .laneResultWrite _ => true
  | .mfragResultWrite _ => true
  | .yieldEnd _ lane => decide (lane < 32)
  | .lateResultArrival _ => true
  | .storeQueueDrain _ => true
  | .homeStoreArrival _ => true
  | .storeAcknowledgement _ => true
  | .homeLoadRequest _ => true
  | .ctimeTick core => decide (core < 640)
  | .remoteCopyExpiry die _ => decide (die < 4)
  | .negativeAcknowledgement _ => true
  | .backoffResend _ => true
  | .peerLoadFailure _ _ => true
  | .stashFillReturn _ _ _ => true
  | .stashLineRecall _ _ _ => true
  | .engineRegistration _ => true
  | .engineLineWrite _ => true
  | .copyComplete _ => true
  | .acbSlotCommit _ => true
  | .networkBarrierArrival _ bar => decide (bar < 48)
  | .blockAdmission _ core => decide (core < 640)
  | .blockCompletion _ => true
  | .regrowGrant core => decide (core < 640)
  | .regshrShed _ => true
  | .handlerWaveFormation _ => true
  | .impreciseFault _ _ => true
  | .preemptionRequest _ => true
  | .drainLimitExpiry _ => true
  | .blockRestore _ core => decide (core < 640)
  | .urgentAdmissionTimeout _ => true
  | .txValidateAtHome _ lane => decide (lane < 32)
  | .txCommitResult _ lane => decide (lane < 32)
  | .turnTokenGrant die => decide (die < 4)
  | .futureOpAtHome _ => true
  | .futureAnswer _ => true
  | .objregAtHome _ => true
  | .calloArrival _ => true
  | .combinerWaveFormation _ => true
  | .combinerWaveEnd _ => true
  | .combinerWaveAbort _ => true
  | .calloReply _ => true
  | .powerTokenGrant die => decide (die < 4)
  | .tileCommandComplete _ => true
  | .partComplete _ => true
  | .msptAtCarver _ => true
  | .carverCompileEnd _ => true
  | .nodeCompletion _ => true
  | .pageLease _ => true
  | .pagingDoorbell partition => decide (partition < 8)
  | .requeue partition _ => decide (partition < 8)
  | .cancel partition _ => decide (partition < 8)
  | .gangAdmission _ quad => decide (quad < 160)
  | .workGraphRecordArrival _ => true
  | .workGraphBundleLaunch _ => true
  | .pageCompression partition _ => decide (partition < 8)
  | .pageMigration partition _ => decide (partition < 8)
  | .inboundAccess _ partition _ _ size _ => decide (partition < 8) && decide (0 < size)
  | .inboundTimeout _ => true
  | .pwenqAtTarget _ _ partition _ _ _ => decide (partition < 8)
  | .pwenqReply _ _ _ => true
  | .pwenqNoReply _ => true
  | .queueMap slot _ => decide (slot < 128)
  | .queueUnmap slot => decide (slot < 128)
  | .queueReset slot => decide (slot < 128)
  | .doorbell slot _ => decide (slot < 128)
  | .tree slot => decide (slot < 128)
  | .task slot => decide (slot < 128)
  | .gang slot => decide (slot < 128)
  | .barrier slot => decide (slot < 128)
  | .copy slot => decide (slot < 128)
  | .signal slot => decide (slot < 128)
  | .wnode slot => decide (slot < 128)
  | .measure slot => decide (slot < 128)
  | .nopPacket slot => decide (slot < 128)
  | .packetCompletion _ => true
  | .heldRecordFlush partition => decide (partition < 8)
  | .interruptCoalesceTimeout partition => decide (partition < 8)
  | .partitionConfigCommand _ => true
  | .partitionInstall => true
  | .leaderRenew => true
  | .leaderPoll die => decide (die < 4)
  | .headstockTakeover die => decide (die < 4)
  | .observationControlWrite partition _ => decide (partition < 8)
  | .stopAtTheMark partition => decide (partition < 8)
  | .resumeThePartition partition => decide (partition < 8)
  | .haltTask partition => decide (partition < 8)
  | .resumeTask partition => decide (partition < 8)
  | .setSingleStep partition => decide (partition < 8)
  | .clearSingleStep partition => decide (partition < 8)
  | .resumeObservation partition => decide (partition < 8)
  | .inputBoundary partition => decide (partition < 8)
  | .checkpoint partition => decide (partition < 8)
  | .lockstepInputMessage partition _ _ _ => decide (partition < 8)
  | .lockstepHashArrival partition _ => decide (partition < 8)
  | .lockstepHashTimeout partition => decide (partition < 8)
  | .freezePin => true
  | .freezeRegisterWrite _ => true
  | .select _ => true
  | .read => true
  | .idcode => true
  | .bypass => true
  | .powerCapWrite _ => true
  | .powerOverage => true
  | .monitorRefresh die => decide (die < 4)
  | .thermalRestore => true
  | .voltageStop => true
  | .attestationChallenge challenge => challenge.length == 32
  | .powerOnReset => true
  | .bringupStep => true
  | .hostRegisterWrite _ size _ => (size == 1 || size == 2 || size == 4 || size == 8)
  | .lapseClockPassed _ lane => decide (lane < 32)
  | .stallCounterClock _ => true
  | .powerFallsBelowCap => true
  | .msiXVectorUnmask vector => decide (vector < 2048)
  | .faultQueueReadIndexWrite partition _ => decide (partition < 8)
  | .objrstAtHome _ => true
  | .pageMoveEnd _ => true
  | .hottestReadingRead die => decide (die < 4)
  | .powerFailure => true

/-- Every code of the encoding is assigned (R27 to R48). -/
def Instr.codesAssigned (i : Instr) : Bool := !(opnds i).illegal && !(opnds i).zero

/-- Every run of registers starts where R24 lets it start. -/
def Instr.runsAligned (i : Instr) : Bool := (r24 i).isEmpty

/-- Every register named exists in the largest allotment (R83, R85). -/
def Instr.registersExist (i : Instr) : Bool := (r85 i 128).isEmpty

/-- A well-formed instruction. -/
def Instr.wf (i : Instr) : Bool := i.codesAssigned && i.runsAligned && i.registersExist && i.unitsExist

end Sys2Proof
end

