-- ==== Sys2Proof/Safety.lean ====
section
/-! DEFINITION. The terms in which statements speak of the machine: an issue group that meets its instruction with nothing in
the way, the state an instruction leaves that only works on its own threads, and what a stop of the machine would be. -/

namespace Sys2Proof.Machine

/-- A lane runs an instruction (R60, R94, R245): it waits for nothing, no open transaction forbids the instruction, and no source
register is held, pending or poisoned against it. -/
structure LaneRuns (s : State) (b : Bundle) (i : Instr) (l : Nat) (t : Thread) : Prop where
  noWait : s.waits b l t i = none
  allowed : t.tx = none ∨ s.txStops b i = false
  sources : ∀ x ∈ (opnds i).srcs, x.waits = true → t.srcTrap x = none

/-- The state with its issue group taken up. -/
def State.taken (s : State) : State := { s with group := none }

/-- The issue group g of bundle b meets instruction i in state s (R25, R61): decode finds no cause, the lanes exist and each
active one runs. The group is the one s holds; the waits are read with the group taken. -/
structure Meets (s : State) (g : Group) (b : Bundle) (i : Instr) : Prop where
  group : s.group = some g
  bundle : s.bundle? g.bundle = some b
  unique : ∀ x ∈ s.bundles, x.id = g.bundle → x = b
  legal : s.taken.issuesOf g.pfx b i = []
  privileged : s.taken.privIssue b i = false
  distinct : g.lanes.Nodup
  runs : ∀ l ∈ g.lanes, ∃ t, b.threads[l]? = some t ∧
    (l ∈ g.active → LaneRuns s.taken b i l t)

/-- The block of block threads does not step singly (R331), so that no STEP follows the instruction. -/
def State.notStepping (s : State) (bid : Nat) : Prop :=
  ∀ k ∈ s.ownBlock bid, ((s.block? k).map (·.singleStep)).getD false = false

/-- The address after the group's instruction (R22). -/
def Group.nextPc (g : Group) : DWord := g.ipc + BitVec.ofNat 64 g.size

/-- A lane of the group after its instruction: f has acted where the lane is active, and the lane stands at a PC and waits for
nothing. -/
def Group.moved (g : Group) (f : Thread → Thread) (pc : Nat → Thread → DWord) (l : Nat) (t : Thread) : Thread :=
  if l ∈ g.lanes then (if l ∈ g.active then (f t).goto (pc l t) else t.goto g.nextPc) else t

/-- The whole state after an instruction that works on its own threads alone: the group's lanes have moved, the retired count of
their block has risen by one for each (R427), and nothing else has changed. -/
def State.moved (s : State) (g : Group) (f : Thread → Thread) (pc : Nat → Thread → DWord) : State :=
  { s with
    group := none
    bundles := upd s.bundles (·.id == g.bundle) fun b => { b with threads := b.threads.mapIdx fun l t => g.moved f pc l t }
    blocks := match s.ownBlock g.bundle with
      | some k => upd s.blocks (·.id == k) fun x => { x with retired := x.retired + g.lanes.length }
      | none => s.blocks }

/-- The same where every lane goes on to the next instruction. -/
def State.after (s : State) (g : Group) (f : Thread → Thread) : State := s.moved g f fun _ _ => g.nextPc

/-- An instruction that only changes its own threads: each active lane's by F, every lane then stands at the next instruction. -/
def OnThreads (i : Instr) (F : Thread → Thread) : Prop :=
  ∀ s g b, Meets s g b i → s.notStepping g.bundle → exec i s = .next (s.after g F)

/-- The active lanes of a group, in rising order. -/
def Group.acting (g : Group) : List Nat := g.lanes.filter (· ∈ g.active)

/-- f has acted for each active lane in turn. -/
def State.eachLane (s : State) (g : Group) (f : State → Nat → State) : State := g.acting.foldl f s

/-- Every lane of the group has ended its instruction in its own way, in rising order; then the causes met are taken (R322). -/
def State.endsWith (u : State) (g : Group) (e : Nat → LaneEnd) : State :=
  State.takeAll (g.lanes.foldl (fun (acc : State × List Met) l =>
    ((acc.1.endLane g l (e l)).1, acc.2 ++ (acc.1.endLane g l (e l)).2)) (u, [])) g.bundle

/-- Every lane of the group has ended its instruction: the active ones as e says, the others by going on to the next. -/
def State.endAll (u : State) (g : Group) (e : LaneEnd) : State := u.endsWith g fun l => if l ∈ g.active then e else .next

/-- What holds of the thread of every active lane. -/
def EachActive (g : Group) (b : Bundle) (P : Thread → Prop) : Prop :=
  ∀ l ∈ g.lanes, l ∈ g.active → ∀ t, b.threads[l]? = some t → P t

/-- An instruction completes: where the group meets it and H holds, the state becomes E of the one before, and then the lanes end, the
active ones as e says. -/
def Completes (i : Instr) (H : State → Group → Bundle → Prop) (E : State → Group → Bundle → State) (e : LaneEnd) : Prop :=
  ∀ s g b, Meets s g b i → H s.taken g b → exec i s = .next ((E s.taken g b).endAll g e)

/-- A block's task is to park with a cause (R321): every thread and handler thread of the block has ended, the cause stands with the PC, bundle
and lane that report it, and memory, tasks and partitions, the fault queue among them, are as they were until the block is quiet. -/
structure BlockEnds (s u : State) (k : Nat) (tr : Trap) (opc : DWord) (index lane : Nat) : Prop where
  ended : ∀ b ∈ u.bundles, b.owner.block? = some k → ∀ t ∈ b.threads, t.life = .exited ∧ t.tx = none
  parks : (u.block? k).map (·.ending) = some (.parking tr opc index lane)
  memory : u.mem = s.mem
  tasks : u.tasks = s.tasks
  partitions : u.partitions = s.partitions
  stores : ∀ r ∈ s.reqs, r.tx = false → r.phase ≠ .waiting → (∃ bs rel, r.kind = .store bs rel) → r ∈ u.reqs

/-- A block is halted (R333): none of its transactions is open, and memory, tasks, partitions and the registers, PC and life of every thread
that had no transaction open and stood at no convergence are as they were. -/
structure BlockHalts (s u : State) (k : Nat) : Prop where
  halted : (u.block? k).map (·.halted) = some true
  closed : ∀ n b, u.bundle? n = some b → b.owner.block? = some k → ∀ t ∈ b.threads, t.tx = none ∧ t.conv = none
  memory : u.mem = s.mem
  tasks : u.tasks = s.tasks
  partitions : u.partitions = s.partitions
  threads : ∀ b l, (s.thread b l).tx = none → (s.thread b l).conv = none →
    (u.thread b l).regs = (s.thread b l).regs ∧ (u.thread b l).pc = (s.thread b l).pc ∧ (u.thread b l).life = (s.thread b l).life

/-- The one request under way is r, as it stands right after its issue or its sending: no home holds it, and it has not been turned away. -/
structure Sole (s : State) (r : Req) : Prop where
  only : s.reqs = [r]
  free : r.held = none
  sent : r.resend = none
  plain : r.tx = false
  alone : r.also = []
  whole : r.own = []

/-- A slot's turn to give a sound packet of a type, its signal writable: the packet, and the state in which its body is looked at, with the
packet among those taken, the slot's read index moved on, and the signal's page leased (R393, R395, R404, R450). -/
def TakesPacket (s : State) (slot type : Nat) (pk : Packet) (v : State) : Prop :=
  ∃ bs, s.fetching = true ∧ s.hasPacket slot = true ∧ s.servedBefore slot = false ∧ s.nextPacket slot = some bs ∧
    (s.slot slot).error = false ∧ packetBad bs = none ∧ pk = s.packetOf slot bs ∧ field bs 0 1 = type ∧
    ((pk.word 8 8 = 0 ∧ v = s.withPacket pk) ∨ (pk.word 8 8 ≠ 0 ∧ ∃ w,
      (s.withPacket pk).useSpan pk.partition (pk.word 8 8) 8 true true = .ready w ∧
      v = w.lease pk.partition (pk.word 8 8) 8 (packetHolder pk.id)))

end Sys2Proof.Machine
end

