-- ==== Sys2Proof/Certificates/Slice0/Obligations.lean ====
section
/-! DEFINITION. The statements for the provers. Each says a rule of the spec, or what an instruction or an event does, of every state. -/

open Sys2Proof Sys2Proof.Machine

/-! Encoding. -/

/-- The bytes of every encoded instruction decode to it again, whatever follows them: no bit of an encoding is dropped (R21 to R48). -/
def Obligations.EncodedBytesDecodeBack : Prop :=
  ∀ i e, encode i = some e → ∀ rest, decodeBytes (e.bytes ++ rest) = some (.ok i, rest)

/-- Words written out from the encodings of R27 to R44, and words that R25 refuses. -/
def Obligations.WordsOfTheEncodingsDecode : Prop :=
  decodeTableWord 16 (0b1_00011_00101_0001_0) = some (.addH 1 3 5) ∧
  decodeTableWord 32 (0b0_1_000_0000011_0000010_0000001_00000_1) = some (.add 0 1 3 2 1) ∧
  decodeTableWord 32 (0b000000000101_0000010_0000001_00101_1) = some (.addi 5 2 1) ∧
  decodeTableWord 32 (0b000011_100_0010_000101_0001000_10110_1) = some (.ld 3 4 2 5 8) ∧
  decodeTableWord 32 (0b0_1_011_0000_0000_000010_0000111_11010_1) = some (.atomAdd 1 3 0 2 7) ∧
  decodeTableWord 32 (0b1111111111111111110_1_010_000_11111_1) = some (.br 0x7FFFE 1 2) ∧
  decodeTableWord 32 (0b00011_0000110_0000100_0001001_11011_1) = some (.fput 6 4 9) ∧
  decodeTableWord 32 (0b00000_0000000_0001000_0000000_11110_1) = some (.mtile 8) ∧
  decode32 (0b1_0_000_0000000_0000010_0000001_00100_1) = .error .reservedField ∧
  decode32 (0b0_0_111_0000011_0000010_0000001_00100_1) = .error .unassigned

/-- The sixteen op codes of ATOM in form X (R34, R41): every code is assigned, with either value of N. -/
def Obligations.EveryAtomCodeIsAssigned : Prop :=
  ∀ (n : BitVec 1) (scope : BitVec 3) (stream : BitVec 4) (pair : BitVec 6) (d : BitVec 7), scope.toNat ≤ 5 →
    let word : BitVec 4 → BitVec 32 := fun op => 0#1 ++ n ++ scope ++ op ++ stream ++ pair ++ d ++ 0x35#6
    decode32 (word 0) = .ok (.atomAdd n scope stream pair d) ∧
    decode32 (word 1) = .ok (.atomMinI32 n scope stream pair d) ∧
    decode32 (word 2) = .ok (.atomMaxI32 n scope stream pair d) ∧
    decode32 (word 3) = .ok (.atomMinZ32 n scope stream pair d) ∧
    decode32 (word 4) = .ok (.atomMaxZ32 n scope stream pair d) ∧
    decode32 (word 5) = .ok (.atomAnd n scope stream pair d) ∧
    decode32 (word 6) = .ok (.atomOr n scope stream pair d) ∧
    decode32 (word 7) = .ok (.atomXor n scope stream pair d) ∧
    decode32 (word 8) = .ok (.atomExch n scope stream pair d) ∧
    decode32 (word 9) = .ok (.atomCas n scope stream pair d) ∧
    decode32 (word 10) = .ok (.atomIncw n scope stream pair d) ∧
    decode32 (word 11) = .ok (.atomDecw n scope stream pair d) ∧
    decode32 (word 12) = .ok (.atomFaddF32 n scope stream pair d) ∧
    decode32 (word 13) = .ok (.atomFminF32 n scope stream pair d) ∧
    decode32 (word 14) = .ok (.atomFmaxF32 n scope stream pair d) ∧
    decode32 (word 15) = .ok (.atomAddD n scope stream pair d)

/-! The step. -/

/-- A step runs the instruction whose parcels stand at the group's PC (R21, R22): one parcel where bit 0 of the first is 0, else two, the
first lowest. Around the instruction it notes the pipe's issue interval (R63), keeps the lanes that find a soft error out of the group,
which raise MCHK after it (R321, R322), and lets what is due settle. A parcel that no store has changed since the block's last REFETCH is two
bytes of the core's view, the first byte lowest (R23). A turn that is an event runs the event: that turns come from State.agenda is the
model's choice (log entry 5), and so is what marks a soft error (log entry 121). -/
def Obligations.AStepRunsTheDecodedInstruction : Prop :=
  ∀ (s : State), s.frozen = false → s.bringup ≠ 0 →
    (∀ g b i a a', s.group = some g → s.bundle? g.bundle = some b →
      let va := g.ipc.toNat
      let p := s.fetchParcel b a
      let t : Nat → Nat → State := fun size word => { s.modCore b.core fun c => { c with
        pipes := c.pipes.set b.pipe (b.id, s.clk + issueInterval i) } with
          group := some ({ g with size := size, word := word }.without (s.softIn b i g.active)) }
      let runs : Nat → Nat → Prop := fun size word =>
        ∀ u, exec i (t size word) = .next u → step s = .next (State.afterStep s (State.afterInstr (t size word) u i))
      s.fetchPa b va va = some a → s.fetchPa b va (va + 1) = some a' →
      ((∀ k, s.blockOf b = some k → ∀ x ∈ k.icode, x.1 ≠ a) → p = s.viewByte b.core (a + 1) ++ s.viewByte b.core a) ∧
      (p.getLsbD 0 = false → decodeH p = i → runs 2 p.toNat) ∧
      (∀ c c', p.getLsbD 0 = true → s.fetchPa b (va + 2) (va + 2) = some c → s.fetchPa b (va + 2) (va + 3) = some c' →
        decode32 (s.fetchParcel b c ++ p) = .ok i → runs 4 (s.fetchParcel b c ++ p).toNat)) ∧
    (∀ e ts u, s.group = none → s.agenda = .event e :: ts → exec e { s with agenda := ts } = .next u →
      step s = .next (State.afterStep s u))

/-- Every step answers a next state: no instruction and no event ends the machine in a fault or a refusal (R22, R25, R321). Of an event whose
condition does not hold that state is the one before it, but for what settles (the model's choice, log entry 76). -/
def Obligations.NoStepFaultsOrRefuses : Prop := ∀ (s : State), ∃ t, step s = .next t

/-- Every step keeps the memory of R145 in the model's canonical form (log entry 1): addresses rising, and no byte listed that equals what
an unlisted one reads as. -/
def Obligations.StepKeepsMemoryCanonical : Prop := ∀ (s t : State), s.mem.wf = true → step s = .next t → t.mem.wf = true

/-- Memory right after reset is in the model's canonical form (log entry 1). -/
def Obligations.ResetMemoryIsCanonical : Prop := State.reset.mem.wf = true

/-- While the package is frozen, or before power is applied, no step moves it (R430, R437): unless the turn is the reset or the loss of
power, the clock, memory, threads, blocks, requests, tasks, queues and the freeze itself stay as they are. Which turn comes is the model's
choice (log entry 5), and so is that nothing moves after a loss of power until the next reset (log entry 84). -/
def Obligations.FrozenPackageStandsStill : Prop :=
  ∀ (s t : State), s.frozen = true ∨ s.bringup = 0 → step s = .next t →
    s.popTurn.1 = .event .powerOnReset ∨ s.popTurn.1 = .event .powerFailure ∨
    (t.frozen = s.frozen ∧ t.bringup = s.bringup ∧ t.clk = s.clk ∧ t.mem = s.mem ∧ t.lines = s.lines ∧ t.cores = s.cores ∧ t.dies = s.dies ∧
      t.bundles = s.bundles ∧ t.blocks = s.blocks ∧ t.reqs = s.reqs ∧ t.copies = s.copies ∧ t.tiles = s.tiles ∧ t.tasks = s.tasks ∧
      t.packets = s.packets ∧ t.slots = s.slots ∧ t.partitions = s.partitions ∧ t.group = s.group)

/-- Power-on reset (R19, R430, R437, R440): from any state, bring-up is at step 1 with the freeze left, partition 0 is shared with every
quad, the others are absent, nothing runs or is mapped, and of these fields only the signing index has come through (log entry 84). -/
def Obligations.PowerOnResetStartsTheMachine : Prop :=
  ∀ (s : State), ∃ t, exec .powerOnReset s = .next t ∧ t.bringup = 1 ∧ t.frozen = false ∧ t.clk = 0 ∧
    t.partitions.length = 8 ∧ (t.part 0).mode = 1 ∧ (t.part 0).quads = List.range 160 ∧ (∀ p, 1 ≤ p → p < 8 → (t.part p).mode = 0) ∧
    t.ptable = (List.replicate 20 0xFF#8 ++ [1#8] ++ List.replicate 43 0#8) :: List.replicate 7 (List.replicate 64 0#8) ∧
    t.bundles = [] ∧ t.blocks = [] ∧ t.tasks = [] ∧ (∀ k, (t.slot k).mapped = false) ∧ Mem.wf t.mem ∧ t.signIdx = s.signIdx

/-! Instructions that work on their own threads. -/

/-- Form H on integers (R27): d becomes the operation of d and the second source, which is register b, or imm5 sign-extended, or for a
shift count imm5 unsigned. Everything else is unchanged. -/
def Obligations.ShortFormIntegersWriteD : Prop :=
  ∀ (i : BitVec 1) (b d : BitVec 5),
    let S : Thread → Word := fun t => if i == 1#1 then b.signExtend 32 else t.val b.toNat
    let C : Thread → Nat := fun t => (if i == 1#1 then b.zeroExtend 32 else t.val b.toNat).toNat % 32
    let D : Thread → Word := fun t => t.val d.toNat
    OnThreads (.movH i b d) (fun t => t.write d.toNat (S t)) ∧
    OnThreads (.addH i b d) (fun t => t.write d.toNat (D t + S t)) ∧
    OnThreads (.subH i b d) (fun t => t.write d.toNat (D t - S t)) ∧
    OnThreads (.mulH i b d) (fun t => t.write d.toNat (D t * S t)) ∧
    OnThreads (.andH i b d) (fun t => t.write d.toNat (D t &&& S t)) ∧
    OnThreads (.orH i b d) (fun t => t.write d.toNat (D t ||| S t)) ∧
    OnThreads (.xorH i b d) (fun t => t.write d.toNat (D t ^^^ S t)) ∧
    OnThreads (.shlH i b d) (fun t => t.write d.toNat (D t <<< C t)) ∧
    OnThreads (.shrH i b d) (fun t => t.write d.toNat (D t >>> C t)) ∧
    OnThreads (.sarH i b d) (fun t => t.write d.toNat ((D t).sshiftRight (C t))) ∧
    OnThreads (.minH i b d) (fun t => t.write d.toNat (if (D t).toInt ≤ (S t).toInt then D t else S t)) ∧
    OnThreads (.maxH i b d) (fun t => t.write d.toNat (if (D t).toInt ≤ (S t).toInt then S t else D t))

/-- IOP (R102): d becomes the operation of a and b, modulo 2^32, or modulo 2^64 for the pairs of ADD.d and SUB.d. -/
def Obligations.IntegerAndLogicWriteD : Prop :=
  ∀ (x y : BitVec 1) (b a d : BitVec 7),
    let A : Thread → Word := fun t => t.val a.toNat
    let B : Thread → Word := fun t => t.val b.toNat
    OnThreads (.add x y b a d) (fun t => t.write d.toNat (A t + B t)) ∧
    OnThreads (.sub x y b a d) (fun t => t.write d.toNat (A t - B t)) ∧
    OnThreads (.and x y b a d) (fun t => t.write d.toNat (A t &&& B t)) ∧
    OnThreads (.or x y b a d) (fun t => t.write d.toNat (A t ||| B t)) ∧
    OnThreads (.xor x y b a d) (fun t => t.write d.toNat (A t ^^^ B t)) ∧
    OnThreads (.andn x y b a d) (fun t => t.write d.toNat (A t &&& ~~~(B t))) ∧
    OnThreads (.addD x y b a d) (fun t => t.writePair d.toNat (t.pair a.toNat + t.pair b.toNat)) ∧
    OnThreads (.subD x y b a d) (fun t => t.writePair d.toNat (t.pair a.toNat - t.pair b.toNat))

/-- SHF (R103): shifts and rotates by b[4:0]; the field operations take the position from b[4:0] and the length from b[13:8], cut to
what lies above the position. -/
def Obligations.ShiftsAndFieldsWriteD : Prop :=
  ∀ (x y : BitVec 1) (b a d : BitVec 7),
    let A : Thread → Word := fun t => t.val a.toNat
    let n : Thread → Nat := fun t => (t.val b.toNat).toNat % 32
    let len : Thread → Nat := fun t => min (min ((t.val b.toNat).toNat / 256 % 64) 32) (32 - n t)
    let f : Thread → Nat := fun t => (A t).toNat / 2 ^ n t % 2 ^ len t
    OnThreads (.shl x y b a d) (fun t => t.write d.toNat (A t <<< n t)) ∧
    OnThreads (.shr x y b a d) (fun t => t.write d.toNat (A t >>> n t)) ∧
    OnThreads (.sar x y b a d) (fun t => t.write d.toNat ((A t).sshiftRight (n t))) ∧
    OnThreads (.rol x y b a d) (fun t => t.write d.toNat ((A t).rotateLeft (n t))) ∧
    OnThreads (.ror x y b a d) (fun t => t.write d.toNat ((A t).rotateRight (n t))) ∧
    OnThreads (.bfxz x y b a d) (fun t => t.write d.toNat (BitVec.ofNat 32 (f t))) ∧
    OnThreads (.bfxi x y b a d) (fun t => t.write d.toNat
      (if len t = 0 then 0 else if (f t).testBit (len t - 1) then BitVec.ofInt 32 ((f t : Int) - 2 ^ len t) else BitVec.ofNat 32 (f t))) ∧
    OnThreads (.bfi x y b a d) (fun t =>
      let m : Word := BitVec.ofNat 32 ((2 ^ len t - 1) * 2 ^ n t)
      t.write d.toNat ((t.val d.toNat &&& ~~~m) ||| ((A t <<< n t) &&& m)))

/-- CMM (R104): minimum, maximum, the saturated sums, the absolute difference and the clamp. -/
def Obligations.MinMaxWriteD : Prop :=
  ∀ (x y : BitVec 1) (b a d : BitVec 7),
    let A : Thread → Word := fun t => t.val a.toNat
    let B : Thread → Word := fun t => t.val b.toNat
    let D : Thread → Word := fun t => t.val d.toNat
    let low : Word → Word → Word := fun u v => if u.toInt ≤ v.toInt then u else v
    let high : Word → Word → Word := fun u v => if u.toInt ≤ v.toInt then v else u
    let sum : Thread → Word := fun t => BitVec.ofInt 32 (max (-2147483648) (min 2147483647 ((A t).toInt + (B t).toInt)))
    OnThreads (.minI32 x y b a d) (fun t => t.write d.toNat (low (A t) (B t))) ∧
    OnThreads (.maxI32 x y b a d) (fun t => t.write d.toNat (high (A t) (B t))) ∧
    OnThreads (.minZ32 x y b a d) (fun t => t.write d.toNat (if (A t).toNat ≤ (B t).toNat then A t else B t)) ∧
    OnThreads (.maxZ32 x y b a d) (fun t => t.write d.toNat (if (A t).toNat ≤ (B t).toNat then B t else A t)) ∧
    OnThreads (.addmin x y b a d) (fun t => t.write d.toNat (low (D t) (sum t))) ∧
    OnThreads (.addmax x y b a d) (fun t => t.write d.toNat (high (D t) (sum t))) ∧
    OnThreads (.absd x y b a d) (fun t => t.write d.toNat (BitVec.ofNat 32 ((A t).toInt - (B t).toInt).natAbs)) ∧
    OnThreads (.clamp x y b a d) (fun t => t.write d.toNat (low (high (D t) (A t)) (B t)))

/-- MUL (R105): products and their high halves; division truncates toward zero, by 0 gives all ones and the dividend as the
remainder, and the one overflow gives 0x8000_0000 and 0. -/
def Obligations.ProductsAndQuotientsWriteD : Prop :=
  ∀ (x y : BitVec 1) (b a d : BitVec 7),
    let A : Thread → Word := fun t => t.val a.toNat
    let B : Thread → Word := fun t => t.val b.toNat
    OnThreads (.mullo x y b a d) (fun t => t.write d.toNat (A t * B t)) ∧
    OnThreads (.mulhiI32 x y b a d) (fun t => t.write d.toNat (BitVec.ofInt 32 ((A t).toInt * (B t).toInt / 4294967296))) ∧
    OnThreads (.mulhiZ32 x y b a d) (fun t => t.write d.toNat (BitVec.ofNat 32 ((A t).toNat * (B t).toNat / 4294967296))) ∧
    OnThreads (.madlo x y b a d) (fun t => t.write d.toNat (t.val d.toNat + A t * B t)) ∧
    OnThreads (.divI32 x y b a d) (fun t => t.write d.toNat
      (if B t = 0 then 0xFFFFFFFF else if A t = 0x80000000 ∧ B t = 0xFFFFFFFF then 0x80000000
        else BitVec.ofInt 32 ((A t).toInt.tdiv (B t).toInt))) ∧
    OnThreads (.divZ32 x y b a d) (fun t => t.write d.toNat (if B t = 0 then 0xFFFFFFFF else BitVec.ofNat 32 ((A t).toNat / (B t).toNat))) ∧
    OnThreads (.remI32 x y b a d) (fun t => t.write d.toNat
      (if B t = 0 then A t else if A t = 0x80000000 ∧ B t = 0xFFFFFFFF then 0 else BitVec.ofInt 32 ((A t).toInt.tmod (B t).toInt))) ∧
    OnThreads (.remZ32 x y b a d) (fun t => t.write d.toNat (if B t = 0 then A t else BitVec.ofNat 32 ((A t).toNat % (B t).toNat)))

/-- BIT (R106): the counts, the reversal, the prefix count below bit b, each byte by its selector nibble (0, the sign of a byte of a, or that
byte), and the place of the set bit with exactly b set bits below it, or 32. -/
def Obligations.BitCountsWriteD : Prop :=
  ∀ (x y : BitVec 1) (b a d : BitVec 7),
    let A : Thread → Word := fun t => t.val a.toNat
    let B : Thread → Word := fun t => t.val b.toNat
    let ones : Nat → Word → Nat := fun n v => ((List.range n).filter fun i => v.getLsbD i).length
    OnThreads (.popc y a d) (fun t => t.write d.toNat (BitVec.ofNat 32 (ones 32 (A t)))) ∧
    OnThreads (.clz y a d) (fun t => t.write d.toNat
      (BitVec.ofNat 32 ((List.range 32).takeWhile fun i => !((A t).getLsbD (31 - i))).length)) ∧
    OnThreads (.ctz y a d) (fun t => t.write d.toNat (BitVec.ofNat 32 ((List.range 32).takeWhile fun i => !((A t).getLsbD i)).length)) ∧
    OnThreads (.brev y a d) (fun t => t.write d.toNat (A t).reverse) ∧
    OnThreads (.pfxp x y b a d) (fun t => t.write d.toNat (BitVec.ofNat 32 (ones (min (B t).toNat 32) (A t)))) ∧
    OnThreads (.perm x y b a d) (fun t =>
      let byte : Nat → Nat := fun j => (A t).toNat / 256 ^ j % 256
      let out : Nat → Nat := fun i =>
        let n := (B t).toNat / 16 ^ i % 16
        if 8 ≤ n then 0 else if 4 ≤ n then (if 128 ≤ byte (n % 4) then 255 else 0) else byte (n % 4)
      t.write d.toNat (BitVec.ofNat 32 (out 0 + 256 * out 1 + 65536 * out 2 + 16777216 * out 3))) ∧
    OnThreads (.find x y b a d) (fun t => t.write d.toNat (BitVec.ofNat 32
      (((List.range 32).find? fun i => (A t).getLsbD i && ones i (A t) == (B t).toNat).getD 32)))

/-- The immediate forms (R107): ANDI to XORI sign-extend imm9, the shifts and the rotate take their count from the instruction, MOVI
sign-extends imm19. -/
def Obligations.ImmediateFormsWriteD : Prop :=
  ∀ (i9 : BitVec 9) (i5 : BitVec 5) (i19 : BitVec 19) (a d : BitVec 7),
    OnThreads (.andi i9 a d) (fun t => t.write d.toNat (t.val a.toNat &&& i9.signExtend 32)) ∧
    OnThreads (.ori i9 a d) (fun t => t.write d.toNat (t.val a.toNat ||| i9.signExtend 32)) ∧
    OnThreads (.xori i9 a d) (fun t => t.write d.toNat (t.val a.toNat ^^^ i9.signExtend 32)) ∧
    OnThreads (.shli i5 a d) (fun t => t.write d.toNat (t.val a.toNat <<< i5.toNat)) ∧
    OnThreads (.shri i5 a d) (fun t => t.write d.toNat (t.val a.toNat >>> i5.toNat)) ∧
    OnThreads (.sari i5 a d) (fun t => t.write d.toNat ((t.val a.toNat).sshiftRight i5.toNat)) ∧
    OnThreads (.roli i5 a d) (fun t => t.write d.toNat ((t.val a.toNat).rotateLeft i5.toNat)) ∧
    OnThreads (.movi i19 d) (fun t => t.write d.toNat (i19.signExtend 32))

/-- ADDI after EXT adds the 32-bit immediate of the two (R47); without, its own imm12 sign-extended (R107). -/
def Obligations.ExtWidensTheImmediateOfAddi : Prop :=
  ∀ (h : BitVec 20) (i : BitVec 12) (a d : BitVec 7) s g b, Meets s g b (.addi i a d) → s.notStepping g.bundle →
    (g.pfx = .ext h → exec (.addi i a d) s = .next (s.after g fun t => t.write d.toNat (t.val a.toNat + (h ++ i)))) ∧
    (g.pfx = .none ∨ g.pfx = .pred → exec (.addi i a d) s = .next (s.after g fun t => t.write d.toNat (t.val a.toNat + i.signExtend 32)))

/-- CMP and CMPI on integers (R108, R109): predicate p becomes the condition alone, or combined with what it held; nothing else
changes, and no flag is raised. -/
def Obligations.IntegerComparesWriteOnePredicate : Prop :=
  ∀ (x y : BitVec 1) (c : BitVec 2) (b a i : BitVec 7) (k : BitVec 4) (p : BitVec 3), k.toNat < 10 →
    let test : Word → Word → Bool := fun u v =>
      if k.toNat = 0 then u == v else if k.toNat = 1 then !(u == v) else if k.toNat = 2 then decide (u.toInt < v.toInt)
      else if k.toNat = 3 then decide (u.toInt ≤ v.toInt) else if k.toNat = 4 then decide (v.toInt < u.toInt)
      else if k.toNat = 5 then decide (v.toInt ≤ u.toInt) else if k.toNat = 6 then decide (u.toNat < v.toNat)
      else if k.toNat = 7 then decide (u.toNat ≤ v.toNat) else if k.toNat = 8 then decide (v.toNat < u.toNat)
      else decide (v.toNat ≤ u.toNat)
    let put : Thread → Bool → Thread := fun t r => t.setPred p.toNat
      (if c.toNat = 0 then r else if c.toNat = 1 then t.pred p.toNat && r else if c.toNat = 2 then t.pred p.toNat || r else t.pred p.toNat ^^ r)
    OnThreads (.cmp x y c b a k p) (fun t => put t (test (t.val a.toNat) (t.val b.toNat))) ∧
    OnThreads (.cmpi y c i a k p) (fun t => put t (test (t.val a.toNat) (i.signExtend 32)))

/-- CMP and CMPI on FP32 (R110): predicate p becomes the condition alone, or combined; a NaN is unordered, the zeros are equal; NV is
raised by any NaN for FLT and FLE, by a signalling one for the others. -/
def Obligations.FloatComparesWriteOnePredicate : Prop :=
  ∀ (x y : BitVec 1) (c : BitVec 2) (b a i : BitVec 7) (k : BitVec 4) (p : BitVec 3), 10 ≤ k.toNat →
    let order : Word → Int := fun v => if v.getLsbD 31 then -((v.toNat % 2 ^ 31 : Nat) : Int) else ((v.toNat % 2 ^ 31 : Nat) : Int)
    let nan : Word → Bool := fun v => decide (0x7F800000 < v.toNat % 2 ^ 31)
    let sig : Word → Bool := fun v => nan v && !(v.getLsbD 22)
    let test : Word → Word → Bool := fun u v =>
      if k.toNat = 10 then !(nan u || nan v) && order u == order v else if k.toNat = 11 then nan u || nan v || !(order u == order v)
      else if k.toNat = 12 then !(nan u || nan v) && decide (order u < order v)
      else if k.toNat = 13 then !(nan u || nan v) && decide (order u ≤ order v) else if k.toNat = 14 then nan u || nan v else !(nan u || nan v)
    let nv : Word → Word → Word := fun u v => if (if k.toNat = 12 ∨ k.toNat = 13 then nan u || nan v else sig u || sig v) then 1 else 0
    let put : Thread → Word → Word → Thread := fun t u v => (t.setPred p.toNat
      (if c.toNat = 0 then test u v else if c.toNat = 1 then t.pred p.toNat && test u v else if c.toNat = 2 then t.pred p.toNat || test u v
        else t.pred p.toNat ^^ test u v)).orFlags (nv u v)
    OnThreads (.cmp x y c b a k p) (fun t => put t (t.val a.toNat) (t.val b.toNat)) ∧
    OnThreads (.cmpi y c i a k p) (fun t => put t (t.val a.toNat) (cmpiImm k.toNat i))

/-- SEL, MKE, WAITF, NOP, SETRM, CLRFF and XNEXT (R98, R99, R111, R139, R140, R318): the selected source, the held mark, nothing,
nothing, the rounding field of %fmode, the flags read and cleared; XNEXT removes the mask's lowest set bit, writes its ranks in the two
maps, and p0 says whether there was one. -/
def Obligations.SelectMarkAndModeInstructions : Prop :=
  ∀ (x y : BitVec 1) (q : BitVec 3) (r : BitVec 2) (b a d : BitVec 7),
    OnThreads (.sel x y q b a d) (fun t => t.write d.toNat (if t.pred q.toNat then t.val a.toNat else t.val b.toNat)) ∧
    OnThreads (.mke d) (fun t => t.put d.toNat { val := t.val d.toNat, st := .held }) ∧
    OnThreads (.waitf a) (fun t => t) ∧
    OnThreads .nop (fun t => t) ∧
    OnThreads (.setrm r) (fun t => { t with fmode := (t.fmode &&& 0xFFFFFFFC) ||| r.zeroExtend 32 }) ∧
    OnThreads (.clrff d) (fun t => { t.write d.toNat t.fflags with fflags := 0 }) ∧
    OnThreads (.xnext b a d) (fun t =>
      let m := t.val a.toNat
      let low := lowBit 32 m.toNat
      let rank : Nat → Word := fun r => BitVec.ofNat 32 ((List.range low).filter fun i => (t.val r).getLsbD i).length
      if m = 0 then ((t.write d.toNat 0xFFFFFFFF).write (d.toNat + 1) 0xFFFFFFFF).setPred 0 false
      else (((t.write d.toNat (rank b.toNat)).write (d.toNat + 1) (rank (b.toNat + 1))).write a.toNat (m &&& (m - 1))).setPred 0 true)

/-- FOP and form H on FP32 (R27, R129): each result is written and its flags are raised. The rounded forms are the exact value
rounded once under %fmode; FABS, FNEG and FCPYS act on the sign bit alone. -/
def Obligations.SinglePrecisionWriteD : Prop :=
  ∀ (x y i : BitVec 1) (b a d : BitVec 7) (bh dh : BitVec 5),
    let A : Thread → Nat := fun t => (t.val a.toNat).toNat
    let B : Thread → Nat := fun t => (t.val b.toNat).toNat
    let D : Thread → Nat := fun t => (t.val dh.toNat).toNat
    let I : Thread → Nat := fun t =>
      if i == 1#1 then (f32.convert .rne false false false (.ofInt bh.toInt)).1 else (t.val bh.toNat).toNat
    let put : Nat → Thread → Nat × Word → Thread := fun n t r => (t.write n (BitVec.ofNat 32 r.1)).orFlags r.2
    OnThreads (.fadd x y b a d) (fun t => put d.toNat t (f32.add t.mode (A t) (B t))) ∧
    OnThreads (.fsub x y b a d) (fun t => put d.toNat t (f32.sub t.mode (A t) (B t))) ∧
    OnThreads (.fmul x y b a d) (fun t => put d.toNat t (f32.mul t.mode (A t) (B t))) ∧
    OnThreads (.fmin x y b a d) (fun t => put d.toNat t (f32.pick t.mode false (A t) (B t))) ∧
    OnThreads (.fmax x y b a d) (fun t => put d.toNat t (f32.pick t.mode true (A t) (B t))) ∧
    OnThreads (.fabs y a d) (fun t => t.write d.toNat (t.val a.toNat &&& 0x7FFFFFFF)) ∧
    OnThreads (.fneg y a d) (fun t => t.write d.toNat (t.val a.toNat ^^^ 0x80000000)) ∧
    OnThreads (.fcpys x y b a d) (fun t => t.write d.toNat ((t.val a.toNat &&& 0x7FFFFFFF) ||| (t.val b.toNat &&& 0x80000000))) ∧
    OnThreads (.faddH i bh dh) (fun t => put dh.toNat t (f32.add t.mode (D t) (I t))) ∧
    OnThreads (.fmulH i bh dh) (fun t => put dh.toNat t (f32.mul t.mode (D t) (I t))) ∧
    OnThreads (.fminH i bh dh) (fun t => put dh.toNat t (f32.pick t.mode false (D t) (I t))) ∧
    OnThreads (.fmaxH i bh dh) (fun t => put dh.toNat t (f32.pick t.mode true (D t) (I t)))

/-- The fused forms and HOP (R130, R131): the two 16-bit elements are computed apart and packed, their flags united. -/
def Obligations.FusedAndHalfPrecisionWriteD : Prop :=
  ∀ (x y k : BitVec 1) (c5 : BitVec 5) (c4 : BitVec 4) (b a d : BitVec 7),
    let V : Thread → Nat → Nat := fun t n => (t.val n).toNat
    let h : Thread → Nat → Nat → Nat := fun t n j => V t n / 2 ^ (16 * j) % 65536
    let put : Thread → Nat × Word → Thread := fun t r => (t.write d.toNat (BitVec.ofNat 32 r.1)).orFlags r.2
    let two : Thread → (Nat → Nat × Word) → Thread := fun t f => put t ((f 0).1 + 65536 * (f 1).1, (f 0).2 ||| (f 1).2)
    let F : Fmt := if k == 0#1 then f16 else bf16
    OnThreads (.ffma c5 b a d) (fun t => put t (f32.fmadd t.mode (V t a.toNat) (V t b.toNat) (V t c5.toNat))) ∧
    OnThreads (.fma2 k c4 b a d) (fun t => two t fun j => F.fmadd t.mode (h t a.toNat j) (h t b.toNat j) (h t c4.toNat j)) ∧
    OnThreads (.dfma c5 b a d) (fun t =>
      let r := f64.fmadd t.mode (t.pair a.toNat).toNat (t.pair b.toNat).toNat (t.pair (2 * c5.toNat)).toNat
      (t.writePair d.toNat (BitVec.ofNat 64 r.1)).orFlags r.2) ∧
    OnThreads (.duaddF16 x y b a d) (fun t => two t fun j => f16.add t.mode (h t a.toNat j) (h t b.toNat j)) ∧
    OnThreads (.duaddBf16 x y b a d) (fun t => two t fun j => bf16.add t.mode (h t a.toNat j) (h t b.toNat j)) ∧
    OnThreads (.dumulF16 x y b a d) (fun t => two t fun j => f16.mul t.mode (h t a.toNat j) (h t b.toNat j)) ∧
    OnThreads (.dumulBf16 x y b a d) (fun t => two t fun j => bf16.mul t.mode (h t a.toNat j) (h t b.toNat j)) ∧
    OnThreads (.duminF16 x y b a d) (fun t => two t fun j => f16.pick t.mode false (h t a.toNat j) (h t b.toNat j)) ∧
    OnThreads (.duminBf16 x y b a d) (fun t => two t fun j => bf16.pick t.mode false (h t a.toNat j) (h t b.toNat j)) ∧
    OnThreads (.dumaxF16 x y b a d) (fun t => two t fun j => f16.pick t.mode true (h t a.toNat j) (h t b.toNat j)) ∧
    OnThreads (.dumaxBf16 x y b a d) (fun t => two t fun j => bf16.pick t.mode true (h t a.toNat j) (h t b.toNat j))

/-- DOP and FUN (R132 to R134): the pair's result, or the correctly rounded function of a flushed source, is written and its flags
are raised. -/
def Obligations.DoublePrecisionAndFunctionsWriteD : Prop :=
  ∀ (x y : BitVec 1) (b a d : BitVec 7),
    let A : Thread → Nat := fun t => (t.pair a.toNat).toNat
    let B : Thread → Nat := fun t => (t.pair b.toNat).toNat
    let X : Thread → FVal := fun t => f32.value t.mode.flush (t.val a.toNat).toNat
    let Y : Thread → FVal := fun t => f32.value t.mode.flush (t.val b.toNat).toNat
    let put : Thread → Nat × Word → Thread := fun t r => (t.write d.toNat (BitVec.ofNat 32 r.1)).orFlags r.2
    let put2 : Thread → Nat × Word → Thread := fun t r => (t.writePair d.toNat (BitVec.ofNat 64 r.1)).orFlags r.2
    OnThreads (.dadd x y b a d) (fun t => put2 t (f64.add t.mode (A t) (B t))) ∧
    OnThreads (.dsub x y b a d) (fun t => put2 t (f64.sub t.mode (A t) (B t))) ∧
    OnThreads (.dmul x y b a d) (fun t => put2 t (f64.mul t.mode (A t) (B t))) ∧
    OnThreads (.dmin x y b a d) (fun t => put2 t (f64.pick t.mode false (A t) (B t))) ∧
    OnThreads (.dmax x y b a d) (fun t => put2 t (f64.pick t.mode true (A t) (B t))) ∧
    OnThreads (.ddiv x y b a d) (fun t => put2 t (f64.quot t.mode [f64.value t.mode.flush (A t), f64.value t.mode.flush (B t)]
      (f64.value t.mode.flush (A t)) (f64.value t.mode.flush (B t)))) ∧
    OnThreads (.dsqrt y a d) (fun t => put2 t (f64.sqrt t.mode (f64.value t.mode.flush (A t)))) ∧
    OnThreads (.frcp y a d) (fun t => put t (f32.quot t.mode [X t] .one (X t))) ∧
    OnThreads (.frsq y a d) (fun t => put t (f32.rsqrt t.mode (X t))) ∧
    OnThreads (.fsqrt y a d) (fun t => put t (f32.sqrt t.mode (X t))) ∧
    OnThreads (.fdiv x y b a d) (fun t => put t (f32.quot t.mode [X t, Y t] (X t) (Y t))) ∧
    OnThreads (.fexp2 y a d) (fun t => put t (fexp2 t.mode (X t))) ∧
    OnThreads (.flog2 y a d) (fun t => put t (flog2 t.mode (X t))) ∧
    OnThreads (.fsinpi y a d) (fun t => put t (fsinpi t.mode (X t))) ∧
    OnThreads (.fcospi y a d) (fun t => put t (fcospi t.mode (X t)))

/-- CVT, CVTP and CVTP.ef (R128, R136, R137): the converted value, or the packed ones with the union of their flags; the error-feedback
form also stores the new residues and no other. -/
def Obligations.ConversionsWriteD : Prop :=
  ∀ (f : BitVec 1) (r : BitVec 3) (k u : BitVec 4) (e : BitVec 3) (a d : BitVec 7),
    let src : Thread → Nat → FVal := fun t j => f32.value t.mode.flush (t.val (a.toNat + j)).toNat
    let n : Nat := packCount u.toNat
    let fed : Thread → List (Nat × Word × Nat) := fun t => (List.range n).map fun j =>
      feedback u.toNat (f == 1#1) t.mode (src t j) (t.resid.getD (8 * e.toNat + j) 0).toNat
    let put : Thread → Nat × Word → Thread := fun t v => (t.write d.toNat (BitVec.ofNat 32 v.1)).orFlags v.2
    OnThreads (.cvt f r k u a d) (fun t =>
      let v := cvtVal (f == 1#1) r.toNat k.toNat u.toNat t.mode (if wide k then (t.pair a.toNat).toNat else (t.val a.toNat).toNat)
      if wide u then (t.writePair d.toNat (BitVec.ofNat 64 v.1)).orFlags v.2 else put t v) ∧
    OnThreads (.cvtp f u a d) (fun t =>
      put t (packAll (typeBits u.toNat) ((List.range n).map fun j => narrow u.toNat (f == 1#1) t.mode (src t j)))) ∧
    OnThreads (.cvtpEf f u e a d) (fun t =>
      { put t (packAll (typeBits u.toNat) ((fed t).map fun v => (v.1, v.2.1))) with
        resid := t.resid.take (8 * e.toNat) ++ (fed t).map (fun v => BitVec.ofNat 32 v.2.2) ++ t.resid.drop (8 * e.toNat + n) })

/-- DOT (R127, R138): integer elements are multiplied exactly and summed modulo 2^32; floating elements and the accumulator are
summed exactly and rounded once to FP32. -/
def Obligations.DotProductsWriteD : Prop :=
  ∀ (x y : BitVec 1) (b a d : BitVec 7),
    let el : Thread → BitVec 7 → Nat → Nat → Nat := fun t r w j => (t.val r.toNat).toNat / 2 ^ (j * w) % 2 ^ w
    let signed : Nat → Nat → Int := fun w v => if v.testBit (w - 1) then (v : Int) - 2 ^ w else v
    let isum : Thread → Nat → (Nat → Int) → Word := fun t w rd => t.val d.toNat + BitVec.ofInt 32
      (((List.range (32 / w)).map fun j => rd (el t a w j) * rd (el t b w j)).foldl (· + ·) 0)
    let fsum : Thread → Fmt → Nat → Thread := fun t F w =>
      let v := f32.dot t.mode.canon (f32.value false (t.val d.toNat).toNat)
        ((List.range (32 / w)).map fun j => (F.value false (el t a w j), F.value false (el t b w j)))
      (t.write d.toNat (BitVec.ofNat 32 v.1)).orFlags v.2
    OnThreads (.dot4I8 x y b a d) (fun t => t.write d.toNat (isum t 8 (signed 8))) ∧
    OnThreads (.dot4Z8 x y b a d) (fun t => t.write d.toNat (isum t 8 Int.ofNat)) ∧
    OnThreads (.dot8I4 x y b a d) (fun t => t.write d.toNat (isum t 4 (signed 4))) ∧
    OnThreads (.dot8Z4 x y b a d) (fun t => t.write d.toNat (isum t 4 Int.ofNat)) ∧
    OnThreads (.dot4D8a x y b a d) (fun t => fsum t d8a 8) ∧
    OnThreads (.dot4D8b x y b a d) (fun t => fsum t d8b 8) ∧
    OnThreads (.dot8D4 x y b a d) (fun t => fsum t d4 4) ∧
    OnThreads (.dot2Bf16 x y b a d) (fun t => fsum t bf16 16)

/-! Control flow. -/

/-- BR, CALL, JMP, CALLR and RET (R67, R68): a branch goes to its own address plus twice the displacement where the predicate,
inverted or not, holds; a call writes the next address to w126:w127; the register forms go to the pair's value, which is even. -/
def Obligations.BranchesCallsAndReturns : Prop :=
  ∀ (i19 : BitVec 19) (i23 : BitVec 23) (n : BitVec 1) (q : BitVec 3) (p : BitVec 7) s g b, s.notStepping g.bundle →
    let even : Prop := EachActive g b fun t => (t.pair p.toNat).toNat % 2 = 0
    let link : Thread → Thread := fun t => t.writePair 126 g.nextPc
    (Meets s g b (.br i19 n q) → exec (.br i19 n q) s = .next (s.moved g id fun _ t =>
      if (t.pred q.toNat ^^ (n == 1#1)) = true then g.ipc + i19.signExtend 64 * 2 else g.nextPc)) ∧
    (Meets s g b (.call i23) → exec (.call i23) s = .next (s.moved g link fun _ _ => g.ipc + i23.signExtend 64 * 2)) ∧
    (Meets s g b (.jmp p) → even → exec (.jmp p) s = .next (s.moved g id fun _ t => t.pair p.toNat)) ∧
    (Meets s g b (.callr p) → even → exec (.callr p) s = .next (s.moved g link fun _ t => t.pair p.toNat)) ∧
    (Meets s g b (.ret p) → even → exec (.ret p) s = .next (s.moved g id fun _ t => t.pair p.toNat))

/-- An odd target of JMP, CALLR or RET traps ALIGN, cause 7, in the lane (R22, R69), with the pair's value as the
detail (R321); that the fault address is 0 is the model's reading (log entry 35). -/
def Obligations.OddTargetsTrapAlign : Prop :=
  ∀ (p : BitVec 7) (i : Instr) s g b l t, (i = .jmp p ∨ i = .callr p ∨ i = .ret p) → Meets s g b i → g.lanes = [l] → l ∈ g.active →
    b.threads[l]? = some t → (t.pair p.toNat).toNat % 2 = 1 →
    exec i s = .next (s.taken.raise g.bundle l { cause := 7, detail := t.pair p.toNat } g.start g.nextPc)

/-- PRED and EXT (R46, R47): the group goes on to the next word of the same instruction, with the lanes whose predicate holds, or with
the immediate's high bits. Nothing else of the machine changes. -/
def Obligations.PredAndExtGovernTheNextInstruction : Prop :=
  ∀ (n : BitVec 1) (q : BitVec 3) (h : BitVec 20) s g b, s.group = some g → s.bundle? g.bundle = some b →
    (s.issuesOf g.pfx b (.pred n q) = [] → exec (.pred n q) s = .next { s with group := some { g with
      pfx := .pred, ipc := g.nextPc, active := g.active.filter fun l => (s.thread g.bundle l).pred q.toNat ^^ (n == 1#1) } }) ∧
    (s.issuesOf g.pfx b (.ext h) = [] → exec (.ext h) s = .next { s with group := some { g with pfx := .ext h, ipc := g.nextPc } })

/-- TRAPI, BRK and HALT (R331, R333): TRAPI takes cause 0x10 with its immediate, BRK takes cause 0x0F, and HALT halts the block: its
group completes, but a lane whose transaction the halt aborts stands at its resume point. -/
def Obligations.SoftwareTrapsAndHalt : Prop :=
  ∀ (n : BitVec 4),
    Completes (.trapi n) (fun _ _ _ => True) (fun s _ _ => s) (.trap { cause := 0x10, detail := n.zeroExtend 64 }) ∧
    Completes .brk (fun _ _ _ => True) (fun s _ _ => s) (.trap { cause := 0x0F }) ∧
    (∀ s g b k, Meets s g b .halt → g.acting ≠ [] → b.owner.block? = some k →
      exec .halt s = .next ((s.taken.haltBlock k).endsWith g fun l => if (s.taken.thread b.id l).tx.isSome then .gone else .next))

/-- Taking a cause in a block thread outside a transaction, and coming back (R321 to R324, R330, R333): a cause that ends the task, or has no
handler, ends every thread of the block, whose task is to park with it, but BREAK and STEP then halt the block; any other parks the lane with
the cause, the instruction's PC and the PC to resume at, with nothing else of the lane or of memory changed; an instruction that held the
lane and will issue again is no longer counted (R427, log entry 27); a resumed lane is live at that PC with its wait count 0. -/
def Obligations.ACauseParksItsLane : Prop :=
  ∀ (s : State) (bid l : Nat) (tr : Trap) (start nxt : DWord) (b : Bundle) (k : Nat) (y : Block) (t : Thread),
    s.bundle? bid = some b → b.owner = .block k → s.block? k = some y → b.threads[l]? = some t → t.tx = none → t.life = .live →
    t.conv = none → (∀ c ∈ b.results, ∀ x ∈ c.shares, x.lane ≠ l) →
    let p := ((s.task? y.task).map (·.partition)).getD 0
    let resume := if tr.cause ∈ [0x0D, 0x0F, 0x10, 0x11] then nxt else start
    let u := s.raise bid l tr start nxt
    (tr.cause ∈ [1, 2, 5] ∨ (s.handlerPc p tr.cause = 0 ∧ tr.cause ∉ [0x0F, 0x11]) →
      u = s.endBlock k tr start b.index l ∧ (y.ending = .running → BlockEnds s u k tr start b.index l)) ∧
    (s.handlerPc p tr.cause = 0 → tr.cause ∈ [0x0F, 0x11] →
      u = (s.modThread bid l (·.goto resume)).haltBlock k ∧ BlockHalts (s.modThread bid l (·.goto resume)) u k) ∧
    (tr.cause ∉ [1, 2, 5] → s.handlerPc p tr.cause ≠ 0 →
      (u.thread bid l).life = .parked { trap := tr, opc := start, resume := resume, imprecise := false, afterAbort := false
                                        seq := s.fresh, clk := s.clk } ∧
      (u.thread bid l).regs = t.regs ∧ (u.thread bid l).preds = t.preds ∧ (u.thread bid l).fmode = t.fmode ∧
      (u.thread bid l).fflags = t.fflags ∧ u.mem = s.mem ∧ u.reqs = s.reqs ∧ u.partitions = s.partitions ∧
      (t.mid = none → u.blocks = s.blocks) ∧
      ((u.resumeLane bid l).thread bid l).life = .live ∧ ((u.resumeLane bid l).thread bid l).pc = resume ∧
      ((u.resumeLane bid l).thread bid l).waitCount = 0 ∧ ((u.resumeLane bid l).thread bid l).regs = t.regs)

/-- Returns and handler instructions (R321, R329, R330): RETT resumes the origin lane and ends the handler lane, KILL ends both and no other
thread, KILLB ends every thread of the block, whose task is to park with the origin's cause; OREG, OWR and OPC act on the origin lane
alone. -/
def Obligations.HandlersActOnTheirOrigin : Prop :=
  ∀ (n d : BitVec 7),
    let origin : State → Bundle → Nat → Option (Origin × Option Thread) := fun u b l => u.originOf (u.thread b.id l)
    Completes .rett (fun _ _ _ => True) (fun s g b => s.eachLane g fun u l => match origin u b l with
      | some (o, some _) => (u.resumeLane o.bundle o.lane).exitLane b.id l
      | _ => u.kill b.id l) .gone ∧
    Completes .kill (fun _ _ _ => True) (fun s g b => s.eachLane g fun u l => u.kill b.id l) .gone ∧
    Completes .killb (fun _ _ _ => True) (fun s g b => s.eachLane g fun u l => match b.owner.block?, (u.thread b.id l).origin with
      | some k, some o => u.endBlock k o.trap o.opc o.bundleIndex o.lane
      | _, _ => u) .gone ∧
    (∀ (s : State) k tr opc i l y, s.block? k = some y → y.ending = .running → BlockEnds s (s.endBlock k tr opc i l) k tr opc i l) ∧
    (∀ (s : State) bid l o t v, s.thread? bid l = some t → t.origin = some o → o.exited = false → s.thread? o.bundle o.lane = some v →
      ((s.kill bid l).thread bid l).life = .exited ∧ ((s.kill bid l).thread o.bundle o.lane).life = .exited ∧
      ((s.kill bid l).thread o.bundle o.lane).tx = none ∧ (s.kill bid l).mem = s.mem ∧ (s.kill bid l).blocks = s.blocks ∧
      ∀ i j, (i, j) ≠ (bid, l) → (i, j) ≠ (o.bundle, o.lane) → (s.kill bid l).thread i j = s.thread i j) ∧
    Completes (.oreg n d) (fun _ _ _ => True) (fun s g b => s.eachLane g fun u l => u.modThread b.id l fun t =>
      t.write d.toNat (match origin u b l with
        | some (_, some o) => o.val n.toNat
        | _ => 0)) .next ∧
    Completes (.owr n d) (fun _ _ _ => True) (fun s g b => s.eachLane g fun u l => match origin u b l with
      | some (o, some _) => u.modThread o.bundle o.lane fun t => t.write n.toNat ((u.thread b.id l).val d.toNat)
      | _ => u) .next ∧
    Completes (.opc d) (fun _ g b => EachActive g b fun t => (t.pair d.toNat).toNat % 2 = 0)
      (fun s g b => s.eachLane g fun u l => match origin u b l with
        | some (o, some _) => u.modThread o.bundle o.lane fun t => t.setResume ((u.thread b.id l).pair d.toNat)
        | _ => u) .next

/-- SRD and SWR (R78 to R81): SRD writes the special register's value to d, capturing %clock or %time where a low half is read; SWR
writes %fmode, %fflags, %spflag, %txlim or %carvth, each cut to its field, and no other register. -/
def Obligations.SpecialRegistersReadAndWrite : Prop :=
  ∀ (a d : BitVec 7),
    Completes (.srd a d) (fun _ _ _ => True) (fun s g b => s.eachLane g fun u l => u.modThread g.bundle l fun t =>
      (u.latch b t a.toNat).write d.toNat (u.special b l (u.latch b t a.toNat) a.toNat)) .next ∧
    Completes (.swr a d) (fun _ _ _ => True) (fun s g b => s.eachLane g fun u l =>
      let v := (u.thread g.bundle l).val d.toNat
      if a.toNat = 0x20 then u.modThread b.id l fun t => { t with fmode := v &&& 0xF }
      else if a.toNat = 0x21 then u.modThread b.id l fun t => { t with fflags := v &&& 0x1F }
      else if a.toNat = 0x24 then u.modBlk b fun k => { k with spflag := v.getLsbD 0 }
      else if a.toNat = 0x28 then u.modBlk b fun k => { k with txlim := txlimOf v }
      else if a.toNat = 0x29 then u.modBlk b fun k => { k with carvth := carvthOf v }
      else u) .next

/-! Memory. -/

/-- LD, LDACQ and LDSMP (R150, R158, R160, R244, R417): outside a transaction, each active lane's load leaves a request behind all others with
its address, size and place and the entry of its instruction, and marks the destination pending; the value comes with LATE_RESULT_ARRIVAL.
Inside one, a load whose bytes the write set holds is answered from there, another adds its line to the read set and asks the home, and one
that needs a 17th line aborts with 0x0002_0000. -/
def Obligations.LoadsSendRequests : Prop :=
  ∀ (o : BitVec 6) (z k : BitVec 3) (st : BitVec 4) (p : BitVec 6) (d : BitVec 7),
    let load : Instr → Nat → Nat → (Thread → DWord) → Bool → Bool → Prop := fun i size code ea acq smp =>
      Completes i
        (fun s g b => EachActive g b fun t => t.tx = none ∧ s.accessChecks b st.toNat (ea t) size true false = [])
        (fun s g b => s.next.eachLane g fun u l =>
          let a := ea (u.thread b.id l)
          let scope := if acq then some (u.resolveScope b k.toNat st.toNat) else none
          let pl := u.place b st.toNat a size
          let m := (u.offend b pl (spaceOf (u.streamWord b st.toNat)) a).sampleOf b smp
          let v := m.1.addReq (m.1.newReq g b l st.toNat (.load code d.toNat scope m.2) pl a size s.fresh)
          v.modThread b.id l fun t => t.marks d.toNat .pending (ldRegs code)) .next ∧
      (let site : State → Bundle → Nat → Option (Tx × Nat × List (Nat × Byte)) := fun u b l =>
         match (u.thread b.id l).tx, (u.place b st.toNat (ea (u.thread b.id l)) size).txAddr with
         | some x, some a => some (x, a, (List.range size).filterMap fun j =>
             ((x.writes.find? (·.line == (a + j) / 64)).bind fun w => w.bytes.lookup ((a + j) % 64)).map fun v => (j, v))
         | _, _ => none
       let room : Tx → Nat → Bool := fun x a => x.reads.any (·.line == a / 64) || decide (x.reads.length < 16)
       let inTx : State → Bundle → Prop := fun s b => ∀ (l : Nat) (t : Thread), b.threads[l]? = some t → s.accessChecks b st.toNat (ea t) size true false = []
       let met : State → Bundle → Nat → State × Nat := fun u b l =>
         (u.offend b (u.place b st.toNat (ea (u.thread b.id l)) size) (spaceOf (u.streamWord b st.toNat)) (ea (u.thread b.id l))).sampleOf b smp
       let ask : State → Group → Bundle → Nat → Req := fun u g b l => { (u.newReq g b l st.toNat
         (.load code d.toNat (if acq then some (u.resolveScope b k.toNat st.toNat) else none) (met u b l).2)
         (u.place b st.toNat (ea (u.thread b.id l)) size) (ea (u.thread b.id l)) size u.fresh) with tx := true }
       let pend : State → Bundle → Nat → State := fun u b l => u.modThread b.id l fun t => t.marks d.toNat .pending (ldRegs code)
       Completes i (fun s g b => inTx s b ∧ g.acting.length = 1 ∧ ∀ l ∈ g.acting, ∃ (x : Tx) (a : Nat) (own : List (Nat × Byte)), site s b l = some (x, a, own) ∧ own.length = size)
         (fun s g b => s.eachLane g fun u l => match site u b l with
           | some (_, _, own) => pend ((met u.next b l).1.addReq { ask u g b l with
               id := u.fresh + 1, own := own, phase := .done 0 0 0 [] }) b l
           | none => u) .next ∧
       Completes i (fun s g b => inTx s b ∧ g.acting.length = 1 ∧
           ∀ l ∈ g.acting, ∃ (x : Tx) (a : Nat) (own : List (Nat × Byte)), site s b l = some (x, a, own) ∧ own.length ≠ size ∧ room x a = true)
         (fun s g b => s.eachLane g fun u l => match site u b l with
           | some (x, a, own) => pend (((met u.next b l).1.modThread b.id l fun t => { t with tx := some { x with
               reads := if x.reads.any (·.line == a / 64) then x.reads else x.reads ++ [{ line := a / 64, bytes := [] }] } }).addReq
                 { ask u g b l with id := u.fresh + 1, own := own }) b l
           | none => u) .next ∧
       Completes i (fun s g b => inTx s b ∧ g.acting.length = 1 ∧
           ∀ l ∈ g.acting, ∃ (x : Tx) (a : Nat) (own : List (Nat × Byte)), site s b l = some (x, a, own) ∧ own.length ≠ size ∧ room x a = false)
         (fun s g b => s.eachLane g fun u l => (met u.next b l).1.abortTx b.id l 0x00020000#32) .gone)
    load (.ld o z st p d) (ldBytes z.toNat) z.toNat (fun t => t.pair (2 * p.toNat) + BitVec.ofNat 64 (o.toNat * ldBytes z.toNat)) false false ∧
    load (.ldacqW k st p d) 4 4 (fun t => t.ea p 0#6 1) true false ∧
    load (.ldacqD k st p d) 8 5 (fun t => t.ea p 0#6 1) true false ∧
    load (.ldsmpW o st p d) 4 4 (fun t => t.pair (2 * p.toNat) + BitVec.ofNat 64 (o.toNat * 4)) false true

/-- ST and STREL (R147, R159, R160, R244): outside a transaction, each active lane's bytes join the bundle's queue in one entry, with the
address and place; where the stream is monitored they count for the block's monitors at once. Inside one, a lane's bytes join its write set,
and a store that needs a 9th line aborts with 0x0002_0001. -/
def Obligations.StoresJoinTheQueue : Prop :=
  ∀ (o : BitVec 6) (z k : BitVec 3) (st : BitVec 4) (p : BitVec 6) (d : BitVec 7),
    let store : Instr → Nat → (Thread → DWord) → Bool → Prop := fun i size ea rel =>
      Completes i
        (fun s g b => EachActive g b fun t => t.tx = none ∧ s.accessChecks b st.toNat (ea t) size false true = [])
        (fun s g b => s.next.eachLane g fun u l =>
          let a := ea (u.thread b.id l)
          let bs := (u.thread b.id l).storeData d.toNat size
          let w := u.streamWord b st.toNat
          let scope := if rel then some (u.resolveScope b k.toNat st.toNat) else none
          let pl := u.place b st.toNat a bs.length
          let v := u.offend b pl (spaceOf w) a
          let x := if b.counts && calOf w then v.modBlk b fun k => k.countStore v.clk st.toNat (calAddr (spaceOf w) a) bs else v
          x.addReq (x.newReq g b l st.toNat (.store bs scope) pl a bs.length s.fresh)) .next ∧
      (let site : State → Bundle → Nat → Option (Tx × Nat × List TxLine × List Byte) := fun u b l =>
         let bs := (u.thread b.id l).storeData d.toNat size
         match (u.thread b.id l).tx, (u.place b st.toNat (ea (u.thread b.id l)) bs.length).txAddr with
         | some x, some a => some (x, a, txPut x.writes a ((List.range bs.length).map fun j => (j, bs.getD j 0)), bs)
         | _, _ => none
       let inTx : State → Bundle → Prop := fun s b => ∀ (l : Nat) (t : Thread), b.threads[l]? = some t → s.accessChecks b st.toNat (ea t) size false true = []
       let met : State → Bundle → Nat → List Byte → State := fun u b l bs =>
         u.offend b (u.place b st.toNat (ea (u.thread b.id l)) bs.length) (spaceOf (u.streamWord b st.toNat)) (ea (u.thread b.id l))
       Completes i (fun s g b => inTx s b ∧ g.acting.length = 1 ∧ ∀ l ∈ g.acting, ∃ (x : Tx) (a : Nat) (ws : List TxLine) (bs : List Byte), site s b l = some (x, a, ws, bs) ∧
           x.irrevocable = false ∧ ws.length ≤ 8)
         (fun s g b => s.eachLane g fun u l => match site u b l with
           | some (x, _, ws, bs) => (met u.next b l bs).modThread b.id l fun t => { t with tx := some { x with
               writes := ws, streams := distinct (x.streams ++ [st.toNat])
               counted := if b.counts && calOf (u.streamWord b st.toNat) then x.counted ++ [(u.clk, st.toNat, ea (u.thread b.id l), bs)]
                 else x.counted } }
           | none => u) .next ∧
       Completes i (fun s g b => inTx s b ∧ g.acting.length = 1 ∧ ∀ l ∈ g.acting, ∃ (x : Tx) (a : Nat) (ws : List TxLine) (bs : List Byte), site s b l = some (x, a, ws, bs) ∧
           x.irrevocable = false ∧ 8 < ws.length)
         (fun s g b => s.eachLane g fun u l => match site u b l with
           | some (_, _, _, bs) => (met u.next b l bs).abortTx b.id l 0x00020001#32
           | none => u) .gone)
    store (.st o z st p d) (stBytes z.toNat) (fun t => t.pair (2 * p.toNat) + BitVec.ofNat 64 (o.toNat * stBytes z.toNat)) false ∧
    store (.strelW k st p d) 4 (fun t => t.ea p 0#6 1) true ∧
    store (.strelD k st p d) 8 (fun t => t.ea p 0#6 1) true

/-- PFETCH, the fences, STFLUSH and the refetches (R82, R161, R172, R173, R203): once nothing holds a lane back, a prefetch fills a line, a
fence stamps the lane at its scope, or starts the write-back of its bundle's dirty lines and holds the lane, an engine fence also raises
ctime, and a refetch drops the block's held parcels. The model's choices in it: a
prefetch of a line that its home holds back is dropped (log entry 128), and a fence whose mask selects no stream has core scope (130). -/
def Obligations.PrefetchFencesAndRefetches : Prop :=
  ∀ (m : BitVec 16) (k : BitVec 3) (o : BitVec 6) (st : BitVec 4) (p : BitVec 6),
    let stamp : State → Bundle → Nat → State := fun u b l => u.modThread b.id l fun t =>
      if 4 ≤ u.fenceScope b k.toNat m.toNat then { t with stamp := some u.clk } else t
    let drop : State → Group → Bundle → State := fun s _ b => s.modBlk b fun k => { k with icode := [] }
    Completes (.pfetch o st p) (fun _ _ _ => True) (fun s g b => s.eachLane g fun u l =>
      u.prefetch b l st.toNat ((u.thread b.id l).pair (2 * p.toNat) + BitVec.ofNat 64 (o.toNat * 64))) .next ∧
    Completes (.fenceX m) (fun _ _ _ => True) (fun s _ _ => s) .next ∧
    Completes (.fenceAr m k) (fun s _ b => s.stashDirty b = false) (fun s g b => s.eachLane g fun u l => stamp u b l) .next ∧
    Completes (.fenceSc m k) (fun s _ b => s.stashDirty b = false) (fun s g b => s.eachLane g fun u l => stamp u b l) .next ∧
    (∀ i, i = .fenceAr m k ∨ i = .fenceSc m k →
      Completes i (fun s _ b => s.stashDirty b = true ∧ ∀ t ∈ b.threads, t.mid ≠ some .flush) (fun s g b => s.eachLane g fun u l =>
        (u.writeBackFor b).modThread b.id l fun t => { t with mid := some .flush }) .stay) ∧
    Completes (.fenceEng m k) (fun _ _ _ => True) (fun s g b => s.eachLane g fun u l =>
      (u.raiseCtime b.core (u.thread b.id l).engWts).modThread b.id l fun t => t.stampAt (u.fenceScope b k.toNat m.toNat) u.clk) .next ∧
    Completes (.stflush m) (fun s _ b => ∀ k, s.blockOf b = some k → k.anyDirty = false ∧ s.blockWriting k.id = false)
      (fun s _ _ => s) .next ∧
    Completes .refetch (fun _ g _ => g.acting ≠ []) drop .next ∧
    Completes .refetchFence (fun _ g _ => g.acting ≠ []) drop .next

/-- ATOM (R236 to R239): the active lanes that name the same bytes share one request, which carries each lane's operands; every
destination is pending unless the form returns nothing. At the executing place, an array or the line's home, the lanes act on the memory
value in rising order, each receives the value just before its own step, and every other byte stays; the answer writes the old values into
the lanes' destinations. -/
def Obligations.AtomicsSendOneRequestPerPlace : Prop :=
  ∀ (n : BitVec 1) (k : BitVec 3) (st : BitVec 4) (p : BitVec 6) (d : BitVec 7),
    let atom : Instr → Nat → Prop := fun i op =>
      let size := atomSize op
      Completes i (fun s g b => EachActive g b fun t => s.atomChecks g b op k.toNat st.toNat (t.ea p 0#6 1) = [])
        (fun s g b =>
          let ea : Nat → DWord := fun l => (s.thread b.id l).ea p 0#6 1
          let pl : Nat → Place := fun l => s.place b st.toNat (ea l) size
          let v := s.next.eachLane g fun u l => u.offend b (u.place b st.toNat (ea l) size) (spaceOf (u.streamWord b st.toNat)) (ea l)
          let w := (groupPlaces (g.acting.map fun l => (l, pl l))).foldl (fun (u : State) x =>
            let l := x.2.headD 0
            let lanes := x.2.map fun l => (u.thread b.id l).atomLane op d.toNat l
            let r := u.newReq g b l st.toNat (.atom op (n == 1#1) d.toNat (s.resolveScope b k.toNat st.toNat) lanes) x.1 (ea l) size s.fresh
            u.addReq { r with also := x.2.drop 1 }) v
          if n == 1#1 then w
          else w.eachLane g fun u l => u.modThread b.id l fun t => t.marks d.toNat .pending (if op = 15 then 2 else 1)) .next
    atom (.atomAdd n k st p d) 0 ∧ atom (.atomMinI32 n k st p d) 1 ∧ atom (.atomMaxI32 n k st p d) 2 ∧
    atom (.atomMinZ32 n k st p d) 3 ∧ atom (.atomMaxZ32 n k st p d) 4 ∧ atom (.atomAnd n k st p d) 5 ∧
    atom (.atomOr n k st p d) 6 ∧ atom (.atomXor n k st p d) 7 ∧ atom (.atomExch n k st p d) 8 ∧ atom (.atomCas n k st p d) 9 ∧
    atom (.atomIncw n k st p d) 10 ∧ atom (.atomDecw n k st p d) 11 ∧ atom (.atomFaddF32 n k st p d) 12 ∧
    atom (.atomFminF32 n k st p d) 13 ∧ atom (.atomFmaxF32 n k st p d) 14 ∧ atom (.atomAddD n k st p d) 15 ∧
    (let F : FMode := { rm := .rne, flush := false, canon := true }
     let word : Nat → Word → Word → Word → Word := fun op m v w =>
       match op with
       | 0 => m + v
       | 1 => if m.toInt ≤ v.toInt then m else v
       | 2 => if v.toInt ≤ m.toInt then m else v
       | 3 => if m.toNat ≤ v.toNat then m else v
       | 4 => if v.toNat ≤ m.toNat then m else v
       | 5 => m &&& v
       | 6 => m ||| v
       | 7 => m ^^^ v
       | 8 => v
       | 9 => if m = v then w else m
       | 10 => if v.toNat ≤ m.toNat then 0 else m + 1
       | 11 => if m = 0 ∨ v.toNat < m.toNat then v else m - 1
       | 12 => BitVec.ofNat 32 (f32.add F m.toNat v.toNat).1
       | 13 => BitVec.ofNat 32 (f32.pick F false m.toNat v.toNat).1
       | _ => BitVec.ofNat 32 (f32.pick F true m.toNat v.toNat).1
     let stepBy : Nat → DWord → AtomLane → DWord := fun op m x =>
       if op = 15 then m + x.v else (word op (m.extractLsb' 0 32) (x.v.extractLsb' 0 32) x.v2).zeroExtend 64
     let memory : List Byte → DWord := fun bs => BitVec.ofNat 64 (leNat bs)
     ∀ (s : State) (r : Req) (op dst sc : Nat) (q : Bool) (ls : List AtomLane), Sole s r → r.kind = .atom op q dst sc ls → op < 16 →
       r.size = (if op = 15 then 8 else 4) → (r.phase = .issued ∨ r.phase = .sent) →
       (∀ pa, r.place = .mem pa → 2 ≤ sc → pa % 64 + r.size ≤ 64 → s.mem.wf = true → s.lineHeld (pa / 64) (r.bundle, r.lane) true = false →
         ∃ (t : State) (u : Req) (w : Nat) (lapse : Nat × Nat) (new : List Word), exec (.homeStoreArrival r.id) s = .next t ∧ t.reqs = [u] ∧ u.phase = .done w lapse.1 lapse.2 new ∧
           (∃ xs, u.kind = .atom op q dst sc xs ∧ xs.map (·.old) =
             (List.range ls.length).map fun j => (ls.take j).foldl (stepBy op) (memory (readBytes s.mem pa r.size))) ∧
           readBytes t.mem pa r.size = leBytes r.size (ls.foldl (stepBy op) (memory (readBytes s.mem pa r.size))).toNat ∧
           ∀ a, a < pa ∨ pa + r.size ≤ a → readByte t.mem a = readByte s.mem a) ∧
       (∀ k off y, r.place = .spad k off → s.block? k = some y → y.spad.wf = true →
         ∃ t u z, exec (.storeQueueDrain r.id) s = .next t ∧ t.reqs = [u] ∧ t.mem = s.mem ∧ t.block? k = some z ∧
           (∃ xs, u.kind = .atom op q dst sc xs ∧ xs.map (·.old) =
             (List.range ls.length).map fun j => (ls.take j).foldl (stepBy op) (memory (readBytes y.spad off r.size))) ∧
           readBytes z.spad off r.size = leBytes r.size (ls.foldl (stepBy op) (memory (readBytes y.spad off r.size))).toNat ∧
           ∀ a, a < off ∨ off + r.size ≤ a → readByte z.spad a = readByte y.spad a) ∧
       (∀ w x y new pa b, q = false → r.phase = .done w x y new → r.place = .mem pa → homeDie pa = dieOf r.core → s.bundle? r.bundle = some b →
         (ls.map (·.lane)).Nodup → exec (.lateResultArrival r.id) s = .next (s.finishAtom r op q dst ls) ∧
         ∀ z ∈ ls, ∀ t, b.threads[z.lane]? = some t → t.life = .live → ((s.finishAtom r op q dst ls).thread r.bundle z.lane).regs =
           (if op = 15 then t.writePair dst z.old else t.write dst (z.old.extractLsb' 0 32)).regs))

/-- TXB, TXE and TXA (R243, R246, R248, R249): under the abort limit TXB opens a revocable transaction that resumes after it and writes 0; at
or over it, the lane that holds its die's turn token opens an irrevocable one and writes 1, and another joins the token's queue and is held;
while a stash line of the bundle is dirty its write-back starts and the lane is held (R172). TXE starts the commits of its lanes, but a
lane in a revocable transaction whose write set shares a line with a set of a lower lane aborts with 0x0001_0001 (the model's choice
of lane, log entry 39); TXA aborts with status 3 and its immediate. -/
def Obligations.TransactionsOpenCommitAndAbort : Prop :=
  ∀ (d imm : BitVec 7),
    Completes (.txb d) (fun s g b => s.stashDirty b = false ∧
        EachActive g b fun t => t.aborts < ((s.blockOf b).map (·.txlim)).getD 8)
      (fun s g b => s.eachLane g fun u l => u.modThread b.id l fun t => { ((t.write d.toNat 0).stampAt 4 u.clk) with
        tx := some { resume := g.nextPc, reg := d.toNat, irrevocable := false } }) .next ∧
    (let limit : State → Bundle → Nat := fun s b => ((s.blockOf b).map (·.txlim)).getD 8
     let turn : State → Bundle → Nat → Prop := fun s b l => (s.die (dieOf b.core)).turn = some (b.id, l)
     Completes (.txb d) (fun s g b => s.stashDirty b = false ∧ (EachActive g b fun t => limit s b ≤ t.aborts) ∧ ∀ l ∈ g.acting, turn s b l)
       (fun s g b => s.eachLane g fun u l => u.modThread b.id l fun t => { ((t.write d.toNat 1).stampAt 4 u.clk) with
         tx := some { resume := g.nextPc, reg := d.toNat, irrevocable := true } }) .next ∧
     Completes (.txb d) (fun s g b => s.stashDirty b = false ∧ (EachActive g b fun t => limit s b ≤ t.aborts) ∧
         ∀ l ∈ g.acting, ¬turn s b l ∧ (b.id, l) ∉ (s.die (dieOf b.core)).turnQueue)
       (fun s g b => s.eachLane g fun u l => u.modDie (dieOf b.core) fun x => { x with turnQueue := x.turnQueue ++ [(b.id, l)] }) .stay ∧
     Completes (.txb d) (fun s _ b => s.stashDirty b = true ∧ ∀ t ∈ b.threads, t.mid ≠ some .flush) (fun s g b => s.eachLane g fun u l =>
       (u.writeBackFor b).modThread b.id l fun t => { t with mid := some .flush }) .stay) ∧
    (∀ s g b, Meets s g b .txe → (EachActive g b fun t => t.tx.isSome = true) →
      let loses : Nat → Bool := fun l => match (s.thread b.id l).tx with
        | some x => !x.irrevocable && g.acting.any fun m => decide (m < l) && match (s.thread b.id m).tx with
          | some y => x.writes.any fun w => y.reads.any (·.line == w.line) || y.writes.any (·.line == w.line)
          | none => false
        | none => false
      exec .txe s = .next ((s.taken.eachLane g fun u l =>
        if loses l = true then u.abortTx b.id l 0x00010001#32
        else u.modThread b.id l fun t => { t with mid := some .commit, tx := t.tx.map fun x => { x with commit := some none } }).endsWith g
          fun l => if l ∈ g.active then (if loses l = true then .gone else .stay) else .next)) ∧
    Completes (.txa imm) (fun _ g b => EachActive g b (fun t => t.tx.isSome = true))
      (fun s g b => s.eachLane g fun u l => u.abortTx b.id l (BitVec.ofNat 32 (0x00030000 + imm.toNat))) .gone

/-- FPUT, FPUTT and FGET (R253 to R255): each active lane sends its operation to the future's home, its destination is
pending, and it is held until the answer. -/
def Obligations.FutureOperationsAwaitTheirAnswer : Prop :=
  ∀ (a b' d : BitVec 7),
    let future : Instr → Nat → (Thread → Word) → Prop := fun i sub v =>
      Completes i (fun s g b => EachActive g b fun t => s.globalChecks b 0 (t.pair a.toNat) 8 true true 8 = [])
        (fun s g b => s.eachLane g fun u l =>
          let t := u.thread b.id l
          let r := u.newReq g b l 0 (.future sub d.toNat (v t)) (u.globalPlace b 0 (t.pair a.toNat)) (t.pair a.toNat) 8 u.fresh
          (u.addReq { r with old := t.reg d.toNat }).modThread b.id l fun t => { (t.mark d.toNat .pending) with
            mid := some (.answer u.fresh) }) .stay
    future (.fput b' a d) 3 (fun t => t.val b'.toNat) ∧ future (.fputt b' a d) 4 (fun t => t.val b'.toNat) ∧
    future (.fget a d) 5 (fun _ => 0)

/-- CALLO, OBJREG, OBJRST and CRPLY (R258 to R265): a call sends four argument words and marks five registers pending; registering and
resetting mark one; a reply is recorded in its lane, once. -/
def Obligations.ObjectInstructionsSendRequests : Prop :=
  ∀ (imm b' a d : BitVec 7),
    let sound : State → Group → Bundle → Prop := fun s g b =>
      EachActive g b fun t => s.globalChecks b 0 (t.pair a.toNat) 64 true true 64 = []
    let send : State → Group → Bundle → Nat → Nat → ReqKind → Nat → State := fun u g b l n kind entry =>
      let ea := (u.thread b.id l).pair a.toNat
      let v := u.modThread b.id l fun t => t.marks d.toNat .pending n
      v.addReq (u.newReq g b l 0 kind (u.globalPlace b 0 ea) ea 64 entry)
    Completes (.callo b' a d) sound (fun s g b => s.next.eachLane g fun u l =>
      send u g b l 5 (.call d.toNat ((u.thread b.id l).vals b'.toNat 4)) s.fresh) .next ∧
    Completes (.objreg a d) sound (fun s g b => s.eachLane g fun u l => send u g b l 1 (.object false d.toNat) u.fresh) .next ∧
    Completes (.objrst a d) sound (fun s g b => s.eachLane g fun u l => send u g b l 1 (.object true d.toNat) u.fresh) .next ∧
    Completes (.crply imm a) (fun s g b => EachActive g b fun t => ∀ o, s.waveObj b = some o →
        t.reply = none ∧ t.srcTrap { reg := a.toNat, n := o.replies } = none)
      (fun s g b => s.eachLane g fun u l => u.modThread b.id l fun t => { t with
        reply := some (imm.toNat, t.vals a.toNat (((u.waveObj b).map (·.replies)).getD 0)) }) .next

/-! Blocks, barriers, buffers and resources. -/

/-- Barriers and waits (R180, R183 to R186, R291, R296): each active lane of BAR.ARR, BAR.SYNC and BAR.CHK arrives once on the running
network, and SYNC and CHK are then held until the phase; ADDB adds each lane's value to the pending count, which stays within 32 bits;
BAR.WAIT, ACWAIT and MWAIT change nothing once their lanes are past the wait, and PWAIT raises the core's ctime to its lane's engine writes. -/
def Obligations.BarriersCountAndWaitsEnd : Prop :=
  ∀ (n q t : BitVec 3) (z : BitVec 4) (a : BitVec 7),
    let net := if n.toNat ≤ 1 then 0 else n.toNat
    let open_ : State → Group → Bundle → Prop := fun s _ b => ∃ k, s.blockOf b = some k ∧
      ((k.bars.getD q.toNat {}).arrivals = [] ∨ (k.bars.getD q.toNat {}).network = some net) ∧
      (3 ≤ net → s.countDiffers k net q.toNat = false)
    let arrive : Bool → State → Bundle → Nat → State := fun chk u b l =>
      let r := u.bar b q.toNat
      let v := u.modBlk b fun k => { k with bars := k.bars.set q.toNat { r with
        arrivals := r.arrivals ++ [(b.index, l)], network := some net, checking := r.checking || chk
        checkers := if chk then r.checkers ++ [(b.index, l)] else r.checkers } }
      v.modThread b.id l fun t => { t with
        arrived := t.arrived.set q.toNat (some r.phase), arrivedOp := t.arrivedOp.set q.toNat u.fresh }
    let held : Bool → State → Bundle → Nat → State := fun chk u b l =>
      (arrive chk u b l).modThread b.id l fun t => { t with mid := some (.barWait (BitVec.ofNat 7 (8 * n.toNat + q.toNat)) chk) }
    let value : State → Bundle → Nat → Nat := fun u b l => ((u.thread b.id l).val a.toNat).toNat
    Completes (.barArr n q) open_ (fun s g b => s.eachLane g (arrive false · b ·)) .next ∧
    Completes (.barSync n q) open_ (fun s g b => s.eachLane g (held false · b ·)) .stay ∧
    Completes (.barChk n q) open_ (fun s g b => s.eachLane g (held true · b ·)) .stay ∧
    Completes (.barAddb n q a) (fun s g b => (s.bar b q.toNat).pending + (g.acting.map (value s b)).sum < 2 ^ 32)
      (fun s g b => s.eachLane g fun u l => u.modBlk b fun k => { k with
        bars := k.bars.modify q.toNat fun r => { r with pending := (u.bar b q.toNat).pending + value u b l } }) .next ∧
    let named : State → Group → Bundle → Prop := fun s _ b => z = 15#4 ∨ z.toNat < (s.core b.core).slots.length
    Completes (.barWait n q) (fun _ _ _ => True) (fun s _ _ => s) .next ∧
    Completes (.acwait t) (fun _ _ _ => True) (fun s _ _ => s) .next ∧
    Completes (.mwait z) named (fun s _ _ => s) .next ∧
    Completes (.pwait z) named (fun s g b => s.eachLane g fun u l => u.raiseCtime b.core (u.thread b.id l).engWts) .next

/-- CBPUSH, CBCMT, CBWAIT and CBPOP (R176, R177): a group's operation moves one slot on in the buffer its name stands for; PUSH and WAIT return
the slot's offset to every active lane. -/
def Obligations.BuffersMoveOneSlotOn : Prop :=
  ∀ (q : BitVec 3) (d : BitVec 7),
    let names : (Buf → Prop) → State → Group → Bundle → Prop := fun P s g b => g.acting ≠ [] ∧ ∃ hk hq u,
      (s.blockOf b).bind (s.bufRef · q.toNat) = some (hk, hq, u) ∧ P u
    let move : (Buf → Buf) → State → Bundle → State := fun f s b => match (s.blockOf b).bind (s.bufRef · q.toNat) with
      | some (hk, hq, _) => s.modBuf hk hq f
      | none => s
    let give : (Buf → Nat) → State → State → Group → Bundle → State := fun off s v g b =>
      match (s.blockOf b).bind (s.bufRef · q.toNat) with
      | some (_, _, u) => v.eachLane g fun w l => w.modThread b.id l fun t => t.write d.toNat (BitVec.ofNat 32 (off u))
      | none => v
    Completes (.cbpush q d) (names fun u => u.free ≠ 0) (fun s g b => give (fun u => u.base + u.reserve * u.size) s
      (move (fun u => { u with free := u.free - 1, reserved := u.reserved + 1, reserve := (u.reserve + 1) % u.count }) s b) g b) .next ∧
    Completes (.cbcmt q) (names fun u => u.reserved ≠ 0) (fun s _ b =>
      move (fun u => { u with reserved := u.reserved - 1, filled := u.filled + 1 }) s b) .next ∧
    Completes (.cbwait q d) (names fun u => u.filled ≠ 0) (fun s g b => give (fun u => u.base + u.claim * u.size) s
      (move (fun u => { u with filled := u.filled - 1, claimed := u.claimed + 1, claim := (u.claim + 1) % u.count }) s b) g b) .next ∧
    Completes (.cbpop q) (names fun u => u.claimed ≠ 0) (fun s _ b =>
      move (fun u => { u with claimed := u.claimed - 1, free := u.free + 1, release := (u.release + 1) % u.count }) s b) .next

/-- EXIT, CONT, YIELD, SETPRG and SETSTRM (R72, R73, R143, R337, R381): a lane ends; a lane ends and leaves its block's continuation; the
lanes yield to the ready bundles of their pipe; the highest active lane's value becomes the block's progress, at most 1000, or its
stream word, where the stream has nothing under way. -/
def Obligations.ThreadAndBlockControl : Prop :=
  ∀ (n : BitVec 4) (a : BitVec 7),
    Completes .exit (fun _ _ b => b.isHandler = false) (fun s g b => s.eachLane g fun u l => u.exitLane b.id l) .gone ∧
    Completes .exit (fun _ _ b => b.isHandler = true) (fun s g b => s.eachLane g fun u l => u.kill b.id l) .gone ∧
    Completes (.cont a) (fun _ _ _ => True) (fun s g b => s.eachLane g fun u l =>
      (u.modBlk b fun k => { k with cont := some ((u.thread b.id l).pair a.toNat) }).exitLane b.id l) .gone ∧
    Completes .yield (fun _ _ _ => True) (fun s g b => s.eachLane g fun u l => u.modThread g.bundle l fun t => { t with
      yield := if (s.readyNeighbours b).isEmpty then none else some { until_ := u.clk + 64, others := s.readyNeighbours b } }) .next ∧
    Completes (.setprg a) (fun _ g _ => g.acting ≠ []) (fun s g b => s.modBlk b fun k => { k with
      override := some (min ((s.thread b.id (highest g.acting)).val a.toNat).toNat 1000) }) .next ∧
    Completes (.setstrm n a) (fun s g b => g.acting ≠ [] ∧ s.streamBusy b n.toNat = false ∧
        (∀ k, s.blockOf b = some k → k.drains.find? (·.1 == n.toNat) = none) ∧ EachActive g b fun t => streamWordOk (t.val a.toNat) = true)
      (fun s g b => s.modBlk b fun k => { k with
        streams := k.streams.set n.toNat ((s.thread b.id (highest g.acting)).val a.toNat)
        drains := k.drains.filter fun x => !(x.1 == n.toNat) }) .next

/-- REGROW, REGSHR, WREC and PWENQ (R87 to R89, R384, R409): a request for registers, at most 128, holds its lanes and is settled where all the
block's threads have asked (in a handler or combiner thread it traps ILLEGAL on each active lane); a record goes to an installed node; an enqueue goes to its target and marks d pending. -/
def Obligations.RegisterRecordAndEnqueueRequests : Prop :=
  ∀ (imm b' a d : BitVec 7),
    let ask : Instr → Bool → Prop := fun i shed => ∀ s g b, Meets s g b i → 8 * imm.toNat ≤ 128 →
      let t := if (b.isHandler || b.isWave) = true then s.taken.endAll g (.trap { cause := 3, detail := Config.illegalDetail g.word })
        else (s.taken.eachLane g fun u l => u.modThread g.bundle l fun t => { t with
          mid := some (.request shed (8 * imm.toNat)) }).endAll g .stay
      exec i s = .next (match (t.bundle? g.bundle).bind t.blockOf with
        | some k => t.settleRequest k
        | none => t)
    ask (.regrow imm) false ∧ ask (.regshr imm) true ∧
    Completes (.wrec b' a) (fun s g b => EachActive g b fun t => (s.wnodeAt (dieOf b.core) (t.val b'.toNat)).isSome = true)
      (fun s g b => s.next.eachLane g fun u l =>
        let w := (u.thread b.id l).val b'.toNat
        let n := ((u.wnodeAt (dieOf b.core) w).map (·.words)).getD 0
        u.addReq (u.newReq g b l 0 (.wrec (dieOf b.core) w.toNat ((u.thread b.id l).vals a.toNat n)) .nowhere 0 0 s.fresh)) .next ∧
    Completes (.pwenq a d) (fun s g b => EachActive g b fun t => enqueueChecks a s g b 0 t = [])
      (fun s g b => s.eachLane g fun u l =>
        let ea := (u.thread b.id l).pair a.toNat
        (u.modThread b.id l fun t => t.mark d.toNat .pending).addReq
          (u.newReq g b l 0 (.pwenq d.toNat (u.localBytes b l ea.toNat 64) [] []) .nowhere ea 64 u.fresh)) .next

/-- The lane collectives, RCV and MFRAG (R75 to R77, R279, R280): every lane of the group arrives with its operands, the destinations of the
active ones pending, and the bundle runs the instruction where all its live lanes have arrived; a lane that its bundle released at an RCV
while it was parked passes that RCV alone (log entry 127). At release each active lane is owed its result, from the values that all active
lanes then hold: another lane's a, or its own; the mask of those not zero; their sum, the sum up to its own, their signed minimum; of MFRAG,
where the format words agree, its eight accumulators with the products of its row and columns added. -/
def Obligations.CollectivesArriveAndConverge : Prop :=
  ∀ (x y : BitVec 1) (c : BitVec 5) (b' a d : BitVec 7),
    let arrive : Instr → Prop := fun i => ∀ s g b, Meets s g b i →
      let off := g.lanes.filter fun l => !(g.active.contains l)
      let alone : Nat → Bool := fun l => i == .rcv && (b.threads.getD l {}).missed.contains g.start
      let v := (g.acting ++ off).foldl (fun u l => u.modThread g.bundle l fun t =>
        if alone l then { t with missed := t.missed.erase g.start } else t.arrive g i (g.acting.contains l)) s.taken
      exec i s = .next ((v.endsWith g fun l => if alone l then .next else .stay).converge g.bundle)
    let standing : State → Nat → Bundle → Instr → List Nat → Prop := fun s bid b i act =>
      s.bundle? bid = some b ∧ s.notStepping bid ∧ s.issues b = true ∧ act ≠ [] ∧
      (∃ pc, ∀ l, (b.threads.getD l {}).live = true → l < b.threads.length → ∃ z, (b.threads.getD l {}).conv = some z ∧ z.pc = pc ∧ z.instr = i) ∧
      act = (List.range b.threads.length).filter fun l =>
        (b.threads.getD l {}).live && ((b.threads.getD l {}).conv.map (·.active)).getD false
    let owed : State → Nat → Bool → List Nat → (Nat → List Word) → Prop := fun s bid m act value =>
      ∃ v z, (s.converge bid).bundle? bid = some v ∧ z ∈ v.results ∧ z.id = s.fresh ∧ z.mfrag = m ∧
        ∀ l ∈ act, ∃ w ∈ z.shares, w.lane = l ∧ w.dst = d.toNat ∧ w.new = value l
    let collects : Instr → ((Nat → Word) → (Nat → Word) → List Nat → Nat → Word) → Prop := fun i f => ∀ s bid b act,
      standing s bid b i act → d ≠ 0 → owed s bid false act fun l =>
        [f (fun k => (b.threads.getD k {}).val a.toNat) (fun k => (b.threads.getD k {}).val b'.toNat) act l]
    let get : (Nat → Word) → List Nat → Nat → Int → Word := fun A act l src => if src.toNat ∈ act ∧ 0 ≤ src ∧ src ≤ 31 then A src.toNat else A l
    let n : (Nat → Word) → Nat → Nat := fun B l => (B l).toNat % 32
    arrive .rcv ∧ arrive (.lgetIdx x y b' a d) ∧ arrive (.lgetUp x y b' a d) ∧ arrive (.lgetDn x y b' a d) ∧
    arrive (.lgetXor x y b' a d) ∧ arrive (.ballot y a d) ∧ arrive (.redAddI32 y a d) ∧ arrive (.scanAddI32 y a d) ∧
    arrive (.redMinI32 y a d) ∧ arrive (.mfrag c b' a d) ∧
    collects (.lgetIdx x y b' a d) (fun A B act l => get A act l (n B l)) ∧
    collects (.lgetUp x y b' a d) (fun A B act l => get A act l ((l : Int) - n B l)) ∧
    collects (.lgetDn x y b' a d) (fun A B act l => get A act l ((l : Int) + n B l)) ∧
    collects (.lgetXor x y b' a d) (fun A B act l => get A act l ((l ^^^ n B l : Nat) : Int)) ∧
    collects (.ballot y a d) (fun A _ act _ => BitVec.ofNat 32 ((act.filter fun k => A k != 0).map (2 ^ ·)).sum) ∧
    collects (.redAddI32 y a d) (fun A _ act _ => BitVec.ofNat 32 (act.map fun k => (A k).toNat).sum) ∧
    collects (.scanAddI32 y a d) (fun A _ act l => BitVec.ofNat 32 ((act.filter (· ≤ l)).map fun k => (A k).toNat).sum) ∧
    (∀ s bid b act, standing s bid b (.redMinI32 y a d) act → d ≠ 0 → ∃ low : Word,
      owed s bid false act (fun _ => [low]) ∧ (∃ k ∈ act, (b.threads.getD k {}).val a.toNat = low) ∧
      ∀ k ∈ act, low.toInt ≤ ((b.threads.getD k {}).val a.toNat).toInt) ∧
    (∀ s bid b act f K, standing s bid b (.mfrag c b' a d) act → (∀ l ∈ act, (b.threads.getD l {}).val c.toNat = f) → mfragK f = some K →
      let elems : Nat → Nat → Nat → Nat → Nat := fun r w l e => if l ∈ act then
        ((b.threads.getD l {}).val (r + e / (32 / w))).toNat / 2 ^ (w * (e % (32 / w))) % 2 ^ w else 0
      let A : Nat → Nat → Nat := fun r k => elems a.toNat (typeBits (fmtA f)) (r + 16 * (k / (K / 2))) (k % (K / 2))
      let B : Nat → Nat → Nat := fun col k => elems b'.toNat (typeBits (fmtB f)) (col + 16 * (k / (K / 2))) (k % (K / 2))
      owed s bid true act fun l => (List.range 8).map fun j =>
        let t := b.threads.getD l {}
        let r := l % 16
        let col := 8 * (l / 16) + j
        if fmtAcc f = 4 then t.val (d.toNat + j) + BitVec.ofInt 32
          (((List.range K).map fun k => readInt (fmtA f) (A r k) * readInt (fmtB f) (B col k)).foldl (· + ·) 0)
        else BitVec.ofNat 32 (f32.dot t.mode.canon (f32.value false (t.val (d.toNat + j)).toNat) ((List.range K).map fun k =>
          ((fmtOf (fmtA f)).value false (A r k), (fmtOf (fmtB f)).value false (B col k)))).1)

/-! Engines. -/

/-- ACP and ACB (R179, R182): a copy into the scratchpad joins the copies with its bytes, offset and tag, counts on the tag and, where it
asks, on barrier 0; a buffer copy joins the queue of at most 16, and one of no bytes does nothing. -/
def Obligations.CopiesJoinTheirQueues : Prop :=
  ∀ (bb : BitVec 1) (st : BitVec 4) (tg q : BitVec 3) (v : BitVec 5) (p : BitVec 6) (o a : BitVec 7),
    Completes (.acp bb st tg v p o) (fun s g b =>
        (bb = 1#1 → s.pending0 b + 32 * g.acting.length < 2 ^ 32) ∧
        EachActive g b fun x => s.copyChecks b st.toNat (x.pair (2 * p.toNat)) (min (x.val v.toNat).toNat 32) = [] ∧
          (x.val o.toNat).toNat % 32 = 0)
      (fun s g b => s.eachLane g fun u l =>
        let x := u.thread b.id l
        let ga := x.pair (2 * p.toNat)
        let w := if bb == 1#1 then u.modPending0 b (· + 32) else u
        let pl := w.globalPlace b st.toNat ga
        let c : CopyCmd := { id := w.fresh, block := ((w.blockOf b).map (·.id)).getD 0, bundle := b.id, lane := l, stream := st.toNat
                             pc := g.start, valid := min (x.val v.toNat).toNat 32, off := (x.val o.toNat).toNat, tag := tg.toNat
                             b := bb == 1#1, ea := ga
                             src := match pl with
                               | .mem pa => pa
                               | .peer _ va => va
                               | _ => 0
                             peer := match pl with
                               | .peer k _ => some k
                               | _ => none }
        ({ (w.modThread b.id l fun t => t.modTag tg.toNat (· + 1)) with copies := w.copies ++ [c] } : State).next) .next ∧
    Completes (.acb q a) (fun s g b => s.acbCount b.core + g.acting.length ≤ 16 ∧ EachActive g b fun t =>
        ((t.vals a.toNat 4).getD 3 0).toNat / 256 = 0 ∧
        s.copyChecks b (bits ((t.vals a.toNat 4).getD 3 0).toNat 3 0) (t.pair a.toNat) ((t.vals a.toNat 4).getD 2 0).toNat = [])
      (fun s g b => s.eachLane g fun u l =>
        let t := u.thread b.id l
        let ws := t.vals a.toNat 4
        let w := (ws.getD 3 0).toNat
        let c : AcbCmd := { id := u.fresh, block := ((u.blockOf b).map (·.id)).getD 0, bundle := b.id, lane := l
                            stream := bits w 3 0, pc := g.start, src := (t.pair a.toNat).toNat, left := (ws.getD 2 0).toNat
                            buf := q.toNat, tag := bits w 6 4, b := bit w 7, desc := ws }
        if (ws.getD 2 0).toNat = 0 then u
        else ({ (u.modThread b.id l fun t => t.modTag c.tag (· + 1)) with acbs := u.acbs ++ [c] } : State).next) .next

/-- MTILE, MSPT, MRING and PART (R281, R283, R292, R294, R305): the group's tile commands ask for their tokens together and hold their lanes; a ring is
set with its slots empty; a parameterised drain joins the core's queue of at most 16 with the slot's shape. -/
def Obligations.TileCommandsAreQueued : Prop :=
  ∀ (z : BitVec 2) (a : BitVec 7),
    let tile : Instr → Bool → Prop := fun i sparse =>
      Completes i (fun s g b => EachActive g b fun t => tileChecks sparse a s g b 0 t = [])
        (fun s g b => s.next.eachLane g fun u l =>
          let t := u.thread b.id l
          let ws := t.vals a.toNat 8
          let x : Tile := { id := u.fresh, block := ((u.blockOf b).map (·.id)).getD 0, bundle := b.id, lane := l, core := b.core
                            pc := g.start, sparse := sparse, words := ws
                            descA := (t.val (tileReg ws false), t.val (tileReg ws false + 1))
                            descB := (t.val (tileReg ws true), t.val (tileReg ws true + 1))
                            cost := tileCost ws, order := s.fresh, threshold := ((u.blockOf b).map (·.carvth)).getD 40
                            pa := ((u.globalPlace b 0 (tileIdentity ws)).txAddr).getD 0 }
          let v := u.modDie (dieOf b.core) fun d => { d with tokenQueue := d.tokenQueue ++ [x.id] }
          ({ (v.modThread b.id l fun t => { t with mid := some (.tile x.id) }) with tiles := v.tiles ++ [x] } : State).next) .stay
    tile (.mtile a) false ∧ tile (.mspt a) true ∧
    (∀ k, Completes (.mring z) (fun _ g b => g.acting ≠ [] ∧ b.owner = .block k) (fun s _ b => s.modCore b.core fun c => { c with
      ringHolder := some k, slotCode := z.toNat, slots := List.replicate (8 / 2 ^ z.toNat) none, head := 0 }) .next) ∧
    Completes (.part a) (fun s g b => (s.parts.filter (·.core == b.core)).length + g.acting.length ≤ 16 ∧
        EachActive g b fun t => partChecks a s g b 0 t = [])
      (fun s g b => s.eachLane g fun u l =>
        let ws := (u.thread b.id l).vals a.toNat 8
        match u.partShape b ws with
        | none => u
        | some (i, rows, n, acc) =>
          ({ u with parts := u.parts ++ [{ id := u.fresh, block := (b.owner.block?).getD 0, bundle := b.id, lane := l, core := b.core
                                           pc := g.start, words := ws, slot := i, order := u.fresh, shape := (rows, n, acc) }] } : State).next)
      .next

/-- CALCFG, CALREF, CALBND, CALRD and MTOK (R299, R345 to R348, R356): the highest active lane's descriptor configures the block's monitor, or
removes it at length 0; its pairs become a monitor's reference and bound; CALRD and MTOK read a monitor and the die's tokens. -/
def Obligations.MonitorsAreSetAndRead : Prop :=
  ∀ (v : BitVec 3) (k : BitVec 2) (a d : BitVec 7),
    let mon : State → Bundle → Option Monitor := fun s b => (s.blockOf b).bind fun x => x.mons.getD k.toNat none
    let words : State → Group → List Word := fun s g => (s.thread g.bundle (highest g.acting)).vals a.toNat 4
    let value : State → Group → DWord := fun s g => (s.thread g.bundle (highest g.acting)).pair a.toNat
    Completes (.calcfg k a) (fun s g b => g.acting ≠ [] ∧ calLen (words s g) ≠ 0 ∧ calBad (words s g) = none ∧
        ((mon s b).isSome = true ∨ s.enginesUsed b.core < 16))
      (fun s g b => s.modBlk b fun x => { x with
        mons := x.mons.set k.toNat (some (calMonitor (words s g) (x.mons.getD k.toNat none) s.clk)) }) .next ∧
    Completes (.calcfg k a) (fun s g _ => g.acting ≠ [] ∧ calLen (words s g) = 0)
      (fun s _ b => s.modBlk b fun x => { x with mons := x.mons.set k.toNat none }) .next ∧
    Completes (.calref k a) (fun s g b => g.acting ≠ [] ∧ (mon s b).isSome = true)
      (fun s g b => s.modBlk b fun x => { x with
        mons := x.mons.set k.toNat ((x.mons.getD k.toNat none).map fun m => { m with ref := value s g }) }) .next ∧
    Completes (.calbnd k a) (fun s g b => g.acting ≠ [] ∧ (mon s b).isSome = true)
      (fun s g b => s.modBlk b fun x => { x with
        mons := x.mons.set k.toNat ((x.mons.getD k.toNat none).map fun m => { m with bound := value s g }) }) .next ∧
    Completes (.calrd v k d) (fun _ _ _ => True) (fun s g b => s.eachLane g fun u l => u.modThread g.bundle l fun t =>
      t.writePair d.toNat (calRead (mon u b) v.toNat)) .next ∧
    Completes (.mtok d) (fun _ _ _ => True) (fun s g b => s.eachLane g fun u l => u.modThread b.id l fun t =>
      t.write d.toNat (BitVec.ofNat 32 ((u.die (dieOf b.core)).pool % 65536 * 65536 +
        ((u.die (dieOf b.core)).free % 65536).toNat))) .next

/-- CARVINV, STMAP and STUNMAP (R169, R170, R314): the named tile's finished programs are dropped and its compiles restart; a map request
carries its four words; a map through which no access goes and with nothing to write back is removed. -/
def Obligations.TilesAndStashMapsAreManaged : Prop :=
  ∀ (a d : BitVec 7),
    Completes (.carvinv a) (fun s g b => EachActive g b fun t => s.globalChecks b 0 (t.pair a.toNat) 704 true false 64 = [])
      (fun s g b => s.eachLane g fun u l => match (u.globalPlace b 0 ((u.thread b.id l).pair a.toNat)).txAddr with
        | some pa => { u with carver := u.carver.filterMap fun e =>
            if e.pa ≠ pa then some e else if e.compiling then some { e with restarts := e.restarts + 1 } else none }
        | none => u) .next ∧
    Completes (.stmap a d) (fun _ _ _ => True) (fun s g b => s.eachLane g fun u l =>
      (u.modThread b.id l fun t => t.mark d.toNat .pending).addReq
        (u.newReq g b l 0 (.stmap d.toNat ((u.thread b.id l).vals a.toNat 4)) .nowhere 0 0 u.fresh)) .next ∧
    Completes (.stunmap a) (fun s _ b => ∀ k, s.blockOf b = some k → ∀ m ∈ k.maps, (∀ x ∈ m.lines, x.state ≠ .dirty) ∧
        ∀ r ∈ s.reqs, r.viaMap k.id m.id = false ∧ ∀ x y z w, r.kind ≠ .writeback k.id m.id x y z w)
      (fun s g b => s.eachLane g fun u l =>
        match (u.blockOf b).bind fun k => (k.mapAt ((u.thread b.id l).pair a.toNat).toNat).map fun m => (k, m) with
        | none => u
        | some (k, m) => u.modBlock k.id fun x => { x with maps := x.maps.filter fun y => !(y.id == m.id) }) .next

/-- NODE.RD, NODE.IN, NODE.UP and NODE.DN (R226 to R229): a field of the node is read; an input request names the box and the word of
this sweep; an upward or downward word goes to the parent's or this node's box. -/
def Obligations.NodeInstructionsUseTheirBoxes : Prop :=
  ∀ (f : BitVec 4) (b' a d : BitVec 7),
    let where_ : State → Bundle → Nat × Nat := fun u x => (((u.blockOf x).bind (·.node)).map fun n => (n.grid, n.index)).getD (0, 0)
    let F : State → Bundle → Nat → Nat := fun u x i => u.nodeField x i
    Completes (.nodeRd f d) (fun _ _ _ => True) (fun s g x => s.eachLane g fun u l => u.modThread g.bundle l fun t =>
      t.write d.toNat (BitVec.ofNat 32 (F u x f.toNat))) .next ∧
    Completes (.nodeIn a d) (fun s g x => s.nodeSweep x ≠ 3 ∧ EachActive g x fun t => (t.val a.toNat).toNat % 4 = 0 ∧
        (t.val a.toNat).toNat < (if s.nodeSweep x = 1 then F s x 3 * F s x 5 else F s x 14))
      (fun s g x => s.eachLane g fun u l =>
        let off := ((u.thread x.id l).val a.toNat).toNat
        let box := if u.nodeSweep x = 1 then (where_ u x).2 else F u x 1
        let at_ := if u.nodeSweep x = 1 then off else F u x 11 * F u x 14 + off
        (u.addReq (u.newReq g x l 0 (.nodeIn d.toNat (where_ u x).1 box at_) .nowhere 0 4 u.fresh)).modThread x.id l fun t =>
          t.mark d.toNat .pending) .next ∧
    Completes (.nodeUp b' a) (fun s g x => s.nodeSweep x = 1 ∧ EachActive g x fun t => (t.val b'.toNat).toNat % 4 = 0 ∧
        (t.val b'.toNat).toNat < F s x 13)
      (fun s g x => s.next.eachLane g fun u l =>
        let off := ((u.thread x.id l).val b'.toNat).toNat
        let root := F u x 1 = noParent
        u.addReq (u.newReq g x l 0 (.nodeWrite (where_ u x).1 (if root then none else some (F u x 1))
          (if root then off else F u x 11 * F u x 13 + off) ((u.thread x.id l).val a.toNat)) .nowhere 0 4 s.fresh)) .next ∧
    Completes (.nodeDn b' a) (fun s g x => s.nodeSweep x = 2 ∧ EachActive g x fun t =>
        let w := (t.val b'.toNat).toNat
        w % 4096 % 4 = 0 ∧ w % 4096 < F s x 6 ∧ w / 4096 < F s x 3)
      (fun s g x => s.next.eachLane g fun u l =>
        let w := ((u.thread x.id l).val b'.toNat).toNat
        u.addReq (u.newReq g x l 0 (.nodeWrite (where_ u x).1 (some (where_ u x).2) (w / 4096 * F u x 6 + w % 4096)
          ((u.thread x.id l).val a.toNat)) .nowhere 0 4 s.fresh)) .next

/-! Events of the memory system. -/

/-- Requests and the clocks of the memory system (R148 to R154, R156, R162, R204): a queue entry drains, a store or load reaches its
home, an acknowledgement or result arrives, a request is turned away (but in deterministic mode, R424) and waits out its backoff, or its peer
refuses it; ctime rises by one every 16 clocks, a remote copy leaves 4096 clocks after its grant, and lapse clocks that have passed are
forgotten. A request alone shows R153 on its die: a drained store is in the core's copies, or in its array; a miss takes the home's bytes and
times under a lease of 255; a store at its home moves the line past its leases and changes its own bytes alone; the answer raises ctime to
the write time and fills the register. Which queue drops a request is a free choice (log entry 94), and a late result that comes from a peer
is an input (log entry 13, R425). -/
def Obligations.RequestsMoveOnAndClocksPass : Prop :=
  ∀ (op core die line bid lane : Nat) (s : State),
    (∀ r, s.req? op = some r →
      let atOnce : Prop := (s.part (s.partAt r.bundle)).det = false ∨ ∀ k va, r.place ≠ .peer k va
      (∀ c d acq smp, r.kind = .load c d acq smp → atOnce → exec (.lateResultArrival op) s = .next (s.finishLoad r c d acq smp)) ∧
      (∀ bs rel, r.kind = .store bs rel → r.phase = .issued → exec (.storeQueueDrain op) s = .next (s.drainEntry r)) ∧
      (∀ bs rel, r.kind = .store bs rel → r.phase = .sent → exec (.homeStoreArrival op) s = .next (s.storeArrives r)) ∧
      (∀ bs rel, r.kind = .store bs rel → atOnce → exec (.storeAcknowledgement op) s = .next (s.acknowledge r)) ∧
      (∀ c d acq smp, r.kind = .load c d acq smp → exec (.homeLoadRequest op) s = .next (s.fetchLine r)) ∧
      (r.arrived = false → r.resend = none → (s.part (s.partAt r.bundle)).det = false → exec (.negativeAcknowledgement op) s =
        .next ((s.modReq op fun r => { r with
          naks := r.naks + 1
          link := if Config.choice s.draw = true then r.crossing[Config.pick s.draw % r.crossing.length]? else none
          resend := some (s.clk + backoff (s.die (dieOf r.core)).backoff (r.naks + 1)) }).drawn)) ∧
      (∀ c, r.resend = some c → c ≤ s.clk → exec (.backoffResend op) s = .next (s.modReq op fun r => { r with resend := none })) ∧
      (∀ c d acq smp k va status, r.kind = .load c d acq smp → r.place = .peer k va →
        (status = 1#16 ∨ status = 2#16 ∨ status = 0xFFFF#16) → s.inOrder r = true → (s.part (s.partAt r.bundle)).det = false →
        exec (.peerLoadFailure op status) s = .next (((s.dropReq op).landThread r.bundle r.lane fun t =>
          t.marks d (.poisoned r.pc r.ea status) (ldRegs c)).sample r smp 7 true))) ∧
    (∀ r b t bs rel, Sole s r → r.id = op → r.kind = .store bs rel → r.core < s.cores.length → s.bundle? r.bundle = some b → r.lane < 32 →
      b.threads[r.lane]? = some t →
      (∀ pa, r.place = .mem pa → homeDie pa = dieOf r.core → homeDie (64 * (pa / 64)) = dieOf r.core → pa % 64 + bs.length ≤ 64 →
        (r.phase = .issued → rel = none → ∃ u, exec (.storeQueueDrain op) s = .next u ∧ u.reqs = [{ r with phase := .sent }] ∧ u.mem = s.mem ∧
          (u.core r.core).l1 = (s.core r.core).l1.map fun k =>
            if k.line = pa / 64 then { k with data := patch k.data (pa % 64) bs } else k) ∧
        (r.phase = .sent → s.mem.wf = true → s.lineHeld (pa / 64) (r.bundle, r.lane) true = false →
          let w := max (s.core r.core).ctime ((s.line (pa / 64)).rts + 1)
          ∃ u lapse, exec (.homeStoreArrival op) s = .next u ∧ u.reqs = [{ r with phase := .done w lapse (max lapse (s.line (pa / 64)).remote) [] }] ∧
            (u.line (pa / 64)).wts = w ∧ (u.line (pa / 64)).rts = w ∧ lapse = (s.line (pa / 64)).lapse ∧
            (∀ i < bs.length, readByte u.mem (pa + i) = bs.getD i 0) ∧
            ∀ a, a < pa ∨ pa + bs.length ≤ a → readByte u.mem a = readByte s.mem a) ∧
        (∀ w x y, r.phase = .done w x y [] → ∃ u, exec (.storeAcknowledgement op) s = .next u ∧ u.reqs = [] ∧
          (u.core r.core).ctime = max (s.core r.core).ctime w ∧ u.mem = s.mem ∧
          (t.life = .live → (u.thread r.bundle r.lane).lapses = t.lapses ++ [{ stream := r.stream, die := x, pkg := y }]))) ∧
      (∀ k off y, r.place = .spad k off → r.phase = .issued → rel = none → s.block? k = some y → ∃ u z, exec (.storeQueueDrain op) s = .next u ∧
        u.reqs = [] ∧ u.mem = s.mem ∧ u.block? k = some z ∧ z.spad = writeBytes y.spad off bs)) ∧
    (∀ r b t c d acq pa, Sole s r → r.id = op → r.kind = .load c d acq 0 → r.place = .mem pa → homeDie (64 * (pa / 64)) = dieOf r.core →
      homeDie pa = dieOf r.core → r.core < s.cores.length → s.bundle? r.bundle = some b → b.threads[r.lane]? = some t → r.phase = .issued →
      s.policyFor r ≠ 3 →
      (s.lineHeld (pa / 64) (r.bundle, r.lane) false = false →
        let rts := max (s.line (pa / 64)).rts ((s.core r.core).ctime + 255)
        ∃ u k l, exec (.homeLoadRequest op) s = .next u ∧ u.reqs = [{ r with copy := some k }] ∧ k.line = pa / 64 ∧
          k.data = readBytes s.mem (64 * (pa / 64)) 64 ∧ k.wts = (s.line (pa / 64)).wts ∧ k.rts = rts ∧ (u.line (pa / 64)).rts = rts ∧
          (u.line (pa / 64)).wts = (s.line (pa / 64)).wts ∧ u.mem = s.mem ∧
          (u.core r.core).l1.head? = some l ∧ l.line = k.line ∧ l.data = k.data ∧ l.wts = k.wts ∧ l.rts = k.rts) ∧
      (∀ k, r.copy = some k → k.line = pa / 64 → (s.core r.core).ctime ≤ k.rts → s.clk < k.grant + 4096 → t.life = .live → r.size ≠ 0 →
        let v := leNat ((k.data.drop (pa % 64)).take r.size)
        ∃ u, exec (.lateResultArrival op) s = .next u ∧ u.reqs = [] ∧ u.mem = s.mem ∧
          (u.core r.core).ctime = max (s.core r.core).ctime k.wts ∧
          (c = 0 → (u.thread r.bundle r.lane).regs = (t.write d ((BitVec.ofNat 8 v).signExtend 32)).regs) ∧
          (c = 2 → (u.thread r.bundle r.lane).regs = (t.write d ((BitVec.ofNat 16 v).signExtend 32)).regs) ∧
          (c = 1 ∨ c = 3 ∨ c = 4 → (u.thread r.bundle r.lane).regs = (t.write d (BitVec.ofNat 32 v)).regs) ∧
          (5 ≤ c → (u.thread r.bundle r.lane).regs =
            (t.writes d (wordsOf (ldRegs c) ((k.data.drop (pa % 64)).take r.size))).regs))) ∧
    ((s.core core).tick + 16 ≤ s.clk →
      exec (.ctimeTick core) s = .next (s.modCore core fun c => { c with ctime := c.ctime + 1, tick := c.tick + 16 })) ∧
    (let past : Copy → Bool := fun c => c.line == line && decide (c.grant + 4096 ≤ s.clk)
     exec (.remoteCopyExpiry die line) s = .next (s.modDie die fun d => { d with
       copies := d.copies.filter fun c => !(past c), l2 := d.l2.filter fun x => !(d.copies.any past && x.line == line) })) ∧
    exec (.lapseClockPassed bid lane) s = .next (s.modThread bid lane fun t => { t with
      lapses := t.lapses.filter fun x => !(decide (max x.die x.pkg < s.clk)) })

/-- The stash and the engines (R171, R172, R179, R181, R200): a wanted line fills, a recalled one is written back or dropped, an engine takes and
writes its lines one by one, and a copy's bytes land and free its tag. When each of these events runs is the model's choice (log entries 5, 76),
and so are what a line has after its acknowledgement (33), the words an engine reads (44) and the frames a read touches (48). -/
def Obligations.StashAndEnginesMoveLines : Prop :=
  ∀ (op block map line : Nat) (s : State),
    (∀ k m t pa, s.block? block = some k → s.stashMap block map = some m → s.task? k.task = some t →
      translate t.xlat (m.base + 64 * line) = some pa →
      let wanted := s.reqs.filter fun r => match r.place with
        | .stash b q off _ => b == block && q == map && (off - m.window) / 64 == line
        | _ => false
      let stamp := latest (wanted.filterMap s.stampOf)
      s.stashUsable k.core pa stamp (m.lineAt (m.window + 64 * line)) = false → wanted ≠ [] →
      s.writingBack block map line = false → s.lineHeld (pa / 64) (0, 64) false = false →
      let g := s.grant k.core (pa / 64) stamp 0
      (exec (.stashFillReturn block map line) s =
        .next ((g.1.spadWrite block (m.window + 64 * line) g.2.data).modStash block map line fun y => { y with
          state := .clean, wts := g.2.wts, rts := g.2.rts, grant := g.2.grant, bytes := [], bundles := [] })) ∧
      (homeDie pa = dieOf k.core → g.2.data = readBytes s.mem (64 * (pa / 64)) 64 ∧ g.2.wts = (s.line (pa / 64)).wts)) ∧
    (∀ k m, s.block? block = some k → s.stashMap block map = some m → (m.lineAt (m.window + 64 * line)).state = .dirty →
      exec (.stashLineRecall block map line) s = .next ((s.writeBack k fun m' x => m'.id == map && x.idx == line).modStash block map line fun y =>
        { y with state := .untouched, bytes := [], bundles := [] })) ∧
    (∀ k m, s.block? block = some k → s.stashMap block map = some m → (m.lineAt (m.window + 64 * line)).state = .clean →
      exec (.stashLineRecall block map line) s = .next (s.modStash block map line fun y => { y with state := .untouched })) ∧
    (∀ ln, (s.engineLines op).1.find? (fun ln => !((s.engineLines op).2.1.contains ln)) = some ln → s.lineHeld ln (0, 64) true = false →
      (∀ r ∈ s.reqs, r.held.isSome = true → r.place.line ≠ some ln) → (∀ x ∈ s.heldStores, ∀ y ∈ x.bytes, y.1 / 64 ≠ ln) →
      let u := (s.homeBytes 0 ln []).1.modLine ln fun y => { y with owner := some op }
      exec (.engineRegistration op) s = .next { u with
        parts := upd u.parts (·.id == op) fun p => { p with lines := p.lines ++ [ln] }
        copies := upd u.copies (·.id == op) fun c => { c with lines := c.lines ++ [ln] } }) ∧
    (∀ ln t bs core, (s.engineLines op).2.1.find? (fun ln => !((s.engineLines op).2.2.contains ln)) = some ln →
      s.engineData op ln = some (t, bs, core) →
      let h := t.homeBytes (t.engineTime core ln) ln bs
      let u := (h.1.modLine ln fun y => { y with owner := none }).copyTakes core (64 * ln) h.2 bs
      exec (.engineLineWrite op) s = .next { u with
        parts := upd u.parts (·.id == op) fun p => { p with written := p.written ++ [ln], wts := max p.wts h.2 }
        copies := upd u.copies (·.id == op) fun c => { c with written := c.written ++ [ln] } }) ∧
    (∀ c b, s.copies.find? (fun c => c.id == op && c.packet.isNone) = some c → s.bundle? c.bundle = some b →
      s.storesBefore c.bundle c.lane c.stream c.id = false → c.peer = none → (c.valid = 0 ∨ s.engineHeld (dieOf b.core) c.src = false) →
      let data := if c.valid = 0 then [] else s.engineRead (dieOf b.core) c.olds c.src c.valid
      let v := (if c.valid = 0 then s else s.touch c.src).drawn.engineSpad b 1 c.off (data ++ List.replicate (32 - c.valid) 0)
      let u := if c.b = true then v.modPending0 b (· - 32) else v
      exec (.copyComplete op) s = .next (({ u with copies := u.copies.filter fun x => !(x.id == op) } : State).modThread c.bundle c.lane fun t =>
        t.modTag c.tag (· - 1)))

/-- The matrix engines, the Carver, buffer copies and network barriers (R182, R186, R289 to R294, R298, R307 to R309): the head group of a
die's queue takes its tokens together; a finished tile or drain leaves its result; a sparse tile meets its program, or its compile ends; a
copy to a buffer reserves the next free slot in its turn and commits it when it is the oldest reserved; a block that has sent opens its
network's phase. When each of these events runs is the model's choice (log entries 5, 76), and so are which words an engine has read or
written while it runs (44), what is counted as lent (40), what a peer's tile holds (13), which frames an engine's read touches (48), that a
network's name holds no die (108), and what comes with a peer's arrival (109). -/
def Obligations.EnginesAndNetworksComplete : Prop :=
  ∀ (op die block q : Nat) (s : State),
    (∀ h hs x, (s.die die).tokenQueue = h :: hs → s.tiles.find? (·.id == h) = some x →
      let mates := s.tiles.filter fun y => (s.die die).tokenQueue.contains y.id && y.order == x.order && y.bundle == x.bundle
      let sum : Nat := (mates.map (·.cost)).foldl (· + ·) 0
      (sum : Int) ≤ (s.die die).free →
      let u := s.modDie die fun d => { d with
        free := d.free - (sum : Int), tokenQueue := d.tokenQueue.filter fun y => !(mates.any (·.id == y)) }
      exec (.powerTokenGrant die) s = .next { u with
        tiles := upd u.tiles (fun y => mates.any (·.id == y.id)) fun y => { y with granted := true } }) ∧
    (∀ t b, s.tiles.find? (·.id == op) = some t → s.bundle? t.bundle = some b → s.tileMayEnd t = true →
      (t.sparse = false → exec (.tileCommandComplete op) s = .next ((s.denseResult b t).drawn.endTile t)) ∧
      (t.sparse = true → t.bind = 5 → exec (.tileCommandComplete op) s = .next ((s.fillSlots t fun _ _ _ _ =>
        if fmtAcc (tileFormat t.words) = 4 then 0x80000000 else (fmtOf (fmtAcc (tileFormat t.words))).canonical.1).endTile t)) ∧
      (t.sparse = true → t.bind = 2 → s.valuesHeld b t = false →
        let v := s.touchSpan b 0 ((tileIdentity t.words).toNat + 704) (4 * t.valueWords.length)
        let u := v.readValues b t t.valueWords
        let c := v.tileCodes b u true
        exec (.tileCommandComplete op) s =
          .next ((c.1.multiply u u.expandedAt (operand c.2 (fmtTB (tileFormat t.words)))).drawn.endTile u)) ∧
      (t.sparse = true → t.bind = 3 → s.valuesHeld b t = false →
        let left := t.areaWords.filter fun w => !(t.landed.contains w)
        let v := s.touchSpan b 0 ((tileIdentity t.words).toNat + 704) (4 * t.valueWords.length)
        let u := left.foldl (fun v w => v.landAreaOf b t.id w) v.drawn
        exec (.tileCommandComplete op) s = .next (if left ≠ [] ∧ Config.choice v.draw = true
          then (v.landArea b t (left.getD (Config.pick v.draw % left.length) 0)).drawn
          else (u.areaResult b ((u.tiles.find? (·.id == t.id)).getD t)).drawn.endTile t))) ∧
    (∀ t b, s.tiles.find? (·.id == op) = some t → s.bundle? t.bundle = some b → t.sparse = true → t.issued = true → t.bind = 0 →
      t.resend = none → (∀ x ∈ s.tiles, x.sparse = true → x.issued = true → x.bind = 0 → x.core = t.core → t.order ≤ x.order) →
      txPeer (t.pa / 64) = none →
      let waits : State → State := fun u => ({ u with tiles := upd u.tiles (·.id == op) fun t => { t with bind := 1, came := u.fresh } } : State).next
      let start : State → State := fun u => ({ u with carver := u.carver ++ [{
        id := u.fresh, die := dieOf t.core, pa := t.pa, lines := u.tileLines b t, threshold := t.threshold, bound := u.fresh }] } : State).next
      (∀ e, s.carverAt (dieOf t.core) t.pa = some e →
        exec (.msptAtCarver op) s = .next (if e.compiling then waits s else s.bindTile e (·.id == op))) ∧
      (s.carverAt (dieOf t.core) t.pa = none →
        (∀ x ∈ s.tiles, x.sparse = true → x.bind = 1 → dieOf x.core = dieOf t.core → x.pa ≠ t.pa) →
        (s.entriesUsed (dieOf t.core) < 2048 → exec (.msptAtCarver op) s = .next (waits (start s))) ∧
        (2048 ≤ s.entriesUsed (dieOf t.core) →
          (∀ v, s.evictable (dieOf t.core) = some v →
            exec (.msptAtCarver op) s = .next (waits (start { s with carver := s.carver.filter fun x => !(x.id == v.id) }))) ∧
          (s.evictable (dieOf t.core) = none → exec (.msptAtCarver op) s = .next (waits s))))) ∧
    (∀ e, s.carver.find? (·.id == op) = some e → e.compiling = true →
      (∀ ln ∈ e.lines, (s.line ln).owner = none ∧ (s.line ln).lock = none) →
      let st := e.lines.flatMap s.structLine
      let waits : Tile → Bool := fun x => x.sparse && x.bind == 1 && dieOf x.core == e.die && x.pa == e.pa
      let ops := if sbDense st e.threshold then 0 else sbOps st
      let u := (e.lines.filter fun ln => (txPeer ln).isNone).foldl (fun u ln => u.touch (64 * ln)) s.drawn
      (∀ d, sbFails st = some d → exec (.carverCompileEnd op) s = .next { u with
        carver := u.carver.filter fun x => !(x.id == e.id)
        tiles := upd u.tiles waits fun x => { x with bind := 4, failed := d } }) ∧
      (sbFails st = none → u.opsHeld e.die + ops ≤ 2 ^ 20 → exec (.carverCompileEnd op) s = .next (({ u with
        tiles := upd u.tiles waits fun t => { t with bind := if sbDense st e.threshold then 3 else 2, program := st, prog := e.id }
        carver := upd (upd u.carver (·.id == e.id) fun _ => { e with
          compiling := false, dense := sbDense st e.threshold, ops := ops, structure_ := st }) (·.id == e.id) fun x => { x with bound := u.fresh } }
        : State).next)) ∧
      (sbFails st = none → 2 ^ 20 < u.opsHeld e.die + ops → exec (.carverCompileEnd op) s = .next (match u.evictable e.die with
        | some v => { u with carver := u.carver.filter fun x => !(x.id == v.id) }
        | none => u))) ∧
    (∀ p b, s.parts.find? (·.id == op) = some p → s.bundle? p.bundle = some b → s.partMayRun b p = true → s.engineWritten op = true →
      let left := p.spadWords.filter fun w => !(p.landed.contains w)
      let n := p.shape.2.1 * vecBytes p.shape.2.2
      let v1 := if partScales p.words = true then s.drawn.touchSpan b 0 (partPair p.words 4).toNat n else s.drawn
      let v2 := if partBiases p.words = true then v1.touchSpan b 0 (partPair p.words 6).toNat n else v1
      let v := left.foldl (fun v w => v.partLandOf b op w) v2
      let r := v.partTake b ((v.parts.find? (·.id == op)).getD p) p.elements
      let u := ((v.partPeers b r r.bytes).freeSlot r.core r.slot).landThread r.bundle r.lane fun t => { t with engWts := max t.engWts r.wts }
      exec (.partComplete op) s = .next (if left ≠ [] ∧ Config.choice s.draw = true
        then (s.partLand b p (left.getD (Config.pick s.draw % left.length) 0)).drawn
        else { u with parts := u.parts.filter fun x => !(x.id == op) })) ∧
    (∀ c b hk hq u, s.acbs.find? (·.id == op) = some c → s.bundle? c.bundle = some b →
      (s.block? c.block).bind (s.bufRef · c.buf) = some (hk, hq, u) →
      (c.slot = none → s.acbFirst c hk hq = true → u.free ≠ 0 → exec (.acbSlotCommit op) s =
        .next (({ s with acbs := upd s.acbs (·.id == op) fun x => { x with slot := some u.reserve } } : State).modBuf hk hq fun u => { u with
          free := u.free - 1, reserved := u.reserved + 1, reserve := (u.reserve + 1) % u.count })) ∧
      (∀ i, c.slot = some i → u.oldest = i → s.storesBefore c.bundle c.lane c.stream c.id = false →
        let n := min u.size c.left
        s.peerSpan b c.src n = false →
        (∀ j < (n + 63) / 64 + 1, ∀ pa,
          s.globalPlace b c.stream (BitVec.ofNat 64 (min (c.src + 64 * j) (c.src + n - 1))) = .mem pa → s.engineHeld (dieOf b.core) pa = false) →
        let data := s.engineSpan b c.olds c.stream c.src n ++ List.replicate (u.size - n) 0
        let v := (List.range (u.size / 32)).foldl (fun v j => v.engineSpad b (if u.cluster then 2 else 1)
          (u.base + i * u.size + 32 * j) ((data.drop (32 * j)).take 32)) (s.drawn.touchSpan b c.stream c.src n)
        let w := v.modBuf hk hq fun u => { u with reserved := u.reserved - 1, filled := u.filled + 1 }
        let w := if c.b = true then w.modPending0 b (· - n) else w
        exec (.acbSlotCommit op) s = .next (if c.left = n
          then ({ w with acbs := w.acbs.filter fun x => !(x.id == c.id) } : State).modThread c.bundle c.lane fun t => t.modTag c.tag (· - 1)
          else { w with acbs := upd w.acbs (·.id == c.id) fun x => { x with src := x.src + n, left := x.left - n, slot := none } }))) ∧
    (∀ k n, block < 2 ^ 64 → s.block? block = some k → (k.bars.getD q {}).sent = true → (k.bars.getD q {}).network = some n →
      s.net? (s.netName k n q) = none →
      let r := k.bars.getD q {}
      let count := s.netCount k n q
      let u := if n = 5 then s.send (s.netName k n q).1 (.barrier (s.netName k n q).1 q (s.netName k n q).2.2.2 count r.checking r.sums) else s
      let x : Net := {
        partition := (s.netName k n q).1, network := n, bar := q
        number := (s.netName k n q).2.2.2, count := count, arrived := [(k.id, r.sums)], checking := r.checking }
      let rest := u.nets.filter fun y => !((y.partition, y.network, y.bar, y.number) == (x.partition, x.network, x.bar, x.number))
      exec (.networkBarrierArrival block q) s = .next (if 1 < count then { u with nets := rest ++ [x] }
        else ({ u with nets := rest } : State).completeFor q [r.sums] r.checking k.id))

/-- Collectives, yields, transactions, futures and objects (R72, R76, R246 to R249, R253, R254, R261): results are written to the lanes they
are for, a yield ends, a commit takes effect or aborts, the turn passes on, and answers and replies land. When each of these events runs is the
model's choice (log entries 5, 76), and so are the one write time of a commit's lines (39), what holders of two dies do (123), the order in which
one line's answer is reported before another's (39), and what is owed to a thread that has ended (92). -/
def Obligations.ThreadEventsTakeEffect : Prop :=
  ∀ (op bid lane die : Nat) (s : State),
    (∀ (m : Bool), ∃ u, exec (if m then .mfragResultWrite op else .laneResultWrite op) s = .next u ∧
      u.mem = s.mem ∧ u.reqs = s.reqs ∧ u.blocks = s.blocks ∧ u.cores = s.cores ∧ u.saved = s.saved ∧
      (∀ b, s.bundle? bid = some b → (b.results.find? fun c => c.id == op && c.mfrag == m) = none → u.bundle? bid = some b) ∧
      (∀ b c, s.bundle? bid = some b → (b.results.find? fun c => c.id == op && c.mfrag == m) = some c → ∃ v, u.bundle? bid = some v ∧
        v.results = (b.results.filter fun x => !(x.id == op)) ∧ ∀ l t, b.threads[l]? = some t →
          ((∀ x ∈ c.shares, x.lane ≠ l) → v.threads[l]? = some t) ∧
          (∀ x ∈ c.shares, x.lane = l → c.shares.countP (·.lane == l) = 1 →
            v.threads[l]? = some ((t.writes x.dst x.new).orFlags x.flags)))) ∧
    (∀ y, (s.thread bid lane).yield = some y → (y.until_ ≤ s.clk ∨ y.others = []) →
      exec (.yieldEnd bid lane) s = .next (s.modThread bid lane fun t => { t with yield := none, waitCount := 0 })) ∧
    (∀ x, (s.thread bid lane).tx = some x → x.commit = some none → (∀ r ∈ s.reqs, r.of bid lane = true → r.tx = false) →
      (∀ ln ∈ x.allLines, (s.line ln).owner = none) → (∀ ln ∈ x.writeLines, s.compileHolds ln = false) →
      let locked := (x.allLines.filter fun ln => (txPeer ln).isNone).foldl (fun u ln => u.modLine ln fun y => { y with lock := some (bid, lane) }) s
      let answered : State → BitVec 32 → State := fun u st => u.modThread bid lane fun t => { t with tx := some { x with commit := some (some st) } }
      (x.irrevocable = true → (∀ ln ∈ x.allLines, (s.line ln).lock = none ∧ (s.line ln).irr = []) →
        exec (.txValidateAtHome bid lane) s = .next (answered locked 0)) ∧
      (x.irrevocable = false → (∀ ln ∈ x.allLines, s.slice (bid, lane) x ln = 0) →
        exec (.txValidateAtHome bid lane) s = .next (answered locked 0)) ∧
      (∀ st rest, x.irrevocable = false → ((x.allLines.map (s.slice (bid, lane) x)).filter fun r => r ≠ 0) = st :: rest →
        exec (.txValidateAtHome bid lane) s = .next (answered s (BitVec.ofNat 32 st)))) ∧
    (∀ b x st, s.bundle? bid = some b → (s.thread bid lane).tx = some x → x.commit = some (some st) →
      (st ≠ 0 → exec (.txCommitResult bid lane) s = .next ((s.abortTx bid lane st).finishGone bid lane (s.thread bid lane).pc)) ∧
      (st = 0 →
        let v := x.writes.foldl (fun u w => u.commitLine b lane x (s.commitTime b.core x) w) s
        let w := x.counted.foldl (fun u c => u.modBlk b fun k => k.countStore c.1 c.2.1 c.2.2.1.toNat c.2.2.2) v
        let u := (w.releaseTurn bid lane).modThread bid lane fun t => { (t.stampAt 4 w.clk) with tx := none, aborts := 0 }
        exec (.txCommitResult bid lane) s = .next (u.finishLane bid lane (s.thread bid lane).pc (u.thread bid lane).nxt) ∧
        (∀ y, x.writes = [y] → txPeer y.line = none → s.mem.wf = true → (v.line y.line).wts = s.commitTime b.core x ∧
          s.commitTime b.core x = max (s.storeTime b.core y.line) ((s.line y.line).rts + 1) ∧
          ∀ a, readByte v.mem a = (if a / 64 = y.line then (y.bytes.lookup (a % 64)).getD (readByte s.mem a) else readByte s.mem a)))) ∧
    (∀ x xs, (s.die die).turn = none → (s.die die).turnQueue = x :: xs →
      exec (.turnTokenGrant die) s = .next (s.modDie die fun d => { d with turn := some x, turnQueue := xs })) ∧
    (∀ r b sub dst v pa, s.req? op = some r → r.kind = .future sub dst v → s.anyBundle r.bundle = some b → r.phase = .issued →
      s.reaches r = true → s.inOrder r = true → (sub = 5 ∨ s.allPerformed b r.lane 4 0 (some r.id) = true) →
      (∀ q ∈ s.reqs, q.phase = .issued → q.id = op) → s.reqs.length < 4096 → r.place = .mem pa → pa % 8 = 0 → s.mustHold r (pa / 64) true = false →
      let value : Word := BitVec.ofNat 32 (leNat (readBytes s.mem pa 4))
      let st := leNat (readBytes s.mem (pa + 4) 4)
      let done : State → Nat → List Word → Prop := fun u id res => ∃ w x y, (u.req? id).map (·.phase) = some (.done w x y res)
      ∃ u, exec (.futureOpAtHome op) s = .next u ∧
        (1 < st → u.mem = s.mem ∧ done u op [1, BitVec.ofNat 32 st]) ∧
        (sub = 5 → st = 1 → u.mem = writeBytes s.mem (pa + 4) (leBytes 4 0) ∧ done u op [0, value]) ∧
        (sub = 5 → st = 0 → u.mem = s.mem ∧ (u.req? op).map (·.phase) = some .waiting) ∧
        (sub ≠ 5 → st = 0 → s.waiters (.mem pa) = [] →
          u.mem = writeBytes s.mem pa (leBytes 4 v.toNat ++ leBytes 4 1) ∧ done u op [0, 1]) ∧
        (∀ q qs, sub ≠ 5 → st = 0 → s.waiters (.mem pa) = q :: qs → q.id ≠ op → u.mem = s.mem ∧ done u q.id [0, v] ∧ done u op [0, 1]) ∧
        (sub = 3 → st = 1 → u.mem = s.mem ∧ done u op [0, 0]) ∧
        (sub ≠ 3 → sub ≠ 5 → st = 1 → u.mem = s.mem ∧ done u op [1, value])) ∧
    (∀ r sub dst v w x y res, s.req? op = some r → r.kind = .future sub dst v → r.phase = .done w x y res →
      ((∀ k va, r.place ≠ .peer k va) ∨ (s.part (s.partAt r.bundle)).det = false) →
      let u := (s.reachTime r w).dropReq op
      let u := if x = 0 ∧ y = 0 then u else u.addLapse r.bundle r.lane r.stream (x, y)
      let t := u.thread r.bundle r.lane
      (t.life = .exited → exec (.futureAnswer op) s = .next u) ∧
      (t.life ≠ .exited → res.getD 0 0 = 1 → exec (.futureAnswer op) s = .next ((u.landThread r.bundle r.lane (·.put dst r.old)).raise r.bundle r.lane
        { cause := 0x0B, detail := (res.getD 1 0).zeroExtend 64, addr := r.ea } t.pc t.pc)) ∧
      (t.life ≠ .exited → res.getD 0 0 ≠ 1 →
        let w := u.landThread r.bundle r.lane fun t =>
          let y := t.write dst (res.getD 1 0)
          if sub = 5 then { y with stamp := some u.clk } else y
        exec (.futureAnswer op) s =
          .next (if t.mid = some (.answer op) then w.finishLane r.bundle r.lane t.pc t.nxt else w))) ∧
    (∀ r dst args w x y ws, s.req? op = some r → r.kind = .call dst args → r.phase = .done w x y ws →
      exec (.calloReply op) s = .next (((s.reachTime r w).dropReq op).landThread r.bundle r.lane fun t => { (t.writes dst ws) with stamp := some s.clk }))

/-- Objects at their home (R258, R259, R260, R262, R263, R266, R269): a descriptor is registered or reset, a call is queued, answered at once or
turned away, a due wave forms with up to 32 calls, ends by replying to each, or aborts and breaks the object. When each of these events runs is
the model's choice (log entries 5, 76), and so are which status comes first (124), what counts as a queue entry (42), what a peer's home answers
(89), the logical time of a wave (99) and what becomes of a wave's FPUTs (126). -/
def Obligations.ObjectEventsTakeEffect : Prop :=
  ∀ (op : Nat) (s : State),
    (∀ r b pa, s.req? op = some r → s.anyBundle r.bundle = some b → r.place = .mem pa → s.clampReady r = true →
      s.allPerformed b r.lane 4 0 (some r.id) = true → s.mustHold r (pa / 64) true = false →
      let d := readBytes s.mem pa 64
      let ans : State → Word → State := fun u v => u.doneAt op (u.line (pa / 64)).wts (0, 0) [v]
      (∀ x, r.kind = .object false x →
        (objFieldsOk d = false → exec (.objregAtHome op) s = .next (ans s 1)) ∧
        (objFieldsOk d = true → (s.objectAt pa).isSome = true → exec (.objregAtHome op) s = .next (ans s 2)) ∧
        (objFieldsOk d = true → s.objectAt pa = none →
          (2048 ≤ (s.objects.filter fun o => o.die == homeDie pa).length → exec (.objregAtHome op) s = .next (ans s 3)) ∧
          ((s.objects.filter fun o => o.die == homeDie pa).length < 2048 →
            (s.objLease (s.partOf b) (homeDie pa) d = none → exec (.objregAtHome op) s = .next (s.waitAtHome r)) ∧
            (s.objLease (s.partOf b) (homeDie pa) d = some none → exec (.objregAtHome op) s = .next (ans s 4)) ∧
            (∀ u xs, s.objLease (s.partOf b) (homeDie pa) d = some (some (u, xs)) → exec (.objregAtHome op) s = .next (ans
              (({ u with objects := u.objects ++ [objOf u.fresh pa (s.partOf b) d xs] } : State).next.descWrite (u.core r.core).ctime pa 32 4 1) 0))))) ∧
      (∀ x, r.kind = .object true x →
        (s.objectAt pa = none → exec (.objrstAtHome op) s = .next (ans s 1)) ∧
        (∀ o, s.objectAt pa = some o →
          ((s.waves.any (·.obj == o.id)) = true → exec (.objrstAtHome op) s = .next (s.waitAtHome r)) ∧
          ((s.waves.any (·.obj == o.id)) = false → objFieldsOk d = false → exec (.objrstAtHome op) s = .next (ans s 2)) ∧
          ((s.waves.any (·.obj == o.id)) = false → objFieldsOk d = true → bit (field d 30 2) 0 = true →
            (s.objRanges (s.partOf b) d = none → exec (.objrstAtHome op) s = .next (s.waitAtHome r)) ∧
            (s.objRanges (s.partOf b) d = some none → exec (.objrstAtHome op) s = .next (ans s 2)) ∧
            (∀ u xs, s.objRanges (s.partOf b) d = some (some (u, xs)) →
              let v := u.replyQueued o.id (u.line (pa / 64)).wts 0x103
              exec (.objrstAtHome op) s = .next (ans (({ v with
                objects := v.objects.filter fun x => !(x.id == o.id) } : State).descWrite (v.core r.core).ctime pa 32 4 0) 0))) ∧
          ((s.waves.any (·.obj == o.id)) = false → objFieldsOk d = true → bit (field d 30 2) 0 = false →
            (s.objLease (s.partOf b) (homeDie pa) d = none → exec (.objrstAtHome op) s = .next (s.waitAtHome r)) ∧
            (s.objLease (s.partOf b) (homeDie pa) d = some none → exec (.objrstAtHome op) s = .next (ans s 2)) ∧
            (∀ u xs, s.objLease (s.partOf b) (homeDie pa) d = some (some (u, xs)) → exec (.objrstAtHome op) s = .next (ans
              (({ u with objects := upd u.objects (·.id == o.id) fun _ => objOf o.id pa (s.partOf b) d xs } : State).descWrite
                (u.core r.core).ctime pa 32 4 1) 0))))) ∧
      (∀ x args, r.kind = .call x args → s.objectAt pa = none →
        exec (.calloArrival op) s = .next (s.replyTo op (s.line (pa / 64)).wts 0x103 [])) ∧
      (∀ x args o, r.kind = .call x args → s.objectAt pa = some o → o.broken = true →
        exec (.calloArrival op) s = .next (s.replyTo op (s.line (pa / 64)).wts 0x102 [])) ∧
      (∀ x args o, r.kind = .call x args → s.objectAt pa = some o → o.broken = false → (o.capacity ≤ s.entriesOf o.id ∨ 16384 ≤ s.entriesIn o.die) →
        exec (.calloArrival op) s = .next (s.modReq op fun r => { r with
          held := none, link := none, naks := r.naks + 1
          resend := some (s.clk + backoff (s.die (dieOf r.core)).backoff (r.naks + 1)) })) ∧
      (∀ x args o, r.kind = .call x args → s.objectAt pa = some o → o.broken = false → s.entriesOf o.id < o.capacity → s.entriesIn o.die < 16384 →
        let c : Call := { id := s.fresh, obj := o.id, req := op, core := r.core, arrived := s.clk, time := (s.core r.core).ctime
                          args := (List.range 4).map fun i => args.getD i 0 }
        exec (.calloArrival op) s =
          .next (({ s with calls := s.calls ++ [c] } : State).modReq op fun r => { r with phase := .sent, held := none }).next)) ∧
    (∀ r b k va, s.req? op = some r → s.anyBundle r.bundle = some b → r.place = .peer k va → s.clampReady r = true →
      s.allPerformed b r.lane 4 0 (some r.id) = true →
      let words := (List.range 4).map fun i => (BitVec.ofNat 32 (Config.pick (s.draw + (i + 1))) : Word)
      let sent : List Word → State := fun args => ((List.range 5).foldl (fun u _ => u.drawn) s).send (s.partOf b)
        (.peer k (leBytes 8 va ++ args.flatMap fun w => leBytes 4 w.toNat))
      (∀ x, r.kind = .object false x →
        exec (.objregAtHome op) s = .next ((sent []).doneAt op 0 (0, 0) [BitVec.ofNat 32 (Config.pick s.draw % 5)])) ∧
      (∀ x, r.kind = .object true x →
        exec (.objrstAtHome op) s = .next ((sent []).doneAt op 0 (0, 0) [BitVec.ofNat 32 (Config.pick s.draw % 3)])) ∧
      (∀ x args, r.kind = .call x args → exec (.calloArrival op) s = .next (if Config.pick s.draw % 132 < 128
        then (sent args).replyTo op 0 (BitVec.ofNat 32 (Config.pick s.draw % 132)) words
        else (sent args).replyTo op 0 (BitVec.ofNat 32 (0x100 + Config.pick s.draw % 132 - 128)) []))) ∧
    (∀ o core, s.objects = [o] → o.id = op → s.waveDue o = true →
      (s.die o.die).combinerCores.find? (fun c => decide ((s.bundles.filter fun b => b.core == c && b.isWave).length < 2)) = some core →
      let calls := (s.queuedCalls o.id).take 32
      let w := s.fresh
      let blk : Block := { id := w + 1, task := 0, core := 0, order := w, nthreads := calls.length, allot := 32, spadSize := 0
                           streams := defaultStreams }
      let new : Wave := { id := w, obj := o.id, bundle := 0, calls := calls, blk := blk }
      (∀ x ∈ s.waves, x.bundle ≠ 0 ∧ x.id ≠ w) → exec (.combinerWaveFormation op) s = .next { (s.raiseCtime core (s.waveTime o calls)) with
        calls := s.calls.filter fun c => !(calls.any (·.id == c.id))
        waves := s.waves ++ [{ new with bundle := w + 2, blk := { blk with core := core } }]
        bundles := s.bundles ++ [{ id := w + 2, owner := .wave w, index := 0, core := core, pipe := s.emptiestPipe core
                                   threads := calls.map (waveThread o calls.length s.clk) }]
        fresh := s.fresh + 3 }) ∧
    (∀ w b o, s.waves.find? (·.id == op) = some w → s.bundle? w.bundle = some b → s.objects.find? (·.id == w.obj) = some o →
      w.abort = none → (b.threads.all fun t => t.life == .exited) = true → s.waveQuiet w = true → s.lineHeld (o.desc / 64) (0, 64) true = false →
      let u := s.descWrite (s.waveSeen w) o.desc 48 8 (leNat (readBytes s.mem (o.desc + 48) 8) + w.calls.length)
      let t := (u.line (o.desc / 64)).wts
      exec (.combinerWaveEnd op) s = .next (((List.range w.calls.length).foldl (fun u k =>
        match (b.threads.getD k {}).reply with
        | some x => u.replyTo ((w.calls.map (·.req)).getD k 0) t (BitVec.ofNat 32 x.1) x.2
        | none => u.replyTo ((w.calls.map (·.req)).getD k 0) t 0x100 []) u).dropWave w)) ∧
    (∀ w o lane tr pc, s.waves.find? (·.id == op) = some w → w.abort = some (lane, tr, pc) → s.objects.find? (·.id == w.obj) = some o →
      s.waveQuiet w = true → s.lineHeld (o.desc / 64) (0, 64) true = false →
      let c := s.waveSeen w
      let u := ((s.descWrite c o.desc 36 4 (256 * lane + tr.cause)).descWrite c o.desc 40 8 pc.toNat).descWrite c o.desc 32 4 2
      let t := (u.line (o.desc / 64)).wts
      let v : State := { u with objects := upd u.objects (·.id == o.id) fun x => { x with broken := true } }
      exec (.combinerWaveAbort op) s =
        .next (((w.calls.foldl (fun u c => u.replyTo c.req t 0x101 []) v).replyQueued o.id t 0x102).dropWave w))

/-! Events of blocks, tasks and queues. -/

/-- Blocks (R74, R88, R89, R91, R311, R321, R326, R334 to R340, R342, R368, R379, R395, R414): a ready task is admitted to a core, a quiet block
completes or parks its task, a register request is granted, a handler bundle forms, a late fault is noted, a pre-empted block drains, or stops to
be flushed or saved, a saved one is restored, one whose record fails its check parks its task with MCHK, and a clk without an issue is counted.
When each of these events runs is the model's choice (log entries 5, 76), and so are the place that the Headstock picks (98), the room a saved
block needs and what a halted block's request does (85, 114), what a request beside a resumed thread or a readmitted block does
(129), whom an urgent task pre-empts (86), what a fault in an open transaction does (46), the reason a counter counts (26) and a gang member's
block index (133). -/
def Obligations.BlockEventsTakeEffect : Prop :=
  ∀ (op block core : Nat) (s : State),
    (∀ t, s.task? op = some t → s.admits t core = true → s.outranked t core = false → core < 640 →
      ((s.part t.partition).det = false ∨ s.chosen t.partition t.tid core (s.coresFor t) = true) →
      exec (.blockAdmission op core) s = .next ((s.mates t).foldl (fun u x =>
        u.launch x core (if x.kept.isSome then x.program.buffers else u.gangBuffers x)) s)) ∧
    (∀ k t u, s.block? block = some k → s.task? k.task = some t → s.blockQuiet k = true → k.ending = .running → k.anyDirty = false →
      s.afterBlock k t = some u → (s.part t.partition).control.getLsbD 3 = false → exec (.blockCompletion block) s = .next u) ∧
    (∀ k t tr opc index lane, s.block? block = some k → s.task? k.task = some t → s.blockQuiet k = true → k.ending = .parking tr opc index lane →
      k.anyDirty = false → (s.part t.partition).control.getLsbD 3 = false →
      exec (.blockCompletion block) s =
        .next ((s.freeBlock k).parkTask t tr.cause tr.detail tr.addr opc (laneBundle index lane)) ∧
      (s.freeBlock k).block? block = none ∧ (∀ b ∈ (s.freeBlock k).bundles, b.owner.block? ≠ some block)) ∧
    (∀ t cause lb detail addr pc,
      let time := s.timeIn t.partition 0
      let u := s.modTask t.id fun t => { t with
        leased := false, xlat := [], phase := .parked, fault := some ({ cause := cause % 256, detail := detail, addr := addr }, pc), kept := none }
      let entry := leBytes 8 t.tcb.toNat ++ leBytes 4 t.tid ++ leBytes 2 t.blockIndex ++ leBytes 2 cause ++ leBytes 8 detail.toNat ++
        leBytes 8 addr.toNat ++ leBytes 8 pc.toNat ++ leBytes 4 lb ++ leBytes 4 t.faultFlags ++ leBytes 8 time ++ leBytes 8 0
      (s.parkTask t cause detail addr pc lb).tasks = u.tasks ∧
      (∀ q, q = u.part t.partition → q.fqHeld = [] → q.fqCap ≤ ringFill q.fqWrite q.fqRead →
        s.parkTask t cause detail addr pc lb = (u.modPart t.partition fun q => { q with fqHeld := [entry] }).event t.partition 6
          (recordBytes time (u.taskSource t) 6 cause detail t.tid lb)) ∧
      (∀ q v, q = u.part t.partition → q.fqHeld = [] → ringFill q.fqWrite q.fqRead < q.fqCap →
        u.vstore t.partition (q.fqBase.toNat + 64 * (q.fqWrite % q.fqCap)) entry (some 4) = some v →
        s.parkTask t cause detail addr pc lb = (v.modPart t.partition fun q => { q with fqWrite := (q.fqWrite + 1) % 2 ^ 32 }).event t.partition 6
          (recordBytes time (v.taskSource t) 6 cause detail t.tid lb))) ∧
    (∀ k r, s.oldestGrow core = some (k, r) → k.ending = .running → k.halted = false → s.growFits core k r = true →
      exec (.regrowGrant core) s = .next ((s.setAllot k.id r.value).finishRequests k.id)) ∧
    (∀ k r x y xs, s.oldestGrow core = some (k, r) → s.growFits core k r = false → (s.blocks.filter (·.core == core)) = x :: y :: xs →
      (∀ z ∈ x :: y :: xs, z.ending = .running ∧ ∃ q, z.request = some q ∧ q.shed = false) →
      let young := (x :: y :: xs).foldl (fun a b => if a.order < b.order then b else a) x
      exec (.regrowGrant core) s = .next (((s.preemptSet young).map (·.id)).foldl (fun u i => u.stopBlock i .saving) s)) ∧
    (∀ k r, s.block? block = some k → k.request = some r → r.shed = true → k.halted = false → k.ending = .running →
      ((s.bundlesOf (.block block)).any fun b => b.threads.any fun t =>
        !(t.life == .exited) && t.anyPending r.value (k.allot - r.value)) = false →
      exec (.regshrShed block) s = .next ((s.setAllot block r.value).finishRequests block)) ∧
    (∀ k y, s.block? block = some k → s.askers k = [y] → s.handlerDue k [y] = true → y.exited = false →
      let p := ((s.task? k.task).map (·.partition)).getD 0
      let u : State := { s with bundles := s.bundles ++ [{
        id := s.fresh, owner := .handler block, index := 0, core := k.core, pipe := s.emptiestPipe k.core, threads := [s.handlerThread p y] }] }
      exec (.handlerWaveFormation block) s = .next (u.next.modThread y.bundle y.lane fun t => match t.life with
        | .parked q => { t with life := .parked { q with server := some (s.fresh, 0) } }
        | _ => t)) ∧
    (∀ r k va status, s.tiles.find? (·.id == op) = none → s.req? op = some r → (∃ bs rel, r.kind = .store bs rel) → r.place = .peer k va →
      r.phase = .sent → (status = 1#16 ∨ status = 2#16 ∨ status = 0xFFFF#16) → (s.bundle? r.bundle).isSome = true →
      ((s.part (s.partAt r.bundle)).det = false → exec (.impreciseFault op status) s =
        .next ((s.dropReq op).faultFor r.bundle r.lane { cause := 0x12, detail := r.pc, addr := r.ea, status := status } r.pc)) ∧
      ((s.part (s.partAt r.bundle)).det = true → (s.part (s.partAt r.bundle)).lockstep = false →
        (∀ i ∈ (s.part (s.partAt r.bundle)).inputs, i.op ≠ some op) → exec (.impreciseFault op status) s =
        .next (s.modPart (s.partAt r.bundle) fun q => { q with inputs := q.inputs ++ [.refused op status] }))) ∧
    (∀ t status, s.tiles.find? (·.id == op) = some t → t.bind = 4 → (s.bundle? t.bundle).isSome = true →
      exec (.impreciseFault op status) s =
        .next (({ s with tiles := upd s.tiles (·.id == op) fun t => { t with bind := 5 } } : State).faultFor t.bundle t.lane
          { cause := 9, detail := BitVec.ofNat 64 t.failed, addr := t.words.getD 7 0 ++ t.words.getD 6 0 } t.pc)) ∧
    (∀ b k bid lane tr pc, s.bundle? bid = some b → b.owner = .block block → s.block? block = some k →
      let x : LateFault := { bundle := bid, index := b.index, lane := lane, trap := tr, pc := pc }
      (s.anyThread block = true → k.faults.length < 64 → (∃ q, (s.thread bid lane).life = .parked q) →
        s.faultFor bid lane tr pc = s.modBlock block fun k => { k with faults := k.faults ++ [x] }) ∧
      (s.anyThread block = false → k.late = none → s.faultFor bid lane tr pc = s.modBlock block fun k => { k with
        late := match k.late with
          | some x => some (x.1, true)
          | none => some (x, false) })) ∧
    (∀ k, s.block? block = some k →
      let p := ((s.task? k.task).map (·.partition)).getD 0
      let stops : Ending → Prop := fun e => ∃ u, exec (.preemptionRequest block) s = .next u ∧ (u.block? block).map (·.ending) = some e ∧
        u.mem = s.mem ∧ u.tasks = s.tasks ∧ u.partitions = s.partitions ∧
        (∀ n b, u.bundle? n = some b → b.owner.block? = some block → ∀ t ∈ b.threads, t.tx = none ∧ t.conv = none) ∧
        ∀ b l, (s.thread b l).tx = none → (s.thread b l).conv = none →
          (u.thread b l).regs = (s.thread b l).regs ∧ (u.thread b l).pc = (s.thread b l).pc ∧ (u.thread b l).life = (s.thread b l).life
      ((s.part p).det = true → (s.part p).lockstep = false →
        exec (.preemptionRequest block) s = .next (s.modPart p fun q => { q with inputs := q.inputs ++ [.preempt block] })) ∧
      ((s.part p).det = false → (k.preempt = false ∨ k.ending ≠ .running ∨ k.draining.isSome = true) →
        exec (.preemptionRequest block) s = .next s) ∧
      ((s.part p).det = false → k.preempt = true → k.ending = .running → k.draining = none → k.gang = none →
        ((s.part p).drainThr ≤ k.progress → exec (.preemptionRequest block) s =
          .next (s.modBlock block fun x => { x with draining := some s.clk, preempt := false })) ∧
        (k.progress < (s.part p).drainThr → k.idem = true → k.progress < (s.part p).restartThr → stops .flushing) ∧
        (k.progress < (s.part p).drainThr → (k.idem = false ∨ (s.part p).restartThr ≤ k.progress) → stops .saving))) ∧
    (∀ k, s.block? block = some k → k.ending = .flushing → (s.flushDiscard k).flushDrained k = true →
      s.settleSave block = (s.flushDiscard k).completeFlush k ∧
      ((s.flushDiscard k).completeFlush k).block? block = none) ∧
    (∀ k c, s.block? block = some k → k.draining = some c → k.ending = .running →
      c + (s.part (((s.task? k.task).map (·.partition)).getD 0)).drainLimit * 1050 ≤ s.clk →
      exec (.drainLimitExpiry block) s = .next (((s.preemptSet k).map (·.id)).foldl (fun u i => u.stopBlock i .saving) s)) ∧
    (∀ x t, s.saved.find? (·.block.id == block) = some x → core < 640 → s.task? x.block.task = some t →
      s.canRestore x core = true → s.outranked t core = false →
      ((s.part t.partition).det = false ∨ s.chosen t.partition (s.tidOf x) core
        ((List.range 640).filter fun c => s.canRestore x c && !(s.outranked t c)) = true) →
      exec (.blockRestore block core) s = .next (match (s.restoreSet x core).filter fun y => !(s.readRecord y.1) with
        | [] => (s.restoreSet x core).foldl (fun u y => u.restore y.1 y.2) s
        | bad => bad.foldl (fun u y => u.refuseRecord y.1) s)) ∧
    (∀ t c k, s.task? op = some t → t.since = some c → c + 10500 ≤ s.clk → s.classOf t ≤ 1 → (s.victim t 3).or (s.victim t 2) = some k →
      exec (.urgentAdmissionTimeout op) s =
        .next (((s.preemptSet k).map (·.id)).foldl (fun u i => u.modBlock i fun x => { x with preempt := true }) s)) ∧
    (∀ k, s.block? block = some k → exec (.stallCounterClock block) s = .next (if k.clkDone then s
      else s.modBlock block fun _ => { k with
        clkDone := true, clkOver := true, stall := k.stall.modify (s.stallOf k) fun w => if w = 0xFFFFFFFF#32 then w else w + 1 }))

/-- Tasks and pages (R231, R365, R378, R384, R385, R389, R390): a finished node leaves its grid, a task leases its pages, waits for one that moves,
has a compressed one expanded or asks for an absent one, a gang takes a quad, records gather and launch a bundle, and pages are compressed and
moved. When each of these events runs is the model's choice (log entries 5, 76), and so are the frame a page takes (17), what compresses and when
a page is cold (12, 48), which member takes which core (56, 98), and a node task's number in a paging request (60). -/
def Obligations.TaskAndPageEventsTakeEffect : Prop :=
  ∀ (op part va quad : Nat) (s : State),
    (∀ t g i x y, s.task? op = some t → t.kind = .node g i x y → t.phase = .done →
      let u : State := { s with tasks := s.tasks.filter fun x => !(x.id == op) }
      exec (.nodeCompletion op) s = .next (((u.endUnit op false).nodeDone g i).splitAfter g)) ∧
    (∀ t, s.task? op = some t → t.phase = .waiting → t.deps = [] → s.taskHeld t = false → (s.part t.partition).launches = true →
      let found := s.walkAll t.partition (s.versionFrame t.partition (t.unit.map (·.2))) t.program.allRanges
      (∀ xs, found = .ok xs → s.storeRoom (s.taskDies t) (entryCount xs) = true → exec (.pageLease op) s = .next (s.leased t xs)) ∧
      (∀ xs, found = .ok xs → s.storeRoom (s.taskDies t) (entryCount xs) = false → exec (.pageLease op) s = .next s) ∧
      (∀ xs, (t.kind = .plain ∨ (∃ g i x y, t.kind = .node g i x y) ∨ ∃ n, t.kind = .work n) →
        s.leased t xs = s.modTask t.id fun u => { u with xlat := xs, leased := true, phase := .ready }) ∧
      (∀ a, found = .error (.migrating a) → exec (.pageLease op) s = .next s) ∧
      (∀ a, found = .error (.compressed a) → exec (.pageLease op) s = .next (s.expand t.partition a)) ∧
      (∀ a, found = .error (.tier a) →
        exec (.pageLease op) s = .next (if s.pageLeased t.partition a then s else s.startMove t.partition a false)) ∧
      (∀ a, found = .error (.absent a) → t.tid ≠ 0 → exec (.pageLease op) s =
        .next ((s.drawn.modTask op fun u => { u with phase := .paging a }).event t.partition 7
          (recordBytes (s.timeIn t.partition 0) (s.taskSource t) 7 0 (BitVec.ofNat 64 a) t.tid 0)))) ∧
    (∀ g, s.gangs.find? (·.id == op) = some g → quad < 160 → s.gangReady g = true →
      let ms := (s.members g).filter fun t => !(t.phase == .parked)
      let ways := placements.filter (s.gangFits ms quad)
      ∀ w ws, ways = w :: ws →
      let admitted : List Nat → State → State := fun pl v => ms.foldl (fun v t =>
        v.launch t (4 * quad + pl.getD ((t.gang.map Prod.snd).getD 0) 0) (v.gangBuffers t))
        { v with gangs := upd v.gangs (·.id == op) fun x => { x with quad := some quad, bufs := x.pipes.map (pipeBuf pl) } }
      ((s.part g.partition).det = false →
        exec (.gangAdmission op quad) s = .next (admitted (ways.getD (Config.pick s.draw % ways.length) w) s.drawn)) ∧
      ((s.part g.partition).det = true →
        s.chosen g.partition ((ms.map (·.tid)).headD 0) quad ((List.range 160).filter fun q => placements.any (s.gangFits ms q)) = true →
        exec (.gangAdmission op quad) s = .next (admitted (ways.getD (Config.detPick (quad :: ms.map (·.tid)) % ways.length) w) s))) ∧
    (∀ r die i ws b n, s.req? op = some r → r.kind = .wrec die i ws → s.anyBundle r.bundle = some b → s.reaches r = true → s.inOrder r = true →
      s.reqs = [r] → s.allPerformed b r.lane 3 0 (some r.id) = true →
      s.wnodes.find? (fun n => n.die == die && n.index == i) = some n → n.records.length < 160 →
      let u := s.modPart n.partition fun q => { q with seen := max q.seen (s.core r.core).ctime }
      exec (.workGraphRecordArrival op) s = .next (({ u with
        wnodes := upd u.wnodes (·.id == n.id) fun n => { n with records := n.records ++ [(u.clk, ws)] } } : State).dropReq op)) ∧
    (∀ r die i ws b n, s.req? op = some r → r.kind = .wrec die i ws → s.anyBundle r.bundle = some b → s.reaches r = true → s.inOrder r = true →
      s.reqs = [r] → s.allPerformed b r.lane 3 0 (some r.id) = true →
      s.wnodes.find? (fun n => n.die == die && n.index == i) = some n → 160 ≤ n.records.length →
      exec (.workGraphRecordArrival op) s = .next (s.modReq op fun r => { r with
        naks := r.naks + 1, resend := some (s.clk + backoff (s.die (dieOf r.core)).backoff (r.naks + 1)) })) ∧
    (∀ n, s.wnodes.find? (·.id == op) = some n → (32 ≤ n.records.length ∨ ∃ r rs, n.records = r :: rs ∧ r.1 + 1050 * n.timer ≤ s.clk) →
      (s.part n.partition).launches = true →
      let rs := (n.records.take 32).map (·.2)
      let x := s.takeTid n.partition
      let p := { n.program with threads := rs.length, blocks := 1, coplace := false, tracked := false }
      exec (.workGraphBundleLaunch op) s = .next ({ x.1 with
        tasks := x.1.tasks ++ [{
          id := s.fresh, tid := x.2, partition := n.partition, cls := n.cls, packet := 0, kind := .work op, index := 0, tcb := n.tcb
          program := p, arg := 0, phase := .ready, xlat := n.xlat, leased := true, records := rs
          order := s.fresh, acq := 3, priv := n.priv, all := p.allRanges }]
        wnodes := upd x.1.wnodes (·.id == op) fun n => { n with records := n.records.drop 32 } } : State).next) ∧
    (∀ lf z zs, s.walk part va = some lf → s.zoneSlots part = z :: zs → lf.size = 65536 → lf.c = false → lf.m = false →
      inTier2 lf.pa = false → s.isLeased part (va / 65536 * 65536) 65536 = false →
      let rel : Mem := (s.mem.filter fun c => decide (lf.pa ≤ c.1) && decide (c.1 < lf.pa + 65536)).map fun c => (c.1 - lf.pa, c.2)
      let u : State := { s with zone := s.zone ++ [{ partition := part, slot := z, bytes := rel }] }
      exec (.pageCompression part va) s =
        .next (if s.lastTouch lf.pa + 1050000 * (s.part part).cold ≤ s.clk ∧ Config.compresses (readBytes s.mem lf.pa 65536) = true then
          u.putLeaf lf.entry (leafWord (leNat (readBytes s.mem lf.entry 8)) z false true false) else s)) ∧
    (∀ lf, s.walk part va = some lf → lf.c = false → lf.m = false → s.isLeased part (va / lf.size * lf.size) lf.size = false →
      let tier := !(inTier2 lf.pa)
      (∀ to_, s.frameFor lf.size tier = some to_ → exec (.pageMigration part va) s = .next (({ s.drawn with
        moves := s.moves ++ [{ id := s.fresh, partition := part, va := va / lf.size * lf.size, entry := lf.entry, frm := lf.pa, to_ := to_
                               size := lf.size, tier := tier }] } : State).putLeaf lf.entry
          (leafWord (leNat (readBytes s.mem lf.entry 8)) lf.pa (inTier2 lf.pa) false true)).next) ∧
      (s.frameFor lf.size tier = none → exec (.pageMigration part va) s = .next s)) ∧
    (∀ lf, s.walk part va = some lf → s.isLeased part (va / lf.size * lf.size) lf.size = true → exec (.pageMigration part va) s = .next s) ∧
    (∀ m, s.moves.find? (·.id == op) = some m →
      let moved := s.mem.filter fun c => decide (m.frm ≤ c.1) && decide (c.1 < m.frm + m.size)
      let clear : Mem := s.mem.filter fun c => decide (c.1 < m.to_) || decide (m.to_ + m.size ≤ c.1)
      let mem := moved.foldl (fun (a : Mem) (c : Host.Cell) => writeByte a (m.to_ + (c.1 - m.frm)) c.2) clear
      let v : State := ({ s with mem := mem, moves := s.moves.filter fun x => !(x.id == op) } : State).frameTaken m.to_ m.size
      let u : State := { v with touched := carryTouch m v.touched }
      exec (.pageMoveEnd op) s = .next (u.putLeaf m.entry (leafWord (leNat (readBytes mem m.entry 8)) m.to_ m.tier false false)) ∧
      v.mem = mem ∧ (∀ e ∈ v.carver, e.compiling = false → ∀ ln ∈ e.lines, 64 * ln < m.to_ ∨ m.to_ + m.size ≤ 64 * ln))

/-- Packets and events of a queue (R395, R402 to R408, R450): a due packet is taken as its type says. A sound TREE sets up its grid, a TASK its
tasks, a GANG its members; BARRIER, COPY, SIGNAL and MEASURE have the pages they name, and a WNODE's TCB passes. Then a COPY starts its engine,
a SIGNAL stores or adds, a node is installed or its removal begins, an unknown node's removal and a NOP are over, and a BARRIER is over once its
signals read 0. Packets complete in order, once none of their work is left, by signal and record; held records are flushed, and an interrupt that
has waited its time is sent. When each of these events runs is the model's choice (log entries 5, 76), and so are a packet's die (18), the rights a grid's areas need (131), what
is reported of a TCB that cannot be read (53), WNODE's corner cases (54), the class and privilege a packet keeps (65), the order of a packet's checks
(100), the order in which packets launch and begin (119) and what a held line does to a record (120). -/
def Obligations.QueueEventsTakeEffect : Prop :=
  ∀ (slot op part v : Nat) (s : State),
    exec (.tree slot) s = .next (s.takePacket 1 slot) ∧ exec (.task slot) s = .next (s.takePacket 2 slot) ∧
    exec (.gang slot) s = .next (s.takePacket 3 slot) ∧ exec (.barrier slot) s = .next (s.takePacket 4 slot) ∧
    exec (.copy slot) s = .next (s.takePacket 5 slot) ∧ exec (.signal slot) s = .next (s.takePacket 6 slot) ∧
    exec (.wnode slot) s = .next (s.takePacket 7 slot) ∧ exec (.measure slot) s = .next (s.takePacket 8 slot) ∧
    exec (.nopPacket slot) s = .next (s.takePacket 9 slot) ∧
    (∀ pk u, TakesPacket s slot 1 pk u → pk.word 16 8 % 64 = 0 → ∀ w d, u.get pk.partition (pk.word 16 8) 128 = .bytes w d →
      let dies := w.gridDies pk.partition d
      let stride := ceilDiv (field d 64 8) 64 * 64
      descHeadBad d false = false → descTailBad d = false → dies ≠ [] → (stride = 0 ∨ segmentsOf d stride dies.length ≠ 0) →
      exec (.tree slot) s = .next (({ w with
        fresh := w.fresh + 2
        grids := w.grids ++ [{ id := w.fresh, packet := pk.id, partition := pk.partition, desc := d, arg := BitVec.ofNat 64 (pk.word 24 8)
                               sweep := 0, stride := stride, segments := segmentsOf d stride dies.length, dieSet := dies }]
        tasks := w.tasks ++ [{ id := w.fresh + 1, tid := 0, partition := pk.partition, cls := pk.cls, packet := pk.id, kind := .lathe w.fresh
                               index := 0, tcb := 0, arg := 0, order := pk.id
                               program := { codeBase := field d 96 8, codeLen := field d 104 4, ranges := gridRanges d } }] } : State).modPacket
        pk.id fun x => { x with left := 1 })) ∧
    (∀ pk u, TakesPacket s slot 2 pk u → ∀ w tb p y deps unit,
      let tcb := BitVec.ofNat 64 (pk.word 16 8)
      let arg := BitVec.ofNat 64 (pk.word 24 8)
      u.readTcb pk.partition tcb arg none = .ok w tb p → w.trackUnit pk p.tracked p.ranges = some (y, deps, unit) →
      exec (.task slot) s = .next (((List.range p.blocks).foldl (fun u i =>
        u.addTask pk .plain i tcb p arg deps unit none (launchAcq deps pk.acq)) y).modPacket pk.id fun x => { x with left := p.blocks })) ∧
    (∀ pk u, TakesPacket s slot 3 pk u → pk.word 16 8 % 64 = 0 → ∀ w d x ms y deps unit,
      let arg := BitVec.ofNat 64 (pk.word 24 8)
      let pipes := (List.range (field d 1 1)).map fun i => pipeOf ((d.drop (48 + 16 * i)).take 16)
      u.get pk.partition (pk.word 16 8) 128 = .bytes w d → gangHeadBad d = none →
      w.readMembers pk.partition arg ((List.range (field d 0 1)).map fun i => (i, BitVec.ofNat 64 (field d (8 + 8 * i) 8))) = .ok (x, ms) →
      gangTailBad d ms = none → (x.part pk.partition).quads ≠ [] →
      x.trackUnit pk (ms.all (·.2.tracked)) (ms.flatMap (·.2.ranges)) = some (y, deps, unit) →
      let z := (List.range ms.length).foldl (fun u i => match ms[i]? with
        | some x => u.addTask pk .plain 0 x.1 x.2 arg deps unit (some (y.fresh, i)) (launchAcq deps pk.acq)
        | none => u) y.next
      exec (.gang slot) s = .next (({ z with gangs := z.gangs ++ [{
        id := y.fresh, partition := pk.partition, tasks := (z.tasks.filter fun t => (t.gang.map Prod.fst) == some y.fresh).map (·.id)
        pipes := pipes, bars := ms.map (·.2.bars) }] } : State).modPacket pk.id fun x => { x with left := ms.length })) ∧
    (∀ pk u w, TakesPacket s slot 4 pk u → u.needs pk ((List.range 5).filterMap fun i =>
        if pk.word (16 + 8 * i) 8 = 0 then none else some (16 + 8 * i, pk.word (16 + 8 * i) 8, 8, true, false)) = .ok w →
      exec (.barrier slot) s = .next w) ∧
    (∀ pk u w, TakesPacket s slot 5 pk u → u.needs pk [(16, pk.word 16 8, pk.word 32 8, true, false),
        (24, pk.word 24 8, pk.word 32 8, false, true)] = .ok w → exec (.copy slot) s = .next w) ∧
    (∀ pk u w, TakesPacket s slot 6 pk u → u.needs pk [(16, pk.word 16 8, 8, false, true)] = .ok w → exec (.signal slot) s = .next w) ∧
    (∀ pk u, TakesPacket s slot 7 pk u → pk.word 16 8 = 0 → exec (.wnode slot) s = .next u) ∧
    (∀ pk u w bs p, TakesPacket s slot 7 pk u → pk.word 16 8 ≠ 0 → u.readTcb pk.partition (BitVec.ofNat 64 (pk.word 16 8)) 0 none = .ok w bs p →
      exec (.wnode slot) s = .next (if p.regs < 16 then w.endPacket pk.id 1 0 30 0 else w.modPacket pk.id fun x => { x with wnode := some p })) ∧
    (∀ pk u w, TakesPacket s slot 8 pk u → u.needs pk [(16, pk.word 16 8, 128, true, false), (24, pk.word 24 8, 48, false, true)] = .ok w →
      exec (.measure slot) s = .next w) ∧
    (∀ pk u, TakesPacket s slot 9 pk u → exec (.nopPacket slot) s = .next u) ∧
    (∀ pk : Packet,
      let u := s.modPacket pk.id fun x => { x with started := true }
      (pk.word 0 1 = 5 → pk.word 32 8 ≠ 0 → s.begin pk = some ({ u with copies := u.copies ++ [{
        id := s.fresh, block := pk.partition, bundle := pk.die, lane := 32, stream := 0, pc := 0, src := pk.word 16 8, valid := 0, off := 0
        tag := 0, b := false, packet := some (pk.word 24 8, pk.word 32 8, pk.id) }] } : State).next) ∧
      (∀ pa, pk.word 0 1 = 6 → (∀ d < 8, d ≠ pk.partition → (s.part d).det = false) → u.headWaits pk.partition (pk.word 16 8) = false → u.vpa pk.partition (pk.word 16 8) true = some pa →
        s.begin pk = some ((u.headStore pk.partition pa (leBytes 8 (if pk.word 32 1 = 0 then pk.word 24 8
          else (leNat (readBytes u.mem pa 8) + pk.word 24 8) % 2 ^ 64))).endPacket pk.id 0 0 0 0)) ∧
      (pk.word 0 1 = 7 → pk.word 16 8 = 0 →
        (s.wnodes.find? fun n => n.die == pk.word 28 1 && n.index == pk.word 24 1 && n.partition == pk.partition) = none →
        s.begin pk = some (u.endPacket pk.id 0 0 0 0)) ∧
      (∀ n, pk.word 0 1 = 7 → pk.word 16 8 = 0 →
        (s.wnodes.find? fun n => n.die == pk.word 28 1 && n.index == pk.word 24 1 && n.partition == pk.partition) = some n →
        s.begin pk = some { u with wnodes := upd u.wnodes (·.id == n.id) fun n => { n with removing := some pk.id } }) ∧
      (pk.word 0 1 = 7 → pk.word 16 8 ≠ 0 → (s.wnodes.any fun n => n.die == pk.word 28 1 && n.index == pk.word 24 1) = true →
        s.begin pk = some (u.endPacket pk.id 1 0 24 0)) ∧
      (∀ p, pk.word 0 1 = 7 → pk.word 16 8 ≠ 0 → (s.wnodes.any fun n => n.die == pk.word 28 1 && n.index == pk.word 24 1) = false →
        pk.wnode = some p → s.begin pk = some { u with
          wnodes := u.wnodes ++ [{ id := u.fresh, die := pk.word 28 1, index := pk.word 24 1, partition := pk.partition
                                   tcb := BitVec.ofNat 64 (pk.word 16 8), words := pk.word 25 1, timer := pk.word 26 2, program := p, xlat := []
                                   packet := pk.id, cls := pk.cls, priv := pk.priv }]
          tasks := u.tasks ++ [{ id := u.fresh + 1, tid := 0, partition := pk.partition, cls := pk.cls, packet := pk.id, kind := .install u.fresh
                                 index := 0, tcb := BitVec.ofNat 64 (pk.word 16 8), program := p, arg := 0, order := pk.id }]
          fresh := u.fresh + 2 }) ∧
      (pk.word 0 1 = 9 → s.begin pk = some (u.endPacket pk.id 0 0 0 0)) ∧
      ((∀ i < 5, pk.word (16 + 8 * i) 8 ≠ 0 → (s.vread pk.partition (pk.word (16 + 8 * i) 8) 8).map leNat = some 0) →
        s.checkBarrier pk = s.endPacket pk.id 0 0 0 0)) ∧
    (∀ pk status cause detail task, s.packet? op = some pk → pk.status = some (status, cause, detail, task) → 0 < pk.left →
      exec (.packetCompletion op) s = .next s) ∧
    (∀ pk status cause detail task, s.packet? op = some pk → pk.status = some (status, cause, detail, task) → pk.left = 0 →
      s.heldBack pk = false → s.fetching = true → pk.gap = false →
      (pk.word 8 8 = 0 ∨ s.headWaits pk.partition (pk.word 8 8) = false) → (∀ d < 8, d ≠ pk.partition → (s.part d).det = false) →
      let u := if pk.word 8 8 = 0 ∨ pk.signalOk = false then s else match s.vpa pk.partition (pk.word 8 8) true with
        | none => s
        | some pa => s.headStore pk.partition pa (leBytes 8 (if status = 0 then (leNat (readBytes s.mem pa 8) + (2 ^ 64 - 1)) % 2 ^ 64
            else 2 ^ 64 - 1))
      let v := if status = 0 ∧ pk.records = false then u else u.event pk.partition status
        (leBytes 8 (u.timeIn pk.partition 0) ++ leBytes 4 pk.source ++ leBytes 2 status ++ leBytes 2 cause ++ leBytes 8 detail.toNat ++
          leBytes 4 (if status = 5 then task else pk.word 4 4) ++ leBytes 4 0)
      exec (.packetCompletion op) s = .next { v.unlease (packetHolder pk.id) with packets := v.packets.filter fun x => !(x.id == pk.id) }) ∧
    exec (.heldRecordFlush part) s = .next (s.flushEvents part) ∧
    (∀ rec u, (s.part part).evHeld = [rec] → (s.part part).evRoom = true →
      s.vstore part ((s.part part).evBase.toNat + 32 * ((s.part part).evWrite % (s.part part).evSize)) rec (some 3) = some u →
      exec (.heldRecordFlush part) s = .next ((u.modPart part fun q => { q with evWrite := (q.evWrite + 1) % 2 ^ 32 }).modPart part fun q =>
        { q with evHeld := q.evHeld.drop 1 })) ∧
    s.recordDone part 3 = (s.modPart part fun q => { q with
      evPending := q.evPending + 1, evOldest := some (q.evOldest.getD s.clk) }).evInterrupt part ∧
    (∀ c, (s.part part).evOldest = some c → 0 < (s.part part).evPending → c + 1050 * (s.part part).coalesceT ≤ s.clk →
      exec (.interruptCoalesceTimeout part) s =
        .next ((s.modPart part fun q => { q with evPending := 0, evOldest := none }).msix (s.part part).vectorNo)) ∧
    exec (.msiXVectorUnmask v) s = .next (s.unmask v) ∧
    exec (.msiXVectorUnmask v) s = .next { s with
      msixOpen := distinct (v :: s.msixOpen), msixPending := s.msixPending.filter fun x => !(x == v)
      out := if s.msixPending.contains v = true then s.out ++ [.msix v] else s.out }

/-- What comes from outside a partition (R370, R391, R397 to R400, R408, R409, R416, R425): outside deterministic mode it acts at once; in
deterministic mode it joins the inputs of the next boundary and nothing else of the machine changes. A requeue launches a parked task again with
its TCB read anew, a cancel ends it with status 5, a doorbell moves the write index or puts the queue in error, and the window's registers take
what is written. That an input's operands stand for what its sender names is the model's choice (log entry 78), and so are
the details of a failing access (64), of a cancel (54, 125), of window writes (63, 87) and of the commands' reach (73), inputs of lockstep (61, 71) and the MSI-X mask
at reset (69). -/
def Obligations.OutsideInputsActOrWait : Prop :=
  ∀ (part slot op source size : Nat) (task v32 : BitVec 32) (va page qcb value : BitVec 64) (code : BitVec 16)
    (data desc payload packet : List (BitVec 8)) (s : State),
    let both : Instr → Nat → Input → State → Prop := fun i p x u =>
      ((s.part p).det = false → exec i s = .next u) ∧
      ((s.part p).det = true → (s.part p).lockstep = false → exec i s = .next (s.modPart p fun q => { q with inputs := q.inputs ++ [x] }))
    both (.pagingDoorbell part) part (.pagingDoorbell part) (s.pagingDoorbell part) ∧
    both (.requeue part task) part (.requeue part task) (s.requeue part task) ∧
    both (.cancel part task) part (.cancel part task) (s.cancelTask part task) ∧
    ((s.inbound.any fun y => y.id == op && y.enqueue.isNone) = false →
      let x : Nat × BitVec 64 := if source = 0 then (s.winPartition, s.winBase + BitVec.ofNat 64 (va.toNat % 2 ^ 36)) else (part, va)
      both (.inboundAccess op part source va size data) x.1 (.access op x.1 source x.2 size data)
        (s.inboundAccess op x.1 source x.2 size data)) ∧
    ((s.inbound.any fun y => y.id == op && y.enqueue.isNone) = true →
      let x : Nat × BitVec 64 := if source = 0 then (s.winPartition, s.winBase + BitVec.ofNat 64 (va.toNat % 2 ^ 36)) else (part, va)
      exec (.inboundAccess op part source va size data) s = .next (s.inboundAccess op x.1 source x.2 size data)) ∧
    (s.req? op = none → (s.inbound.any fun y => y.id == op && y.enqueue.isSome) = false → both (.pwenqAtTarget op code part desc payload packet) part (.enqueue op code.toNat part desc payload packet)
      (s.serveEnqueue op code.toNat part desc payload packet)) ∧
    ((s.req? op).map (·.phase) = some .sent → both (.pwenqReply op code page) (s.reqPart op) (.enqueueReply op code.toNat page)
      (s.enqueueReply op code.toNat page)) ∧
    (∀ r dst d pay pkt w x y c lo hi, s.req? op = some r → r.kind = .pwenq dst d pay pkt → r.phase = .done w x y [c, lo, hi] → c.toNat ≤ 2 →
      exec (.pwenqReply op code page) s = .next ((s.drawn.dropReq op).landThread r.bundle r.lane fun t => t.write dst c)) ∧
    both (.pwenqNoReply op) (s.reqPart op) (.noReply op) (s.noReply op) ∧
    both (.queueMap slot qcb) (s.slotPart slot) (.queueMap s.winPartition slot qcb)
      (if qcb = 0 then s.unmapQueue slot else if s.bringup < 6 then s else s.mapFor slot s.winPartition qcb) ∧
    ((s.part (s.slotPart slot)).det = false → qcb ≠ 0 → 6 ≤ s.bringup → ((s.slot slot).mapped = true ∨ qcb.toNat % 64 ≠ 0) →
      exec (.queueMap slot qcb) s = .next (s.modSlot slot fun x => { x with lastRefused := true, wants := none })) ∧
    both (.queueUnmap slot) (s.slotPart slot) (.queueUnmap slot) (s.unmapQueue slot) ∧
    both (.queueReset slot) (s.slotPart slot) (.queueReset slot) (s.resetQueue slot) ∧
    both (.doorbell slot value) (s.slotPart slot) (.doorbell slot value.toNat) (s.doorbell slot value.toNat) ∧
    both (.observationControlWrite part v32) part (.register (partReg part 0x100) (v32.zeroExtend 64)) (s.writeControl part v32) ∧
    both (.stopAtTheMark part) part (.command part 1) (s.command part 1) ∧
    both (.resumeThePartition part) part (.command part 2) (s.command part 2) ∧
    both (.haltTask part) part (.command part 3) (s.command part 3) ∧
    both (.resumeTask part) part (.command part 4) (s.command part 4) ∧
    both (.setSingleStep part) part (.command part 5) (s.command part 5) ∧
    both (.clearSingleStep part) part (.command part 6) (s.command part 6) ∧
    both (.resumeObservation part) part (.command part 7) (s.command part 7) ∧
    both (.faultQueueReadIndexWrite part value) part (.faultRead part value.toNat) (s.readFaults part value.toNat) ∧
    (s.regPart v32.toNat = none → exec (.hostRegisterWrite v32 size value) s = .next (s.writeWindow v32.toNat size value.toNat)) ∧
    (∀ p, s.regPart v32.toNat = some p →
      both (.hostRegisterWrite v32 size value) p (.window s.winPartition v32.toNat size value) (s.writeWindow v32.toNat size value.toNat)) ∧
    (v32 = 0x11000 → value.toNat < 8 → exec (.hostRegisterWrite v32 1 value) s = .next { s with winPartition := value.toNat }) ∧
    (v32 = 0x11008 → value.toNat % 2 ^ 36 = 0 → exec (.hostRegisterWrite v32 8 value) s = .next { s with winBase := value }) ∧
    (v32 = 0x18200 → value = 1 → exec (.hostRegisterWrite v32 4 value) s = exec (.partitionConfigCommand 1) s) ∧
    (part < 8 → 6 ≤ s.bringup → (s.part part).det = false → s.anyMapped part = false →
      (v32.toNat = 0x190000 + 4096 * part →
        exec (.hostRegisterWrite v32 8 value) s = .next (s.modPart part fun q => { q with root := value })) ∧
      (v32.toNat = 0x190000 + 4096 * part + 8 →
        exec (.hostRegisterWrite v32 8 value) s = .next (s.modPart part fun q => { q with vector := value }))) ∧
    (part < 8 → 6 ≤ s.bringup → (s.part part).det = false → s.anyMapped part = true → v32.toNat = 0x190000 + 4096 * part →
      exec (.hostRegisterWrite v32 8 value) s = .next s) ∧
    ((s.part (s.slotPart slot)).det = false → 6 ≤ s.bringup →
      let x := s.slot slot
      let v := value.toNat
      ((x.mapped = false ∨ v < x.writeIdx) → exec (.doorbell slot value) s = .next s) ∧
      (x.mapped = true → x.writeIdx ≤ v → x.readIdx + 2 ^ x.log2 < v → exec (.doorbell slot value) s =
        .next (((s.modSlot slot fun x => { x with error := true }).writeQcb slot).queueRecord x.partition slot value 1)) ∧
      (x.mapped = true → x.writeIdx ≤ v → v ≤ x.readIdx + 2 ^ x.log2 → s.fetching = false →
        exec (.doorbell slot value) s = .next (s.modSlot slot fun x => { x with writeIdx := v })) ∧
      (x.mapped = true → x.writeIdx ≤ v → v ≤ x.readIdx + 2 ^ x.log2 →
        (s.modSlot slot fun x => { x with writeIdx := v }).fetching = true →
        exec (.doorbell slot value) s = .next ((s.modSlot slot fun x => { x with writeIdx := v }).writeQcb slot)) ∧
      (x.mapped = false → exec (.queueReset slot) s = .next s) ∧
      (x.mapped = true → exec (.queueReset slot) s = .next ((s.modSlot slot fun x => { x with error := false }).writeQcb slot))) ∧
    ((s.part part).det = false →
      let parked := s.tasks.find? fun t => t.partition == part && t.tid == task.toNat && t.phase == .parked
      let owned := s.tasks.find? fun t => t.partition == part && t.tid == task.toNat && (t.phase == .parked || t.inLease)
      let result : State → BitVec 32 → State := fun u v => u.modPart part fun q => { q with lastCmd := v }
      let again : State → Task → Program → State := fun u t p => u.modTask t.id fun x => { x with
        program := p, phase := .waiting, restart := true, flushed := false, fault := none, all := p.allRanges }
      (parked = none → exec (.requeue part task) s = .next (result s 1)) ∧
      (∀ t g i x y, parked = some t → t.kind = .node g i x y → x ≠ 2 → exec (.requeue part task) s = .next (result (again s t t.program) 0)) ∧
      (∀ t u bs p, parked = some t → t.kind = .plain → s.readTcb part t.tcb t.arg none = .ok u bs p →
        exec (.requeue part task) s = .next (result (again u t p) 0)) ∧
      (∀ t u o, parked = some t → t.kind = .plain → s.readTcb part t.tcb t.arg none = .fails u o →
        exec (.requeue part task) s = .next (result (u.faultEntry part (faultBytes t.tcb t.tid t.blockIndex 3 (BitVec.ofNat 64 (o.getD 0)) 0 0 0
          t.faultFlags (u.timeIn part 0))) 0)) ∧
      (∀ t, parked = some t → t.kind = .plain → s.readTcb part t.tcb t.arg none = .wait →
        exec (.requeue part task) s = .next (s.modPart part fun q => { q with requeues := distinct (q.requeues ++ [task]) })) ∧
      (owned = none → exec (.cancel part task) s = .next (result s 1)) ∧
      (∀ t, owned = some t → t.kind = .plain → t.unit = none → t.gang = none →
        let u := ({ s with tasks := s.tasks.filter fun x => !(x.id == t.id) } : State).modPacket t.packet fun x => { x with
          left := x.left - 1, status := some (x.status.getD (5, 0, 0, t.tid)) }
        exec (.cancel part task) s = .next (result (match u.packet? t.packet with
          | some x => if x.left = 0 then u.endPacket t.packet 0 0 0 0 else u
          | none => u) 0)) ∧
      (∀ t g i x y, owned = some t → t.kind = .node g i x y →
        let u : State := { s with
          tasks := s.tasks.filter fun u => !(u.id == t.id)
          grids := upd s.grids (·.id == g) fun x => { x with
            ended := some (x.ended.getD (5, ((t.fault.map (·.1.cause)).getD 0), BitVec.ofNat 64 i, t.tid)) } }
        exec (.cancel part task) s = .next (result (u.endUnit t.id true) 0)) ∧
      exec (.pagingDoorbell part) s = .next { s with tasks := s.tasks.map fun t => if t.partition == part then (match t.phase with
        | .paging _ => { t with phase := .waiting }
        | _ => t) else t } ∧
      ((s.part part).fqHeld = [] → exec (.faultQueueReadIndexWrite part value) s = .next (s.modPart part fun q => { q with
        fqRead := value.toNat % 2 ^ 32, fqHeld := [] }))) ∧
    (slot < 128 → v32.toNat = 0x100000 + 4096 * slot → 6 ≤ s.bringup → (s.part (s.slotPart slot)).det = false →
      exec (.hostRegisterWrite v32 8 value) s = .next (s.doorbell slot value.toNat)) ∧
    (6 ≤ s.bringup → (s.part part).det = false →
      exec (.resumeThePartition part) s =
        .next ((((s.tasks.filter (·.partition == part)).map (·.id)).foldl (fun u t => u.modTaskBlocks t fun k => { k with halted := false }) s).modPart
          part fun q => { q with stopReached := false, obsResult := 0 }) ∧
      (s.markTasks part ≠ [] →
        let done : State → State := fun u => u.modPart part fun q => { q with obsResult := 0 }
        let step : Bool → State := fun v => (s.markTasks part).foldl (fun u t => (u.modTask t.id fun t => { t with singleStep := v }).modTaskBlocks
          t.id fun k => { k with singleStep := v }) s
        exec (.haltTask part) s = .next (done ((s.markTasks part).foldl (fun u t =>
          (((u.blocks.filter (·.task == t.id)).map (·.id)).foldl (fun u k => u.haltBlock k) u).modTaskBlocks t.id fun k => { k with halted := true }) s)) ∧
        exec (.resumeTask part) s =
          .next (done ((s.markTasks part).foldl (fun u t => u.modTaskBlocks t.id fun k => { k with halted := false }) s)) ∧
        exec (.setSingleStep part) s = .next (done (step true)) ∧ exec (.clearSingleStep part) s = .next (done (step false))) ∧
      (s.markTasks part = [] → ∀ i : Instr, (i = .haltTask part ∨ i = .resumeTask part ∨ i = .setSingleStep part ∨ i = .clearSingleStep part) →
        exec i s = .next (s.modPart part fun q => { q with obsResult := 1 })) ∧
      exec (.stopAtTheMark part) s = .next (s.modPart part fun q => { q with obsResult := 3 }) ∧
      (let on : Ring → Ring := fun r => { r with suspended := false }
       let u := s.modPart part fun q => { q with sample := on q.sample, trace := on q.trace, exits := on q.exits, obsResult := 0 }
       exec (.resumeObservation part) s =
         .next (if (s.part part).trace.suspended = true ∧ (s.part part).traces = true then u.syncGroup part else u))) ∧
    (6 ≤ s.bringup → (s.part part).det = true → (∃ i ∈ (s.part part).logs, i.number = (s.part part).mark.1) →
      s.command part 1 = (s.rollback part (s.part part).mark.1 true).modPart part fun q => { q with
        stopping := some (q.mark.2.1, q.mark.2.2), obsResult := 0 })

/-- The Headstock, determinism and lockstep (R19, R391, R411, R412, R425, R426, R428, R429): the table is checked and installed, the leader renews
or is replaced and takes over, an inbound access or enqueue times out, a boundary applies the inputs it holds or re-executes the logged ones, a
checkpoint begins an interval and keeps two, and hashes are compared. The model's choices in it are those of log entries 5 and 76 (events), 116
(the table of the command's moment), 64 and 134 (inbound accesses and enqueues), 66 (leader changes), 68 and 70 (rollback, the logs,
hashes of freed intervals), 71 and 74 (the inputs' order, boundaries), 61 (input codes) and 13 (peers' answers). -/
def Obligations.HeadstockAndLockstepEvents : Prop :=
  ∀ (die part kind target op : Nat) (value : BitVec 64) (v32 : BitVec 32) (hash : List (BitVec 8)) (s : State),
    exec (.partitionConfigCommand v32) s = .next (s.configCommand v32.toNat) ∧
    (v32 = 1 → s.presult ≠ 1 → s.tableBad s.ptable = none →
      exec (.partitionConfigCommand v32) s = .next { s with presult := 1, pnext := s.ptable }) ∧
    (∀ r, v32 = 1 → s.presult ≠ 1 → s.tableBad s.ptable = some r → exec (.partitionConfigCommand v32) s = .next { s with presult := r }) ∧
    (s.presult = 1 → (∀ k ∈ s.blocks, s.quadOwner (k.core / 4) = tableOwner s.pnext (k.core / 4)) →
      exec .partitionInstall s = .next { s with presult := 0, pnext := [], partitions := s.partitions.mapIdx fun p q => { q with
        mode := field (s.pnext.getD p []) 20 1, quads := entryQuads (s.pnext.getD p []), ways := field (s.pnext.getD p []) 21 1
        channels := field (s.pnext.getD p []) 22 1 } }) ∧
    (s.leaderValid = true → s.time 0 ≤ s.expiry → exec .leaderRenew s = .next { s with expiry := s.time s.leaderDie + 1000000 }) ∧
    (die ≤ 3 → 3 ≤ s.bringup → (s.leaderValid = false ∨ (s.leaderDie ≠ die ∧ s.expiry < s.time die)) → exec (.leaderPoll die) s = .next { s with
      leaderDie := die, leaderValid := true, epoch := (s.epoch + 1) % 2 ^ 29, expiry := s.time die + 1000000, takingOver := true }) ∧
    (s.bringup < 3 → exec (.leaderPoll die) s = .next s) ∧
    (s.takingOver = true → s.leaderDie = die →
      let u := (List.range 128).foldl (fun u k => if (u.slot k).mapped then u.writeQcb k else u) { s with takingOver := false }
      exec (.headstockTakeover die) s = .next (((List.range 8).filter fun p => !((u.part p).mode == 0)).foldl
        (fun v p => v.queueRecord p 0x7F (BitVec.ofNat 64 v.epoch) 2) u)) ∧
    (∀ x, s.inbound.find? (·.id == op) = some x → x.arrived + 2100000 ≤ s.clk →
      let u : State := ({ s with inbound := s.inbound.filter fun y => !(y == x) } : State).inboundRecord
        x.partition x.va.toNat true x.write.isSome x.host x.pkg
      (x.enqueue = none → exec (.inboundTimeout op) s = .next (u.answer x.partition op false [])) ∧
      (∀ d, x.enqueue = some d → exec (.inboundTimeout op) s =
        .next (u.enqueueError x.partition op x.pkg (x.va.toNat / 65536 * 65536)))) ∧
    (s.boundaryDue part = true → exec (.inputBoundary part) s = .next (s.inputBoundary part)) ∧
    (s.boundaryDue part = true → (s.part part).replay = [] →
      let xs := inputOrder (s.part part).inputs
      let r := (s.modPart part fun q => { q with
        boundary := q.boundary + 1, boundaryClk := s.clk, boundaryTime := s.time 0, inputs := [] }).applyInputs part (xs.filter fun x => !x.isStop)
      exec (.inputBoundary part) s = .next ((xs.filter Input.isStop).foldl (applyPlain part) (r.1.modPart part fun y => { y with
        inputs := y.inputs ++ r.2.2, replay := y.replay.drop 1
        logs := match y.logs with
          | [] => []
          | i :: is => { i with inputs := i.inputs ++ [(y.boundary, s.time 0, r.2.1)] } :: is }))) ∧
    (s.boundaryDue part = true → (s.part part).det = true → ∀ x rest, (s.part part).replay = x :: rest →
      let r := (s.modPart part fun q => { q with
        boundary := q.boundary + 1, boundaryClk := s.clk, boundaryTime := x.2.1 }).applyInputs part (x.2.2.filter fun i => !i.isStop)
      exec (.inputBoundary part) s = .next ((x.2.2.filter Input.isStop).foldl (applyPlain part) (r.1.modPart part fun y => { y with
        inputs := y.inputs ++ r.2.2, replay := y.replay.drop 1
        logs := match y.logs with
          | [] => []
          | i :: is => { i with inputs := i.inputs ++ [(y.boundary, x.2.1, r.2.1)] } :: is }))) ∧
    (s.checkpointDue part = true → exec (.checkpoint part) s = .next (s.checkpoint part)) ∧
    (s.checkpointDue part = true → (s.part part).lockstep = false → s.partBlocks part = [] →
      ∃ o, exec (.checkpoint part) s = .next (s.drawn.modPart part fun q => { q with
        interval := (s.part part).interval + 1
        logs := ({ number := (s.part part).interval + 1, snapshot := s.drawn.snapshot part, start := (s.part part).boundary,
                   time := (s.part part).boundaryTime, at_ := o, len := 0 } :: q.logs).take 2 })) ∧
    (∀ i, (s.part part).lockstep = true → (s.part part).control.getLsbD 6 = false → inputOf part kind target value = some i →
      exec (.lockstepInputMessage part kind target value) s = .next (s.modPart part fun q => { q with inputs := q.inputs ++ [i] })) ∧
    ((s.part part).lockstep = true → (s.part part).failStopped = false → (s.part part).theirs = [] → part < s.partitions.length →
      let v := s.modPart part fun q => { q with theirs := q.theirs ++ [hash] }
      ((s.part part).hashes = [] → exec (.lockstepHashArrival part hash) s = .next v) ∧
      (∀ n mine c hs, (s.part part).hashes = (n, mine, c) :: hs →
        (mine = hash → exec (.lockstepHashArrival part hash) s =
          .next ((v.releaseOut part n).modPart part fun q => { q with hashes := hs, theirs := [], mismatch := false })) ∧
        (mine ≠ hash → ((s.part part).mismatch = true ∨ (∀ i ∈ (s.part part).logs, i.number ≠ n)) →
          exec (.lockstepHashArrival part hash) s = .next (v.failStop part n)) ∧
        (mine ≠ hash → (s.part part).mismatch = false → (∃ i ∈ (s.part part).logs, i.number = n) →
          exec (.lockstepHashArrival part hash) s = .next ((v.rollback part n false).modPart part fun q => { q with
            hashes := [], theirs := [], mismatch := true, heldOut := q.heldOut.filter fun x => decide (x.1 < n) })))) ∧
    (∀ n mine c hs, (s.part part).hashes = (n, mine, c) :: hs → (s.part part).lockstep = true → c + 1050000 ≤ s.clk →
      let u := (s.haltAll part).modPart part fun q => { q with heldOut := [], hashes := [], theirs := [], failStopped := true }
      let w := ((List.range 128).filter fun k => (u.slot k).mapped && (u.slot k).partition == part).foldl
        (fun x k => (x.modSlot k fun y => { y with error := true }).writeQcb k) u
      exec (.lockstepHashTimeout part) s =
        .next (w.event part 9 (recordBytes (w.timeIn part 0) 0x7F 9 1 (BitVec.ofNat 64 n) 0 0)))

/-- The package's device (R430, R433 to R435, R437, R438, R440, R441): freezing, the test port, the power cap and its controller, the monitors,
the challenge and its signature, reset, loss of power, and each step of bring-up. The model's choices in it are those of log entries 5 and 76
(events), 11 (readings and module power), 80 (the cut's clock and rounding, the event of a restore), 81 and 62 (the report and its status), 134
(when a signature is released), 10 (signatures), 8 and 82 (identity, and what bring-up picks), 83 and 84 (before bring-up, what a reset
keeps) and 67 (a deterministic partition's P). -/
def Obligations.DeviceEventsTakeEffect : Prop :=
  ∀ (die : Nat) (value unit : BitVec 32) (challenge : List (BitVec 8)) (s : State),
    exec .freezePin s = .next s.freeze ∧ exec (.freezeRegisterWrite 1) s = .next s.freeze ∧
    (value ≠ 1 → exec (.freezeRegisterWrite value) s = .next s) ∧
    exec (.select unit) s = .next { s with jtagInstr := 0x40, jtagUnit := unit, jtagWord := 0 } ∧
    (s.frozen = true → exec .read s = .next { s.drawn with
      jtagInstr := 0x41, jtagWord := s.jtagWord + 1
      out := s.out ++ [.jtag ((List.range 8).map fun i =>
        ((s.unitBytes.drop (8 * s.jtagWord)).take 8).getD i (Config.freeByte s.draw i))] }) ∧
    (s.frozen = true → s.jtagUnit.toNat / 1024 % 2 = 1 → s.unitBytes =
      ((s.lines.filter fun x => homeDie (64 * x.line) == s.jtagUnit.toNat % 4 && homeSlice (64 * x.line) == s.jtagUnit.toNat / 4 % 256).flatMap
        fun x => leBytes 8 (64 * x.line) ++ s.lineData x.line) ++
      (((s.die (s.jtagUnit.toNat % 4)).copies.filter fun k => homeSlice (64 * k.line) == s.jtagUnit.toNat / 4 % 256).flatMap
        fun k => leBytes 8 (64 * k.line) ++ k.data)) ∧
    (s.frozen = true → s.jtagUnit.toNat / 1024 % 2 = 0 → s.unitBytes =
      ((s.blocks.filter fun k => k.core == 160 * (s.jtagUnit.toNat % 4) + s.jtagUnit.toNat / 4 % 256).map s.savedOf).flatMap
        fun x => x.record (s.tidOf x) s.draw) ∧
    (s.frozen = false → exec .read s = .next { s with jtagInstr := 0x41 }) ∧
    exec .idcode s = .next { s with
      jtagInstr := 0x01, out := s.out ++ [.jtag (leBytes 4 (Config.identityWord 0xFFFF0001).toNat)] } ∧
    exec .bypass s = .next { s with jtagInstr := 0xFF } ∧
    (let c := max 300 (min 1800 value.toNat)
     let e := if s.throttled then c / 2 else c
     exec (.powerCapWrite value) s = .next (({ s with cap := c, effCap := e } : State).newPool (max 256 (2560 * e / 1800)))) ∧
    (∀ c, s.overSince = some c → c + 11550000 ≤ s.clk →
      exec .powerOverage s = .next (if s.effCap < min 1800 (Config.modulePower s.clk) then
        (({ s.drawn with overSince := some (s.clk - 10500000) } : State).newPool
          (max 256 (s.target - (s.target + Config.pick s.draw % 8) / 8))) else s)) ∧
    (min 1800 (Config.modulePower s.clk) < s.effCap → s.target ≠ poolOf s.effCap →
      exec .powerFallsBelowCap s = .next (({ s with overSince := none } : State).newPool (poolOf s.effCap))) ∧
    (die ≤ 3 → (s.die die).refreshClk + 105000 ≤ s.clk → exec (.monitorRefresh die) s =
      .next (((s.readMonitors die).modDie die fun d => { d with refreshClk := s.clk }).actOnReadings die)) ∧
    (die ≤ 3 → exec (.hottestReadingRead die) s = .next (s.readHottest die)) ∧
    (∀ v, die ≤ 3 → (s.die die).hottest = some v → exec (.hottestReadingRead die) s = .next (({ s.drawn with
      out := s.out ++ [Message.window (0x14048 + 256 * die) (leBytes 2 v.toNat)] } : State).modDie die fun d => { d with hottest := none })) ∧
    (∀ c, s.coolSince = some c → c + 105000000 ≤ s.clk → s.throttled = true →
      let t : State := { s.drawn with dies := s.dies.map fun d => { d with throttled := false }, effCap := s.cap }
      exec .thermalRestore s = .next ((t.newPool (poolOf s.cap)).moduleEvent (Config.pick s.draw % 4) (Config.pick s.draw / 4 % 24) 0 1)) ∧
    (∀ d i, s.voltageOut = some (d, i) →
      exec .voltageStop s = .next (((s.modDie d fun x => { x with shutDown := true }).moduleEvent d i 1 2).freeze) ∧
      ∃ c, (s.die d).voltSince.getD i none = some c ∧ c + 1050000 ≤ s.clk) ∧
    ((∀ d < 4, ∀ i < 8, ∀ c, (s.die d).voltSince.getD i none = some c → s.clk < c + 1050000) → exec .voltageStop s = .next s) ∧
    ((s.bringup < 5 ∨ challenge.length ≠ 32) → exec (.attestationChallenge challenge) s = .next s) ∧
    (5 ≤ s.bringup → challenge.length = 32 →
      (s.signing.isSome = true → exec (.attestationChallenge challenge) s = .next { s with challenges := s.challenges ++ [challenge] }) ∧
      (s.signing = none → s.signIdx < 2 ^ 20 → exec (.attestationChallenge challenge) s = .next { s with
        challenge := challenge, report := [], reportStatus := 0, signIdx := s.signIdx + 1, signing := some (s.signIdx, some challenge) }) ∧
      (s.signing = none → 2 ^ 20 ≤ s.signIdx → exec (.attestationChallenge challenge) s = .next { s with
        challenge := challenge, report := [], reportStatus := 0xFFFF0000 })) ∧
    (∀ n, s.signing = some (n, some challenge) → s.challenges = [] →
      let body := challenge ++ digest32 Config.image ++ s.identity ++ s.configBytes ++ leBytes 4 n
      s.release = { s with signing := none, report := body ++ Config.signature n body, reportStatus := 1 }) ∧
    (∀ n, s.signing = some (n, none) → s.release = { s with
      signing := none, idCovered := idCovers, idSignature := (Config.signature n idCovers).take 4096, bringup := max 5 s.bringup }) ∧
    exec .powerOnReset s = .next s.afterReset ∧
    exec .powerFailure s = .next { s.afterReset with bringup := 0 } ∧
    (s.afterReset.signIdx = s.signIdx ∧ s.afterReset.idSignature = s.idSignature ∧ s.afterReset.idCovered = s.idCovered ∧
      s.afterReset.signing = none) ∧
    (s.bringup = 1 → exec .bringupStep s = .next { s with bringup := 2 }) ∧
    (s.bringup = 3 → exec .bringupStep s = .next { s with bringup := 4, pkg := Config.topology % 512 }) ∧
    (s.bringup = 4 → s.signing = none →
      (s.idCovered = idCovers → s.idSignature ≠ [] → exec .bringupStep s = .next { s with bringup := 5 }) ∧
      ((s.idCovered ≠ idCovers ∨ s.idSignature = []) → s.signIdx < 2 ^ 20 → exec .bringupStep s = .next { s with
        signIdx := s.signIdx + 1, signing := some (s.signIdx, none) }) ∧
      ((s.idCovered ≠ idCovers ∨ s.idSignature = []) → 2 ^ 20 ≤ s.signIdx → exec .bringupStep s = .next { s with bringup := 5 })) ∧
    (s.bringup = 2 → exec .bringupStep s = .next (if Config.imageSound 0 && Config.imageSound 1 && Config.imageSound 2 && Config.imageSound 3 then { s.drawn with
      bringup := 3, leaderDie := Config.pick s.draw % 4, leaderValid := true, epoch := (s.epoch + 1) % 2 ^ 29
      expiry := s.time 0 + 1000000 } else s)) ∧
    (s.bringup = 5 → exec .bringupStep s = .next { s with
      bringup := 6, draw := s.draw + 16
      dies := s.dies.mapIdx fun d x => { x with
        backoff := max 4 (min 4096 (Config.backoffBase d))
        combinerCores := pickSome (s.draw + 4 * d) 4 ((List.range 160).map (160 * d + ·)) } })
end

