-- ==== Sys2Proof/Laws/Memory.lean ====
section
/-! SUPPORT. Memory: the canonical form is kept by every write, and a read after a write gives what was written there and what
stood before everywhere else. -/

namespace Sys2Proof.Machine

/-! The canonical form. -/

theorem rising_mono {lo hi : Nat} (h : lo ≤ hi) : ∀ m : Mem, Mem.rising hi m = true → Mem.rising lo m = true
  | [], _ => rfl
  | (a, v) :: m, hr => by
    simp only [Mem.rising, Bool.and_eq_true, decide_eq_true_eq] at hr ⊢
    exact ⟨⟨Nat.le_trans h hr.1.1, hr.1.2⟩, hr.2⟩

theorem rising_mem {lo : Nat} : ∀ m : Mem, Mem.rising lo m = true → ∀ c ∈ m, lo ≤ c.1 ∧ c.2 ≠ 0
  | [], _, _, hc => by cases hc
  | (a, v) :: m, hr, c, hc => by
    simp only [Mem.rising, Bool.and_eq_true, decide_eq_true_eq, Bool.not_eq_true', beq_eq_false_iff_ne] at hr
    rcases List.mem_cons.mp hc with h | h
    · subst h; exact ⟨hr.1.1, hr.1.2⟩
    · have := rising_mem m hr.2 c h
      exact ⟨by omega, this.2⟩

theorem rising_filter (p : Host.Cell → Bool) : ∀ (lo : Nat) (m : Mem), Mem.rising lo m = true → Mem.rising lo (m.filter p) = true
  | _, [], _ => rfl
  | lo, (a, v) :: m, hr => by
    simp only [Mem.rising, Bool.and_eq_true, decide_eq_true_eq] at hr
    by_cases hp : p (a, v) = true
    · simp only [List.filter_cons, hp, if_true, Mem.rising, Bool.and_eq_true, decide_eq_true_eq]
      exact ⟨hr.1, rising_filter p _ m hr.2⟩
    · simp only [List.filter_cons, hp, Bool.false_eq_true, if_false]
      exact rising_mono (by omega) _ (rising_filter p _ m hr.2)

theorem rising_append (hi : Nat) (n : Mem) (hn : Mem.rising hi n = true) :
    ∀ (lo : Nat) (m : Mem), lo ≤ hi → Mem.rising lo m = true → (∀ c ∈ m, c.1 < hi) → Mem.rising lo (m ++ n) = true
  | _, [], hl, _, _ => rising_mono hl n hn
  | lo, (a, v) :: m, _, hr, hb => by
    simp only [Mem.rising, List.cons_append, Bool.and_eq_true, decide_eq_true_eq] at hr ⊢
    have ha : a < hi := hb (a, v) (by simp)
    exact ⟨hr.1, rising_append hi n hn (a + 1) m (by omega) hr.2 fun c hc => hb c (by simp [hc])⟩

theorem rising_cellsOf : ∀ (a : Nat) (bs : List Byte), Mem.rising a (cellsOf a bs) = true
  | _, [] => rfl
  | a, v :: vs => by
    by_cases hv : v = 0
    · simp only [cellsOf, hv, if_true]
      exact rising_mono (by omega) _ (rising_cellsOf (a + 1) vs)
    · have hv' : ¬ v = 0#8 := hv
      simp [cellsOf, hv', Mem.rising, rising_cellsOf (a + 1) vs]

theorem cellsOf_lt : ∀ (a : Nat) (bs : List Byte), ∀ c ∈ cellsOf a bs, c.1 < a + bs.length
  | _, [], _, hc => by simp [cellsOf] at hc
  | a, v :: vs, c, hc => by
    by_cases hv : v = 0
    · simp only [cellsOf, hv, if_true] at hc
      have := cellsOf_lt (a + 1) vs c hc
      simp only [List.length_cons]; omega
    · simp only [cellsOf, hv, if_false, List.mem_cons] at hc
      rcases hc with h | h
      · subst h; simp
      · have := cellsOf_lt (a + 1) vs c h
        simp only [List.length_cons]; omega

theorem rising_from (k : Nat) (m : Mem) (lo : Nat) (hr : Mem.rising lo m = true) (hk : ∀ c ∈ m, k ≤ c.1) : Mem.rising k m = true := by
  cases m with
  | nil => rfl
  | cons c m =>
    simp only [Mem.rising, Bool.and_eq_true, decide_eq_true_eq] at hr ⊢
    exact ⟨⟨hk c (by simp), hr.1.2⟩, hr.2⟩

/-- A write of bytes keeps the canonical form. -/
theorem writeBytes_wf (m : Mem) (a : Nat) (bs : List Byte) (h : m.wf = true) : (writeBytes m a bs).wf = true := by
  have h1 : Mem.rising (a + bs.length) (m.filter fun c => decide (a + bs.length ≤ c.1)) = true :=
    rising_from _ _ 0 (rising_filter _ 0 m h) fun c hc => by simpa using (List.mem_filter.mp hc).2
  have h2 : Mem.rising a (cellsOf a bs ++ m.filter fun c => decide (a + bs.length ≤ c.1)) = true :=
    rising_append (a + bs.length) _ h1 a _ (by omega) (rising_cellsOf a bs) (cellsOf_lt a bs)
  simp only [writeBytes, Mem.wf, List.append_assoc]
  exact rising_append a _ h2 0 _ (by omega) (rising_filter _ 0 m h) fun c hc => by simpa using (List.mem_filter.mp hc).2

theorem rising_writeByte (a : Nat) (v : Byte) : ∀ (lo : Nat) (m : Mem), lo ≤ a → Mem.rising lo m = true → Mem.rising lo (writeByte m a v) = true
  | lo, [], hl, _ => by
    by_cases hv : v = 0#8 <;> simp [writeByte, hv, Mem.rising, hl]
  | lo, (b, w) :: m, hl, hr => by
    simp only [Mem.rising, Bool.and_eq_true, decide_eq_true_eq] at hr
    by_cases h1 : a < b
    · by_cases hv : v = 0#8
      · have : writeByte ((b, w) :: m) a v = (b, w) :: m := by simp [writeByte, h1, hv]
        rw [this]
        simp only [Mem.rising, Bool.and_eq_true, decide_eq_true_eq]
        exact hr
      · simp only [writeByte, h1, if_true, show ¬ v = 0 from hv, if_false, Mem.rising, Bool.and_eq_true, decide_eq_true_eq]
        exact ⟨⟨hl, by simpa using hv⟩, ⟨by omega, hr.1.2⟩, hr.2⟩
    · by_cases h2 : a = b
      · by_cases hv : v = 0#8
        · simp only [writeByte, h2, hv, if_true, if_false, Nat.lt_irrefl]
          exact rising_mono (by omega) _ hr.2
        · simp only [writeByte, h2, show ¬ v = 0 from hv, if_true, if_false, Nat.lt_irrefl, Mem.rising, Bool.and_eq_true, decide_eq_true_eq]
          exact ⟨⟨hr.1.1, by simpa using hv⟩, hr.2⟩
      · simp only [writeByte, h1, h2, if_false, Mem.rising, Bool.and_eq_true, decide_eq_true_eq]
        exact ⟨hr.1, rising_writeByte a v (b + 1) m (by omega) hr.2⟩

/-- A write of one byte keeps the canonical form. -/
theorem writeByte_wf (m : Mem) (a : Nat) (v : Byte) (h : m.wf = true) : (writeByte m a v).wf = true := rising_writeByte a v 0 m (by omega) h

/-! Reads. -/

theorem readByte_below (lo : Nat) : ∀ (m : Mem) (a : Nat), Mem.rising lo m = true → a < lo → readByte m a = 0
  | [], _, _, _ => rfl
  | (b, v) :: m, a, hr, ha => by
    simp only [Mem.rising, Bool.and_eq_true, decide_eq_true_eq] at hr
    have h1 : ¬ a = b := by omega
    have h2 : a < b := by omega
    simp [readByte, h1, h2]

theorem readByte_cons (lo b : Nat) (v : Byte) (m : Mem) (a : Nat) (hr : Mem.rising lo ((b, v) :: m) = true) :
    readByte ((b, v) :: m) a = if a = b then v else readByte m a := by
  simp only [Mem.rising, Bool.and_eq_true, decide_eq_true_eq] at hr
  by_cases h1 : a = b
  · simp [readByte, h1]
  · by_cases h2 : a < b
    · simp [readByte, h1, h2, readByte_below (b + 1) m a hr.2 (by omega)]
    · simp [readByte, h1, h2]

theorem readByte_append (hi : Nat) (n : Mem) (hn : Mem.rising hi n = true) (a : Nat) : ∀ (lo : Nat) (m : Mem), Mem.rising lo m = true →
    (∀ c ∈ m, c.1 < hi) → readByte (m ++ n) a = if a < hi then readByte m a else readByte n a
  | _, [], _, _ => by
    by_cases h : a < hi
    · simp [h, readByte, readByte_below hi n a hn h]
    · simp [h]
  | lo, (b, v) :: m, hr, hb => by
    have hb' : b < hi := hb (b, v) (by simp)
    have hr' := hr
    simp only [Mem.rising, Bool.and_eq_true, decide_eq_true_eq] at hr'
    have ih := readByte_append hi n hn a (b + 1) m hr'.2 fun c hc => hb c (by simp [hc])
    have happ : Mem.rising b ((b, v) :: (m ++ n)) = true := by
      simp only [Mem.rising, Bool.and_eq_true, decide_eq_true_eq]
      exact ⟨⟨Nat.le_refl b, hr'.1.2⟩, rising_append hi n hn (b + 1) m (by omega) hr'.2 fun c hc => hb c (by simp [hc])⟩
    rw [List.cons_append, readByte_cons b b v (m ++ n) a happ, readByte_cons lo b v m a hr, ih]
    by_cases h1 : a = b
    · subst h1; simp [hb']
    · simp [h1]

theorem readByte_cellsOf (x : Nat) : ∀ (a : Nat) (bs : List Byte), a ≤ x → readByte (cellsOf a bs) x = bs.getD (x - a) 0
  | _, [], _ => by simp [cellsOf, readByte]
  | a, v :: vs, h => by
    by_cases hx : x = a
    · subst hx
      by_cases hv : v = 0#8
      · simp [cellsOf, hv, readByte_below (x + 1) _ x (rising_cellsOf (x + 1) vs) (by omega)]
      · simp [cellsOf, hv, readByte]
    · have ih := readByte_cellsOf x (a + 1) vs (by omega)
      have hs : x - a = (x - (a + 1)) + 1 := by omega
      by_cases hv : v = 0
      · simp only [cellsOf, hv, if_true, ih, hs, List.getD_cons_succ]
      · have hr : Mem.rising a ((a, v) :: cellsOf (a + 1) vs) = true := by
          have hv' : ¬ v = 0#8 := hv
          simpa [cellsOf, hv'] using rising_cellsOf a (v :: vs)
        simp only [cellsOf, hv, if_false]
        rw [readByte_cons a a v _ x hr, if_neg hx, ih, hs, List.getD_cons_succ]

theorem readByte_filter (p : Nat → Bool) (x : Nat) : ∀ (lo : Nat) (m : Mem), Mem.rising lo m = true →
    readByte (m.filter fun c => p c.1) x = if p x then readByte m x else 0
  | _, [], _ => by simp [readByte]
  | lo, (b, v) :: m, hr => by
    have hr' := hr
    simp only [Mem.rising, Bool.and_eq_true, decide_eq_true_eq] at hr'
    have ih := readByte_filter p x (b + 1) m hr'.2
    rw [readByte_cons lo b v m x hr]
    by_cases hp : p b = true
    · have hf : Mem.rising lo ((b, v) :: m.filter fun c => p c.1) = true := by
        have := rising_filter (fun c => p c.1) lo _ hr
        simpa [List.filter_cons, hp] using this
      simp only [List.filter_cons, hp, if_true]
      rw [readByte_cons lo b v _ x hf, ih]
      by_cases h1 : x = b
      · subst h1; simp [hp]
      · simp [h1]
    · simp only [List.filter_cons, hp, Bool.false_eq_true, if_false, ih]
      by_cases h1 : x = b
      · subst h1; simp [hp]
      · simp [h1]

/-- Reading after a write of bytes: what was written where it was written, what stood before elsewhere. -/
theorem readByte_writeBytes (m : Mem) (a : Nat) (bs : List Byte) (x : Nat) (h : m.wf = true) :
    readByte (writeBytes m a bs) x = if a ≤ x ∧ x < a + bs.length then bs.getD (x - a) 0 else readByte m x := by
  have h1 : Mem.rising (a + bs.length) (m.filter fun c => decide (a + bs.length ≤ c.1)) = true :=
    rising_from _ _ 0 (rising_filter _ 0 m h) fun c hc => by simpa using (List.mem_filter.mp hc).2
  have h2 : Mem.rising a (cellsOf a bs ++ m.filter fun c => decide (a + bs.length ≤ c.1)) = true :=
    rising_append (a + bs.length) _ h1 a _ (by omega) (rising_cellsOf a bs) (cellsOf_lt a bs)
  simp only [writeBytes, List.append_assoc]
  rw [readByte_append a _ h2 x 0 _ (rising_filter _ 0 m h) fun c hc => by simpa using (List.mem_filter.mp hc).2,
    readByte_append (a + bs.length) _ h1 x a _ (rising_cellsOf a bs) (cellsOf_lt a bs),
    readByte_filter (fun k => decide (k < a)) x 0 m h, readByte_filter (fun k => decide (a + bs.length ≤ k)) x 0 m h]
  by_cases c1 : x < a
  · have : ¬ (a ≤ x ∧ x < a + bs.length) := by omega
    simp [c1, this]
  · by_cases c2 : x < a + bs.length
    · have : a ≤ x ∧ x < a + bs.length := by omega
      simp [c1, c2, this, readByte_cellsOf x a bs (by omega)]
    · have h3 : ¬ (a ≤ x ∧ x < a + bs.length) := by omega
      have h4 : a + bs.length ≤ x := by omega
      simp [c1, c2, h4]

end Sys2Proof.Machine
end

