-- ==== Sys2Proof/Laws/State.lean ====
section
/-! SUPPORT. What each update of the state and of a thread leaves unchanged, field by field. -/

namespace Sys2Proof.Machine

/-! State.modBundle -/
@[simp] theorem State.modBundle_bringup (s : State) (b : Nat) (f : Bundle → Bundle) : (s.modBundle b f).bringup = s.bringup := rfl
@[simp] theorem State.modBundle_clk (s : State) (b : Nat) (f : Bundle → Bundle) : (s.modBundle b f).clk = s.clk := rfl
@[simp] theorem State.modBundle_frozen (s : State) (b : Nat) (f : Bundle → Bundle) : (s.modBundle b f).frozen = s.frozen := rfl
@[simp] theorem State.modBundle_pkg (s : State) (b : Nat) (f : Bundle → Bundle) : (s.modBundle b f).pkg = s.pkg := rfl
@[simp] theorem State.modBundle_mem (s : State) (b : Nat) (f : Bundle → Bundle) : (s.modBundle b f).mem = s.mem := rfl
@[simp] theorem State.modBundle_lines (s : State) (b : Nat) (f : Bundle → Bundle) : (s.modBundle b f).lines = s.lines := rfl
@[simp] theorem State.modBundle_cores (s : State) (b : Nat) (f : Bundle → Bundle) : (s.modBundle b f).cores = s.cores := rfl
@[simp] theorem State.modBundle_dies (s : State) (b : Nat) (f : Bundle → Bundle) : (s.modBundle b f).dies = s.dies := rfl
@[simp] theorem State.modBundle_blocks (s : State) (b : Nat) (f : Bundle → Bundle) : (s.modBundle b f).blocks = s.blocks := rfl
@[simp] theorem State.modBundle_saved (s : State) (b : Nat) (f : Bundle → Bundle) : (s.modBundle b f).saved = s.saved := rfl
@[simp] theorem State.modBundle_reqs (s : State) (b : Nat) (f : Bundle → Bundle) : (s.modBundle b f).reqs = s.reqs := rfl
@[simp] theorem State.modBundle_copies (s : State) (b : Nat) (f : Bundle → Bundle) : (s.modBundle b f).copies = s.copies := rfl
@[simp] theorem State.modBundle_acbs (s : State) (b : Nat) (f : Bundle → Bundle) : (s.modBundle b f).acbs = s.acbs := rfl
@[simp] theorem State.modBundle_tiles (s : State) (b : Nat) (f : Bundle → Bundle) : (s.modBundle b f).tiles = s.tiles := rfl
@[simp] theorem State.modBundle_parts (s : State) (b : Nat) (f : Bundle → Bundle) : (s.modBundle b f).parts = s.parts := rfl
@[simp] theorem State.modBundle_carver (s : State) (b : Nat) (f : Bundle → Bundle) : (s.modBundle b f).carver = s.carver := rfl
@[simp] theorem State.modBundle_objects (s : State) (b : Nat) (f : Bundle → Bundle) : (s.modBundle b f).objects = s.objects := rfl
@[simp] theorem State.modBundle_calls (s : State) (b : Nat) (f : Bundle → Bundle) : (s.modBundle b f).calls = s.calls := rfl
@[simp] theorem State.modBundle_waves (s : State) (b : Nat) (f : Bundle → Bundle) : (s.modBundle b f).waves = s.waves := rfl
@[simp] theorem State.modBundle_wnodes (s : State) (b : Nat) (f : Bundle → Bundle) : (s.modBundle b f).wnodes = s.wnodes := rfl
@[simp] theorem State.modBundle_nets (s : State) (b : Nat) (f : Bundle → Bundle) : (s.modBundle b f).nets = s.nets := rfl
@[simp] theorem State.modBundle_tasks (s : State) (b : Nat) (f : Bundle → Bundle) : (s.modBundle b f).tasks = s.tasks := rfl
@[simp] theorem State.modBundle_deps (s : State) (b : Nat) (f : Bundle → Bundle) : (s.modBundle b f).deps = s.deps := rfl
@[simp] theorem State.modBundle_versions (s : State) (b : Nat) (f : Bundle → Bundle) : (s.modBundle b f).versions = s.versions := rfl
@[simp] theorem State.modBundle_packets (s : State) (b : Nat) (f : Bundle → Bundle) : (s.modBundle b f).packets = s.packets := rfl
@[simp] theorem State.modBundle_leases (s : State) (b : Nat) (f : Bundle → Bundle) : (s.modBundle b f).leases = s.leases := rfl
@[simp] theorem State.modBundle_moves (s : State) (b : Nat) (f : Bundle → Bundle) : (s.modBundle b f).moves = s.moves := rfl
@[simp] theorem State.modBundle_zone (s : State) (b : Nat) (f : Bundle → Bundle) : (s.modBundle b f).zone = s.zone := rfl
@[simp] theorem State.modBundle_gangs (s : State) (b : Nat) (f : Bundle → Bundle) : (s.modBundle b f).gangs = s.gangs := rfl
@[simp] theorem State.modBundle_grids (s : State) (b : Nat) (f : Bundle → Bundle) : (s.modBundle b f).grids = s.grids := rfl
@[simp] theorem State.modBundle_slots (s : State) (b : Nat) (f : Bundle → Bundle) : (s.modBundle b f).slots = s.slots := rfl
@[simp] theorem State.modBundle_partitions (s : State) (b : Nat) (f : Bundle → Bundle) : (s.modBundle b f).partitions = s.partitions := rfl
@[simp] theorem State.modBundle_ptable (s : State) (b : Nat) (f : Bundle → Bundle) : (s.modBundle b f).ptable = s.ptable := rfl
@[simp] theorem State.modBundle_presult (s : State) (b : Nat) (f : Bundle → Bundle) : (s.modBundle b f).presult = s.presult := rfl
@[simp] theorem State.modBundle_pnext (s : State) (b : Nat) (f : Bundle → Bundle) : (s.modBundle b f).pnext = s.pnext := rfl
@[simp] theorem State.modBundle_leaderDie (s : State) (b : Nat) (f : Bundle → Bundle) : (s.modBundle b f).leaderDie = s.leaderDie := rfl
@[simp] theorem State.modBundle_leaderValid (s : State) (b : Nat) (f : Bundle → Bundle) : (s.modBundle b f).leaderValid = s.leaderValid := rfl
@[simp] theorem State.modBundle_epoch (s : State) (b : Nat) (f : Bundle → Bundle) : (s.modBundle b f).epoch = s.epoch := rfl
@[simp] theorem State.modBundle_expiry (s : State) (b : Nat) (f : Bundle → Bundle) : (s.modBundle b f).expiry = s.expiry := rfl
@[simp] theorem State.modBundle_takingOver (s : State) (b : Nat) (f : Bundle → Bundle) : (s.modBundle b f).takingOver = s.takingOver := rfl
@[simp] theorem State.modBundle_rotor (s : State) (b : Nat) (f : Bundle → Bundle) : (s.modBundle b f).rotor = s.rotor := rfl
@[simp] theorem State.modBundle_winPartition (s : State) (b : Nat) (f : Bundle → Bundle) : (s.modBundle b f).winPartition = s.winPartition := rfl
@[simp] theorem State.modBundle_winBase (s : State) (b : Nat) (f : Bundle → Bundle) : (s.modBundle b f).winBase = s.winBase := rfl
@[simp] theorem State.modBundle_msixOpen (s : State) (b : Nat) (f : Bundle → Bundle) : (s.modBundle b f).msixOpen = s.msixOpen := rfl
@[simp] theorem State.modBundle_msixPending (s : State) (b : Nat) (f : Bundle → Bundle) : (s.modBundle b f).msixPending = s.msixPending := rfl
@[simp] theorem State.modBundle_msixTable (s : State) (b : Nat) (f : Bundle → Bundle) : (s.modBundle b f).msixTable = s.msixTable := rfl
@[simp] theorem State.modBundle_inbound (s : State) (b : Nat) (f : Bundle → Bundle) : (s.modBundle b f).inbound = s.inbound := rfl
@[simp] theorem State.modBundle_heldStores (s : State) (b : Nat) (f : Bundle → Bundle) : (s.modBundle b f).heldStores = s.heldStores := rfl
@[simp] theorem State.modBundle_touched (s : State) (b : Nat) (f : Bundle → Bundle) : (s.modBundle b f).touched = s.touched := rfl
@[simp] theorem State.modBundle_peerMaps (s : State) (b : Nat) (f : Bundle → Bundle) : (s.modBundle b f).peerMaps = s.peerMaps := rfl
@[simp] theorem State.modBundle_out (s : State) (b : Nat) (f : Bundle → Bundle) : (s.modBundle b f).out = s.out := rfl
@[simp] theorem State.modBundle_cap (s : State) (b : Nat) (f : Bundle → Bundle) : (s.modBundle b f).cap = s.cap := rfl
@[simp] theorem State.modBundle_effCap (s : State) (b : Nat) (f : Bundle → Bundle) : (s.modBundle b f).effCap = s.effCap := rfl
@[simp] theorem State.modBundle_target (s : State) (b : Nat) (f : Bundle → Bundle) : (s.modBundle b f).target = s.target := rfl
@[simp] theorem State.modBundle_overSince (s : State) (b : Nat) (f : Bundle → Bundle) : (s.modBundle b f).overSince = s.overSince := rfl
@[simp] theorem State.modBundle_coolSince (s : State) (b : Nat) (f : Bundle → Bundle) : (s.modBundle b f).coolSince = s.coolSince := rfl
@[simp] theorem State.modBundle_signing (s : State) (b : Nat) (f : Bundle → Bundle) : (s.modBundle b f).signing = s.signing := rfl
@[simp] theorem State.modBundle_challenges (s : State) (b : Nat) (f : Bundle → Bundle) : (s.modBundle b f).challenges = s.challenges := rfl
@[simp] theorem State.modBundle_signIdx (s : State) (b : Nat) (f : Bundle → Bundle) : (s.modBundle b f).signIdx = s.signIdx := rfl
@[simp] theorem State.modBundle_idCovered (s : State) (b : Nat) (f : Bundle → Bundle) : (s.modBundle b f).idCovered = s.idCovered := rfl
@[simp] theorem State.modBundle_idSignature (s : State) (b : Nat) (f : Bundle → Bundle) : (s.modBundle b f).idSignature = s.idSignature := rfl
@[simp] theorem State.modBundle_challenge (s : State) (b : Nat) (f : Bundle → Bundle) : (s.modBundle b f).challenge = s.challenge := rfl
@[simp] theorem State.modBundle_report (s : State) (b : Nat) (f : Bundle → Bundle) : (s.modBundle b f).report = s.report := rfl
@[simp] theorem State.modBundle_reportStatus (s : State) (b : Nat) (f : Bundle → Bundle) : (s.modBundle b f).reportStatus = s.reportStatus := rfl
@[simp] theorem State.modBundle_jtagUnit (s : State) (b : Nat) (f : Bundle → Bundle) : (s.modBundle b f).jtagUnit = s.jtagUnit := rfl
@[simp] theorem State.modBundle_jtagInstr (s : State) (b : Nat) (f : Bundle → Bundle) : (s.modBundle b f).jtagInstr = s.jtagInstr := rfl
@[simp] theorem State.modBundle_jtagWord (s : State) (b : Nat) (f : Bundle → Bundle) : (s.modBundle b f).jtagWord = s.jtagWord := rfl
@[simp] theorem State.modBundle_agenda (s : State) (b : Nat) (f : Bundle → Bundle) : (s.modBundle b f).agenda = s.agenda := rfl
@[simp] theorem State.modBundle_turnNo (s : State) (b : Nat) (f : Bundle → Bundle) : (s.modBundle b f).turnNo = s.turnNo := rfl
@[simp] theorem State.modBundle_group (s : State) (b : Nat) (f : Bundle → Bundle) : (s.modBundle b f).group = s.group := rfl
@[simp] theorem State.modBundle_fresh (s : State) (b : Nat) (f : Bundle → Bundle) : (s.modBundle b f).fresh = s.fresh := rfl
@[simp] theorem State.modBundle_draw (s : State) (b : Nat) (f : Bundle → Bundle) : (s.modBundle b f).draw = s.draw := rfl

/-! State.modThread -/
@[simp] theorem State.modThread_bringup (s : State) (b l : Nat) (f : Thread → Thread) : (s.modThread b l f).bringup = s.bringup := rfl
@[simp] theorem State.modThread_clk (s : State) (b l : Nat) (f : Thread → Thread) : (s.modThread b l f).clk = s.clk := rfl
@[simp] theorem State.modThread_frozen (s : State) (b l : Nat) (f : Thread → Thread) : (s.modThread b l f).frozen = s.frozen := rfl
@[simp] theorem State.modThread_pkg (s : State) (b l : Nat) (f : Thread → Thread) : (s.modThread b l f).pkg = s.pkg := rfl
@[simp] theorem State.modThread_mem (s : State) (b l : Nat) (f : Thread → Thread) : (s.modThread b l f).mem = s.mem := rfl
@[simp] theorem State.modThread_lines (s : State) (b l : Nat) (f : Thread → Thread) : (s.modThread b l f).lines = s.lines := rfl
@[simp] theorem State.modThread_cores (s : State) (b l : Nat) (f : Thread → Thread) : (s.modThread b l f).cores = s.cores := rfl
@[simp] theorem State.modThread_dies (s : State) (b l : Nat) (f : Thread → Thread) : (s.modThread b l f).dies = s.dies := rfl
@[simp] theorem State.modThread_blocks (s : State) (b l : Nat) (f : Thread → Thread) : (s.modThread b l f).blocks = s.blocks := rfl
@[simp] theorem State.modThread_saved (s : State) (b l : Nat) (f : Thread → Thread) : (s.modThread b l f).saved = s.saved := rfl
@[simp] theorem State.modThread_reqs (s : State) (b l : Nat) (f : Thread → Thread) : (s.modThread b l f).reqs = s.reqs := rfl
@[simp] theorem State.modThread_copies (s : State) (b l : Nat) (f : Thread → Thread) : (s.modThread b l f).copies = s.copies := rfl
@[simp] theorem State.modThread_acbs (s : State) (b l : Nat) (f : Thread → Thread) : (s.modThread b l f).acbs = s.acbs := rfl
@[simp] theorem State.modThread_tiles (s : State) (b l : Nat) (f : Thread → Thread) : (s.modThread b l f).tiles = s.tiles := rfl
@[simp] theorem State.modThread_parts (s : State) (b l : Nat) (f : Thread → Thread) : (s.modThread b l f).parts = s.parts := rfl
@[simp] theorem State.modThread_carver (s : State) (b l : Nat) (f : Thread → Thread) : (s.modThread b l f).carver = s.carver := rfl
@[simp] theorem State.modThread_objects (s : State) (b l : Nat) (f : Thread → Thread) : (s.modThread b l f).objects = s.objects := rfl
@[simp] theorem State.modThread_calls (s : State) (b l : Nat) (f : Thread → Thread) : (s.modThread b l f).calls = s.calls := rfl
@[simp] theorem State.modThread_waves (s : State) (b l : Nat) (f : Thread → Thread) : (s.modThread b l f).waves = s.waves := rfl
@[simp] theorem State.modThread_wnodes (s : State) (b l : Nat) (f : Thread → Thread) : (s.modThread b l f).wnodes = s.wnodes := rfl
@[simp] theorem State.modThread_nets (s : State) (b l : Nat) (f : Thread → Thread) : (s.modThread b l f).nets = s.nets := rfl
@[simp] theorem State.modThread_tasks (s : State) (b l : Nat) (f : Thread → Thread) : (s.modThread b l f).tasks = s.tasks := rfl
@[simp] theorem State.modThread_deps (s : State) (b l : Nat) (f : Thread → Thread) : (s.modThread b l f).deps = s.deps := rfl
@[simp] theorem State.modThread_versions (s : State) (b l : Nat) (f : Thread → Thread) : (s.modThread b l f).versions = s.versions := rfl
@[simp] theorem State.modThread_packets (s : State) (b l : Nat) (f : Thread → Thread) : (s.modThread b l f).packets = s.packets := rfl
@[simp] theorem State.modThread_leases (s : State) (b l : Nat) (f : Thread → Thread) : (s.modThread b l f).leases = s.leases := rfl
@[simp] theorem State.modThread_moves (s : State) (b l : Nat) (f : Thread → Thread) : (s.modThread b l f).moves = s.moves := rfl
@[simp] theorem State.modThread_zone (s : State) (b l : Nat) (f : Thread → Thread) : (s.modThread b l f).zone = s.zone := rfl
@[simp] theorem State.modThread_gangs (s : State) (b l : Nat) (f : Thread → Thread) : (s.modThread b l f).gangs = s.gangs := rfl
@[simp] theorem State.modThread_grids (s : State) (b l : Nat) (f : Thread → Thread) : (s.modThread b l f).grids = s.grids := rfl
@[simp] theorem State.modThread_slots (s : State) (b l : Nat) (f : Thread → Thread) : (s.modThread b l f).slots = s.slots := rfl
@[simp] theorem State.modThread_partitions (s : State) (b l : Nat) (f : Thread → Thread) : (s.modThread b l f).partitions = s.partitions := rfl
@[simp] theorem State.modThread_ptable (s : State) (b l : Nat) (f : Thread → Thread) : (s.modThread b l f).ptable = s.ptable := rfl
@[simp] theorem State.modThread_presult (s : State) (b l : Nat) (f : Thread → Thread) : (s.modThread b l f).presult = s.presult := rfl
@[simp] theorem State.modThread_pnext (s : State) (b l : Nat) (f : Thread → Thread) : (s.modThread b l f).pnext = s.pnext := rfl
@[simp] theorem State.modThread_leaderDie (s : State) (b l : Nat) (f : Thread → Thread) : (s.modThread b l f).leaderDie = s.leaderDie := rfl
@[simp] theorem State.modThread_leaderValid (s : State) (b l : Nat) (f : Thread → Thread) : (s.modThread b l f).leaderValid = s.leaderValid := rfl
@[simp] theorem State.modThread_epoch (s : State) (b l : Nat) (f : Thread → Thread) : (s.modThread b l f).epoch = s.epoch := rfl
@[simp] theorem State.modThread_expiry (s : State) (b l : Nat) (f : Thread → Thread) : (s.modThread b l f).expiry = s.expiry := rfl
@[simp] theorem State.modThread_takingOver (s : State) (b l : Nat) (f : Thread → Thread) : (s.modThread b l f).takingOver = s.takingOver := rfl
@[simp] theorem State.modThread_rotor (s : State) (b l : Nat) (f : Thread → Thread) : (s.modThread b l f).rotor = s.rotor := rfl
@[simp] theorem State.modThread_winPartition (s : State) (b l : Nat) (f : Thread → Thread) : (s.modThread b l f).winPartition = s.winPartition := rfl
@[simp] theorem State.modThread_winBase (s : State) (b l : Nat) (f : Thread → Thread) : (s.modThread b l f).winBase = s.winBase := rfl
@[simp] theorem State.modThread_msixOpen (s : State) (b l : Nat) (f : Thread → Thread) : (s.modThread b l f).msixOpen = s.msixOpen := rfl
@[simp] theorem State.modThread_msixPending (s : State) (b l : Nat) (f : Thread → Thread) : (s.modThread b l f).msixPending = s.msixPending := rfl
@[simp] theorem State.modThread_msixTable (s : State) (b l : Nat) (f : Thread → Thread) : (s.modThread b l f).msixTable = s.msixTable := rfl
@[simp] theorem State.modThread_inbound (s : State) (b l : Nat) (f : Thread → Thread) : (s.modThread b l f).inbound = s.inbound := rfl
@[simp] theorem State.modThread_heldStores (s : State) (b l : Nat) (f : Thread → Thread) : (s.modThread b l f).heldStores = s.heldStores := rfl
@[simp] theorem State.modThread_touched (s : State) (b l : Nat) (f : Thread → Thread) : (s.modThread b l f).touched = s.touched := rfl
@[simp] theorem State.modThread_peerMaps (s : State) (b l : Nat) (f : Thread → Thread) : (s.modThread b l f).peerMaps = s.peerMaps := rfl
@[simp] theorem State.modThread_out (s : State) (b l : Nat) (f : Thread → Thread) : (s.modThread b l f).out = s.out := rfl
@[simp] theorem State.modThread_cap (s : State) (b l : Nat) (f : Thread → Thread) : (s.modThread b l f).cap = s.cap := rfl
@[simp] theorem State.modThread_effCap (s : State) (b l : Nat) (f : Thread → Thread) : (s.modThread b l f).effCap = s.effCap := rfl
@[simp] theorem State.modThread_target (s : State) (b l : Nat) (f : Thread → Thread) : (s.modThread b l f).target = s.target := rfl
@[simp] theorem State.modThread_overSince (s : State) (b l : Nat) (f : Thread → Thread) : (s.modThread b l f).overSince = s.overSince := rfl
@[simp] theorem State.modThread_coolSince (s : State) (b l : Nat) (f : Thread → Thread) : (s.modThread b l f).coolSince = s.coolSince := rfl
@[simp] theorem State.modThread_signing (s : State) (b l : Nat) (f : Thread → Thread) : (s.modThread b l f).signing = s.signing := rfl
@[simp] theorem State.modThread_challenges (s : State) (b l : Nat) (f : Thread → Thread) : (s.modThread b l f).challenges = s.challenges := rfl
@[simp] theorem State.modThread_signIdx (s : State) (b l : Nat) (f : Thread → Thread) : (s.modThread b l f).signIdx = s.signIdx := rfl
@[simp] theorem State.modThread_idCovered (s : State) (b l : Nat) (f : Thread → Thread) : (s.modThread b l f).idCovered = s.idCovered := rfl
@[simp] theorem State.modThread_idSignature (s : State) (b l : Nat) (f : Thread → Thread) : (s.modThread b l f).idSignature = s.idSignature := rfl
@[simp] theorem State.modThread_challenge (s : State) (b l : Nat) (f : Thread → Thread) : (s.modThread b l f).challenge = s.challenge := rfl
@[simp] theorem State.modThread_report (s : State) (b l : Nat) (f : Thread → Thread) : (s.modThread b l f).report = s.report := rfl
@[simp] theorem State.modThread_reportStatus (s : State) (b l : Nat) (f : Thread → Thread) : (s.modThread b l f).reportStatus = s.reportStatus := rfl
@[simp] theorem State.modThread_jtagUnit (s : State) (b l : Nat) (f : Thread → Thread) : (s.modThread b l f).jtagUnit = s.jtagUnit := rfl
@[simp] theorem State.modThread_jtagInstr (s : State) (b l : Nat) (f : Thread → Thread) : (s.modThread b l f).jtagInstr = s.jtagInstr := rfl
@[simp] theorem State.modThread_jtagWord (s : State) (b l : Nat) (f : Thread → Thread) : (s.modThread b l f).jtagWord = s.jtagWord := rfl
@[simp] theorem State.modThread_agenda (s : State) (b l : Nat) (f : Thread → Thread) : (s.modThread b l f).agenda = s.agenda := rfl
@[simp] theorem State.modThread_turnNo (s : State) (b l : Nat) (f : Thread → Thread) : (s.modThread b l f).turnNo = s.turnNo := rfl
@[simp] theorem State.modThread_group (s : State) (b l : Nat) (f : Thread → Thread) : (s.modThread b l f).group = s.group := rfl
@[simp] theorem State.modThread_fresh (s : State) (b l : Nat) (f : Thread → Thread) : (s.modThread b l f).fresh = s.fresh := rfl
@[simp] theorem State.modThread_draw (s : State) (b l : Nat) (f : Thread → Thread) : (s.modThread b l f).draw = s.draw := rfl

/-! State.modBlock -/
@[simp] theorem State.modBlock_bringup (s : State) (k : Nat) (f : Block → Block) : (s.modBlock k f).bringup = s.bringup := rfl
@[simp] theorem State.modBlock_clk (s : State) (k : Nat) (f : Block → Block) : (s.modBlock k f).clk = s.clk := rfl
@[simp] theorem State.modBlock_frozen (s : State) (k : Nat) (f : Block → Block) : (s.modBlock k f).frozen = s.frozen := rfl
@[simp] theorem State.modBlock_pkg (s : State) (k : Nat) (f : Block → Block) : (s.modBlock k f).pkg = s.pkg := rfl
@[simp] theorem State.modBlock_mem (s : State) (k : Nat) (f : Block → Block) : (s.modBlock k f).mem = s.mem := rfl
@[simp] theorem State.modBlock_lines (s : State) (k : Nat) (f : Block → Block) : (s.modBlock k f).lines = s.lines := rfl
@[simp] theorem State.modBlock_cores (s : State) (k : Nat) (f : Block → Block) : (s.modBlock k f).cores = s.cores := rfl
@[simp] theorem State.modBlock_dies (s : State) (k : Nat) (f : Block → Block) : (s.modBlock k f).dies = s.dies := rfl
@[simp] theorem State.modBlock_bundles (s : State) (k : Nat) (f : Block → Block) : (s.modBlock k f).bundles = s.bundles := rfl
@[simp] theorem State.modBlock_saved (s : State) (k : Nat) (f : Block → Block) : (s.modBlock k f).saved = s.saved := rfl
@[simp] theorem State.modBlock_reqs (s : State) (k : Nat) (f : Block → Block) : (s.modBlock k f).reqs = s.reqs := rfl
@[simp] theorem State.modBlock_copies (s : State) (k : Nat) (f : Block → Block) : (s.modBlock k f).copies = s.copies := rfl
@[simp] theorem State.modBlock_acbs (s : State) (k : Nat) (f : Block → Block) : (s.modBlock k f).acbs = s.acbs := rfl
@[simp] theorem State.modBlock_tiles (s : State) (k : Nat) (f : Block → Block) : (s.modBlock k f).tiles = s.tiles := rfl
@[simp] theorem State.modBlock_parts (s : State) (k : Nat) (f : Block → Block) : (s.modBlock k f).parts = s.parts := rfl
@[simp] theorem State.modBlock_carver (s : State) (k : Nat) (f : Block → Block) : (s.modBlock k f).carver = s.carver := rfl
@[simp] theorem State.modBlock_objects (s : State) (k : Nat) (f : Block → Block) : (s.modBlock k f).objects = s.objects := rfl
@[simp] theorem State.modBlock_calls (s : State) (k : Nat) (f : Block → Block) : (s.modBlock k f).calls = s.calls := rfl
@[simp] theorem State.modBlock_waves (s : State) (k : Nat) (f : Block → Block) : (s.modBlock k f).waves = s.waves := rfl
@[simp] theorem State.modBlock_wnodes (s : State) (k : Nat) (f : Block → Block) : (s.modBlock k f).wnodes = s.wnodes := rfl
@[simp] theorem State.modBlock_nets (s : State) (k : Nat) (f : Block → Block) : (s.modBlock k f).nets = s.nets := rfl
@[simp] theorem State.modBlock_tasks (s : State) (k : Nat) (f : Block → Block) : (s.modBlock k f).tasks = s.tasks := rfl
@[simp] theorem State.modBlock_deps (s : State) (k : Nat) (f : Block → Block) : (s.modBlock k f).deps = s.deps := rfl
@[simp] theorem State.modBlock_versions (s : State) (k : Nat) (f : Block → Block) : (s.modBlock k f).versions = s.versions := rfl
@[simp] theorem State.modBlock_packets (s : State) (k : Nat) (f : Block → Block) : (s.modBlock k f).packets = s.packets := rfl
@[simp] theorem State.modBlock_leases (s : State) (k : Nat) (f : Block → Block) : (s.modBlock k f).leases = s.leases := rfl
@[simp] theorem State.modBlock_moves (s : State) (k : Nat) (f : Block → Block) : (s.modBlock k f).moves = s.moves := rfl
@[simp] theorem State.modBlock_zone (s : State) (k : Nat) (f : Block → Block) : (s.modBlock k f).zone = s.zone := rfl
@[simp] theorem State.modBlock_gangs (s : State) (k : Nat) (f : Block → Block) : (s.modBlock k f).gangs = s.gangs := rfl
@[simp] theorem State.modBlock_grids (s : State) (k : Nat) (f : Block → Block) : (s.modBlock k f).grids = s.grids := rfl
@[simp] theorem State.modBlock_slots (s : State) (k : Nat) (f : Block → Block) : (s.modBlock k f).slots = s.slots := rfl
@[simp] theorem State.modBlock_partitions (s : State) (k : Nat) (f : Block → Block) : (s.modBlock k f).partitions = s.partitions := rfl
@[simp] theorem State.modBlock_ptable (s : State) (k : Nat) (f : Block → Block) : (s.modBlock k f).ptable = s.ptable := rfl
@[simp] theorem State.modBlock_presult (s : State) (k : Nat) (f : Block → Block) : (s.modBlock k f).presult = s.presult := rfl
@[simp] theorem State.modBlock_pnext (s : State) (k : Nat) (f : Block → Block) : (s.modBlock k f).pnext = s.pnext := rfl
@[simp] theorem State.modBlock_leaderDie (s : State) (k : Nat) (f : Block → Block) : (s.modBlock k f).leaderDie = s.leaderDie := rfl
@[simp] theorem State.modBlock_leaderValid (s : State) (k : Nat) (f : Block → Block) : (s.modBlock k f).leaderValid = s.leaderValid := rfl
@[simp] theorem State.modBlock_epoch (s : State) (k : Nat) (f : Block → Block) : (s.modBlock k f).epoch = s.epoch := rfl
@[simp] theorem State.modBlock_expiry (s : State) (k : Nat) (f : Block → Block) : (s.modBlock k f).expiry = s.expiry := rfl
@[simp] theorem State.modBlock_takingOver (s : State) (k : Nat) (f : Block → Block) : (s.modBlock k f).takingOver = s.takingOver := rfl
@[simp] theorem State.modBlock_rotor (s : State) (k : Nat) (f : Block → Block) : (s.modBlock k f).rotor = s.rotor := rfl
@[simp] theorem State.modBlock_winPartition (s : State) (k : Nat) (f : Block → Block) : (s.modBlock k f).winPartition = s.winPartition := rfl
@[simp] theorem State.modBlock_winBase (s : State) (k : Nat) (f : Block → Block) : (s.modBlock k f).winBase = s.winBase := rfl
@[simp] theorem State.modBlock_msixOpen (s : State) (k : Nat) (f : Block → Block) : (s.modBlock k f).msixOpen = s.msixOpen := rfl
@[simp] theorem State.modBlock_msixPending (s : State) (k : Nat) (f : Block → Block) : (s.modBlock k f).msixPending = s.msixPending := rfl
@[simp] theorem State.modBlock_msixTable (s : State) (k : Nat) (f : Block → Block) : (s.modBlock k f).msixTable = s.msixTable := rfl
@[simp] theorem State.modBlock_inbound (s : State) (k : Nat) (f : Block → Block) : (s.modBlock k f).inbound = s.inbound := rfl
@[simp] theorem State.modBlock_heldStores (s : State) (k : Nat) (f : Block → Block) : (s.modBlock k f).heldStores = s.heldStores := rfl
@[simp] theorem State.modBlock_touched (s : State) (k : Nat) (f : Block → Block) : (s.modBlock k f).touched = s.touched := rfl
@[simp] theorem State.modBlock_peerMaps (s : State) (k : Nat) (f : Block → Block) : (s.modBlock k f).peerMaps = s.peerMaps := rfl
@[simp] theorem State.modBlock_out (s : State) (k : Nat) (f : Block → Block) : (s.modBlock k f).out = s.out := rfl
@[simp] theorem State.modBlock_cap (s : State) (k : Nat) (f : Block → Block) : (s.modBlock k f).cap = s.cap := rfl
@[simp] theorem State.modBlock_effCap (s : State) (k : Nat) (f : Block → Block) : (s.modBlock k f).effCap = s.effCap := rfl
@[simp] theorem State.modBlock_target (s : State) (k : Nat) (f : Block → Block) : (s.modBlock k f).target = s.target := rfl
@[simp] theorem State.modBlock_overSince (s : State) (k : Nat) (f : Block → Block) : (s.modBlock k f).overSince = s.overSince := rfl
@[simp] theorem State.modBlock_coolSince (s : State) (k : Nat) (f : Block → Block) : (s.modBlock k f).coolSince = s.coolSince := rfl
@[simp] theorem State.modBlock_signing (s : State) (k : Nat) (f : Block → Block) : (s.modBlock k f).signing = s.signing := rfl
@[simp] theorem State.modBlock_challenges (s : State) (k : Nat) (f : Block → Block) : (s.modBlock k f).challenges = s.challenges := rfl
@[simp] theorem State.modBlock_signIdx (s : State) (k : Nat) (f : Block → Block) : (s.modBlock k f).signIdx = s.signIdx := rfl
@[simp] theorem State.modBlock_idCovered (s : State) (k : Nat) (f : Block → Block) : (s.modBlock k f).idCovered = s.idCovered := rfl
@[simp] theorem State.modBlock_idSignature (s : State) (k : Nat) (f : Block → Block) : (s.modBlock k f).idSignature = s.idSignature := rfl
@[simp] theorem State.modBlock_challenge (s : State) (k : Nat) (f : Block → Block) : (s.modBlock k f).challenge = s.challenge := rfl
@[simp] theorem State.modBlock_report (s : State) (k : Nat) (f : Block → Block) : (s.modBlock k f).report = s.report := rfl
@[simp] theorem State.modBlock_reportStatus (s : State) (k : Nat) (f : Block → Block) : (s.modBlock k f).reportStatus = s.reportStatus := rfl
@[simp] theorem State.modBlock_jtagUnit (s : State) (k : Nat) (f : Block → Block) : (s.modBlock k f).jtagUnit = s.jtagUnit := rfl
@[simp] theorem State.modBlock_jtagInstr (s : State) (k : Nat) (f : Block → Block) : (s.modBlock k f).jtagInstr = s.jtagInstr := rfl
@[simp] theorem State.modBlock_jtagWord (s : State) (k : Nat) (f : Block → Block) : (s.modBlock k f).jtagWord = s.jtagWord := rfl
@[simp] theorem State.modBlock_agenda (s : State) (k : Nat) (f : Block → Block) : (s.modBlock k f).agenda = s.agenda := rfl
@[simp] theorem State.modBlock_turnNo (s : State) (k : Nat) (f : Block → Block) : (s.modBlock k f).turnNo = s.turnNo := rfl
@[simp] theorem State.modBlock_group (s : State) (k : Nat) (f : Block → Block) : (s.modBlock k f).group = s.group := rfl
@[simp] theorem State.modBlock_fresh (s : State) (k : Nat) (f : Block → Block) : (s.modBlock k f).fresh = s.fresh := rfl
@[simp] theorem State.modBlock_draw (s : State) (k : Nat) (f : Block → Block) : (s.modBlock k f).draw = s.draw := rfl

/-! State.modTask -/
@[simp] theorem State.modTask_bringup (s : State) (t : Nat) (f : Task → Task) : (s.modTask t f).bringup = s.bringup := rfl
@[simp] theorem State.modTask_clk (s : State) (t : Nat) (f : Task → Task) : (s.modTask t f).clk = s.clk := rfl
@[simp] theorem State.modTask_frozen (s : State) (t : Nat) (f : Task → Task) : (s.modTask t f).frozen = s.frozen := rfl
@[simp] theorem State.modTask_pkg (s : State) (t : Nat) (f : Task → Task) : (s.modTask t f).pkg = s.pkg := rfl
@[simp] theorem State.modTask_mem (s : State) (t : Nat) (f : Task → Task) : (s.modTask t f).mem = s.mem := rfl
@[simp] theorem State.modTask_lines (s : State) (t : Nat) (f : Task → Task) : (s.modTask t f).lines = s.lines := rfl
@[simp] theorem State.modTask_cores (s : State) (t : Nat) (f : Task → Task) : (s.modTask t f).cores = s.cores := rfl
@[simp] theorem State.modTask_dies (s : State) (t : Nat) (f : Task → Task) : (s.modTask t f).dies = s.dies := rfl
@[simp] theorem State.modTask_bundles (s : State) (t : Nat) (f : Task → Task) : (s.modTask t f).bundles = s.bundles := rfl
@[simp] theorem State.modTask_blocks (s : State) (t : Nat) (f : Task → Task) : (s.modTask t f).blocks = s.blocks := rfl
@[simp] theorem State.modTask_saved (s : State) (t : Nat) (f : Task → Task) : (s.modTask t f).saved = s.saved := rfl
@[simp] theorem State.modTask_reqs (s : State) (t : Nat) (f : Task → Task) : (s.modTask t f).reqs = s.reqs := rfl
@[simp] theorem State.modTask_copies (s : State) (t : Nat) (f : Task → Task) : (s.modTask t f).copies = s.copies := rfl
@[simp] theorem State.modTask_acbs (s : State) (t : Nat) (f : Task → Task) : (s.modTask t f).acbs = s.acbs := rfl
@[simp] theorem State.modTask_tiles (s : State) (t : Nat) (f : Task → Task) : (s.modTask t f).tiles = s.tiles := rfl
@[simp] theorem State.modTask_parts (s : State) (t : Nat) (f : Task → Task) : (s.modTask t f).parts = s.parts := rfl
@[simp] theorem State.modTask_carver (s : State) (t : Nat) (f : Task → Task) : (s.modTask t f).carver = s.carver := rfl
@[simp] theorem State.modTask_objects (s : State) (t : Nat) (f : Task → Task) : (s.modTask t f).objects = s.objects := rfl
@[simp] theorem State.modTask_calls (s : State) (t : Nat) (f : Task → Task) : (s.modTask t f).calls = s.calls := rfl
@[simp] theorem State.modTask_waves (s : State) (t : Nat) (f : Task → Task) : (s.modTask t f).waves = s.waves := rfl
@[simp] theorem State.modTask_wnodes (s : State) (t : Nat) (f : Task → Task) : (s.modTask t f).wnodes = s.wnodes := rfl
@[simp] theorem State.modTask_nets (s : State) (t : Nat) (f : Task → Task) : (s.modTask t f).nets = s.nets := rfl
@[simp] theorem State.modTask_deps (s : State) (t : Nat) (f : Task → Task) : (s.modTask t f).deps = s.deps := rfl
@[simp] theorem State.modTask_versions (s : State) (t : Nat) (f : Task → Task) : (s.modTask t f).versions = s.versions := rfl
@[simp] theorem State.modTask_packets (s : State) (t : Nat) (f : Task → Task) : (s.modTask t f).packets = s.packets := rfl
@[simp] theorem State.modTask_leases (s : State) (t : Nat) (f : Task → Task) : (s.modTask t f).leases = s.leases := rfl
@[simp] theorem State.modTask_moves (s : State) (t : Nat) (f : Task → Task) : (s.modTask t f).moves = s.moves := rfl
@[simp] theorem State.modTask_zone (s : State) (t : Nat) (f : Task → Task) : (s.modTask t f).zone = s.zone := rfl
@[simp] theorem State.modTask_gangs (s : State) (t : Nat) (f : Task → Task) : (s.modTask t f).gangs = s.gangs := rfl
@[simp] theorem State.modTask_grids (s : State) (t : Nat) (f : Task → Task) : (s.modTask t f).grids = s.grids := rfl
@[simp] theorem State.modTask_slots (s : State) (t : Nat) (f : Task → Task) : (s.modTask t f).slots = s.slots := rfl
@[simp] theorem State.modTask_partitions (s : State) (t : Nat) (f : Task → Task) : (s.modTask t f).partitions = s.partitions := rfl
@[simp] theorem State.modTask_ptable (s : State) (t : Nat) (f : Task → Task) : (s.modTask t f).ptable = s.ptable := rfl
@[simp] theorem State.modTask_presult (s : State) (t : Nat) (f : Task → Task) : (s.modTask t f).presult = s.presult := rfl
@[simp] theorem State.modTask_pnext (s : State) (t : Nat) (f : Task → Task) : (s.modTask t f).pnext = s.pnext := rfl
@[simp] theorem State.modTask_leaderDie (s : State) (t : Nat) (f : Task → Task) : (s.modTask t f).leaderDie = s.leaderDie := rfl
@[simp] theorem State.modTask_leaderValid (s : State) (t : Nat) (f : Task → Task) : (s.modTask t f).leaderValid = s.leaderValid := rfl
@[simp] theorem State.modTask_epoch (s : State) (t : Nat) (f : Task → Task) : (s.modTask t f).epoch = s.epoch := rfl
@[simp] theorem State.modTask_expiry (s : State) (t : Nat) (f : Task → Task) : (s.modTask t f).expiry = s.expiry := rfl
@[simp] theorem State.modTask_takingOver (s : State) (t : Nat) (f : Task → Task) : (s.modTask t f).takingOver = s.takingOver := rfl
@[simp] theorem State.modTask_rotor (s : State) (t : Nat) (f : Task → Task) : (s.modTask t f).rotor = s.rotor := rfl
@[simp] theorem State.modTask_winPartition (s : State) (t : Nat) (f : Task → Task) : (s.modTask t f).winPartition = s.winPartition := rfl
@[simp] theorem State.modTask_winBase (s : State) (t : Nat) (f : Task → Task) : (s.modTask t f).winBase = s.winBase := rfl
@[simp] theorem State.modTask_msixOpen (s : State) (t : Nat) (f : Task → Task) : (s.modTask t f).msixOpen = s.msixOpen := rfl
@[simp] theorem State.modTask_msixPending (s : State) (t : Nat) (f : Task → Task) : (s.modTask t f).msixPending = s.msixPending := rfl
@[simp] theorem State.modTask_msixTable (s : State) (t : Nat) (f : Task → Task) : (s.modTask t f).msixTable = s.msixTable := rfl
@[simp] theorem State.modTask_inbound (s : State) (t : Nat) (f : Task → Task) : (s.modTask t f).inbound = s.inbound := rfl
@[simp] theorem State.modTask_heldStores (s : State) (t : Nat) (f : Task → Task) : (s.modTask t f).heldStores = s.heldStores := rfl
@[simp] theorem State.modTask_touched (s : State) (t : Nat) (f : Task → Task) : (s.modTask t f).touched = s.touched := rfl
@[simp] theorem State.modTask_peerMaps (s : State) (t : Nat) (f : Task → Task) : (s.modTask t f).peerMaps = s.peerMaps := rfl
@[simp] theorem State.modTask_out (s : State) (t : Nat) (f : Task → Task) : (s.modTask t f).out = s.out := rfl
@[simp] theorem State.modTask_cap (s : State) (t : Nat) (f : Task → Task) : (s.modTask t f).cap = s.cap := rfl
@[simp] theorem State.modTask_effCap (s : State) (t : Nat) (f : Task → Task) : (s.modTask t f).effCap = s.effCap := rfl
@[simp] theorem State.modTask_target (s : State) (t : Nat) (f : Task → Task) : (s.modTask t f).target = s.target := rfl
@[simp] theorem State.modTask_overSince (s : State) (t : Nat) (f : Task → Task) : (s.modTask t f).overSince = s.overSince := rfl
@[simp] theorem State.modTask_coolSince (s : State) (t : Nat) (f : Task → Task) : (s.modTask t f).coolSince = s.coolSince := rfl
@[simp] theorem State.modTask_signing (s : State) (t : Nat) (f : Task → Task) : (s.modTask t f).signing = s.signing := rfl
@[simp] theorem State.modTask_challenges (s : State) (t : Nat) (f : Task → Task) : (s.modTask t f).challenges = s.challenges := rfl
@[simp] theorem State.modTask_signIdx (s : State) (t : Nat) (f : Task → Task) : (s.modTask t f).signIdx = s.signIdx := rfl
@[simp] theorem State.modTask_idCovered (s : State) (t : Nat) (f : Task → Task) : (s.modTask t f).idCovered = s.idCovered := rfl
@[simp] theorem State.modTask_idSignature (s : State) (t : Nat) (f : Task → Task) : (s.modTask t f).idSignature = s.idSignature := rfl
@[simp] theorem State.modTask_challenge (s : State) (t : Nat) (f : Task → Task) : (s.modTask t f).challenge = s.challenge := rfl
@[simp] theorem State.modTask_report (s : State) (t : Nat) (f : Task → Task) : (s.modTask t f).report = s.report := rfl
@[simp] theorem State.modTask_reportStatus (s : State) (t : Nat) (f : Task → Task) : (s.modTask t f).reportStatus = s.reportStatus := rfl
@[simp] theorem State.modTask_jtagUnit (s : State) (t : Nat) (f : Task → Task) : (s.modTask t f).jtagUnit = s.jtagUnit := rfl
@[simp] theorem State.modTask_jtagInstr (s : State) (t : Nat) (f : Task → Task) : (s.modTask t f).jtagInstr = s.jtagInstr := rfl
@[simp] theorem State.modTask_jtagWord (s : State) (t : Nat) (f : Task → Task) : (s.modTask t f).jtagWord = s.jtagWord := rfl
@[simp] theorem State.modTask_agenda (s : State) (t : Nat) (f : Task → Task) : (s.modTask t f).agenda = s.agenda := rfl
@[simp] theorem State.modTask_turnNo (s : State) (t : Nat) (f : Task → Task) : (s.modTask t f).turnNo = s.turnNo := rfl
@[simp] theorem State.modTask_group (s : State) (t : Nat) (f : Task → Task) : (s.modTask t f).group = s.group := rfl
@[simp] theorem State.modTask_fresh (s : State) (t : Nat) (f : Task → Task) : (s.modTask t f).fresh = s.fresh := rfl
@[simp] theorem State.modTask_draw (s : State) (t : Nat) (f : Task → Task) : (s.modTask t f).draw = s.draw := rfl

/-! State.modCore -/
@[simp] theorem State.modCore_bringup (s : State) (c : Nat) (f : Core → Core) : (s.modCore c f).bringup = s.bringup := rfl
@[simp] theorem State.modCore_clk (s : State) (c : Nat) (f : Core → Core) : (s.modCore c f).clk = s.clk := rfl
@[simp] theorem State.modCore_frozen (s : State) (c : Nat) (f : Core → Core) : (s.modCore c f).frozen = s.frozen := rfl
@[simp] theorem State.modCore_pkg (s : State) (c : Nat) (f : Core → Core) : (s.modCore c f).pkg = s.pkg := rfl
@[simp] theorem State.modCore_mem (s : State) (c : Nat) (f : Core → Core) : (s.modCore c f).mem = s.mem := rfl
@[simp] theorem State.modCore_lines (s : State) (c : Nat) (f : Core → Core) : (s.modCore c f).lines = s.lines := rfl
@[simp] theorem State.modCore_dies (s : State) (c : Nat) (f : Core → Core) : (s.modCore c f).dies = s.dies := rfl
@[simp] theorem State.modCore_bundles (s : State) (c : Nat) (f : Core → Core) : (s.modCore c f).bundles = s.bundles := rfl
@[simp] theorem State.modCore_blocks (s : State) (c : Nat) (f : Core → Core) : (s.modCore c f).blocks = s.blocks := rfl
@[simp] theorem State.modCore_saved (s : State) (c : Nat) (f : Core → Core) : (s.modCore c f).saved = s.saved := rfl
@[simp] theorem State.modCore_reqs (s : State) (c : Nat) (f : Core → Core) : (s.modCore c f).reqs = s.reqs := rfl
@[simp] theorem State.modCore_copies (s : State) (c : Nat) (f : Core → Core) : (s.modCore c f).copies = s.copies := rfl
@[simp] theorem State.modCore_acbs (s : State) (c : Nat) (f : Core → Core) : (s.modCore c f).acbs = s.acbs := rfl
@[simp] theorem State.modCore_tiles (s : State) (c : Nat) (f : Core → Core) : (s.modCore c f).tiles = s.tiles := rfl
@[simp] theorem State.modCore_parts (s : State) (c : Nat) (f : Core → Core) : (s.modCore c f).parts = s.parts := rfl
@[simp] theorem State.modCore_carver (s : State) (c : Nat) (f : Core → Core) : (s.modCore c f).carver = s.carver := rfl
@[simp] theorem State.modCore_objects (s : State) (c : Nat) (f : Core → Core) : (s.modCore c f).objects = s.objects := rfl
@[simp] theorem State.modCore_calls (s : State) (c : Nat) (f : Core → Core) : (s.modCore c f).calls = s.calls := rfl
@[simp] theorem State.modCore_waves (s : State) (c : Nat) (f : Core → Core) : (s.modCore c f).waves = s.waves := rfl
@[simp] theorem State.modCore_wnodes (s : State) (c : Nat) (f : Core → Core) : (s.modCore c f).wnodes = s.wnodes := rfl
@[simp] theorem State.modCore_nets (s : State) (c : Nat) (f : Core → Core) : (s.modCore c f).nets = s.nets := rfl
@[simp] theorem State.modCore_tasks (s : State) (c : Nat) (f : Core → Core) : (s.modCore c f).tasks = s.tasks := rfl
@[simp] theorem State.modCore_deps (s : State) (c : Nat) (f : Core → Core) : (s.modCore c f).deps = s.deps := rfl
@[simp] theorem State.modCore_versions (s : State) (c : Nat) (f : Core → Core) : (s.modCore c f).versions = s.versions := rfl
@[simp] theorem State.modCore_packets (s : State) (c : Nat) (f : Core → Core) : (s.modCore c f).packets = s.packets := rfl
@[simp] theorem State.modCore_leases (s : State) (c : Nat) (f : Core → Core) : (s.modCore c f).leases = s.leases := rfl
@[simp] theorem State.modCore_moves (s : State) (c : Nat) (f : Core → Core) : (s.modCore c f).moves = s.moves := rfl
@[simp] theorem State.modCore_zone (s : State) (c : Nat) (f : Core → Core) : (s.modCore c f).zone = s.zone := rfl
@[simp] theorem State.modCore_gangs (s : State) (c : Nat) (f : Core → Core) : (s.modCore c f).gangs = s.gangs := rfl
@[simp] theorem State.modCore_grids (s : State) (c : Nat) (f : Core → Core) : (s.modCore c f).grids = s.grids := rfl
@[simp] theorem State.modCore_slots (s : State) (c : Nat) (f : Core → Core) : (s.modCore c f).slots = s.slots := rfl
@[simp] theorem State.modCore_partitions (s : State) (c : Nat) (f : Core → Core) : (s.modCore c f).partitions = s.partitions := rfl
@[simp] theorem State.modCore_ptable (s : State) (c : Nat) (f : Core → Core) : (s.modCore c f).ptable = s.ptable := rfl
@[simp] theorem State.modCore_presult (s : State) (c : Nat) (f : Core → Core) : (s.modCore c f).presult = s.presult := rfl
@[simp] theorem State.modCore_pnext (s : State) (c : Nat) (f : Core → Core) : (s.modCore c f).pnext = s.pnext := rfl
@[simp] theorem State.modCore_leaderDie (s : State) (c : Nat) (f : Core → Core) : (s.modCore c f).leaderDie = s.leaderDie := rfl
@[simp] theorem State.modCore_leaderValid (s : State) (c : Nat) (f : Core → Core) : (s.modCore c f).leaderValid = s.leaderValid := rfl
@[simp] theorem State.modCore_epoch (s : State) (c : Nat) (f : Core → Core) : (s.modCore c f).epoch = s.epoch := rfl
@[simp] theorem State.modCore_expiry (s : State) (c : Nat) (f : Core → Core) : (s.modCore c f).expiry = s.expiry := rfl
@[simp] theorem State.modCore_takingOver (s : State) (c : Nat) (f : Core → Core) : (s.modCore c f).takingOver = s.takingOver := rfl
@[simp] theorem State.modCore_rotor (s : State) (c : Nat) (f : Core → Core) : (s.modCore c f).rotor = s.rotor := rfl
@[simp] theorem State.modCore_winPartition (s : State) (c : Nat) (f : Core → Core) : (s.modCore c f).winPartition = s.winPartition := rfl
@[simp] theorem State.modCore_winBase (s : State) (c : Nat) (f : Core → Core) : (s.modCore c f).winBase = s.winBase := rfl
@[simp] theorem State.modCore_msixOpen (s : State) (c : Nat) (f : Core → Core) : (s.modCore c f).msixOpen = s.msixOpen := rfl
@[simp] theorem State.modCore_msixPending (s : State) (c : Nat) (f : Core → Core) : (s.modCore c f).msixPending = s.msixPending := rfl
@[simp] theorem State.modCore_msixTable (s : State) (c : Nat) (f : Core → Core) : (s.modCore c f).msixTable = s.msixTable := rfl
@[simp] theorem State.modCore_inbound (s : State) (c : Nat) (f : Core → Core) : (s.modCore c f).inbound = s.inbound := rfl
@[simp] theorem State.modCore_heldStores (s : State) (c : Nat) (f : Core → Core) : (s.modCore c f).heldStores = s.heldStores := rfl
@[simp] theorem State.modCore_touched (s : State) (c : Nat) (f : Core → Core) : (s.modCore c f).touched = s.touched := rfl
@[simp] theorem State.modCore_peerMaps (s : State) (c : Nat) (f : Core → Core) : (s.modCore c f).peerMaps = s.peerMaps := rfl
@[simp] theorem State.modCore_out (s : State) (c : Nat) (f : Core → Core) : (s.modCore c f).out = s.out := rfl
@[simp] theorem State.modCore_cap (s : State) (c : Nat) (f : Core → Core) : (s.modCore c f).cap = s.cap := rfl
@[simp] theorem State.modCore_effCap (s : State) (c : Nat) (f : Core → Core) : (s.modCore c f).effCap = s.effCap := rfl
@[simp] theorem State.modCore_target (s : State) (c : Nat) (f : Core → Core) : (s.modCore c f).target = s.target := rfl
@[simp] theorem State.modCore_overSince (s : State) (c : Nat) (f : Core → Core) : (s.modCore c f).overSince = s.overSince := rfl
@[simp] theorem State.modCore_coolSince (s : State) (c : Nat) (f : Core → Core) : (s.modCore c f).coolSince = s.coolSince := rfl
@[simp] theorem State.modCore_signing (s : State) (c : Nat) (f : Core → Core) : (s.modCore c f).signing = s.signing := rfl
@[simp] theorem State.modCore_challenges (s : State) (c : Nat) (f : Core → Core) : (s.modCore c f).challenges = s.challenges := rfl
@[simp] theorem State.modCore_signIdx (s : State) (c : Nat) (f : Core → Core) : (s.modCore c f).signIdx = s.signIdx := rfl
@[simp] theorem State.modCore_idCovered (s : State) (c : Nat) (f : Core → Core) : (s.modCore c f).idCovered = s.idCovered := rfl
@[simp] theorem State.modCore_idSignature (s : State) (c : Nat) (f : Core → Core) : (s.modCore c f).idSignature = s.idSignature := rfl
@[simp] theorem State.modCore_challenge (s : State) (c : Nat) (f : Core → Core) : (s.modCore c f).challenge = s.challenge := rfl
@[simp] theorem State.modCore_report (s : State) (c : Nat) (f : Core → Core) : (s.modCore c f).report = s.report := rfl
@[simp] theorem State.modCore_reportStatus (s : State) (c : Nat) (f : Core → Core) : (s.modCore c f).reportStatus = s.reportStatus := rfl
@[simp] theorem State.modCore_jtagUnit (s : State) (c : Nat) (f : Core → Core) : (s.modCore c f).jtagUnit = s.jtagUnit := rfl
@[simp] theorem State.modCore_jtagInstr (s : State) (c : Nat) (f : Core → Core) : (s.modCore c f).jtagInstr = s.jtagInstr := rfl
@[simp] theorem State.modCore_jtagWord (s : State) (c : Nat) (f : Core → Core) : (s.modCore c f).jtagWord = s.jtagWord := rfl
@[simp] theorem State.modCore_agenda (s : State) (c : Nat) (f : Core → Core) : (s.modCore c f).agenda = s.agenda := rfl
@[simp] theorem State.modCore_turnNo (s : State) (c : Nat) (f : Core → Core) : (s.modCore c f).turnNo = s.turnNo := rfl
@[simp] theorem State.modCore_group (s : State) (c : Nat) (f : Core → Core) : (s.modCore c f).group = s.group := rfl
@[simp] theorem State.modCore_fresh (s : State) (c : Nat) (f : Core → Core) : (s.modCore c f).fresh = s.fresh := rfl
@[simp] theorem State.modCore_draw (s : State) (c : Nat) (f : Core → Core) : (s.modCore c f).draw = s.draw := rfl

/-! State.modDie -/
@[simp] theorem State.modDie_bringup (s : State) (d : Nat) (f : Die → Die) : (s.modDie d f).bringup = s.bringup := rfl
@[simp] theorem State.modDie_clk (s : State) (d : Nat) (f : Die → Die) : (s.modDie d f).clk = s.clk := rfl
@[simp] theorem State.modDie_frozen (s : State) (d : Nat) (f : Die → Die) : (s.modDie d f).frozen = s.frozen := rfl
@[simp] theorem State.modDie_pkg (s : State) (d : Nat) (f : Die → Die) : (s.modDie d f).pkg = s.pkg := rfl
@[simp] theorem State.modDie_mem (s : State) (d : Nat) (f : Die → Die) : (s.modDie d f).mem = s.mem := rfl
@[simp] theorem State.modDie_lines (s : State) (d : Nat) (f : Die → Die) : (s.modDie d f).lines = s.lines := rfl
@[simp] theorem State.modDie_cores (s : State) (d : Nat) (f : Die → Die) : (s.modDie d f).cores = s.cores := rfl
@[simp] theorem State.modDie_bundles (s : State) (d : Nat) (f : Die → Die) : (s.modDie d f).bundles = s.bundles := rfl
@[simp] theorem State.modDie_blocks (s : State) (d : Nat) (f : Die → Die) : (s.modDie d f).blocks = s.blocks := rfl
@[simp] theorem State.modDie_saved (s : State) (d : Nat) (f : Die → Die) : (s.modDie d f).saved = s.saved := rfl
@[simp] theorem State.modDie_reqs (s : State) (d : Nat) (f : Die → Die) : (s.modDie d f).reqs = s.reqs := rfl
@[simp] theorem State.modDie_copies (s : State) (d : Nat) (f : Die → Die) : (s.modDie d f).copies = s.copies := rfl
@[simp] theorem State.modDie_acbs (s : State) (d : Nat) (f : Die → Die) : (s.modDie d f).acbs = s.acbs := rfl
@[simp] theorem State.modDie_tiles (s : State) (d : Nat) (f : Die → Die) : (s.modDie d f).tiles = s.tiles := rfl
@[simp] theorem State.modDie_parts (s : State) (d : Nat) (f : Die → Die) : (s.modDie d f).parts = s.parts := rfl
@[simp] theorem State.modDie_carver (s : State) (d : Nat) (f : Die → Die) : (s.modDie d f).carver = s.carver := rfl
@[simp] theorem State.modDie_objects (s : State) (d : Nat) (f : Die → Die) : (s.modDie d f).objects = s.objects := rfl
@[simp] theorem State.modDie_calls (s : State) (d : Nat) (f : Die → Die) : (s.modDie d f).calls = s.calls := rfl
@[simp] theorem State.modDie_waves (s : State) (d : Nat) (f : Die → Die) : (s.modDie d f).waves = s.waves := rfl
@[simp] theorem State.modDie_wnodes (s : State) (d : Nat) (f : Die → Die) : (s.modDie d f).wnodes = s.wnodes := rfl
@[simp] theorem State.modDie_nets (s : State) (d : Nat) (f : Die → Die) : (s.modDie d f).nets = s.nets := rfl
@[simp] theorem State.modDie_tasks (s : State) (d : Nat) (f : Die → Die) : (s.modDie d f).tasks = s.tasks := rfl
@[simp] theorem State.modDie_deps (s : State) (d : Nat) (f : Die → Die) : (s.modDie d f).deps = s.deps := rfl
@[simp] theorem State.modDie_versions (s : State) (d : Nat) (f : Die → Die) : (s.modDie d f).versions = s.versions := rfl
@[simp] theorem State.modDie_packets (s : State) (d : Nat) (f : Die → Die) : (s.modDie d f).packets = s.packets := rfl
@[simp] theorem State.modDie_leases (s : State) (d : Nat) (f : Die → Die) : (s.modDie d f).leases = s.leases := rfl
@[simp] theorem State.modDie_moves (s : State) (d : Nat) (f : Die → Die) : (s.modDie d f).moves = s.moves := rfl
@[simp] theorem State.modDie_zone (s : State) (d : Nat) (f : Die → Die) : (s.modDie d f).zone = s.zone := rfl
@[simp] theorem State.modDie_gangs (s : State) (d : Nat) (f : Die → Die) : (s.modDie d f).gangs = s.gangs := rfl
@[simp] theorem State.modDie_grids (s : State) (d : Nat) (f : Die → Die) : (s.modDie d f).grids = s.grids := rfl
@[simp] theorem State.modDie_slots (s : State) (d : Nat) (f : Die → Die) : (s.modDie d f).slots = s.slots := rfl
@[simp] theorem State.modDie_partitions (s : State) (d : Nat) (f : Die → Die) : (s.modDie d f).partitions = s.partitions := rfl
@[simp] theorem State.modDie_ptable (s : State) (d : Nat) (f : Die → Die) : (s.modDie d f).ptable = s.ptable := rfl
@[simp] theorem State.modDie_presult (s : State) (d : Nat) (f : Die → Die) : (s.modDie d f).presult = s.presult := rfl
@[simp] theorem State.modDie_pnext (s : State) (d : Nat) (f : Die → Die) : (s.modDie d f).pnext = s.pnext := rfl
@[simp] theorem State.modDie_leaderDie (s : State) (d : Nat) (f : Die → Die) : (s.modDie d f).leaderDie = s.leaderDie := rfl
@[simp] theorem State.modDie_leaderValid (s : State) (d : Nat) (f : Die → Die) : (s.modDie d f).leaderValid = s.leaderValid := rfl
@[simp] theorem State.modDie_epoch (s : State) (d : Nat) (f : Die → Die) : (s.modDie d f).epoch = s.epoch := rfl
@[simp] theorem State.modDie_expiry (s : State) (d : Nat) (f : Die → Die) : (s.modDie d f).expiry = s.expiry := rfl
@[simp] theorem State.modDie_takingOver (s : State) (d : Nat) (f : Die → Die) : (s.modDie d f).takingOver = s.takingOver := rfl
@[simp] theorem State.modDie_rotor (s : State) (d : Nat) (f : Die → Die) : (s.modDie d f).rotor = s.rotor := rfl
@[simp] theorem State.modDie_winPartition (s : State) (d : Nat) (f : Die → Die) : (s.modDie d f).winPartition = s.winPartition := rfl
@[simp] theorem State.modDie_winBase (s : State) (d : Nat) (f : Die → Die) : (s.modDie d f).winBase = s.winBase := rfl
@[simp] theorem State.modDie_msixOpen (s : State) (d : Nat) (f : Die → Die) : (s.modDie d f).msixOpen = s.msixOpen := rfl
@[simp] theorem State.modDie_msixPending (s : State) (d : Nat) (f : Die → Die) : (s.modDie d f).msixPending = s.msixPending := rfl
@[simp] theorem State.modDie_msixTable (s : State) (d : Nat) (f : Die → Die) : (s.modDie d f).msixTable = s.msixTable := rfl
@[simp] theorem State.modDie_inbound (s : State) (d : Nat) (f : Die → Die) : (s.modDie d f).inbound = s.inbound := rfl
@[simp] theorem State.modDie_heldStores (s : State) (d : Nat) (f : Die → Die) : (s.modDie d f).heldStores = s.heldStores := rfl
@[simp] theorem State.modDie_touched (s : State) (d : Nat) (f : Die → Die) : (s.modDie d f).touched = s.touched := rfl
@[simp] theorem State.modDie_peerMaps (s : State) (d : Nat) (f : Die → Die) : (s.modDie d f).peerMaps = s.peerMaps := rfl
@[simp] theorem State.modDie_out (s : State) (d : Nat) (f : Die → Die) : (s.modDie d f).out = s.out := rfl
@[simp] theorem State.modDie_cap (s : State) (d : Nat) (f : Die → Die) : (s.modDie d f).cap = s.cap := rfl
@[simp] theorem State.modDie_effCap (s : State) (d : Nat) (f : Die → Die) : (s.modDie d f).effCap = s.effCap := rfl
@[simp] theorem State.modDie_target (s : State) (d : Nat) (f : Die → Die) : (s.modDie d f).target = s.target := rfl
@[simp] theorem State.modDie_overSince (s : State) (d : Nat) (f : Die → Die) : (s.modDie d f).overSince = s.overSince := rfl
@[simp] theorem State.modDie_coolSince (s : State) (d : Nat) (f : Die → Die) : (s.modDie d f).coolSince = s.coolSince := rfl
@[simp] theorem State.modDie_signing (s : State) (d : Nat) (f : Die → Die) : (s.modDie d f).signing = s.signing := rfl
@[simp] theorem State.modDie_challenges (s : State) (d : Nat) (f : Die → Die) : (s.modDie d f).challenges = s.challenges := rfl
@[simp] theorem State.modDie_signIdx (s : State) (d : Nat) (f : Die → Die) : (s.modDie d f).signIdx = s.signIdx := rfl
@[simp] theorem State.modDie_idCovered (s : State) (d : Nat) (f : Die → Die) : (s.modDie d f).idCovered = s.idCovered := rfl
@[simp] theorem State.modDie_idSignature (s : State) (d : Nat) (f : Die → Die) : (s.modDie d f).idSignature = s.idSignature := rfl
@[simp] theorem State.modDie_challenge (s : State) (d : Nat) (f : Die → Die) : (s.modDie d f).challenge = s.challenge := rfl
@[simp] theorem State.modDie_report (s : State) (d : Nat) (f : Die → Die) : (s.modDie d f).report = s.report := rfl
@[simp] theorem State.modDie_reportStatus (s : State) (d : Nat) (f : Die → Die) : (s.modDie d f).reportStatus = s.reportStatus := rfl
@[simp] theorem State.modDie_jtagUnit (s : State) (d : Nat) (f : Die → Die) : (s.modDie d f).jtagUnit = s.jtagUnit := rfl
@[simp] theorem State.modDie_jtagInstr (s : State) (d : Nat) (f : Die → Die) : (s.modDie d f).jtagInstr = s.jtagInstr := rfl
@[simp] theorem State.modDie_jtagWord (s : State) (d : Nat) (f : Die → Die) : (s.modDie d f).jtagWord = s.jtagWord := rfl
@[simp] theorem State.modDie_agenda (s : State) (d : Nat) (f : Die → Die) : (s.modDie d f).agenda = s.agenda := rfl
@[simp] theorem State.modDie_turnNo (s : State) (d : Nat) (f : Die → Die) : (s.modDie d f).turnNo = s.turnNo := rfl
@[simp] theorem State.modDie_group (s : State) (d : Nat) (f : Die → Die) : (s.modDie d f).group = s.group := rfl
@[simp] theorem State.modDie_fresh (s : State) (d : Nat) (f : Die → Die) : (s.modDie d f).fresh = s.fresh := rfl
@[simp] theorem State.modDie_draw (s : State) (d : Nat) (f : Die → Die) : (s.modDie d f).draw = s.draw := rfl

/-! State.modPart -/
@[simp] theorem State.modPart_bringup (s : State) (p : Nat) (f : Partition → Partition) : (s.modPart p f).bringup = s.bringup := rfl
@[simp] theorem State.modPart_clk (s : State) (p : Nat) (f : Partition → Partition) : (s.modPart p f).clk = s.clk := rfl
@[simp] theorem State.modPart_frozen (s : State) (p : Nat) (f : Partition → Partition) : (s.modPart p f).frozen = s.frozen := rfl
@[simp] theorem State.modPart_pkg (s : State) (p : Nat) (f : Partition → Partition) : (s.modPart p f).pkg = s.pkg := rfl
@[simp] theorem State.modPart_mem (s : State) (p : Nat) (f : Partition → Partition) : (s.modPart p f).mem = s.mem := rfl
@[simp] theorem State.modPart_lines (s : State) (p : Nat) (f : Partition → Partition) : (s.modPart p f).lines = s.lines := rfl
@[simp] theorem State.modPart_cores (s : State) (p : Nat) (f : Partition → Partition) : (s.modPart p f).cores = s.cores := rfl
@[simp] theorem State.modPart_dies (s : State) (p : Nat) (f : Partition → Partition) : (s.modPart p f).dies = s.dies := rfl
@[simp] theorem State.modPart_bundles (s : State) (p : Nat) (f : Partition → Partition) : (s.modPart p f).bundles = s.bundles := rfl
@[simp] theorem State.modPart_blocks (s : State) (p : Nat) (f : Partition → Partition) : (s.modPart p f).blocks = s.blocks := rfl
@[simp] theorem State.modPart_saved (s : State) (p : Nat) (f : Partition → Partition) : (s.modPart p f).saved = s.saved := rfl
@[simp] theorem State.modPart_reqs (s : State) (p : Nat) (f : Partition → Partition) : (s.modPart p f).reqs = s.reqs := rfl
@[simp] theorem State.modPart_copies (s : State) (p : Nat) (f : Partition → Partition) : (s.modPart p f).copies = s.copies := rfl
@[simp] theorem State.modPart_acbs (s : State) (p : Nat) (f : Partition → Partition) : (s.modPart p f).acbs = s.acbs := rfl
@[simp] theorem State.modPart_tiles (s : State) (p : Nat) (f : Partition → Partition) : (s.modPart p f).tiles = s.tiles := rfl
@[simp] theorem State.modPart_parts (s : State) (p : Nat) (f : Partition → Partition) : (s.modPart p f).parts = s.parts := rfl
@[simp] theorem State.modPart_carver (s : State) (p : Nat) (f : Partition → Partition) : (s.modPart p f).carver = s.carver := rfl
@[simp] theorem State.modPart_objects (s : State) (p : Nat) (f : Partition → Partition) : (s.modPart p f).objects = s.objects := rfl
@[simp] theorem State.modPart_calls (s : State) (p : Nat) (f : Partition → Partition) : (s.modPart p f).calls = s.calls := rfl
@[simp] theorem State.modPart_waves (s : State) (p : Nat) (f : Partition → Partition) : (s.modPart p f).waves = s.waves := rfl
@[simp] theorem State.modPart_wnodes (s : State) (p : Nat) (f : Partition → Partition) : (s.modPart p f).wnodes = s.wnodes := rfl
@[simp] theorem State.modPart_nets (s : State) (p : Nat) (f : Partition → Partition) : (s.modPart p f).nets = s.nets := rfl
@[simp] theorem State.modPart_tasks (s : State) (p : Nat) (f : Partition → Partition) : (s.modPart p f).tasks = s.tasks := rfl
@[simp] theorem State.modPart_deps (s : State) (p : Nat) (f : Partition → Partition) : (s.modPart p f).deps = s.deps := rfl
@[simp] theorem State.modPart_versions (s : State) (p : Nat) (f : Partition → Partition) : (s.modPart p f).versions = s.versions := rfl
@[simp] theorem State.modPart_packets (s : State) (p : Nat) (f : Partition → Partition) : (s.modPart p f).packets = s.packets := rfl
@[simp] theorem State.modPart_leases (s : State) (p : Nat) (f : Partition → Partition) : (s.modPart p f).leases = s.leases := rfl
@[simp] theorem State.modPart_moves (s : State) (p : Nat) (f : Partition → Partition) : (s.modPart p f).moves = s.moves := rfl
@[simp] theorem State.modPart_zone (s : State) (p : Nat) (f : Partition → Partition) : (s.modPart p f).zone = s.zone := rfl
@[simp] theorem State.modPart_gangs (s : State) (p : Nat) (f : Partition → Partition) : (s.modPart p f).gangs = s.gangs := rfl
@[simp] theorem State.modPart_grids (s : State) (p : Nat) (f : Partition → Partition) : (s.modPart p f).grids = s.grids := rfl
@[simp] theorem State.modPart_slots (s : State) (p : Nat) (f : Partition → Partition) : (s.modPart p f).slots = s.slots := rfl
@[simp] theorem State.modPart_ptable (s : State) (p : Nat) (f : Partition → Partition) : (s.modPart p f).ptable = s.ptable := rfl
@[simp] theorem State.modPart_presult (s : State) (p : Nat) (f : Partition → Partition) : (s.modPart p f).presult = s.presult := rfl
@[simp] theorem State.modPart_pnext (s : State) (p : Nat) (f : Partition → Partition) : (s.modPart p f).pnext = s.pnext := rfl
@[simp] theorem State.modPart_leaderDie (s : State) (p : Nat) (f : Partition → Partition) : (s.modPart p f).leaderDie = s.leaderDie := rfl
@[simp] theorem State.modPart_leaderValid (s : State) (p : Nat) (f : Partition → Partition) : (s.modPart p f).leaderValid = s.leaderValid := rfl
@[simp] theorem State.modPart_epoch (s : State) (p : Nat) (f : Partition → Partition) : (s.modPart p f).epoch = s.epoch := rfl
@[simp] theorem State.modPart_expiry (s : State) (p : Nat) (f : Partition → Partition) : (s.modPart p f).expiry = s.expiry := rfl
@[simp] theorem State.modPart_takingOver (s : State) (p : Nat) (f : Partition → Partition) : (s.modPart p f).takingOver = s.takingOver := rfl
@[simp] theorem State.modPart_rotor (s : State) (p : Nat) (f : Partition → Partition) : (s.modPart p f).rotor = s.rotor := rfl
@[simp] theorem State.modPart_winPartition (s : State) (p : Nat) (f : Partition → Partition) : (s.modPart p f).winPartition = s.winPartition := rfl
@[simp] theorem State.modPart_winBase (s : State) (p : Nat) (f : Partition → Partition) : (s.modPart p f).winBase = s.winBase := rfl
@[simp] theorem State.modPart_msixOpen (s : State) (p : Nat) (f : Partition → Partition) : (s.modPart p f).msixOpen = s.msixOpen := rfl
@[simp] theorem State.modPart_msixPending (s : State) (p : Nat) (f : Partition → Partition) : (s.modPart p f).msixPending = s.msixPending := rfl
@[simp] theorem State.modPart_msixTable (s : State) (p : Nat) (f : Partition → Partition) : (s.modPart p f).msixTable = s.msixTable := rfl
@[simp] theorem State.modPart_inbound (s : State) (p : Nat) (f : Partition → Partition) : (s.modPart p f).inbound = s.inbound := rfl
@[simp] theorem State.modPart_heldStores (s : State) (p : Nat) (f : Partition → Partition) : (s.modPart p f).heldStores = s.heldStores := rfl
@[simp] theorem State.modPart_touched (s : State) (p : Nat) (f : Partition → Partition) : (s.modPart p f).touched = s.touched := rfl
@[simp] theorem State.modPart_peerMaps (s : State) (p : Nat) (f : Partition → Partition) : (s.modPart p f).peerMaps = s.peerMaps := rfl
@[simp] theorem State.modPart_out (s : State) (p : Nat) (f : Partition → Partition) : (s.modPart p f).out = s.out := rfl
@[simp] theorem State.modPart_cap (s : State) (p : Nat) (f : Partition → Partition) : (s.modPart p f).cap = s.cap := rfl
@[simp] theorem State.modPart_effCap (s : State) (p : Nat) (f : Partition → Partition) : (s.modPart p f).effCap = s.effCap := rfl
@[simp] theorem State.modPart_target (s : State) (p : Nat) (f : Partition → Partition) : (s.modPart p f).target = s.target := rfl
@[simp] theorem State.modPart_overSince (s : State) (p : Nat) (f : Partition → Partition) : (s.modPart p f).overSince = s.overSince := rfl
@[simp] theorem State.modPart_coolSince (s : State) (p : Nat) (f : Partition → Partition) : (s.modPart p f).coolSince = s.coolSince := rfl
@[simp] theorem State.modPart_signing (s : State) (p : Nat) (f : Partition → Partition) : (s.modPart p f).signing = s.signing := rfl
@[simp] theorem State.modPart_challenges (s : State) (p : Nat) (f : Partition → Partition) : (s.modPart p f).challenges = s.challenges := rfl
@[simp] theorem State.modPart_signIdx (s : State) (p : Nat) (f : Partition → Partition) : (s.modPart p f).signIdx = s.signIdx := rfl
@[simp] theorem State.modPart_idCovered (s : State) (p : Nat) (f : Partition → Partition) : (s.modPart p f).idCovered = s.idCovered := rfl
@[simp] theorem State.modPart_idSignature (s : State) (p : Nat) (f : Partition → Partition) : (s.modPart p f).idSignature = s.idSignature := rfl
@[simp] theorem State.modPart_challenge (s : State) (p : Nat) (f : Partition → Partition) : (s.modPart p f).challenge = s.challenge := rfl
@[simp] theorem State.modPart_report (s : State) (p : Nat) (f : Partition → Partition) : (s.modPart p f).report = s.report := rfl
@[simp] theorem State.modPart_reportStatus (s : State) (p : Nat) (f : Partition → Partition) : (s.modPart p f).reportStatus = s.reportStatus := rfl
@[simp] theorem State.modPart_jtagUnit (s : State) (p : Nat) (f : Partition → Partition) : (s.modPart p f).jtagUnit = s.jtagUnit := rfl
@[simp] theorem State.modPart_jtagInstr (s : State) (p : Nat) (f : Partition → Partition) : (s.modPart p f).jtagInstr = s.jtagInstr := rfl
@[simp] theorem State.modPart_jtagWord (s : State) (p : Nat) (f : Partition → Partition) : (s.modPart p f).jtagWord = s.jtagWord := rfl
@[simp] theorem State.modPart_agenda (s : State) (p : Nat) (f : Partition → Partition) : (s.modPart p f).agenda = s.agenda := rfl
@[simp] theorem State.modPart_turnNo (s : State) (p : Nat) (f : Partition → Partition) : (s.modPart p f).turnNo = s.turnNo := rfl
@[simp] theorem State.modPart_group (s : State) (p : Nat) (f : Partition → Partition) : (s.modPart p f).group = s.group := rfl
@[simp] theorem State.modPart_fresh (s : State) (p : Nat) (f : Partition → Partition) : (s.modPart p f).fresh = s.fresh := rfl
@[simp] theorem State.modPart_draw (s : State) (p : Nat) (f : Partition → Partition) : (s.modPart p f).draw = s.draw := rfl

/-! State.modSlot -/
@[simp] theorem State.modSlot_bringup (s : State) (n : Nat) (f : Slot → Slot) : (s.modSlot n f).bringup = s.bringup := rfl
@[simp] theorem State.modSlot_clk (s : State) (n : Nat) (f : Slot → Slot) : (s.modSlot n f).clk = s.clk := rfl
@[simp] theorem State.modSlot_frozen (s : State) (n : Nat) (f : Slot → Slot) : (s.modSlot n f).frozen = s.frozen := rfl
@[simp] theorem State.modSlot_pkg (s : State) (n : Nat) (f : Slot → Slot) : (s.modSlot n f).pkg = s.pkg := rfl
@[simp] theorem State.modSlot_mem (s : State) (n : Nat) (f : Slot → Slot) : (s.modSlot n f).mem = s.mem := rfl
@[simp] theorem State.modSlot_lines (s : State) (n : Nat) (f : Slot → Slot) : (s.modSlot n f).lines = s.lines := rfl
@[simp] theorem State.modSlot_cores (s : State) (n : Nat) (f : Slot → Slot) : (s.modSlot n f).cores = s.cores := rfl
@[simp] theorem State.modSlot_dies (s : State) (n : Nat) (f : Slot → Slot) : (s.modSlot n f).dies = s.dies := rfl
@[simp] theorem State.modSlot_bundles (s : State) (n : Nat) (f : Slot → Slot) : (s.modSlot n f).bundles = s.bundles := rfl
@[simp] theorem State.modSlot_blocks (s : State) (n : Nat) (f : Slot → Slot) : (s.modSlot n f).blocks = s.blocks := rfl
@[simp] theorem State.modSlot_saved (s : State) (n : Nat) (f : Slot → Slot) : (s.modSlot n f).saved = s.saved := rfl
@[simp] theorem State.modSlot_reqs (s : State) (n : Nat) (f : Slot → Slot) : (s.modSlot n f).reqs = s.reqs := rfl
@[simp] theorem State.modSlot_copies (s : State) (n : Nat) (f : Slot → Slot) : (s.modSlot n f).copies = s.copies := rfl
@[simp] theorem State.modSlot_acbs (s : State) (n : Nat) (f : Slot → Slot) : (s.modSlot n f).acbs = s.acbs := rfl
@[simp] theorem State.modSlot_tiles (s : State) (n : Nat) (f : Slot → Slot) : (s.modSlot n f).tiles = s.tiles := rfl
@[simp] theorem State.modSlot_parts (s : State) (n : Nat) (f : Slot → Slot) : (s.modSlot n f).parts = s.parts := rfl
@[simp] theorem State.modSlot_carver (s : State) (n : Nat) (f : Slot → Slot) : (s.modSlot n f).carver = s.carver := rfl
@[simp] theorem State.modSlot_objects (s : State) (n : Nat) (f : Slot → Slot) : (s.modSlot n f).objects = s.objects := rfl
@[simp] theorem State.modSlot_calls (s : State) (n : Nat) (f : Slot → Slot) : (s.modSlot n f).calls = s.calls := rfl
@[simp] theorem State.modSlot_waves (s : State) (n : Nat) (f : Slot → Slot) : (s.modSlot n f).waves = s.waves := rfl
@[simp] theorem State.modSlot_wnodes (s : State) (n : Nat) (f : Slot → Slot) : (s.modSlot n f).wnodes = s.wnodes := rfl
@[simp] theorem State.modSlot_nets (s : State) (n : Nat) (f : Slot → Slot) : (s.modSlot n f).nets = s.nets := rfl
@[simp] theorem State.modSlot_tasks (s : State) (n : Nat) (f : Slot → Slot) : (s.modSlot n f).tasks = s.tasks := rfl
@[simp] theorem State.modSlot_deps (s : State) (n : Nat) (f : Slot → Slot) : (s.modSlot n f).deps = s.deps := rfl
@[simp] theorem State.modSlot_versions (s : State) (n : Nat) (f : Slot → Slot) : (s.modSlot n f).versions = s.versions := rfl
@[simp] theorem State.modSlot_packets (s : State) (n : Nat) (f : Slot → Slot) : (s.modSlot n f).packets = s.packets := rfl
@[simp] theorem State.modSlot_leases (s : State) (n : Nat) (f : Slot → Slot) : (s.modSlot n f).leases = s.leases := rfl
@[simp] theorem State.modSlot_moves (s : State) (n : Nat) (f : Slot → Slot) : (s.modSlot n f).moves = s.moves := rfl
@[simp] theorem State.modSlot_zone (s : State) (n : Nat) (f : Slot → Slot) : (s.modSlot n f).zone = s.zone := rfl
@[simp] theorem State.modSlot_gangs (s : State) (n : Nat) (f : Slot → Slot) : (s.modSlot n f).gangs = s.gangs := rfl
@[simp] theorem State.modSlot_grids (s : State) (n : Nat) (f : Slot → Slot) : (s.modSlot n f).grids = s.grids := rfl
@[simp] theorem State.modSlot_partitions (s : State) (n : Nat) (f : Slot → Slot) : (s.modSlot n f).partitions = s.partitions := rfl
@[simp] theorem State.modSlot_ptable (s : State) (n : Nat) (f : Slot → Slot) : (s.modSlot n f).ptable = s.ptable := rfl
@[simp] theorem State.modSlot_presult (s : State) (n : Nat) (f : Slot → Slot) : (s.modSlot n f).presult = s.presult := rfl
@[simp] theorem State.modSlot_pnext (s : State) (n : Nat) (f : Slot → Slot) : (s.modSlot n f).pnext = s.pnext := rfl
@[simp] theorem State.modSlot_leaderDie (s : State) (n : Nat) (f : Slot → Slot) : (s.modSlot n f).leaderDie = s.leaderDie := rfl
@[simp] theorem State.modSlot_leaderValid (s : State) (n : Nat) (f : Slot → Slot) : (s.modSlot n f).leaderValid = s.leaderValid := rfl
@[simp] theorem State.modSlot_epoch (s : State) (n : Nat) (f : Slot → Slot) : (s.modSlot n f).epoch = s.epoch := rfl
@[simp] theorem State.modSlot_expiry (s : State) (n : Nat) (f : Slot → Slot) : (s.modSlot n f).expiry = s.expiry := rfl
@[simp] theorem State.modSlot_takingOver (s : State) (n : Nat) (f : Slot → Slot) : (s.modSlot n f).takingOver = s.takingOver := rfl
@[simp] theorem State.modSlot_rotor (s : State) (n : Nat) (f : Slot → Slot) : (s.modSlot n f).rotor = s.rotor := rfl
@[simp] theorem State.modSlot_winPartition (s : State) (n : Nat) (f : Slot → Slot) : (s.modSlot n f).winPartition = s.winPartition := rfl
@[simp] theorem State.modSlot_winBase (s : State) (n : Nat) (f : Slot → Slot) : (s.modSlot n f).winBase = s.winBase := rfl
@[simp] theorem State.modSlot_msixOpen (s : State) (n : Nat) (f : Slot → Slot) : (s.modSlot n f).msixOpen = s.msixOpen := rfl
@[simp] theorem State.modSlot_msixPending (s : State) (n : Nat) (f : Slot → Slot) : (s.modSlot n f).msixPending = s.msixPending := rfl
@[simp] theorem State.modSlot_msixTable (s : State) (n : Nat) (f : Slot → Slot) : (s.modSlot n f).msixTable = s.msixTable := rfl
@[simp] theorem State.modSlot_inbound (s : State) (n : Nat) (f : Slot → Slot) : (s.modSlot n f).inbound = s.inbound := rfl
@[simp] theorem State.modSlot_heldStores (s : State) (n : Nat) (f : Slot → Slot) : (s.modSlot n f).heldStores = s.heldStores := rfl
@[simp] theorem State.modSlot_touched (s : State) (n : Nat) (f : Slot → Slot) : (s.modSlot n f).touched = s.touched := rfl
@[simp] theorem State.modSlot_peerMaps (s : State) (n : Nat) (f : Slot → Slot) : (s.modSlot n f).peerMaps = s.peerMaps := rfl
@[simp] theorem State.modSlot_out (s : State) (n : Nat) (f : Slot → Slot) : (s.modSlot n f).out = s.out := rfl
@[simp] theorem State.modSlot_cap (s : State) (n : Nat) (f : Slot → Slot) : (s.modSlot n f).cap = s.cap := rfl
@[simp] theorem State.modSlot_effCap (s : State) (n : Nat) (f : Slot → Slot) : (s.modSlot n f).effCap = s.effCap := rfl
@[simp] theorem State.modSlot_target (s : State) (n : Nat) (f : Slot → Slot) : (s.modSlot n f).target = s.target := rfl
@[simp] theorem State.modSlot_overSince (s : State) (n : Nat) (f : Slot → Slot) : (s.modSlot n f).overSince = s.overSince := rfl
@[simp] theorem State.modSlot_coolSince (s : State) (n : Nat) (f : Slot → Slot) : (s.modSlot n f).coolSince = s.coolSince := rfl
@[simp] theorem State.modSlot_signing (s : State) (n : Nat) (f : Slot → Slot) : (s.modSlot n f).signing = s.signing := rfl
@[simp] theorem State.modSlot_challenges (s : State) (n : Nat) (f : Slot → Slot) : (s.modSlot n f).challenges = s.challenges := rfl
@[simp] theorem State.modSlot_signIdx (s : State) (n : Nat) (f : Slot → Slot) : (s.modSlot n f).signIdx = s.signIdx := rfl
@[simp] theorem State.modSlot_idCovered (s : State) (n : Nat) (f : Slot → Slot) : (s.modSlot n f).idCovered = s.idCovered := rfl
@[simp] theorem State.modSlot_idSignature (s : State) (n : Nat) (f : Slot → Slot) : (s.modSlot n f).idSignature = s.idSignature := rfl
@[simp] theorem State.modSlot_challenge (s : State) (n : Nat) (f : Slot → Slot) : (s.modSlot n f).challenge = s.challenge := rfl
@[simp] theorem State.modSlot_report (s : State) (n : Nat) (f : Slot → Slot) : (s.modSlot n f).report = s.report := rfl
@[simp] theorem State.modSlot_reportStatus (s : State) (n : Nat) (f : Slot → Slot) : (s.modSlot n f).reportStatus = s.reportStatus := rfl
@[simp] theorem State.modSlot_jtagUnit (s : State) (n : Nat) (f : Slot → Slot) : (s.modSlot n f).jtagUnit = s.jtagUnit := rfl
@[simp] theorem State.modSlot_jtagInstr (s : State) (n : Nat) (f : Slot → Slot) : (s.modSlot n f).jtagInstr = s.jtagInstr := rfl
@[simp] theorem State.modSlot_jtagWord (s : State) (n : Nat) (f : Slot → Slot) : (s.modSlot n f).jtagWord = s.jtagWord := rfl
@[simp] theorem State.modSlot_agenda (s : State) (n : Nat) (f : Slot → Slot) : (s.modSlot n f).agenda = s.agenda := rfl
@[simp] theorem State.modSlot_turnNo (s : State) (n : Nat) (f : Slot → Slot) : (s.modSlot n f).turnNo = s.turnNo := rfl
@[simp] theorem State.modSlot_group (s : State) (n : Nat) (f : Slot → Slot) : (s.modSlot n f).group = s.group := rfl
@[simp] theorem State.modSlot_fresh (s : State) (n : Nat) (f : Slot → Slot) : (s.modSlot n f).fresh = s.fresh := rfl
@[simp] theorem State.modSlot_draw (s : State) (n : Nat) (f : Slot → Slot) : (s.modSlot n f).draw = s.draw := rfl

/-! State.modReq -/
@[simp] theorem State.modReq_bringup (s : State) (r : Nat) (f : Req → Req) : (s.modReq r f).bringup = s.bringup := rfl
@[simp] theorem State.modReq_clk (s : State) (r : Nat) (f : Req → Req) : (s.modReq r f).clk = s.clk := rfl
@[simp] theorem State.modReq_frozen (s : State) (r : Nat) (f : Req → Req) : (s.modReq r f).frozen = s.frozen := rfl
@[simp] theorem State.modReq_pkg (s : State) (r : Nat) (f : Req → Req) : (s.modReq r f).pkg = s.pkg := rfl
@[simp] theorem State.modReq_mem (s : State) (r : Nat) (f : Req → Req) : (s.modReq r f).mem = s.mem := rfl
@[simp] theorem State.modReq_lines (s : State) (r : Nat) (f : Req → Req) : (s.modReq r f).lines = s.lines := rfl
@[simp] theorem State.modReq_cores (s : State) (r : Nat) (f : Req → Req) : (s.modReq r f).cores = s.cores := rfl
@[simp] theorem State.modReq_dies (s : State) (r : Nat) (f : Req → Req) : (s.modReq r f).dies = s.dies := rfl
@[simp] theorem State.modReq_bundles (s : State) (r : Nat) (f : Req → Req) : (s.modReq r f).bundles = s.bundles := rfl
@[simp] theorem State.modReq_blocks (s : State) (r : Nat) (f : Req → Req) : (s.modReq r f).blocks = s.blocks := rfl
@[simp] theorem State.modReq_saved (s : State) (r : Nat) (f : Req → Req) : (s.modReq r f).saved = s.saved := rfl
@[simp] theorem State.modReq_copies (s : State) (r : Nat) (f : Req → Req) : (s.modReq r f).copies = s.copies := rfl
@[simp] theorem State.modReq_acbs (s : State) (r : Nat) (f : Req → Req) : (s.modReq r f).acbs = s.acbs := rfl
@[simp] theorem State.modReq_tiles (s : State) (r : Nat) (f : Req → Req) : (s.modReq r f).tiles = s.tiles := rfl
@[simp] theorem State.modReq_parts (s : State) (r : Nat) (f : Req → Req) : (s.modReq r f).parts = s.parts := rfl
@[simp] theorem State.modReq_carver (s : State) (r : Nat) (f : Req → Req) : (s.modReq r f).carver = s.carver := rfl
@[simp] theorem State.modReq_objects (s : State) (r : Nat) (f : Req → Req) : (s.modReq r f).objects = s.objects := rfl
@[simp] theorem State.modReq_calls (s : State) (r : Nat) (f : Req → Req) : (s.modReq r f).calls = s.calls := rfl
@[simp] theorem State.modReq_waves (s : State) (r : Nat) (f : Req → Req) : (s.modReq r f).waves = s.waves := rfl
@[simp] theorem State.modReq_wnodes (s : State) (r : Nat) (f : Req → Req) : (s.modReq r f).wnodes = s.wnodes := rfl
@[simp] theorem State.modReq_nets (s : State) (r : Nat) (f : Req → Req) : (s.modReq r f).nets = s.nets := rfl
@[simp] theorem State.modReq_tasks (s : State) (r : Nat) (f : Req → Req) : (s.modReq r f).tasks = s.tasks := rfl
@[simp] theorem State.modReq_deps (s : State) (r : Nat) (f : Req → Req) : (s.modReq r f).deps = s.deps := rfl
@[simp] theorem State.modReq_versions (s : State) (r : Nat) (f : Req → Req) : (s.modReq r f).versions = s.versions := rfl
@[simp] theorem State.modReq_packets (s : State) (r : Nat) (f : Req → Req) : (s.modReq r f).packets = s.packets := rfl
@[simp] theorem State.modReq_leases (s : State) (r : Nat) (f : Req → Req) : (s.modReq r f).leases = s.leases := rfl
@[simp] theorem State.modReq_moves (s : State) (r : Nat) (f : Req → Req) : (s.modReq r f).moves = s.moves := rfl
@[simp] theorem State.modReq_zone (s : State) (r : Nat) (f : Req → Req) : (s.modReq r f).zone = s.zone := rfl
@[simp] theorem State.modReq_gangs (s : State) (r : Nat) (f : Req → Req) : (s.modReq r f).gangs = s.gangs := rfl
@[simp] theorem State.modReq_grids (s : State) (r : Nat) (f : Req → Req) : (s.modReq r f).grids = s.grids := rfl
@[simp] theorem State.modReq_slots (s : State) (r : Nat) (f : Req → Req) : (s.modReq r f).slots = s.slots := rfl
@[simp] theorem State.modReq_partitions (s : State) (r : Nat) (f : Req → Req) : (s.modReq r f).partitions = s.partitions := rfl
@[simp] theorem State.modReq_ptable (s : State) (r : Nat) (f : Req → Req) : (s.modReq r f).ptable = s.ptable := rfl
@[simp] theorem State.modReq_presult (s : State) (r : Nat) (f : Req → Req) : (s.modReq r f).presult = s.presult := rfl
@[simp] theorem State.modReq_pnext (s : State) (r : Nat) (f : Req → Req) : (s.modReq r f).pnext = s.pnext := rfl
@[simp] theorem State.modReq_leaderDie (s : State) (r : Nat) (f : Req → Req) : (s.modReq r f).leaderDie = s.leaderDie := rfl
@[simp] theorem State.modReq_leaderValid (s : State) (r : Nat) (f : Req → Req) : (s.modReq r f).leaderValid = s.leaderValid := rfl
@[simp] theorem State.modReq_epoch (s : State) (r : Nat) (f : Req → Req) : (s.modReq r f).epoch = s.epoch := rfl
@[simp] theorem State.modReq_expiry (s : State) (r : Nat) (f : Req → Req) : (s.modReq r f).expiry = s.expiry := rfl
@[simp] theorem State.modReq_takingOver (s : State) (r : Nat) (f : Req → Req) : (s.modReq r f).takingOver = s.takingOver := rfl
@[simp] theorem State.modReq_rotor (s : State) (r : Nat) (f : Req → Req) : (s.modReq r f).rotor = s.rotor := rfl
@[simp] theorem State.modReq_winPartition (s : State) (r : Nat) (f : Req → Req) : (s.modReq r f).winPartition = s.winPartition := rfl
@[simp] theorem State.modReq_winBase (s : State) (r : Nat) (f : Req → Req) : (s.modReq r f).winBase = s.winBase := rfl
@[simp] theorem State.modReq_msixOpen (s : State) (r : Nat) (f : Req → Req) : (s.modReq r f).msixOpen = s.msixOpen := rfl
@[simp] theorem State.modReq_msixPending (s : State) (r : Nat) (f : Req → Req) : (s.modReq r f).msixPending = s.msixPending := rfl
@[simp] theorem State.modReq_msixTable (s : State) (r : Nat) (f : Req → Req) : (s.modReq r f).msixTable = s.msixTable := rfl
@[simp] theorem State.modReq_inbound (s : State) (r : Nat) (f : Req → Req) : (s.modReq r f).inbound = s.inbound := rfl
@[simp] theorem State.modReq_heldStores (s : State) (r : Nat) (f : Req → Req) : (s.modReq r f).heldStores = s.heldStores := rfl
@[simp] theorem State.modReq_touched (s : State) (r : Nat) (f : Req → Req) : (s.modReq r f).touched = s.touched := rfl
@[simp] theorem State.modReq_peerMaps (s : State) (r : Nat) (f : Req → Req) : (s.modReq r f).peerMaps = s.peerMaps := rfl
@[simp] theorem State.modReq_out (s : State) (r : Nat) (f : Req → Req) : (s.modReq r f).out = s.out := rfl
@[simp] theorem State.modReq_cap (s : State) (r : Nat) (f : Req → Req) : (s.modReq r f).cap = s.cap := rfl
@[simp] theorem State.modReq_effCap (s : State) (r : Nat) (f : Req → Req) : (s.modReq r f).effCap = s.effCap := rfl
@[simp] theorem State.modReq_target (s : State) (r : Nat) (f : Req → Req) : (s.modReq r f).target = s.target := rfl
@[simp] theorem State.modReq_overSince (s : State) (r : Nat) (f : Req → Req) : (s.modReq r f).overSince = s.overSince := rfl
@[simp] theorem State.modReq_coolSince (s : State) (r : Nat) (f : Req → Req) : (s.modReq r f).coolSince = s.coolSince := rfl
@[simp] theorem State.modReq_signing (s : State) (r : Nat) (f : Req → Req) : (s.modReq r f).signing = s.signing := rfl
@[simp] theorem State.modReq_challenges (s : State) (r : Nat) (f : Req → Req) : (s.modReq r f).challenges = s.challenges := rfl
@[simp] theorem State.modReq_signIdx (s : State) (r : Nat) (f : Req → Req) : (s.modReq r f).signIdx = s.signIdx := rfl
@[simp] theorem State.modReq_idCovered (s : State) (r : Nat) (f : Req → Req) : (s.modReq r f).idCovered = s.idCovered := rfl
@[simp] theorem State.modReq_idSignature (s : State) (r : Nat) (f : Req → Req) : (s.modReq r f).idSignature = s.idSignature := rfl
@[simp] theorem State.modReq_challenge (s : State) (r : Nat) (f : Req → Req) : (s.modReq r f).challenge = s.challenge := rfl
@[simp] theorem State.modReq_report (s : State) (r : Nat) (f : Req → Req) : (s.modReq r f).report = s.report := rfl
@[simp] theorem State.modReq_reportStatus (s : State) (r : Nat) (f : Req → Req) : (s.modReq r f).reportStatus = s.reportStatus := rfl
@[simp] theorem State.modReq_jtagUnit (s : State) (r : Nat) (f : Req → Req) : (s.modReq r f).jtagUnit = s.jtagUnit := rfl
@[simp] theorem State.modReq_jtagInstr (s : State) (r : Nat) (f : Req → Req) : (s.modReq r f).jtagInstr = s.jtagInstr := rfl
@[simp] theorem State.modReq_jtagWord (s : State) (r : Nat) (f : Req → Req) : (s.modReq r f).jtagWord = s.jtagWord := rfl
@[simp] theorem State.modReq_agenda (s : State) (r : Nat) (f : Req → Req) : (s.modReq r f).agenda = s.agenda := rfl
@[simp] theorem State.modReq_turnNo (s : State) (r : Nat) (f : Req → Req) : (s.modReq r f).turnNo = s.turnNo := rfl
@[simp] theorem State.modReq_group (s : State) (r : Nat) (f : Req → Req) : (s.modReq r f).group = s.group := rfl
@[simp] theorem State.modReq_fresh (s : State) (r : Nat) (f : Req → Req) : (s.modReq r f).fresh = s.fresh := rfl
@[simp] theorem State.modReq_draw (s : State) (r : Nat) (f : Req → Req) : (s.modReq r f).draw = s.draw := rfl

/-! State.dropReq -/
@[simp] theorem State.dropReq_bringup (s : State) (r : Nat) : (s.dropReq r).bringup = s.bringup := rfl
@[simp] theorem State.dropReq_clk (s : State) (r : Nat) : (s.dropReq r).clk = s.clk := rfl
@[simp] theorem State.dropReq_frozen (s : State) (r : Nat) : (s.dropReq r).frozen = s.frozen := rfl
@[simp] theorem State.dropReq_pkg (s : State) (r : Nat) : (s.dropReq r).pkg = s.pkg := rfl
@[simp] theorem State.dropReq_mem (s : State) (r : Nat) : (s.dropReq r).mem = s.mem := rfl
@[simp] theorem State.dropReq_lines (s : State) (r : Nat) : (s.dropReq r).lines = s.lines := rfl
@[simp] theorem State.dropReq_cores (s : State) (r : Nat) : (s.dropReq r).cores = s.cores := rfl
@[simp] theorem State.dropReq_dies (s : State) (r : Nat) : (s.dropReq r).dies = s.dies := rfl
@[simp] theorem State.dropReq_bundles (s : State) (r : Nat) : (s.dropReq r).bundles = s.bundles := rfl
@[simp] theorem State.dropReq_blocks (s : State) (r : Nat) : (s.dropReq r).blocks = s.blocks := rfl
@[simp] theorem State.dropReq_saved (s : State) (r : Nat) : (s.dropReq r).saved = s.saved := rfl
@[simp] theorem State.dropReq_copies (s : State) (r : Nat) : (s.dropReq r).copies = s.copies := rfl
@[simp] theorem State.dropReq_acbs (s : State) (r : Nat) : (s.dropReq r).acbs = s.acbs := rfl
@[simp] theorem State.dropReq_tiles (s : State) (r : Nat) : (s.dropReq r).tiles = s.tiles := rfl
@[simp] theorem State.dropReq_parts (s : State) (r : Nat) : (s.dropReq r).parts = s.parts := rfl
@[simp] theorem State.dropReq_carver (s : State) (r : Nat) : (s.dropReq r).carver = s.carver := rfl
@[simp] theorem State.dropReq_objects (s : State) (r : Nat) : (s.dropReq r).objects = s.objects := rfl
@[simp] theorem State.dropReq_calls (s : State) (r : Nat) : (s.dropReq r).calls = s.calls := rfl
@[simp] theorem State.dropReq_waves (s : State) (r : Nat) : (s.dropReq r).waves = s.waves := rfl
@[simp] theorem State.dropReq_wnodes (s : State) (r : Nat) : (s.dropReq r).wnodes = s.wnodes := rfl
@[simp] theorem State.dropReq_nets (s : State) (r : Nat) : (s.dropReq r).nets = s.nets := rfl
@[simp] theorem State.dropReq_tasks (s : State) (r : Nat) : (s.dropReq r).tasks = s.tasks := rfl
@[simp] theorem State.dropReq_deps (s : State) (r : Nat) : (s.dropReq r).deps = s.deps := rfl
@[simp] theorem State.dropReq_versions (s : State) (r : Nat) : (s.dropReq r).versions = s.versions := rfl
@[simp] theorem State.dropReq_packets (s : State) (r : Nat) : (s.dropReq r).packets = s.packets := rfl
@[simp] theorem State.dropReq_leases (s : State) (r : Nat) : (s.dropReq r).leases = s.leases := rfl
@[simp] theorem State.dropReq_moves (s : State) (r : Nat) : (s.dropReq r).moves = s.moves := rfl
@[simp] theorem State.dropReq_zone (s : State) (r : Nat) : (s.dropReq r).zone = s.zone := rfl
@[simp] theorem State.dropReq_gangs (s : State) (r : Nat) : (s.dropReq r).gangs = s.gangs := rfl
@[simp] theorem State.dropReq_grids (s : State) (r : Nat) : (s.dropReq r).grids = s.grids := rfl
@[simp] theorem State.dropReq_slots (s : State) (r : Nat) : (s.dropReq r).slots = s.slots := rfl
@[simp] theorem State.dropReq_partitions (s : State) (r : Nat) : (s.dropReq r).partitions = s.partitions := rfl
@[simp] theorem State.dropReq_ptable (s : State) (r : Nat) : (s.dropReq r).ptable = s.ptable := rfl
@[simp] theorem State.dropReq_presult (s : State) (r : Nat) : (s.dropReq r).presult = s.presult := rfl
@[simp] theorem State.dropReq_pnext (s : State) (r : Nat) : (s.dropReq r).pnext = s.pnext := rfl
@[simp] theorem State.dropReq_leaderDie (s : State) (r : Nat) : (s.dropReq r).leaderDie = s.leaderDie := rfl
@[simp] theorem State.dropReq_leaderValid (s : State) (r : Nat) : (s.dropReq r).leaderValid = s.leaderValid := rfl
@[simp] theorem State.dropReq_epoch (s : State) (r : Nat) : (s.dropReq r).epoch = s.epoch := rfl
@[simp] theorem State.dropReq_expiry (s : State) (r : Nat) : (s.dropReq r).expiry = s.expiry := rfl
@[simp] theorem State.dropReq_takingOver (s : State) (r : Nat) : (s.dropReq r).takingOver = s.takingOver := rfl
@[simp] theorem State.dropReq_rotor (s : State) (r : Nat) : (s.dropReq r).rotor = s.rotor := rfl
@[simp] theorem State.dropReq_winPartition (s : State) (r : Nat) : (s.dropReq r).winPartition = s.winPartition := rfl
@[simp] theorem State.dropReq_winBase (s : State) (r : Nat) : (s.dropReq r).winBase = s.winBase := rfl
@[simp] theorem State.dropReq_msixOpen (s : State) (r : Nat) : (s.dropReq r).msixOpen = s.msixOpen := rfl
@[simp] theorem State.dropReq_msixPending (s : State) (r : Nat) : (s.dropReq r).msixPending = s.msixPending := rfl
@[simp] theorem State.dropReq_msixTable (s : State) (r : Nat) : (s.dropReq r).msixTable = s.msixTable := rfl
@[simp] theorem State.dropReq_inbound (s : State) (r : Nat) : (s.dropReq r).inbound = s.inbound := rfl
@[simp] theorem State.dropReq_heldStores (s : State) (r : Nat) : (s.dropReq r).heldStores = s.heldStores := rfl
@[simp] theorem State.dropReq_touched (s : State) (r : Nat) : (s.dropReq r).touched = s.touched := rfl
@[simp] theorem State.dropReq_peerMaps (s : State) (r : Nat) : (s.dropReq r).peerMaps = s.peerMaps := rfl
@[simp] theorem State.dropReq_out (s : State) (r : Nat) : (s.dropReq r).out = s.out := rfl
@[simp] theorem State.dropReq_cap (s : State) (r : Nat) : (s.dropReq r).cap = s.cap := rfl
@[simp] theorem State.dropReq_effCap (s : State) (r : Nat) : (s.dropReq r).effCap = s.effCap := rfl
@[simp] theorem State.dropReq_target (s : State) (r : Nat) : (s.dropReq r).target = s.target := rfl
@[simp] theorem State.dropReq_overSince (s : State) (r : Nat) : (s.dropReq r).overSince = s.overSince := rfl
@[simp] theorem State.dropReq_coolSince (s : State) (r : Nat) : (s.dropReq r).coolSince = s.coolSince := rfl
@[simp] theorem State.dropReq_signing (s : State) (r : Nat) : (s.dropReq r).signing = s.signing := rfl
@[simp] theorem State.dropReq_challenges (s : State) (r : Nat) : (s.dropReq r).challenges = s.challenges := rfl
@[simp] theorem State.dropReq_signIdx (s : State) (r : Nat) : (s.dropReq r).signIdx = s.signIdx := rfl
@[simp] theorem State.dropReq_idCovered (s : State) (r : Nat) : (s.dropReq r).idCovered = s.idCovered := rfl
@[simp] theorem State.dropReq_idSignature (s : State) (r : Nat) : (s.dropReq r).idSignature = s.idSignature := rfl
@[simp] theorem State.dropReq_challenge (s : State) (r : Nat) : (s.dropReq r).challenge = s.challenge := rfl
@[simp] theorem State.dropReq_report (s : State) (r : Nat) : (s.dropReq r).report = s.report := rfl
@[simp] theorem State.dropReq_reportStatus (s : State) (r : Nat) : (s.dropReq r).reportStatus = s.reportStatus := rfl
@[simp] theorem State.dropReq_jtagUnit (s : State) (r : Nat) : (s.dropReq r).jtagUnit = s.jtagUnit := rfl
@[simp] theorem State.dropReq_jtagInstr (s : State) (r : Nat) : (s.dropReq r).jtagInstr = s.jtagInstr := rfl
@[simp] theorem State.dropReq_jtagWord (s : State) (r : Nat) : (s.dropReq r).jtagWord = s.jtagWord := rfl
@[simp] theorem State.dropReq_agenda (s : State) (r : Nat) : (s.dropReq r).agenda = s.agenda := rfl
@[simp] theorem State.dropReq_turnNo (s : State) (r : Nat) : (s.dropReq r).turnNo = s.turnNo := rfl
@[simp] theorem State.dropReq_group (s : State) (r : Nat) : (s.dropReq r).group = s.group := rfl
@[simp] theorem State.dropReq_fresh (s : State) (r : Nat) : (s.dropReq r).fresh = s.fresh := rfl
@[simp] theorem State.dropReq_draw (s : State) (r : Nat) : (s.dropReq r).draw = s.draw := rfl

/-! State.next -/
@[simp] theorem State.next_bringup (s : State) : (s.next).bringup = s.bringup := rfl
@[simp] theorem State.next_clk (s : State) : (s.next).clk = s.clk := rfl
@[simp] theorem State.next_frozen (s : State) : (s.next).frozen = s.frozen := rfl
@[simp] theorem State.next_pkg (s : State) : (s.next).pkg = s.pkg := rfl
@[simp] theorem State.next_mem (s : State) : (s.next).mem = s.mem := rfl
@[simp] theorem State.next_lines (s : State) : (s.next).lines = s.lines := rfl
@[simp] theorem State.next_cores (s : State) : (s.next).cores = s.cores := rfl
@[simp] theorem State.next_dies (s : State) : (s.next).dies = s.dies := rfl
@[simp] theorem State.next_bundles (s : State) : (s.next).bundles = s.bundles := rfl
@[simp] theorem State.next_blocks (s : State) : (s.next).blocks = s.blocks := rfl
@[simp] theorem State.next_saved (s : State) : (s.next).saved = s.saved := rfl
@[simp] theorem State.next_reqs (s : State) : (s.next).reqs = s.reqs := rfl
@[simp] theorem State.next_copies (s : State) : (s.next).copies = s.copies := rfl
@[simp] theorem State.next_acbs (s : State) : (s.next).acbs = s.acbs := rfl
@[simp] theorem State.next_tiles (s : State) : (s.next).tiles = s.tiles := rfl
@[simp] theorem State.next_parts (s : State) : (s.next).parts = s.parts := rfl
@[simp] theorem State.next_carver (s : State) : (s.next).carver = s.carver := rfl
@[simp] theorem State.next_objects (s : State) : (s.next).objects = s.objects := rfl
@[simp] theorem State.next_calls (s : State) : (s.next).calls = s.calls := rfl
@[simp] theorem State.next_waves (s : State) : (s.next).waves = s.waves := rfl
@[simp] theorem State.next_wnodes (s : State) : (s.next).wnodes = s.wnodes := rfl
@[simp] theorem State.next_nets (s : State) : (s.next).nets = s.nets := rfl
@[simp] theorem State.next_tasks (s : State) : (s.next).tasks = s.tasks := rfl
@[simp] theorem State.next_deps (s : State) : (s.next).deps = s.deps := rfl
@[simp] theorem State.next_versions (s : State) : (s.next).versions = s.versions := rfl
@[simp] theorem State.next_packets (s : State) : (s.next).packets = s.packets := rfl
@[simp] theorem State.next_leases (s : State) : (s.next).leases = s.leases := rfl
@[simp] theorem State.next_moves (s : State) : (s.next).moves = s.moves := rfl
@[simp] theorem State.next_zone (s : State) : (s.next).zone = s.zone := rfl
@[simp] theorem State.next_gangs (s : State) : (s.next).gangs = s.gangs := rfl
@[simp] theorem State.next_grids (s : State) : (s.next).grids = s.grids := rfl
@[simp] theorem State.next_slots (s : State) : (s.next).slots = s.slots := rfl
@[simp] theorem State.next_partitions (s : State) : (s.next).partitions = s.partitions := rfl
@[simp] theorem State.next_ptable (s : State) : (s.next).ptable = s.ptable := rfl
@[simp] theorem State.next_presult (s : State) : (s.next).presult = s.presult := rfl
@[simp] theorem State.next_pnext (s : State) : (s.next).pnext = s.pnext := rfl
@[simp] theorem State.next_leaderDie (s : State) : (s.next).leaderDie = s.leaderDie := rfl
@[simp] theorem State.next_leaderValid (s : State) : (s.next).leaderValid = s.leaderValid := rfl
@[simp] theorem State.next_epoch (s : State) : (s.next).epoch = s.epoch := rfl
@[simp] theorem State.next_expiry (s : State) : (s.next).expiry = s.expiry := rfl
@[simp] theorem State.next_takingOver (s : State) : (s.next).takingOver = s.takingOver := rfl
@[simp] theorem State.next_rotor (s : State) : (s.next).rotor = s.rotor := rfl
@[simp] theorem State.next_winPartition (s : State) : (s.next).winPartition = s.winPartition := rfl
@[simp] theorem State.next_winBase (s : State) : (s.next).winBase = s.winBase := rfl
@[simp] theorem State.next_msixOpen (s : State) : (s.next).msixOpen = s.msixOpen := rfl
@[simp] theorem State.next_msixPending (s : State) : (s.next).msixPending = s.msixPending := rfl
@[simp] theorem State.next_msixTable (s : State) : (s.next).msixTable = s.msixTable := rfl
@[simp] theorem State.next_inbound (s : State) : (s.next).inbound = s.inbound := rfl
@[simp] theorem State.next_heldStores (s : State) : (s.next).heldStores = s.heldStores := rfl
@[simp] theorem State.next_touched (s : State) : (s.next).touched = s.touched := rfl
@[simp] theorem State.next_peerMaps (s : State) : (s.next).peerMaps = s.peerMaps := rfl
@[simp] theorem State.next_out (s : State) : (s.next).out = s.out := rfl
@[simp] theorem State.next_cap (s : State) : (s.next).cap = s.cap := rfl
@[simp] theorem State.next_effCap (s : State) : (s.next).effCap = s.effCap := rfl
@[simp] theorem State.next_target (s : State) : (s.next).target = s.target := rfl
@[simp] theorem State.next_overSince (s : State) : (s.next).overSince = s.overSince := rfl
@[simp] theorem State.next_coolSince (s : State) : (s.next).coolSince = s.coolSince := rfl
@[simp] theorem State.next_signing (s : State) : (s.next).signing = s.signing := rfl
@[simp] theorem State.next_challenges (s : State) : (s.next).challenges = s.challenges := rfl
@[simp] theorem State.next_signIdx (s : State) : (s.next).signIdx = s.signIdx := rfl
@[simp] theorem State.next_idCovered (s : State) : (s.next).idCovered = s.idCovered := rfl
@[simp] theorem State.next_idSignature (s : State) : (s.next).idSignature = s.idSignature := rfl
@[simp] theorem State.next_challenge (s : State) : (s.next).challenge = s.challenge := rfl
@[simp] theorem State.next_report (s : State) : (s.next).report = s.report := rfl
@[simp] theorem State.next_reportStatus (s : State) : (s.next).reportStatus = s.reportStatus := rfl
@[simp] theorem State.next_jtagUnit (s : State) : (s.next).jtagUnit = s.jtagUnit := rfl
@[simp] theorem State.next_jtagInstr (s : State) : (s.next).jtagInstr = s.jtagInstr := rfl
@[simp] theorem State.next_jtagWord (s : State) : (s.next).jtagWord = s.jtagWord := rfl
@[simp] theorem State.next_agenda (s : State) : (s.next).agenda = s.agenda := rfl
@[simp] theorem State.next_turnNo (s : State) : (s.next).turnNo = s.turnNo := rfl
@[simp] theorem State.next_group (s : State) : (s.next).group = s.group := rfl
@[simp] theorem State.next_draw (s : State) : (s.next).draw = s.draw := rfl

/-! State.drawn -/
@[simp] theorem State.drawn_bringup (s : State) : (s.drawn).bringup = s.bringup := rfl
@[simp] theorem State.drawn_clk (s : State) : (s.drawn).clk = s.clk := rfl
@[simp] theorem State.drawn_frozen (s : State) : (s.drawn).frozen = s.frozen := rfl
@[simp] theorem State.drawn_pkg (s : State) : (s.drawn).pkg = s.pkg := rfl
@[simp] theorem State.drawn_mem (s : State) : (s.drawn).mem = s.mem := rfl
@[simp] theorem State.drawn_lines (s : State) : (s.drawn).lines = s.lines := rfl
@[simp] theorem State.drawn_cores (s : State) : (s.drawn).cores = s.cores := rfl
@[simp] theorem State.drawn_dies (s : State) : (s.drawn).dies = s.dies := rfl
@[simp] theorem State.drawn_bundles (s : State) : (s.drawn).bundles = s.bundles := rfl
@[simp] theorem State.drawn_blocks (s : State) : (s.drawn).blocks = s.blocks := rfl
@[simp] theorem State.drawn_saved (s : State) : (s.drawn).saved = s.saved := rfl
@[simp] theorem State.drawn_reqs (s : State) : (s.drawn).reqs = s.reqs := rfl
@[simp] theorem State.drawn_copies (s : State) : (s.drawn).copies = s.copies := rfl
@[simp] theorem State.drawn_acbs (s : State) : (s.drawn).acbs = s.acbs := rfl
@[simp] theorem State.drawn_tiles (s : State) : (s.drawn).tiles = s.tiles := rfl
@[simp] theorem State.drawn_parts (s : State) : (s.drawn).parts = s.parts := rfl
@[simp] theorem State.drawn_carver (s : State) : (s.drawn).carver = s.carver := rfl
@[simp] theorem State.drawn_objects (s : State) : (s.drawn).objects = s.objects := rfl
@[simp] theorem State.drawn_calls (s : State) : (s.drawn).calls = s.calls := rfl
@[simp] theorem State.drawn_waves (s : State) : (s.drawn).waves = s.waves := rfl
@[simp] theorem State.drawn_wnodes (s : State) : (s.drawn).wnodes = s.wnodes := rfl
@[simp] theorem State.drawn_nets (s : State) : (s.drawn).nets = s.nets := rfl
@[simp] theorem State.drawn_tasks (s : State) : (s.drawn).tasks = s.tasks := rfl
@[simp] theorem State.drawn_deps (s : State) : (s.drawn).deps = s.deps := rfl
@[simp] theorem State.drawn_versions (s : State) : (s.drawn).versions = s.versions := rfl
@[simp] theorem State.drawn_packets (s : State) : (s.drawn).packets = s.packets := rfl
@[simp] theorem State.drawn_leases (s : State) : (s.drawn).leases = s.leases := rfl
@[simp] theorem State.drawn_moves (s : State) : (s.drawn).moves = s.moves := rfl
@[simp] theorem State.drawn_zone (s : State) : (s.drawn).zone = s.zone := rfl
@[simp] theorem State.drawn_gangs (s : State) : (s.drawn).gangs = s.gangs := rfl
@[simp] theorem State.drawn_grids (s : State) : (s.drawn).grids = s.grids := rfl
@[simp] theorem State.drawn_slots (s : State) : (s.drawn).slots = s.slots := rfl
@[simp] theorem State.drawn_partitions (s : State) : (s.drawn).partitions = s.partitions := rfl
@[simp] theorem State.drawn_ptable (s : State) : (s.drawn).ptable = s.ptable := rfl
@[simp] theorem State.drawn_presult (s : State) : (s.drawn).presult = s.presult := rfl
@[simp] theorem State.drawn_pnext (s : State) : (s.drawn).pnext = s.pnext := rfl
@[simp] theorem State.drawn_leaderDie (s : State) : (s.drawn).leaderDie = s.leaderDie := rfl
@[simp] theorem State.drawn_leaderValid (s : State) : (s.drawn).leaderValid = s.leaderValid := rfl
@[simp] theorem State.drawn_epoch (s : State) : (s.drawn).epoch = s.epoch := rfl
@[simp] theorem State.drawn_expiry (s : State) : (s.drawn).expiry = s.expiry := rfl
@[simp] theorem State.drawn_takingOver (s : State) : (s.drawn).takingOver = s.takingOver := rfl
@[simp] theorem State.drawn_rotor (s : State) : (s.drawn).rotor = s.rotor := rfl
@[simp] theorem State.drawn_winPartition (s : State) : (s.drawn).winPartition = s.winPartition := rfl
@[simp] theorem State.drawn_winBase (s : State) : (s.drawn).winBase = s.winBase := rfl
@[simp] theorem State.drawn_msixOpen (s : State) : (s.drawn).msixOpen = s.msixOpen := rfl
@[simp] theorem State.drawn_msixPending (s : State) : (s.drawn).msixPending = s.msixPending := rfl
@[simp] theorem State.drawn_msixTable (s : State) : (s.drawn).msixTable = s.msixTable := rfl
@[simp] theorem State.drawn_inbound (s : State) : (s.drawn).inbound = s.inbound := rfl
@[simp] theorem State.drawn_heldStores (s : State) : (s.drawn).heldStores = s.heldStores := rfl
@[simp] theorem State.drawn_touched (s : State) : (s.drawn).touched = s.touched := rfl
@[simp] theorem State.drawn_peerMaps (s : State) : (s.drawn).peerMaps = s.peerMaps := rfl
@[simp] theorem State.drawn_out (s : State) : (s.drawn).out = s.out := rfl
@[simp] theorem State.drawn_cap (s : State) : (s.drawn).cap = s.cap := rfl
@[simp] theorem State.drawn_effCap (s : State) : (s.drawn).effCap = s.effCap := rfl
@[simp] theorem State.drawn_target (s : State) : (s.drawn).target = s.target := rfl
@[simp] theorem State.drawn_overSince (s : State) : (s.drawn).overSince = s.overSince := rfl
@[simp] theorem State.drawn_coolSince (s : State) : (s.drawn).coolSince = s.coolSince := rfl
@[simp] theorem State.drawn_signing (s : State) : (s.drawn).signing = s.signing := rfl
@[simp] theorem State.drawn_challenges (s : State) : (s.drawn).challenges = s.challenges := rfl
@[simp] theorem State.drawn_signIdx (s : State) : (s.drawn).signIdx = s.signIdx := rfl
@[simp] theorem State.drawn_idCovered (s : State) : (s.drawn).idCovered = s.idCovered := rfl
@[simp] theorem State.drawn_idSignature (s : State) : (s.drawn).idSignature = s.idSignature := rfl
@[simp] theorem State.drawn_challenge (s : State) : (s.drawn).challenge = s.challenge := rfl
@[simp] theorem State.drawn_report (s : State) : (s.drawn).report = s.report := rfl
@[simp] theorem State.drawn_reportStatus (s : State) : (s.drawn).reportStatus = s.reportStatus := rfl
@[simp] theorem State.drawn_jtagUnit (s : State) : (s.drawn).jtagUnit = s.jtagUnit := rfl
@[simp] theorem State.drawn_jtagInstr (s : State) : (s.drawn).jtagInstr = s.jtagInstr := rfl
@[simp] theorem State.drawn_jtagWord (s : State) : (s.drawn).jtagWord = s.jtagWord := rfl
@[simp] theorem State.drawn_agenda (s : State) : (s.drawn).agenda = s.agenda := rfl
@[simp] theorem State.drawn_turnNo (s : State) : (s.drawn).turnNo = s.turnNo := rfl
@[simp] theorem State.drawn_group (s : State) : (s.drawn).group = s.group := rfl
@[simp] theorem State.drawn_fresh (s : State) : (s.drawn).fresh = s.fresh := rfl

/-! State.modLine -/
@[simp] theorem State.modLine_bringup (s : State) (n : Nat) (f : Line → Line) : (s.modLine n f).bringup = s.bringup := by simp only [State.modLine]; split <;> rfl
@[simp] theorem State.modLine_clk (s : State) (n : Nat) (f : Line → Line) : (s.modLine n f).clk = s.clk := by simp only [State.modLine]; split <;> rfl
@[simp] theorem State.modLine_frozen (s : State) (n : Nat) (f : Line → Line) : (s.modLine n f).frozen = s.frozen := by simp only [State.modLine]; split <;> rfl
@[simp] theorem State.modLine_pkg (s : State) (n : Nat) (f : Line → Line) : (s.modLine n f).pkg = s.pkg := by simp only [State.modLine]; split <;> rfl
@[simp] theorem State.modLine_mem (s : State) (n : Nat) (f : Line → Line) : (s.modLine n f).mem = s.mem := by simp only [State.modLine]; split <;> rfl
@[simp] theorem State.modLine_cores (s : State) (n : Nat) (f : Line → Line) : (s.modLine n f).cores = s.cores := by simp only [State.modLine]; split <;> rfl
@[simp] theorem State.modLine_dies (s : State) (n : Nat) (f : Line → Line) : (s.modLine n f).dies = s.dies := by simp only [State.modLine]; split <;> rfl
@[simp] theorem State.modLine_bundles (s : State) (n : Nat) (f : Line → Line) : (s.modLine n f).bundles = s.bundles := by simp only [State.modLine]; split <;> rfl
@[simp] theorem State.modLine_blocks (s : State) (n : Nat) (f : Line → Line) : (s.modLine n f).blocks = s.blocks := by simp only [State.modLine]; split <;> rfl
@[simp] theorem State.modLine_saved (s : State) (n : Nat) (f : Line → Line) : (s.modLine n f).saved = s.saved := by simp only [State.modLine]; split <;> rfl
@[simp] theorem State.modLine_reqs (s : State) (n : Nat) (f : Line → Line) : (s.modLine n f).reqs = s.reqs := by simp only [State.modLine]; split <;> rfl
@[simp] theorem State.modLine_copies (s : State) (n : Nat) (f : Line → Line) : (s.modLine n f).copies = s.copies := by simp only [State.modLine]; split <;> rfl
@[simp] theorem State.modLine_acbs (s : State) (n : Nat) (f : Line → Line) : (s.modLine n f).acbs = s.acbs := by simp only [State.modLine]; split <;> rfl
@[simp] theorem State.modLine_tiles (s : State) (n : Nat) (f : Line → Line) : (s.modLine n f).tiles = s.tiles := by simp only [State.modLine]; split <;> rfl
@[simp] theorem State.modLine_parts (s : State) (n : Nat) (f : Line → Line) : (s.modLine n f).parts = s.parts := by simp only [State.modLine]; split <;> rfl
@[simp] theorem State.modLine_carver (s : State) (n : Nat) (f : Line → Line) : (s.modLine n f).carver = s.carver := by simp only [State.modLine]; split <;> rfl
@[simp] theorem State.modLine_objects (s : State) (n : Nat) (f : Line → Line) : (s.modLine n f).objects = s.objects := by simp only [State.modLine]; split <;> rfl
@[simp] theorem State.modLine_calls (s : State) (n : Nat) (f : Line → Line) : (s.modLine n f).calls = s.calls := by simp only [State.modLine]; split <;> rfl
@[simp] theorem State.modLine_waves (s : State) (n : Nat) (f : Line → Line) : (s.modLine n f).waves = s.waves := by simp only [State.modLine]; split <;> rfl
@[simp] theorem State.modLine_wnodes (s : State) (n : Nat) (f : Line → Line) : (s.modLine n f).wnodes = s.wnodes := by simp only [State.modLine]; split <;> rfl
@[simp] theorem State.modLine_nets (s : State) (n : Nat) (f : Line → Line) : (s.modLine n f).nets = s.nets := by simp only [State.modLine]; split <;> rfl
@[simp] theorem State.modLine_tasks (s : State) (n : Nat) (f : Line → Line) : (s.modLine n f).tasks = s.tasks := by simp only [State.modLine]; split <;> rfl
@[simp] theorem State.modLine_deps (s : State) (n : Nat) (f : Line → Line) : (s.modLine n f).deps = s.deps := by simp only [State.modLine]; split <;> rfl
@[simp] theorem State.modLine_versions (s : State) (n : Nat) (f : Line → Line) : (s.modLine n f).versions = s.versions := by simp only [State.modLine]; split <;> rfl
@[simp] theorem State.modLine_packets (s : State) (n : Nat) (f : Line → Line) : (s.modLine n f).packets = s.packets := by simp only [State.modLine]; split <;> rfl
@[simp] theorem State.modLine_leases (s : State) (n : Nat) (f : Line → Line) : (s.modLine n f).leases = s.leases := by simp only [State.modLine]; split <;> rfl
@[simp] theorem State.modLine_moves (s : State) (n : Nat) (f : Line → Line) : (s.modLine n f).moves = s.moves := by simp only [State.modLine]; split <;> rfl
@[simp] theorem State.modLine_zone (s : State) (n : Nat) (f : Line → Line) : (s.modLine n f).zone = s.zone := by simp only [State.modLine]; split <;> rfl
@[simp] theorem State.modLine_gangs (s : State) (n : Nat) (f : Line → Line) : (s.modLine n f).gangs = s.gangs := by simp only [State.modLine]; split <;> rfl
@[simp] theorem State.modLine_grids (s : State) (n : Nat) (f : Line → Line) : (s.modLine n f).grids = s.grids := by simp only [State.modLine]; split <;> rfl
@[simp] theorem State.modLine_slots (s : State) (n : Nat) (f : Line → Line) : (s.modLine n f).slots = s.slots := by simp only [State.modLine]; split <;> rfl
@[simp] theorem State.modLine_partitions (s : State) (n : Nat) (f : Line → Line) : (s.modLine n f).partitions = s.partitions := by simp only [State.modLine]; split <;> rfl
@[simp] theorem State.modLine_ptable (s : State) (n : Nat) (f : Line → Line) : (s.modLine n f).ptable = s.ptable := by simp only [State.modLine]; split <;> rfl
@[simp] theorem State.modLine_presult (s : State) (n : Nat) (f : Line → Line) : (s.modLine n f).presult = s.presult := by simp only [State.modLine]; split <;> rfl
@[simp] theorem State.modLine_pnext (s : State) (n : Nat) (f : Line → Line) : (s.modLine n f).pnext = s.pnext := by simp only [State.modLine]; split <;> rfl
@[simp] theorem State.modLine_leaderDie (s : State) (n : Nat) (f : Line → Line) : (s.modLine n f).leaderDie = s.leaderDie := by simp only [State.modLine]; split <;> rfl
@[simp] theorem State.modLine_leaderValid (s : State) (n : Nat) (f : Line → Line) : (s.modLine n f).leaderValid = s.leaderValid := by simp only [State.modLine]; split <;> rfl
@[simp] theorem State.modLine_epoch (s : State) (n : Nat) (f : Line → Line) : (s.modLine n f).epoch = s.epoch := by simp only [State.modLine]; split <;> rfl
@[simp] theorem State.modLine_expiry (s : State) (n : Nat) (f : Line → Line) : (s.modLine n f).expiry = s.expiry := by simp only [State.modLine]; split <;> rfl
@[simp] theorem State.modLine_takingOver (s : State) (n : Nat) (f : Line → Line) : (s.modLine n f).takingOver = s.takingOver := by simp only [State.modLine]; split <;> rfl
@[simp] theorem State.modLine_rotor (s : State) (n : Nat) (f : Line → Line) : (s.modLine n f).rotor = s.rotor := by simp only [State.modLine]; split <;> rfl
@[simp] theorem State.modLine_winPartition (s : State) (n : Nat) (f : Line → Line) : (s.modLine n f).winPartition = s.winPartition := by simp only [State.modLine]; split <;> rfl
@[simp] theorem State.modLine_winBase (s : State) (n : Nat) (f : Line → Line) : (s.modLine n f).winBase = s.winBase := by simp only [State.modLine]; split <;> rfl
@[simp] theorem State.modLine_msixOpen (s : State) (n : Nat) (f : Line → Line) : (s.modLine n f).msixOpen = s.msixOpen := by simp only [State.modLine]; split <;> rfl
@[simp] theorem State.modLine_msixPending (s : State) (n : Nat) (f : Line → Line) : (s.modLine n f).msixPending = s.msixPending := by simp only [State.modLine]; split <;> rfl
@[simp] theorem State.modLine_msixTable (s : State) (n : Nat) (f : Line → Line) : (s.modLine n f).msixTable = s.msixTable := by simp only [State.modLine]; split <;> rfl
@[simp] theorem State.modLine_inbound (s : State) (n : Nat) (f : Line → Line) : (s.modLine n f).inbound = s.inbound := by simp only [State.modLine]; split <;> rfl
@[simp] theorem State.modLine_heldStores (s : State) (n : Nat) (f : Line → Line) : (s.modLine n f).heldStores = s.heldStores := by simp only [State.modLine]; split <;> rfl
@[simp] theorem State.modLine_touched (s : State) (n : Nat) (f : Line → Line) : (s.modLine n f).touched = s.touched := by simp only [State.modLine]; split <;> rfl
@[simp] theorem State.modLine_peerMaps (s : State) (n : Nat) (f : Line → Line) : (s.modLine n f).peerMaps = s.peerMaps := by simp only [State.modLine]; split <;> rfl
@[simp] theorem State.modLine_out (s : State) (n : Nat) (f : Line → Line) : (s.modLine n f).out = s.out := by simp only [State.modLine]; split <;> rfl
@[simp] theorem State.modLine_cap (s : State) (n : Nat) (f : Line → Line) : (s.modLine n f).cap = s.cap := by simp only [State.modLine]; split <;> rfl
@[simp] theorem State.modLine_effCap (s : State) (n : Nat) (f : Line → Line) : (s.modLine n f).effCap = s.effCap := by simp only [State.modLine]; split <;> rfl
@[simp] theorem State.modLine_target (s : State) (n : Nat) (f : Line → Line) : (s.modLine n f).target = s.target := by simp only [State.modLine]; split <;> rfl
@[simp] theorem State.modLine_overSince (s : State) (n : Nat) (f : Line → Line) : (s.modLine n f).overSince = s.overSince := by simp only [State.modLine]; split <;> rfl
@[simp] theorem State.modLine_coolSince (s : State) (n : Nat) (f : Line → Line) : (s.modLine n f).coolSince = s.coolSince := by simp only [State.modLine]; split <;> rfl
@[simp] theorem State.modLine_signing (s : State) (n : Nat) (f : Line → Line) : (s.modLine n f).signing = s.signing := by simp only [State.modLine]; split <;> rfl
@[simp] theorem State.modLine_challenges (s : State) (n : Nat) (f : Line → Line) : (s.modLine n f).challenges = s.challenges := by simp only [State.modLine]; split <;> rfl
@[simp] theorem State.modLine_signIdx (s : State) (n : Nat) (f : Line → Line) : (s.modLine n f).signIdx = s.signIdx := by simp only [State.modLine]; split <;> rfl
@[simp] theorem State.modLine_idCovered (s : State) (n : Nat) (f : Line → Line) : (s.modLine n f).idCovered = s.idCovered := by simp only [State.modLine]; split <;> rfl
@[simp] theorem State.modLine_idSignature (s : State) (n : Nat) (f : Line → Line) : (s.modLine n f).idSignature = s.idSignature := by simp only [State.modLine]; split <;> rfl
@[simp] theorem State.modLine_challenge (s : State) (n : Nat) (f : Line → Line) : (s.modLine n f).challenge = s.challenge := by simp only [State.modLine]; split <;> rfl
@[simp] theorem State.modLine_report (s : State) (n : Nat) (f : Line → Line) : (s.modLine n f).report = s.report := by simp only [State.modLine]; split <;> rfl
@[simp] theorem State.modLine_reportStatus (s : State) (n : Nat) (f : Line → Line) : (s.modLine n f).reportStatus = s.reportStatus := by simp only [State.modLine]; split <;> rfl
@[simp] theorem State.modLine_jtagUnit (s : State) (n : Nat) (f : Line → Line) : (s.modLine n f).jtagUnit = s.jtagUnit := by simp only [State.modLine]; split <;> rfl
@[simp] theorem State.modLine_jtagInstr (s : State) (n : Nat) (f : Line → Line) : (s.modLine n f).jtagInstr = s.jtagInstr := by simp only [State.modLine]; split <;> rfl
@[simp] theorem State.modLine_jtagWord (s : State) (n : Nat) (f : Line → Line) : (s.modLine n f).jtagWord = s.jtagWord := by simp only [State.modLine]; split <;> rfl
@[simp] theorem State.modLine_agenda (s : State) (n : Nat) (f : Line → Line) : (s.modLine n f).agenda = s.agenda := by simp only [State.modLine]; split <;> rfl
@[simp] theorem State.modLine_turnNo (s : State) (n : Nat) (f : Line → Line) : (s.modLine n f).turnNo = s.turnNo := by simp only [State.modLine]; split <;> rfl
@[simp] theorem State.modLine_group (s : State) (n : Nat) (f : Line → Line) : (s.modLine n f).group = s.group := by simp only [State.modLine]; split <;> rfl
@[simp] theorem State.modLine_fresh (s : State) (n : Nat) (f : Line → Line) : (s.modLine n f).fresh = s.fresh := by simp only [State.modLine]; split <;> rfl
@[simp] theorem State.modLine_draw (s : State) (n : Nat) (f : Line → Line) : (s.modLine n f).draw = s.draw := by simp only [State.modLine]; split <;> rfl

/-! Thread.goto -/
@[simp] theorem Thread.goto_regs (t : Thread) (pc : DWord) : (t.goto pc).regs = t.regs := rfl
@[simp] theorem Thread.goto_preds (t : Thread) (pc : DWord) : (t.goto pc).preds = t.preds := rfl
@[simp] theorem Thread.goto_resid (t : Thread) (pc : DWord) : (t.goto pc).resid = t.resid := rfl
@[simp] theorem Thread.goto_fmode (t : Thread) (pc : DWord) : (t.goto pc).fmode = t.fmode := rfl
@[simp] theorem Thread.goto_fflags (t : Thread) (pc : DWord) : (t.goto pc).fflags = t.fflags := rfl
@[simp] theorem Thread.goto_clkLatch (t : Thread) (pc : DWord) : (t.goto pc).clkLatch = t.clkLatch := rfl
@[simp] theorem Thread.goto_timeLatch (t : Thread) (pc : DWord) : (t.goto pc).timeLatch = t.timeLatch := rfl
@[simp] theorem Thread.goto_tags (t : Thread) (pc : DWord) : (t.goto pc).tags = t.tags := rfl
@[simp] theorem Thread.goto_life (t : Thread) (pc : DWord) : (t.goto pc).life = t.life := rfl
@[simp] theorem Thread.goto_nxt (t : Thread) (pc : DWord) : (t.goto pc).nxt = t.nxt := rfl
@[simp] theorem Thread.goto_yield (t : Thread) (pc : DWord) : (t.goto pc).yield = t.yield := rfl
@[simp] theorem Thread.goto_arrived (t : Thread) (pc : DWord) : (t.goto pc).arrived = t.arrived := rfl
@[simp] theorem Thread.goto_stamp (t : Thread) (pc : DWord) : (t.goto pc).stamp = t.stamp := rfl
@[simp] theorem Thread.goto_arrivedOp (t : Thread) (pc : DWord) : (t.goto pc).arrivedOp = t.arrivedOp := rfl
@[simp] theorem Thread.goto_soft (t : Thread) (pc : DWord) : (t.goto pc).soft = t.soft := rfl
@[simp] theorem Thread.goto_missed (t : Thread) (pc : DWord) : (t.goto pc).missed = t.missed := rfl
@[simp] theorem Thread.goto_lapses (t : Thread) (pc : DWord) : (t.goto pc).lapses = t.lapses := rfl
@[simp] theorem Thread.goto_engWts (t : Thread) (pc : DWord) : (t.goto pc).engWts = t.engWts := rfl
@[simp] theorem Thread.goto_tx (t : Thread) (pc : DWord) : (t.goto pc).tx = t.tx := rfl
@[simp] theorem Thread.goto_aborts (t : Thread) (pc : DWord) : (t.goto pc).aborts = t.aborts := rfl
@[simp] theorem Thread.goto_origin (t : Thread) (pc : DWord) : (t.goto pc).origin = t.origin := rfl
@[simp] theorem Thread.goto_reply (t : Thread) (pc : DWord) : (t.goto pc).reply = t.reply := rfl

/-! Thread.setPred -/
@[simp] theorem Thread.setPred_pc (t : Thread) (p : Nat) (v : Bool) : (t.setPred p v).pc = t.pc := rfl
@[simp] theorem Thread.setPred_regs (t : Thread) (p : Nat) (v : Bool) : (t.setPred p v).regs = t.regs := rfl
@[simp] theorem Thread.setPred_resid (t : Thread) (p : Nat) (v : Bool) : (t.setPred p v).resid = t.resid := rfl
@[simp] theorem Thread.setPred_fmode (t : Thread) (p : Nat) (v : Bool) : (t.setPred p v).fmode = t.fmode := rfl
@[simp] theorem Thread.setPred_fflags (t : Thread) (p : Nat) (v : Bool) : (t.setPred p v).fflags = t.fflags := rfl
@[simp] theorem Thread.setPred_clkLatch (t : Thread) (p : Nat) (v : Bool) : (t.setPred p v).clkLatch = t.clkLatch := rfl
@[simp] theorem Thread.setPred_timeLatch (t : Thread) (p : Nat) (v : Bool) : (t.setPred p v).timeLatch = t.timeLatch := rfl
@[simp] theorem Thread.setPred_waitCount (t : Thread) (p : Nat) (v : Bool) : (t.setPred p v).waitCount = t.waitCount := rfl
@[simp] theorem Thread.setPred_tags (t : Thread) (p : Nat) (v : Bool) : (t.setPred p v).tags = t.tags := rfl
@[simp] theorem Thread.setPred_life (t : Thread) (p : Nat) (v : Bool) : (t.setPred p v).life = t.life := rfl
@[simp] theorem Thread.setPred_conv (t : Thread) (p : Nat) (v : Bool) : (t.setPred p v).conv = t.conv := rfl
@[simp] theorem Thread.setPred_mid (t : Thread) (p : Nat) (v : Bool) : (t.setPred p v).mid = t.mid := rfl
@[simp] theorem Thread.setPred_nxt (t : Thread) (p : Nat) (v : Bool) : (t.setPred p v).nxt = t.nxt := rfl
@[simp] theorem Thread.setPred_yield (t : Thread) (p : Nat) (v : Bool) : (t.setPred p v).yield = t.yield := rfl
@[simp] theorem Thread.setPred_arrived (t : Thread) (p : Nat) (v : Bool) : (t.setPred p v).arrived = t.arrived := rfl
@[simp] theorem Thread.setPred_stamp (t : Thread) (p : Nat) (v : Bool) : (t.setPred p v).stamp = t.stamp := rfl
@[simp] theorem Thread.setPred_arrivedOp (t : Thread) (p : Nat) (v : Bool) : (t.setPred p v).arrivedOp = t.arrivedOp := rfl
@[simp] theorem Thread.setPred_soft (t : Thread) (p : Nat) (v : Bool) : (t.setPred p v).soft = t.soft := rfl
@[simp] theorem Thread.setPred_missed (t : Thread) (p : Nat) (v : Bool) : (t.setPred p v).missed = t.missed := rfl
@[simp] theorem Thread.setPred_lapses (t : Thread) (p : Nat) (v : Bool) : (t.setPred p v).lapses = t.lapses := rfl
@[simp] theorem Thread.setPred_engWts (t : Thread) (p : Nat) (v : Bool) : (t.setPred p v).engWts = t.engWts := rfl
@[simp] theorem Thread.setPred_tx (t : Thread) (p : Nat) (v : Bool) : (t.setPred p v).tx = t.tx := rfl
@[simp] theorem Thread.setPred_aborts (t : Thread) (p : Nat) (v : Bool) : (t.setPred p v).aborts = t.aborts := rfl
@[simp] theorem Thread.setPred_origin (t : Thread) (p : Nat) (v : Bool) : (t.setPred p v).origin = t.origin := rfl
@[simp] theorem Thread.setPred_reply (t : Thread) (p : Nat) (v : Bool) : (t.setPred p v).reply = t.reply := rfl

/-! Thread.orFlags -/
@[simp] theorem Thread.orFlags_pc (t : Thread) (f : Word) : (t.orFlags f).pc = t.pc := rfl
@[simp] theorem Thread.orFlags_regs (t : Thread) (f : Word) : (t.orFlags f).regs = t.regs := rfl
@[simp] theorem Thread.orFlags_preds (t : Thread) (f : Word) : (t.orFlags f).preds = t.preds := rfl
@[simp] theorem Thread.orFlags_resid (t : Thread) (f : Word) : (t.orFlags f).resid = t.resid := rfl
@[simp] theorem Thread.orFlags_fmode (t : Thread) (f : Word) : (t.orFlags f).fmode = t.fmode := rfl
@[simp] theorem Thread.orFlags_clkLatch (t : Thread) (f : Word) : (t.orFlags f).clkLatch = t.clkLatch := rfl
@[simp] theorem Thread.orFlags_timeLatch (t : Thread) (f : Word) : (t.orFlags f).timeLatch = t.timeLatch := rfl
@[simp] theorem Thread.orFlags_waitCount (t : Thread) (f : Word) : (t.orFlags f).waitCount = t.waitCount := rfl
@[simp] theorem Thread.orFlags_tags (t : Thread) (f : Word) : (t.orFlags f).tags = t.tags := rfl
@[simp] theorem Thread.orFlags_life (t : Thread) (f : Word) : (t.orFlags f).life = t.life := rfl
@[simp] theorem Thread.orFlags_conv (t : Thread) (f : Word) : (t.orFlags f).conv = t.conv := rfl
@[simp] theorem Thread.orFlags_mid (t : Thread) (f : Word) : (t.orFlags f).mid = t.mid := rfl
@[simp] theorem Thread.orFlags_nxt (t : Thread) (f : Word) : (t.orFlags f).nxt = t.nxt := rfl
@[simp] theorem Thread.orFlags_yield (t : Thread) (f : Word) : (t.orFlags f).yield = t.yield := rfl
@[simp] theorem Thread.orFlags_arrived (t : Thread) (f : Word) : (t.orFlags f).arrived = t.arrived := rfl
@[simp] theorem Thread.orFlags_stamp (t : Thread) (f : Word) : (t.orFlags f).stamp = t.stamp := rfl
@[simp] theorem Thread.orFlags_arrivedOp (t : Thread) (f : Word) : (t.orFlags f).arrivedOp = t.arrivedOp := rfl
@[simp] theorem Thread.orFlags_soft (t : Thread) (f : Word) : (t.orFlags f).soft = t.soft := rfl
@[simp] theorem Thread.orFlags_missed (t : Thread) (f : Word) : (t.orFlags f).missed = t.missed := rfl
@[simp] theorem Thread.orFlags_lapses (t : Thread) (f : Word) : (t.orFlags f).lapses = t.lapses := rfl
@[simp] theorem Thread.orFlags_engWts (t : Thread) (f : Word) : (t.orFlags f).engWts = t.engWts := rfl
@[simp] theorem Thread.orFlags_tx (t : Thread) (f : Word) : (t.orFlags f).tx = t.tx := rfl
@[simp] theorem Thread.orFlags_aborts (t : Thread) (f : Word) : (t.orFlags f).aborts = t.aborts := rfl
@[simp] theorem Thread.orFlags_origin (t : Thread) (f : Word) : (t.orFlags f).origin = t.origin := rfl
@[simp] theorem Thread.orFlags_reply (t : Thread) (f : Word) : (t.orFlags f).reply = t.reply := rfl

/-! Thread.put -/
@[simp] theorem Thread.put_pc (t : Thread) (n : Nat) (r : Reg) : (t.put n r).pc = t.pc := by simp only [Thread.put]; split <;> rfl
@[simp] theorem Thread.put_preds (t : Thread) (n : Nat) (r : Reg) : (t.put n r).preds = t.preds := by simp only [Thread.put]; split <;> rfl
@[simp] theorem Thread.put_resid (t : Thread) (n : Nat) (r : Reg) : (t.put n r).resid = t.resid := by simp only [Thread.put]; split <;> rfl
@[simp] theorem Thread.put_fmode (t : Thread) (n : Nat) (r : Reg) : (t.put n r).fmode = t.fmode := by simp only [Thread.put]; split <;> rfl
@[simp] theorem Thread.put_fflags (t : Thread) (n : Nat) (r : Reg) : (t.put n r).fflags = t.fflags := by simp only [Thread.put]; split <;> rfl
@[simp] theorem Thread.put_clkLatch (t : Thread) (n : Nat) (r : Reg) : (t.put n r).clkLatch = t.clkLatch := by simp only [Thread.put]; split <;> rfl
@[simp] theorem Thread.put_timeLatch (t : Thread) (n : Nat) (r : Reg) : (t.put n r).timeLatch = t.timeLatch := by simp only [Thread.put]; split <;> rfl
@[simp] theorem Thread.put_waitCount (t : Thread) (n : Nat) (r : Reg) : (t.put n r).waitCount = t.waitCount := by simp only [Thread.put]; split <;> rfl
@[simp] theorem Thread.put_tags (t : Thread) (n : Nat) (r : Reg) : (t.put n r).tags = t.tags := by simp only [Thread.put]; split <;> rfl
@[simp] theorem Thread.put_life (t : Thread) (n : Nat) (r : Reg) : (t.put n r).life = t.life := by simp only [Thread.put]; split <;> rfl
@[simp] theorem Thread.put_conv (t : Thread) (n : Nat) (r : Reg) : (t.put n r).conv = t.conv := by simp only [Thread.put]; split <;> rfl
@[simp] theorem Thread.put_mid (t : Thread) (n : Nat) (r : Reg) : (t.put n r).mid = t.mid := by simp only [Thread.put]; split <;> rfl
@[simp] theorem Thread.put_nxt (t : Thread) (n : Nat) (r : Reg) : (t.put n r).nxt = t.nxt := by simp only [Thread.put]; split <;> rfl
@[simp] theorem Thread.put_yield (t : Thread) (n : Nat) (r : Reg) : (t.put n r).yield = t.yield := by simp only [Thread.put]; split <;> rfl
@[simp] theorem Thread.put_arrived (t : Thread) (n : Nat) (r : Reg) : (t.put n r).arrived = t.arrived := by simp only [Thread.put]; split <;> rfl
@[simp] theorem Thread.put_stamp (t : Thread) (n : Nat) (r : Reg) : (t.put n r).stamp = t.stamp := by simp only [Thread.put]; split <;> rfl
@[simp] theorem Thread.put_arrivedOp (t : Thread) (n : Nat) (r : Reg) : (t.put n r).arrivedOp = t.arrivedOp := by simp only [Thread.put]; split <;> rfl
@[simp] theorem Thread.put_soft (t : Thread) (n : Nat) (r : Reg) : (t.put n r).soft = t.soft := by simp only [Thread.put]; split <;> rfl
@[simp] theorem Thread.put_missed (t : Thread) (n : Nat) (r : Reg) : (t.put n r).missed = t.missed := by simp only [Thread.put]; split <;> rfl
@[simp] theorem Thread.put_lapses (t : Thread) (n : Nat) (r : Reg) : (t.put n r).lapses = t.lapses := by simp only [Thread.put]; split <;> rfl
@[simp] theorem Thread.put_engWts (t : Thread) (n : Nat) (r : Reg) : (t.put n r).engWts = t.engWts := by simp only [Thread.put]; split <;> rfl
@[simp] theorem Thread.put_tx (t : Thread) (n : Nat) (r : Reg) : (t.put n r).tx = t.tx := by simp only [Thread.put]; split <;> rfl
@[simp] theorem Thread.put_aborts (t : Thread) (n : Nat) (r : Reg) : (t.put n r).aborts = t.aborts := by simp only [Thread.put]; split <;> rfl
@[simp] theorem Thread.put_origin (t : Thread) (n : Nat) (r : Reg) : (t.put n r).origin = t.origin := by simp only [Thread.put]; split <;> rfl
@[simp] theorem Thread.put_reply (t : Thread) (n : Nat) (r : Reg) : (t.put n r).reply = t.reply := by simp only [Thread.put]; split <;> rfl

/-! Thread.write -/
@[simp] theorem Thread.write_pc (t : Thread) (n : Nat) (v : Word) : (t.write n v).pc = t.pc := t.put_pc n _
@[simp] theorem Thread.write_preds (t : Thread) (n : Nat) (v : Word) : (t.write n v).preds = t.preds := t.put_preds n _
@[simp] theorem Thread.write_resid (t : Thread) (n : Nat) (v : Word) : (t.write n v).resid = t.resid := t.put_resid n _
@[simp] theorem Thread.write_fmode (t : Thread) (n : Nat) (v : Word) : (t.write n v).fmode = t.fmode := t.put_fmode n _
@[simp] theorem Thread.write_fflags (t : Thread) (n : Nat) (v : Word) : (t.write n v).fflags = t.fflags := t.put_fflags n _
@[simp] theorem Thread.write_clkLatch (t : Thread) (n : Nat) (v : Word) : (t.write n v).clkLatch = t.clkLatch := t.put_clkLatch n _
@[simp] theorem Thread.write_timeLatch (t : Thread) (n : Nat) (v : Word) : (t.write n v).timeLatch = t.timeLatch := t.put_timeLatch n _
@[simp] theorem Thread.write_waitCount (t : Thread) (n : Nat) (v : Word) : (t.write n v).waitCount = t.waitCount := t.put_waitCount n _
@[simp] theorem Thread.write_tags (t : Thread) (n : Nat) (v : Word) : (t.write n v).tags = t.tags := t.put_tags n _
@[simp] theorem Thread.write_life (t : Thread) (n : Nat) (v : Word) : (t.write n v).life = t.life := t.put_life n _
@[simp] theorem Thread.write_conv (t : Thread) (n : Nat) (v : Word) : (t.write n v).conv = t.conv := t.put_conv n _
@[simp] theorem Thread.write_mid (t : Thread) (n : Nat) (v : Word) : (t.write n v).mid = t.mid := t.put_mid n _
@[simp] theorem Thread.write_nxt (t : Thread) (n : Nat) (v : Word) : (t.write n v).nxt = t.nxt := t.put_nxt n _
@[simp] theorem Thread.write_yield (t : Thread) (n : Nat) (v : Word) : (t.write n v).yield = t.yield := t.put_yield n _
@[simp] theorem Thread.write_arrived (t : Thread) (n : Nat) (v : Word) : (t.write n v).arrived = t.arrived := t.put_arrived n _
@[simp] theorem Thread.write_stamp (t : Thread) (n : Nat) (v : Word) : (t.write n v).stamp = t.stamp := t.put_stamp n _
@[simp] theorem Thread.write_arrivedOp (t : Thread) (n : Nat) (v : Word) : (t.write n v).arrivedOp = t.arrivedOp := t.put_arrivedOp n _
@[simp] theorem Thread.write_soft (t : Thread) (n : Nat) (v : Word) : (t.write n v).soft = t.soft := t.put_soft n _
@[simp] theorem Thread.write_missed (t : Thread) (n : Nat) (v : Word) : (t.write n v).missed = t.missed := t.put_missed n _
@[simp] theorem Thread.write_lapses (t : Thread) (n : Nat) (v : Word) : (t.write n v).lapses = t.lapses := t.put_lapses n _
@[simp] theorem Thread.write_engWts (t : Thread) (n : Nat) (v : Word) : (t.write n v).engWts = t.engWts := t.put_engWts n _
@[simp] theorem Thread.write_tx (t : Thread) (n : Nat) (v : Word) : (t.write n v).tx = t.tx := t.put_tx n _
@[simp] theorem Thread.write_aborts (t : Thread) (n : Nat) (v : Word) : (t.write n v).aborts = t.aborts := t.put_aborts n _
@[simp] theorem Thread.write_origin (t : Thread) (n : Nat) (v : Word) : (t.write n v).origin = t.origin := t.put_origin n _
@[simp] theorem Thread.write_reply (t : Thread) (n : Nat) (v : Word) : (t.write n v).reply = t.reply := t.put_reply n _

/-! Thread.goto -/
@[simp] theorem Thread.goto_pc (t : Thread) (pc : DWord) : (t.goto pc).pc = pc := rfl
@[simp] theorem Thread.goto_waitCount (t : Thread) (pc : DWord) : (t.goto pc).waitCount = 0 := rfl
@[simp] theorem Thread.goto_mid (t : Thread) (pc : DWord) : (t.goto pc).mid = none := rfl
@[simp] theorem Thread.goto_conv (t : Thread) (pc : DWord) : (t.goto pc).conv = none := rfl

/-! Reading a register after a write (R24, R92): w0 reads 0 and discards; another register holds what was written, full; every other
register is as it was. -/
@[simp] theorem Thread.reg_zero (t : Thread) : t.reg 0 = {} := rfl
@[simp] theorem Thread.val_zero (t : Thread) : t.val 0 = 0 := rfl
@[simp] theorem Thread.write_zero (t : Thread) (v : Word) : t.write 0 v = t := rfl
theorem Thread.reg_write_self (t : Thread) (n : Nat) (v : Word) (h0 : n ≠ 0) (h : n < t.regs.length) :
    (t.write n v).reg n = { val := v, st := .full } := by
  simp [Thread.write, Thread.put, Thread.reg, h0, h]
theorem Thread.reg_write_other (t : Thread) (n m : Nat) (v : Word) (h : n ≠ m) : (t.write n v).reg m = t.reg m := by
  by_cases h0 : n = 0
  · subst h0; rfl
  · by_cases hm : m = 0
    · simp [Thread.reg, hm]
    · simp [Thread.write, Thread.put, Thread.reg, h0, hm, List.getElem?_set_ne h]
theorem Thread.val_write_self (t : Thread) (n : Nat) (v : Word) (h0 : n ≠ 0) (h : n < t.regs.length) : (t.write n v).val n = v := by
  simp [Thread.val, t.reg_write_self n v h0 h]
theorem Thread.val_write_other (t : Thread) (n m : Nat) (v : Word) (h : n ≠ m) : (t.write n v).val m = t.val m := by
  simp [Thread.val, t.reg_write_other n m v h]
@[simp] theorem Thread.regs_length_write (t : Thread) (n : Nat) (v : Word) : (t.write n v).regs.length = t.regs.length := by
  simp only [Thread.write, Thread.put]; split <;> simp

/-! Predicates (R100). -/
@[simp] theorem Thread.pred_seven (t : Thread) : t.pred 7 = true := rfl
theorem Thread.pred_setPred_self (t : Thread) (p : Nat) (v : Bool) (h : p < 7) (hl : p < t.preds.length) : (t.setPred p v).pred p = v := by
  have : ¬ (7 ≤ p) := by omega
  simp [Thread.setPred, Thread.pred, this, hl]
theorem Thread.pred_setPred_other (t : Thread) (p q : Nat) (v : Bool) (h : p ≠ q) : (t.setPred p v).pred q = t.pred q := by
  simp [Thread.setPred, Thread.pred, List.getElem?_set_ne h]

end Sys2Proof.Machine
end

