-- ==== Sys2Proof/Laws/Run.lean ====
section
/-! SUPPORT. What the shared way of running an instruction does (runWith, runLanes, runPure): where the group meets its instruction, the
answer is the state that Safety.lean writes out. -/

namespace Sys2Proof.Machine

/-! Lists. -/

theorem upd_upd {α : Type} (l : List α) (p : α → Bool) (f g : α → α) (h : ∀ x, p x = true → p (f x) = true) :
    upd (upd l p f) p g = upd l p (fun x => g (f x)) := by
  simp only [upd, List.map_map]
  apply List.map_congr_left
  intro x _
  by_cases hx : p x = true <;> simp [hx, h]

theorem upd_congr {α : Type} (l : List α) (p : α → Bool) (f g : α → α) (h : ∀ x ∈ l, p x = true → f x = g x) :
    upd l p f = upd l p g := by
  simp only [upd]
  apply List.map_congr_left
  intro x hx
  by_cases hp : p x = true <;> simp [hp]
  exact h x hx hp

theorem upd_id {α : Type} (l : List α) (p : α → Bool) : upd l p (fun x => x) = l := by simp [upd]

theorem find?_upd {α : Type} (l : List α) (p : α → Bool) (f : α → α) (h : ∀ x, p (f x) = p x) :
    (upd l p f).find? p = (l.find? p).map f := by
  induction l with
  | nil => rfl
  | cons x l ih =>
    simp only [upd, List.map_cons, List.find?_cons] at *
    by_cases hx : p x = true
    · simp [hx, h]
    · simp only [hx, Bool.false_eq_true, if_false]; exact ih

/-- Changing distinct places of a list one after another changes each once. -/
theorem foldl_modify {α : Type} (F : Nat → α → α) (ls : List Nat) (h : ls.Nodup) (ts : List α) :
    ls.foldl (fun ts l => ts.modify l (F l)) ts = ts.mapIdx fun l t => if l ∈ ls then F l t else t := by
  induction ls generalizing ts with
  | nil => apply List.ext_getElem? ; intro n; simp
  | cons a ls ih =>
    have ha := (List.nodup_cons.mp h).1
    rw [List.foldl_cons, ih (List.nodup_cons.mp h).2]
    apply List.ext_getElem?
    intro n
    simp only [List.getElem?_mapIdx, List.getElem?_modify]
    by_cases hn : a = n
    · subst hn; cases ts[a]? <;> simp [ha]
    · cases ts[n]? <;> simp [hn, Ne.symm hn]

theorem lookup_map {β : Type} (e : Nat → β) (ls : List Nat) (l : Nat) :
    (ls.map fun l => (l, e l)).lookup l = if l ∈ ls then some (e l) else none := by
  induction ls with
  | nil => simp
  | cons a ls ih =>
    simp only [List.map_cons, List.lookup_cons, ih]
    by_cases h : l = a
    · subst h; simp
    · have hb : (l == a) = false := by simpa using h
      simp [hb, h]

/-! Bundles and blocks under the updates that a running instruction makes. -/

/-- Threads of every bundle of a name changed at once. -/
def State.withThreads (s : State) (bid : Nat) (F : Nat → Thread → Thread) : State :=
  s.modBundle bid fun b => { b with threads := b.threads.mapIdx F }

theorem State.bundle?_modBundle (s : State) (bid : Nat) (f : Bundle → Bundle) (h : ∀ b, (f b).id = b.id) :
    (s.modBundle bid f).bundle? bid = (s.bundle? bid).map f := by
  simp only [State.modBundle, State.bundle?]
  exact find?_upd _ _ _ fun x => by simp [h]

theorem State.ownBlock_modBundle (s : State) (bid : Nat) (f : Bundle → Bundle) (h : ∀ b, (f b).id = b.id)
    (ho : ∀ b, (f b).owner = b.owner) : (s.modBundle bid f).ownBlock bid = s.ownBlock bid := by
  simp only [State.ownBlock, State.bundle?_modBundle s bid f h]
  cases s.bundle? bid <;> simp [ho]

theorem State.modBundle_modBundle (s : State) (bid : Nat) (f g : Bundle → Bundle) (h : ∀ b, (f b).id = b.id) :
    (s.modBundle bid f).modBundle bid g = s.modBundle bid fun b => g (f b) := by
  have : upd (upd s.bundles (·.id == bid) f) (·.id == bid) g = upd s.bundles (·.id == bid) fun b => g (f b) :=
    upd_upd _ _ _ _ fun x hx => by simpa [h] using hx
  simp only [State.modBundle, this]

theorem State.modBlock_modBlock (s : State) (k : Nat) (f g : Block → Block) (h : ∀ b, (f b).id = b.id) :
    (s.modBlock k f).modBlock k g = s.modBlock k fun b => g (f b) := by
  have : upd (upd s.blocks (·.id == k) f) (·.id == k) g = upd s.blocks (·.id == k) fun b => g (f b) :=
    upd_upd _ _ _ _ fun x hx => by simpa [h] using hx
  simp only [State.modBlock, this]

theorem State.modBundle_id (s : State) (bid : Nat) : (s.modBundle bid fun b => b) = s := by simp [State.modBundle, upd_id]

theorem State.modBlock_id (s : State) (k : Nat) : (s.modBlock k fun b => b) = s := by simp [State.modBlock, upd_id]

theorem State.foldl_modThread (bid : Nat) (F : Nat → Thread → Thread) (ls : List Nat) (s : State) :
    ls.foldl (fun s l => s.modThread bid l (F l)) s =
      s.modBundle bid fun b => { b with threads := ls.foldl (fun ts l => ts.modify l (F l)) b.threads } := by
  induction ls generalizing s with
  | nil => exact (s.modBundle_id bid).symm
  | cons a ls ih =>
    rw [List.foldl_cons, ih, State.modThread, State.modBundle_modBundle]
    · rfl
    · intro _; rfl

theorem State.foldl_modThread_nodup (bid : Nat) (F : Nat → Thread → Thread) (ls : List Nat) (h : ls.Nodup) (s : State) :
    ls.foldl (fun s l => s.modThread bid l (F l)) s = s.withThreads bid fun l t => if l ∈ ls then F l t else t := by
  simp only [State.foldl_modThread, State.withThreads, foldl_modify F ls h]

/-- The retired count of a bundle's block raised by n (R427). -/
def State.retireMany (s : State) (bid n : Nat) : State := match s.ownBlock bid with
  | some k => s.modBlock k fun x => { x with retired := x.retired + n }
  | none => s

theorem State.meetFinish_eq (s : State) (bid l : Nat) (start pc : DWord) (h : s.notStepping bid) :
    s.meetFinish bid l start pc = ((s.modThread bid l (·.goto pc)).retireMany bid 1, []) := by
  have ho : (s.modThread bid l (·.goto pc)).ownBlock bid = s.ownBlock bid := State.ownBlock_modBundle s bid _ (fun _ => rfl) (fun _ => rfl)
  have hr : (s.modThread bid l (·.goto pc)).retire bid = (s.modThread bid l (·.goto pc)).retireMany bid 1 := by
    simp only [State.retire, State.retireMany]; cases (s.modThread bid l (·.goto pc)).ownBlock bid <;> rfl
  have ho' : ((s.modThread bid l (·.goto pc)).retireMany bid 1).ownBlock bid = s.ownBlock bid := by
    rw [← ho]; simp only [State.retireMany]; split <;> rfl
  rw [State.meetFinish, hr, State.meetStep, ho']
  cases hk : s.ownBlock bid with
  | none => rfl
  | some k =>
    have hb := h k hk
    have hf : ((s.modThread bid l (·.goto pc)).retireMany bid 1).block? k =
        (s.block? k).map fun x => { x with retired := x.retired + 1 } := by
      simp only [State.retireMany, ho, hk, State.modBlock, State.block?]
      exact find?_upd _ _ _ fun _ => rfl
    simp only [Option.bind_some, hf]
    cases hx : s.block? k with
    | none => rfl
    | some x =>
      have : x.singleStep = false := by simpa [hx] using hb
      simp [this]

theorem State.notStepping_modBundle (s : State) (bid : Nat) (f : Bundle → Bundle) (hi : ∀ b, (f b).id = b.id)
    (ho : ∀ b, (f b).owner = b.owner) (h : s.notStepping bid) : (s.modBundle bid f).notStepping bid := by
  intro k hk
  rw [State.ownBlock_modBundle s bid f hi ho] at hk
  exact h k hk

theorem State.ownBlock_retireMany (s : State) (bid n : Nat) : (s.retireMany bid n).ownBlock bid = s.ownBlock bid := by
  simp only [State.retireMany]; split <;> rfl

theorem State.notStepping_retireMany (s : State) (bid n : Nat) (h : s.notStepping bid) : (s.retireMany bid n).notStepping bid := by
  intro k hk
  rw [State.ownBlock_retireMany] at hk
  have hb := h k hk
  have hk' : s.ownBlock bid = some k := hk
  simp only [State.retireMany, hk', State.modBlock, State.block?]
  rw [find?_upd, Option.map_map]
  · exact hb
  · intro _; rfl

theorem State.retireMany_retireMany (s : State) (bid n m : Nat) : (s.retireMany bid n).retireMany bid m = s.retireMany bid (n + m) := by
  cases hk : s.ownBlock bid with
  | none => simp [State.retireMany, hk]
  | some k =>
    have h1 : (s.modBlock k fun x => { x with retired := x.retired + n }).ownBlock bid = some k := hk
    simp only [State.retireMany, hk, h1]
    rw [State.modBlock_modBlock]
    · simp only [Nat.add_assoc]
    · intro _; rfl

theorem State.modThread_retireMany (s : State) (bid l n : Nat) (f : Thread → Thread) :
    (s.retireMany bid n).modThread bid l f = (s.modThread bid l f).retireMany bid n := by
  have ho : (s.modThread bid l f).ownBlock bid = s.ownBlock bid := State.ownBlock_modBundle s bid _ (fun _ => rfl) (fun _ => rfl)
  simp only [State.retireMany, ho]
  cases s.ownBlock bid <;> rfl

theorem State.foldl_goto_retireMany (bid : Nat) (pc : Nat → DWord) (ls : List Nat) (u : State) (n : Nat) :
    ls.foldl (fun s l => s.modThread bid l (·.goto (pc l))) (u.retireMany bid n) =
      (ls.foldl (fun s l => s.modThread bid l (·.goto (pc l))) u).retireMany bid n := by
  induction ls generalizing u with
  | nil => rfl
  | cons b ls ih => simp only [List.foldl_cons, State.modThread_retireMany, ih]

theorem State.foldl_meetFinish (bid : Nat) (start : DWord) (pc : Nat → DWord) (ls : List Nat) (s : State) (h : s.notStepping bid) :
    ls.foldl (fun (acc : State × List Met) l => ((acc.1.meetFinish bid l start (pc l)).1, acc.2 ++ (acc.1.meetFinish bid l start (pc l)).2))
        (s, []) = ((ls.foldl (fun s l => s.modThread bid l (·.goto (pc l))) s).retireMany bid ls.length, []) := by
  induction ls generalizing s with
  | nil =>
    simp only [List.foldl_nil, List.length_nil, State.retireMany]
    cases s.ownBlock bid with
    | none => rfl
    | some k => simp [s.modBlock_id k]
  | cons a ls ih =>
    have h1 : (s.modThread bid a (·.goto (pc a))).notStepping bid := s.notStepping_modBundle bid _ (fun _ => rfl) (fun _ => rfl) h
    rw [List.foldl_cons]
    simp only [State.meetFinish_eq s bid a start (pc a) h, List.append_nil]
    rw [ih _ (State.notStepping_retireMany _ _ _ h1), State.foldl_goto_retireMany, State.retireMany_retireMany, List.foldl_cons,
      List.length_cons, Nat.add_comm]

/-! Running an instruction. -/

/-- No check of an instruction finds a cause in an active lane of the group. -/
def Quiet (chk : Check) (s : State) (g : Group) (b : Bundle) : Prop :=
  ∀ l ∈ g.lanes, l ∈ g.active → ∀ t, b.threads[l]? = some t → chk s.taken g b l t = []

theorem quiet_noCheck (s : State) (g : Group) (b : Bundle) : Quiet noCheck s g b := fun _ _ _ _ _ => rfl

theorem laneTrap_none (t : Thread) (i : Instr) (h : ∀ x ∈ (opnds i).srcs, x.waits = true → t.srcTrap x = none) :
    t.laneTrap i [] = none := by
  have : ((opnds i).srcs.filter (·.waits)).filterMap t.srcTrap = [] := by
    rw [List.filterMap_eq_nil_iff]
    intro x hx
    have := List.mem_filter.mp hx
    exact h x this.1 this.2
  simp [Thread.laneTrap, this, lowest]

theorem midWait_none {s : State} {b : Bundle} {l : Nat} {t : Thread} {i : Instr} (h : s.waits b l t i = none) : s.midWait b t = none := by
  rw [State.waits] at h
  split at h
  · exact absurd h (by simp)
  · assumption

theorem fate_of_meets {s : State} {g : Group} {b : Bundle} {i : Instr} {chk : Check} (h : Meets s g b i) (hc : Quiet chk s g b)
    (l : Nat) (hl : l ∈ g.lanes) :
    s.taken.fate g b i chk l = if l ∈ g.active then .runs else .inactive := by
  obtain ⟨t, ht, hr⟩ := h.runs l hl
  simp only [State.fate, ht]
  by_cases ha : l ∈ g.active
  · have hr := hr ha
    have hx : (t.tx.isSome && s.taken.txStops b i) = false := by
      rcases hr.allowed with h1 | h1 <;> simp [h1]
    simp [ha, hr.noWait, midWait_none hr.noWait, hx, hc l hl ha t ht, laneTrap_none t i hr.sources]
  · simp [ha]

/-- What a lane's instruction ends in: what the body gives it, else on to the next instruction. -/
def endOf (ends : List (Nat × LaneEnd)) (l : Nat) : LaneEnd := (ends.lookup l).getD .next

/-- Where the group meets its instruction, it runs: the body acts for the active lanes, and every lane ends. -/
theorem runWith_meets {s : State} {g : Group} {b : Bundle} {i : Instr} {chk : Check} (body : Body) (h : Meets s g b i)
    (hc : Quiet chk s g b) :
    runWith i chk body s = .next ((body s.taken g b (g.lanes.filter (· ∈ g.active))).1.endsWith g
      (endOf (body s.taken g b (g.lanes.filter (· ∈ g.active))).2)) := by
  have hf : g.lanes.map (fun l => (l, s.taken.fate g b i chk l)) =
      g.lanes.map fun l => (l, if l ∈ g.active then LaneFate.runs else .inactive) :=
    List.map_congr_left fun l hl => by rw [fate_of_meets h hc l hl]
  have hr : ((g.lanes.map fun l => (l, if l ∈ g.active then LaneFate.runs else .inactive)).filter fun x => x.2 == .runs).map (·.1) =
      g.lanes.filter (· ∈ g.active) := by
    rw [List.filter_map, List.map_map]
    have : (fun l => decide (l ∈ g.active)) = (fun x : Nat × LaneFate => x.2 == .runs) ∘
        fun l => (l, if l ∈ g.active then LaneFate.runs else .inactive) := by
      funext l
      by_cases ha : l ∈ g.active <;> simp [ha]
    rw [← this]
    exact List.map_id _
  have hl := h.legal
  have hp := h.privileged
  simp only [State.taken] at hl hp hf ⊢
  simp only [runWith, h.group, h.bundle, hl, hp, Bool.false_eq_true, if_false, hf, hr, State.endGroup, State.endsWith, List.foldl_map]
  congr 3
  funext u l
  by_cases ha : l ∈ g.active <;> simp [ha, endOf, State.endFate]

/-- Where a lane goes on to after it has run: the ends that move it on. -/
def LaneEnd.pc (g : Group) : LaneEnd → DWord
  | .goto pc => pc
  | _ => g.nextPc

/-- An end that moves the lane on. -/
def LaneEnd.moves : LaneEnd → Prop
  | .next => True
  | .goto _ => True
  | _ => False

theorem endLane_moves (s : State) (g : Group) (l : Nat) (e : LaneEnd) (h : e.moves) :
    s.endLane g l e = s.meetFinish g.bundle l g.start (e.pc g) := by
  cases e <;> first | rfl | exact absurd h (by simp [LaneEnd.moves])

theorem State.moved_eq (s : State) (g : Group) (f : Thread → Thread) (pc : Nat → Thread → DWord) :
    s.moved g f pc = (s.taken.withThreads g.bundle fun l t => g.moved f pc l t).retireMany g.bundle g.lanes.length := by
  have ho : (s.taken.withThreads g.bundle fun l t => g.moved f pc l t).ownBlock g.bundle = s.ownBlock g.bundle :=
    State.ownBlock_modBundle _ _ _ (fun _ => rfl) (fun _ => rfl)
  simp only [State.moved, State.retireMany, ho]
  cases s.ownBlock g.bundle <;> rfl

/-- A body that changes each active lane's thread alone and moves it on. The state it acts in is the one before it, but for threads;
the lane's own thread is still as it was. -/
structure LaneLocal (s : State) (g : Group) (b : Bundle) (f : State → Group → Bundle → Nat → State × LaneEnd)
    (F : Thread → Thread) (pc : Nat → Thread → DWord) : Prop where
  acts : ∀ l ∈ g.lanes, l ∈ g.active → ∀ t, b.threads[l]? = some t → ∀ T : Nat → Thread → Thread, T l t = t →
    (f (s.taken.withThreads g.bundle T) g b l).1 =
      (s.taken.withThreads g.bundle T).modThread g.bundle l F
  ends : ∀ l ∈ g.lanes, l ∈ g.active → ∀ t, b.threads[l]? = some t → ∀ T : Nat → Thread → Thread, T l t = t →
    (f (s.taken.withThreads g.bundle T) g b l).2.moves ∧
    (f (s.taken.withThreads g.bundle T) g b l).2.pc g = pc l t

theorem State.withThreads_modThread (s : State) (bid : Nat) (T : Nat → Thread → Thread) (l : Nat) (f : Thread → Thread) :
    (s.withThreads bid T).modThread bid l f = s.withThreads bid fun n t => if n = l then f (T n t) else T n t := by
  simp only [State.withThreads, State.modThread]
  rw [State.modBundle_modBundle]
  · congr 1
    funext b
    congr 1
    apply List.ext_getElem?
    intro n
    simp only [List.getElem?_modify, List.getElem?_mapIdx]
    by_cases h : l = n
    · subst h; cases b.threads[l]? <;> simp
    · cases b.threads[n]? <;> simp [h, Ne.symm h]
  · intro _; rfl

theorem State.withThreads_withThreads (s : State) (bid : Nat) (T U : Nat → Thread → Thread) :
    (s.withThreads bid T).withThreads bid U = s.withThreads bid fun n t => U n (T n t) := by
  simp only [State.withThreads]
  rw [State.modBundle_modBundle]
  · congr 1
    funext b
    congr 1
    apply List.ext_getElem?
    intro n
    simp only [List.getElem?_mapIdx]
    cases b.threads[n]? <;> rfl
  · intro _; rfl

theorem each_laneLocal {s : State} {g : Group} {b : Bundle} {f : State → Group → Bundle → Nat → State × LaneEnd} {F : Thread → Thread}
    {pc : Nat → Thread → DWord} (hl : LaneLocal s g b f F pc) (hx : ∀ l ∈ g.lanes, ∃ t, b.threads[l]? = some t) (ls : List Nat)
    (hn : ls.Nodup) (hs : ∀ l ∈ ls, l ∈ g.lanes ∧ l ∈ g.active) (T : Nat → Thread → Thread)
    (hT : ∀ l ∈ ls, ∀ t, T l t = t) (es : List (Nat × LaneEnd)) :
    ∃ e : Nat → LaneEnd, (∀ l ∈ ls, (e l).moves ∧ ∀ t, b.threads[l]? = some t → (e l).pc g = pc l t) ∧
      ls.foldl (fun acc l => ((f acc.1 g b l).1, acc.2 ++ [(l, (f acc.1 g b l).2)])) (s.taken.withThreads g.bundle T, es) =
        (s.taken.withThreads g.bundle (fun n t => if n ∈ ls then F (T n t) else T n t), es ++ ls.map fun l => (l, e l)) := by
  induction ls generalizing T es with
  | nil => exact ⟨fun _ => .next, by simp, by simp⟩
  | cons a ls ih =>
    have hn' := List.nodup_cons.mp hn
    obtain ⟨hal, haa⟩ := hs a (by simp)
    obtain ⟨t, ht⟩ := hx a hal
    have ha := hl.acts a hal haa t ht T (hT a (by simp) t)
    have he := hl.ends a hal haa t ht T (hT a (by simp) t)
    obtain ⟨e, h1, h2⟩ := ih hn'.2 (fun l h => hs l (by simp [h])) (fun n t => if n = a then F (T n t) else T n t)
      (fun l h t => by
        have : l ≠ a := fun x => hn'.1 (x ▸ h)
        simp [this, hT l (by simp [h]) t]) (es ++ [(a, (f (s.taken.withThreads g.bundle T) g b a).2)])
    refine ⟨fun l => if l = a then (f (s.taken.withThreads g.bundle T) g b a).2 else e l, ?_, ?_⟩
    · intro l hm
      by_cases hla : l = a
      · subst hla
        simp only [if_true]
        refine ⟨he.1, fun t' ht' => ?_⟩
        rw [ht] at ht'
        exact Option.some.inj ht' ▸ he.2
      · simp only [hla, if_false]
        exact h1 l (by simpa [hla] using hm)
    · rw [List.foldl_cons, ha, State.withThreads_modThread, h2]
      refine Prod.ext ?_ ?_
      · dsimp only
        congr 1
        funext n t
        by_cases hna : n = a
        · subst hna; simp [hn'.1]
        · simp [hna]
      · simp only [List.map_cons, if_true, List.append_assoc, List.singleton_append]
        congr 2
        apply List.map_congr_left
        intro l hm
        have : l ≠ a := fun x => hn'.1 (x ▸ hm)
        simp [this]

theorem State.withThreads_id (s : State) (bid : Nat) : s.withThreads bid (fun _ t => t) = s := by
  have : (fun b : Bundle => { b with threads := b.threads.mapIdx fun _ t => t }) = fun b => b := by
    funext b
    congr 1
    apply List.ext_getElem?
    intro n
    simp
  simp only [State.withThreads, this, State.modBundle_id]

theorem foldl_congr_mem {α β : Type} (f g : α → β → α) (ls : List β) (h : ∀ a, ∀ x ∈ ls, f a x = g a x) (a : α) :
    ls.foldl f a = ls.foldl g a := by
  induction ls generalizing a with
  | nil => rfl
  | cons x ls ih =>
    rw [List.foldl_cons, List.foldl_cons, h a x (by simp)]
    exact ih (fun a y hy => h a y (by simp [hy])) _

/-- An instruction that acts lane by lane on its own threads leaves exactly the state `moved` writes out. -/
theorem runLanes_moved {s : State} {g : Group} {b : Bundle} {i : Instr} {chk : Check}
    {f : State → Group → Bundle → Nat → State × LaneEnd} {F : Thread → Thread} {pc : Nat → Thread → DWord}
    (h : Meets s g b i) (hs : s.notStepping g.bundle) (hc : Quiet chk s g b) (hl : LaneLocal s g b f F pc) :
    runLanes i chk f s = .next (s.moved g F pc) := by
  have hx : ∀ l ∈ g.lanes, ∃ t, b.threads[l]? = some t := fun l hm => (h.runs l hm).imp fun _ ht => ht.1
  have hn := h.distinct
  obtain ⟨e, he, hfold⟩ := each_laneLocal hl hx (g.lanes.filter (· ∈ g.active)) (hn.filter _)
    (fun l hm => by simpa using hm) (fun _ t => t) (fun _ _ _ => rfl) []
  rw [State.withThreads_id] at hfold
  have hend : ∀ l ∈ g.lanes, endOf ((g.lanes.filter (· ∈ g.active)).map fun l => (l, e l)) l = if l ∈ g.active then e l else .next := by
    intro l hm
    rw [endOf, lookup_map]
    by_cases ha : l ∈ g.active <;> simp [hm, ha]
  have hmv : ∀ l ∈ g.lanes, (if l ∈ g.active then e l else LaneEnd.next).moves := by
    intro l hm
    by_cases ha : l ∈ g.active
    · simpa [ha] using (he l (by simp [hm, ha])).1
    · simp [ha, LaneEnd.moves]
  rw [runLanes, runWith_meets (each f) h hc]
  simp only [each, hfold, List.nil_append]
  congr 1
  rw [State.endsWith, foldl_congr_mem _ (fun (acc : State × List Met) l =>
    ((acc.1.meetFinish g.bundle l g.start ((if l ∈ g.active then e l else LaneEnd.next).pc g)).1,
      acc.2 ++ (acc.1.meetFinish g.bundle l g.start ((if l ∈ g.active then e l else LaneEnd.next).pc g)).2)) _
    (fun u l hm => by rw [hend l hm, endLane_moves _ _ _ _ (hmv l hm)])]
  have hs2 : ∀ T, (s.taken.withThreads g.bundle T).notStepping g.bundle := fun T =>
    State.notStepping_modBundle s.taken _ _ (fun _ => rfl) (fun _ => rfl) hs
  rw [State.foldl_meetFinish _ _ (fun l => (if l ∈ g.active then e l else LaneEnd.next).pc g) _ _ (hs2 _), State.takeAll, List.foldl_nil,
    State.foldl_modThread_nodup _ (fun l t => t.goto ((if l ∈ g.active then e l else LaneEnd.next).pc g)) _ hn,
    State.withThreads_withThreads, State.moved_eq]
  congr 1
  simp only [State.withThreads, State.modBundle]
  congr 2
  apply upd_congr
  intro x hxm hxi
  have hxb : x = b := h.unique x hxm (by simpa using hxi)
  subst hxb
  congr 1
  apply List.ext_getElem?
  intro n
  simp only [List.getElem?_mapIdx]
  cases ht : x.threads[n]? with
  | none => rfl
  | some t =>
    simp only [Option.map_some]
    congr 1
    by_cases hm : n ∈ g.lanes
    · by_cases ha : n ∈ g.active
      · have := (he n (by simp [hm, ha])).2 t ht
        simp [hm, ha, Group.moved, this]
      · simp [hm, ha, Group.moved, LaneEnd.pc]
    · simp [hm, Group.moved]

theorem laneLocal_pure (s : State) (g : Group) (b : Bundle) (F : Thread → Thread) :
    LaneLocal s g b (fun s g _ l => (s.modThread g.bundle l F, .next)) F fun _ _ => g.nextPc :=
  ⟨fun _ _ _ _ _ _ _ => rfl, fun _ _ _ _ _ _ _ => ⟨trivial, rfl⟩⟩

/-- An instruction that only works on its own threads: every active lane's thread becomes F of it, every lane of the group goes on,
and nothing else changes but the retired count. -/
theorem runPure_after {s : State} {g : Group} {b : Bundle} {i : Instr} (F : Thread → Thread) (h : Meets s g b i)
    (hs : s.notStepping g.bundle) : runPure i F s = .next (s.after g F) :=
  runLanes_moved h hs (quiet_noCheck s g b) (laneLocal_pure s g b F)

/-! Instructions that act on more than their threads. -/

/-- An instruction whose body leaves the state u and ends the active lanes alike. -/
theorem runWith_ends {s : State} {g : Group} {b : Bundle} {i : Instr} {chk : Check} {body : Body} {u : State} {e : LaneEnd}
    (h : Meets s g b i) (hc : Quiet chk s g b) (hu : (body s.taken g b g.acting).1 = u)
    (he : ∀ l ∈ g.lanes, endOf (body s.taken g b g.acting).2 l = if l ∈ g.active then e else .next) :
    runWith i chk body s = .next (u.endAll g e) := by
  rw [runWith_meets body h hc, show g.lanes.filter (· ∈ g.active) = g.acting from rfl, hu]
  rw [State.endAll, State.endsWith, State.endsWith, foldl_congr_mem _ _ _ (fun acc l hl => by rw [he l hl])]

theorem mem_acting {g : Group} {l : Nat} : l ∈ g.acting ↔ l ∈ g.lanes ∧ l ∈ g.active := by simp [Group.acting]

theorem endOf_map (g : Group) (e : LaneEnd) (l : Nat) (hl : l ∈ g.lanes) :
    endOf (g.acting.map fun l => (l, e)) l = if l ∈ g.active then e else .next := by
  rw [endOf, lookup_map]
  by_cases ha : l ∈ g.active <;> simp [mem_acting, hl, ha]

/-- Folding a body over lanes whose ends are all e. P is what the ends depend on, given the lanes still to come. -/
theorem each_ends {g : Group} {b : Bundle} {f : State → Group → Bundle → Nat → State × LaneEnd} {E : State → Nat → State} {e : LaneEnd}
    (P : List Nat → State → Prop)
    (hf : ∀ u l ls, (∀ x ∈ l :: ls, x ∈ g.acting) → P (l :: ls) u → (f u g b l) = (E u l, e) ∧ P ls (E u l)) (ls : List Nat)
    (hm : ∀ l ∈ ls, l ∈ g.acting) (u : State) (hu : P ls u) (es : List (Nat × LaneEnd)) :
    ls.foldl (fun acc l => ((f acc.1 g b l).1, acc.2 ++ [(l, (f acc.1 g b l).2)])) (u, es) =
      (ls.foldl E u, es ++ ls.map fun l => (l, e)) := by
  induction ls generalizing u es with
  | nil => simp
  | cons a ls ih =>
    have ha := hf u a ls hm hu
    rw [List.foldl_cons, List.foldl_cons, ha.1, ih (fun l hl => hm l (by simp [hl])) _ ha.2]
    simp

/-- An instruction that acts lane by lane and ends every active lane alike. -/
theorem runLanes_ends {s : State} {g : Group} {b : Bundle} {i : Instr} {chk : Check}
    {f : State → Group → Bundle → Nat → State × LaneEnd} {E : State → Nat → State} {e : LaneEnd} (P : List Nat → State → Prop)
    (h : Meets s g b i) (hc : Quiet chk s g b) (hP : P g.acting s.taken)
    (hf : ∀ u l ls, (∀ x ∈ l :: ls, x ∈ g.acting) → P (l :: ls) u → (f u g b l) = (E u l, e) ∧ P ls (E u l)) :
    runLanes i chk f s = .next ((s.taken.eachLane g E).endAll g e) := by
  have hb := each_ends P hf g.acting (fun _ h => h) s.taken hP []
  refine runWith_ends h hc (congrArg Prod.fst hb) fun l hl => ?_
  rw [show (each f s.taken g b g.acting).2 = g.acting.map fun l => (l, e) by simpa [each] using congrArg Prod.snd hb]
  exact endOf_map g e l hl

/-- The same for an instruction whose lanes share an entry. -/
theorem runEntry_ends {s : State} {g : Group} {b : Bundle} {i : Instr} {chk : Check}
    {f : Nat → State → Group → Bundle → Nat → State × LaneEnd} {E : State → Nat → State} {e : LaneEnd} (P : List Nat → State → Prop)
    (h : Meets s g b i) (hc : Quiet chk s g b) (hP : P g.acting s.taken.next)
    (hf : ∀ u l ls, (∀ x ∈ l :: ls, x ∈ g.acting) → P (l :: ls) u → (f s.fresh u g b l) = (E u l, e) ∧ P ls (E u l)) :
    runEntry i chk f s = .next ((s.taken.next.eachLane g E).endAll g e) := by
  have hb := each_ends (f := f s.fresh) P hf g.acting (fun _ h => h) s.taken.next hP []
  refine runWith_ends h hc (congrArg Prod.fst hb) fun l hl => ?_
  show endOf (each (f s.fresh) s.taken.next g b g.acting).2 l = _
  rw [show (each (f s.fresh) s.taken.next g b g.acting).2 = g.acting.map fun l => (l, e) from (congrArg Prod.snd hb).trans (by simp)]
  exact endOf_map g e l hl

/-- The same where neither the effect nor the end depends on anything. -/
theorem runLanes_always {s : State} {g : Group} {b : Bundle} {i : Instr} {chk : Check}
    {f : State → Group → Bundle → Nat → State × LaneEnd} {E : State → Nat → State} {e : LaneEnd} (h : Meets s g b i) (hc : Quiet chk s g b)
    (hf : ∀ u l, f u g b l = (E u l, e)) : runLanes i chk f s = .next ((s.taken.eachLane g E).endAll g e) :=
  runLanes_ends (fun _ _ => True) h hc trivial fun u l _ _ _ => ⟨hf u l, trivial⟩

end Sys2Proof.Machine
end

