-- ==== Sys2Proof/Tests/Slice0.lean ====
section
/-! SUPPORT. Tests: words of the spec's tables, the checks of well-formedness, witnesses of the statements' hypotheses, and single steps. -/

set_option maxRecDepth 20000

namespace Sys2Proof.Tests

open Sys2Proof Sys2Proof.Machine

/-! Words. -/

/-- Words of the tables of 02_formats.md, written field by field. -/
theorem test_words_formats :
    decodeTableWord 16 0b0_00101_00011_0001_0 = some (.addH 0 5 3) ∧
    decodeTableWord 16 0b1_11101_00111_0001_0 = some (.addH 1 29 7) ∧
    decodeTableWord 32 0b1_0_001_1100011_0001100_0101000_00000_1 = some (.sub 1 0 99 12 40) ∧
    decodeTableWord 32 0b111110011100_0000010_0001001_00101_1 = some (.addi 3996 2 9) ∧
    decodeTableWord 32 0b111110000_000_0000011_1000110_00110_1 = some (.andi 496 3 70) ∧
    decodeTableWord 32 0b1001111001011000000_1100100_00111_1 = some (.movi 324288 100) ∧
    decodeTableWord 32 0b0_0_0_10_1111011_0000110_0010_001_01001_1 = some (.cmpi 0 2 123 6 2 1) ∧
    decodeTableWord 32 0b01011_0001010_0001001_0001000_01100_1 = some (.ffma 11 10 9 8) ∧
    decodeTableWord 32 0b1_000_1010_1100_0000111_0000011_10010_1 = some (.cvt 1 0 10 12 7 3) ∧
    decodeTableWord 32 0b000_0_1_1110_010_0010000_0001001_10011_1 = some (.cvtpEf 0 14 2 16 9) ∧
    decodeTableWord 32 0b000110_100_0011_000011_0000100_10110_1 = some (.ld 6 4 3 3 4) ∧
    decodeTableWord 32 0b0_0_011_0000_0001_001010_0001100_11010_1 = some (.atomAdd 0 3 1 10 12) ∧
    decodeTableWord 32 0b1_0100_010_00101_010100_0011110_11100_1 = some (.acp 1 4 2 5 20 30) ∧
    decodeTableWord 32 0b0000_0000000000001001_100_001_11001_1 = some (.fenceAr 9 4) ∧
    decodeTableWord 32 0b01000_0011010_0000000_0000000_11011_1 = some (.barSync 3 2) := by decide

/-- Words of the tables of 03_threads.md, written field by field. -/
theorem test_words_threads :
    decodeTableWord 32 0b000000000000_0001010_0000_010_11111_1 = some (.jmp 10) ∧
    decodeTableWord 32 0b000000000000_0010100_0001_010_11111_1 = some (.callr 20) ∧
    decodeTableWord 32 0b000000000000_1111110_0010_010_11111_1 = some (.ret 126) ∧
    decodeTableWord 32 0b01111_0000000_0000000_0000000_11011_1 = some .rcv ∧
    decodeTableWord 32 0b11100_0000000_0000000_0000000_11011_1 = some .yield ∧
    decodeTableWord 32 0b11101_0000000_0000000_0000000_11011_1 = some .exit ∧
    decodeTableWord 32 0b0_0_001_0001100_0001011_0001010_10101_1 = some (.lgetUp 0 0 12 11 10) ∧
    decodeTableWord 32 0b0_0_110_0000000_0000101_0000100_10101_1 = some (.scanAddI32 0 5 4) ∧
    decodeTableWord 32 0b0000_0000011_0000101_00010_011_11111_1 = some (.srd 3 5) ∧
    decodeTableWord 32 0b0000_0100000_0001001_00011_011_11111_1 = some (.swr 32 9) := by decide

/-- Words of the tables of 04_registers.md, written field by field. -/
theorem test_words_registers :
    decodeTableWord 32 0b10111_0001100_0000000_0000000_11011_1 = some (.regrow 12) ∧
    decodeTableWord 32 0b11000_0000100_0000000_0000000_11011_1 = some (.regshr 4) ∧
    decodeTableWord 32 0b10000_0000000_0000000_0101000_11011_1 = some (.mke 40) ∧
    decodeTableWord 32 0b10001_0000000_0101000_0000000_11011_1 = some (.waitf 40) ∧
    decodeTableWord 32 0b0_0_110_0001110_0001100_0001010_00000_1 = some (.addD 0 0 14 12 10) ∧
    decodeTableWord 32 0b0_0_110_0010110_0010101_0010100_00001_1 = some (.bfxz 0 0 22 21 20) ∧
    decodeTableWord 32 0b1_0_100_0100000_0011111_0011110_00010_1 = some (.addmin 1 0 32 31 30) ∧
    decodeTableWord 32 0b0_0_101_0001010_0001001_0001000_00011_1 = some (.divZ32 0 0 10 9 8) ∧
    decodeTableWord 32 0b0_0_110_0000101_0000100_0000011_00100_1 = some (.find 0 0 5 4 3) ∧
    decodeTableWord 32 0b000000111_100_0000110_0000101_00110_1 = some (.shri 7 6 5) ∧
    decodeTableWord 32 0b0_1_0_01_0001010_0001001_0110_011_01000_1 = some (.cmp 1 0 1 10 9 6 3) ∧
    decodeTableWord 32 0b0_0_010_0000111_0000110_0000101_01010_1 = some (.sel 0 0 2 7 6 5) := by decide

/-- Words of the tables of 05_numbers.md, written field by field. -/
theorem test_words_numbers :
    decodeTableWord 32 0b0_0_000_0001100_0001011_0001010_01011_1 = some (.fadd 0 0 12 11 10) ∧
    decodeTableWord 32 0b1_0011_0010110_0010101_0010100_01101_1 = some (.fma2 1 3 22 21 20) ∧
    decodeTableWord 32 0b00111_0001100_0001010_0001000_01110_1 = some (.dfma 7 12 10 8) ∧
    decodeTableWord 32 0b0_0_011_0000101_0000100_0000011_01111_1 = some (.dumulBf16 0 0 5 4 3) ∧
    decodeTableWord 32 0b0_0_101_0011000_0010110_0010100_10000_1 = some (.ddiv 0 0 24 22 20) ∧
    decodeTableWord 32 0b0_0_100_0000000_0000111_0000110_10001_1 = some (.fexp2 0 7 6) ∧
    decodeTableWord 32 0b0_001_1010_0100_0000101_0000100_10010_1 = some (.cvt 0 1 10 4 5 4) ∧
    decodeTableWord 32 0b000_0_0_1100_000_0101000_0001100_10011_1 = some (.cvtp 0 12 40 12) ∧
    decodeTableWord 32 0b0_0_100_0010110_0010101_0010100_10100_1 = some (.dot4D8a 0 0 22 21 20) ∧
    decodeTableWord 32 0b0001_0000000_0000000_00100_011_11111_1 = some (.setrm 1) ∧
    decodeTableWord 32 0b0000_0000000_0000111_00101_011_11111_1 = some (.clrff 7) := by decide

/-- Words of the tables of 06_memory.md, written field by field. -/
theorem test_words_memory :
    decodeTableWord 32 0b10011_0000110_0001001_0000000_11110_1 = some (.setstrm 6 9) ∧
    decodeTableWord 32 0b000010_101_0010_000101_0001000_10110_1 = some (.ld 2 5 2 5 8) ∧
    decodeTableWord 32 0b000010_100_0001_000110_0010000_10111_1 = some (.st 2 4 1 6 16) ∧
    decodeTableWord 32 0b000_100_000_0101_001010_0000011_11000_1 = some (.ldacqW 4 5 10 3) ∧
    decodeTableWord 32 0b000_011_011_0101_001010_0000110_11000_1 = some (.strelD 3 5 10 6) ∧
    decodeTableWord 32 0b000010_100_0011_000011_0000000_11000_1 = some (.pfetch 2 3 3) := by decide

/-- Words of the tables of 07_scratchpad.md, written field by field. -/
theorem test_words_scratchpad :
    decodeTableWord 32 0b01100_0000000_0010000_0000100_11110_1 = some (.stmap 16 4) ∧
    decodeTableWord 32 0b01101_0000000_0010010_0000000_11110_1 = some (.stunmap 18) ∧
    decodeTableWord 32 0b0000_0000000000001000_000_100_11001_1 = some (.stflush 8) ∧
    decodeTableWord 32 0b10010_0000010_0000000_0000101_11011_1 = some (.cbpush 2 5) ∧
    decodeTableWord 32 0b10011_0000010_0000000_0000000_11011_1 = some (.cbcmt 2) ∧
    decodeTableWord 32 0b10100_0000010_0000000_0000110_11011_1 = some (.cbwait 2 6) ∧
    decodeTableWord 32 0b10101_0000010_0000000_0000000_11011_1 = some (.cbpop 2) ∧
    decodeTableWord 32 0b0_0010_001_00111_000101_0001000_11100_1 = some (.acp 0 2 1 7 5 8) ∧
    decodeTableWord 32 0b10110_0000001_0000000_0000000_11011_1 = some (.acwait 1) ∧
    decodeTableWord 32 0b00110_0000011_0001100_0000000_11110_1 = some (.acb 3 12) ∧
    decodeTableWord 32 0b00110_0000001_0000000_0000000_11011_1 = some (.barArr 0 1) ∧
    decodeTableWord 32 0b00111_0010001_0000000_0000000_11011_1 = some (.barWait 2 1) ∧
    decodeTableWord 32 0b01001_0000000_0001001_0000000_11011_1 = some (.barAddb 0 0 9) := by decide

/-- Words of the tables of 08_ordering.md, written field by field. -/
theorem test_words_ordering :
    decodeTableWord 32 0b0000_0000000000000110_000_000_11001_1 = some (.fenceX 6) ∧
    decodeTableWord 32 0b0000_0000000000000000_011_001_11001_1 = some (.fenceAr 0 3) ∧
    decodeTableWord 32 0b0000_0000000000000100_100_010_11001_1 = some (.fenceSc 4 4) ∧
    decodeTableWord 32 0b0000_0000000000000001_011_011_11001_1 = some (.fenceEng 1 3) := by decide

/-- Words of the tables of 09_prog_copy.md, written field by field. -/
theorem test_words_prog_copy :
    decodeTableWord 32 0b0_0000_000_00101_000100_0000100_11100_1 = some (.acp 0 0 0 5 4 4) ∧
    decodeTableWord 32 0b1_0000_010_00101_000100_0000100_11100_1 = some (.acp 1 0 2 5 4 4) ∧
    decodeTableWord 32 0b000000_110_1110_000111_0010000_10110_1 = some (.ld 0 6 14 7 16) ∧
    decodeTableWord 32 0b0000_0000001_0000011_00010_011_11111_1 = some (.srd 1 3) := by decide

/-- Words of the tables of 10_lathe.md, written field by field. -/
theorem test_words_lathe :
    decodeTableWord 32 0b01110_0000011_0000000_0000101_11110_1 = some (.nodeRd 3 5) ∧
    decodeTableWord 32 0b01111_0000000_0001011_0001010_11110_1 = some (.nodeIn 11 10) ∧
    decodeTableWord 32 0b10000_0001101_0001100_0000000_11110_1 = some (.nodeUp 13 12) ∧
    decodeTableWord 32 0b10001_0001111_0001110_0000000_11110_1 = some (.nodeDn 15 14) := by decide

/-- Words of the tables of 12_atomics.md, written field by field. -/
theorem test_words_atomics :
    decodeTableWord 32 0b0_0_011_1001_0001_000100_0000100_11010_1 = some (.atomCas 0 3 1 4 4) ∧
    decodeTableWord 32 0b0_1_001_1100_0010_000011_0001010_11010_1 = some (.atomFaddF32 1 1 2 3 10) ∧
    decodeTableWord 32 0b0_0_100_1111_0000_001111_0010100_11010_1 = some (.atomAddD 0 4 0 15 20) ∧
    decodeTableWord 32 0b00000_0000000_0000000_0000011_11011_1 = some (.txb 3) ∧
    decodeTableWord 32 0b00001_0000000_0000000_0000000_11011_1 = some .txe ∧
    decodeTableWord 32 0b00010_0000101_0000000_0000000_11011_1 = some (.txa 5) ∧
    decodeTableWord 32 0b00011_0000101_0001010_0000100_11011_1 = some (.fput 5 10 4) ∧
    decodeTableWord 32 0b00100_0000101_0001010_0000100_11011_1 = some (.fputt 5 10 4) ∧
    decodeTableWord 32 0b00101_0000000_0001010_0000011_11011_1 = some (.fget 10 3) := by decide

/-- Words of the tables of 13_clamp.md, written field by field. -/
theorem test_words_clamp :
    decodeTableWord 32 0b01101_0000000_0001010_0000011_11011_1 = some (.objreg 10 3) ∧
    decodeTableWord 32 0b01110_0000000_0001010_0000011_11011_1 = some (.objrst 10 3) ∧
    decodeTableWord 32 0b01011_0000100_0001010_0010100_11011_1 = some (.callo 4 10 20) ∧
    decodeTableWord 32 0b01100_0000000_0000010_0000000_11011_1 = some (.crply 0 2) := by decide

/-- Words of the tables of 15_matrix.md, written field by field. -/
theorem test_words_matrix :
    decodeTableWord 32 0b00101_0101000_0100000_0010000_11101_1 = some (.mfrag 5 40 32 16) ∧
    decodeTableWord 32 0b00000_0000000_0010000_0000000_11110_1 = some (.mtile 16) ∧
    decodeTableWord 32 0b00010_0000001_0000000_0000000_11110_1 = some (.mring 1) ∧
    decodeTableWord 32 0b00011_0000011_0000000_0000000_11110_1 = some (.mwait 3) ∧
    decodeTableWord 32 0b00100_0000000_0011000_0000000_11110_1 = some (.part 24) ∧
    decodeTableWord 32 0b00101_0001111_0000000_0000000_11110_1 = some (.pwait 15) ∧
    decodeTableWord 32 0b10100_0000000_0000000_0000111_11110_1 = some (.mtok 7) := by decide

/-- Words of the tables of 16_carver.md, written field by field. -/
theorem test_words_carver :
    decodeTableWord 32 0b00001_0000000_0010000_0000000_11110_1 = some (.mspt 16) ∧
    decodeTableWord 32 0b01011_0000000_0010100_0000000_11110_1 = some (.carvinv 20) ∧
    decodeTableWord 32 0b10010_0000100_0000011_0001010_11110_1 = some (.xnext 4 3 10) := by decide

/-- Words of the tables of 17_prog_sparsedot.md, written field by field. -/
theorem test_words_prog_sparsedot :
    decodeTableWord 32 0b0_0_000_0000000_0000100_0001000_00100_1 = some (.popc 0 4 8) ∧
    decodeTableWord 32 0b0_0_011_0001111_0001110_0001100_00011_1 = some (.madlo 0 0 15 14 12) ∧
    decodeTableWord 32 0b000000_000_0000_001000_0001110_10110_1 = some (.ld 0 0 0 8 14) ∧
    decodeTableWord 32 0b10010_0000100_0001101_0001010_11110_1 = some (.xnext 4 13 10) ∧
    decodeTableWord 32 0b0000000000000001110_1_000_000_11111_1 = some (.br 14 1 0) := by decide

/-- Words of the tables of 18_traps.md, written field by field. -/
theorem test_words_traps :
    decodeTableWord 32 0b0000_0101000_0000101_01011_011_11111_1 = some (.oreg 40 5) ∧
    decodeTableWord 32 0b0000_0101000_0000101_01100_011_11111_1 = some (.owr 40 5) ∧
    decodeTableWord 32 0b0000_0000000_0000110_01101_011_11111_1 = some (.opc 6) ∧
    decodeTableWord 32 0b0000_0000000_0000000_01000_011_11111_1 = some .rett ∧
    decodeTableWord 32 0b0000_0000000_0000000_01001_011_11111_1 = some .kill ∧
    decodeTableWord 32 0b0000_0000000_0000000_01010_011_11111_1 = some .killb ∧
    decodeTableWord 32 0b0101_0000000_0000000_00110_011_11111_1 = some (.trapi 5) ∧
    decodeTableWord 32 0b0000_0000000_0000000_00111_011_11111_1 = some .brk ∧
    decodeTableWord 32 0b0000_0000000_0000000_01110_011_11111_1 = some .halt ∧
    decodeTableWord 32 0b11110_0000000_0001001_0000000_11011_1 = some (.setprg 9) := by decide

/-- Words of the tables of 19_calipers.md, written field by field. -/
theorem test_words_calipers :
    decodeTableWord 32 0b00111_0000001_0010000_0000000_11110_1 = some (.calcfg 1 16) ∧
    decodeTableWord 32 0b01000_0000001_0010100_0000000_11110_1 = some (.calref 1 20) ∧
    decodeTableWord 32 0b01001_0000001_0010110_0000000_11110_1 = some (.calbnd 1 22) ∧
    decodeTableWord 32 0b01010_0000001_0000000_0001000_11110_1 = some (.calrd 0 1 8) ∧
    decodeTableWord 32 0b01010_0011011_0000000_0000000_11011_1 = some (.barChk 3 3) := by decide

/-- Words of the tables of 20_prog_conserve.md, written field by field. -/
theorem test_words_prog_conserve :
    decodeTableWord 32 0b0_0_001_0000100_0000010_0000010_01011_1 = some (.fsub 0 0 4 2 2) ∧
    decodeTableWord 32 0b000000_011_0000_000011_0000010_10111_1 = some (.st 0 3 0 3 2) ∧
    decodeTableWord 32 0b000000_101_1111_000011_0001000_10111_1 = some (.st 0 5 15 3 8) ∧
    decodeTableWord 32 0b01010_0011100_0000000_0001110_11110_1 = some (.calrd 7 0 14) := by decide

/-- Words of the tables of 21_tasks.md, written field by field. -/
theorem test_words_tasks :
    decodeTableWord 32 0b11001_0000000_0001010_0000000_11011_1 = some (.cont 10) ∧
    decodeTableWord 32 0b11010_0000101_0010000_0000000_11011_1 = some (.wrec 5 16) := by decide

/-- Words of the tables of 22_queues.md, written field by field. -/
theorem test_words_queues :
    decodeTableWord 32 0b11011_0000000_0001010_0000100_11011_1 = some (.pwenq 10 4) := by decide

/-- Words of the tables of 23_observe.md, written field by field. -/
theorem test_words_observe :
    decodeTableWord 32 0b000010_101_0011_000011_0000100_11000_1 = some (.ldsmpW 2 3 3 4) := by decide

/-- PRED, EXT with its ADDI, BR and NOP from the tables of R38, R49 and R71. -/
theorem test_words_control :
    decodeTableWord 32 0b0010_0000000_0000000_00001_011_11111_1 = some (.pred 0 2) ∧
    decodeTableWord 32 0b000_00000000000100100011_100_11111_1 = some (.ext 0x123) ∧
    decodeTableWord 32 0b101011000000_0000000_0000110_00101_1 = some (.addi 0xAC0 0 6) ∧
    decodeTableWord 32 0b1111111111111110000_1_011_000_11111_1 = some (.br 0x7FFF0 1 3) ∧
    decodeTableWord 32 0b00000000000000000001000_001_11111_1 = some (.call 8) ∧
    decodeTableWord 32 0x000000FF = some .nop ∧ decodeTableWord 32 0x00001EFF = some .refetch := by decide

/-- Words that R25 refuses: a reserved field, a code that nothing assigns. -/
theorem test_words_refused :
    decode32 0b0000_0000000_0000000_00000_011_11111_1 = .ok .nop ∧ decode32 0b0001_0000000_0000000_00000_011_11111_1 = .error .reservedField ∧
    decode32 0b0_0_111_0000101_0000100_0000011_00100_1 = .error .unassigned ∧ decode32 0b000000000000_0000010_0011_010_11111_1 = .error .unassigned := ⟨rfl, rfl, rfl, rfl⟩

/-! Well-formed instructions: each check refuses a term. -/

theorem test_wf_accepts : Instr.wf (.addD 0 0 2 4 6) = true ∧ Instr.wf (.turnTokenGrant 3) = true := by decide
/-- Size code 6 is not assigned to ST (R45). -/
theorem test_wf_codesAssigned : Instr.codesAssigned (.st 0 6 0 1 2) = false ∧ Instr.wf (.st 0 6 0 1 2) = false := by decide
/-- A pair starts at an even register (R24). -/
theorem test_wf_runsAligned : Instr.runsAligned (.addD 0 0 3 4 6) = false ∧ Instr.wf (.addD 0 0 3 4 6) = false := by decide
/-- Registers above w127 do not exist (R24, R85). -/
theorem test_wf_registersExist : Instr.registersExist (.callo 4 2 124) = false ∧ Instr.wf (.callo 4 2 124) = false := by decide
/-- There are four dies (R5). -/
theorem test_wf_unitsExist : Instr.unitsExist (.turnTokenGrant 4) = false ∧ Instr.wf (.turnTokenGrant 4) = false := by decide

/-! Witnesses: for each statement with hypotheses, a state and operands that meet them. -/

/-- The issue group of lane 0 of bundle 3, at an instruction of four bytes, after a lead word or none. -/
def gp (f : Pfx) : Group :=
  { bundle := 3, lanes := [0], active := [0], start := 0x10000, ipc := 0x10000, size := 4, word := 0, pfx := f }
abbrev g0 : Group := gp .none

/-- A thread of 128 registers that holds some values. -/
def th (xs : List (Nat × Word)) : Thread :=
  { pc := 0x10000, regs := xs.foldl (fun rs x => rs.set x.1 { val := x.2 }) (List.replicate 128 {}) }

/-- Bundle 3 with one thread. -/
def one (o : Owner) (t : Thread) : Bundle := { id := 3, owner := o, index := 0, core := 0, pipe := 0, threads := [t] }

/-- A state in which the group runs: its bundle and others. -/
def onP (f : Pfx) (s : State) (b : Bundle) (bs : List Bundle) : State := { s with group := some (gp f), bundles := b :: bs }
abbrev on := onP .none

/-- The package after reset with task 1 in block 2 on core 0, whose task declares 64 KiB at 0x20000. -/
def sys : State :=
  let s := State.reset.place1 []
  { s with tasks := s.tasks.map fun t => { t with
      program := { t.program with ranges := [{ base := 0x20000, len := 0x10000, r := true, w := true }] }
      xlat := [{ va := 0x20000, pa := 0x20000, len := 0x10000 }] } }

/-- Block 2 of it changed. -/
def sysBlk (f : Block → Block) : State := { sys with blocks := sys.blocks.map f }

/-- What Meets asks, as a computation. -/
def runs (f : Pfx) (s : State) (b : Bundle) (i : Instr) : Bool :=
  (s.taken.issuesOf f b i).isEmpty && !(s.taken.privIssue b i) && match b.threads with
    | [t] => (s.taken.waits b 0 t i).isNone && (t.tx.isNone || !(s.taken.txStops b i)) &&
      (opnds i).srcs.all fun x => !x.waits || (t.srcTrap x).isNone
    | _ => false

theorem meets_on {f : Pfx} {s : State} {o : Owner} {t : Thread} {bs : List Bundle} {i : Instr} (hb : (bs.all fun x => !(x.id == 3)) = true)
    (h : runs f (onP f s (one o t) bs) (one o t) i = true) : Meets (onP f s (one o t) bs) (gp f) (one o t) i := by
  simp only [runs, one, Bool.and_eq_true, List.isEmpty_iff, Bool.not_eq_true', Option.isNone_iff_eq_none, Bool.or_eq_true,
    List.all_eq_true] at h
  obtain ⟨⟨h1, h2⟩, ⟨h3, h4⟩, h5⟩ := h
  refine ⟨rfl, rfl, fun x hx hi => ?_, h1, h2, by simp [gp], fun l hl => ⟨t, ?_, fun _ => ?_⟩⟩
  · rcases List.mem_cons.mp hx with rfl | hx
    · rfl
    · have h6 := List.all_eq_true.mp hb x hx
      simp only [gp] at hi
      simp [hi] at h6
  · have : l = 0 := by simpa [gp] using hl
    subst this; rfl
  · have : l = 0 := by simpa [gp] using hl
    subst this
    refine ⟨h3, h4.imp id id, fun x hx hw => ?_⟩
    rcases h5 x hx with h | h
    · rw [hw] at h; cases h
    · exact h

theorem meets_all {s : State} {o : Owner} {t : Thread} {bs : List Bundle} {is : List Instr} (hb : (bs.all fun x => !(x.id == 3)) = true)
    (h : (is.all (runs .none (on s (one o t) bs) (one o t))) = true) : ∀ i ∈ is, Meets (on s (one o t) bs) g0 (one o t) i :=
  fun i hi => meets_on hb (List.all_eq_true.mp h i hi)

theorem each_one {f : Pfx} {o : Owner} {t : Thread} {P : Thread → Prop} (h : P t) : EachActive (gp f) (one o t) P := by
  intro l hl _ u hu
  have : l = 0 := by simpa [gp] using hl
  subst this
  cases hu; exact h

theorem of_some {α : Type} {o : Option α} {x : α} {P : α → Prop} (ho : o = some x) (h : P x) : ∀ k, o = some k → P k := by
  intro k hk; rw [ho] at hk; cases hk; exact h

/-- The block's thread and state that most witnesses take: w2:w3 holds 0x20000. -/
def t0 : Thread := th [(2, 0x20000)]
def b0 : Bundle := one (.block 2) t0
def s0 : State := on sys b0 []

theorem notStepping_s0 : s0.notStepping 3 := fun k hk => by
  have : some 2 = some k := hk
  cases this; rfl

/-- A list of instructions that g0 meets in s0, which does not step singly. -/
abbrev AllMeet (is : List Instr) : Prop := (∀ i ∈ is, Meets s0 g0 b0 i) ∧ s0.notStepping g0.bundle
theorem allMeet {is : List Instr} (h : is.all (runs .none s0 b0) = true) : AllMeet is := ⟨meets_all rfl h, notStepping_s0⟩

theorem witness_shortForms : AllMeet [.movH 0 31 31, .addH 1 31 0, .subH 0 0 31, .mulH 1 16 2, .andH 0 31 2, .orH 0 1 2, .xorH 0 1 2,
    .shlH 1 31 2, .shrH 0 31 2, .sarH 0 31 2, .minH 0 31 2, .maxH 0 31 2] := allMeet (by decide)
theorem witness_integers : AllMeet [.add 0 0 127 127 127, .sub 1 0 1 2 3, .and 0 0 1 2 3, .or 0 0 1 2 3, .xor 0 0 1 2 3, .andn 0 0 1 2 3,
    .addD 0 0 126 126 126, .subD 0 0 0 2 4] := allMeet (by decide)
theorem witness_shifts : AllMeet [.shl 0 0 127 127 127, .shr 0 0 1 2 3, .sar 0 0 1 2 3, .rol 0 0 1 2 3, .ror 0 0 1 2 3, .bfxz 0 0 1 2 3,
    .bfxi 0 0 1 2 3, .bfi 0 0 1 2 3] := allMeet (by decide)
theorem witness_minMax : AllMeet [.minI32 0 0 127 127 127, .maxI32 0 0 1 2 3, .minZ32 0 0 1 2 3, .maxZ32 0 0 1 2 3, .addmin 0 0 1 2 3,
    .addmax 0 0 1 2 3, .absd 0 0 1 2 3, .clamp 0 0 1 2 3] := allMeet (by decide)
theorem witness_products : AllMeet [.mullo 0 0 127 127 127, .mulhiI32 0 0 1 2 3, .mulhiZ32 0 0 1 2 3, .madlo 0 0 1 2 3, .divI32 0 0 1 2 3,
    .divZ32 0 0 1 2 3, .remI32 0 0 1 2 3, .remZ32 0 0 1 2 3] := allMeet (by decide)
theorem witness_bits : AllMeet [.popc 0 127 127, .clz 0 2 3, .ctz 0 2 3, .brev 0 2 3, .pfxp 0 0 1 2 3, .perm 0 0 1 2 3, .find 0 0 1 2 3] :=
  allMeet (by decide)
theorem witness_immediates : AllMeet [.andi 255 127 127, .ori 256 2 3, .xori 511 2 3, .shli 31 2 3, .shri 0 2 3, .sari 31 2 3, .roli 31 2 3,
    .movi 0x40000 127] := allMeet (by decide)
/-- Compares on integers, with the conditions 0 and 9, and on FP32, with 10 and 15. -/
theorem witness_compares : AllMeet [.cmp 0 0 0 127 127 0 6, .cmpi 0 3 127 64 9 0, .cmp 0 0 1 1 2 10 6, .cmpi 0 3 2 64 15 0] ∧
    (0#4).toNat < 10 ∧ (9#4).toNat < 10 ∧ 10 ≤ (10#4).toNat ∧ 10 ≤ (15#4).toNat := ⟨allMeet (by decide), by decide⟩
theorem witness_selects : AllMeet [.sel 0 0 7 127 127 127, .mke 127, .waitf 127, .nop, .setrm 3, .clrff 127, .xnext 126 2 126] :=
  allMeet (by decide)
theorem witness_singlePrecision : AllMeet [.fadd 0 0 127 127 127, .fsub 0 0 1 2 3, .fmul 0 0 1 2 3, .fmin 0 0 1 2 3, .fmax 0 0 1 2 3,
    .fabs 0 2 3, .fneg 0 2 3, .fcpys 0 0 1 2 3, .faddH 1 16 31, .fmulH 0 31 31, .fminH 0 1 2, .fmaxH 0 1 2] := allMeet (by decide)
theorem witness_fused : AllMeet [.ffma 31 127 127 127, .fma2 0 15 127 1 2, .fma2 1 0 1 2 3, .dfma 31 126 126 126, .duaddF16 0 0 1 2 3,
    .duaddBf16 0 0 1 2 3, .dumulF16 0 0 1 2 3, .dumulBf16 0 0 1 2 3, .duminF16 0 0 1 2 3, .duminBf16 0 0 1 2 3, .dumaxF16 0 0 1 2 3,
    .dumaxBf16 0 0 1 2 3] := allMeet (by decide)
theorem witness_doublePrecision : AllMeet [.dadd 0 0 126 126 126, .dsub 0 0 0 2 4, .dmul 0 0 0 2 4, .dmin 0 0 0 2 4, .dmax 0 0 0 2 4,
    .ddiv 0 0 0 2 4, .dsqrt 0 2 4, .frcp 0 2 3, .frsq 0 2 3, .fsqrt 0 2 3, .fdiv 0 0 1 2 3, .fexp2 0 2 3, .flog2 0 2 3, .fsinpi 0 2 3,
    .fcospi 0 2 3] := allMeet (by decide)
theorem witness_conversions : AllMeet [.cvt 0 0 4 11 127 126, .cvt 1 3 11 4 126 127, .cvtp 0 9 126 127, .cvtp 1 14 120 127, .cvtpEf 0 9 7 126 127] :=
  allMeet (by decide)
theorem witness_dots : AllMeet [.dot4I8 0 0 127 127 127, .dot4Z8 0 0 1 2 3, .dot8I4 0 0 1 2 3, .dot8Z4 0 0 1 2 3, .dot4D8a 0 0 1 2 3,
    .dot4D8b 0 0 1 2 3, .dot8D4 0 0 1 2 3, .dot2Bf16 0 0 1 2 3] := allMeet (by decide)

/-- ADDI after EXT, after PRED and alone. -/
theorem witness_ext : ((∀ f ∈ [Pfx.ext 0xFFFFF, .pred, .none], Meets (onP f sys b0 []) (gp f) b0 (.addi 0xFFF 127 127)) ∧
    ∀ f, (onP f sys b0 []).notStepping (gp f).bundle) := by
  refine ⟨fun f hf => ?_, fun f k hk => ?_⟩
  · simp only [List.mem_cons, List.not_mem_nil, or_false] at hf
    rcases hf with rfl | rfl | rfl <;> exact meets_on rfl (by decide)
  · have : some 2 = some k := hk
    cases this; rfl

/-- Branches and calls, and even targets of the register forms. -/
theorem witness_branches : AllMeet [.br 0x40000 1 7, .call 0x400000, .jmp 126, .callr 2, .ret 0] ∧
    EachActive g0 b0 (fun t => (t.pair (126 : BitVec 7).toNat).toNat % 2 = 0) ∧ EachActive g0 b0 (fun t => (t.pair (2 : BitVec 7).toNat).toNat % 2 = 0) :=
  ⟨allMeet (by decide), each_one (by decide), each_one (by decide)⟩

/-- An odd target, the largest. -/
theorem witness_oddTargets : let t := th [(126, 0xFFFFFFFF), (127, 0xFFFFFFFF)]
    (∀ i ∈ [Instr.jmp 126, .callr 126, .ret 126], Meets (on sys (one (.block 2) t) []) g0 (one (.block 2) t) i) ∧ g0.lanes = [0] ∧ 0 ∈ g0.active ∧
    (one (.block 2) t).threads[0]? = some t ∧ (t.pair (126 : BitVec 7).toNat).toNat % 2 = 1 :=
  ⟨meets_all rfl (by decide), rfl, by decide, rfl, by decide⟩

theorem witness_prefixes : s0.group = some g0 ∧ s0.bundle? g0.bundle = some b0 ∧ s0.issuesOf g0.pfx b0 (.pred 1 7) = [] ∧
    s0.issuesOf g0.pfx b0 (.ext 0xFFFFF) = [] := ⟨rfl, rfl, by decide, by decide⟩

/-- HALT in a privileged block whose thread is in a transaction. -/
theorem witness_haltInTransaction :
    let b := one (.block 2) { t0 with tx := some { resume := 0x10000, reg := 1, irrevocable := false } }
    let s := on (sysBlk fun k => { k with priv := true }) b []
    Meets s g0 b .halt ∧ b.owner.block? = some 2 ∧ (s.taken.thread b.id 0).tx.isSome = true := ⟨meets_on rfl (by decide), rfl, rfl⟩
/-- HALT in a privileged block. -/
theorem witness_traps : (∀ i ∈ [Instr.trapi 15, .brk, .halt], Meets (on (sysBlk fun k => { k with priv := true }) b0 []) g0 b0 i) ∧
    g0.acting ≠ [] ∧ b0.owner.block? = some 2 ∧ ∀ l, ((on (sysBlk fun k => { k with priv := true }) b0 []).taken.thread b0.id l).tx = none := by
  refine ⟨meets_all rfl (by decide), by decide, rfl, fun l => ?_⟩
  cases l <;> rfl

/-- The partition has a vector table whose entry for ALIGN, 7, leads to a handler. -/
def vectored : State := { sys with
  mem := [(0x30071, 1), (0x100000, 1), (0x100002, 0x20), (0x200000, 0x0F)]
  partitions := sys.partitions.map fun p => { p with vector := 0x30000, root := 0x100000 } }
/-- Taking a cause: one that ends the task, one without a handler, BREAK without one, ALIGN with one. -/
theorem witness_causes :
    let s := on sys b0 []
    let v := on vectored b0 []
    (∀ u ∈ [s, v], u.bundle? 3 = some b0 ∧ (u.block? 2).isSome = true) ∧ b0.owner = .block 2 ∧ b0.threads[0]? = some t0 ∧ t0.tx = none ∧
    t0.life = .live ∧ t0.conv = none ∧ t0.mid = none ∧ (s.block? 2).map (·.ending) = some .running ∧ (∀ c ∈ b0.results, ∀ x ∈ c.shares, x.lane ≠ 0) ∧ 5 ∈ [1, 2, 5] ∧
    (s.handlerPc 0 0x12 = 0 ∧ 0x12 ∉ [0x0F, 0x11]) ∧ (s.handlerPc 0 0x0F = 0 ∧ 0x0F ∈ [0x0F, 0x11]) ∧ (7 ∉ [1, 2, 5] ∧ v.handlerPc 0 7 ≠ 0) := by
  refine ⟨fun u hu => ?_, rfl, rfl, rfl, rfl, rfl, rfl, rfl, by decide, by decide, by decide, by decide, by decide⟩
  simp only [List.mem_cons, List.not_mem_nil, or_false] at hu
  rcases hu with rfl | rfl <;> exact ⟨rfl, rfl⟩

/-- A handler thread whose origin is lane 0 of bundle 4, parked with BREAK. -/
def tH : Thread := { (th [(2, 0x20000)]) with origin := some {
  bundle := 4, lane := 0, bundleIndex := 0, trap := { cause := 0x0F }, opc := 0x10000, imprecise := false, exited := false, afterAbort := false } }
def bO : Bundle := { id := 4, owner := .block 2, index := 0, core := 0, pipe := 0, threads := [{ (th []) with
  life := .parked { trap := { cause := 0x0F }, opc := 0x10000, resume := 0x10004, seq := 5, server := some (3, 0) } }] }
def bH : Bundle := one (.handler 2) tH
def sH : State := on sys bH [bO]

theorem witness_handlers : (∀ i ∈ [Instr.rett, .kill, .killb, .oreg 127 31, .owr 127 31, .opc 30], Meets sH g0 bH i) ∧
    (∀ i ∈ [Instr.regrow 16, .regshr 1], Meets sH g0 bH i) ∧ bH.isHandler = true ∧
    (EachActive g0 bH fun t => (t.pair (30 : BitVec 7).toNat).toNat % 2 = 0) ∧ (sH.block? 2).map (·.ending) = some .running ∧
    sH.thread? 3 0 = some tH ∧ (tH.origin.map (·.exited)) = some false ∧ (sH.thread? 4 0).isSome = true :=
  ⟨meets_all rfl (by decide), meets_all rfl (by decide), rfl, each_one (by decide), rfl, rfl, rfl, rfl⟩

theorem witness_specials : ∀ i ∈ [Instr.srd 0x00 127, .srd 0x20 1, .srd 0x25 1, .swr 0x20 127, .swr 0x21 1, .swr 0x24 1, .swr 0x28 1, .swr 0x29 1],
    Meets s0 g0 b0 i := meets_all rfl (by decide)

/-- Loads at the lowest and the highest offset. -/
theorem witness_loads : (∀ i ∈ [Instr.ld 0 0 0 1 127, .ld 63 7 0 1 120, .ldacqW 4 0 1 127, .ldacqD 0 0 1 126, .ldsmpW 0 0 1 127], Meets s0 g0 b0 i) ∧
    EachActive g0 b0 (fun t => t.tx = none ∧ s0.taken.accessChecks b0 0 (t.pair 2) 1 true false = []) ∧
    EachActive g0 b0 (fun t => t.tx = none ∧ s0.taken.accessChecks b0 0 (t.pair 2 + BitVec.ofNat 64 (63 * 32)) 32 true false = []) ∧
    EachActive g0 b0 (fun t => t.tx = none ∧ s0.taken.accessChecks b0 0 (t.ea 1 0#6 1) 4 true false = []) ∧
    EachActive g0 b0 (fun t => t.tx = none ∧ s0.taken.accessChecks b0 0 (t.ea 1 0#6 1) 8 true false = []) :=
  ⟨meets_all rfl (by decide), each_one (by decide), each_one (by decide), each_one (by decide), each_one (by decide)⟩

theorem witness_stores : (∀ i ∈ [Instr.st 0 0 0 1 127, .st 63 5 0 1 120, .strelW 5 0 1 127, .strelD 0 0 1 126], Meets s0 g0 b0 i) ∧
    EachActive g0 b0 (fun t => t.tx = none ∧ s0.taken.accessChecks b0 0 (t.pair 2) 1 false true = []) ∧
    EachActive g0 b0 (fun t => t.tx = none ∧ s0.taken.accessChecks b0 0 (t.pair 2 + BitVec.ofNat 64 (63 * 32)) 32 false true = []) ∧
    EachActive g0 b0 (fun t => t.tx = none ∧ s0.taken.accessChecks b0 0 (t.ea 1 0#6 1) 4 false true = []) ∧
    EachActive g0 b0 (fun t => t.tx = none ∧ s0.taken.accessChecks b0 0 (t.ea 1 0#6 1) 8 false true = []) :=
  ⟨meets_all rfl (by decide), each_one (by decide), each_one (by decide), each_one (by decide), each_one (by decide)⟩

theorem blockOf_s0 : s0.taken.blockOf b0 = sys.blocks.head? := rfl

theorem witness_fences : (∀ i ∈ [Instr.pfetch 63 0 1, .fenceX 0xFFFF, .fenceAr 0 5, .fenceSc 0xFFFF 0, .fenceEng 1 4, .stflush 1, .refetch,
      .refetchFence], Meets s0 g0 b0 i) ∧ s0.taken.stashDirty b0 = false ∧ (∀ k, s0.taken.blockOf b0 = some k → k.anyDirty = false ∧ s0.taken.blockWriting k.id = false) ∧ s0.taken.stashWriting b0 = false ∧ g0.acting ≠ [] :=
  ⟨meets_all rfl (by decide), by decide, of_some (blockOf_s0) (by decide), by decide, by decide⟩

theorem witness_atomics : (∀ i ∈ [Instr.atomAdd 0 4 0 1 127, .atomMinI32 1 0 0 1 1, .atomMaxI32 0 3 0 1 1, .atomMinZ32 0 3 0 1 1, .atomMaxZ32 0 3 0 1 1,
      .atomAnd 0 3 0 1 1, .atomOr 0 3 0 1 1, .atomXor 0 3 0 1 1, .atomExch 0 3 0 1 1, .atomCas 0 3 0 1 4, .atomIncw 0 3 0 1 1, .atomDecw 0 3 0 1 1,
      .atomFaddF32 0 3 0 1 1, .atomFminF32 0 3 0 1 1, .atomFmaxF32 0 3 0 1 1, .atomAddD 0 3 0 1 126], Meets s0 g0 b0 i) ∧
    ∀ op < 16, EachActive g0 b0 fun t => s0.taken.atomChecks g0 b0 op 3 0 (t.ea 1 0#6 1) = [] :=
  ⟨meets_all rfl (by decide), fun op h => each_one ((by decide : ∀ op < 16, s0.taken.atomChecks g0 b0 op 3 0 (t0.ea 1 0#6 1) = []) op h)⟩

/-- TXB below the abort limit, at 7 of 8; TXE and TXA in a transaction. -/
theorem witness_transactions :
    let t7 : Thread := { t0 with aborts := 7 }
    let tx : Thread := { t0 with tx := some { resume := 0x10000, reg := 1, irrevocable := false } }
    let b7 := one (.block 2) t7
    let bx := one (.block 2) tx
    (Meets (on sys b7 []) g0 b7 (.txb 127) ∧ (on sys b7 []).taken.stashDirty b7 = false ∧
      EachActive g0 b7 fun t => t.aborts < (((on sys b7 []).taken.blockOf b7).map (·.txlim)).getD 8) ∧
    (∀ i ∈ [Instr.txe, .txa 127], Meets (on sys bx []) g0 bx i) ∧ EachActive g0 bx (fun t => t.tx.isSome = true) ∧
    ∀ l ∈ g0.acting, (on sys bx []).taken.losesInGroup bx.id l g0.acting = false :=
  ⟨⟨meets_on rfl (by decide), by decide, each_one (by decide)⟩, meets_all rfl (by decide), each_one rfl, by decide⟩

theorem witness_futures : (∀ i ∈ [Instr.fput 127 2 127, .fputt 1 2 3, .fget 2 127], Meets s0 g0 b0 i) ∧
    EachActive g0 b0 fun t => s0.taken.globalChecks b0 0 (t.pair (2 : BitVec 7).toNat) 8 true true 8 = [] := ⟨meets_all rfl (by decide), each_one (by decide)⟩

/-- Object requests of a block thread, and a reply of a combiner lane. -/
theorem witness_objects :
    let o : Obj := { id := 7, desc := 0x20000, partition := 0, die := 0, method := 0x10000, stateAddr := 0, stateLen := 0, args := 4, replies := 4
                     capacity := 1, gather := 1, codeLen := 4 }
    let k : Block := { id := 9, task := 0, core := 0, order := 0, nthreads := 1, allot := 32, spadSize := 0, streams := defaultStreams }
    let s : State := { sys with objects := [o], waves := [{ id := 8, obj := 7, bundle := 3, calls := [], blk := k }] }
    let b := one (.wave 8) t0
    (∀ i ∈ [Instr.callo 124 2 120, .objreg 2 127, .objrst 2 127], Meets s0 g0 b0 i) ∧
    (EachActive g0 b0 fun t => s0.taken.globalChecks b0 0 (t.pair (2 : BitVec 7).toNat) 64 true true 64 = []) ∧
    Meets (on s b []) g0 b (.crply 127 28) ∧
    EachActive g0 b fun t => ∀ o, (on s b []).taken.waveObj b = some o → t.reply = none ∧ t.srcTrap { reg := (28 : BitVec 7).toNat, n := o.replies } = none :=
  ⟨meets_all rfl (by decide), each_one (by decide), meets_on rfl (by decide), each_one (of_some rfl ⟨rfl, by decide⟩)⟩

/-! Blocks, barriers, buffers and engines. -/

/-- A block with a ring of eight slots, the first of them taken, on core 0. -/
def ringed (f : Block → Block) : State := { sysBlk f with cores := sys.cores.modify 0 fun c => { c with
  ringHolder := some 2, slotCode := 0, slots := some (16, 16, 4, 0) :: List.replicate 7 none } }
theorem witness_waits : ∀ s ∈ [on (ringed id) b0 []], (∀ i ∈ [Instr.barWait 1 7, .acwait 7, .mwait 15, .mwait 7, .pwait 15, .pwait 7], Meets s g0 b0 i) ∧
    7 < (s.taken.core b0.core).slots.length := by
  intro s hs
  simp only [List.mem_cons, List.not_mem_nil, or_false] at hs
  subst hs
  exact ⟨meets_all rfl (by decide), by decide⟩

/-- Arrivals at block barriers, first ones and one after others on the same network; the largest sum of pending operations. -/
theorem witness_barriers :
    let s := on (sysBlk fun k => { k with bars := List.replicate 7 {} ++ [{ arrivals := [(1, 0)], network := some 0, pending := 0xFFFDFFFF }] }) b0 []
    (∀ i ∈ [Instr.barArr 0 7, .barSync 1 7, .barChk 0 0, .barAddb 0 7 2], Meets s g0 b0 i) ∧
    (∀ q ∈ [0, 7], ∃ k, s.taken.blockOf b0 = some k ∧ ((k.bars.getD q {}).arrivals = [] ∨ (k.bars.getD q {}).network = some 0)) ∧
    (s.taken.bar b0 7).pending + (g0.acting.map fun l => ((s.taken.thread b0.id l).val 2).toNat).sum = 2 ^ 32 - 1 :=
  ⟨meets_all rfl (by decide), fun q hq => by
    simp only [List.mem_cons, List.not_mem_nil, or_false] at hq
    rcases hq with rfl | rfl <;> exact ⟨_, rfl, by decide⟩, by decide⟩

/-- An arrival on the pod's network whose running phase has the count of the barrier's word. -/
theorem witness_networkBarriers :
    let s := on { sysBlk (fun k => { k with bars := {} :: { word := 2 } :: List.replicate 6 {} }) with
      nets := [{ partition := 0, network := 5, bar := 1, number := 0, count := 2, arrived := [] }] } b0 []
    Meets s g0 b0 (.barArr 5 1) ∧ ∃ k, s.taken.blockOf b0 = some k ∧ (k.bars.getD 1 {}).arrivals = [] ∧
      s.taken.countDiffers k 5 1 = false :=
  ⟨meets_on rfl (by decide), _, rfl, rfl, by decide⟩

/-- A buffer whose four slots are free, reserved, filled and claimed. -/
theorem witness_buffers :
    let s := on (sysBlk fun k => { k with bufs := List.replicate 7 none ++ [some {
      cluster := false, base := 0, count := 4, size := 32, free := 1, reserved := 1, filled := 1, claimed := 1 }] }) b0 []
    (∀ i ∈ [Instr.cbpush 7 127, .cbcmt 7, .cbwait 7 127, .cbpop 7], Meets s g0 b0 i) ∧ g0.acting ≠ [] ∧
    ∃ hk hq u, (s.taken.blockOf b0).bind (s.taken.bufRef · 7) = some (hk, hq, u) ∧ u.free ≠ 0 ∧ u.reserved ≠ 0 ∧ u.filled ≠ 0 ∧ u.claimed ≠ 0 :=
  ⟨meets_all rfl (by decide), by decide, 2, 7, _, rfl, by decide⟩

/-- EXIT in a block thread and in a handler; SETSTRM with a word that R142 allows. -/
theorem witness_control :
    let t := th [(2, 0x0000000C)]
    let b := one (.block 2) t
    let s := on sys b []
    (∀ i ∈ [Instr.exit, .cont 126, .yield, .setprg 127, .setstrm 14 2], Meets s g0 b i) ∧ b.isHandler = false ∧ Meets sH g0 bH .exit ∧
    bH.isHandler = true ∧ g0.acting ≠ [] ∧ s.taken.streamBusy b 14 = false ∧
    (∀ k, s.taken.blockOf b = some k → k.drains.find? (·.1 == 14) = none) ∧ EachActive g0 b fun t => streamWordOk (t.val 2) = true :=
  ⟨meets_all rfl (by decide), rfl, meets_on rfl (by decide), rfl, by decide, by decide, of_some rfl rfl, each_one (by decide)⟩

/-- The largest register request; a record for node 0xFF of die 0; an enqueue whose descriptor lies at 0x20000, its packet at 0x20040. -/
theorem witness_requests :
    let n : WNode := { id := 9, die := 0, index := 255, partition := 0, words := 64, timer := 0, program := {}, xlat := [], installed := true }
    let t := th [(2, 0x20000), (4, 255)]
    let b := one (.block 2) t
    let s := on { sys with wnodes := [n], mem := [(0x20018, 0x40), (0x2001A, 2)] } b []
    (∀ i ∈ [Instr.regrow 16, .regshr 16, .wrec 4 64, .pwenq 2 127], Meets s g0 b i) ∧ 8 * (16 : BitVec 7).toNat ≤ 128 ∧
    (EachActive g0 b fun t => (s.taken.wnodeAt (dieOf b.core) (t.val 4)).isSome = true) ∧
    EachActive g0 b fun t => enqueueChecks 2 s.taken g0 b 0 t = [] :=
  ⟨meets_all rfl (by decide), by decide, each_one (by decide), each_one (by decide)⟩

theorem witness_collectives : ∀ i ∈ [Instr.rcv, .lgetIdx 0 0 127 127 127, .lgetUp 0 0 1 2 3, .lgetDn 0 0 1 2 3, .lgetXor 0 0 1 2 3, .ballot 0 2 3,
    .redAddI32 0 2 3, .scanAddI32 0 2 3, .redMinI32 0 2 3, .mfrag 4 16 8 32], Meets s0 g0 b0 i := meets_all rfl (by decide)

/-- A copy of all 32 bytes that also counts on barrier 0, which has room for exactly one more; a buffer copy that takes the last of
16 places. -/
theorem witness_copies :
    let c : AcbCmd := { id := 9, block := 2, bundle := 3, lane := 0, stream := 0, pc := 0, src := 0x20000, left := 64, buf := 0, tag := 0, b := false, desc := [] }
    let t := th [(2, 0x20000), (4, 0x20000), (6, 64), (8, 32)]
    let b := one (.block 2) t
    let s := on { sysBlk (fun k => { k with
      bars := { pending := 0xFFFFFFDF } :: List.replicate 7 {}
      bufs := List.replicate 7 none ++ [some { cluster := false, base := 0, count := 4, size := 32, free := 4 }] }) with acbs := List.replicate 15 c } b []
    (∀ i ∈ [Instr.acp 1 0 7 8 1 127, .acb 7 4], Meets s g0 b i) ∧ s.taken.pending0 b + 32 * g0.acting.length = 2 ^ 32 - 1 ∧
    (EachActive g0 b fun x => s.taken.copyChecks b 0 (x.pair 2) (min (x.val 8).toNat 32) = [] ∧ (x.val 127).toNat % 32 = 0) ∧
    s.taken.acbCount b.core + g0.acting.length = 16 ∧
    EachActive g0 b fun t => ((t.vals 4 4).getD 3 0).toNat / 256 = 0 ∧
      s.taken.copyChecks b (bits ((t.vals 4 4).getD 3 0).toNat 3 0) (t.pair 4) ((t.vals 4 4).getD 2 0).toNat = [] :=
  ⟨meets_all rfl (by decide), by decide, each_one (by decide), by decide, each_one (by decide)⟩

/-- A 16 by 16 tile of i8 with K 64 at the head slot; a sparse tile of bf16 at 0x20000; a drain of slot 0 to the same place. -/
theorem witness_tiles :
    let t := th [(16, 0x8010), (17, 64), (18, 28), (19, 28), (20, 0x400), (21, 15),
      (24, 0x8040), (25, 64), (27, 28), (28, 0xA99), (29, 15), (30, 0x20000), (32, 0x400), (33, 0x40), (34, 0x20000)]
    let b := one (.block 2) t
    let s := on (ringed fun k => { k with spadSize := 8192 }) b []
    (∀ i ∈ [Instr.mtile 16, .mspt 24, .mring 2, .part 32], Meets (if i = .mring 2 then s0 else s) g0 (if i = .mring 2 then b0 else b) i) ∧
    (EachActive g0 b fun t => tileChecks false 16 s.taken g0 b 0 t = []) ∧ (EachActive g0 b fun t => tileChecks true 24 s.taken g0 b 0 t = []) ∧
    g0.acting ≠ [] ∧ b.owner = .block 2 ∧ (s.taken.parts.filter (·.core == b.core)).length + g0.acting.length ≤ 16 ∧
    EachActive g0 b fun t => partChecks 32 s.taken g0 b 0 t = [] := by
  refine ⟨fun i hi => ?_, each_one (by decide), each_one (by decide), by decide, rfl, by decide, each_one (by decide)⟩
  simp only [List.mem_cons, List.not_mem_nil, or_false] at hi
  rcases hi with rfl | rfl | rfl | rfl <;> exact meets_on rfl (by decide)

/-- A monitor's first configuration as the last of 16 engines, its removal, and a configured monitor. -/
theorem witness_monitors :
    let d : List (Nat × Word) := [(4, 0x00020001), (5, 0x1000), (6, 0x20000)]
    let m : Monitor := { off := 0, carry := false, ty := 0, rs := 2, mask := 1, length := 4096, base := 0x20000, q := 0 }
    let x : Block := { id := 7, task := 1, core := 0, order := 1, nthreads := 1, allot := 128, spadSize := 0, streams := defaultStreams, mons := List.replicate 4 (some m) }
    let y : Block := { x with id := 8, mons := List.replicate 3 (some m) ++ [none] }
    let b := one (.block 2) (th d)
    let s := on { sys with blocks := sys.blocks ++ [x, x, x, y] } b []
    let z := on (sysBlk fun k => { k with mons := [none, none, none, some m] }) b []
    Meets s g0 b (.calcfg 3 4) ∧ s.taken.enginesUsed b.core = 15 ∧ Meets s g0 b (.calcfg 3 8) ∧
    (∀ i ∈ [Instr.calref 3 126, .calbnd 3 2, .calrd 7 3 126, .mtok 127], Meets z g0 b i) ∧ g0.acting ≠ [] ∧
    (let ws := (s.taken.thread g0.bundle (highest g0.acting)).vals 4 4
     calLen ws ≠ 0 ∧ calBad ws = none) ∧ calLen ((s.taken.thread g0.bundle (highest g0.acting)).vals 8 4) = 0 ∧
    ((z.taken.blockOf b).bind fun x => x.mons.getD 3 none).isSome = true :=
  ⟨meets_on rfl (by decide), by decide, meets_on rfl (by decide), meets_all rfl (by decide), by decide, by decide, by decide, rfl⟩

/-- Also a map over a line that is clean, through which no access goes. -/
theorem witness_stash :
    let m : StashMap := { id := 5, window := 64, length := 64, base := 0x20000, lines := [{ idx := 0, state := .clean }] }
    let b := one (.block 2) (th [(126, 0x20000)])
    let s := on (sysBlk fun k => { k with maps := [m], spadSize := 128 }) b []
    (∀ i ∈ [Instr.carvinv 2, .stmap 4 127, .stunmap 126], Meets s0 g0 b0 i) ∧
    (EachActive g0 b0 fun t => s0.taken.globalChecks b0 0 (t.pair 2) 704 true false 64 = []) ∧ Meets s g0 b (.stunmap 126) ∧
    (∀ k, s.taken.blockOf b = some k → k.mapAt 0x20000 = some m ∧ ∀ m ∈ k.maps, (∀ x ∈ m.lines, x.state ≠ .dirty) ∧
      ∀ r ∈ s.taken.reqs, r.viaMap k.id m.id = false ∧ ∀ x y z w, r.kind ≠ .writeback k.id m.id x y z w) := by
  refine ⟨meets_all rfl (by decide), each_one (by decide), meets_on rfl (by decide), of_some rfl ⟨by decide, fun m hm => ⟨?_, fun _ hr => absurd hr List.not_mem_nil⟩⟩⟩
  cases List.mem_singleton.mp hm; decide

/-- A node with four children, boxes of four bytes, in each sweep; the last word of the inbox, of a child's box and of each outbox. -/
theorem witness_nodes :
    let nd (sweep : Nat) : Block → Block := fun k => { k with node := some { grid := 11, index := 0, fields := List.replicate 16 4, sweep := sweep, billet := 0 } }
    let b := one (.block 2) (th [(6, 12), (8, 0x3000)])
    let u := on (sysBlk (nd 1)) b []
    let d := on (sysBlk (nd 2)) b []
    (∀ i ∈ [Instr.nodeRd 15 127, .nodeIn 6 127, .nodeUp 4 127], Meets u g0 b i) ∧ (∀ i ∈ [Instr.nodeIn 4 127, .nodeDn 8 127], Meets d g0 b i) ∧
    (u.taken.nodeSweep b = 1 ∧ u.taken.nodeSweep b ≠ 3 ∧ d.taken.nodeSweep b = 2) ∧
    (EachActive g0 b fun t => (t.val 6).toNat % 4 = 0 ∧ (t.val 6).toNat < u.taken.nodeField b 3 * u.taken.nodeField b 5) ∧
    (EachActive g0 b fun t => (t.val 4).toNat % 4 = 0 ∧ (t.val 4).toNat < d.taken.nodeField b 14) ∧
    (EachActive g0 b fun t => (t.val 4).toNat % 4 = 0 ∧ (t.val 4).toNat < u.taken.nodeField b 13) ∧
    EachActive g0 b fun t => let w := (t.val 8).toNat
      w % 4096 % 4 = 0 ∧ w % 4096 < d.taken.nodeField b 6 ∧ w / 4096 < d.taken.nodeField b 3 :=
  ⟨meets_all rfl (by decide), meets_all rfl (by decide), by decide, each_one (by decide), each_one (by decide), each_one (by decide), each_one (by decide)⟩

/-! Events. -/

/-- The package with bundle 3 and no issue group. -/
def ev : State := { sys with bundles := [b0] }
/-- A request of lane 0 of bundle 3. -/
def rq (k : ReqKind) (p : Phase) (pl : Place) : Req :=
  { id := 9, entry := 9, core := 0, bundle := 3, lane := 0, stream := 0, kind := k, place := pl, ea := 0x20000, size := 4, pc := 0x10000, phase := p }
def evReq (k : ReqKind) (p : Phase) (pl : Place) : State := { ev with reqs := [rq k p pl] }
/-- Memory whose page table maps the first 64 GiB to itself, but the page at 0x50000 by a leaf of its own. -/
def paged (s : State) : State := { s with
  mem := [(0x100000, 1), (0x100002, 0x20), (0x200000, 0x01), (0x200002, 0x30), (0x300000, 0x01), (0x300002, 0x40), (0x400010, 0x0F), (0x400012, 2),
    (0x400028, 0x0F), (0x40002A, 5)]
  partitions := s.partitions.map fun p => { p with root := 0x100000, zoneBase := 0x600000, zoneSize := 32768 } }

theorem witness_requestEvents :
    (∀ k ∈ [ReqKind.load 4 127 none 0, .store [0] none], ∀ p ∈ [Phase.issued, .sent], (evReq k p (.mem 0x20000)).req? 9 = some (rq k p (.mem 0x20000)) ∧
      (rq k p (.mem 0x20000)).arrived = false ∧ (rq k p (.mem 0x20000)).resend = none ∧
      ((evReq k p (.mem 0x20000)).part ((evReq k p (.mem 0x20000)).partAt 3)).det = false) ∧
    ({ rq (.load 4 127 none 0) .issued (.mem 0x20000) with resend := some 0 } : Req).resend = some 0 ∧ 0 ≤ ev.clk ∧
    (evReq (.load 4 127 none 0) .issued (.peer 511 0x20000)).inOrder (rq (.load 4 127 none 0) .issued (.peer 511 0x20000)) = true ∧
    (({ ev with clk := 16 } : State).core 639).tick + 16 ≤ ({ ev with clk := 16 } : State).clk :=
  ⟨by decide, rfl, by decide, by decide, by decide⟩

/-- A stash line to fill, and a clean one to recall. -/
theorem witness_stashEvents :
    let m (ls : List StashLine) : StashMap := { id := 5, window := 64, length := 64, base := 0x20000, lines := ls }
    let u : State := { sysBlk (fun k => { k with maps := [m []], spadSize := 128 }) with bundles := [b0], reqs := [rq (.load 4 127 none 0) .issued (.stash 2 5 64 0x20000)] }
    let v : State := { sysBlk (fun k => { k with maps := [m [{ idx := 0, state := .clean }]] }) with bundles := [b0] }
    (u.block? 2).isSome = true ∧ u.stashMap 2 5 = some (m []) ∧ (u.task? 1).isSome = true ∧
    translate [{ va := 0x20000, pa := 0x20000, len := 0x10000 }] ((m []).base + 64 * 0) = some 0x20000 ∧ u.stashUsable 0 0x20000 none ((m []).lineAt ((m []).window + 64 * 0)) = false ∧
    (u.reqs.any fun r => match r.place with
      | .stash b q off _ => b == 2 && q == 5 && (off - (m []).window) / 64 == 0
      | _ => false) = true ∧ u.writingBack 2 5 0 = false ∧ u.lineHeld (0x20000 / 64) (0, 64) false = false ∧
    (v.block? 2).isSome = true ∧ (v.stashMap 2 5).isSome = true ∧
    ((v.stashMap 2 5).map fun m => (m.lineAt (m.window + 64 * 0)).state) = some .clean := by decide

/-- A COPY packet of a line at 0x20000 before and after it registers it; an ACP that may complete. -/
theorem witness_engineEvents :
    let c (ls : List Nat) : CopyCmd := { id := 9, block := 0, bundle := 0, lane := 32, stream := 0, pc := 0, src := 0x50000, valid := 64, off := 0, tag := 0, b := false
                                         packet := some (0x20000, 64, 4), lines := ls }
    let a : CopyCmd := { id := 9, block := 2, bundle := 3, lane := 0, stream := 0, pc := 0, src := 0x20000, valid := 32, off := 0, tag := 0, b := false }
    let u : State := { paged ev with copies := [c []] }
    let v : State := { paged ev with copies := [c [0x800]] }
    let w : State := { ev with copies := [a] }
    (u.engineLines 9).1.find? (fun ln => !((u.engineLines 9).2.1.contains ln)) = some 0x800 ∧ u.lineHeld 0x800 (0, 64) true = false ∧
    (∀ r ∈ u.reqs, r.held.isSome = true → r.place.line ≠ some 0x800) ∧ (∀ x ∈ u.heldStores, ∀ y ∈ x.bytes, y.1 / 64 ≠ 0x800) ∧
    (v.engineLines 9).2.1.find? (fun ln => !((v.engineLines 9).2.2.contains ln)) = some 0x800 ∧ (v.engineData 9 0x800).isSome = true ∧
    w.copies.find? (fun c => c.id == 9 && c.packet.isNone) = some a ∧ w.bundle? a.bundle = some b0 ∧
    w.storesBefore a.bundle a.lane a.stream a.id = false ∧ a.peer = none ∧ (a.valid = 0 ∨ w.engineHeld (dieOf b0.core) a.src = false) ∧ a.b = false := by decide

/-- A dense tile command on core 0, and a sparse one of bf16 at 0x20000 whose program has no value, bound as a number says, with K 64 and
its expansion area at the scratchpad's start. -/
def tile (sparse : Bool) (bind : Nat) : Tile :=
  { id := 9, block := 2, bundle := 3, lane := 0, core := 0, pc := 0, sparse := sparse, cost := 2560, order := 9, bind := bind, pa := 0x20000
    words := [0x8040, 64, 0, 28, 0xA99, 15, 0x20000, 0], granted := true, issued := true, slots := [0], program := List.replicate 704 0 }
def evTile (x : Tile) : State := { ev with tiles := [x] }

/-- Two groups of tile commands that wait for tokens, the first of which needs all that die 0 has; one that ends: dense, failed, bound sparse,
and bound dense before and after its area is written. -/
theorem witness_tileEvents :
    let x (id n : Nat) : Tile := { tile false 0 with id := id, cost := 1280, order := n, granted := false, issued := false }
    let q : State := { ev with tiles := [x 7 1, x 8 1, x 9 2], dies := ev.dies.modify 0 fun d => { d with tokenQueue := [7, 8, 9] } }
    let w (xs : List Nat) : Tile := { tile true 3 with landed := xs }
    let a := (tile true 3).areaWords
    ((q.die 0).tokenQueue = [7, 8, 9] ∧ q.tiles.find? (·.id == 7) = some (x 7 1) ∧ (q.die 0).free = 2560 ∧
      ((q.tiles.filter fun y => (q.die 0).tokenQueue.contains y.id && y.order == 1 && y.bundle == 3).map (·.cost)).foldl (· + ·) 0 = 2560) ∧
    (∀ t ∈ [tile false 0, tile true 5, tile true 2, w [], w a], (evTile t).tiles.find? (·.id == 9) = some t ∧
      (evTile t).bundle? t.bundle = some b0 ∧ (evTile t).tileMayEnd t = true ∧ (evTile t).valuesHeld b0 t = false) ∧
    ((w []).areaWords.filter fun j => !((w []).landed.contains j)) ≠ [] ∧ ((w a).areaWords.filter fun j => !((w a).landed.contains j)) = [] := by
  refine ⟨by decide, fun t ht => ?_, by decide, List.filter_eq_nil_iff.mpr fun j hj => ?_⟩
  rotate_left
  · have : (tile true 3).areaWords.contains j = true := List.contains_iff_mem.mpr hj
    rw [show _ = true from this]; decide
  · simp only [List.mem_cons, List.not_mem_nil, or_false] at ht
    rcases ht with rfl | rfl | rfl | rfl | rfl <;> exact ⟨rfl, rfl, rfl, rfl⟩

/-- An MSPT that reaches the Carver: with its tile's compile under way, with a program there, and with no entry; a compile that ends on type
255, and one on a tile of 4,096 zero elements. -/
theorem witness_carverEvents :
    let e : CarverEntry := { id := 6, die := 0, pa := 0x20000, lines := [0x800] }
    let t (es : List CarverEntry) : State := { evTile (tile true 0) with carver := es }
    let c (n : Byte) : State := { t [e] with mem := [(0x20000, n)], tiles := [tile true 1] }
    let st (s : State) : List Byte := e.lines.flatMap s.structLine
    ((t [e]).tiles.find? (·.id == 9) = some (tile true 0) ∧ (t [e]).bundle? 3 = some b0 ∧ (tile true 0).resend = none ∧
      ∀ x ∈ (t [e]).tiles, x.sparse = true → x.issued = true → x.bind = 0 → x.core = 0 → 9 ≤ x.order) ∧
    ((t [e]).carverAt 0 0x20000 = some e ∧ e.compiling = true) ∧
    ((t [{ e with compiling := false }]).carverAt 0 0x20000 = some { e with compiling := false }) ∧
    ((t []).carverAt 0 0x20000 = none ∧ (t []).entriesUsed 0 < 2048) ∧
    (∀ n ∈ [(255 : Byte), 14], (c n).carver.find? (·.id == 6) = some e ∧ ∀ ln ∈ e.lines, ((c n).line ln).owner = none ∧ ((c n).line ln).lock = none) ∧
    sbFails (st (c 255)) = some 1 ∧ sbFails (st (c 14)) = none ∧
    (c 14).opsHeld e.die + (if sbDense (st (c 14)) e.threshold then 0 else sbOps (st (c 14))) ≤ 2 ^ 20 := by decide

/-- A PART with nothing before it whose one destination line is written, and one to the scratchpad. -/
theorem witness_partEvents :
    let p : PartCmd := { id := 9, block := 2, bundle := 3, lane := 0, core := 0, pc := 0, words := [0x400, 0x40, 0x20000, 0, 0, 0, 0, 0], slot := 0, order := 9
                         shape := (1, 16, 4), lines := [0x800], written := [0x800], wts := 1 }
    let l : PartCmd := { p with words := [0x2400, 0x40, 0, 0, 0, 0, 0, 0], lines := [], written := [] }
    let u (p : PartCmd) : State := { ev with parts := [p] }
    (∀ x ∈ [p, l], (u x).parts.find? (·.id == 9) = some x ∧ (u x).bundle? x.bundle = some b0 ∧ (u x).partMayRun b0 x = true ∧ (u x).engineWritten 9 = true) ∧
    (u p).engineLines 9 = ([0x800], [0x800], [0x800]) ∧ (p.spadWords.filter fun w => !(p.landed.contains w)) = [] ∧
    (l.spadWords.filter fun w => !(l.landed.contains w)) ≠ [] := by
  refine ⟨fun x hx => ?_, by decide, by decide, by decide⟩
  simp only [List.mem_cons, List.not_mem_nil, or_false] at hx
  rcases hx with rfl | rfl <;> exact ⟨rfl, rfl, by decide, by decide⟩

/-- A buffer copy that reserves the last slot and then commits it; blocks that have sent to the die's and to the pod's barrier network, each the
first of two. -/
theorem witness_slotAndNetwork :
    let c (i : Option Nat) : AcbCmd := { id := 9, block := 2, bundle := 3, lane := 0, stream := 0, pc := 0, src := 0x20000, left := 64, buf := 7, tag := 0
                                         b := false, desc := [], slot := i }
    let q (n : Nat) : Buf := { cluster := false, base := 0, count := 1, size := 64, free := n, reserved := 1 - n }
    let u (i : Option Nat) (n : Nat) : State := { sysBlk (fun k => { k with bufs := List.replicate 7 none ++ [some (q n)] }) with bundles := [b0], acbs := [c i] }
    let v (n : Nat) : State := { sysBlk (fun k => { k with bars := { sent := true, network := some n, word := 2 } :: List.replicate 7 {} }) with bundles := [b0] }
    (∀ x ∈ [(none, 1), (some 0, 0)], (u x.1 x.2).acbs.find? (·.id == 9) = some (c x.1) ∧ (u x.1 x.2).bundle? 3 = some b0 ∧
      ((u x.1 x.2).block? 2).bind ((u x.1 x.2).bufRef · 7) = some (2, 7, q x.2)) ∧
    ((u none 1).acbFirst (c none) 2 7 = true ∧ (q 1).free ≠ 0) ∧
    ((q 0).oldest = 0 ∧ (u (some 0) 0).storesBefore 3 0 0 9 = false ∧ (c (some 0)).left ≤ (q 0).size ∧
      ∀ j < ((c (some 0)).left + 63) / 64 + 1, ∀ pa,
        (u (some 0) 0).globalPlace b0 0 (BitVec.ofNat 64 (min (0x20000 + 64 * j) (0x20000 + 64 - 1))) = .mem pa →
          (u (some 0) 0).engineHeld (dieOf b0.core) pa = false) ∧
    (∀ n ∈ [3, 5], ((v n).block? 2).map (fun k => ((k.bars.getD 0 {}).sent, (k.bars.getD 0 {}).network, (v n).net? ((v n).netName k n 0))) =
      some (true, some n, none)) := by
  refine ⟨by decide, by decide, ⟨by decide, by decide, by decide, fun j hj pa h => ?_⟩, by decide⟩
  have : j = 0 ∨ j = 1 := by simp only at hj; omega
  rcases this with rfl | rfl <;> cases h <;> decide

/-- A yield that ends by the clock; a commit to validate, of an irrevocable transaction and of one whose line still reads as it did; a commit
that ends, failed and not; a turn to give; a future's operation, an answer that traps and one that does not; a reply. -/
theorem witness_threadEvents :
    let x (i : Bool) (c : Option Word) : Tx := { resume := 0x10000, reg := 1, irrevocable := i, reads := [{ line := 0x800, bytes := [(0, 0)] }]
                                                 writes := [{ line := 0x801, bytes := [(63, 1)] }], commit := some c }
    let u (t : Thread) : State := { ev with bundles := [one (.block 2) t] }
    let f : Phase → State := fun p => evReq (.future 5 127 0) p (.mem 0x20000)
    let d : State := { ev with dies := ev.dies.modify 3 fun d => { d with turnQueue := [(3, 0)] } }
    (((u { t0 with yield := some { until_ := 0, others := [4] } }).thread 3 0).yield.map (·.until_)) = some 0 ∧
    (∀ i ∈ [true, false],
      let s := u { t0 with tx := some (x i none) }
      (s.thread 3 0).tx = some (x i none) ∧ (∀ r ∈ s.reqs, r.of 3 0 = true → r.tx = false) ∧
      (∀ ln ∈ (x i none).allLines, (s.line ln).owner = none ∧ (s.line ln).lock = none ∧ (s.line ln).irr = []) ∧
      (∀ ln ∈ (x i none).writeLines, s.compileHolds ln = false) ∧ ∀ ln ∈ (x false none).allLines, s.slice (3, 0) (x false none) ln = 0) ∧
    (∀ c ∈ [0x00010000, 0], (((u { t0 with tx := some (x false (some c)) }).thread 3 0).tx.bind (·.commit)) = some (some c)) ∧
    (d.die 3).turnQueue = [(3, 0)] ∧ (d.die 3).turn = none ∧
    ((f .issued).anyBundle 3 = some b0 ∧ (f .issued).reaches (rq (.future 5 127 0) .issued (.mem 0x20000)) = true ∧
      (f .issued).inOrder (rq (.future 5 127 0) .issued (.mem 0x20000)) = true ∧
      (f .issued).mustHold (rq (.future 5 127 0) .issued (.mem 0x20000)) 0x800 true = false) ∧
    (∀ a ∈ [[1, 2], [0, 2]], ((f (.done 1 0 0 a)).req? 9).map (·.phase) = some (.done 1 0 0 a)) ∧ [1, 2].getD 0 0 = 1 ∧ [0, 2].getD 0 0 ≠ 1 ∧
    ((evReq (.call 120 []) (.done 1 0 0 [0, 1, 2, 3, 4]) (.mem 0x20000)).req? 9).map (·.phase) = some (.done 1 0 0 [0, 1, 2, 3, 4]) := by
  refine ⟨by decide, fun i hi => ?_, fun c _ => rfl, by decide, by decide, by decide, fun a _ => rfl, by decide, by decide, by decide⟩
  rcases List.mem_cons.mp hi with rfl | hi
  · exact ⟨rfl, fun _ hr => absurd hr List.not_mem_nil, by decide, by decide, by decide⟩
  · cases List.mem_singleton.mp hi; exact ⟨rfl, fun _ hr => absurd hr List.not_mem_nil, by decide, by decide, by decide⟩

/-- Object requests at their home, with no object there and with one that has room for one call more; a wave that is due, one that has
ended, one that aborts. -/
theorem witness_objectEvents :
    let o : Obj := { id := 7, desc := 0x20000, partition := 0, die := 0, method := 0x10000, stateAddr := 0, stateLen := 0, args := 4, replies := 4
                     capacity := 1, gather := 0, codeLen := 4 }
    let k : Block := { id := 6, task := 0, core := 0, order := 0, nthreads := 1, allot := 32, spadSize := 0, streams := defaultStreams }
    let c : Call := { id := 5, obj := 7, req := 9, core := 0, args := [0, 0, 0, 0], arrived := 0 }
    let wv (ab : Option (Nat × Trap × DWord)) : Wave := { id := 8, obj := 7, bundle := 4, calls := [c], blk := k, abort := ab }
    let r (kd : ReqKind) : Req := rq kd .issued (.mem 0x20000)
    let s (kd : ReqKind) : State := evReq kd .issued (.mem 0x20000)
    let d : State := { ev with objects := [o], calls := [c], dies := ev.dies.modify 0 fun d => { d with combinerCores := [159] } }
    let w (ab : Option (Nat × Trap × DWord)) : State := { ev with
      objects := [o], waves := [wv ab], bundles := [b0, { one (.wave 8) { t0 with life := .exited } with id := 4 }] }
    (∀ kd ∈ [ReqKind.object false 127, .object true 127, .call 120 []], (s kd).req? 9 = some (r kd) ∧ (s kd).anyBundle 3 = some b0 ∧
      (s kd).clampReady (r kd) = true ∧ (s kd).allPerformed b0 0 4 0 (some 9) = true ∧ (s kd).mustHold (r kd) (0x20000 / 64) true = false ∧
      (s kd).objectAt 0x20000 = none) ∧
    (({ s (.call 120 []) with objects := [o] } : State).objectAt 0x20000 = some o ∧ o.broken = false ∧
      ({ s (.call 120 []) with objects := [o] } : State).entriesOf 7 < o.capacity ∧ ({ s (.call 120 []) with objects := [o] } : State).entriesIn 0 < 16384) ∧
    (d.objects = [o] ∧ o.id = 7 ∧ d.waveDue o = true ∧ (∀ x ∈ d.waves, x.bundle ≠ 0 ∧ x.id ≠ d.fresh) ∧
      ((d.die o.die).combinerCores.find? fun c => decide ((d.bundles.filter fun b => b.core == c && b.isWave).length < 2)) = some 159) ∧
    (∀ ab ∈ [none, some (31, ({ cause := 3 } : Trap), (0x10000 : DWord))], (w ab).waves.find? (·.id == 8) = some (wv ab) ∧ ((w ab).bundle? 4).isSome = true ∧
      (((w ab).bundle? 4).map fun b => b.threads.all fun t => t.life == .exited) = some true ∧ (w ab).objects.find? (·.id == 7) = some o ∧
      (w ab).waveQuiet (wv ab) = true ∧ (w ab).lineHeld (o.desc / 64) (0, 64) true = false) := by decide

/-- A task to admit to the last core, a block that has ended, register requests to grant and to settle, a parked lane that has waited 16 clocks,
a failed peer store. -/
theorem witness_blockEvents :
    let rdy : State := { sys with tasks := sys.tasks.map fun t => { t with phase := .ready }, blocks := [], bundles := [] }
    let gone : State := { sys with bundles := [] }
    let ask (shed : Bool) (v : Nat) : State := { sysBlk (fun k => { k with allot := 64, request := some { shed := shed, value := v, order := 0 } }) with bundles := [b0] }
    let prk : State := { ev with clk := 16, bundles := [one (.block 2) { t0 with life := .parked { trap := { cause := 0x0F }, opc := 0x10000, resume := 0x10004 } }] }
    let pst : State := evReq (.store [0] none) .sent (.peer 511 0x20000)
    (((rdy.task? 1).map fun t => (rdy.admits t 639, rdy.outranked t 639)) = some (true, false) ∧ 639 < 640) ∧
    ((gone.block? 2).bind fun k => (gone.task? k.task).map fun t => (gone.blockQuiet k, k.ending == .running, k.anyDirty, (gone.afterBlock k t).isSome,
      (gone.part t.partition).control.getLsbD 3)) = some (true, true, false, true, false) ∧
    ((ask false 128).grantGrow 0).isSome = true ∧
    (((ask true 8).block? 2).map fun k => (k.request.map (·.shed), k.halted, k.ending == .running,
      ((ask true 8).bundlesOf (.block 2)).any fun b => b.threads.any fun t => !(t.life == .exited) && t.anyPending 8 (k.allot - 8))) =
      some (some true, false, true, false) ∧
    ((prk.block? 2).map fun k => ((prk.askers k).length, prk.handlerDue k (prk.askers k), (prk.askers k).any (·.exited))) = some (1, true, false) ∧
    (pst.tiles.find? (·.id == 9)).isNone = true ∧ ((pst.req? 9).map (·.phase)) = some .sent ∧ (pst.bundle? 3).isSome = true := by decide

/-- A block to pre-empt, one whose drain limit has passed, a saved one to restore, and an urgent task with a victim. -/
theorem witness_preemptionEvents :
    let drn : State := { sysBlk (fun k => { k with draining := some 0 }) with clk := 21000 }
    let clk (b : Bool) : State := sysBlk fun k => { k with clkDone := b }
    let sav : State := { sys with blocks := [], bundles := [], saved := sys.blocks.map fun k => { block := k, bundles := [], addr := 0x50000, size := 256 } }
    let urg : State := { sys with
      clk := 10500, bundles := [b0]
      blocks := sys.blocks.map fun k => { k with spadSize := 393216 }
      tasks := sys.tasks.map (fun t => { t with cls := 3 }) ++ sys.tasks.map fun t => { t with
        id := 5, cls := 1, phase := .ready, since := some 0, program := { t.program with spad := 393216 } }
      partitions := sys.partitions.map fun p => { p with quads := [0] } }
    ((sys.block? 2).map fun _ => (sys.part 0).det) = some false ∧
    ((drn.block? 2).bind (·.draining)) = some 0 ∧ 0 + (drn.part 0).drainLimit * 1050 ≤ drn.clk ∧
    ((sav.saved.find? (·.block.id == 2)).bind fun x => (sav.task? x.block.task).map fun t => (x.block.gang, sav.restoreFits x t 639, sav.outranked t 639)) = some (none, true, false) ∧
    (∀ b ∈ [true, false], ((clk b).block? 2).map (·.clkDone) = some b) ∧
    ((urg.task? 5).map fun t => (t.since, decide (urg.classOf t ≤ 1), ((urg.victim t 3).or (urg.victim t 2)).map (·.id))) = some (some 0, true, some 2) ∧
    0 + 10500 ≤ urg.clk := by decide

/-- A node that has finished, a task to lease with two pages, a gang of one to admit to the last quad, a record for a node, 32 records to
launch, and pages to compress, to move and to end moving. -/
theorem witness_taskEvents :
    let tk (f : Task → Task) : State := { sys with tasks := sys.tasks.map f }
    let nd : State := tk fun t => { t with kind := .node 4 0 1 0, phase := .done }
    let ls : State := paged (tk fun t => { t with phase := .waiting, program := { t.program with codeBase := 0x50000, codeLen := 4 } })
    let gg : State := { sys with
      blocks := [], bundles := [], tasks := sys.tasks.map fun t => { t with phase := .ready, gang := some (4, 0) }
      gangs := [{ id := 4, partition := 0, tasks := [1], pipes := [] }] }
    let wn (n : Nat) : WNode := { id := 8, die := 0, index := 255, partition := 0, words := 1, timer := 0, program := {}, xlat := [], records := List.replicate n (0, [0]) }
    let rec_ : Req := rq (.wrec 0 255 [0]) .issued .nowhere
    let ar : State := { ev with wnodes := [wn 159], reqs := [rec_] }
    let bl : State := { ev with wnodes := [wn 32] }
    ((nd.task? 1).map fun t => (t.kind, t.phase)) = some (.node 4 0 1 0, .done) ∧
    ((ls.task? 1).map fun t => (t.phase, t.deps, ls.taskHeld t, (ls.part t.partition).launches,
      (match ls.walkAll t.partition (ls.versionFrame t.partition (t.unit.map (·.2))) t.program.allRanges with
        | .ok xs => ls.storeRoom (ls.taskDies t) (entryCount xs)
        | .error _ => false))) = some (.waiting, [], false, true, true) ∧
    ((gg.gangs.find? (·.id == 4)).map fun g =>
      let ms := (gg.members g).filter fun t => !(t.phase == .parked)
      (g.quad, ms.isEmpty, ms.all (·.phase == .ready), (gg.part ((ms.map (·.partition)).headD 0)).launches,
        (placements.filter (gg.gangFits ms 159)).isEmpty)) = some (none, false, true, true, false) ∧
    (ar.req? 9 = some rec_ ∧ (ar.anyBundle 3).isSome = true ∧ ar.reaches rec_ = true ∧ ar.inOrder rec_ = true ∧
      ar.allPerformed b0 0 3 0 (some 9) = true ∧ ((ar.wnodes.find? (fun n => n.die == 0 && n.index == 255)).map (·.records.length)) = some 159) ∧
    (((bl.wnodes.find? (·.id == 8)).map (·.records.length)) = some 32 ∧ (bl.part 0).launches = true) := by decide
theorem witness_pageEvents :
    ((paged ev).walk 0 0x50000).map (fun lf => (lf.size, lf.c, lf.m, inTier2 lf.pa, (paged ev).isLeased 0 0x50000 lf.size)) =
      some (65536, false, false, false, false) ∧ (paged ev).zoneSlots 0 = [0] ∧
    (({ ev with moves := [{ id := 9, partition := 0, va := 0x50000, entry := 0x400028, frm := 0x50000, to_ := 0x60000, size := 65536, tier := false }] } :
      State).moves.find? (·.id == 9)).isSome = true := by decide

/-- A packet whose work has ended, under a leader whose lease has not lapsed; an interrupt that has waited 1 µs. -/
theorem witness_queueEvents :
    let s : State := { ev with
      leaderValid := true, clk := 1050
      packets := [{ id := 9, slot := 127, partition := 0, die := 0, index := 0, bytes := [], status := some (0, 0, 0, 0) }]
      expiry := 1000, partitions := ev.partitions.map fun p => { p with evOldest := some 0, evPending := 1, coalesceT := 1 } }
    ((s.packet? 9).map fun p => (p.status.isSome, s.heldBack p, s.fetching, p.gap)) = some (true, false, true, false) ∧
    (s.part 0).evOldest = some 0 ∧ 0 < (s.part 0).evPending ∧ 0 + 1050 * (s.part 0).coalesceT ≤ s.clk := by decide

/-- The last slot's queue of 16 packets at 0x50000, whose last one is next, in memory whose page table maps the first 64 GiB to itself. -/
def queued (m : Mem) : State := { paged ev with
  leaderValid := true, expiry := 1000, mem := m ++ [(0x100000, 1), (0x100002, 0x20), (0x200000, 0x0F)]
  slots := ev.slots.set 127 { mapped := true, qcb := 0x100000000000, base := 0x50000, log2 := 4, readIdx := 15, writeIdx := 16 } }

/-- Partition 0's page table maps the first 64 GiB to itself, and no lease holds another leaf. -/
abbrev Flat (s : State) : Prop :=
  (s.part 0).root = 0x100000 ∧ leNat (readBytes s.mem 0x100000 8) = 0x200001 ∧ leNat (readBytes s.mem 0x200000 8) = 0x0F ∧ s.held 0 = []

theorem leaf_flat {s : State} (hf : Flat s) {va : Nat} (hv : va < 2 ^ 36) :
    s.leaf 0 va = some { pa := 0, size := 2 ^ 36, r := true, w := true, c := false, m := false, entry := 0x200000 } := by
  obtain ⟨hr, h1, h2, hl⟩ := hf
  have b3 : bits va (16 + 10 * 3 + 9) (16 + 10 * 3) = 0 := by simp only [bits]; omega
  have b2 : bits va (16 + 10 * 2 + 9) (16 + 10 * 2) = 0 := by simp only [bits]; omega
  have p3 : pte s.mem va 0x100000 3 = some (.inr 0x200000) := by
    have h : leNat (readBytes s.mem (0x100000 + 8 * 0) 8) = 0x200001 := h1
    simp only [pte, b3, h]; rfl
  have p2 : pte s.mem va 0x200000 2 = some (.inl { pa := 0, size := 2 ^ 36, r := true, w := true, c := false, m := false, entry := 0x200000 }) := by
    have h : leNat (readBytes s.mem (0x200000 + 8 * 0) 8) = 0x0F := h2
    simp only [pte, b2, h]; rfl
  simp only [State.leaf, hl, List.find?_nil]
  unfold State.walk
  rw [hr]
  show walkFrom s.mem va 3 0x100000 = _
  simp only [walkFrom, p3, p2]

theorem vpa_flat {s : State} (hf : Flat s) {va : Nat} (hv : va < 2 ^ 36) (wr : Bool) : s.vpa 0 va wr = some va := by
  simp only [State.vpa, leaf_flat hf hv]
  rw [Nat.mod_eq_of_lt hv]
  simp; omega

theorem ready_flat {s : State} (hf : Flat s) {va n : Nat} (hv : va + n ≤ 2 ^ 36) (hn : 0 < n) (r w : Bool) :
    s.useSpan 0 va n r w = .ready s := by
  have h : s.walkSpan 0 va n r w false noVersion = .ok [{ va := 0, pa := 0, len := 2 ^ 36, table := true }] := by
    simp only [State.walkSpan, State.walkRange, leaf_flat hf (show va < 2 ^ 36 by omega), noVersion, Nat.div_eq_of_lt (show va < 2 ^ 36 by omega)]
    simp [consXlat, show va + n ≤ 72057594037927936 by omega, show ¬ va + n ≤ va by omega, show va + n ≤ 68719476736 by omega]
  simp only [State.useSpan, State.use, h]

theorem vread_flat {s : State} (hf : Flat s) {va n : Nat} (hv : va + n ≤ 2 ^ 36) : s.vread 0 va n = some (readBytes s.mem va n) := by
  unfold State.vread readBytes
  have : ∀ l : List Nat, (∀ i ∈ l, i < n) → l.mapM (fun i => (s.vpa 0 (va + i) false).map (readByte s.mem)) =
      some (l.map fun i => readByte s.mem (va + i)) := by
    intro l
    induction l with
    | nil => intro; rfl
    | cons x xs ih =>
      intro h
      rw [List.mapM_cons, vpa_flat hf (by have := h x (by simp); omega) false, ih fun i hi => h i (by simp [hi])]
      rfl
  exact this _ fun i hi => by simpa using hi

theorem get_flat {s : State} (hf : Flat s) {va n : Nat} {bs : List Byte} (hv : va + n ≤ 2 ^ 36) (hn : 0 < n)
    (hb : readBytes s.mem va n = bs) : s.get 0 va n = .bytes s bs := by
  simp only [State.get, ready_flat hf hv hn, vread_flat hf hv, hb]


/-- Its packet, by the packet's bytes, and the state in which the packet's body is looked at. -/
def head (s : State) (bs : List Byte) : Packet × State := (s.packetOf 127 bs, s.withPacket (s.packetOf 127 bs))

theorem takes_head {s : State} {ty : Nat} {bs : List Byte} (hf : Flat s) (hb : readBytes s.mem 0x503C0 64 = bs)
    (h : (s.fetching && s.hasPacket 127 && !(s.servedBefore 127) && s.slot 127 == {
      mapped := true, qcb := 0x100000000000, base := 0x50000, log2 := 4, readIdx := 15, writeIdx := 16 }) = true)
    (hp : ((packetBad bs).isNone && field bs 0 1 == ty && field bs 8 8 == 0) = true) : TakesPacket s 127 ty (head s bs).1 (head s bs).2 := by
  simp only [Bool.and_eq_true, Bool.not_eq_true', beq_iff_eq, Option.isNone_iff_eq_none] at h hp
  refine ⟨bs, h.1.1.1, h.1.1.2, h.1.2, ?_, ?_, hp.1.1, rfl, hp.1.2, .inl ⟨hp.2, rfl⟩⟩
  · unfold State.nextPacket
    rw [h.2]
    exact (vread_flat hf (by decide)).trans (congrArg some hb)
  · rw [h.2]

/-- A packet of a type, with no control bits and no signal, by its bytes from +16 on. -/
def pkt (ty : Byte) (bs : List Byte) : List Byte := ty :: List.replicate 15 0 ++ bs ++ List.replicate (48 - bs.length) 0

/-- A sound TCB of one thread of n registers, with two bytes of code at 0x40000: its bytes, and its cells at an address. -/
def tcbBytes (n : Byte) : List Byte :=
  [0, 0, 4, 0, 0, 0, 0, 0, 0, 0, 0, 0, 0, 0, 0, 0, 0, 0, 4, 0, 0, 0, 0, 0, 2, 0, 0, 0, 1, 0, n, 0, 0, 0, 0, 0, 1] ++ List.replicate 283 0
def tcbCells (a : Nat) (n : Byte) : Mem := [(a + 2, 4), (a + 18, 4), (a + 24, 2), (a + 28, 1), (a + 30, n), (a + 36, 1)]

theorem readTcb_flat {s : State} {va arg : DWord} {bs : List Byte} (hva : va.toNat % 64 = 0) (hg : s.get 0 va.toNat 320 = .bytes s bs)
    (hn : field bs 48 2 = 0) (hb : tcbBad bs (some []) arg false = none) : s.readTcb 0 va arg none = .ok s bs (tcbProgram bs [] arg) := by
  simp [State.readTcb, tcbFails, lowerOf, hva, hg, hn, hb]

theorem ok_of {t : Taken} (h : (match t with
    | .ok _ => true
    | _ => false) = true) : ∃ w, t = .ok w := by
  split at h
  · exact ⟨_, rfl⟩
  · cases h

theorem readMembers_one {s : State} {tcb arg : DWord} {bs : List Byte} {pr : Program} (h : s.readTcb 0 tcb arg none = .ok s bs pr)
    (hb : pr.blocks = 1 ∧ pr.coplace = false) : s.readMembers 0 arg [(0, tcb)] = .ok (s, [(tcb, pr)]) := by
  simp [State.readMembers, h, hb]

/-- A slot's next packet is one of some bytes in some memory, and then f holds of the packet and of the state in which its body is looked at. -/
def Gives (ty : Byte) (bs : List Byte) (m : Mem) (f : Packet → State → Prop) : Prop :=
  TakesPacket (queued m) 127 ty.toNat (head (queued m) (pkt ty bs)).1 (head (queued m) (pkt ty bs)).2 ∧
  f (head (queued m) (pkt ty bs)).1 (head (queued m) (pkt ty bs)).2

/-- A descriptor of a grid of one node on die 3, with an arena of a page, and a path bound or none: its bytes and its cells at 0x20000. -/
def gridBytes (n : Byte) : List Byte :=
  [0, 0x10, 2, 0, 0, 0, 0, 0, 1, 0, 0, 0, 0, 0, 0, 0, 0, 0x20, 2, 0, 0, 0, 0, 0, 1, 0, 0, 8] ++ List.replicate 20 0 ++
  [0, 0x40, 2, 0, 0, 0, 0, 0, 0, 0x10, 0, 0, 0, 0, 0, 0, n] ++ List.replicate 31 0 ++ [0, 0, 4, 0, 0, 0, 0, 0, 2] ++ List.replicate 23 0
def gridCells (bound : Mem) : Mem := [(0x20001, 0x10), (0x20002, 2), (0x20008, 1), (0x20011, 0x20), (0x20012, 2), (0x20018, 1), (0x2001B, 8), (0x20031, 0x40),
  (0x20032, 2), (0x20039, 0x10)] ++ bound ++ [(0x20062, 4), (0x20068, 2), (0x503C0, 1), (0x503D2, 2)]

/-- A TREE without a path bound and with one. -/
def SoundTree (n : Byte) (pk : Packet) (u : State) : Prop :=
  pk.word 16 8 % 64 = 0 ∧ u.get pk.partition (pk.word 16 8) 128 = .bytes u (gridBytes n) ∧ descHeadBad (gridBytes n) false = false ∧
  descTailBad (gridBytes n) = false ∧ u.gridDies pk.partition (gridBytes n) = [3] ∧
  ceilDiv (field (gridBytes n) 64 8) 64 * 64 = 64 * n.toNat ∧ segmentsOf (gridBytes n) (64 * n.toNat) 1 = 64 * n.toNat
theorem witness_tree0 : Gives 1 [0, 0, 2] (gridCells []) (SoundTree 0) :=
  ⟨takes_head (by decide +kernel) (by decide +kernel) (by decide +kernel) (by decide +kernel), by decide +kernel,
    get_flat (by decide +kernel) (by decide) (by decide) (by decide +kernel), by decide, by decide, by decide +kernel, by decide, by decide⟩
theorem witness_tree1 : Gives 1 [0, 0, 2] (gridCells [(0x20040, 1)]) (SoundTree 1) :=
  ⟨takes_head (by decide +kernel) (by decide +kernel) (by decide +kernel) (by decide +kernel), by decide +kernel,
    get_flat (by decide +kernel) (by decide) (by decide) (by decide +kernel), by decide, by decide, by decide +kernel, by decide, by decide⟩

/-- A TASK. -/
theorem witness_task : Gives 2 [0, 0, 2] (tcbCells 0x20000 8 ++ [(0x503C0, 2), (0x503D2, 2)]) fun pk u =>
    u.readTcb pk.partition (BitVec.ofNat 64 (pk.word 16 8)) (BitVec.ofNat 64 (pk.word 24 8)) none = .ok u (tcbBytes 8) (tcbProgram (tcbBytes 8) [] 0) ∧
    u.trackUnit pk (tcbProgram (tcbBytes 8) [] 0).tracked (tcbProgram (tcbBytes 8) [] 0).ranges = some (u, [], none) :=
  ⟨takes_head (by decide +kernel) (by decide +kernel) (by decide +kernel) (by decide +kernel),
    readTcb_flat (by decide) (get_flat (by decide +kernel) (by decide) (by decide) (by decide +kernel))
      (by decide) (by decide), rfl⟩

/-- A GANG of one member. -/
def gangBytes : List Byte := [1, 0, 0, 0, 0, 0, 0, 0, 0x80, 0, 2] ++ List.replicate 117 0
theorem witness_gang : Gives 3 [0, 0, 2] ((0x20000, 1) :: (0x20008, 0x80) :: (0x2000A, 2) :: tcbCells 0x20080 8 ++ [(0x503C0, 3), (0x503D2, 2)]) fun pk u =>
    pk.word 16 8 % 64 = 0 ∧ u.get pk.partition (pk.word 16 8) 128 = .bytes u gangBytes ∧ gangHeadBad gangBytes = none ∧
    ((List.range (field gangBytes 0 1)).map fun i => (i, BitVec.ofNat 64 (field gangBytes (8 + 8 * i) 8))) = [(0, 0x20080)] ∧
    u.readMembers pk.partition (BitVec.ofNat 64 (pk.word 24 8)) [(0, 0x20080)] = .ok (u, [(0x20080, tcbProgram (tcbBytes 8) [] 0)]) ∧
    gangTailBad gangBytes [(0x20080, tcbProgram (tcbBytes 8) [] 0)] = none ∧
    (u.part pk.partition).quads ≠ [] ∧ u.trackUnit pk false [] = some (u, [], none) :=
  ⟨takes_head (by decide +kernel) (by decide +kernel) (by decide +kernel) (by decide +kernel), by decide +kernel,
    get_flat (by decide +kernel) (by decide) (by decide) (by decide +kernel), by decide, by decide,
    readMembers_one (readTcb_flat (by decide) (get_flat (by decide +kernel) (by decide) (by decide) (by decide +kernel))
      (by decide) (by decide)) (by decide), by decide, by decide, rfl⟩

/-- The other types: a BARRIER on one signal, a COPY of 64 bytes, a SIGNAL, a WNODE that installs, a MEASURE, a NOP. -/
theorem witness_barrierPacket : Gives 4 (List.replicate 34 0 ++ [2]) [(0x503C0, 4), (0x503F2, 2)] fun pk u =>
    ∃ w, u.needs pk ((List.range 5).filterMap fun i => if pk.word (16 + 8 * i) 8 = 0 then none else some (16 + 8 * i, pk.word (16 + 8 * i) 8, 8, true, false)) = .ok w :=
  ⟨takes_head (by decide +kernel) (by decide +kernel) (by decide +kernel) (by decide +kernel), ok_of (by decide +kernel)⟩
theorem witness_copyPacket : Gives 5 [0, 0, 2, 0, 0, 0, 0, 0, 0, 0, 5, 0, 0, 0, 0, 0, 64] [(0x503C0, 5), (0x503D2, 2), (0x503DA, 5), (0x503E0, 64)] fun pk u =>
    ∃ w, u.needs pk [(16, pk.word 16 8, pk.word 32 8, true, false), (24, pk.word 24 8, pk.word 32 8, false, true)] = .ok w :=
  ⟨takes_head (by decide +kernel) (by decide +kernel) (by decide +kernel) (by decide +kernel), ok_of (by decide +kernel)⟩
theorem witness_signalPacket : Gives 6 [0, 0, 2] [(0x503C0, 6), (0x503D2, 2)] fun pk u => ∃ w, u.needs pk [(16, pk.word 16 8, 8, false, true)] = .ok w :=
  ⟨takes_head (by decide +kernel) (by decide +kernel) (by decide +kernel) (by decide +kernel), ok_of (by decide +kernel)⟩
theorem witness_wnodePacket : Gives 7 [0, 0, 2, 0, 0, 0, 0, 0, 255, 8, 100, 0, 3]
    (tcbCells 0x20000 16 ++ [(0x503C0, 7), (0x503D2, 2), (0x503D8, 255), (0x503D9, 8), (0x503DA, 100), (0x503DC, 3)]) fun pk u =>
    pk.word 16 8 ≠ 0 ∧ u.readTcb pk.partition (BitVec.ofNat 64 (pk.word 16 8)) 0 none = .ok u (tcbBytes 16) (tcbProgram (tcbBytes 16) [] 0) :=
  ⟨takes_head (by decide +kernel) (by decide +kernel) (by decide +kernel) (by decide +kernel), by decide +kernel,
    readTcb_flat (by decide +kernel) (get_flat (by decide +kernel) (by decide) (by decide) (by decide +kernel)) (by decide) (by decide)⟩
/-- A WNODE that removes a node. -/
theorem witness_removalPacket : Gives 7 [0, 0, 0, 0, 0, 0, 0, 0, 255, 8, 100, 0, 3] [(0x503C0, 7), (0x503D8, 255), (0x503D9, 8), (0x503DA, 100), (0x503DC, 3)] fun pk _ => pk.word 16 8 = 0 :=
  ⟨takes_head (by decide +kernel) (by decide +kernel) (by decide +kernel) (by decide +kernel), by decide +kernel⟩
theorem witness_measurePacket : Gives 8 [0, 0, 2, 0, 0, 0, 0, 0, 0x80, 0, 2] [(0x503C0, 8), (0x503D2, 2), (0x503D8, 0x80), (0x503DA, 2)] fun pk u =>
    ∃ w, u.needs pk [(16, pk.word 16 8, 128, true, false), (24, pk.word 24 8, 48, false, true)] = .ok w :=
  ⟨takes_head (by decide +kernel) (by decide +kernel) (by decide +kernel) (by decide +kernel), ok_of (by decide +kernel)⟩
/-- A NOP with a signal at 0x20010. -/
def signalled : State := queued [(0x503C0, 9), (0x503C8, 16), (0x503CA, 2)]
theorem witness_signalled : let pk := signalled.packetOf 127 (9 :: List.replicate 7 0 ++ [16, 0, 2] ++ List.replicate 53 0)
    pk.word 8 8 = 0x20010 ∧ TakesPacket signalled 127 9 pk ((signalled.withPacket pk).lease 0 0x20010 8 (packetHolder pk.id)) := by
  intro pk
  have hs : pk.word 8 8 = 0x20010 := by decide +kernel
  have hb : readBytes signalled.mem 0x503C0 64 = 9 :: List.replicate 7 0 ++ [16, 0, 2] ++ List.replicate 53 0 := by decide +kernel
  refine ⟨hs, _, by decide +kernel, by decide +kernel, by decide +kernel, ?_, by decide +kernel, ?_, rfl, ?_, .inr ⟨?_, signalled.withPacket pk, ?_, ?_⟩⟩
  · exact (vread_flat (by decide +kernel) (by decide)).trans (congrArg some hb)
  · decide +kernel
  · decide +kernel
  · rw [hs]; decide
  · rw [hs]; exact ready_flat (s := signalled.withPacket pk) (by decide +kernel) (by decide) (by decide) true true
  · rw [hs]; rfl
theorem witness_nopPacket : Gives 9 [] [(0x503C0, 9)] fun _ _ => True :=
  ⟨takes_head (by decide +kernel) (by decide +kernel) (by decide +kernel) (by decide +kernel), trivial⟩

/-- What begins: a COPY of four bytes, a SIGNAL to a mapped address, the removal of an unknown node, a NOP, and a BARRIER on a signal that reads 0. -/
theorem witness_begin :
    let pk (xs : List (Nat × Nat × Nat)) : Packet := { id := 9, slot := 127, partition := 0, die := 0, index := 0
                                                       bytes := xs.foldl (fun m x => patch m x.1 (leBytes x.2.1 x.2.2)) (List.replicate 64 0) }
    let s := paged ev
    ((pk [(0, 1, 5), (32, 8, 4)]).word 0 1 = 5 ∧ (pk [(0, 1, 5), (32, 8, 4)]).word 32 8 ≠ 0) ∧
    (let p := pk [(0, 1, 6), (16, 8, 0x20000)];
      p.word 0 1 = 6 ∧ (s.modPacket 9 fun x => { x with started := true }).vpa 0 (p.word 16 8) true = some 0x20000) ∧
    ((pk [(0, 1, 7)]).word 0 1 = 7 ∧ (pk [(0, 1, 7)]).word 16 8 = 0 ∧
      (s.wnodes.find? fun n => n.die == (pk [(0, 1, 7)]).word 28 1 && n.index == (pk [(0, 1, 7)]).word 24 1 && n.partition == 0) = none) ∧
    (pk [(0, 1, 9)]).word 0 1 = 9 ∧
    ∀ i < 5, (pk [(0, 1, 4), (48, 8, 0x20000)]).word (16 + 8 * i) 8 ≠ 0 →
      (s.vread 0 ((pk [(0, 1, 4), (48, 8, 0x20000)]).word (16 + 8 * i) 8) 8).map leNat = some 0 := by decide

/-- A held record, with room for it in the event ring. -/
theorem witness_heldRecord :
    let s : State := { paged ev with partitions := ev.partitions.map fun p => { p with
      root := 0x100000, evHeld := [List.replicate 32 1], evBase := 0x20000, evSize := 16 } }
    (s.part 0).evHeld = [List.replicate 32 1] ∧ (s.part 0).evRoom = true ∧
    (s.vstore 0 ((s.part 0).evBase.toNat + 32 * ((s.part 0).evWrite % (s.part 0).evSize)) (List.replicate 32 1) (some 3)).isSome = true := by decide

/-- Outside deterministic mode and in it; a write-with-enqueue that no request waits for, and one that waits; registers of every partition and
of one. -/
theorem witness_outsideInputs :
    let d : State := { sys with partitions := sys.partitions.map fun p => { p with control := 0x10 } }
    ((sys.part 7).det = false ∧ sys.req? 9 = none) ∧ ((d.part 7).det = true ∧ (d.part 7).lockstep = false) ∧
    ((evReq (.pwenq 127 [] [] []) .sent .nowhere).req? 9).map (·.phase) = some .sent ∧ sys.regPart 0 = none ∧ (sys.regPart 0x190000).isSome = true := by decide

/-- A doorbell through the window; the commands of a partition, with a task named by its mark. -/
theorem witness_commands :
    let s : State := { sys with partitions := sys.partitions.map fun p => { p with mark := (0, 0, 0) } }
    let d : State := { sys with partitions := sys.partitions.map fun p => { p with
      control := 0x10, mark := (3, 0, 0), logs := [{ number := 3, snapshot := sys.snapshot 0 }] } }
    (127 < 128 ∧ 0x100000 + 4096 * 127 = 0x17F000 ∧ 6 ≤ s.bringup ∧ (s.part (s.slotPart 127)).det = false) ∧
    ((s.part 0).det = false ∧ s.markTasks 0 ≠ []) ∧
    (6 ≤ d.bringup ∧ (d.part 0).det = true ∧ ∃ i ∈ (d.part 0).logs, i.number = (d.part 0).mark.1) := by decide

/-- A checked table to install, a lease to renew at its last moment, a vacant leader and one whose lease has lapsed, a takeover, an access
that has waited 2 ms. -/
theorem witness_headstock :
    let i : State := { State.reset with presult := 1, pnext := State.reset.ptable, bringup := 6 }
    let l : State := { State.reset with leaderValid := true, leaderDie := 1, expiry := 100, clk := 105 }
    let x : Inbound := { id := 9, partition := 0, va := 0, size := 4, write := none, host := true, pkg := 0, arrived := 0 }
    let t : State := { State.reset with inbound := [x], clk := 2100000 }
    (State.reset.presult ≠ 1 ∧ State.reset.tableBad State.reset.ptable = none ∧
      (State.reset.tableBad (List.replicate 8 (List.replicate 64 0xFF))).isSome = true) ∧
    (i.presult = 1 ∧ ∀ k ∈ i.blocks, i.quadOwner (k.core / 4) = tableOwner i.pnext (k.core / 4)) ∧
    (l.leaderValid = true ∧ l.time 0 ≤ l.expiry) ∧ (3 ≤ 3 ∧ State.reset.leaderValid = false) ∧
    (({ l with clk := 107 } : State).leaderDie ≠ 0 ∧ ({ l with clk := 107 } : State).expiry < ({ l with clk := 107 } : State).time 0) ∧
    ({ l with takingOver := true } : State).takingOver = true ∧ t.inbound.find? (·.id == 9) = some x ∧ x.arrived + 2100000 ≤ t.clk := by decide

/-- A boundary, in a run and in a re-execution, and a checkpoint that are due; a primary's message of two kinds; a hash that comes before the
device's own, one that matches it, one of an interval whose log is freed, and one that differs; a hash that is late by 1 ms. -/
theorem witness_lockstep :
    let d (f : Partition → Partition) (n : Nat) : State := { State.reset with clk := n, partitions := State.reset.partitions.map fun p => f { p with control := 0x10 } }
    let b := d id 4096
    let re := d (fun p => { p with replay := [(1, 5, [.doorbell 0 1, .command 7 1])] }) 4096
    let c := d (fun p => { p with boundary := 1024, boundaryClk := 4194304 }) 4194304
    let l (hs : List (Nat × List Byte × Nat)) (is : List Interval) : State := d (fun p => { p with control := 0x30, hashes := hs, logs := is }) 1050000
    let i : Interval := { number := 4, snapshot := {} }
    (b.boundaryDue 7 = true ∧ (b.part 7).replay = []) ∧ (re.boundaryDue 7 = true ∧ (re.part 7).det = true ∧ (re.part 7).replay ≠ []) ∧
    (c.checkpointDue 7 = true ∧ (c.part 7).lockstep = false ∧ c.partBlocks 7 = []) ∧
    (((l [] []).part 7).lockstep = true ∧ ((l [] []).part 7).control.getLsbD 6 = false ∧ (inputOf 7 0 127 0).isSome = true ∧ (inputOf 7 24 2 0).isSome = true) ∧
    (((l [] []).part 7).failStopped = false ∧ ((l [] []).part 7).theirs = [] ∧ 7 < (l [] []).partitions.length ∧ ((l [] []).part 7).hashes = []) ∧
    (((l [(4, [0], 0)] []).part 7).hashes = [(4, [0], 0)] ∧ (∀ i ∈ ((l [(4, [0], 0)] []).part 7).logs, i.number ≠ 4) ∧
      0 + 1050000 ≤ (l [(4, [0], 0)] []).clk ∧ ((l [(4, [0], 0)] []).part 7).lockstep = true) ∧
    (((l [(4, [0], 0)] [i]).part 7).mismatch = false ∧ (∃ i ∈ ((l [(4, [0], 0)] [i]).part 7).logs, i.number = 4) ∧
      ((l [(4, [0], 0)] [i]).part 7).theirs = [] ∧ ([0] : List Byte) ≠ [1]) := by
  exact ⟨by decide, by decide, by decide, by decide, by decide, by decide, by decide, ⟨{ number := 4, snapshot := {} }, List.mem_singleton.mpr rfl, rfl⟩, by decide, by decide⟩

/-- The clauses of the package's device. -/
theorem witness_device :
    let w : State := { State.reset with effCap := State.reset.modulePower + 1, target := poolOf (State.reset.modulePower + 1) + 1 }
    let r : State := { State.reset with dies := State.reset.dies.map fun d => { d with hottest := some 400 } }
    let h : State := { State.reset with
      clk := 105000000, overSince := some 93450000, coolSince := some 0
      dies := State.reset.dies.map fun d => { d with throttled := true, voltSince := List.replicate 7 none ++ [some 103950000] } }
    let j (u : Word) : State := { State.reset with frozen := true, jtagUnit := u }
    (0 : Word) ≠ 1 ∧ ((j 0x404).frozen = true ∧ (j 0x404).jtagUnit.toNat / 1024 % 2 = 1 ∧ (j 5).jtagUnit.toNat / 1024 % 2 = 0) ∧ State.reset.frozen = false ∧
    (h.overSince = some 93450000 ∧ 93450000 + 11550000 ≤ h.clk) ∧
    (min 1800 (Config.modulePower w.clk) < w.effCap ∧ w.target ≠ poolOf w.effCap) ∧
    (3 ≤ 3 ∧ (h.die 3).refreshClk + 105000 ≤ h.clk ∧ (r.die 3).hottest = some 400) ∧
    (h.coolSince = some 0 ∧ 0 + 105000000 ≤ h.clk ∧ h.throttled = true) ∧ h.voltageOut = some (0, 7) ∧
    (∀ d < 4, ∀ i < 8, ∀ c, (r.die d).voltSince.getD i none = some c → r.clk < c + 1050000) ∧
    State.reset.bringup = 1 ∧ ∀ n ∈ [2, 3, 4, 5], ({ State.reset with bringup := n } : State).bringup = n :=
  ⟨by decide, by decide, rfl, by decide, ⟨Nat.lt_succ_self _, Nat.succ_ne_self _⟩, by decide, by decide, by decide,
    (fun d hd i hi c h => by
      let r0 : State := { State.reset with dies := State.reset.dies.map fun d => { d with hottest := some 400 } }
      have : ((List.range 4).all fun d => (List.range 8).all fun i => (r0.die d).voltSince.getD i none == none) = true := by decide
      have := List.all_eq_true.mp (List.all_eq_true.mp this d (List.mem_range.mpr hd)) i (List.mem_range.mpr hi)
      have h2 : (r0.die d).voltSince.getD i none = none := eq_of_beq this
      cases h2.symm.trans h), rfl, fun _ _ => rfl⟩

/-- Challenges: one too early, one while a signature is made, one with the last index and one without any; a signature to release, of a report
and of the identity; step 4 with the identity signed, and still to sign. -/
theorem witness_attestation :
    let a (n : Nat) (g : Option (Nat × Option (List Byte))) : State := { State.reset with bringup := 5, signIdx := n, signing := g }
    let c : List Byte := List.replicate 32 0
    let i (n : Nat) (bs : List Byte) : State := { State.reset with bringup := 4, signIdx := n, idCovered := idCovers, idSignature := bs }
    (State.reset.bringup < 5 ∧ (5 ≤ (a 0 none).bringup ∧ c.length = 32)) ∧ (a 0 (some (0, none))).signing.isSome = true ∧
    ((a (2 ^ 20 - 1) none).signing = none ∧ (a (2 ^ 20 - 1) none).signIdx < 2 ^ 20 ∧ 2 ^ 20 ≤ (a (2 ^ 20) none).signIdx) ∧
    ((a 1 (some (0, some c))).signing = some (0, some c) ∧ (a 1 (some (0, some c))).challenges = []) ∧ (a 1 (some (0, none))).signing = some (0, none) ∧
    ((i 0 [1]).bringup = 4 ∧ (i 0 [1]).signing = none ∧ (i 0 [1]).idCovered = idCovers ∧ (i 0 [1]).idSignature ≠ []) ∧
    ((i 0 []).idSignature = [] ∧ (i 0 []).signIdx < 2 ^ 20 ∧ 2 ^ 20 ≤ (i (2 ^ 20) []).signIdx) :=
  ⟨⟨by decide, by decide, by decide⟩, rfl, ⟨rfl, by decide, by decide⟩, ⟨rfl, rfl⟩, rfl, ⟨rfl, rfl, rfl, by decide⟩, rfl, by decide, by decide⟩

/-- A frozen package whose turn is another than reset and loss of power; one before power. -/
theorem witness_frozen :
    let s : State := { ev with frozen := true, agenda := [.clk] }
    let p : State := { ev with bringup := 0, agenda := [.pipe 0 0] }
    (s.frozen = true ∧ s.popTurn.1 = .clk) ∧ (p.bringup = 0 ∧ p.popTurn.1 = .pipe 0 0) := ⟨⟨rfl, rfl⟩, rfl, rfl⟩

/-- The widest scope of an ATOM (R34). -/
theorem witness_atomCodes : (5 : BitVec 3).toNat ≤ 5 := by decide

theorem witness_encode : (encode (.addH 1 31 31)).isSome = true ∧ (encode (.movi 0x7FFFF 127)).isSome = true := ⟨rfl, rfl⟩

/-- A short and a long instruction at the group's PC, each of which runs; an event whose turn it is. -/
theorem witness_step :
    let s (n w : Nat) : State := { State.reset.withFetchWord n w with group := some g0 }
    let b (n w : Nat) : Option Bundle := (s n w).bundle? 3
    (∀ n w, (s n w).frozen = false ∧ (s n w).bringup ≠ 0 ∧ (s n w).group = some g0) ∧
    (((b 16 0x0622).map fun b => ((s 16 0x0622).fetchPa b 0x10000 0x10000, (s 16 0x0622).fetchPa b 0x10000 0x10001)) =
        some (some 0x10000, some 0x10001) ∧
      ((b 16 0x0622).map fun b => ((s 16 0x0622).fetchParcel b 0x10000, ((s 16 0x0622).blockOf b).map (·.icode))) = some (0x0622, some []) ∧
      (0x0622#16).getLsbD 0 = false ∧ decodeH 0x0622 = .addH 0 1 17) ∧
    (((b 32 0xFF).map fun b => ((s 32 0xFF).fetchPa b 0x10002 0x10002, (s 32 0xFF).fetchPa b 0x10002 0x10003)) = some (some 0x10002, some 0x10003) ∧
      ((b 32 0xFF).map fun b => ((s 32 0xFF).fetchParcel b 0x10000, (s 32 0xFF).fetchParcel b 0x10002)) = some (0xFF, 0) ∧
      (0xFF#16).getLsbD 0 = true ∧ decode32 (0#16 ++ 0xFF#16) = .ok .nop) ∧
    (∃ u, exec .nop (s 32 0xFF) = .next u) ∧ (∃ u, exec .powerOnReset { sys with agenda := [] } = .next u) := by
  refine ⟨fun n w => ⟨rfl, by simp [State.withFetchWord, State.place1], rfl⟩, ⟨by decide, by decide, rfl, rfl⟩, ⟨by decide, by decide, rfl, rfl⟩, ⟨_, rfl⟩, ⟨_, rfl⟩⟩

/-- Accesses inside a transaction: a load whose bytes the write set holds, one that needs a line more, and one that needs a 17th; a store to the
8th line and one to a 9th. -/
theorem witness_transactionAccesses :
    let x : Tx := { resume := 0x10000, reg := 1, irrevocable := false }
    let own : Tx := { x with writes := [{ line := 0x800, bytes := (List.range 32).map fun i => (i, 1) }] }
    let full : Tx := { x with reads := List.replicate 16 { line := 5, bytes := [] } }
    let w (n : Nat) : Tx := { x with writes := (List.range n).map fun i => { line := i, bytes := [(0, 0)] } }
    let b (x : Tx) : Bundle := one (.block 2) { t0 with tx := some x }
    let s (x : Tx) : State := on sys (b x) []
    let held (x : Tx) : List (Nat × Byte) := (List.range 4).filterMap fun j =>
      ((x.writes.find? (·.line == (0x20000 + j) / 64)).bind fun w => w.bytes.lookup ((0x20000 + j) % 64)).map fun v => (j, v)
    let room (x : Tx) : Bool := x.reads.any (·.line == 0x20000 / 64) || decide (x.reads.length < 16)
    let put (x : Tx) : List TxLine := txPut x.writes 0x20000 ((List.range 4).map fun j => (j, (List.replicate 4 (0 : Byte)).getD j 0))
    (∀ y ∈ [own, x, full], (∀ i ∈ [Instr.ld 0 4 0 1 127, .ldacqW 4 0 1 127, .ldsmpW 0 0 1 127], Meets (s y) g0 (b y) i) ∧
      ((s y).taken.thread (b y).id 0).tx = some y ∧ ((s y).taken.place (b y) 0 ((t0.pair 2) + 0) 4).txAddr = some 0x20000 ∧
      ∀ (l : Nat) (t : Thread), (b y).threads[l]? = some t → (s y).taken.accessChecks (b y) 0 (t.pair 2 + 0) 4 true false = []) ∧
    g0.acting.length = 1 ∧ (held own).length = 4 ∧ ((held x).length ≠ 4 ∧ room x = true) ∧ ((held full).length ≠ 4 ∧ room full = false) ∧
    (∀ y ∈ [w 7, w 8], (∀ i ∈ [Instr.st 0 2 0 1 127, .strelW 5 0 1 127], Meets (s y) g0 (b y) i) ∧ ((s y).taken.thread (b y).id 0).tx = some y ∧
      ((s y).taken.place (b y) 0 ((t0.pair 2) + 0) 4).txAddr = some 0x20000 ∧
      ∀ (l : Nat) (t : Thread), (b y).threads[l]? = some t → (s y).taken.accessChecks (b y) 0 (t.pair 2 + 0) 4 false true = []) ∧
    x.irrevocable = false ∧ (put (w 7)).length ≤ 8 ∧ 8 < (put (w 8)).length := by
  refine ⟨fun y hy => ?_, rfl, by decide, by decide, by decide, fun y hy => ?_, rfl, by decide, by decide⟩
  · simp only [List.mem_cons, List.not_mem_nil, or_false] at hy
    rcases hy with rfl | rfl | rfl <;> refine ⟨meets_all rfl (by decide), rfl, by decide, fun l t h => ?_⟩ <;> cases l <;> cases h <;> decide
  · simp only [List.mem_cons, List.not_mem_nil, or_false] at hy
    rcases hy with rfl | rfl <;> refine ⟨meets_all rfl (by decide), rfl, by decide, fun l t h => ?_⟩ <;> cases l <;> cases h <;> decide

/-- A block with a stash line that bundle 3 has dirtied: fences and TXB start its write-back. -/
theorem witness_dirtyStash :
    let m : StashMap := { id := 5, window := 64, length := 64, base := 0x20000, lines := [{ idx := 0, state := .dirty, bytes := [(0, 1)], bundles := [3], streams := [0] }] }
    let s : State := on (sysBlk fun k => { k with maps := [m], spadSize := 128 }) b0 []
    (∀ i ∈ [Instr.fenceAr 0xFFFF 5, .fenceSc 0 4, .txb 127], Meets s g0 b0 i) ∧ s.taken.stashDirty b0 = true ∧ ∀ t ∈ b0.threads, t.mid ≠ some .flush :=
  ⟨meets_all rfl (by decide), by decide, by decide⟩

/-- TXB at the abort limit, by the lane that has its die's turn and by one that has not yet asked for it. -/
theorem witness_irrevocable :
    let b := one (.block 2) { t0 with aborts := 8 }
    let s (o : Option (Nat × Nat)) : State := on { sys with dies := sys.dies.modify 0 fun d => { d with turn := o } } b []
    (∀ o ∈ [some (3, 0), some (4, 0)], Meets (s o) g0 b (.txb 127) ∧ (s o).taken.stashDirty b = false ∧
      EachActive g0 b fun t => (((s o).taken.blockOf b).map (·.txlim)).getD 8 ≤ t.aborts) ∧
    (∀ l ∈ g0.acting, ((s (some (3, 0))).taken.die (dieOf b.core)).turn = some (b.id, l)) ∧
    (∀ l ∈ g0.acting, ¬((s (some (4, 0))).taken.die (dieOf b.core)).turn = some (b.id, l) ∧
      (b.id, l) ∉ ((s (some (4, 0))).taken.die (dieOf b.core)).turnQueue) := by
  refine ⟨fun o ho => ?_, by decide, by decide⟩
  simp only [List.mem_cons, List.not_mem_nil, or_false] at ho
  rcases ho with rfl | rfl <;> exact ⟨meets_on rfl (by decide), by decide, each_one (by decide)⟩

/-- TXE of two lanes whose write sets share a line: the higher one loses. -/
theorem witness_losingLane :
    let t : Thread := { t0 with tx := some { resume := 0x10000, reg := 1, irrevocable := false, writes := [{ line := 0x800, bytes := [(0, 0)] }] } }
    let b : Bundle := { one (.block 2) t with threads := [t, t] }
    let g : Group := { g0 with lanes := [0, 1], active := [0, 1] }
    let s : State := { sys with group := some g, bundles := [b] }
    Meets s g b .txe ∧ (EachActive g b fun t => t.tx.isSome = true) ∧ s.taken.losesInGroup b.id 1 g.acting = true := by
  refine ⟨⟨rfl, rfl, fun x hx _ => List.mem_singleton.mp hx, by decide, by decide, by decide, fun l hl => ?_⟩, fun l hl _ t ht => ?_, by decide⟩
  · have : l = 0 ∨ l = 1 := by simpa using hl
    rcases this with rfl | rfl <;> exact ⟨_, rfl, fun _ => ⟨by decide, .inr (by decide), fun x hx => absurd (show x ∈ ([] : List Src) from hx) List.not_mem_nil⟩⟩
  · have : l = 0 ∨ l = 1 := by simpa using hl
    rcases this with rfl | rfl <;> cases ht <;> rfl

/-- An ATOM that reaches its line's home, one that is applied in the scratchpad, and one whose answer comes back. -/
theorem witness_atomPlaces :
    let ls : List AtomLane := [{ lane := 0, v := 1, v2 := 0 }, { lane := 0, v := 2, v2 := 0 }]
    let r (p : Phase) (pl : Place) : Req := rq (.atom 0 false 127 2 ls) p pl
    let s (p : Phase) (pl : Place) : State := { ev with reqs := [r p pl] }
    (∀ x ∈ [(Phase.issued, Place.mem 0x20000), (.sent, .mem 0x20000), (.issued, .spad 2 0), (.done 1 0 0 [], .mem 0x20000)],
      Sole (s x.1 x.2) (r x.1 x.2) ∧ (r x.1 x.2).size = 4) ∧
    (0x20000 % 64 + 4 ≤ 64 ∧ (s .issued (.mem 0x20000)).mem.wf = true ∧ (s .issued (.mem 0x20000)).lineHeld (0x20000 / 64) (3, 0) true = false) ∧
    (∃ y, (s .issued (.spad 2 0)).block? 2 = some y ∧ y.spad.wf = true) ∧
    homeDie 0x20000 = dieOf 0 ∧ (s (.done 1 0 0 []) (.mem 0x20000)).bundle? 3 = some b0 ∧ (([{ lane := 0, v := 1, v2 := 0 }] : List AtomLane).map (·.lane)).Nodup ∧
    b0.threads[0]? = some t0 ∧ t0.life = .live := by
  refine ⟨fun x hx => ?_, by decide, ⟨_, rfl, by decide⟩, by decide, rfl, by decide, rfl, rfl⟩
  simp only [List.mem_cons, List.not_mem_nil, or_false] at hx
  rcases hx with rfl | rfl | rfl | rfl <;> exact ⟨⟨rfl, rfl, rfl, rfl, rfl, rfl⟩, rfl⟩

/-- A bundle whose live lanes, the first and the last of three, stand at one collective, the first of them active. -/
theorem witness_standing :
    let fmt : Word := 0x400
    let v (i : Instr) (act : Bool) : Thread := { th [(4, fmt)] with conv := some { pc := 0x10000, ipc := 0x10000, instr := i, active := act } }
    let b (i : Instr) : Bundle := { b0 with threads := [v i true, { t0 with life := .exited }, v i false] }
    let s (i : Instr) : State := { sys with bundles := [b i] }
    (∀ i ∈ [Instr.lgetIdx 0 0 127 127 127, .lgetUp 0 0 1 2 3, .lgetDn 0 0 1 2 3, .lgetXor 0 0 1 2 3, .ballot 0 2 3, .redAddI32 0 2 3, .scanAddI32 0 2 3,
        .redMinI32 0 2 3, .mfrag 4 16 8 32], (s i).bundle? 3 = some (b i) ∧ (s i).notStepping 3 ∧ (s i).issues (b i) = true ∧
      (∀ l, ((b i).threads.getD l {}).live = true → l < (b i).threads.length →
        ∃ z, ((b i).threads.getD l {}).conv = some z ∧ z.pc = 0x10000 ∧ z.instr = i) ∧
      [0] = (List.range (b i).threads.length).filter fun l =>
        ((b i).threads.getD l {}).live && (((b i).threads.getD l {}).conv.map (·.active)).getD false) ∧
    (∀ l ∈ [0], ((b (.mfrag 4 16 8 32)).threads.getD l {}).val 4 = fmt) ∧ (mfragK fmt).isSome = true := by
  refine ⟨fun i hi => ⟨rfl, fun k hk => ?_, rfl, fun l hl h => ?_, ?_⟩, by decide, by decide⟩
  · have : some 2 = some k := hk
    cases this; rfl
  · match l with
    | 0 => exact ⟨_, rfl, rfl, rfl⟩
    | 1 => cases hl
    | 2 => exact ⟨_, rfl, rfl, rfl⟩
    | n + 3 => exact absurd h (by simp)
  · simp only [List.mem_cons, List.not_mem_nil, or_false] at hi
    rcases hi with rfl | rfl | rfl | rfl | rfl | rfl | rfl | rfl | rfl <;> decide

/-- A lane that its bundle released at an RCV while it was parked. -/
theorem witness_missedRcv :
    let b := one (.block 2) { t0 with missed := [0x10000] }
    Meets (on sys b []) g0 b .rcv ∧ (b.threads.getD 0 {}).missed.contains g0.start = true := ⟨meets_on rfl (by decide), by decide⟩
/-- A dirty stash line to recall, of a line at its home die. -/
theorem witness_dirtyRecall :
    let m : StashMap := { id := 5, window := 64, length := 64, base := 0x20000, lines := [{ idx := 0, state := .dirty, bytes := [(0, 1)], bundles := [3] }] }
    let v : State := { sysBlk (fun k => { k with maps := [m] }) with bundles := [b0] }
    (v.block? 2).isSome = true ∧ v.stashMap 2 5 = some m ∧ (m.lineAt (m.window + 64 * 0)).state = .dirty ∧ homeDie 0x20000 = dieOf 0 := by decide

/-- An MSPT at the Carver when its die's entries are all taken: with one to evict, and with every one under compilation. -/
theorem witness_carverFull :
    let e : CarverEntry := { id := 6, die := 0, pa := 0x30000, lines := [0xC00] }
    let t (d : Bool) : State := { evTile (tile true 0) with carver := { e with compiling := d } :: List.replicate 2047 e }
    (∀ d ∈ [true, false], (t d).tiles.find? (·.id == 9) = some (tile true 0) ∧ (t d).carverAt 0 0x20000 = none ∧
      (∀ x ∈ (t d).tiles, x.sparse = true → x.bind = 1 → dieOf x.core = 0 → x.pa ≠ 0x20000)) ∧
    (2048 ≤ (t false).entriesUsed 0 ∧ (t false).evictable 0 = some { e with compiling := false }) ∧
    (2048 ≤ (t true).entriesUsed 0 ∧ (t true).evictable 0 = none) ∧ txPeer ((tile true 0).pa / 64) = none := by
  refine ⟨?_, by decide +kernel, by decide +kernel, by decide⟩
  intro d hd
  simp only [List.mem_cons, List.not_mem_nil, or_false] at hd
  rcases hd with rfl | rfl <;> exact ⟨rfl, by decide +kernel, by decide +kernel⟩

/-- A compile that ends on a die whose programs hold more than 2^20 micro-operations, and has nothing to evict. -/
theorem witness_opsFull :
    let e : CarverEntry := { id := 6, die := 0, pa := 0x20000, lines := [0x800] }
    let c : State := { evTile (tile true 1) with carver := [e, { e with id := 7, pa := 0x30000, ops := 2 ^ 20 + 1 }], mem := [(0x20000, 14)] }
    let st : List Byte := e.lines.flatMap c.structLine
    c.carver.find? (·.id == 6) = some e ∧ e.compiling = true ∧ (∀ ln ∈ e.lines, (c.line ln).owner = none ∧ (c.line ln).lock = none) ∧
    sbFails st = none ∧ 2 ^ 20 < c.opsHeld e.die + (if sbDense st e.threshold then 0 else sbOps st) := by decide

/-- A collective's result with a share for lane 0 alone; a commit whose line reads otherwise; a commit of one line of HBM. -/
theorem witness_resultsAndCommits :
    let c : Collective := { id := 9, mfrag := false, shares := [{ lane := 0, dst := 127, old := [], new := [5] }] }
    let s : State := { ev with bundles := [{ b0 with results := [c] }] }
    let x : Tx := { resume := 0x10000, reg := 1, irrevocable := false, reads := [{ line := 0x800, bytes := [(0, 1)] }], commit := some none }
    let u : State := { ev with bundles := [one (.block 2) { t0 with tx := some x }] }
    let y : Tx := { x with reads := [], writes := [{ line := 0x800, bytes := [(63, 1)] }], commit := some (some 0) }
    let w : State := { ev with bundles := [one (.block 2) { t0 with tx := some y }] }
    (s.bundle? 3 = some { b0 with results := [c] } ∧ ([c].find? fun c => c.id == 9 && c.mfrag == false) = some c ∧
      ([c].find? fun c => c.id == 9 && c.mfrag == true) = none ∧ b0.threads[0]? = some t0 ∧ c.shares.countP (·.lane == 0) = 1) ∧
    ((u.thread 3 0).tx = some x ∧ (∀ r ∈ u.reqs, r.of 3 0 = true → r.tx = false) ∧ (∀ ln ∈ x.allLines, (u.line ln).owner = none) ∧
      (∀ ln ∈ x.writeLines, u.compileHolds ln = false) ∧ ((x.allLines.map (u.slice (3, 0) x)).filter fun r => r ≠ 0) = [0x00010002]) ∧
    ((w.thread 3 0).tx = some y ∧ y.writes = [{ line := 0x800, bytes := [(63, 1)] }] ∧ txPeer 0x800 = none ∧ w.mem.wf = true) := by
  refine ⟨by decide, ⟨rfl, fun _ hr => absurd hr List.not_mem_nil, by decide, by decide, by decide⟩, by decide⟩

/-- A future of each state at its home, with a waiter and without; answers to a lane that lives and to one that has ended. -/
theorem witness_futureStates :
    let r (sub : Nat) : Req := rq (.future sub 127 7) .issued (.mem 0x20000)
    let q : Req := { rq (.future 5 127 0) .waiting (.mem 0x20000) with id := 8, bundle := 4 }
    let s (sub : Nat) (st : Byte) (qs : List Req) : State := { ev with mem := if st = 0 then [] else [(0x20004, st)], reqs := qs ++ [r sub] }
    (∀ sub ∈ [3, 4, 5], ∀ st ∈ [(0 : Byte), 1, 2], ∀ qs ∈ [[], [q]], (s sub st qs).req? 9 = some (r sub) ∧ (s sub st qs).anyBundle 3 = some b0 ∧
      (s sub st qs).reaches (r sub) = true ∧ (s sub st qs).inOrder (r sub) = true ∧ (s sub st qs).allPerformed b0 0 4 0 (some 9) = true ∧
      (∀ q ∈ (s sub st qs).reqs, q.phase = .issued → q.id = 9) ∧ (s sub st qs).reqs.length < 4096 ∧
      (s sub st qs).mustHold (r sub) (0x20000 / 64) true = false ∧ leNat (readBytes (s sub st qs).mem 0x20004 4) = st.toNat ∧
      (s sub st qs).waiters (.mem 0x20000) = qs) ∧ q.id ≠ 9 ∧
    (let e (l : Life) (res : List Word) : State := { evReq (.future 5 127 0) (.done 1 0 0 res) (.mem 0x20000) with
      bundles := [one (.block 2) { t0 with life := l, mid := some (.answer 9) }] }
     ∀ l ∈ [Life.live, .exited], ∀ res ∈ [[1, 2], [0, 2]], ((e l res).req? 9).map (·.phase) = some (.done 1 0 0 res) ∧
       ((((e l res).reachTime (rq (.future 5 127 0) (.done 1 0 0 res) (.mem 0x20000)) 1).dropReq 9).thread 3 0).life = l) := by decide

/-- A descriptor of a sound object at 0x20000 in a page of its own, whose state lies in page n, with its flags and the right of page 5. -/
def withDesc (n fl lf : Byte) (s : State) : State := { paged s with
  mem := [(0x20001, 1), (0x20002, 2), (0x20008, 0x40), (0x2000A, n), (0x20010, 64), (0x20018, 4), (0x20019, 4), (0x2001A, 1)] ++
    (if fl = 0 then [] else [(0x2001E, fl)]) ++ [(0x20038, 4), (0x100000, 1), (0x100002, 0x20), (0x200000, 0x01), (0x200002, 0x30), (0x300000, 0x01),
    (0x300002, 0x40), (0x400010, 0x0F), (0x400012, 2), (0x400028, lf), (0x40002A, 5)] }
/-- What a lease finds: 0 it waits, 1 it cannot be had, 2 it is taken. -/
def found {α : Type} : Option (Option α) → Nat
  | none => 0
  | some none => 1
  | some (some _) => 2

/-- Registering and resetting: each status, and the waits for a page that moves and for a wave; calls of a broken object and of a full queue; a
descriptor of another package. -/
theorem witness_objectStatuses :
    let o : Obj := { id := 7, desc := 0x20000, partition := 0, die := 0, method := 0x10000, stateAddr := 0, stateLen := 0, args := 4, replies := 4
                     capacity := 1, gather := 0, codeLen := 4 }
    let r (kd : ReqKind) (pl : Place) : Req := rq kd .issued pl
    let s (kd : ReqKind) (os : List Obj) (n fl lf : Byte) : State := withDesc n fl lf { evReq kd .issued (.mem 0x20000) with objects := os }
    let ready (u : State) (rr : Req) : Bool := u.req? 9 == some rr && u.anyBundle 3 == some b0 && u.clampReady rr && u.allPerformed b0 0 4 0 (some 9)
    let d (u : State) : List Byte := readBytes u.mem 0x20000 64
    let k : Block := { id := 6, task := 0, core := 0, order := 0, nthreads := 1, allot := 32, spadSize := 0, streams := defaultStreams }
    let c : Call := { id := 5, obj := 7, req := 8, core := 0, args := [0, 0, 0, 0], arrived := 0 }
    (∀ kd ∈ [ReqKind.object false 127, .object true 127, .call 120 []], ∀ os ∈ [[], [o]], ready (s kd os 2 0 0x0F) (r kd (.mem 0x20000)) = true ∧
      (s kd os 2 0 0x0F).mustHold (r kd (.mem 0x20000)) (0x20000 / 64) true = false) ∧
    objFieldsOk (d (evReq (.object false 127) .issued (.mem 0x20000))) = false ∧
    (let u := s (.object false 127) [] 2 0 0x0F
     objFieldsOk (d u) = true ∧ u.objectAt 0x20000 = none ∧ (u.objects.filter fun o => o.die == homeDie 0x20000).length < 2048 ∧
       (({ u with objects := [o] } : State).objectAt 0x20000).isSome = true ∧
       2048 ≤ (({ u with objects := List.replicate 2048 { o with desc := 0 } } : State).objects.filter fun o => o.die == homeDie 0x20000).length) ∧
    ([(2, 0x0F), (3, 0x0F), (5, 0x4F)].map fun x => let u := s (.object false 127) [] x.1 0 x.2
      found (u.objLease (u.partOf b0) (homeDie 0x20000) (d u))) = [2, 1, 0] ∧
    ([(2, 0x0F), (3, 0x0F), (5, 0x4F)].map fun x => let u := s (.object true 127) [o] x.1 1 x.2
      (found (u.objRanges (u.partOf b0) (d u)), bit (field (d u) 30 2) 0, objFieldsOk (d u))) = [(2, true, true), (1, true, true), (0, true, true)] ∧
    (∀ w ∈ [true, false], (({ sys with waves := if w then [{ id := 8, obj := 7, bundle := 4, calls := [], blk := k }] else [] } : State).waves.any
      (·.obj == o.id)) = w) ∧
    (let u : State := { s (.call 120 []) [o] 2 0 0x0F with calls := [c] }
     u.objectAt 0x20000 = some o ∧ o.broken = false ∧ o.capacity ≤ u.entriesOf o.id ∧ ({ o with broken := true } : Obj).broken = true) ∧
    ∀ kd ∈ [ReqKind.object false 127, .object true 127, .call 120 []], ready (evReq kd .issued (.peer 511 0x20000)) (r kd (.peer 511 0x20000)) = true := by
  decide +kernel
/-- The one request under way: a store that drains, one at its home, one whose answer comes back, and one to the scratchpad; a load at its home,
and one whose copy has come. -/
theorem witness_soleRequests :
    let k : Copy := { line := 0x800, data := List.replicate 64 1, wts := 4, rts := 259, grant := 0 }
    let ld : ReqKind := .load 4 127 none 0
    let c : Req := { rq ld .issued (.mem 0x20000) with copy := some k }
    let st (p : Phase) (pl : Place) : Req := rq (.store [7] none) p pl
    (∀ r ∈ [st .issued (.mem 0x20000), st .sent (.mem 0x20000), st (.done 1 0 0 []) (.mem 0x20000), st .issued (.spad 2 0), rq ld .issued (.mem 0x20000), c],
      Sole { ev with reqs := [r] } r ∧ r.id = 9 ∧ r.core < ({ ev with reqs := [r] } : State).cores.length ∧
      ({ ev with reqs := [r] } : State).bundle? r.bundle = some b0 ∧ r.lane < 32 ∧ b0.threads[r.lane]? = some t0) ∧
    (homeDie 0x20000 = dieOf 0 ∧ homeDie (64 * (0x20000 / 64)) = dieOf 0 ∧ 0x20000 % 64 + 1 ≤ 64) ∧ ev.mem.wf = true ∧
    (∀ w ∈ [true, false], (evReq (.store [7] none) .sent (.mem 0x20000)).lineHeld (0x20000 / 64) (3, 0) w = false) ∧
    (ev.block? 2).isSome = true ∧ (evReq ld .issued (.mem 0x20000)).policyFor (rq ld .issued (.mem 0x20000)) ≠ 3 ∧
    (k.line = 0x20000 / 64 ∧ (ev.core 0).ctime ≤ k.rts ∧ ev.clk < k.grant + 4096 ∧ t0.life = .live ∧ c.size ≠ 0) := by
  refine ⟨fun r hr => ?_, by decide, by decide, by decide, by decide, by decide, by decide⟩
  simp only [List.mem_cons, List.not_mem_nil, or_false] at hr
  rcases hr with rfl | rfl | rfl | rfl | rfl | rfl <;> exact ⟨⟨rfl, rfl, rfl, rfl, rfl, rfl⟩, rfl, by decide, rfl, by decide, rfl⟩

/-- Of some places, one is the Headstock's choice. -/
theorem chosen_some {s : State} {p what : Nat} {xs : List Nat} (h : xs ≠ []) : ∃ c ∈ xs, s.chosen p what c xs = true := by
  have hn : Config.detPick (what :: xs) % xs.length < xs.length := Nat.mod_lt _ (List.length_pos_iff.mpr h)
  refine ⟨xs[Config.detPick (what :: xs) % xs.length], List.getElem_mem hn, ?_⟩
  simp [State.chosen, List.getD, List.getElem?_eq_getElem hn]

/-- The partitions in deterministic mode. -/
def inDet (s : State) : State := { s with partitions := s.partitions.map fun p => { p with control := 0x10 } }

/-- In deterministic mode: a ready task and the core chosen for it, and a saved block and its core. -/
theorem witness_chosenPlaces :
    let rdy : State := inDet { sys with tasks := sys.tasks.map fun t => { t with phase := .ready }, blocks := [], bundles := [] }
    let sav : State := inDet { sys with blocks := [], bundles := [], saved := sys.blocks.map fun k => { block := k, bundles := [], addr := 0x50000, size := 256 } }
    (∃ t core, rdy.task? 1 = some t ∧ (rdy.part t.partition).det = true ∧ core < 640 ∧ rdy.admits t core = true ∧ rdy.outranked t core = false ∧
      rdy.chosen t.partition t.tid core (rdy.coresFor t) = true) ∧
    ∃ x t core, sav.saved.find? (·.block.id == 2) = some x ∧ sav.task? x.block.task = some t ∧ (sav.part t.partition).det = true ∧ core < 640 ∧
      sav.canRestore x core = true ∧ sav.outranked t core = false ∧ sav.chosen t.partition (sav.tidOf x) core
        ((List.range 640).filter fun c => sav.canRestore x c && !(sav.outranked t c)) = true := by
  intro rdy sav
  constructor
  · have ht : ∃ t, rdy.task? 1 = some t ∧ (rdy.part t.partition).det = true ∧ (rdy.admits t 639 && !(rdy.outranked t 639)) = true := ⟨_, rfl, by decide, by decide⟩
    obtain ⟨t, h1, h2, h3⟩ := ht
    obtain ⟨c, hc, h⟩ := chosen_some (s := rdy) (p := t.partition) (what := t.tid) (xs := rdy.coresFor t)
      (List.ne_nil_of_mem (List.mem_filter.mpr ⟨List.mem_range.mpr (by decide : 639 < 640), h3⟩))
    obtain ⟨hr, hf⟩ := List.mem_filter.mp hc
    simp only [Bool.and_eq_true, Bool.not_eq_true'] at hf
    exact ⟨t, c, h1, h2, List.mem_range.mp hr, hf.1, hf.2, h⟩
  · have ht : ∃ x t, sav.saved.find? (·.block.id == 2) = some x ∧ sav.task? x.block.task = some t ∧ (sav.part t.partition).det = true ∧
        (sav.canRestore x 639 && !(sav.outranked t 639)) = true := ⟨_, _, rfl, rfl, by decide, by decide⟩
    obtain ⟨x, t, h1, h2, h3, h4⟩ := ht
    obtain ⟨c, hc, h⟩ := chosen_some (s := sav) (p := t.partition) (what := sav.tidOf x)
      (xs := (List.range 640).filter fun c => sav.canRestore x c && !(sav.outranked t c))
      (List.ne_nil_of_mem (List.mem_filter.mpr ⟨List.mem_range.mpr (by decide : 639 < 640), h4⟩))
    obtain ⟨hr, hf⟩ := List.mem_filter.mp hc
    simp only [Bool.and_eq_true, Bool.not_eq_true'] at hf
    exact ⟨x, t, c, h1, h2, h3, List.mem_range.mp hr, hf.1, hf.2, h⟩

/-- A quiet block that is to park its task; a fault queue with room, where its page may be written, and a full one. -/
theorem witness_parking :
    let s : State := { sysBlk (fun k => { k with ending := .parking { cause := 3 } 0x10000 0 0 }) with bundles := [] }
    let q (cap : Nat) : State := { paged ev with partitions := (paged ev).partitions.map fun p => { p with fqBase := 0x20000, fqCap := cap } }
    let t : Task := sys.tasks.headD { id := 0, tid := 0, partition := 0, cls := 0, packet := 0, kind := .plain, index := 0, tcb := 0, program := {}, arg := 0, order := 0 }
    let u (cap : Nat) : State := (q cap).modTask t.id fun t => { t with leased := false, xlat := [], phase := .parked, kept := none, fault := some ({ cause := 3, detail := 0, addr := 0 }, 0x10000) }
    (∃ k t, s.block? 2 = some k ∧ s.task? k.task = some t ∧ s.blockQuiet k = true ∧ k.ending = .parking { cause := 3 } 0x10000 0 0 ∧
      k.anyDirty = false ∧ (s.part t.partition).control.getLsbD 3 = false) ∧
    (((u 0).part t.partition).fqHeld = [] ∧ ((u 0).part t.partition).fqCap ≤ ringFill ((u 0).part t.partition).fqWrite ((u 0).part t.partition).fqRead) ∧
    (let p := (u 4).part t.partition
     ringFill p.fqWrite p.fqRead < p.fqCap ∧
       ((u 4).vstore t.partition (p.fqBase.toNat + 64 * (p.fqWrite % p.fqCap)) (List.replicate 64 1) (some 4)).isSome = true) := by
  refine ⟨⟨_, _, rfl, rfl, by decide, rfl, by decide, by decide⟩, by decide, by decide⟩

/-- A register request that fits, and the oldest of two blocks on a core that both wait, which does not. -/
theorem witness_regrow :
    let k (a : Nat) : Block → Block := fun k => { k with allot := a, nthreads := 1024, request := some { shed := false, value := 128, order := 0 } }
    let f : State := sysBlk fun k => { k with allot := 64, request := some { shed := false, value := 128, order := 0 } }
    let s : State := { sys with blocks := (sys.blocks.map (k 64)) ++ (sys.blocks.map (k 64)).map fun k => { k with id := 7, order := 9, request := some { shed := false, value := 128, order := 1 } } }
    (∃ k r, f.oldestGrow 0 = some (k, r) ∧ k.ending = .running ∧ k.halted = false ∧ f.growFits 0 k r = true) ∧
    ∃ k r x y, s.oldestGrow 0 = some (k, r) ∧ s.growFits 0 k r = false ∧ (s.blocks.filter (·.core == 0)) = [x, y] ∧
      ∀ z ∈ [x, y], z.ending = .running ∧ ∃ q, z.request = some q ∧ q.shed = false := by
  refine ⟨⟨_, _, rfl, rfl, rfl, by decide⟩, _, _, _, _, rfl, by decide, rfl, fun z hz => ?_⟩
  simp only [List.mem_cons, List.not_mem_nil, or_false] at hz
  rcases hz with rfl | rfl <;> exact ⟨rfl, _, rfl, rfl⟩

/-- A refused peer store in deterministic mode; a sparse tile whose program cannot be; faults noted for a parked lane and for an ended block. -/
theorem witness_lateFaults :
    let pst : State := inDet (evReq (.store [0] none) .sent (.peer 511 0x20000))
    let prk : State := { ev with bundles := [one (.block 2) { t0 with life := .parked { trap := { cause := 0x0F }, opc := 0x10000, resume := 0x10004 } }] }
    let gone : State := { ev with bundles := [one (.block 2) { t0 with life := .exited }] }
    ((pst.part (pst.partAt 3)).det = true ∧ (pst.part (pst.partAt 3)).lockstep = false ∧ ∀ i ∈ (pst.part (pst.partAt 3)).inputs, i.op ≠ some 9) ∧
    ((evTile { tile true 4 with failed := 1 }).tiles.find? (·.id == 9)).map (·.bind) = some 4 ∧
    ((prk.block? 2).isSome = true ∧ prk.anyThread 2 = true ∧ (∃ q, (prk.thread 3 0).life = .parked q) ∧ (prk.block? 2).map (·.faults) = some []) ∧
    (gone.anyThread 2 = false ∧ (gone.block? 2).map (·.late) = some none) := by
  refine ⟨by decide, by decide, ⟨rfl, by decide, ⟨_, rfl⟩, by decide⟩, by decide, by decide⟩

/-- Pre-emption: in deterministic mode, without one asked for, and of a block that drains, is flushed, or is saved; a flush that has drained. -/
theorem witness_preemptions :
    let s (d r g : Nat) (i : Bool) : State := { sysBlk (fun k => { k with preempt := true, override := some g, idem := i }) with
      partitions := sys.partitions.map fun p => { p with drainThr := d, restartThr := r } }
    let u (x : Nat × Nat × Nat × Bool) : State := s x.1 x.2.1 x.2.2.1 x.2.2.2
    let f : State := { sysBlk (fun k => { k with ending := .flushing }) with bundles := [] }
    ((inDet sys).part 0).det = true ∧ ((inDet sys).part 0).lockstep = false ∧ (sys.block? 2).map (·.preempt) = some false ∧
    (∀ x ∈ [(500, 300, 500, true), (500, 300, 299, true), (500, 300, 300, true), (500, 300, 0, false)],
      ((u x).part 0).det = false ∧ ((u x).part 0).drainThr = 500 ∧ ((u x).part 0).restartThr = 300 ∧
      ((u x).block? 2).map (fun k => (k.preempt, k.ending, k.draining, k.gang, k.progress, k.idem)) =
        some (true, .running, none, none, x.2.2.1, x.2.2.2)) ∧
    ∃ k, f.block? 2 = some k ∧ k.ending = .flushing ∧ (f.flushDiscard k).flushDrained k = true := by
  refine ⟨by decide, by decide, by decide, fun x hx => ?_, _, rfl, rfl, by decide⟩
  simp only [List.mem_cons, List.not_mem_nil, or_false] at hx
  rcases hx with rfl | rfl | rfl | rfl <;> exact ⟨rfl, rfl, rfl, rfl⟩
/-- A task that waits for its lease, with a range in page 5, whose leaf has these flags, in HBM or in the second tier. -/
def leasing (lf : Byte) (tier : Bool) (va : Nat) : State :=
  let s := withDesc 2 0 lf { sys with tasks := sys.tasks.map fun t => { t with
    tid := 7, phase := .waiting, program := { t.program with codeBase := 0x20000, codeLen := 4, ranges := [{ base := va, len := 4, r := true, w := true, hbm := true }] } } }
  if tier then { s with mem := s.mem ++ [(0x40002D, 0x20)] } else s

theorem storeRoom_full {s : State} {o : Obj} {dies : List Nat} {n : Nat} (h : s.objects = List.replicate 256 o) (ho : o.die = 0)
    (hx : entryCount o.xlat = 256) (hd : 0 ∈ dies) (hn : 0 < n) : s.storeRoom dies n = false := by
  have : (s.objects.filter (·.die == 0)) = List.replicate 256 o := by rw [h, List.filter_replicate]; simp [ho]
  refine List.all_eq_false.mpr ⟨0, hd, ?_⟩
  have h2 : (List.replicate 256 256).sum = 65536 := by decide
  simp only [State.storeUsed, this, List.map_replicate, hx, h2, decide_eq_true_eq]
  omega

/-- What a lease meets: room or none in the translation store, a page that migrates, a compressed one, one in the second tier, an absent one. -/
theorem witness_leases :
    let found (s : State) (t : Task) : Except PageNeed (List Xlat) := s.walkAll t.partition (s.versionFrame t.partition (t.unit.map (·.2))) t.program.allRanges
    let o : Obj := { id := 7, desc := 0, partition := 7, die := 0, method := 0x10000, stateAddr := 0, stateLen := 0, args := 4, replies := 4
                     capacity := 1, gather := 0, codeLen := 4, xlat := List.replicate 256 { va := 0, pa := 0, len := 65536 } }
    let full : State := { leasing 0x0F false 0x50000 with objects := List.replicate 256 o }
    (∀ s ∈ [full, leasing 0x4F false 0x50000, leasing 0x2F false 0x50000, leasing 0x8F true 0x50000, leasing 0x0F false 0x30000],
      (s.task? 1).map (fun t => (t.phase, t.deps, s.taskHeld t, (s.part t.partition).launches, t.kind, t.tid != 0)) =
        some (TaskPhase.waiting, [], false, true, TaskKind.plain, true)) ∧
    (∃ t xs, full.task? 1 = some t ∧ found full t = .ok xs ∧ full.storeRoom (full.taskDies t) (entryCount xs) = false) ∧
    ([leasing 0x4F false 0x50000, leasing 0x2F false 0x50000, leasing 0x8F true 0x50000, leasing 0x0F false 0x30000].map fun s =>
      (s.task? 1).map fun t => match found s t with
        | .ok _ => none
        | .error e => some e) = [some (some (.migrating 0x50000)), some (some (.compressed 0x50000)), some (some (.tier 0x50000)), some (some (.absent 0x30000))] := by
  intro found o full
  refine ⟨?_, ?_, by decide +kernel⟩
  · intro s hs
    simp only [List.mem_cons, List.not_mem_nil, or_false] at hs
    rcases hs with rfl | rfl | rfl | rfl | rfl <;> decide +kernel
  · have h : ((full.task? 1).map fun t => ((match found full t with
      | .ok xs => decide (0 < entryCount xs)
      | .error _ => false), decide (0 ∈ full.taskDies t))) = some (true, true) := by decide +kernel
    obtain ⟨t, ht, h⟩ := Option.map_eq_some_iff.mp h
    simp only [Prod.mk.injEq, decide_eq_true_eq] at h
    obtain ⟨h1, h2⟩ := h
    split at h1
    · rename_i xs hx
      exact ⟨t, xs, ht, hx, storeRoom_full (o := o) rfl rfl (by decide) h2 (by simpa using h1)⟩
    · cases h1

/-- A gang of one that is ready, and in deterministic mode the quad chosen for it. -/
theorem witness_gangs :
    let gg : State := { sys with
      blocks := [], bundles := [], tasks := sys.tasks.map fun t => { t with phase := .ready, gang := some (4, 0) }
      gangs := [{ id := 4, partition := 0, tasks := [1], pipes := [] }] }
    let d : State := inDet gg
    let ms (s : State) (g : Gang) : List Task := (s.members g).filter fun t => !(t.phase == .parked)
    (∃ g, gg.gangs.find? (·.id == 4) = some g ∧ gg.gangReady g = true ∧ (gg.part g.partition).det = false ∧
      ∃ w ws, placements.filter (gg.gangFits (ms gg g) 159) = w :: ws) ∧
    ∃ g quad, d.gangs.find? (·.id == 4) = some g ∧ d.gangReady g = true ∧ (d.part g.partition).det = true ∧ quad < 160 ∧
      (∃ w ws, placements.filter (d.gangFits (ms d g) quad) = w :: ws) ∧
      d.chosen g.partition (((ms d g).map (·.tid)).headD 0) quad ((List.range 160).filter fun q => placements.any (d.gangFits (ms d g) q)) = true := by
  intro gg d ms
  constructor
  · refine ⟨_, rfl, by decide, by decide, ?_⟩
    exact List.exists_cons_of_ne_nil (by decide)
  · obtain ⟨g, h1, h2, h3, h4⟩ : ∃ g, d.gangs.find? (·.id == 4) = some g ∧ d.gangReady g = true ∧ (d.part g.partition).det = true ∧
        placements.any (d.gangFits (ms d g) 159) = true := ⟨_, rfl, by decide, by decide, by decide⟩
    obtain ⟨q, hq, h⟩ := chosen_some (s := d) (p := g.partition) (what := ((ms d g).map (·.tid)).headD 0)
      (xs := (List.range 160).filter fun q => placements.any (d.gangFits (ms d g) q))
      (List.ne_nil_of_mem (List.mem_filter.mpr ⟨List.mem_range.mpr (by decide : 159 < 160), h4⟩))
    obtain ⟨hr, hf⟩ := List.mem_filter.mp hq
    obtain ⟨w, hw, hfw⟩ := List.any_eq_true.mp hf
    exact ⟨g, q, h1, h2, h3, List.mem_range.mp hr, List.exists_cons_of_ne_nil (List.ne_nil_of_mem (List.mem_filter.mpr ⟨hw, hfw⟩)), h⟩

/-- A node whose buffer is full when a record comes, and one whose first record has waited its timer. -/
theorem witness_recordsWait :
    let wn (n : Nat) : WNode := { id := 8, die := 0, index := 255, partition := 0, words := 1, timer := 1, program := {}, xlat := [], records := List.replicate n (0, [0]) }
    let rec_ : Req := rq (.wrec 0 255 [0]) .issued .nowhere
    let ar : State := { ev with wnodes := [wn 160], reqs := [rec_] }
    let tm : State := { ev with clk := 1050, wnodes := [wn 1] }
    (ar.req? 9 = some rec_ ∧ (ar.anyBundle 3) = some b0 ∧ ar.reaches rec_ = true ∧ ar.inOrder rec_ = true ∧ ar.reqs = [rec_] ∧
      ar.allPerformed b0 0 3 0 (some 9) = true ∧ ((ar.wnodes.find? (fun n => n.die == 0 && n.index == 255)).map (·.records.length)) = some 160) ∧
    (tm.wnodes.find? (·.id == 8) = some (wn 1) ∧ (wn 1).records = [(0, [0])] ∧ 0 + 1050 * 1 ≤ tm.clk ∧ (tm.part 0).launches = true) := by decide

theorem free_first {used : List (Nat × Nat)} {base size n k i : Nat} (h : ∀ u ∈ used, u.1 + u.2 ≤ base) : ∃ a, freeFrom used base size n (k + 1) i = some a := by
  have : (used.any fun u => overlap u.1 u.2 (base + i % n * size) size) = false := by
    simp only [List.any_eq_false]
    intro u hu
    have := h u hu
    simp only [overlap, Bool.and_eq_true, decide_eq_true_eq]; omega
  exact ⟨_, by simp only [freeFrom, this]; rfl⟩

theorem free_none {used : List (Nat × Nat)} {base size n : Nat} {u : Nat × Nat} (hu : u ∈ used) (h1 : u.1 ≤ base) (h2 : base + n * size ≤ u.1 + u.2)
    (hs : 0 < size) (hn : 0 < n) : ∀ k i, freeFrom used base size n k i = none
  | 0, _ => rfl
  | k + 1, i => by
    have hi : i % n < n := Nat.mod_lt _ hn
    have hm : (i % n + 1) * size ≤ n * size := Nat.mul_le_mul_right _ hi
    have : (used.any fun u => overlap u.1 u.2 (base + i % n * size) size) = true := by
      refine List.any_eq_true.mpr ⟨u, hu, ?_⟩
      rw [Nat.add_mul] at hm
      simp only [overlap, Bool.and_eq_true, decide_eq_true_eq]; omega
    simp only [freeFrom, this, if_true]
    exact free_none hu h1 h2 hs hn k (i + 1)

theorem frameFor_free {s : State} {z : Nat} (hn : 0 < 2 ^ 45 / z) (h : ∀ u ∈ s.framesUsed, u.1 + u.2 ≤ 0x200000000000) : ∃ a, s.frameFor z true = some a := by
  unfold State.frameFor
  simp only [if_true]
  generalize 2 ^ 45 / z = n at hn
  cases n with
  | zero => cases hn
  | succ n => exact free_first h

theorem frameFor_full {s : State} {z : Nat} (hz : 0 < z) (hn : 0 < 2 ^ 45 / z) (h : (0x200000000000, 0x200000000000) ∈ s.framesUsed) :
    s.frameFor z true = none := by
  have hm : 0x200000000000 + 2 ^ 45 / z * z ≤ 0x200000000000 + 0x200000000000 := Nat.add_le_add_left (Nat.div_mul_le_self _ _) _
  unfold State.frameFor
  simp only [if_true]
  generalize 2 ^ 45 / z = n at hn hm
  exact free_none h (Nat.le_refl _) hm hz hn _ _

/-! The tables of a memory whose entries are all below 2^24 name spans below 2^37. -/
theorem readByte_out {a : Nat} : ∀ {m : Mem}, (∀ c ∈ m, c.1 ≠ a) → readByte m a = 0
  | [], _ => rfl
  | c :: m, h => by
    have hc := h c (by simp)
    simp only [readByte, if_neg (Ne.symm hc)]
    split
    · rfl
    · exact readByte_out fun x hx => h x (by simp [hx])

theorem entry_low {mem : Mem} (hm : ∀ a, 3 ≤ a % 8 → readByte mem a = 0) {a : Nat} (ha : a % 8 = 0) : leNat (readBytes mem a 8) < 2 ^ 24 := by
  have h3 := hm (a + 3) (by omega)
  have h4 := hm (a + 4) (by omega)
  have h5 := hm (a + 5) (by omega)
  have h6 := hm (a + 6) (by omega)
  have h7 := hm (a + 7) (by omega)
  have hr : List.range 8 = [0, 1, 2, 3, 4, 5, 6, 7] := rfl
  simp only [readBytes, hr, List.map_cons, List.map_nil, leNat, h3, h4, h5, h6, h7]
  have b0 := (readByte mem (a + 0)).isLt
  have b1 := (readByte mem (a + 1)).isLt
  have b2 := (readByte mem (a + 2)).isLt
  simp only [BitVec.toNat_zero, BitVec.ofNat_eq_ofNat]
  omega

theorem pte_low {mem : Mem} (hm : ∀ a, 3 ≤ a % 8 → readByte mem a = 0) {va t lvl : Nat} (ht : t % 8 = 0) (hl : lvl ≤ 3) :
    (∀ lf, pte mem va t lvl = some (.inl lf) → lf.pa + lf.size ≤ 2 ^ 37) ∧ ∀ x, pte mem va t lvl = some (.inr x) → x % 8 = 0 ∧ x + 8192 ≤ 2 ^ 37 := by
  have he := entry_low hm (a := t + 8 * bits va (16 + 10 * lvl + 9) (16 + 10 * lvl)) (by omega)
  simp only [pte]
  generalize leNat (readBytes mem (t + 8 * bits va (16 + 10 * lvl + 9) (16 + 10 * lvl)) 8) = e at he
  have ha : bits e 45 16 * 65536 < 2 ^ 24 := by simp only [bits]; omega
  have hz : lvl ≠ 3 → 2 ^ (16 + 10 * lvl) ≤ 2 ^ 36 := fun h => Nat.pow_le_pow_right (by decide) (by omega)
  refine ⟨fun lf h => ?_, fun x h => ?_⟩
  · by_cases h3 : lvl = 3
    · simp only [h3, decide_true, Bool.true_or, if_true] at h
      repeat' split at h
      all_goals cases h
    · have := hz h3
      repeat' split at h
      all_goals cases h
      all_goals (show bits e 45 16 * 65536 + 2 ^ (16 + 10 * lvl) ≤ 2 ^ 37; omega)
  · repeat' split at h
    all_goals cases h
    all_goals omega

theorem spans_low {mem : Mem} (hm : ∀ a, 3 ≤ a % 8 → readByte mem a = 0) : ∀ k t, k ≤ 3 → t % 8 = 0 → t + 8192 ≤ 2 ^ 37 →
    ∀ u ∈ tableSpans mem k t, u.1 + u.2 ≤ 2 ^ 37
  | 0, t, hk, ht, hb, u, hu => by
    simp only [tableSpans, List.mem_cons, List.mem_flatMap] at hu
    rcases hu with rfl | ⟨i, _, hu⟩
    · exact hb
    · split at hu
      · rename_i lf h
        split at hu
        · cases hu
        · cases List.mem_singleton.mp hu; exact (pte_low hm ht hk).1 lf h
      · cases hu
  | k + 1, t, hk, ht, hb, u, hu => by
    simp only [tableSpans, List.mem_cons, List.mem_flatMap] at hu
    rcases hu with rfl | ⟨i, _, hu⟩
    · exact hb
    · split at hu
      · rename_i lf h
        cases List.mem_singleton.mp hu; exact (pte_low hm ht hk).1 lf h
      · rename_i x h
        exact spans_low hm k x (by omega) ((pte_low hm ht hk).2 x h).1 ((pte_low hm ht hk).2 x h).2 u hu
      · cases hu

def tierFull : State := { paged ev with
  moves := [{ id := 9, partition := 0, va := 0, entry := 0, frm := 0x200000000000, to_ := 0, size := 0x200000000000, tier := false }] }
def heldPage : State := { paged ev with leases := [{ partition := 0, page := 0x50000, size := 8, holder := 7, xlat := [] }] }

/-- A page to move to the second tier, where there is a frame and where there is none; a leased page. -/
theorem witness_migrations :
    (([paged ev, tierFull, heldPage]).map fun s => (s.walk 0 0x50000).map fun lf => (lf.size, lf.c, lf.m, inTier2 lf.pa, s.isLeased 0 (0x50000 / lf.size * lf.size) lf.size)) =
      [some (65536, false, false, false, false), some (65536, false, false, false, false), some (65536, false, false, false, true)] ∧
    (∃ to_, (paged ev).frameFor 65536 true = some to_) ∧ tierFull.frameFor 65536 true = none := by
  have hm : ∀ a, 3 ≤ a % 8 → readByte (paged ev).mem a = 0 := by
    intro a ha
    have h : ((paged ev).mem.all fun c => decide (c.1 % 8 < 3)) = true := by decide
    refine readByte_out fun c hc => ?_
    have := List.all_eq_true.mp h c hc
    simp only [decide_eq_true_eq] at this
    rintro rfl; omega
  refine ⟨by decide, frameFor_free (by decide) fun u hu => ?_, frameFor_full (by decide) (by decide) ?_⟩
  · have h : ((List.range 8).all fun p => decide (((paged ev).part p).root.toNat = 0x100000) &&
        (((paged ev).leaseRuns p).map (fun (x : Xlat) => (x.pa, x.len)) ++ ((paged ev).part p).renameFree.map (fun f => (f, 65536)) ++
          [(((paged ev).part p).zoneBase.toNat, ((paged ev).part p).zoneSize)]).all fun u => decide (u.1 + u.2 ≤ 2 ^ 37)) = true := by decide
    have hv : (paged ev).versions.flatMap (fun v => v.frames.map fun f => (f, 65536)) = [] ∧ (paged ev).moves = [] := ⟨rfl, rfl⟩
    rw [State.framesUsed, hv.1, hv.2, List.flatMap_nil, List.append_nil, List.append_nil] at hu
    obtain ⟨p, hp, hu⟩ := List.mem_flatMap.mp hu
    have := List.all_eq_true.mp h p hp
    rw [Bool.and_eq_true, decide_eq_true_eq] at this
    rw [List.append_assoc, List.append_assoc, List.mem_append, this.1] at hu
    rcases hu with hu | hu
    · have := spans_low hm 3 _ (by decide) (by decide) (by decide) u hu
      omega
    · rw [← List.append_assoc] at hu
      have := List.all_eq_true.mp this.2 u hu
      simp only [decide_eq_true_eq] at this
      omega
  · simp only [State.framesUsed, List.mem_append, List.mem_flatMap]
    exact .inr ⟨_, List.mem_singleton.mpr rfl, by simp⟩

/-- A packet that waits for its blocks, and one without a signal whose work is done. -/
theorem witness_completion :
    let s (n : Nat) : State := { ev with
      leaderValid := true, expiry := 1000, packets := [{ id := 9, slot := 127, partition := 0, die := 0, index := 0, bytes := [], status := some (0, 0, 0, 0), left := n }] }
    (∀ n ∈ [0, 1], ((s n).packet? 9).map (fun p => (p.status, p.left, (s n).heldBack p, (s n).fetching, p.gap, p.word 8 8)) =
      some (some (0, 0, 0, 0), n, false, true, false, 0)) ∧ ∀ d < 8, d ≠ 0 → ((s 0).part d).det = false := by
  refine ⟨fun n hn => ?_, by decide⟩
  simp only [List.mem_cons, List.not_mem_nil, or_false] at hn
  rcases hn with rfl | rfl <;> rfl

/-- What begins: a SIGNAL whose page does not move; the removal of a node that is there; an index in use, and one that is free with a sound TCB. -/
theorem witness_beginNodes :
    let pk (xs : List (Nat × Nat × Nat)) : Packet := { id := 9, slot := 127, partition := 0, die := 0, index := 0, wnode := some {}
                                                       bytes := xs.foldl (fun m x => patch m x.1 (leBytes x.2.1 x.2.2)) (List.replicate 64 0) }
    let n : WNode := { id := 8, die := 3, index := 255, partition := 0, words := 1, timer := 1, program := {}, xlat := [] }
    let s : State := { paged ev with wnodes := [n] }
    ((s.modPacket 9 fun x => { x with started := true }).headWaits 0 0x20000 = false ∧ ∀ d < 8, d ≠ 0 → (s.part d).det = false) ∧
    (let p := pk [(0, 1, 7), (24, 1, 255), (28, 1, 3)]
     p.word 0 1 = 7 ∧ p.word 16 8 = 0 ∧ (s.wnodes.find? fun n => n.die == p.word 28 1 && n.index == p.word 24 1 && n.partition == p.partition) = some n) ∧
    (let p := pk [(0, 1, 7), (16, 8, 0x20000), (24, 1, 255), (28, 1, 3)]
     p.word 0 1 = 7 ∧ p.word 16 8 ≠ 0 ∧ (s.wnodes.any fun n => n.die == p.word 28 1 && n.index == p.word 24 1) = true) ∧
    (let p := pk [(0, 1, 7), (16, 8, 0x20000), (24, 1, 254), (28, 1, 3)]
     p.word 0 1 = 7 ∧ p.word 16 8 ≠ 0 ∧ (s.wnodes.any fun n => n.die == p.word 28 1 && n.index == p.word 24 1) = false ∧ p.wnode.isSome = true) := by decide

/-- A host access under way and none; an answer to an enqueue; a slot that cannot be mapped; a partition with and without a mapped slot. -/
theorem witness_windowInputs :
    let x : Inbound := { id := 9, partition := 0, va := 0, size := 4, write := none, host := true, pkg := 0, arrived := 0 }
    let m : State := { sys with slots := sys.slots.set 127 { mapped := true, qcb := 0x100000000000, base := 0x50000, log2 := 4, readIdx := 15, writeIdx := 16, partition := 7 } }
    (({ sys with inbound := [x] } : State).inbound.any fun y => y.id == 9 && y.enqueue.isNone) = true ∧
    (sys.inbound.any fun y => y.id == 9 && y.enqueue.isNone) = false ∧ (sys.inbound.any fun y => y.id == 9 && y.enqueue.isSome) = false ∧
    ((evReq (.pwenq 127 [] [] []) (.done 0 0 0 [2, 0, 0]) .nowhere).req? 9).map (·.phase) = some (.done 0 0 0 [2, 0, 0]) ∧
    ((m.part (m.slotPart 127)).det = false ∧ 6 ≤ m.bringup ∧ (m.slot 127).mapped = true) ∧
    (m.anyMapped 7 = true ∧ (m.part 7).det = false ∧ m.anyMapped 0 = false ∧ (m.part 0).det = false) := by decide

/-- Doorbells: behind the write index, past the ring's end, and within it, with a leader and without. -/
theorem witness_doorbells :
    let m : State := { sys with slots := sys.slots.set 127 { mapped := true, qcb := 0x100000000000, base := 0x50000, log2 := 4, readIdx := 15, writeIdx := 16 } }
    let f : State := { m with leaderValid := true, expiry := 1000 }
    ((m.part (m.slotPart 127)).det = false ∧ 6 ≤ m.bringup ∧ (m.slot 0).mapped = false ∧ (m.slot 127).mapped = true) ∧
    (15 < (m.slot 127).writeIdx ∧ (m.slot 127).writeIdx ≤ 32 ∧ (m.slot 127).readIdx + 2 ^ (m.slot 127).log2 < 32) ∧
    ((m.slot 127).writeIdx ≤ 31 ∧ 31 ≤ (m.slot 127).readIdx + 2 ^ (m.slot 127).log2 ∧ m.fetching = false ∧
      (f.modSlot 127 fun x => { x with writeIdx := 31 }).fetching = true) := by decide

/-- Tasks that a requeue or a cancel names: none, a plain one, one of a node; parked and not. -/
theorem witness_commandTasks :
    let s (k : TaskKind) (p : TaskPhase) : State := { sys with tasks := sys.tasks.map fun t => { t with kind := k, phase := p, tid := 7, tcb := 1 } }
    let parked (s : State) (n : Nat) : Option Task := s.tasks.find? fun t => t.partition == 0 && t.tid == n && t.phase == .parked
    let owned (s : State) (n : Nat) : Option Task := s.tasks.find? fun t => t.partition == 0 && t.tid == n && (t.phase == .parked || t.inLease)
    (parked (s .plain .parked) 8).isNone = true ∧ (owned (s .plain .parked) 8).isNone = true ∧ (sys.part 0).det = false ∧ (sys.part 0).fqHeld = [] ∧
    (parked (s (.node 4 0 1 0) .parked) 7).map (·.kind) = some (.node 4 0 1 0) ∧ (owned (s (.node 4 0 1 0) .parked) 7).map (·.kind) = some (.node 4 0 1 0) ∧
    (owned (s .plain .parked) 7).map (fun t => (t.kind, t.unit, t.gang)) = some (.plain, none, none) ∧
    (((parked (s .plain .parked) 7).map fun t => (t.kind, match (s .plain .parked).readTcb 0 t.tcb t.arg none with
      | .fails _ _ => true
      | _ => false)) = some (.plain, true)) := by decide

/-- A parked task whose TCB is sound, and one whose TCB lies in a page that moves. -/
theorem witness_requeues :
    let t (s : State) : State := { s with tasks := sys.tasks.map fun t => { t with phase := .parked, tid := 7, tcb := 0x20000 } }
    let q : State := t (queued (tcbCells 0x20000 8))
    let w : State := t (withDesc 2 0 0x0F sys)
    let m : State := { w with mem := (w.mem.filter fun c => !(c.1 == 0x400010)) ++ [(0x400010, 0x4F)] }
    let mv : State := { m with mem := (w.mem.map fun c => if c.1 = 0x400010 then (c.1, 0x4F) else c) }
    (∃ x, (q.tasks.find? fun t => t.partition == 0 && t.tid == 7 && t.phase == .parked) = some x ∧ x.kind = .plain ∧
      q.readTcb 0 x.tcb x.arg none = .ok q (tcbBytes 8) (tcbProgram (tcbBytes 8) [] x.arg)) ∧
    ∃ x, (mv.tasks.find? fun t => t.partition == 0 && t.tid == 7 && t.phase == .parked) = some x ∧ x.kind = .plain ∧
      mv.readTcb 0 x.tcb x.arg none = .wait := by
  intro t q w m mv
  refine ⟨⟨_, rfl, rfl, readTcb_flat (by decide) (get_flat (by decide +kernel) (by decide) (by decide) (by decide +kernel)) (by decide) (by decide)⟩, _, rfl, rfl, ?_⟩
  have h : (match mv.readTcb 0 0x20000 0 none with
    | .wait => true
    | _ => false) = true := by decide +kernel
  show mv.readTcb 0 0x20000 0 none = .wait
  split at h
  · assumption
  · cases h

/-! Single steps. -/

/-- Thread 0 of bundle 3 one step after it meets an instruction, from a thread changed by f. -/
def stepped (i : Instr) (f : Thread → Thread) : Option Thread := match encode i with
  | none => none
  | some e =>
    let bs := e.bytes
    let w := bs.reverse.foldl (fun n b => 256 * n + b.toNat) 0
    match step ((State.reset.withFetchWord (8 * bs.length) w).modThread 3 0 f) with
    | .next u => u.thread? 3 0
    | _ => none
/-- The same from some register values, and what a register and the flags then hold. -/
def result (i : Instr) (xs : List (Nat × Word)) (r : Nat) : Option (Word × Word) :=
  (stepped i fun t => { t with regs := (th xs).regs }).map fun t => (t.val r, t.fflags)

/-- R104: d = 5, a = 0x7FFF_FFFF, b = 3: the sum saturates and ADDMIN keeps d; ADDMAX takes it. -/
theorem test_addmin : result (.addmin 0 0 3 2 1) [(1, 5), (2, 0x7FFFFFFF), (3, 3)] 1 = some (5, 0) := by decide
theorem test_addmax : result (.addmax 0 0 3 2 1) [(1, 5), (2, 0x7FFFFFFF), (3, 3)] 1 = some (0x7FFFFFFF, 0) := by decide
/-- R106: a = 0b1011_0100: FIND with b = 2 gives 5, with b = 4 gives 32; PFXP with b = 5 gives 2. -/
theorem test_find : result (.find 0 0 3 2 1) [(2, 0xB4), (3, 2)] 1 = some (5, 0) ∧ result (.find 0 0 3 2 1) [(2, 0xB4), (3, 4)] 1 = some (32, 0) := by decide
theorem test_pfxp : result (.pfxp 0 0 3 2 1) [(2, 0xB4), (3, 5)] 1 = some (2, 0) := by decide
/-- R105: a division by 0 gives all ones; the one overflow gives the dividend and remainder 0. -/
theorem test_div : result (.divI32 0 0 3 2 1) [(2, 7)] 1 = some (0xFFFFFFFF, 0) ∧
    result (.remI32 0 0 3 2 1) [(2, 0x80000000), (3, 0xFFFFFFFF)] 1 = some (0, 0) := by decide
/-- R107: ADDI sign-extends its immediate; the sum wraps. -/
theorem test_addi : result (.addi 0xFFF 2 1) [(2, 0)] 1 = some (0xFFFFFFFF, 0) := by decide
/-- R24: a write to w0 is discarded. -/
theorem test_w0 : result (.addi 5 2 0) [(2, 1)] 0 = some (0, 0) := by decide
/-- R103: a count is taken from b[4:0]. -/
theorem test_shl : result (.shl 0 0 3 2 1) [(2, 1), (3, 0x21)] 1 = some (2, 0) := by decide
/-- R102: a pair's carry. -/
theorem test_addD : result (.addD 0 0 4 2 6) [(2, 0xFFFFFFFF), (4, 1)] 7 = some (1, 0) := by decide
/-- R119 and R129 by hand: 1 + 2 = 3; 2^24 + 1 is a tie and rounds to even with NX. -/
theorem test_fadd : result (.fadd 0 0 3 2 1) [(2, 0x3F800000), (3, 0x40000000)] 1 = some (0x40400000, 0) ∧
    result (.fadd 0 0 3 2 1) [(2, 0x4B800000), (3, 0x3F800000)] 1 = some (0x4B800000, 0x10) := by decide
/-- R134: fexp2 of 3.0 returns 8.0, flog2 of 8.0 returns 3.0. -/
theorem test_fexp2 : result (.fexp2 0 2 1) [(2, 0x40400000)] 1 = some (0x41000000, 0) := by decide
theorem test_flog2 : result (.flog2 0 2 1) [(2, 0x41000000)] 1 = some (0x40400000, 0) := by decide
/-- R136: −2.75 to i32 toward zero gives −2 with NX; 16,777,217 to f32 gives 16,777,216 with NX. -/
theorem test_cvt : result (.cvt 0 1 10 4 2 1) [(2, 0xC0300000)] 1 = some (0xFFFFFFFE, 0x10) ∧
    result (.cvt 0 0 4 10 2 1) [(2, 16777217)] 1 = some (0x4B800000, 0x10) := by decide
/-- R136: 300 to i8 wraps to 0x2C, or saturates to 0x7F. -/
theorem test_cvt_integers : result (.cvt 0 0 4 0 2 1) [(2, 300)] 1 = some (0x2C, 0) ∧ result (.cvt 1 0 4 0 2 1) [(2, 300)] 1 = some (0x7F, 0) := by decide
/-- The eight values of the worked example of R137, with feedback from residue 0: w9 and the new residues of elements 0 and 3. -/
theorem test_cvtpEf : (stepped (.cvtpEf 0 14 2 16 9) fun t => { t with regs := (th [(16, 0x3F200000), (17, 0x3FA00000), (18, 0x40200000), (19, 0x3E400000),
      (20, 0xBF200000), (21, 0x40600000), (22, 0x3E000000), (23, 0x7FC00000)]).regs }).map (fun t => (t.val 9, t.resid.getD 16 0, t.resid.getD 19 0, t.fflags)) =
    some (0x007A1642, 0x3E000000, 0xBD800000, 0x1D) := by decide
/-- R108 and R109: CMP.XOR on a signed comparison. -/
theorem test_cmp : (stepped (.cmp 0 0 3 3 2 2 5) fun t => { t with regs := (th [(2, 0xFFFFFFFF), (3, 1)]).regs, preds := t.preds.set 5 true }).map
    (fun t => (t.pred 5, t.pred 7)) = some (false, true) := by decide
/-- R67: a branch not taken, and one taken backwards by 4 bytes. -/
theorem test_br : (stepped (.br 0x7FFFE 0 1) id).map (·.pc) = some 0x10004 ∧ (stepped (.br 0x7FFFE 1 1) id).map (·.pc) = some 0xFFFC := by decide
/-- R68: CALLR reads its target before it writes the link. -/
theorem test_callr : (stepped (.callr 126) fun t => { t with regs := (th [(126, 0x20000)]).regs }).map (fun t => (t.pc, t.val 126)) = some (0x20000, 0x10004) := by decide
/-- R318: XNEXT on the mask 0b101100 with maps 0b100100 and 0b111: the set bit 2 leaves, its ranks are 0 and 2. -/
theorem test_xnext : (stepped (.xnext 4 2 6) fun t => { t with regs := (th [(2, 0x2C), (4, 0x24), (5, 7)]).regs }).map
    (fun t => (t.val 6, t.val 7, t.val 2, t.pred 0)) = some (0, 2, 0x28, true) := by decide
/-- R121: SWR of %fflags keeps five bits. -/
theorem test_swr : (stepped (.swr 0x21 2) fun t => { t with regs := (th [(2, 0xFFFFFFFF)]).regs }).map (·.fflags) = some 0x1F := by decide
/-- R331: BREAK without a handler halts the block; its thread stands at the next instruction. -/
theorem test_brk : (stepped .brk id).map (fun t => (t.pc, t.life)) = some (0x10004, .live) := by decide
end Sys2Proof.Tests
end

section
/-! SUPPORT. Power-on reset (R19, R430, R437, R440): what the state after it holds. -/

namespace Sys2Proof.Machine

/-- A list of defaults reads as the default everywhere. -/
theorem getD_replicate_self {α : Type} (n k : Nat) (d : α) : (List.replicate n d).getD k d = d := by
  rw [List.getD_eq_getElem?_getD, List.getElem?_replicate]
  split <;> rfl

/-- Reset leaves every partition but partition 0 absent (R19); a number that names none reads as an absent partition too. -/
theorem State.part_reset_mode_of_pos (p : Nat) (h : 1 ≤ p) : (State.reset.part p).mode = 0 := by
  obtain ⟨n, rfl⟩ : ∃ n, p = n + 1 := ⟨p - 1, by omega⟩
  have hPart : State.reset.part (n + 1) = (List.replicate 7 ({} : Partition)).getD n {} := rfl
  rw [hPart, getD_replicate_self]

/-- Reset maps no queue slot. -/
theorem State.slot_reset (k : Nat) : State.reset.slot k = {} := getD_replicate_self 128 k ({} : Slot)

/-- What a power-on reset keeps (R438, R440) is no part of the partitions and the queue slots. -/
@[simp] theorem State.part_afterReset (s : State) (p : Nat) : s.afterReset.part p = State.reset.part p := rfl
@[simp] theorem State.slot_afterReset (s : State) (k : Nat) : s.afterReset.slot k = State.reset.slot k := rfl

/-- Settles O9: the state after a power-on reset is that of reset but for what non-volatile storage and the model's own counters keep. -/
theorem powerOnResetStartsTheMachine : Obligations.PowerOnResetStartsTheMachine := by
  intro s
  have hAbsent : ∀ p, 1 ≤ p → p < 8 → (s.afterReset.part p).mode = 0 := fun p h _ => State.part_reset_mode_of_pos p h
  have hUnmapped : ∀ k, (s.afterReset.slot k).mapped = false := fun k => by rw [State.slot_afterReset, State.slot_reset]
  exact ⟨s.afterReset, rfl, rfl, rfl, rfl, rfl, rfl, rfl, hAbsent, rfl, rfl, rfl, rfl, hUnmapped, rfl, rfl⟩

end Sys2Proof.Machine
end

section
/-! SUPPORT. The Headstock, determinism and lockstep (R19, R391, R410 to R412, R425, R426, R428, R429): what each of their events leaves where
its condition holds. -/

namespace Sys2Proof.Machine

/-! What the dispatch answers for each of these events. -/

theorem exec_partitionInstall (s : State) : exec .partitionInstall s = execPartitionInstall s := by rfl
theorem exec_leaderRenew (s : State) : exec .leaderRenew s = execLeaderRenew s := by rfl
theorem exec_leaderPoll (die : Nat) (s : State) : exec (.leaderPoll die) s = execLeaderPoll die s := by rfl
theorem exec_headstockTakeover (die : Nat) (s : State) : exec (.headstockTakeover die) s = execHeadstockTakeover die s := by rfl
theorem exec_inboundTimeout (op : Nat) (s : State) : exec (.inboundTimeout op) s = execInboundTimeout op s := by rfl
theorem exec_inputBoundary (p : Nat) (s : State) : exec (.inputBoundary p) s = execInputBoundary p s := by rfl
theorem exec_checkpoint (p : Nat) (s : State) : exec (.checkpoint p) s = execCheckpoint p s := by rfl
theorem exec_lockstepInputMessage (p kind target : Nat) (value : BitVec 64) (s : State) :
    exec (.lockstepInputMessage p kind target value) s = execLockstepInputMessage p kind target value s := by rfl
theorem exec_lockstepHashArrival (p : Nat) (hash : List (BitVec 8)) (s : State) :
    exec (.lockstepHashArrival p hash) s = execLockstepHashArrival p hash s := by rfl
theorem exec_lockstepHashTimeout (p : Nat) (s : State) : exec (.lockstepHashTimeout p) s = execLockstepHashTimeout p s := by rfl

/-! A partition under a change. -/

theorem State.part_modPart_self (s : State) (p : Nat) (f : Partition → Partition) (h : p < s.partitions.length) :
    (s.modPart p f).part p = f (s.part p) := by
  simp [State.part, State.modPart, h]

/-- A change of a partition is what it does to the partition as it stands. -/
theorem State.modPart_congr (s : State) (p : Nat) (f g : Partition → Partition) (h : f (s.part p) = g (s.part p)) :
    s.modPart p f = s.modPart p g := by
  have hl : s.partitions.modify p f = s.partitions.modify p g := by
    apply List.ext_getElem?
    intro n
    rw [List.getElem?_modify, List.getElem?_modify]
    by_cases hn : p = n
    · subst hn
      cases hq : s.partitions[p]? with
      | none => rfl
      | some q =>
        have : s.part p = q := by simp [State.part, hq]
        simpa [this] using h
    · simp [hn]
  simp only [State.modPart, hl]

/-- A bit of a register is that bit of its value. -/
theorem bit_toNat {w : Nat} (v : BitVec w) (i : Nat) : bit v.toNat i = v.getLsbD i := by
  rw [BitVec.getLsbD, Nat.testBit_eq_decide_div_mod_eq]
  rfl

/-! The partition configuration block (R16, R19). -/

/-- A sound table waits for its quads. -/
theorem State.configCommand_sound (s : State) (hr : s.presult ≠ 1) (ht : s.tableBad s.ptable = none) :
    s.configCommand 1 = { s with presult := 1, pnext := s.ptable } := by
  simp [State.configCommand, hr, ht]

/-- A table that fails a check is not installed; the result says which. -/
theorem State.configCommand_unsound (s : State) (r : Nat) (hr : s.presult ≠ 1) (ht : s.tableBad s.ptable = some r) :
    s.configCommand 1 = { s with presult := r } := by
  simp [State.configCommand, hr, ht]

/-- A partition with what an entry of the table gives it. -/
def Partition.entered (q : Partition) (e : List Byte) : Partition :=
  { q with mode := field e 20 1, quads := entryQuads e, ways := field e 21 1, channels := field e 22 1 }

/-- The checked table is installed once no block is resident in a quad that changes owner or mode. -/
theorem exec_partitionInstall_of_idle (s : State) (hr : s.presult = 1)
    (hq : ∀ k ∈ s.blocks, s.quadOwner (k.core / 4) = tableOwner s.pnext (k.core / 4)) :
    exec .partitionInstall s = .next { s with
      presult := 0, pnext := [], partitions := s.partitions.mapIdx fun p q => q.entered (s.pnext.getD p []) } := by
  have hIdle : (s.blocks.any fun k => !(s.quadOwner (k.core / 4) == tableOwner s.pnext (k.core / 4))) = false := by
    simpa using hq
  simp only [exec_partitionInstall, execPartitionInstall, hr, hIdle, ne_eq, not_true_eq_false, if_false, Bool.false_eq_true, Partition.entered]

/-! The leader (R411, R412, R437). -/

theorem exec_leaderRenew_of_inTime (s : State) (hv : s.leaderValid = true) (ht : s.time 0 ≤ s.expiry) :
    exec .leaderRenew s = .next { s with expiry := s.time s.leaderDie + 1000000 } := by
  simp only [exec_leaderRenew, execLeaderRenew, hv, ht, decide_true, Bool.and_self, if_true]

/-- A vacant leader's place, or one whose lease a follower finds lapsed, is taken with the next epoch. -/
theorem exec_leaderPoll_of_lapsed (die : Nat) (s : State) (hd : die ≤ 3) (hb : 3 ≤ s.bringup)
    (hl : s.leaderValid = false ∨ (s.leaderDie ≠ die ∧ s.expiry < s.time die)) :
    exec (.leaderPoll die) s = .next { s with
      leaderDie := die, leaderValid := true, epoch := (s.epoch + 1) % 2 ^ 29, expiry := s.time die + 1000000, takingOver := true } := by
  have hDie : ¬ 3 < die := by omega
  have hStep : ¬ s.bringup < 3 := by omega
  have hFree : (s.leaderValid && (s.leaderDie == die || decide (s.time die ≤ s.expiry))) = false := by
    rcases hl with hv | ⟨hne, hlt⟩
    · simp [hv]
    · simp [hne, hlt]
  simp only [exec_leaderPoll, execLeaderPoll, hDie, hStep, hFree, decide_false, Bool.or_self, Bool.false_eq_true, if_false]

/-- There is no leader to follow before step 3 of bring-up. -/
theorem exec_leaderPoll_before_bringup (die : Nat) (s : State) (hb : s.bringup < 3) : exec (.leaderPoll die) s = .next s := by
  simp only [exec_leaderPoll, execLeaderPoll, hb, decide_true, Bool.or_true, Bool.true_or, if_true]

/-- The slot map rebuilt by a new leader: each mapped queue's control block is written. -/
def State.rebuilt (s : State) : State :=
  (List.range 128).foldl (fun u k => if (u.slot k).mapped then u.writeQcb k else u) { s with takingOver := false }

/-- A new leader rebuilds the slot map and reports its epoch to each partition that is present. -/
theorem exec_headstockTakeover_of_leader (die : Nat) (s : State) (ht : s.takingOver = true) (hl : s.leaderDie = die) :
    exec (.headstockTakeover die) s = .next (((List.range 8).filter fun p => !((s.rebuilt.part p).mode == 0)).foldl
      (fun v p => v.queueRecord p 0x7F (BitVec.ofNat 64 v.epoch) 2) s.rebuilt) := by
  have hLeads : (!s.takingOver || !(s.leaderDie == die)) = false := by simp [ht, hl]
  simp only [exec_headstockTakeover, execHeadstockTakeover, hLeads, Bool.false_eq_true, if_false]
  rfl

/-! Inbound accesses that time out (R391, R410). -/

/-- The state in which a late access is answered: it is held no longer, and the target's ring has its record. -/
def State.inboundLate (s : State) (x : Inbound) : State :=
  ({ s with inbound := s.inbound.filter fun y => !(y == x) } : State).inboundRecord
    x.partition x.va.toNat true x.write.isSome x.host x.pkg

/-- A late access is answered as one that failed. -/
theorem exec_inboundTimeout_of_access (op : Nat) (s : State) (x : Inbound) (hx : s.inbound.find? (·.id == op) = some x)
    (hc : x.arrived + 2100000 ≤ s.clk) (he : x.enqueue = none) :
    exec (.inboundTimeout op) s = .next ((s.inboundLate x).answer x.partition op false []) := by
  have hLate : ¬ s.clk < x.arrived + 2100000 := by omega
  simp only [exec_inboundTimeout, execInboundTimeout, hx, hLate, he, if_false, Option.isSome_none, Bool.false_eq_true, State.inboundLate]

/-- A late write-with-enqueue of a peer is answered with an error and the page it named. -/
theorem exec_inboundTimeout_of_enqueue (op : Nat) (s : State) (x : Inbound) (d : List Byte × List Byte)
    (hx : s.inbound.find? (·.id == op) = some x) (hc : x.arrived + 2100000 ≤ s.clk) (he : x.enqueue = some d) :
    exec (.inboundTimeout op) s = .next ((s.inboundLate x).enqueueError x.partition op x.pkg (x.va.toNat / 65536 * 65536)) := by
  have hLate : ¬ s.clk < x.arrived + 2100000 := by omega
  simp only [exec_inboundTimeout, execInboundTimeout, hx, hLate, he, if_false, Option.isSome_some, if_true, State.inboundLate]

/-! Input boundaries (R425, R428). -/

theorem exec_inputBoundary_of_due (s : State) (p : Nat) (h : s.boundaryDue p = true) :
    exec (.inputBoundary p) s = .next (s.inputBoundary p) := by
  simp only [exec_inputBoundary, execInputBoundary, h, if_true]

/-- A boundary's inputs applied and logged, from the state in which the boundary has begun; a stop at a mark comes last. -/
def State.runBoundary (s : State) (p now : Nat) (xs : List Input) : State :=
  let r := s.applyInputs p (xs.filter fun x => !x.isStop)
  (xs.filter Input.isStop).foldl (applyPlain p) (r.1.modPart p fun y => { y with
    inputs := y.inputs ++ r.2.2, replay := y.replay.drop 1
    logs := match y.logs with
      | [] => []
      | i :: is => { i with inputs := i.inputs ++ [(y.boundary, now, r.2.1)] } :: is })

/-- With nothing to run again, a boundary applies the inputs it holds in the order of R425. -/
theorem State.inputBoundary_of_held (s : State) (p : Nat) (h : (s.part p).replay = []) :
    s.inputBoundary p = (s.modPart p fun q => { q with
      boundary := q.boundary + 1, boundaryClk := s.clk, boundaryTime := s.time 0, inputs := [] }).runBoundary p (s.time 0)
        (inputOrder (s.part p).inputs) := by
  have hNone : (if (s.part p).det then (s.part p).replay.head? else none) = none := by simp [h]
  simp only [State.inputBoundary, hNone]
  rfl

/-- A re-execution's boundary applies the logged inputs at their logged time, and keeps those it holds. -/
theorem State.inputBoundary_of_replay (s : State) (p : Nat) (x : Nat × Nat × List Input) (rest : List (Nat × Nat × List Input))
    (hd : (s.part p).det = true) (h : (s.part p).replay = x :: rest) :
    s.inputBoundary p = (s.modPart p fun q => { q with
      boundary := q.boundary + 1, boundaryClk := s.clk, boundaryTime := x.2.1 }).runBoundary p x.2.1 x.2.2 := by
  have hSome : (if (s.part p).det then (s.part p).replay.head? else none) = some x := by simp [hd, h]
  simp only [State.inputBoundary, hSome]
  rfl

/-! Checkpoints (R426). -/

theorem exec_checkpoint_of_due (s : State) (p : Nat) (h : s.checkpointDue p = true) :
    exec (.checkpoint p) s = .next (s.checkpoint p) := by
  simp only [exec_checkpoint, execCheckpoint, h, if_true]

/-- The interval that a checkpoint at the present boundary begins where no block is resident: no record of one lies in the log area. -/
def State.emptyInterval (s : State) (p at_ : Nat) : Interval :=
  { number := (s.part p).interval + 1, snapshot := s.snapshot p, start := (s.part p).boundary,
    time := (s.part p).boundaryTime, at_ := at_, len := 0 }

/-- Outside lockstep, with no block resident, a checkpoint writes no record: it begins an interval and keeps two logs. -/
theorem State.checkpoint_of_no_blocks (s : State) (p : Nat) (hl : (s.part p).lockstep = false) (hb : s.partBlocks p = []) :
    ∃ o, s.checkpoint p = s.drawn.modPart p fun q => { q with
      interval := (s.part p).interval + 1, logs := (s.drawn.emptyInterval p o :: q.logs).take 2 } := by
  refine ⟨((s.part p).logSpots ((s.part p).logs.take 1) 0).getD
    (Config.pick s.draw % ((s.part p).logSpots ((s.part p).logs.take 1) 0).length) 0, ?_⟩
  simp only [State.checkpoint, hb, hl, List.map_nil, List.foldl_nil, List.flatten_nil, List.length_nil, ite_self, if_true,
    Bool.not_false]
  exact State.modPart_congr _ _ _ _ rfl

/-! Lockstep (R429). -/

/-- A secondary holds what it makes of its primary's message. -/
theorem exec_lockstepInputMessage_of_secondary (s : State) (p kind target : Nat) (value : BitVec 64) (i : Input)
    (hl : (s.part p).lockstep = true) (hs : (s.part p).control.getLsbD 6 = false) (hi : inputOf p kind target value = some i) :
    exec (.lockstepInputMessage p kind target value) s = .next (s.modPart p fun q => { q with inputs := q.inputs ++ [i] }) := by
  have hSecondary : (!(s.part p).lockstep || bit (s.part p).control.toNat 6) = false := by rw [bit_toNat, hl, hs]; rfl
  simp only [exec_lockstepInputMessage, execLockstepInputMessage, hSecondary, hi, Bool.false_eq_true, if_false]

/-- The partner's hash put behind those that await the device's own. -/
def State.hashArrived (s : State) (p : Nat) (hash : List Byte) : State :=
  s.modPart p fun q => { q with theirs := q.theirs ++ [hash] }

theorem State.part_hashArrived (s : State) (p : Nat) (hash : List Byte) (ht : (s.part p).theirs = []) (hp : p < s.partitions.length) :
    (s.hashArrived p hash).part p = { s.part p with theirs := [hash] } := by
  rw [State.hashArrived, State.part_modPart_self s p _ hp, ht]
  rfl

/-- The first hash of the partner meets the device's own once. -/
theorem exec_lockstepHashArrival_of_first (s : State) (p : Nat) (hash : List Byte) (hl : (s.part p).lockstep = true)
    (hf : (s.part p).failStopped = false) (ht : (s.part p).theirs = []) (hp : p < s.partitions.length) :
    exec (.lockstepHashArrival p hash) s = .next ((s.hashArrived p hash).compareHashes p) := by
  have hCompare : (s.hashArrived p hash).compareAll p = (s.hashArrived p hash).compareHashes p := by
    rw [State.compareAll, s.part_hashArrived p hash ht hp, List.foldl_cons, List.foldl_nil]
  simp only [exec_lockstepHashArrival, execLockstepHashArrival, hl, hf, Bool.not_true, Bool.or_self, Bool.false_eq_true, if_false]
  exact congrArg Host.Outcome.next hCompare

theorem State.compareHashes_none (s : State) (p : Nat) (h : (s.part p).hashes = []) : s.compareHashes p = s := by
  simp only [State.compareHashes, h]

/-- A match releases the interval's output. -/
theorem State.compareHashes_match (s : State) (p n c : Nat) (mine : List Byte) (hs : List (Nat × List Byte × Nat)) (ts : List (List Byte))
    (h : (s.part p).hashes = (n, mine, c) :: hs) (ht : (s.part p).theirs = mine :: ts) :
    s.compareHashes p = (s.releaseOut p n).modPart p fun q => { q with hashes := hs, theirs := ts, mismatch := false } := by
  simp only [State.compareHashes, h, ht, if_true]

/-- A second mismatch, or one of an interval whose log is freed, fail-stops. -/
theorem State.compareHashes_failStop (s : State) (p n c : Nat) (mine t : List Byte) (hs : List (Nat × List Byte × Nat))
    (ts : List (List Byte)) (h : (s.part p).hashes = (n, mine, c) :: hs) (ht : (s.part p).theirs = t :: ts) (hne : mine ≠ t)
    (hm : (s.part p).mismatch = true ∨ ∀ i ∈ (s.part p).logs, i.number ≠ n) : s.compareHashes p = s.failStop p n := by
  have hStop : ((s.part p).mismatch || !((s.part p).logs.any (·.number == n))) = true := by
    rcases hm with hm | hm
    · simp [hm]
    · simpa using Or.inr hm
  simp only [State.compareHashes, h, ht, hne, hStop, if_false, if_true]

/-- A first mismatch of an interval whose log is kept runs it again, and its held output is made anew. -/
theorem State.compareHashes_rollback (s : State) (p n c : Nat) (mine t : List Byte) (hs : List (Nat × List Byte × Nat))
    (ts : List (List Byte)) (h : (s.part p).hashes = (n, mine, c) :: hs) (ht : (s.part p).theirs = t :: ts) (hne : mine ≠ t)
    (hm : (s.part p).mismatch = false) (hi : ∃ i ∈ (s.part p).logs, i.number = n) :
    s.compareHashes p = (s.rollback p n false).modPart p fun q => { q with
      hashes := [], theirs := [], mismatch := true, heldOut := q.heldOut.filter fun x => decide (x.1 < n) } := by
  have hKept : ((s.part p).mismatch || !((s.part p).logs.any (·.number == n))) = false := by simpa [hm] using hi
  simp only [State.compareHashes, h, ht, hne, hKept, if_false, Bool.false_eq_true]

/-- A hash 1 ms late fail-stops at the interval that awaits it. -/
theorem exec_lockstepHashTimeout_of_late (s : State) (p n c : Nat) (mine : List Byte) (hs : List (Nat × List Byte × Nat))
    (h : (s.part p).hashes = (n, mine, c) :: hs) (hl : (s.part p).lockstep = true) (hc : c + 1050000 ≤ s.clk) :
    exec (.lockstepHashTimeout p) s = .next (s.failStop p n) := by
  simp only [exec_lockstepHashTimeout, execLockstepHashTimeout, h, hl, hc, decide_true, Bool.and_self, if_true]

/-- Settles O59, clause by clause: each event where its condition holds, by the lemma that says what it leaves. -/
theorem headstockAndLockstepEvents : Obligations.HeadstockAndLockstepEvents := by
  intro die part kind target op value v32 hash s
  refine ⟨rfl, ?configSound, ?configUnsound, exec_partitionInstall_of_idle s, exec_leaderRenew_of_inTime s,
    exec_leaderPoll_of_lapsed die s, exec_leaderPoll_before_bringup die s, ?takeover, ?timeout,
    exec_inputBoundary_of_due s part, ?held, ?replay, exec_checkpoint_of_due s part, ?checkpoint,
    fun i => exec_lockstepInputMessage_of_secondary s part kind target value i, ?arrival, ?hashTimeout⟩
  case configSound =>
    rintro rfl hr ht
    exact congrArg Host.Outcome.next (s.configCommand_sound hr ht)
  case configUnsound =>
    rintro r rfl hr ht
    exact congrArg Host.Outcome.next (s.configCommand_unsound r hr ht)
  case takeover =>
    intro ht hl
    rw [exec_headstockTakeover_of_leader die s ht hl]
    rfl
  case timeout =>
    intro x hx hc
    exact ⟨exec_inboundTimeout_of_access op s x hx hc, fun d => exec_inboundTimeout_of_enqueue op s x d hx hc⟩
  case held =>
    intro hd hr
    rw [exec_inputBoundary_of_due s part hd, s.inputBoundary_of_held part hr]
    rfl
  case replay =>
    intro hd hdet x rest hr
    rw [exec_inputBoundary_of_due s part hd, s.inputBoundary_of_replay part x rest hdet hr]
    rfl
  case checkpoint =>
    intro hd hl hb
    obtain ⟨o, ho⟩ := s.checkpoint_of_no_blocks part hl hb
    exact ⟨o, by rw [exec_checkpoint_of_due s part hd, ho]; rfl⟩
  case arrival =>
    intro hl hf ht hp
    have hExec := exec_lockstepHashArrival_of_first s part hash hl hf ht hp
    have hPart := s.part_hashArrived part hash ht hp
    have hTheirs : ((s.hashArrived part hash).part part).theirs = [hash] := by rw [hPart]
    have hHashes : ((s.hashArrived part hash).part part).hashes = (s.part part).hashes := by rw [hPart]
    have hMismatch : ((s.hashArrived part hash).part part).mismatch = (s.part part).mismatch := by rw [hPart]
    have hLogs : ((s.hashArrived part hash).part part).logs = (s.part part).logs := by rw [hPart]
    rw [hExec]
    refine ⟨fun h => ?_, fun n mine c hs h => ⟨fun hEq => ?_, fun hne hm => ?_, fun hne hm hi => ?_⟩⟩
    · exact congrArg Host.Outcome.next (State.compareHashes_none _ _ (hHashes.trans h))
    · subst hEq
      exact congrArg Host.Outcome.next (State.compareHashes_match _ _ _ _ _ _ _ (hHashes.trans h) hTheirs)
    · rw [← hMismatch, ← hLogs] at hm
      exact congrArg Host.Outcome.next (State.compareHashes_failStop _ _ _ _ _ _ _ _ (hHashes.trans h) hTheirs hne hm)
    · rw [← hLogs] at hi
      exact congrArg Host.Outcome.next
        (State.compareHashes_rollback _ _ _ _ _ _ _ _ (hHashes.trans h) hTheirs hne (hMismatch.trans hm) hi)
  case hashTimeout =>
    intro n mine c hs h hl hc
    rw [exec_lockstepHashTimeout_of_late s part n c mine hs h hl hc]
    rfl

end Sys2Proof.Machine
end

section
/-! SUPPORT. The encoder and the decoder agree (R21 to R48): every instruction's own lemma of Laws/PerInstr put together, and what follows for
words written out. -/

namespace Sys2Proof.Laws.EncodeDecode

open Sys2Proof

/-- The bytes of an encoding decode to the instruction that they encode: each encoded row's own lemma, and an event has no encoding. -/
theorem statement (i : Instr) : Statement i := by
  cases i with
  | movH i b d => exact movH i b d
  | addH i b d => exact addH i b d
  | subH i b d => exact subH i b d
  | mulH i b d => exact mulH i b d
  | andH i b d => exact andH i b d
  | orH i b d => exact orH i b d
  | xorH i b d => exact xorH i b d
  | shlH i b d => exact shlH i b d
  | shrH i b d => exact shrH i b d
  | sarH i b d => exact sarH i b d
  | minH i b d => exact minH i b d
  | maxH i b d => exact maxH i b d
  | faddH i b d => exact faddH i b d
  | fmulH i b d => exact fmulH i b d
  | fminH i b d => exact fminH i b d
  | fmaxH i b d => exact fmaxH i b d
  | add x y b a d => exact add x y b a d
  | sub x y b a d => exact sub x y b a d
  | and x y b a d => exact and x y b a d
  | or x y b a d => exact or x y b a d
  | xor x y b a d => exact xor x y b a d
  | andn x y b a d => exact andn x y b a d
  | addD x y b a d => exact addD x y b a d
  | subD x y b a d => exact subD x y b a d
  | shl x y b a d => exact shl x y b a d
  | shr x y b a d => exact shr x y b a d
  | sar x y b a d => exact sar x y b a d
  | rol x y b a d => exact rol x y b a d
  | ror x y b a d => exact ror x y b a d
  | bfxi x y b a d => exact bfxi x y b a d
  | bfxz x y b a d => exact bfxz x y b a d
  | bfi x y b a d => exact bfi x y b a d
  | minI32 x y b a d => exact minI32 x y b a d
  | maxI32 x y b a d => exact maxI32 x y b a d
  | minZ32 x y b a d => exact minZ32 x y b a d
  | maxZ32 x y b a d => exact maxZ32 x y b a d
  | addmin x y b a d => exact addmin x y b a d
  | addmax x y b a d => exact addmax x y b a d
  | absd x y b a d => exact absd x y b a d
  | clamp x y b a d => exact clamp x y b a d
  | mullo x y b a d => exact mullo x y b a d
  | mulhiI32 x y b a d => exact mulhiI32 x y b a d
  | mulhiZ32 x y b a d => exact mulhiZ32 x y b a d
  | madlo x y b a d => exact madlo x y b a d
  | divI32 x y b a d => exact divI32 x y b a d
  | divZ32 x y b a d => exact divZ32 x y b a d
  | remI32 x y b a d => exact remI32 x y b a d
  | remZ32 x y b a d => exact remZ32 x y b a d
  | popc y a d => exact popc y a d
  | clz y a d => exact clz y a d
  | ctz y a d => exact ctz y a d
  | brev y a d => exact brev y a d
  | pfxp x y b a d => exact pfxp x y b a d
  | perm x y b a d => exact perm x y b a d
  | find x y b a d => exact find x y b a d
  | addi i a d => exact addi i a d
  | andi i a d => exact andi i a d
  | ori i a d => exact ori i a d
  | xori i a d => exact xori i a d
  | shli i a d => exact shli i a d
  | shri i a d => exact shri i a d
  | sari i a d => exact sari i a d
  | roli i a d => exact roli i a d
  | movi i d => exact movi i d
  | cmp x y c b a k p => exact cmp x y c b a k p
  | cmpi y c i a k p => exact cmpi y c i a k p
  | sel x y q b a d => exact sel x y q b a d
  | fadd x y b a d => exact fadd x y b a d
  | fsub x y b a d => exact fsub x y b a d
  | fmul x y b a d => exact fmul x y b a d
  | fmin x y b a d => exact fmin x y b a d
  | fmax x y b a d => exact fmax x y b a d
  | fabs y a d => exact fabs y a d
  | fneg y a d => exact fneg y a d
  | fcpys x y b a d => exact fcpys x y b a d
  | ffma c b a d => exact ffma c b a d
  | fma2 t c b a d => exact fma2 t c b a d
  | dfma c b a d => exact dfma c b a d
  | duaddF16 x y b a d => exact duaddF16 x y b a d
  | duaddBf16 x y b a d => exact duaddBf16 x y b a d
  | dumulF16 x y b a d => exact dumulF16 x y b a d
  | dumulBf16 x y b a d => exact dumulBf16 x y b a d
  | duminF16 x y b a d => exact duminF16 x y b a d
  | duminBf16 x y b a d => exact duminBf16 x y b a d
  | dumaxF16 x y b a d => exact dumaxF16 x y b a d
  | dumaxBf16 x y b a d => exact dumaxBf16 x y b a d
  | dadd x y b a d => exact dadd x y b a d
  | dsub x y b a d => exact dsub x y b a d
  | dmul x y b a d => exact dmul x y b a d
  | dmin x y b a d => exact dmin x y b a d
  | dmax x y b a d => exact dmax x y b a d
  | ddiv x y b a d => exact ddiv x y b a d
  | dsqrt y a d => exact dsqrt y a d
  | frcp y a d => exact frcp y a d
  | frsq y a d => exact frsq y a d
  | fsqrt y a d => exact fsqrt y a d
  | fdiv x y b a d => exact fdiv x y b a d
  | fexp2 y a d => exact fexp2 y a d
  | flog2 y a d => exact flog2 y a d
  | fsinpi y a d => exact fsinpi y a d
  | fcospi y a d => exact fcospi y a d
  | cvt s r t u a d => exact cvt s r t u a d
  | cvtp s u a d => exact cvtp s u a d
  | cvtpEf s u e a d => exact cvtpEf s u e a d
  | dot4I8 x y b a d => exact dot4I8 x y b a d
  | dot4Z8 x y b a d => exact dot4Z8 x y b a d
  | dot8I4 x y b a d => exact dot8I4 x y b a d
  | dot8Z4 x y b a d => exact dot8Z4 x y b a d
  | dot4D8a x y b a d => exact dot4D8a x y b a d
  | dot4D8b x y b a d => exact dot4D8b x y b a d
  | dot8D4 x y b a d => exact dot8D4 x y b a d
  | dot2Bf16 x y b a d => exact dot2Bf16 x y b a d
  | lgetIdx x y b a d => exact lgetIdx x y b a d
  | lgetUp x y b a d => exact lgetUp x y b a d
  | lgetDn x y b a d => exact lgetDn x y b a d
  | lgetXor x y b a d => exact lgetXor x y b a d
  | ballot y a d => exact ballot y a d
  | redAddI32 y a d => exact redAddI32 y a d
  | scanAddI32 y a d => exact scanAddI32 y a d
  | redMinI32 y a d => exact redMinI32 y a d
  | ld o z s p d => exact ld o z s p d
  | st o z s p d => exact st o z s p d
  | ldacqW k s p d => exact ldacqW k s p d
  | ldacqD k s p d => exact ldacqD k s p d
  | strelW k s p d => exact strelW k s p d
  | strelD k s p d => exact strelD k s p d
  | pfetch o s p => exact pfetch o s p
  | ldsmpW o s p d => exact ldsmpW o s p d
  | fenceX m => exact fenceX m
  | fenceAr m k => exact fenceAr m k
  | fenceSc m k => exact fenceSc m k
  | fenceEng m k => exact fenceEng m k
  | stflush m => exact stflush m
  | refetchFence => exact refetchFence
  | atomAdd n k s p d => exact atomAdd n k s p d
  | atomMinI32 n k s p d => exact atomMinI32 n k s p d
  | atomMaxI32 n k s p d => exact atomMaxI32 n k s p d
  | atomMinZ32 n k s p d => exact atomMinZ32 n k s p d
  | atomMaxZ32 n k s p d => exact atomMaxZ32 n k s p d
  | atomAnd n k s p d => exact atomAnd n k s p d
  | atomOr n k s p d => exact atomOr n k s p d
  | atomXor n k s p d => exact atomXor n k s p d
  | atomExch n k s p d => exact atomExch n k s p d
  | atomCas n k s p d => exact atomCas n k s p d
  | atomIncw n k s p d => exact atomIncw n k s p d
  | atomDecw n k s p d => exact atomDecw n k s p d
  | atomFaddF32 n k s p d => exact atomFaddF32 n k s p d
  | atomFminF32 n k s p d => exact atomFminF32 n k s p d
  | atomFmaxF32 n k s p d => exact atomFmaxF32 n k s p d
  | atomAddD n k s p d => exact atomAddD n k s p d
  | txb d => exact txb d
  | txe => exact txe
  | txa i => exact txa i
  | fput b a d => exact fput b a d
  | fputt b a d => exact fputt b a d
  | fget a d => exact fget a d
  | barArr n q => exact barArr n q
  | barWait n q => exact barWait n q
  | barSync n q => exact barSync n q
  | barAddb n q a => exact barAddb n q a
  | barChk n q => exact barChk n q
  | callo b a d => exact callo b a d
  | crply i a => exact crply i a
  | objreg a d => exact objreg a d
  | objrst a d => exact objrst a d
  | rcv => exact rcv
  | mke d => exact mke d
  | waitf a => exact waitf a
  | cbpush q d => exact cbpush q d
  | cbcmt q => exact cbcmt q
  | cbwait q d => exact cbwait q d
  | cbpop q => exact cbpop q
  | acwait t => exact acwait t
  | regrow i => exact regrow i
  | regshr i => exact regshr i
  | cont a => exact cont a
  | wrec b a => exact wrec b a
  | pwenq a d => exact pwenq a d
  | yield => exact yield
  | exit => exact exit
  | setprg a => exact setprg a
  | acp b s t v p o => exact acp b s t v p o
  | mfrag c b a d => exact mfrag c b a d
  | mtile a => exact mtile a
  | mspt a => exact mspt a
  | mring z => exact mring z
  | mwait s => exact mwait s
  | part a => exact part a
  | pwait s => exact pwait s
  | acb q a => exact acb q a
  | calcfg k a => exact calcfg k a
  | calref k a => exact calref k a
  | calbnd k a => exact calbnd k a
  | calrd v k d => exact calrd v k d
  | carvinv a => exact carvinv a
  | stmap a d => exact stmap a d
  | stunmap a => exact stunmap a
  | nodeRd f d => exact nodeRd f d
  | nodeIn a d => exact nodeIn a d
  | nodeUp b a => exact nodeUp b a
  | nodeDn b a => exact nodeDn b a
  | xnext b a d => exact xnext b a d
  | setstrm s a => exact setstrm s a
  | mtok d => exact mtok d
  | br i n p => exact br i n p
  | call i => exact call i
  | jmp p => exact jmp p
  | callr p => exact callr p
  | ret p => exact ret p
  | nop => exact nop
  | pred n q => exact pred n q
  | srd a d => exact srd a d
  | swr a d => exact swr a d
  | setrm r => exact setrm r
  | clrff d => exact clrff d
  | trapi i => exact trapi i
  | brk => exact brk
  | rett => exact rett
  | kill => exact kill
  | killb => exact killb
  | oreg a d => exact oreg a d
  | owr a d => exact owr a d
  | opc d => exact opc d
  | halt => exact halt
  | refetch => exact refetch
  | ext i => exact ext i
  | _ => exact ofEvent rfl

/-- The word that encodes a 32-bit instruction decodes to it. -/
theorem decode32_of_encode {i : Instr} {w : BitVec 32} (he : encode i = some (.long w)) (hw : w.extractLsb' 0 1 = 1#1) :
    decode32 w = .ok i := by
  have h := statement i _ he []
  rw [decodeBytes_long w hw] at h
  exact congrArg Prod.fst (Option.some.inj h)

/-- A word with the major opcode of ATOM in its last field (R41) decodes to the instruction that it encodes. -/
theorem decode32_atomWord {i : Instr} {x : BitVec 26} (he : encode i = some (.long (x ++ 53#6))) : decode32 (x ++ 53#6) = .ok i :=
  decode32_of_encode he (BitVec.extractLsb'_append_eq_of_add_le (by decide))

end Sys2Proof.Laws.EncodeDecode

namespace Sys2Proof

open Laws.EncodeDecode

/-- Settles O1: by cases on the instruction, each with the lemma of its own encoding. -/
theorem encodedBytesDecodeBack : Obligations.EncodedBytesDecodeBack := statement

/-- Settles O2: eight words name their instruction, and the decoder computes to a refusal on the last two. -/
theorem wordsOfTheEncodingsDecode : Obligations.WordsOfTheEncodingsDecode := by
  refine ⟨?addH, ?add, ?addi, ?ld, ?atomAdd, ?br, ?fput, ?mtile, ?reservedField, ?unassigned⟩
  case reservedField => rfl
  case unassigned => rfl
  all_goals decide

/-- Settles O3: each of the sixteen words is the encoding of its operation, so that it decodes to it. -/
theorem everyAtomCodeIsAssigned : Obligations.EveryAtomCodeIsAssigned := by
  intro n scope stream pair d _ word
  refine ⟨?add, ?minI32, ?maxI32, ?minZ32, ?maxZ32, ?and, ?or, ?xor, ?exch, ?cas, ?incw, ?decw, ?faddF32, ?fminF32, ?fmaxF32, ?addD⟩
  all_goals exact decode32_atomWord rfl

end Sys2Proof
end

section
/-! SUPPORT. Every meaning answers a next state (R22, R25, R321): what holds of the shared ways of running an instruction, and then of each
instruction by the one it is run by. An event's meaning is written as a next state. -/

namespace Sys2Proof.Machine

/-- Running an instruction answers a next state, whether there is a group, a cause at decode or a trap in a lane. -/
theorem runWith_next (i : Instr) (chk : Check) (body : Body) (s : State) : ∃ t, runWith i chk body s = .next t := by
  unfold runWith
  split
  case h_1 => exact ⟨_, rfl⟩
  case h_2 g _ =>
    split
    case h_1 => exact ⟨_, rfl⟩
    case h_2 b _ =>
      dsimp only
      split
      case h_1 => split <;> exact ⟨_, rfl⟩
      case h_2 => exact ⟨_, rfl⟩

/-- A lead word answers a next state. -/
theorem lead_next (i : Instr) (f : State → Group → Group) (s : State) : ∃ t, lead i f s = .next t := by
  unfold lead
  split
  case h_1 => exact ⟨_, rfl⟩
  case h_2 g _ =>
    split
    case h_1 => exact ⟨_, rfl⟩
    case h_2 b _ => split <;> exact ⟨_, rfl⟩

/-- What goes on from a next state answers one. -/
theorem onNext_next {r : Result} (f : State → State) (h : ∃ t, r = .next t) : ∃ t, onNext r f = .next t := by
  obtain ⟨t, rfl⟩ := h
  exact ⟨f t, rfl⟩

/-! The shared ways of running an instruction. -/

theorem runLanes_next (i : Instr) (chk : Check) (f : State → Group → Bundle → Nat → State × LaneEnd) (s : State) :
    ∃ t, runLanes i chk f s = .next t := runWith_next _ _ _ s
theorem runEntry_next (i : Instr) (chk : Check) (f : Nat → State → Group → Bundle → Nat → State × LaneEnd) (s : State) :
    ∃ t, runEntry i chk f s = .next t := runWith_next _ _ _ s
theorem runPure_next (i : Instr) (f : Thread → Thread) (s : State) : ∃ t, runPure i f s = .next t := runLanes_next _ _ _ s
theorem runArrive_next (i : Instr) (s : State) : ∃ t, runArrive i s = .next t := onNext_next _ (runWith_next _ _ _ s)
theorem runRequest_next (i : Instr) (shed : Bool) (v : Nat) (s : State) : ∃ t, runRequest i shed v s = .next t :=
  onNext_next _ (runLanes_next _ _ _ s)
theorem runLoad_next (i : Instr) (stream size code dst : Nat) (ea : Thread → DWord) (acq : Option Nat) (smp : Bool) (s : State) :
    ∃ t, runLoad i stream size code dst ea acq smp s = .next t := runEntry_next _ _ _ s
theorem runStore_next (i : Instr) (stream size src : Nat) (ea : Thread → DWord) (rel : Option Nat) (s : State) :
    ∃ t, runStore i stream size src ea rel s = .next t := runEntry_next _ _ _ s
theorem runAtom_next (i : Instr) (op : Nat) (n : BitVec 1) (k : BitVec 3) (st : BitVec 4) (p : BitVec 6) (d : BitVec 7) (s : State) :
    ∃ t, runAtom i op n k st p d s = .next t := runWith_next _ _ _ s
theorem runFuture_next (i : Instr) (sub dst a : Nat) (v : Thread → Word) (chk : Check) (s : State) :
    ∃ t, runFuture i sub dst a v chk s = .next t := runLanes_next _ _ _ s
theorem runBar_next (i : Instr) (n q : BitVec 3) (wait chk : Bool) (s : State) : ∃ t, runBar i n q wait chk s = .next t :=
  runLanes_next _ _ _ s
theorem runObject_next (i : Instr) (reset : Bool) (a d : BitVec 7) (s : State) : ∃ t, runObject i reset a d s = .next t :=
  runLanes_next _ _ _ s
theorem runBuf_next (i : Instr) (q : BitVec 3) (d : Nat) (ok : Buf → Option LaneEnd) (f : Buf → Buf) (off : Buf → Nat) (s : State) :
    ∃ t, runBuf i q d ok f off s = .next t := runWith_next _ _ _ s
theorem runTile_next (i : Instr) (sparse : Bool) (a : BitVec 7) (s : State) : ∃ t, runTile i sparse a s = .next t := runWith_next _ _ _ s

/-- Every instruction and every event answers a next state. -/
theorem exec_next (i : Instr) (s : State) : ∃ t, exec i s = .next t := by
  unfold exec
  cases i
  case movH | addH | subH | mulH | andH | orH | xorH | shlH | shrH | sarH | minH | maxH | faddH | fmulH | fminH | fmaxH | add | sub | and | or |
      xor | andn | addD | subD | shl | shr | sar | rol | ror | bfxi | bfxz | bfi | minI32 | maxI32 | minZ32 | maxZ32 | addmin | addmax | absd |
      clamp | mullo | mulhiI32 | mulhiZ32 | madlo | divI32 | divZ32 | remI32 | remZ32 | popc | clz | ctz | brev | pfxp | perm | find | andi |
      ori | xori | shli | shri | sari | roli | movi | cmp | cmpi | sel | fadd | fsub | fmul | fmin | fmax | fabs | fneg | fcpys | ffma | fma2 |
      dfma | duaddF16 | duaddBf16 | dumulF16 | dumulBf16 | duminF16 | duminBf16 | dumaxF16 | dumaxBf16 | dadd | dsub | dmul | dmin | dmax |
      ddiv | dsqrt | frcp | frsq | fsqrt | fdiv | fexp2 | flog2 | fsinpi | fcospi | cvt | cvtp | cvtpEf | dot4I8 | dot4Z8 | dot8I4 | dot8Z4 |
      dot4D8a | dot4D8b | dot8D4 | dot2Bf16 | mke | waitf | xnext | nop | setrm | clrff => exact runPure_next _ _ _
  case addi | pfetch | fenceX | fenceEng | stflush | txa | barWait | barAddb | crply | acwait | cont | pwenq | exit | acp | mwait | part |
      pwait | acb | calrd | carvinv | stmap | stunmap | nodeRd | nodeIn | mtok | br | call | jmp | callr | ret | srd | swr | trapi | brk |
      rett | kill | killb | oreg | owr | opc => exact runLanes_next _ _ _ _
  case callo | wrec | nodeUp | nodeDn => exact runEntry_next _ _ _ _
  case fenceAr | fenceSc | refetchFence | txb | txe | yield | setprg | mring | calcfg | calref | calbnd | setstrm | halt |
      refetch => exact runWith_next _ _ _ _
  case lgetIdx | lgetUp | lgetDn | lgetXor | ballot | redAddI32 | scanAddI32 | redMinI32 | rcv | mfrag => exact runArrive_next _ _
  case ld | ldacqW | ldacqD | ldsmpW => exact runLoad_next _ _ _ _ _ _ _ _ _
  case st | strelW | strelD => exact runStore_next _ _ _ _ _ _ _
  case atomAdd | atomMinI32 | atomMaxI32 | atomMinZ32 | atomMaxZ32 | atomAnd | atomOr | atomXor | atomExch | atomCas | atomIncw | atomDecw |
      atomFaddF32 | atomFminF32 | atomFmaxF32 | atomAddD => exact runAtom_next _ _ _ _ _ _ _ _
  case fput | fputt | fget => exact runFuture_next _ _ _ _ _ _ _
  case barArr | barSync | barChk => exact runBar_next _ _ _ _ _ _
  case objreg | objrst => exact runObject_next _ _ _ _ _
  case cbpush | cbcmt | cbwait | cbpop => exact runBuf_next _ _ _ _ _ _ _
  case regrow | regshr => exact runRequest_next _ _ _ _
  case mtile | mspt => exact runTile_next _ _ _ _
  case pred | ext => exact lead_next _ _ _
  -- The events: each arm's meaning is a next state.
  all_goals exact ⟨_, rfl⟩

/-- Settles O5: a step either is done with a next state or executes, and every execution answers one. -/
theorem noStepFaultsOrRefuses : Obligations.NoStepFaultsOrRefuses := by
  intro s
  unfold step
  split
  case h_1 t _ => exact ⟨_, rfl⟩
  case h_2 t i _ =>
    obtain ⟨u, hu⟩ := exec_next i t
    exact ⟨_, by rw [hu]⟩

end Sys2Proof.Machine
end

section
/-! SUPPORT. Fetch and the step around an instruction (R21 to R23, R63, R321), and the lead words PRED and EXT (R46, R47). -/

namespace Sys2Proof.Machine

/-! Fetch. -/

/-- A parcel whose two bytes may be read is there. -/
theorem State.parcel_of_fetchPa {s : State} {b : Bundle} {va a a' : Nat} (h : s.fetchPa b va va = some a)
    (h' : s.fetchPa b va (va + 1) = some a') : s.parcel b va = some (s.fetchParcel b a) := by
  simp only [State.parcel, h, h']

/-- A parcel of which the block holds no older value reads as the core sees it. -/
theorem State.fetchParcel_of_unchanged {s : State} {b : Bundle} {a : Nat} (h : ∀ k, s.blockOf b = some k → ∀ x ∈ k.icode, x.1 ≠ a) :
    s.fetchParcel b a = s.viewParcel b.core a := by
  cases hk : s.blockOf b with
  | none => simp [State.fetchParcel, hk]
  | some k =>
    have hOld : k.icode.filter (·.1 == a) = [] := List.filter_eq_nil_iff.mpr fun x hx => by simpa using h k hk x hx
    simp [State.fetchParcel, hk, hOld]

/-- Bit 0 of the first parcel says whether another follows. -/
theorem isLong_eq (p : BitVec 16) : isLong p = p.getLsbD 0 := by
  have hBit : p.extractLsb' 0 1 = BitVec.ofBool (p.getLsbD 0) := by
    ext i hi
    obtain rfl : i = 0 := by omega
    simp
  rw [isLong, hBit]
  cases p.getLsbD 0 <;> rfl

/-- A form H instruction is its one parcel. -/
theorem State.fetch_short {s : State} {b : Bundle} {pc : DWord} {p : BitVec 16} (hp : s.parcel b pc.toNat = some p)
    (h0 : p.getLsbD 0 = false) : s.fetch b pc = .instr (decodeH p) 2 p.toNat := by
  have hLong : isLong p = false := (isLong_eq p).trans h0
  simp [State.fetch, hp, hLong]

/-- A 32-bit instruction is two parcels, the first lowest. -/
theorem State.fetch_long {s : State} {b : Bundle} {pc : DWord} {p q : BitVec 16} {i : Instr} (hp : s.parcel b pc.toNat = some p)
    (h0 : p.getLsbD 0 = true) (hq : s.parcel b (pc.toNat + 2) = some q) (hi : decode32 (q ++ p) = .ok i) :
    s.fetch b pc = .instr i 4 (q ++ p).toNat := by
  have hLong : isLong p = true := (isLong_eq p).trans h0
  simp [State.fetch, hp, hLong, hq, decodeWord, hi]

/-! The step. -/

/-- The state in which an instruction fetched for a group is executed (R63, R321). -/
def State.issued (s : State) (g : Group) (b : Bundle) (i : Instr) (size word : Nat) : State :=
  { s.usePipe b (issueInterval i) with group := some ({ g with size := size, word := word }.without (s.softIn b i g.active)) }

/-- A step that is about to execute an instruction does so, and what is due settles. -/
theorem step_of_run {s t u : State} {i : Instr} (hMove : s.move = .run t i) (he : exec i t = .next u) :
    step s = .next (State.afterStep s (State.afterInstr t u i)) := by
  simp only [step, hMove, he]

/-- Nothing follows what is executed for no issue group. -/
theorem State.afterInstr_of_noGroup {t : State} (u : State) (i : Instr) (h : t.group = none) : State.afterInstr t u i = u := by
  simp only [State.afterInstr, h]

/-- While the package runs, a step goes on with the issue group: it executes the instruction that fetch finds at the group's PC. -/
theorem State.move_of_fetch {s : State} {g : Group} {b : Bundle} {i : Instr} {size word : Nat} (hf : s.frozen = false) (hb : s.bringup ≠ 0)
    (hg : s.group = some g) (hbundle : s.bundle? g.bundle = some b) (hi : s.fetch b g.ipc = .instr i size word) :
    s.move = .run (s.issued g b i size word) i := by
  simp [State.move, hf, hb, hg, State.fetchGroup, hbundle, hi, State.issued]

/-- Without an issue group, an event at the head of the agenda takes its turn (log entry 5). -/
theorem State.move_of_event {s : State} {e : Instr} {ts : List Turn} (hf : s.frozen = false) (hb : s.bringup ≠ 0) (hg : s.group = none)
    (ha : s.agenda = .event e :: ts) : s.move = .run { s with agenda := ts } e := by
  simp [State.move, hf, hb, hg, State.popTurn, ha]

/-- Settles O4: what fetch finds where the parcels can be read, and what a step does with it. -/
theorem aStepRunsTheDecodedInstruction : Obligations.AStepRunsTheDecodedInstruction := by
  intro s hf hb
  refine ⟨?issueGroup, ?event⟩
  case issueGroup =>
    intro g b i a a' hg hbundle va p t runs ha ha'
    have hp : s.parcel b g.ipc.toNat = some p := State.parcel_of_fetchPa ha ha'
    refine ⟨fun hNew => State.fetchParcel_of_unchanged hNew, fun h0 hi u he => ?short, fun c c' h0 hc hc' hi u he => ?long⟩
    case short =>
      subst hi
      exact step_of_run (State.move_of_fetch hf hb hg hbundle (State.fetch_short hp h0)) he
    case long =>
      exact step_of_run (State.move_of_fetch hf hb hg hbundle (State.fetch_long hp h0 (State.parcel_of_fetchPa hc hc') hi)) he
  case event =>
    intro e ts u hg ha he
    rw [step_of_run (State.move_of_event hf hb hg ha) he, State.afterInstr_of_noGroup (t := { s with agenda := ts }) u e hg]

/-! Lead words (R46, R47). -/

/-- A lead word that decode accepts changes the group alone, which goes on to the next word. -/
theorem lead_of_legal {i : Instr} {s : State} {g : Group} {b : Bundle} (f : State → Group → Group) (hg : s.group = some g)
    (hbundle : s.bundle? g.bundle = some b) (hl : s.issuesOf g.pfx b i = []) :
    lead i f s = .next { s with group := some { f s g with ipc := g.nextPc } } := by
  simp only [lead, hg, hbundle, hl, Group.nextPc]

/-- PRED keeps the lanes whose predicate holds. -/
theorem exec_pred (n : BitVec 1) (q : BitVec 3) (s : State) :
    exec (.pred n q) s = lead (.pred n q) (fun s g => { g with
      pfx := .pred, active := g.active.filter fun l => (s.thread g.bundle l).pred q.toNat ^^ (n == 1#1) }) s := by rfl

/-- EXT keeps its immediate for the next word. -/
theorem exec_ext (h : BitVec 20) (s : State) : exec (.ext h) s = lead (.ext h) (fun _ g => { g with pfx := .ext h }) s := by rfl

/-- Settles O28: both are lead words. -/
theorem predAndExtGovernTheNextInstruction : Obligations.PredAndExtGovernTheNextInstruction := by
  intro n q h s g b hg hb
  refine ⟨fun hl => ?pred, fun hl => ?ext⟩
  case pred => rw [exec_pred, lead_of_legal _ hg hb hl]
  case ext => rw [exec_ext, lead_of_legal _ hg hb hl]

end Sys2Proof.Machine
end

section
/-! SUPPORT. Form H and FOP (R27, R129), ADDI after EXT (R47, R107), odd targets (R22, R69): instructions that work on their own threads. -/

namespace Sys2Proof.Machine

/-- An instruction whose meaning is a pure function of its threads does that function on them and nothing else. -/
theorem onThreads_of_runPure {i : Instr} {F : Thread → Thread} (he : ∀ s, exec i s = runPure i F s) : OnThreads i F :=
  fun s _ _ hm hs => (he s).trans (runPure_after F hm hs)

/-- Settles O10: the meaning of each operation is the pure function that the statement writes out. -/
theorem shortFormIntegersWriteD : Obligations.ShortFormIntegersWriteD := by
  intro i b d S C D
  refine ⟨?mov, ?add, ?sub, ?mul, ?and, ?or, ?xor, ?shl, ?shr, ?sar, ?min, ?max⟩
  all_goals exact onThreads_of_runPure fun _ => rfl

/-- Settles O21: the meaning of each operation is the pure function that the statement writes out. -/
theorem singlePrecisionWriteD : Obligations.SinglePrecisionWriteD := by
  intro x y i b a d bh dh A B D I put
  refine ⟨?add, ?sub, ?mul, ?min, ?max, ?abs, ?neg, ?cpys, ?addH, ?mulH, ?minH, ?maxH⟩
  all_goals exact onThreads_of_runPure fun _ => rfl

/-! ADDI (R47, R107). -/

/-- EXT's 20 bits stand above ADDI's own 12. -/
@[simp] theorem addiImm_ext (h : BitVec 20) (i : BitVec 12) : addiImm (.ext h) i = h ++ i := rfl
@[simp] theorem addiImm_none (i : BitVec 12) : addiImm .none i = i.signExtend 32 := rfl
@[simp] theorem addiImm_pred (i : BitVec 12) : addiImm .pred i = i.signExtend 32 := rfl

/-- ADDI adds the immediate that the word before it gives it. -/
theorem exec_addi_after {s : State} {g : Group} {b : Bundle} {i : BitVec 12} {a d : BitVec 7} (hm : Meets s g b (.addi i a d))
    (hs : s.notStepping g.bundle) :
    exec (.addi i a d) s = .next (s.after g fun t => t.write d.toNat (t.val a.toNat + addiImm g.pfx i)) :=
  runLanes_moved hm hs (quiet_noCheck s g b) ⟨fun _ _ _ _ _ _ _ => rfl, fun _ _ _ _ _ _ _ => ⟨trivial, rfl⟩⟩

/-- Settles O17, by what stands before ADDI in its group: EXT, nothing or PRED. -/
theorem extWidensTheImmediateOfAddi : Obligations.ExtWidensTheImmediateOfAddi := by
  intro h i a d s g b hm hs
  rw [exec_addi_after hm hs]
  refine ⟨fun hExt => ?_, fun hOther => ?_⟩
  · rw [hExt, addiImm_ext]
  · rcases hOther with hNone | hPred
    · rw [hNone, addiImm_none]
    · rw [hPred, addiImm_pred]

/-! Odd targets (R22, R69). -/

/-- A lane whose sources can all be read meets what its instruction's own checks find. -/
theorem laneTrap_of_readable (t : Thread) (i : Instr) (checks : List Trap)
    (hs : ∀ x ∈ (opnds i).srcs, x.waits = true → t.srcTrap x = none) (hk : ∀ x ∈ keySrcs i, t.unread x.1 x.2 = false) :
    t.laneTrap i checks = lowest checks := by
  have hRegs : ((opnds i).srcs.filter (·.waits)).filterMap t.srcTrap = [] :=
    List.filterMap_eq_nil_iff.mpr fun x hx => hs x (List.mem_filter.mp hx).1 (List.mem_filter.mp hx).2
  have hKeys : ((keySrcs i).any fun x => t.unread x.1 x.2) = false := List.any_eq_false.mpr fun x hx => by simp [hk x hx]
  simp [Thread.laneTrap, hRegs, hKeys]

/-- An active lane that nothing keeps from running, and whose checks find a cause, traps with it. -/
theorem fate_of_laneTrap {s : State} {g : Group} {b : Bundle} {i : Instr} {chk : Check} {l : Nat} {t : Thread} {tr : Trap}
    (ha : l ∈ g.active) (ht : b.threads[l]? = some t) (hr : LaneRuns s b i l t) (hc : t.laneTrap i (chk s g b l t) = some tr) :
    s.fate g b i chk l = .traps tr := by
  have hTx : (t.tx.isSome && s.txStops b i) = false := by
    rcases hr.allowed with h | h <;> simp [h]
  simp [State.fate, ht, ha, hr.noWait, midWait_none hr.noWait, hTx, hc]

/-- A group of one lane whose checks find a cause does nothing but raise it. -/
theorem runLanes_oneLane_raises {s : State} {g : Group} {b : Bundle} {i : Instr} {chk : Check}
    {f : State → Group → Bundle → Nat → State × LaneEnd} {l : Nat} {tr : Trap} (hm : Meets s g b i) (hl : g.lanes = [l])
    (hf : s.taken.fate g b i chk l = .traps tr) :
    runLanes i chk f s = .next (s.taken.raise g.bundle l tr g.start g.nextPc) := by
  have hLegal := hm.legal
  have hPriv := hm.privileged
  simp only [State.taken] at hLegal hPriv hf ⊢
  simp [runLanes, runWith, hm.group, hm.bundle, hLegal, hPriv, hl, hf, each, State.endGroup, State.endFate, State.endLane, State.takeAll,
    State.raise, Group.nextPc]

/-- What an instruction that jumps to a pair's value meets where the pair can be read and is odd. -/
theorem laneTrap_oddTarget {i : Instr} {p : BitVec 7} {t : Thread} (hSrcs : (opnds i).srcs = [pair p]) (hKeys : keySrcs i = [(p.toNat, 2)])
    (hRead : t.srcTrap (pair p) = none) (hOdd : (t.pair p.toNat).toNat % 2 = 1) (s : State) (g : Group) (b : Bundle) (l : Nat) :
    t.laneTrap i (oddTarget p s g b l t) = some { cause := 7, detail := t.pair p.toNat } := by
  have hUnread : t.unread p.toNat 2 = false := by
    rw [Thread.unread, show t.srcTrap { reg := p.toNat, n := 2 } = t.srcTrap (pair p) from rfl, hRead]
    rfl
  rw [laneTrap_of_readable t i _ (by simpa [hSrcs] using fun _ => hRead) (by simpa [hKeys] using hUnread), oddTarget, if_pos hOdd]
  rfl

/-- Settles O27: the three instructions share their source and their check. -/
theorem oddTargetsTrapAlign : Obligations.OddTargetsTrapAlign := by
  intro p i s g b l t hi hm hl ha ht hOdd
  obtain ⟨t', ht', hRuns⟩ := hm.runs l (by simp [hl])
  obtain rfl : t' = t := Option.some.inj (ht'.symm.trans ht)
  have hLane := hRuns ha
  have hTrap (hSrcs : (opnds i).srcs = [pair p]) (hKeys : keySrcs i = [(p.toNat, 2)]) :
      s.taken.fate g b i (oddTarget p) l = .traps { cause := 7, detail := t'.pair p.toNat } :=
    fate_of_laneTrap ha ht hLane (laneTrap_oddTarget hSrcs hKeys (hLane.sources _ (by simp [hSrcs]) rfl) hOdd _ _ _ _)
  rcases hi with rfl | rfl | rfl
  · exact runLanes_oneLane_raises hm hl (hTrap rfl rfl)
  · exact runLanes_oneLane_raises hm hl (hTrap rfl rfl)
  · exact runLanes_oneLane_raises hm hl (hTrap rfl rfl)

end Sys2Proof.Machine
end

section
/-! SUPPORT. Bits of numbers and of registers (R103, R106): what the model's counts, permutations and searches are in terms of single bits. -/

namespace Sys2Proof.Machine

/-- The highest bit of a number of i + 1 bits says whether the number reaches 2^i. -/
theorem bit_eq_decide_le {v i : Nat} (h : v < 2 ^ (i + 1)) : bit v i = decide (2 ^ i ≤ v) := by
  have hPos : 0 < 2 ^ i := Nat.two_pow_pos i
  by_cases hle : 2 ^ i ≤ v
  · have hq : v / 2 ^ i = 1 := Nat.div_eq_of_lt_le (by omega) (by omega)
    simp [bit, hq, hle]
  · have hq : v / 2 ^ i = 0 := Nat.div_eq_of_lt (by omega)
    simp [bit, hq, hle]

theorem bit_eq_testBit (v i : Nat) : bit v i = v.testBit i := by
  rw [Nat.testBit_eq_decide_div_mod_eq]
  rfl

/-- Counting bits from the lowest up counts the set ones among the low n. -/
theorem popBits_eq_length_filter (n v : Nat) : popBits n v = ((List.range n).filter fun i => v.testBit i).length := by
  induction n generalizing v with
  | zero => rfl
  | succ n ih =>
    have hRest : (fun i => v.testBit i) ∘ Nat.succ = fun i => (v / 2).testBit i := funext fun i => Nat.testBit_succ v i
    rw [popBits, ih, List.range_succ_eq_map, List.filter_cons, List.filter_map, hRest, Nat.testBit_zero]
    rcases Nat.mod_two_eq_zero_or_one v with h | h <;> simp [h, Nat.add_comm]

theorem popBits_toNat (n : Nat) (a : Word) : popBits n a.toNat = ((List.range n).filter fun i => a.getLsbD i).length :=
  popBits_eq_length_filter n a.toNat

/-- The lowest set bit has as many clear bits below it as its place says. -/
theorem lowBit_eq_length_takeWhile (n v : Nat) : lowBit n v = ((List.range n).takeWhile fun i => !v.testBit i).length := by
  induction n generalizing v with
  | zero => rfl
  | succ n ih =>
    have hRest : (fun i => !v.testBit i) ∘ Nat.succ = fun i => !(v / 2).testBit i := funext fun i => by simp [Nat.testBit_succ]
    rw [lowBit, ih, List.range_succ_eq_map, List.takeWhile_cons, List.takeWhile_map, hRest, Nat.testBit_zero]
    rcases Nat.mod_two_eq_zero_or_one v with h | h <;> simp [h, Nat.add_comm]

theorem lowBit_toNat (n : Nat) (a : Word) : lowBit n a.toNat = ((List.range n).takeWhile fun i => !(a.getLsbD i)).length :=
  lowBit_eq_length_takeWhile n a.toNat

theorem bitLen_pos {n v : Nat} (hn : 0 < n) (hv : v ≠ 0) : 0 < bitLen n v := by
  cases n with
  | zero => omega
  | succ n => rw [bitLen, if_neg hv]; omega

theorem bitLen_zero (n : Nat) : bitLen n 0 = 0 := by cases n <;> rfl

theorem bitLen_le (n v : Nat) : bitLen n v ≤ n := by
  induction n generalizing v with
  | zero => exact Nat.le_refl 0
  | succ n ih =>
    rw [bitLen]
    split
    · omega
    · have := ih (v / 2)
      omega

/-- The clear bits above the highest set one of a number of n bits are those that its binary digits leave. The lowest bit comes last, and is
reached only where all others are clear. -/
theorem length_takeWhile_reverse_range {n v : Nat} (h : v < 2 ^ n) :
    ((List.range n).reverse.takeWhile fun i => !v.testBit i).length = n - bitLen n v := by
  induction n generalizing v with
  | zero => rfl
  | succ n ih =>
    have hRest : (fun i => !v.testBit i) ∘ Nat.succ = fun i => !(v / 2).testBit i := funext fun i => by simp [Nat.testBit_succ]
    have ih := ih (v := v / 2) (by omega)
    rw [List.range_succ_eq_map, List.reverse_cons, ← List.map_reverse, List.takeWhile_append, List.takeWhile_map, hRest, List.length_map,
      ih, List.length_map, List.length_reverse, List.length_range, bitLen]
    by_cases hHalf : v / 2 = 0
    · have hv : v = 0 ∨ v = 1 := by omega
      rcases hv with rfl | rfl <;> simp [bitLen_zero]
    · have hPos : 0 < bitLen n (v / 2) := bitLen_pos (by rcases n with _ | n <;> omega) hHalf
      have hLe : bitLen n (v / 2) ≤ n := bitLen_le n (v / 2)
      rw [if_neg (by omega), List.length_map, ih, if_neg (by omega)]
      omega

theorem clzW_eq (a : Word) : clzW a = BitVec.ofNat 32 ((List.range 32).takeWhile fun i => !(a.getLsbD (31 - i))).length := by
  have hRange : (List.range 32).reverse = (List.range 32).map (31 - ·) := by decide
  have hCount := length_takeWhile_reverse_range a.isLt
  rw [hRange, List.takeWhile_map, List.length_map] at hCount
  rw [clzW, ← hCount]
  rfl

/-- FIND's search from bit i on meets the first place below n that holds a set bit with exactly k set bits under it. -/
theorem findFrom_eq_find? (n v k i : Nat) :
    findFrom n v k i = (((List.range n).find? fun j => v.testBit j && popBits j v == k).map (i + ·)).getD 32 := by
  induction n generalizing v k i with
  | zero => rfl
  | succ n ih =>
    have hRest : (fun j => v.testBit j && popBits j v == k) ∘ Nat.succ =
        fun j => (v / 2).testBit j && v % 2 + popBits j (v / 2) == k := funext fun j => by simp [Nat.testBit_succ, popBits]
    have hNext (x : Nat) : i + 1 + x = i + (x + 1) := by omega
    rw [findFrom, List.range_succ_eq_map, List.find?_cons, List.find?_map, hRest, Nat.testBit_zero, ih, ih]
    by_cases hSet : v % 2 = 1
    · cases k with
      | zero => simp [hSet, popBits]
      | succ k =>
        have hBelow (j : Nat) : (1 + popBits j (v / 2) == k + 1) = (popBits j (v / 2) == k) := by
          rw [Nat.add_comm]
          simp
        simp [hSet, popBits, hBelow, Function.comp_def, hNext]
    · have hClear : v % 2 = 0 := by omega
      simp [hClear, Function.comp_def, hNext]

theorem findW_eq (a b : Word) : findW a b = BitVec.ofNat 32
    (((List.range 32).find? fun i => a.getLsbD i && ((List.range i).filter fun j => a.getLsbD j).length == b.toNat).getD 32) := by
  rw [findW, findFrom_eq_find?]
  simp [popBits_toNat, BitVec.testBit_toNat]

/-- A byte of PERM by its selector nibble: 0, the sign of a byte of a, or that byte. -/
theorem permByte_eq (a : Nat) {n : Nat} (h : n < 16) : permByte a n =
    if 8 ≤ n then 0 else if 4 ≤ n then (if 128 ≤ a / 256 ^ (n % 4) % 256 then 255 else 0) else a / 256 ^ (n % 4) % 256 := by
  have hSign : bit (a / 256 ^ (n % 4) % 256) 7 = decide (128 ≤ a / 256 ^ (n % 4) % 256) := bit_eq_decide_le (i := 7) (by omega)
  have hTop : bit n 3 = decide (8 ≤ n) := bit_eq_decide_le (i := 3) h
  rw [permByte, hSign, hTop]
  by_cases h8 : 8 ≤ n
  · simp [h8]
  · have hNext : bit n 2 = decide (4 ≤ n) := bit_eq_decide_le (i := 2) (by omega)
    simp [h8, hNext]

/-- The nibbles of a number. -/
theorem bits_nibble (v i : Nat) : bits v (4 * i + 3) (4 * i) = v / 16 ^ i % 16 := by
  have hWidth : 4 * i + 3 + 1 - 4 * i = 4 := by omega
  have hPlace : 2 ^ (4 * i) = 16 ^ i := Nat.pow_mul 2 4 i
  have hMod : 2 ^ 4 = 16 := rfl
  rw [bits, hWidth, hPlace, hMod]

/-- PERM's i-th byte, from the i-th nibble of b. -/
theorem permByte_nibble (a b i : Nat) : permByte a (bits b (4 * i + 3) (4 * i)) =
    if 8 ≤ b / 16 ^ i % 16 then 0 else if 4 ≤ b / 16 ^ i % 16 then (if 128 ≤ a / 256 ^ (b / 16 ^ i % 16 % 4) % 256 then 255 else 0)
      else a / 256 ^ (b / 16 ^ i % 16 % 4) % 256 := by
  rw [bits_nibble, permByte_eq a (Nat.mod_lt _ (by decide))]

/-! Shift counts and field operations. -/

/-- An immediate count of five bits is the count. -/
theorem count_zeroExtend (i : BitVec 5) : count (i.zeroExtend 32) = i.toNat := by
  rw [count, BitVec.toNat_setWidth_of_le (by decide), Nat.mod_eq_of_lt i.isLt]

theorem bfxiW_eq (a b : Word) : bfxiW a b =
    let v := a.toNat / 2 ^ fieldPos b % 2 ^ fieldLen b
    if fieldLen b = 0 then 0 else if v.testBit (fieldLen b - 1) then BitVec.ofInt 32 ((v : Int) - 2 ^ fieldLen b) else BitVec.ofNat 32 v := by
  simp only [bfxiW, bit_eq_testBit]

end Sys2Proof.Machine
end

section
/-! SUPPORT. Integer work that writes d (R102 to R107): each operation's meaning is a pure function of its thread. -/

namespace Sys2Proof.Machine

/-- An instruction whose meaning is a pure function that agrees with F on every thread does F. -/
theorem onThreads_of_runPure_eq {i : Instr} {F G : Thread → Thread} (he : ∀ s, exec i s = runPure i G s) (h : ∀ t, G t = F t) :
    OnThreads i F := by
  obtain rfl : G = F := funext h
  exact onThreads_of_runPure he

/-- Settles O11: the meaning of each operation is the pure function that the statement writes out. -/
theorem integerAndLogicWriteD : Obligations.IntegerAndLogicWriteD := by
  intro x y b a d A B
  refine ⟨?add, ?sub, ?and, ?or, ?xor, ?andn, ?addD, ?subD⟩
  all_goals exact onThreads_of_runPure fun _ => rfl

/-- Settles O12: all but BFX.i, which looks at the sign bit of its field, are the pure functions that the statement writes out. -/
theorem shiftsAndFieldsWriteD : Obligations.ShiftsAndFieldsWriteD := by
  intro x y b a d A n len f
  refine ⟨?shl, ?shr, ?sar, ?rol, ?ror, ?bfxz, ?bfxi, ?bfi⟩
  case bfxi => exact onThreads_of_runPure_eq (fun _ => rfl) fun t => congrArg (t.write d.toNat) (bfxiW_eq (A t) (t.val b.toNat))
  all_goals exact onThreads_of_runPure fun _ => rfl

/-- Settles O13: the meaning of each operation is the pure function that the statement writes out. -/
theorem minMaxWriteD : Obligations.MinMaxWriteD := by
  intro x y b a d A B D low high sum
  refine ⟨?minI, ?maxI, ?minZ, ?maxZ, ?addmin, ?addmax, ?absd, ?clamp⟩
  all_goals exact onThreads_of_runPure fun _ => rfl

/-- Settles O14: the meaning of each operation is the pure function that the statement writes out. -/
theorem productsAndQuotientsWriteD : Obligations.ProductsAndQuotientsWriteD := by
  intro x y b a d A B
  refine ⟨?mullo, ?mulhiI, ?mulhiZ, ?madlo, ?divI, ?divZ, ?remI, ?remZ⟩
  all_goals exact onThreads_of_runPure fun _ => rfl

/-- Settles O15: what each count, permutation or search is in terms of single bits. -/
theorem bitCountsWriteD : Obligations.BitCountsWriteD := by
  intro x y b a d A B ones
  refine ⟨?popc, ?clz, ?ctz, ?brev, ?pfxp, ?perm, ?find⟩
  case brev => exact onThreads_of_runPure fun _ => rfl
  all_goals refine onThreads_of_runPure_eq (fun _ => rfl) fun t => congrArg (t.write d.toNat) ?_
  case popc => exact congrArg (BitVec.ofNat 32) (popBits_toNat 32 (A t))
  case clz => exact clzW_eq (A t)
  case ctz => exact congrArg (BitVec.ofNat 32) (lowBit_toNat 32 (A t))
  case pfxp => exact congrArg (BitVec.ofNat 32) (popBits_toNat _ (A t))
  case find => exact findW_eq (A t) (B t)
  case perm =>
    have hByte := permByte_nibble (A t).toNat (B t).toNat
    show permW (A t) (B t) = _
    rw [permW, hByte 0, hByte 1, hByte 2, hByte 3]

/-- Settles O16: the shifts and the rotate take the count that the instruction holds. -/
theorem immediateFormsWriteD : Obligations.ImmediateFormsWriteD := by
  intro i9 i5 i19 a d
  have hCount (f : Word → Nat → Word) (t : Thread) :
      t.write d.toNat (f (t.val a.toNat) (count (i5.zeroExtend 32))) = t.write d.toNat (f (t.val a.toNat) i5.toNat) := by
    rw [count_zeroExtend]
  refine ⟨?andi, ?ori, ?xori, ?shli, ?shri, ?sari, ?roli, ?movi⟩
  case shli => exact onThreads_of_runPure_eq (fun _ => rfl) (hCount (· <<< ·))
  case shri => exact onThreads_of_runPure_eq (fun _ => rfl) (hCount (· >>> ·))
  case sari => exact onThreads_of_runPure_eq (fun _ => rfl) (hCount (·.sshiftRight ·))
  case roli => exact onThreads_of_runPure_eq (fun _ => rfl) (hCount (·.rotateLeft ·))
  all_goals exact onThreads_of_runPure fun _ => rfl

end Sys2Proof.Machine
end

section
/-! SUPPORT. Compares (R108 to R110): the combine mode, the integer conditions, and what FP32's conditions ask of two codes. -/

namespace Sys2Proof.Machine

/-- What a compare leaves in its predicate: the result alone, or combined by AND, OR or XOR with what it held (R108). -/
def combined (c : Nat) (old r : Bool) : Bool := if c = 0 then r else if c = 1 then old && r else if c = 2 then old || r else old ^^ r

theorem Thread.compare_eq (t : Thread) (p c k : Nat) (u v : Word) :
    t.compare p c k u v = (t.setPred p (combined c (t.pred p) (cond k u v).1)).orFlags (cond k u v).2 := rfl

@[simp] theorem Thread.orFlags_zero (t : Thread) : t.orFlags 0 = t := by
  have hFlags : t.fflags ||| 0 = t.fflags := BitVec.or_zero
  rw [Thread.orFlags, hFlags]

/-! Integers (R109). -/

theorem cond_of_lt_ten {k : Nat} (h : k < 10) (u v : Word) : cond k u v = (condInt k u v, 0) := by rw [cond, if_pos h]

theorem cmpiImm_of_lt_ten {k : Nat} (h : k < 10) (i : BitVec 7) : cmpiImm k i = i.signExtend 32 := by rw [cmpiImm, if_pos h]

/-- An integer compare writes its predicate and raises no flag. -/
theorem Thread.compare_of_lt_ten {k : Nat} (h : k < 10) (t : Thread) (p c : Nat) (u v : Word) :
    t.compare p c k u v = t.setPred p (combined c (t.pred p) (condInt k u v)) := by
  rw [Thread.compare_eq, cond_of_lt_ten h, Thread.orFlags_zero]

/-- Settles O18: conditions 0 to 9 are the integer ones, and CMPI's immediate is then sign-extended. -/
theorem integerComparesWriteOnePredicate : Obligations.IntegerComparesWriteOnePredicate := by
  intro x y c b a i k p hk test put
  refine ⟨?cmp, ?cmpi⟩
  case cmp => exact onThreads_of_runPure_eq (fun _ => rfl) fun t => t.compare_of_lt_ten hk p.toNat c.toNat (t.val a.toNat) (t.val b.toNat)
  case cmpi =>
    refine onThreads_of_runPure_eq (fun _ => rfl) fun t => ?_
    rw [cmpiImm_of_lt_ten hk]
    exact t.compare_of_lt_ten hk p.toNat c.toNat (t.val a.toNat) (i.signExtend 32)

/-! FP32 (R110, R113). -/

theorem cond_of_ten_le {k : Nat} (h : 10 ≤ k) (u v : Word) : cond k u v = condF k u v := by rw [cond, if_neg (by omega)]

/-- A code up to the highest finite one is no NaN (R113). -/
theorem Fmt.value_of_le_top (f : Fmt) (flush : Bool) {c : Nat} (h : c % f.signBit ≤ f.top) :
    (f.value flush c).isNan = false ∧ (f.value flush c).isSig = false := by
  rw [Fmt.value, if_neg (by omega)]
  split
  · split <;> exact ⟨rfl, rfl⟩
  · exact ⟨rfl, rfl⟩

/-- The code after the highest finite one is the infinity, where the format has one (R113). -/
theorem Fmt.value_of_eq_top_succ (f : Fmt) (flush : Bool) {c : Nat} (hInf : f.inf = true) (h : c % f.signBit = f.top + 1) :
    f.value flush c = .inf (bit c (f.eb + f.fb)) := by
  rw [Fmt.value, if_pos (by omega), if_pos (by simp [hInf, h])]

/-- Every code above that is a NaN, which signals by the top bit of its fraction (R113). -/
theorem Fmt.value_of_top_succ_lt (f : Fmt) (flush : Bool) {c : Nat} (h : f.top + 1 < c % f.signBit) :
    f.value flush c = .nan (f.ieee && !(bit (c % f.signBit % 2 ^ f.fb) (f.fb - 1))) (bit c (f.eb + f.fb))
      (c % f.signBit % 2 ^ f.fb * 2 ^ (52 - f.fb)) := by
  have hNe : (c % f.signBit == f.top + 1) = false := beq_false_of_ne (by omega)
  rw [Fmt.value, if_pos (by omega), if_neg (by simp [hNe])]

/-- A code of FP32 is a NaN where its magnitude is above that of the infinities, and signals where bit 22 is then 0. -/
theorem isNan_isSig_value_f32 (v : Word) : (f32.value false v.toNat).isNan = decide (0x7F800000 < v.toNat % 2 ^ 31) ∧
    (f32.value false v.toNat).isSig = (decide (0x7F800000 < v.toNat % 2 ^ 31) && !(v.getLsbD 22)) := by
  rcases Nat.lt_trichotomy (v.toNat % 2 ^ 31) 0x7F800000 with h | h | h
  · rw [decide_eq_false (by omega)]
    exact f32.value_of_le_top false (Nat.le_of_lt_succ h)
  · rw [decide_eq_false (by omega), f32.value_of_eq_top_succ false rfl h]
    exact ⟨rfl, rfl⟩
  · have hBit : bit (v.toNat % f32.signBit % 2 ^ f32.fb) (f32.fb - 1) = v.getLsbD 22 := by
      rw [bit_eq_testBit, Nat.testBit_mod_two_pow, show f32.signBit = 2 ^ 31 from rfl, Nat.testBit_mod_two_pow]
      rfl
    rw [decide_eq_true h, f32.value_of_top_succ_lt false h, hBit]
    exact ⟨rfl, rfl⟩

theorem order32_toNat (v : Word) :
    order32 v.toNat = if v.getLsbD 31 then -((v.toNat % 2 ^ 31 : Nat) : Int) else ((v.toNat % 2 ^ 31 : Nat) : Int) := by
  have hPow : 2147483648 = 2 ^ 31 := rfl
  rw [order32, bit_toNat, hPow]

/-- Settles O19: what the six conditions and the flag ask is what the statement writes of the two codes. -/
theorem floatComparesWriteOnePredicate : Obligations.FloatComparesWriteOnePredicate := by
  intro x y c b a i k p hk order nan sig test nv put
  have hCond (u v : Word) : cond k.toNat u v = (test u v, nv u v) := by
    rw [cond_of_ten_le hk, condF]
    simp only [isNan_isSig_value_f32, order32_toNat]
    rfl
  have hPut (t : Thread) (u v : Word) : t.compare p.toNat c.toNat k.toNat u v = put t u v := by
    rw [Thread.compare_eq, hCond]
    rfl
  refine ⟨?cmp, ?cmpi⟩
  case cmp => exact onThreads_of_runPure_eq (fun _ => rfl) fun t => hPut t _ _
  case cmpi => exact onThreads_of_runPure_eq (fun _ => rfl) fun t => hPut t _ _

end Sys2Proof.Machine
end

section
/-! SUPPORT. SEL, MKE, WAITF, NOP, SETRM, CLRFF and XNEXT (R98, R99, R111, R139, R140, R318). -/

namespace Sys2Proof.Machine

/-- Settles O20: XNEXT's ranks are counts of single bits; every other operation's meaning is the pure function that the statement writes out. -/
theorem selectMarkAndModeInstructions : Obligations.SelectMarkAndModeInstructions := by
  intro x y q r b a d
  refine ⟨?sel, ?mke, ?waitf, ?nop, ?setrm, ?clrff, ?xnext⟩
  case xnext =>
    refine onThreads_of_runPure_eq (fun _ => rfl) fun t => ?_
    have hZero : (t.val a.toNat).toNat = 0 ↔ t.val a.toNat = 0 := BitVec.toNat_inj (y := 0)
    simp only [popBits_toNat, hZero]
    rfl
  all_goals exact onThreads_of_runPure fun _ => rfl

end Sys2Proof.Machine
end

section
/-! SUPPORT. PWENQ (R409) in a lane above 0: its checks read the descriptor as its own thread sees it (R148, R149), so that they can find a
cause which lane 0's do not. -/

namespace Sys2Proof.Machine

/-- The issue group of lane 1 of bundle 3, at a PWENQ. -/
def enqueueGroup : Group := { bundle := 3, lanes := [1], active := [1], start := 0x10000, ipc := 0x10000, size := 4, word := 0, pfx := .none }

/-- A thread whose w2:w3 holds the descriptor's address. -/
def enqueueThread : Thread := { pc := 0x10000, regs := (List.replicate 128 {}).set 2 { val := 0x20000 } }

/-- Bundle 3: two such threads of block 2. -/
def enqueueBundle : Bundle := { id := 3, owner := .block 2, index := 0, core := 0, pipe := 0, threads := [enqueueThread, enqueueThread] }

/-- Lane 1's store of 1 to the descriptor's first byte, still in its queue. -/
def descriptorStore : Req :=
  { id := 4, entry := 4, core := 0, bundle := 3, lane := 1, stream := 0, kind := .store [1] none, place := .mem 0x20000, ea := 0x20000, size := 1
    pc := 0x10000, issued := 0, issuedTime := 0, retired := 0 }

/-- Memory holds a sound descriptor, whose packet lies after it; lane 1 sees it with a payload address that is not a multiple of 4. -/
def enqueueState : State :=
  { State.reset with
    mem := [(0x20018, 0x40), (0x2001A, 2)]
    tasks := [{ id := 1, tid := 0, partition := 0, cls := 0, packet := 0, kind := .plain, index := 0, tcb := 0, arg := 0
                program := { ranges := [{ base := 0x20000, len := 0x10000, r := true, w := true }] }
                xlat := [{ va := 0x20000, pa := 0x20000, len := 0x10000 }] }]
    blocks := [{ id := 2, task := 1, core := 0, order := 0, nthreads := 2, allot := 128, spadSize := 0, streams := defaultStreams }]
    bundles := [enqueueBundle], reqs := [descriptorStore], fresh := 5, group := some enqueueGroup }

theorem laneRuns_enqueue : LaneRuns enqueueState.taken enqueueBundle (.pwenq 2 127) 1 enqueueThread where
  noWait := by decide
  allowed := .inl rfl
  sources := by decide

theorem meets_enqueue : Meets enqueueState enqueueGroup enqueueBundle (.pwenq 2 127) where
  group := rfl
  bundle := rfl
  unique x hx _ := List.mem_singleton.mp hx
  legal := by decide
  privileged := rfl
  distinct := by decide
  runs l hl := by
    obtain rfl : l = 1 := List.mem_singleton.mp hl
    exact ⟨enqueueThread, rfl, fun _ => laneRuns_enqueue⟩

/-- Lane 0's checks pass: memory's own descriptor is sound. -/
theorem enqueueChecks_lane0 : enqueueChecks 2 enqueueState.taken enqueueGroup enqueueBundle 0 enqueueThread = [] := by decide

/-- Lane 1 meets ILLEGAL at the descriptor's first field. -/
theorem laneTrap_enqueue : enqueueThread.laneTrap (.pwenq 2 127) (enqueueChecks 2 enqueueState.taken enqueueGroup enqueueBundle 1 enqueueThread) =
    some { cause := 3, detail := 0 } := by decide

/-- So lane 1 raises it and sends no request. -/
theorem exec_pwenq_traps : exec (.pwenq 2 127) enqueueState =
    .next (enqueueState.taken.raise 3 1 { cause := 3, detail := 0 } enqueueGroup.start enqueueGroup.nextPc) :=
  runLanes_oneLane_raises meets_enqueue rfl (fate_of_laneTrap (List.mem_singleton.mpr rfl) rfl laneRuns_enqueue laneTrap_enqueue)

theorem reqs_raise_enqueue :
    (enqueueState.taken.raise 3 1 { cause := 3, detail := 0 } enqueueGroup.start enqueueGroup.nextPc).reqs.length ≤ 1 := by decide

/-- Refutes O43: its condition on PWENQ takes lane 0's view of the descriptor for every lane. In enqueueState lane 0's view is sound and lane
1, which runs, has a store of its own in its queue that makes the descriptor unsound: it traps ILLEGAL, where the statement adds a request. -/
theorem not_registerRecordAndEnqueueRequests : ¬ Obligations.RegisterRecordAndEnqueueRequests := by
  intro h
  obtain ⟨_, _, _, hPwenq⟩ := h 0 0 2 127
  have hSound : EachActive enqueueGroup enqueueBundle fun t => enqueueChecks 2 enqueueState.taken enqueueGroup enqueueBundle 0 t = [] := by
    intro l hl _ t ht
    obtain rfl : l = 1 := List.mem_singleton.mp hl
    obtain rfl : enqueueThread = t := Option.some.inj ht
    exact enqueueChecks_lane0
  obtain ⟨u, hu, hSent⟩ : ∃ u, exec (.pwenq 2 127) enqueueState = .next u ∧ 1 < u.reqs.length :=
    ⟨_, hPwenq _ _ _ meets_enqueue hSound, by decide⟩
  obtain rfl := Host.Outcome.next.inj (exec_pwenq_traps.symm.trans hu)
  exact absurd reqs_raise_enqueue (Nat.not_le.mpr hSent)

end Sys2Proof.Machine
end

section
/-! SUPPORT. The fused forms, HOP, DOP, FUN, the conversions and DOT (R127, R128, R130 to R138): what the model's elements, halves and integer
reads are in terms of the codes that registers hold. -/

namespace Sys2Proof.Machine

/-! Halves (R130, R131). -/

/-- Half j of a register. -/
theorem elem_sixteen (v j : Nat) : elem v 16 j = v / 2 ^ (16 * j) % 65536 :=
  congrArg (fun n => v / 2 ^ n % 65536) (Nat.mul_comm j 16)

/-- HOP does its operation on the low halves and on the high ones. -/
theorem hop_eq (f : FMode → Nat → Nat → Nat × Word) (md : FMode) (a b : Nat) :
    hop f md a b = halves fun j => f md (a / 2 ^ (16 * j) % 65536) (b / 2 ^ (16 * j) % 65536) := by
  simp only [hop, elem_sixteen]

/-- An instruction of HOP's shape packs the results of the two halves into d. -/
theorem onThreads_of_hop {i : Instr} {a b d : BitVec 7} (f : FMode → Nat → Nat → Nat × Word)
    (he : ∀ s, exec i s = runPure i (fput2 (hop f) a b d) s) :
    OnThreads i fun t => t.putF d.toNat (halves fun j =>
      f t.mode ((t.val a.toNat).toNat / 2 ^ (16 * j) % 65536) ((t.val b.toNat).toNat / 2 ^ (16 * j) % 65536)) :=
  onThreads_of_runPure_eq he fun t => congrArg (t.putF d.toNat) (hop_eq f t.mode (t.val a.toNat).toNat (t.val b.toNat).toNat)

/-- Settles O22: FMA2 and HOP work on the halves, as the statement numbers them; FFMA and DFMA are the pure functions that it writes out. -/
theorem fusedAndHalfPrecisionWriteD : Obligations.FusedAndHalfPrecisionWriteD := by
  intro x y k c5 c4 b a d V h put two F
  refine ⟨?ffma, ?fma2, ?dfma, ?addF16, ?addBf16, ?mulF16, ?mulBf16, ?minF16, ?minBf16, ?maxF16, ?maxBf16⟩
  case ffma => exact onThreads_of_runPure fun _ => rfl
  case dfma => exact onThreads_of_runPure fun _ => rfl
  case fma2 =>
    refine onThreads_of_runPure_eq (fun _ => rfl) fun t => ?_
    simp only [elem_sixteen]
    rfl
  case addF16 => exact onThreads_of_hop f16.add fun _ => rfl
  case addBf16 => exact onThreads_of_hop bf16.add fun _ => rfl
  case mulF16 => exact onThreads_of_hop f16.mul fun _ => rfl
  case mulBf16 => exact onThreads_of_hop bf16.mul fun _ => rfl
  case minF16 => exact onThreads_of_hop (f16.pick · false) fun _ => rfl
  case minBf16 => exact onThreads_of_hop (bf16.pick · false) fun _ => rfl
  case maxF16 => exact onThreads_of_hop (f16.pick · true) fun _ => rfl
  case maxBf16 => exact onThreads_of_hop (bf16.pick · true) fun _ => rfl

/-! DOP and FUN (R132 to R134), conversions (R136, R137). -/

/-- Settles O23: the meaning of each operation is the pure function that the statement writes out. -/
theorem doublePrecisionAndFunctionsWriteD : Obligations.DoublePrecisionAndFunctionsWriteD := by
  intro x y b a d A B X Y put put2
  refine ⟨?dadd, ?dsub, ?dmul, ?dmin, ?dmax, ?ddiv, ?dsqrt, ?frcp, ?frsq, ?fsqrt, ?fdiv, ?fexp2, ?flog2, ?fsinpi, ?fcospi⟩
  all_goals exact onThreads_of_runPure fun _ => rfl

/-- Settles O24: the meaning of each form is the pure function that the statement writes out. -/
theorem conversionsWriteD : Obligations.ConversionsWriteD := by
  intro f r k u e a d src n fed put
  refine ⟨?cvt, ?cvtp, ?cvtpEf⟩
  all_goals exact onThreads_of_runPure fun _ => rfl

/-! Dot products (R127, R138). -/

theorem elem_lt (v w j : Nat) : elem v w j < 2 ^ w := Nat.mod_lt _ (Nat.two_pow_pos w)

/-- A code of a signed type reads as two's complement (R118). -/
theorem readInt_of_signed {ty v : Nat} (hSigned : intLo ty < 0) (hv : v < 2 ^ typeBits ty) :
    readInt ty v = if v.testBit (typeBits ty - 1) then (v : Int) - 2 ^ typeBits ty else v := by
  simp only [readInt, Nat.mod_eq_of_lt hv, bit_eq_testBit, hSigned, true_and]

/-- A code of an unsigned type reads as itself (R118). -/
theorem readInt_of_unsigned {ty v : Nat} (hUnsigned : ¬ intLo ty < 0) (hv : v < 2 ^ typeBits ty) : readInt ty v = v := by
  simp only [readInt, Nat.mod_eq_of_lt hv, hUnsigned, false_and, if_false]

/-- The integer form sums the products of what its elements read as. -/
theorem dotInt_eq {ty : Nat} {rd : Nat → Int} (hRead : ∀ v < 2 ^ typeBits ty, readInt ty v = rd v) (d a b : Word) :
    dotInt ty d a b = d + BitVec.ofInt 32 (((List.range (32 / typeBits ty)).map fun j =>
      rd (elem a.toNat (typeBits ty) j) * rd (elem b.toNat (typeBits ty) j)).foldl (· + ·) 0) := by
  have hElem (v : Word) (j : Nat) : readInt ty (elem v.toNat (typeBits ty) j) = rd (elem v.toNat (typeBits ty) j) := hRead _ (elem_lt _ _ _)
  simp only [dotInt, hElem]

/-- An instruction of DOT's integer shape adds that sum to d. -/
theorem onThreads_of_dotInt {i : Instr} {a b d : BitVec 7} {ty : Nat} {rd : Nat → Int}
    (he : ∀ s, exec i s = runPure i (put3 (dotInt ty) a b d) s) (hRead : ∀ v < 2 ^ typeBits ty, readInt ty v = rd v) :
    OnThreads i fun t => t.write d.toNat (t.val d.toNat + BitVec.ofInt 32 (((List.range (32 / typeBits ty)).map fun j =>
      rd (elem (t.val a.toNat).toNat (typeBits ty) j) * rd (elem (t.val b.toNat).toNat (typeBits ty) j)).foldl (· + ·) 0)) :=
  onThreads_of_runPure_eq he fun t =>
    congrArg (t.write d.toNat) (dotInt_eq hRead (t.val d.toNat) (t.val a.toNat) (t.val b.toNat))

/-- Settles O25: the integer forms read codes of types 0, 1, 7 and 15 (R112); the floating ones are the pure functions that the statement
writes out. -/
theorem dotProductsWriteD : Obligations.DotProductsWriteD := by
  intro x y b a d el signed isum fsum
  refine ⟨?dot4I8, ?dot4Z8, ?dot8I4, ?dot8Z4, ?dot4D8a, ?dot4D8b, ?dot8D4, ?dot2Bf16⟩
  case dot4I8 => exact onThreads_of_dotInt (ty := 0) (fun _ => rfl) fun _ => readInt_of_signed (by decide)
  case dot4Z8 => exact onThreads_of_dotInt (ty := 1) (fun _ => rfl) fun _ => readInt_of_unsigned (by decide)
  case dot8I4 => exact onThreads_of_dotInt (ty := 7) (fun _ => rfl) fun _ => readInt_of_signed (by decide)
  case dot8Z4 => exact onThreads_of_dotInt (ty := 15) (fun _ => rfl) fun _ => readInt_of_unsigned (by decide)
  all_goals exact onThreads_of_runPure fun _ => rfl

end Sys2Proof.Machine
end

section
/-! SUPPORT. What leaves memory alone (R145): for each function of the model that writes no byte, that the memory after it is the
memory before. In the order of the model's files. -/

namespace Sys2Proof.Machine

@[simp] theorem mem_foldl {α : Type} (f : State → α → State) (hf : ∀ s x, (f s x).mem = s.mem) (xs : List α) (s : State) :
    (xs.foldl f s).mem = s.mem :=
  List.foldlRecOn (motive := fun u => u.mem = s.mem) xs f rfl fun u hu x _ => (hf u x).trans hu

@[simp] theorem mem_foldl_fst {α β : Type} (f : State × β → α → State × β) (hf : ∀ a x, (f a x).1.mem = a.1.mem) (xs : List α)
    (a : State × β) : (xs.foldl f a).1.mem = a.1.mem :=
  List.foldlRecOn (motive := fun u => u.1.mem = a.1.mem) xs f rfl fun u hu x _ => (hf u x).trans hu

/-! Functions of Machine/Ops.lean. -/

@[simp] theorem State.modBlk_mem (s : State) (b : Bundle) (f : Block → Block) : (s.modBlk b f).mem = s.mem := by
  simp only [State.modBlk]
  split <;> simp

@[simp] theorem State.modDieLine_mem (s : State) (d ln : Nat) (f : DieLine → DieLine) : (s.modDieLine d ln f).mem = s.mem := by rfl

@[simp] theorem State.msix_mem (s : State) (v : Nat) : (s.msix v).mem = s.mem := by
  simp only [State.msix]
  repeat' split
  all_goals simp

@[simp] theorem State.emit_mem (s : State) (m : Message) : (s.emit m).mem = s.mem := by
  simp only [State.emit]
  split <;> simp

@[simp] theorem State.send_mem (s : State) (p : Nat) (m : Message) : (s.send p m).mem = s.mem := by
  simp only [State.send]
  repeat' split
  all_goals simp

theorem State.external_mem {s : State} {f : State → State} (p : Nat) (i : Input) (hf : (f s).mem = s.mem) : (s.external p i f).mem = s.mem := by
  simp only [State.external]
  split
  · exact hf
  · split <;> rfl

theorem State.externalOnce_mem {s : State} {f : State → State} (p op : Nat) (i : Input) (hf : (f s).mem = s.mem) :
    (s.externalOnce p op i f).mem = s.mem := by
  simp only [State.externalOnce]
  split
  · rfl
  · exact State.external_mem p i hf

@[simp] theorem State.staleCode_mem (now before : State) (pa n : Nat) : (State.staleCode now before pa n).mem = now.mem := rfl

@[simp] theorem State.undoFor_mem (s : State) (p ln : Nat) : (s.undoFor p ln).mem = s.mem := by rfl

@[simp] theorem State.undoLine_mem (s : State) (ln : Nat) : (s.undoLine ln).mem = s.mem := by
  simp [State.undoLine, apply_ite State.mem]

@[simp] theorem State.logStore_mem (s : State) (pa : Nat) (bs : List Byte) : (s.logStore pa bs).mem = s.mem := by rfl

@[simp] theorem State.keepGlobal_mem (s : State) (pa n : Nat) : (s.keepGlobal pa n).mem = s.mem := by rfl

@[simp] theorem State.useL2_mem (s : State) (iso : Option Nat) (d ln policy : Nat) : (s.useL2 iso d ln policy).1.mem = s.mem := by
  simp only [State.useL2]
  split <;> simp

@[simp] theorem State.carverTouch_mem (s : State) (ln : Nat) : (s.carverTouch ln).mem = s.mem := by rfl

@[simp] theorem State.frameTaken_mem (s : State) (lo n : Nat) : (s.frameTaken lo n).mem = s.mem := by simp [State.frameTaken]

@[simp] theorem State.touch_mem (s : State) (pa : Nat) : (s.touch pa).mem = s.mem := by rfl

@[simp] theorem State.evInterrupt_mem (s : State) (p : Nat) : (s.evInterrupt p).mem = s.mem := by
  simp only [State.evInterrupt]
  split <;> simp

@[simp] theorem State.recordDone_mem (s : State) (p ring : Nat) : (s.recordDone p ring).mem = s.mem := by
  simp only [State.recordDone]
  split <;> simp

@[simp] theorem State.releaseTurn_mem (s : State) (b l : Nat) : (s.releaseTurn b l).mem = s.mem := by rfl

@[simp] theorem State.abortTx_mem (s : State) (b l : Nat) (status : Word) : (s.abortTx b l status).mem = s.mem := by
  simp only [State.abortTx]
  split <;> simp

@[simp] theorem State.exitLane_mem (s : State) (b l : Nat) : (s.exitLane b l).mem = s.mem := by rfl

@[simp] theorem State.exitBundle_mem (s : State) (b : Bundle) : (s.exitBundle b).mem = s.mem := by simp [State.exitBundle]

@[simp] theorem State.exitBlock_mem (s : State) (k : Nat) : (s.exitBlock k).mem = s.mem := by simp [State.exitBlock]

@[simp] theorem State.endBlock_mem (s : State) (k : Nat) (tr : Trap) (opc : DWord) (bi l : Nat) : (s.endBlock k tr opc bi l).mem = s.mem :=
  by simp [State.endBlock]

@[simp] theorem State.retireIn_mem (s : State) (o : Owner) (n : Nat) : (s.retireIn o n).mem = s.mem := by
  simp only [State.retireIn]
  split <;> simp

@[simp] theorem State.unretire_mem (s : State) (o : Owner) (n : Nat) : (s.unretire o n).mem = s.mem := by
  simp only [State.unretire]
  split <;> simp

@[simp] theorem State.standStill_mem (s : State) (k : Nat) : (s.standStill k).mem = s.mem := by simp [State.standStill]

@[simp] theorem State.haltBlock_mem (s : State) (k : Nat) : (s.haltBlock k).mem = s.mem := by simp [State.haltBlock]

@[simp] theorem State.parkLane_mem (s : State) (b l : Nat) (tr : Trap) (opc resume : DWord) (imprecise afterAbort : Bool) :
    (s.parkLane b l tr opc resume imprecise afterAbort).mem = s.mem := by
  simp only [State.parkLane]
  repeat' split
  all_goals simp

@[simp] theorem State.raisePlain_mem (s : State) (b : Bundle) (l : Nat) (tr : Trap) (opc resume : DWord) (imprecise after : Bool) :
    (s.raisePlain b l tr opc resume imprecise after).mem = s.mem := by
  simp only [State.raisePlain]
  repeat' split
  all_goals simp

@[simp] theorem State.meet_mem (s : State) (bid l : Nat) (tr : Trap) (start nxt : DWord) : (s.meet bid l tr start nxt).1.mem = s.mem := by
  simp only [State.meet]
  repeat' split
  all_goals simp

@[simp] theorem State.takeMet_mem (s : State) (bid : Nat) (x : Met) : (s.takeMet bid x).mem = s.mem := by
  simp only [State.takeMet]
  repeat' split
  all_goals simp

@[simp] theorem State.raise_mem (s : State) (bid l : Nat) (tr : Trap) (start nxt : DWord) : (s.raise bid l tr start nxt).mem = s.mem :=
  by simp [State.raise]

@[simp] theorem State.resumeLane_mem (s : State) (b l : Nat) : (s.resumeLane b l).mem = s.mem := by rfl

@[simp] theorem State.meetAll_mem (s : State) (b : Nat) (start nxt : DWord) (ts : List (Nat × Trap)) :
    (s.meetAll b start nxt ts).1.mem = s.mem :=
  by simp [State.meetAll]

@[simp] theorem State.raiseAll_mem (s : State) (b : Nat) (start nxt : DWord) (ts : List (Nat × Trap)) :
    (s.raiseAll b start nxt ts).mem = s.mem :=
  by simp [State.raiseAll]

/-! Functions of Machine/Places.lean. -/

@[simp] theorem State.offend_mem (s : State) (b : Bundle) (p : Place) (space : Nat) (ea : DWord) : (s.offend b p space ea).mem = s.mem := by
  simp only [State.offend]
  split <;> simp

/-! Functions of Machine/Run.lean. -/

@[simp] theorem State.meetStep_mem (s : State) (bid l : Nat) (start : DWord) : (s.meetStep bid l start).1.mem = s.mem := by
  simp only [State.meetStep]
  repeat' split
  all_goals simp

@[simp] theorem State.retire_mem (s : State) (bid : Nat) : (s.retire bid).mem = s.mem := by
  simp only [State.retire]
  split <;> simp

@[simp] theorem State.meetFinish_mem (s : State) (bid l : Nat) (start pc : DWord) : (s.meetFinish bid l start pc).1.mem = s.mem :=
  by simp [State.meetFinish]

@[simp] theorem State.takeAll_mem (x : State × List Met) (bid : Nat) : (State.takeAll x bid).mem = x.1.mem := by simp [State.takeAll]

@[simp] theorem State.meetDone_mem (s : State) (bid l : Nat) (start pc : DWord) : (s.meetDone bid l start pc).1.mem = s.mem :=
  by simp [State.meetDone]

@[simp] theorem State.finishLane_mem (s : State) (bid l : Nat) (start pc : DWord) : (s.finishLane bid l start pc).mem = s.mem := by
  simp [State.finishLane]

@[simp] theorem State.finishGone_mem (s : State) (bid l : Nat) (start : DWord) : (s.finishGone bid l start).mem = s.mem := by
  simp [State.finishGone]

@[simp] theorem State.forbid_mem (s : State) (b : Bundle) (g : Group) (l : Nat) : (s.forbid b g l).1.mem = s.mem := by
  simp only [State.forbid]
  repeat' split
  all_goals simp

@[simp] theorem State.holdLane_mem (s : State) (bid l : Nat) (nxt : DWord) : (s.holdLane bid l nxt).mem = s.mem := by
  simp only [State.holdLane]
  split <;> simp

@[simp] theorem State.endLane_mem (s : State) (g : Group) (l : Nat) (e : LaneEnd) : (s.endLane g l e).1.mem = s.mem := by
  cases e <;> simp [State.endLane]

@[simp] theorem State.endFate_mem (s : State) (g : Group) (b : Bundle) (ends : List (Nat × LaneEnd)) (x : Nat × LaneFate) :
    (s.endFate g b ends x).1.mem = s.mem := by
  simp only [State.endFate]
  split <;> simp

@[simp] theorem State.endGroup_mem (s : State) (g : Group) (b : Bundle) (fates : List (Nat × LaneFate)) (ends : List (Nat × LaneEnd)) :
    (s.endGroup g b fates ends).mem = s.mem := by
  rw [State.endGroup, State.takeAll_mem]
  exact mem_foldl_fst _ (fun _ _ => by simp) _ _

@[simp] theorem State.raiseGroup_mem (s : State) (g : Group) (t : Trap) : (s.raiseGroup g t).mem = s.mem := by simp [State.raiseGroup]

/-! Functions of Machine/Pages.lean. -/

@[simp] theorem State.suspend_mem (s : State) (p n va : Nat) : (s.suspend p n va).mem = s.mem := by rfl

/-! Functions of Machine/Home.lean. -/

@[simp] theorem State.keepSpad_mem (s : State) (k off n : Nat) : (s.keepSpad k off n).mem = s.mem := by rfl

@[simp] theorem State.spadWrite_mem (s : State) (k off : Nat) (bs : List Byte) : (s.spadWrite k off bs).mem = s.mem := by rfl

@[simp] theorem State.landThread_mem (s : State) (b l : Nat) (f : Thread → Thread) : (s.landThread b l f).mem = s.mem := by
  simp only [State.landThread]
  split <;> simp

@[simp] theorem State.putL1_mem (s : State) (core : Nat) (c : Copy) : (s.putL1 core c).mem = s.mem := by rfl

@[simp] theorem State.touchL1_mem (s : State) (core ln : Nat) : (s.touchL1 core ln).mem = s.mem := by rfl

@[simp] theorem State.atHome_mem (s : State) (core ln policy : Nat) : (s.atHome core ln policy).1.mem = s.mem := by simp [State.atHome]

@[simp] theorem State.grant_mem (s : State) (c ln : Nat) (stamp : Option Nat) (policy : Nat) : (s.grant c ln stamp policy).1.mem = s.mem := by
  simp only [State.grant]
  repeat' split
  all_goals simp

@[simp] theorem State.raiseCtime_mem (s : State) (c w : Nat) : (s.raiseCtime c w).mem = s.mem := by rfl

@[simp] theorem State.reachTime_mem (s : State) (r : Req) (w : Nat) : (s.reachTime r w).mem = s.mem := by rfl

@[simp] theorem State.holdReq_mem (s : State) (r : Req) : (s.holdReq r).mem = s.mem := by
  simp only [State.holdReq]
  split <;> simp

/-! Functions of Machine/Memory.lean. -/

@[simp] theorem State.toPeer_mem (s : State) (p k va : Nat) (bs : List Byte) : (s.toPeer p k va bs).mem = s.mem := by simp [State.toPeer]

@[simp] theorem State.addReq_mem (s : State) (r : Req) : (s.addReq r).mem = s.mem := by
  simp only [State.addReq]
  split <;> simp

@[simp] theorem State.sampleOf_mem (s : State) (b : Bundle) (smp : Bool) : (s.sampleOf b smp).1.mem = s.mem := by
  simp only [State.sampleOf]
  split <;> simp

@[simp] theorem State.issueTxLoad_mem (s : State) (g : Group) (b : Bundle) (l stream : Nat) (kind : ReqKind) (pl : Place) (ea : DWord)
    (size entry : Nat) (x : Tx) :
    (s.issueTxLoad g b l stream kind pl ea size entry x).1.mem = s.mem := by
  simp only [State.issueTxLoad]
  repeat' split
  all_goals simp

@[simp] theorem State.issueLoad_mem (s : State) (g : Group) (b : Bundle) (l stream : Nat) (ea : DWord) (size code dst : Nat)
    (acq : Option Nat) (smp : Bool) (entry : Nat) :
    (s.issueLoad g b l stream ea size code dst acq smp entry).1.mem = s.mem := by
  simp only [State.issueLoad]
  repeat' split
  all_goals simp

@[simp] theorem State.enroll_mem (s : State) (who : Nat × Nat) (ln : Nat) : (s.enroll who ln).mem = s.mem := by simp [State.enroll]

@[simp] theorem State.issueTxStore_mem (s : State) (b : Bundle) (l stream : Nat) (pl : Place) (ea : DWord) (bs : List Byte) (cal : Bool)
    (x : Tx) :
    (s.issueTxStore b l stream pl ea bs cal x).1.mem = s.mem := by
  simp only [State.issueTxStore]
  repeat' split
  all_goals simp

@[simp] theorem State.issueStore_mem (s : State) (g : Group) (b : Bundle) (l stream : Nat) (ea : DWord) (bs : List Byte) (rel : Option Nat)
    (entry : Nat) :
    (s.issueStore g b l stream ea bs rel entry).1.mem = s.mem := by
  simp only [State.issueStore]
  repeat' split
  all_goals simp

@[simp] theorem State.prefetch_mem (s : State) (b : Bundle) (l stream : Nat) (ea : DWord) : (s.prefetch b l stream ea).mem = s.mem := by
  simp only [State.prefetch]
  repeat' split
  all_goals simp

@[simp] theorem State.modStash_mem (s : State) (k m i : Nat) (f : StashLine → StashLine) : (s.modStash k m i f).mem = s.mem := by rfl

@[simp] theorem State.toBuffer_mem (s : State) (r : Req) : (s.toBuffer r).mem = s.mem := by rfl

@[simp] theorem State.enter_mem (s : State) (r : Req) (bs : List Byte) : (s.enter r bs).mem = s.mem := by
  simp only [State.enter]
  repeat' split
  all_goals rfl

@[simp] theorem State.writeBack_mem (s : State) (k : Block) (p : StashMap → StashLine → Bool) : (s.writeBack k p).mem = s.mem :=
  mem_foldl _ (fun _ _ => mem_foldl _ (fun _ _ => by
    dsimp only
    split
    · split <;> simp
    · rfl) _ _) _ _

@[simp] theorem State.writeBackFor_mem (s : State) (b : Bundle) : (s.writeBackFor b).mem = s.mem := by
  simp only [State.writeBackFor]
  split <;> simp

@[simp] theorem State.drainEntry_mem (s : State) (r : Req) : (s.drainEntry r).mem = s.mem := by
  simp only [State.drainEntry]
  split
  · rfl
  · split
    · split
      · refine (mem_foldl _ (fun _ _ => ?_) _ _).trans (State.writeBackFor_mem _ _)
        split <;> simp
      · simp
    · split
      · refine mem_foldl _ (fun _ _ => ?_) _ _
        split <;> simp
      · rfl

@[simp] theorem State.doneAt_mem (s : State) (op : Nat) (w : Nat) (lapse : Nat × Nat) (res : List Word) :
    (s.doneAt op w lapse res).mem = s.mem :=
  by rfl

@[simp] theorem State.stashLease_mem (s : State) (core ln rts : Nat) : (s.stashLease core ln rts).mem = s.mem := by
  simp only [State.stashLease]
  split <;> simp

@[simp] theorem State.copyTakes_mem (s : State) (core pa w : Nat) (bs : List (Nat × Byte)) : (s.copyTakes core pa w bs).mem = s.mem := by
  simp only [State.copyTakes]
  split <;> simp

@[simp] theorem State.cleaned_mem (s : State) (k m i : Nat) : (s.cleaned k m i).mem = s.mem := by
  simp only [State.cleaned]
  repeat' split
  all_goals simp

@[simp] theorem State.addLapse_mem (s : State) (b l stream : Nat) (x : Nat × Nat) : (s.addLapse b l stream x).mem = s.mem :=
  by simp [State.addLapse]

@[simp] theorem State.addLapses_mem (s : State) (bundles streams : List Nat) (x : Nat × Nat) : (s.addLapses bundles streams x).mem = s.mem :=
  mem_foldl _ (fun _ _ => mem_foldl _ (fun _ _ => mem_foldl _ (fun _ _ => State.addLapse_mem _ _ _ _ _) _ _) _ _) _ _

@[simp] theorem State.acknowledge_mem (s : State) (r : Req) : (s.acknowledge r).mem = s.mem := by
  simp only [State.acknowledge]
  split
  · split
    · rfl
    · split <;> simp [mem_foldl _ fun _ _ => State.addLapse_mem _ _ _ _ _]
  · rfl

@[simp] theorem State.shareLoad_mem (s : State) (r : Req) (bs : List Byte) : (s.shareLoad r bs).mem = s.mem := by rfl

@[simp] theorem State.recordRead_mem (s : State) (r : Req) : (s.recordRead r).mem = s.mem := by
  simp only [State.recordRead]
  split <;> simp

@[simp] theorem State.breakRing_mem (s : State) (who : Nat × Nat) : (s.breakRing who).mem = s.mem := by
  simp only [State.breakRing]
  split <;> simp

@[simp] theorem State.txLoadHome_mem (s : State) (r : Req) (ln : Nat) (x : Tx) : (s.txLoadHome r ln x).mem = s.mem := by
  simp only [State.txLoadHome]
  repeat' split
  all_goals simp

@[simp] theorem State.txLoads_mem (s : State) (r : Req) (ln : Nat) : (s.txLoads r ln).mem = s.mem := by
  simp only [State.txLoads]
  split
  · rfl
  · refine mem_foldl _ (fun _ _ => ?_) _ _
    split
    · split <;> simp
    · rfl

@[simp] theorem State.fetchLine_mem (s : State) (r : Req) : (s.fetchLine r).mem = s.mem := by
  simp only [State.fetchLine]
  repeat' split
  all_goals simp

theorem State.peerReply_mem {s : State} {f : State → State} (r : Req) (hf : (f s).mem = s.mem) : (s.peerReply r f).mem = s.mem := by
  simp only [State.peerReply]
  split
  · split
    · exact hf
    · exact State.externalOnce_mem _ _ _ hf
  · exact hf

/-! Functions of Machine/Order.lean. -/

@[simp] theorem State.fence_mem (s : State) (b : Bundle) (l scope : Nat) (dirty : Bool) : (s.fence b l scope dirty).1.mem = s.mem := by
  simp only [State.fence]
  split <;> simp

/-! Functions of Machine/Atomics.lean. -/

@[simp] theorem State.atomDone_mem (s : State) (r : Req) (op : Nat) (n : Bool) (dst sc : Nat) (ls : List AtomLane) (w : Nat)
    (lapse : Nat × Nat) (new : List Word) :
    (s.atomDone r op n dst sc ls w lapse new).mem = s.mem :=
  by rfl

@[simp] theorem State.atomLocal_mem (s : State) (r : Req) (op : Nat) (n : Bool) (dst sc : Nat) (ls : List AtomLane) :
    (s.atomLocal r op n dst sc ls).mem = s.mem := by
  simp only [State.atomLocal]
  split
  · rfl
  · split
    · simp
    · simp
    · split
      · rfl
      · split <;> simp
    · rfl

@[simp] theorem State.finishAtom_mem (s : State) (r : Req) (op : Nat) (n : Bool) (dst : Nat) (ls : List AtomLane) :
    (s.finishAtom r op n dst ls).mem = s.mem := by
  simp only [State.finishAtom]
  repeat' split
  all_goals simp

@[simp] theorem State.futureDone_mem (s : State) (op w : Nat) (trap : Bool) (v : Word) (lapse : Nat × Nat) :
    (s.futureDone op w trap v lapse).mem = s.mem :=
  by rfl

@[simp] theorem State.queueWaiter_mem (s : State) (r : Req) : (s.queueWaiter r).mem = s.mem := by rfl

@[simp] theorem State.futurePeer_mem (s : State) (r : Req) (sub k va : Nat) (v : Word) : (s.futurePeer r sub k va v).mem = s.mem := by
  simp only [State.futurePeer]
  repeat' split
  all_goals simp

@[simp] theorem State.futureAnswer_mem (s : State) (op : Nat) : (s.futureAnswer op).mem = s.mem := by
  simp only [State.futureAnswer]
  repeat' split
  all_goals simp

/-! Functions of Machine/Lease.lean. -/

@[simp] theorem State.lease_mem (s : State) (p va n holder : Nat) : (s.lease p va n holder).mem = s.mem := by
  simp only [State.lease]
  split <;> simp

@[simp] theorem State.unlease_mem (s : State) (holder : Nat) : (s.unlease holder).mem = s.mem := by rfl

/-! Functions of Machine/Settle.lean. -/

@[simp] theorem State.releaseLanes_mem (s : State) (bid : Nat) (ls : List (Nat × Conv)) : (s.releaseLanes bid ls).mem = s.mem := by
  rw [State.releaseLanes, State.takeAll_mem]
  exact mem_foldl_fst _ (fun _ _ => by simp) _ _

@[simp] theorem State.addResults_mem (s : State) (bid : Nat) (mfrag : Bool) (shares : List LaneShare) :
    (s.addResults bid mfrag shares).mem = s.mem := by
  simp only [State.addResults]
  split <;> simp

@[simp] theorem State.releaseAt_mem (s : State) (b : Bundle) (i : Instr) (ls : List (Nat × Conv)) : (s.releaseAt b i ls).mem = s.mem := by
  simp only [State.releaseAt]
  split
  · split
    · simp
    · split
      · rw [State.takeAll_mem, State.releaseLanes_mem]
        exact mem_foldl_fst _ (fun _ _ => by simp) _ _
      · simp
  · split <;> simp

@[simp] theorem State.converge_mem (s : State) (bid : Nat) : (s.converge bid).mem = s.mem := by
  simp only [State.converge]
  split
  · rfl
  · split
    · rfl
    · split
      · rfl
      · split
        · simp
        · rw [State.takeAll_mem]
          exact mem_foldl_fst _ (fun _ _ => by simp) _ _

@[simp] theorem State.raiseCaliper_mem (s : State) (o : Owner) (checkers : List (Nat × Nat)) (t : Trap) :
    (s.raiseCaliper o checkers t).mem = s.mem := by
  simp only [State.raiseCaliper]
  split <;> simp

@[simp] theorem State.completeBar_mem (s : State) (b : Bundle) (q : Nat) (sums : Option (List (List (Option (Int × Int))))) (chk : Bool) :
    (s.completeBar b q sums chk).mem = s.mem := by
  simp only [State.completeBar]
  repeat' split
  all_goals simp

@[simp] theorem State.settleBar_mem (s : State) (b : Bundle) (q : Nat) : (s.settleBar b q).mem = s.mem := by
  simp only [State.settleBar]
  repeat' split
  all_goals simp

@[simp] theorem State.passBars_mem (s : State) (b : Bundle) : (s.passBars b).mem = s.mem :=
  mem_foldl _ (fun _ _ => by
    dsimp only
    split
    · split <;> simp [State.finishLane]
    · rfl) _ _

@[simp] theorem State.settleBars_mem (s : State) (b : Bundle) : (s.settleBars b).mem = s.mem := by
  simp only [State.settleBars]
  split <;> simp

@[simp] theorem State.finishRequests_mem (s : State) (k : Nat) : (s.finishRequests k).mem = s.mem :=
  mem_foldl _ (fun _ _ => by dsimp only; split <;> simp) _ _

@[simp] theorem State.raiseRequests_mem (s : State) (k : Nat) (tr : Trap) : (s.raiseRequests k tr).mem = s.mem :=
  mem_foldl _ (fun _ _ => by dsimp only; split <;> simp) _ _

@[simp] theorem State.settleRequest_mem (s : State) (k : Block) : (s.settleRequest k).mem = s.mem := by
  simp only [State.settleRequest]
  repeat' split
  all_goals simp

@[simp] theorem State.settle_mem (s : State) : s.settle.mem = s.mem := by simp [State.settle]

/-! Functions of Machine/Threads.lean. -/

@[simp] theorem State.writeCollective_mem (s : State) (op : Nat) (mfrag : Bool) : (s.writeCollective op mfrag).mem = s.mem := by rfl

@[simp] theorem State.setSpecial_mem (s : State) (b : Bundle) (l a : Nat) (v : Word) : (s.setSpecial b l a v).mem = s.mem := by
  simp only [State.setSpecial]
  repeat' split
  all_goals simp

/-! Functions of Machine/Traps.lean. -/

@[simp] theorem State.killOrigin_mem (s : State) (o : Origin) : (s.killOrigin o).mem = s.mem := by
  simp only [State.killOrigin]
  split <;> simp

@[simp] theorem State.kill_mem (s : State) (b l : Nat) : (s.kill b l).mem = s.mem := by
  simp only [State.kill]
  split <;> simp

@[simp] theorem State.sweepHandlers_mem (s : State) : s.sweepHandlers.mem = s.mem := by rfl

@[simp] theorem State.holdFault_mem (s : State) (k : Block) (f : LateFault) : (s.holdFault k f).mem = s.mem := by
  simp only [State.holdFault]
  split <;> simp

@[simp] theorem State.arriveFault_mem (s : State) (k : Block) (f : LateFault) : (s.arriveFault k f).mem = s.mem := by
  simp only [State.arriveFault]
  repeat' split
  all_goals simp

@[simp] theorem State.settleFaults_mem (s : State) (id : Nat) : (s.settleFaults id).mem = s.mem := by
  simp only [State.settleFaults]
  repeat' split
  all_goals simp

@[simp] theorem State.faultFor_mem (s : State) (bid l : Nat) (tr : Trap) (pc : DWord) : (s.faultFor bid l tr pc).mem = s.mem := by
  simp only [State.faultFor]
  repeat' split
  all_goals simp

@[simp] theorem State.storeRefused_mem (s : State) (op : Nat) (status : BitVec 16) : (s.storeRefused op status).mem = s.mem := by
  simp only [State.storeRefused]
  repeat' split
  all_goals simp

@[simp] theorem State.settleTraps_mem (s : State) : s.settleTraps.mem = s.mem := by simp [State.settleTraps]

/-! Functions of Machine/Clamp.lean. -/

@[simp] theorem State.replyTo_mem (s : State) (req w : Nat) (status : Word) (ws : List Word) : (s.replyTo req w status ws).mem = s.mem :=
  by rfl

@[simp] theorem State.clampPeer_mem (s : State) (r : Req) (p k va : Nat) : (s.clampPeer r p k va).mem = s.mem := by
  have hDrawn (u : State) : ((List.range 5).foldl (fun u _ => u.drawn) u).mem = u.mem := mem_foldl _ (fun _ _ => by rfl) _ _
  simp only [State.clampPeer]
  repeat' split
  all_goals simp [hDrawn]

theorem State.clampAt_mem {s : State} {f : Req → Bundle → Nat → State} (op : Nat) (hf : ∀ r b pa, (f r b pa).mem = s.mem) :
    (s.clampAt op f).mem = s.mem := by
  simp only [State.clampAt]
  repeat' split
  all_goals simp [hf]

@[simp] theorem State.waitAtHome_mem (s : State) (r : Req) : (s.waitAtHome r).mem = s.mem := by rfl

@[simp] theorem State.replyQueued_mem (s : State) (obj w : Nat) (status : Word) : (s.replyQueued obj w status).mem = s.mem :=
  by simp [State.replyQueued]

@[simp] theorem State.formWave_mem (s : State) (o : Obj) : (s.formWave o).mem = s.mem := by
  simp only [State.formWave]
  split <;> simp

@[simp] theorem State.startWave_mem (s : State) (o : Obj) : (s.startWave o).mem = s.mem := by
  simp only [State.startWave]
  repeat' split
  all_goals simp

@[simp] theorem State.dropWave_mem (s : State) (w : Wave) : (s.dropWave w).mem = s.mem := by rfl

/-! Functions of Machine/Scratch.lean. -/

@[simp] theorem State.finishMap_mem (s : State) (r : Req) (dst : Nat) (ws : List Word) : (s.finishMap r dst ws).mem = s.mem := by
  simp only [State.finishMap]
  repeat' split
  all_goals simp

@[simp] theorem State.modBuf_mem (s : State) (k q : Nat) (f : Buf → Buf) : (s.modBuf k q f).mem = s.mem := by
  simp only [State.modBuf]
  split <;> simp

@[simp] theorem State.modPending0_mem (s : State) (b : Bundle) (f : Nat → Nat) : (s.modPending0 b f).mem = s.mem :=
  by simp [State.modPending0]

@[simp] theorem State.engineSpad_mem (s : State) (b : Bundle) (space off : Nat) (bs : List Byte) :
    (s.engineSpad b space off bs).mem = s.mem := by
  simp only [State.engineSpad]
  split <;> simp

@[simp] theorem State.copyDone_mem (s : State) (op draw : Nat) : (s.copyDone op draw).mem = s.mem := by
  simp only [State.copyDone]
  repeat' split
  all_goals simp

@[simp] theorem State.touchSpan_mem (s : State) (b : Bundle) (stream va n : Nat) : (s.touchSpan b stream va n).mem = s.mem := by
  simp only [State.touchSpan]
  split
  · rfl
  · exact mem_foldl _ (fun _ _ => by split <;> rfl) _ _

@[simp] theorem State.commitAcb_mem (s : State) (b : Bundle) (c : AcbCmd) (hk hq i : Nat) (u : Buf) (draw : Nat) :
    (s.commitAcb b c hk hq i u draw).mem = s.mem := by
  simp only [State.commitAcb]
  repeat' split
  all_goals simp

@[simp] theorem State.acbFill_mem (s : State) (op draw : Nat) : (s.acbFill op draw).mem = s.mem := by
  simp only [State.acbFill]
  repeat' split
  all_goals simp

@[simp] theorem State.arriveBar_mem (s : State) (b : Bundle) (l n q : Nat) (chk : Bool) : (s.arriveBar b l n q chk).1.mem = s.mem := by
  simp only [State.arriveBar]
  repeat' split
  all_goals simp

@[simp] theorem State.completeSaved_mem (s : State) (k q : Nat) (sums : List (List (Option (Int × Int)))) (chk : Bool) :
    (s.completeSaved k q sums chk).mem = s.mem :=
  by rfl

@[simp] theorem State.completeFor_mem (s : State) (q : Nat) (sums : List (List (Option (Int × Int)))) (chk : Bool) (k : Nat) :
    (s.completeFor q sums chk k).mem = s.mem := by
  simp only [State.completeFor]
  split <;> simp

@[simp] theorem State.completeNet_mem (s : State) (x : Net) : (s.completeNet x).mem = s.mem := by
  simp only [State.completeNet]
  split <;> simp

@[simp] theorem State.deliverArrival_mem (s : State) (k : Block) (bar : Nat) : (s.deliverArrival k bar).mem = s.mem := by
  simp only [State.deliverArrival]
  repeat' split
  all_goals simp

@[simp] theorem State.deliverAll_mem (s : State) (k : Block) : (s.deliverAll k).mem = s.mem := by simp [State.deliverAll]

@[simp] theorem State.podArrival_mem (s : State) (p bar number count peer draw : Nat) :
    (s.podArrival p bar number count peer draw).mem = s.mem := by
  simp only [State.podArrival]
  split
  · rfl
  · rw [State.completeNet_mem]
    exact mem_foldl _ (fun _ _ => by rfl) _ _

/-! Functions of Machine/Matrix.lean. -/

@[simp] theorem State.freeSlot_mem (s : State) (core i : Nat) : (s.freeSlot core i).mem = s.mem := by rfl

@[simp] theorem State.refund_mem (s : State) (die cost : Nat) : (s.refund die cost).mem = s.mem := by rfl

@[simp] theorem State.dropTile_mem (s : State) (t : Tile) : (s.dropTile t).mem = s.mem := by
  simp only [State.dropTile]
  split <;> simp

@[simp] theorem State.issueTile_mem (s : State) (t : Tile) : (s.issueTile t).mem = s.mem := by
  have hRing (u : State) (cs : List Nat) (f : State → Core → Core) : (cs.foldl (fun u c => u.modCore c (f u)) u).mem = u.mem :=
    mem_foldl _ (fun _ _ => by rfl) _ _
  simp only [State.issueTile]
  repeat' split
  all_goals simp [hRing _ _ fun _ _ => _]

@[simp] theorem State.settleTile_mem (s : State) (id : Nat) : (s.settleTile id).mem = s.mem := by
  simp only [State.settleTile]
  repeat' split
  all_goals simp

@[simp] theorem State.settleTiles_mem (s : State) : s.settleTiles.mem = s.mem := by simp [State.settleTiles]

@[simp] theorem State.tileSpad_mem (s : State) (b : Bundle) (olds : List OldWord) (d : Word × Word) (rows len : Nat) :
    (s.tileSpad b olds d rows len).1.mem = s.mem := by
  refine mem_foldl_fst _ (fun _ _ => ?_) _ _
  exact mem_foldl_fst _ (fun _ _ => by dsimp only; split <;> simp) _ _

@[simp] theorem State.tileCodes_mem (s : State) (b : Bundle) (t : Tile) (isB : Bool) : (s.tileCodes b t isB).1.mem = s.mem := by
  simp only [State.tileCodes]
  split <;> simp

@[simp] theorem State.fillSlots_mem (s : State) (t : Tile) (v : Nat → Nat → Nat → Nat → Nat) : (s.fillSlots t v).mem = s.mem :=
  mem_foldl _ (fun _ _ => by rfl) _ _

@[simp] theorem State.multiply_mem (s : State) (t : Tile) (a b : Nat → Nat → Nat) : (s.multiply t a b).mem = s.mem :=
  by simp [State.multiply]

@[simp] theorem State.endTile_mem (s : State) (t : Tile) : (s.endTile t).mem = s.mem := by
  simp only [State.endTile]
  split <;> simp

@[simp] theorem State.denseResult_mem (s : State) (b : Bundle) (t : Tile) : (s.denseResult b t).mem = s.mem := by simp [State.denseResult]

/-! Functions of Machine/Part.lean. -/

@[simp] theorem State.modPartCmd_mem (s : State) (p : PartCmd) : (s.modPart_ p).mem = s.mem := by rfl

@[simp] theorem State.disown_mem (s : State) (ops : List Nat) : (s.disown ops).mem = s.mem := by rfl

theorem State.engineData_mem {s : State} {op ln : Nat} {x : State × List (Nat × Byte) × Nat} (h : s.engineData op ln = some x) :
    x.1.mem = s.mem := by
  simp only [State.engineData] at h
  split at h
  · split at h
    · cases h
    · split at h <;> cases h
      rfl
  · split at h
    · cases h
    · split at h <;> cases h
      exact mem_foldl _ (fun _ _ => by rfl) _ _

@[simp] theorem State.partLand_mem (s : State) (b : Bundle) (p : PartCmd) (w : Nat) : (s.partLand b p w).mem = s.mem := by
  simp only [State.partLand]
  split <;> simp

@[simp] theorem State.partLandOf_mem (s : State) (b : Bundle) (op w : Nat) : (s.partLandOf b op w).mem = s.mem := by
  simp only [State.partLandOf]
  split <;> simp

@[simp] theorem State.partPeers_mem (s : State) (b : Bundle) (p : PartCmd) (bs : List (Nat × Byte)) : (s.partPeers b p bs).mem = s.mem := by
  simp only [State.partPeers]
  split
  · rfl
  · exact mem_foldl _ (fun _ _ => by split <;> simp) _ _

/-! Functions of Machine/Tcb.lean. -/

@[simp] theorem State.rename_mem (s : State) (p scope unit order : Nat) (r : Range) : (s.rename p scope unit order r).mem = s.mem := by rfl

@[simp] theorem State.takeDeps_mem (s : State) (p die unit scope order : Nat) (rs : List Range) :
    (s.takeDeps p die unit scope order rs).1.mem = s.mem :=
  mem_foldl_fst _ (fun _ _ => by dsimp only; split <;> simp) _ _

@[simp] theorem State.unhold_mem (s : State) (p lo n : Nat) : (s.unhold p lo n).mem = s.mem := by rfl

@[simp] theorem State.dropVersion_mem (s : State) (v : Version) : (s.dropVersion v).mem = s.mem := by rfl

@[simp] theorem State.reclaim_mem (s : State) : s.reclaim.mem = s.mem := by simp [State.reclaim]

/-! Functions of Machine/Admit.lean. -/

@[simp] theorem State.acquireCore_mem (s : State) (p core : Nat) : (s.acquireCore p core).mem = s.mem := by rfl

@[simp] theorem State.launch_mem (s : State) (t : Task) (core : Nat) (bufs : List (Option Buf)) : (s.launch t core bufs).mem = s.mem := by
  simp only [State.launch, State.modTask_mem]
  refine (mem_foldl _ (fun _ _ => by rfl) _ _).trans ?_
  simp only [State.next_mem]
  split <;> simp

@[simp] theorem State.setAllot_mem (s : State) (k v : Nat) : (s.setAllot k v).mem = s.mem := by rfl

theorem State.grantGrow_mem {s t : State} {core : Nat} (h : s.grantGrow core = some t) : t.mem = s.mem := by
  simp only [State.grantGrow] at h
  split at h
  · cases h
  · split at h <;> cases h
    simp

/-! Functions of Machine/Carver.lean. -/

@[simp] theorem State.dropEntry_mem (s : State) (e : CarverEntry) : (s.dropEntry e).mem = s.mem := by rfl

@[simp] theorem State.bindTile_mem (s : State) (e : CarverEntry) (p : Tile → Bool) : (s.bindTile e p).mem = s.mem := by rfl

@[simp] theorem State.startCompile_mem (s : State) (b : Bundle) (t : Tile) : (s.startCompile b t).mem = s.mem := by
  simp only [State.startCompile]
  repeat' split
  all_goals simp

@[simp] theorem State.peerStored_mem (s : State) (t : Tile) : (s.peerStored t).mem = s.mem := by
  simp only [State.peerStored]
  repeat' split
  all_goals simp

@[simp] theorem State.endCompile_mem (s : State) (e : CarverEntry) : (s.endCompile e).mem = s.mem := by
  simp only [State.endCompile]
  repeat' split
  all_goals simp

@[simp] theorem State.landArea_mem (s : State) (b : Bundle) (t : Tile) (w : Nat) : (s.landArea b t w).mem = s.mem := by
  simp only [State.landArea]
  split <;> simp

@[simp] theorem State.landAreaOf_mem (s : State) (b : Bundle) (id w : Nat) : (s.landAreaOf b id w).mem = s.mem := by
  simp only [State.landAreaOf]
  split <;> simp

@[simp] theorem State.areaResult_mem (s : State) (b : Bundle) (t : Tile) : (s.areaResult b t).mem = s.mem := by simp [State.areaResult]

@[simp] theorem State.sparseStep_mem (s : State) (b : Bundle) (t : Tile) : (s.sparseStep b t).mem = s.mem := by
  simp only [State.sparseStep]
  repeat' split
  all_goals simp

/-! Functions of Machine/Finish.lean. -/

@[simp] theorem State.modPacket_mem (s : State) (p : Nat) (f : Packet → Packet) : (s.modPacket p f).mem = s.mem := rfl

@[simp] theorem State.endPacket_mem (s : State) (p status cause : Nat) (detail : DWord) (task : Nat) :
    (s.endPacket p status cause detail task).mem = s.mem :=
  by rfl

@[simp] theorem State.lessPacket_mem (s : State) (t : Task) (status cause : Nat) : (s.lessPacket t status cause).mem = s.mem := by
  simp only [State.lessPacket]
  repeat' split
  all_goals rfl

@[simp] theorem State.unleaseTask_mem (s : State) (t : Nat) : (s.unleaseTask t).mem = s.mem := by rfl

@[simp] theorem State.freeBlock_mem (s : State) (k : Block) : (s.freeBlock k).mem = s.mem := by simp [State.freeBlock]

@[simp] theorem State.setGangBars_mem (s : State) (p g m : Nat) (ws : List Word) : (s.setGangBars p g m ws).mem = s.mem :=
  by simp [State.setGangBars]

@[simp] theorem State.continueTask_mem (s : State) (k : Block) (t : Task) (tcb arg : DWord) (p : Program) :
    (s.continueTask k t tcb arg p).mem = s.mem := by
  simp only [State.continueTask]
  split <;> simp

/-! Functions of Machine/Preempt.lean. -/

@[simp] theorem State.stopBlock_mem (s : State) (k : Nat) (e : Ending) : (s.stopBlock k e).mem = s.mem := by simp [State.stopBlock]

@[simp] theorem State.startMethod_mem (s : State) (m : Method) (k : Nat) : (s.startMethod m k).mem = s.mem := by
  simp only [State.startMethod]
  split <;> simp

@[simp] theorem State.preempt_mem (s : State) (block : Nat) : (s.preempt block).mem = s.mem := by
  simp only [State.preempt]
  repeat' split
  all_goals simp

@[simp] theorem State.settleRoom_mem (s : State) : s.settleRoom.mem = s.mem := mem_foldl _ (fun _ _ => by rfl) _ _

@[simp] theorem State.completeFlush_mem (s : State) (k : Block) : (s.completeFlush k).mem = s.mem := by
  simp only [State.completeFlush]
  split <;> simp

@[simp] theorem State.flushDiscard_mem (s : State) (k : Block) : (s.flushDiscard k).mem = s.mem := by simp [State.flushDiscard]

@[simp] theorem State.restore_mem (s : State) (x : Saved) (core : Nat) : (s.restore x core).mem = s.mem := by
  simp only [State.restore]
  repeat' split
  all_goals simp

/-! Functions of Machine/Tasks.lean. -/

@[simp] theorem State.takeTid_mem (s : State) (p : Nat) : (s.takeTid p).1.mem = s.mem := by rfl

@[simp] theorem State.addTask_mem (s : State) (pk : Packet) (kind : TaskKind) (index : Nat) (tcb : DWord) (prog : Program) (arg : DWord)
    (deps : List Nat) (unit : Option (Nat × Nat × Nat)) (gang : Option (Nat × Nat)) (acq : Nat) :
    (s.addTask pk kind index tcb prog arg deps unit gang acq).mem = s.mem :=
  by rfl

theorem State.trackUnit_mem {s : State} {pk : Packet} {tracked : Bool} {rs : List Range} {x : State × List Nat × Option (Nat × Nat × Nat)}
    (h : s.trackUnit pk tracked rs = some x) : x.1.mem = s.mem := by
  simp only [State.trackUnit] at h
  split at h
  · cases h; rfl
  · split at h <;> cases h
    simp

@[simp] theorem State.leased_mem (s : State) (t : Task) (xs : List Xlat) : (s.leased t xs).mem = s.mem := by
  simp only [State.leased]
  split <;> simp

@[simp] theorem State.pagingDoorbell_mem (s : State) (p : Nat) : (s.pagingDoorbell p).mem = s.mem := by rfl

@[simp] theorem State.cmdResult_mem (s : State) (p : Nat) (v : Word) : (s.cmdResult p v).mem = s.mem := by rfl

@[simp] theorem State.zeroBox_mem (s : State) (g index : Nat) : (s.zeroBox g index).mem = s.mem := by rfl

@[simp] theorem State.relaunch_mem (s : State) (t : Task) (p : Program) : (s.relaunch t p).mem = s.mem := by
  simp only [State.relaunch]
  split <;> simp

@[simp] theorem State.leaveGang_mem (s : State) (t : Task) : (s.leaveGang t).mem = s.mem := by
  simp only [State.leaveGang]
  split <;> simp

@[simp] theorem State.discard_mem (s : State) (t : Task) : (s.discard t).mem = s.mem := by
  simp only [State.discard]
  split <;> simp

@[simp] theorem State.settleNodes_mem (s : State) : s.settleNodes.mem = s.mem := by
  simp only [State.settleNodes]
  split <;> simp

/-! Functions of Machine/Lathe.lean. -/

@[simp] theorem State.modGrid_mem (s : State) (g : Nat) (f : Grid → Grid) : (s.modGrid g f).mem = s.mem := rfl

@[simp] theorem State.beginSweep_mem (s : State) (g : Nat) (sweep : Nat) : (s.beginSweep g sweep).mem = s.mem := by
  simp only [State.beginSweep]
  repeat' split
  all_goals rfl

@[simp] theorem State.pushBox_mem (s : State) (gid i : Nat) : (s.pushBox gid i).mem = s.mem := by
  simp only [State.pushBox]
  split <;> rfl

@[simp] theorem State.enterNode_mem (s : State) (gid i : Nat) : (s.enterNode gid i).mem = s.mem := by
  simp only [State.enterNode]
  split
  · split <;> simp
  · rfl

theorem State.readyNode_mem {s t : State} {gid i : Nat} (h : s.readyNode gid i = some t) : t.mem = s.mem := by
  simp only [State.readyNode] at h
  split at h
  · split at h
    · cases h
    · cases h
      simp
  · cases h

@[simp] theorem State.afterRoot_mem (s : State) (gid : Nat) : (s.afterRoot gid).mem = s.mem := by
  simp only [State.afterRoot]
  split
  · rfl
  · split <;> simp

@[simp] theorem State.walkGrid_mem (gid k : Nat) (s : State) : (s.walkGrid gid k).mem = s.mem := by
  induction k generalizing s with
  | zero => rfl
  | succ k ih =>
    simp only [State.walkGrid]
    split
    · rfl
    · split
      · rfl
      · split
        case h_1 => rfl
        case h_2 => simp [ih]
        case h_3 =>
          split
          · rfl
          · next hReady => rw [ih, State.readyNode_mem hReady]
        case h_4 =>
          rw [ih]
          split <;> simp

@[simp] theorem State.split_mem (s : State) (gid die : Nat) : (s.split gid die).mem = s.mem := by
  simp only [State.split]
  split
  · rfl
  · split
    · split <;> simp
    · rfl

@[simp] theorem State.settleIdle_mem (before s : State) : (State.settleIdle before s).mem = s.mem := by
  simp [State.settleIdle, apply_ite State.mem]

@[simp] theorem State.splitAfter_mem (s : State) (gid : Nat) : (s.splitAfter gid).mem = s.mem := by
  simp only [State.splitAfter]
  repeat' split
  all_goals simp

@[simp] theorem State.pushOutboxes_mem (s : State) (gid : Nat) : (s.pushOutboxes gid).mem = s.mem :=
  mem_foldl _ (fun _ _ => by
    dsimp only
    split
    · split <;> simp
    · rfl) _ _

@[simp] theorem State.landNodeWrite_mem (s : State) (r : Req) : (s.landNodeWrite r).mem = s.mem := by
  simp only [State.landNodeWrite]
  repeat' split
  all_goals rfl

@[simp] theorem State.landNodeIn_mem (s : State) (r : Req) : (s.landNodeIn r).mem = s.mem := by
  simp only [State.landNodeIn]
  split <;> simp

/-! Functions of Machine/Queues.lean. -/

@[simp] theorem State.refuseMap_mem (s : State) (k : Nat) : (s.refuseMap k).mem = s.mem := by rfl

@[simp] theorem State.copyPacket_mem (s : State) (pk : Packet) : (s.copyPacket pk).mem = s.mem := by
  simp only [State.copyPacket]
  split <;> simp

@[simp] theorem State.unmask_mem (s : State) (vector : Nat) : (s.unmask vector).mem = s.mem := by
  simp only [State.unmask]
  split <;> simp

/-! Functions of Machine/Headstock.lean. -/

@[simp] theorem State.answer_mem (s : State) (p op : Nat) (ok : Bool) (data : List Byte) : (s.answer p op ok data).mem = s.mem :=
  by simp [State.answer]

@[simp] theorem State.sendEnqueue_mem (s : State) (r : Req) : (s.sendEnqueue r).mem = s.mem := by
  simp only [State.sendEnqueue]
  repeat' split
  all_goals simp

@[simp] theorem State.settleEnqueues_mem (s : State) : s.settleEnqueues.mem = s.mem := by simp [State.settleEnqueues]

@[simp] theorem State.enqueueDone_mem (s : State) (op : Nat) (code page : Nat) : (s.enqueueDone op code page).mem = s.mem := by rfl

@[simp] theorem State.enqueueError_mem (s : State) (p op pkg page : Nat) : (s.enqueueError p op pkg page).mem = s.mem :=
  by simp [State.enqueueError]

@[simp] theorem State.finishEnqueue_mem (s : State) (op code : Nat) (page : DWord) (status : BitVec 16) :
    (s.finishEnqueue op code page status).mem = s.mem := by
  simp only [State.finishEnqueue]
  repeat' split
  all_goals simp

@[simp] theorem State.enqueueReply_mem (s : State) (op code : Nat) (page : DWord) : (s.enqueueReply op code page).mem = s.mem := by
  simp only [State.enqueueReply]
  repeat' split
  all_goals simp

@[simp] theorem State.noReply_mem (s : State) (op : Nat) : (s.noReply op).mem = s.mem := by
  simp only [State.noReply]
  repeat' split
  all_goals simp

@[simp] theorem State.configCommand_mem (s : State) (v : Nat) : (s.configCommand v).mem = s.mem := by
  simp only [State.configCommand]
  repeat' split
  all_goals simp

/-! Functions of Machine/Results.lean. -/

@[simp] theorem State.finishObject_mem (s : State) (r : Req) (dst : Nat) : (s.finishObject r dst).mem = s.mem := by
  simp only [State.finishObject]
  split <;> simp

/-! Functions of Machine/Trace.lean. -/

@[simp] theorem State.stallBlock_mem (s : State) (id : Nat) : (s.stallBlock id).mem = s.mem := by
  simp only [State.stallBlock]
  repeat' split
  all_goals simp

@[simp] theorem State.endClk_mem (s : State) : s.endClk.mem = s.mem := by simp [State.endClk]

/-! Functions of Machine/Observe.lean. -/

@[simp] theorem State.restoreSnapshot_mem (s : State) (p : Nat) (x : Snapshot) : (s.restoreSnapshot p x).mem = s.mem := by
  simp only [State.restoreSnapshot, State.modPart_mem]
  refine (mem_foldl _ (fun _ _ => by rfl) _ _).trans ?_
  refine (mem_foldl _ (fun _ _ => by rfl) _ _).trans ?_
  exact mem_foldl _ (fun _ _ => by rfl) _ _

@[simp] theorem State.startInterval_mem (s : State) (p : Nat) : (s.startInterval p).mem = s.mem := by rfl

@[simp] theorem State.obsResult_mem (s : State) (p : Nat) (v : Word) : (s.obsResult p v).mem = s.mem := by rfl

@[simp] theorem State.modTaskBlocks_mem (s : State) (t : Nat) (f : Block → Block) : (s.modTaskBlocks t f).mem = s.mem := by rfl

@[simp] theorem State.haltAll_mem (s : State) (p : Nat) : (s.haltAll p).mem = s.mem := by simp [State.haltAll]

@[simp] theorem State.resumeAll_mem (s : State) (p : Nat) : (s.resumeAll p).mem = s.mem := by simp [State.resumeAll]

@[simp] theorem State.haltTask_mem (s : State) (t : Task) : (s.haltTask t).mem = s.mem := by simp [State.haltTask]

@[simp] theorem State.resumeTask_mem (s : State) (t : Task) : (s.resumeTask t).mem = s.mem := by rfl

@[simp] theorem State.stepTask_mem (s : State) (v : Bool) (t : Task) : (s.stepTask v t).mem = s.mem := by rfl

@[simp] theorem State.settleStop_mem (before s : State) (p : Nat) : (State.settleStop before s p).mem = s.mem := by
  simp only [State.settleStop]
  repeat' split
  all_goals simp

@[simp] theorem State.settleStops_mem (before s : State) : (State.settleStops before s).mem = s.mem := by
  simp only [State.settleStops]
  split <;> simp

@[simp] theorem State.releaseOut_mem (s : State) (p n : Nat) : (s.releaseOut p n).mem = s.mem := by simp [State.releaseOut]

@[simp] theorem State.pauseBlock_mem (s : State) (k : Nat) : (s.pauseBlock k).mem = s.mem := by simp [State.pauseBlock]

/-! Functions of Machine/Device.lean. -/

@[simp] theorem State.freeze_mem (s : State) : s.freeze.mem = s.mem := by rfl

@[simp] theorem State.poolDies_mem (s : State) (ds : List Nat) (p : Nat) : (s.poolDies ds p).mem = s.mem :=
  mem_foldl _ (fun _ _ => by rfl) _ _

@[simp] theorem State.newPool_mem (s : State) (p : Nat) : (s.newPool p).mem = s.mem := by
  simp only [State.newPool]
  refine (mem_foldl _ (fun _ _ => State.external_mem _ _ (by rfl)) _ _).trans ?_
  rw [State.poolDies_mem]
  exact mem_foldl _ (fun _ _ => by rfl) _ _

@[simp] theorem State.writeCap_mem (s : State) (v : Nat) : (s.writeCap v).mem = s.mem := by simp [State.writeCap]

@[simp] theorem State.readMonitors_mem (s : State) (die : Nat) : (s.readMonitors die).mem = s.mem := by rfl

@[simp] theorem State.readHottest_mem (s : State) (die : Nat) : (s.readHottest die).mem = s.mem := by rfl

theorem State.beginSign_mem {s t : State} {c : Option (List Byte)} (h : s.beginSign c = some t) : t.mem = s.mem := by
  simp only [State.beginSign] at h
  split at h <;> cases h
  rfl

@[simp] theorem State.beginReport_mem (s : State) (c : List Byte) : (s.beginReport c).mem = s.mem := by
  simp only [State.beginReport, State.beginSign]
  split <;> rfl

@[simp] theorem State.attest_mem (s : State) (c : List Byte) : (s.attest c).mem = s.mem := by
  simp only [State.attest]
  repeat' split
  all_goals simp

@[simp] theorem State.release_mem (s : State) : s.release.mem = s.mem := by
  simp only [State.release]
  repeat' split
  all_goals simp

@[simp] theorem State.settleSigning_mem (s : State) : s.settleSigning.mem = s.mem := by
  simp only [State.settleSigning]
  repeat' split
  all_goals simp

/-! Functions of Machine/Window.lean. -/

@[simp] theorem State.writeVector_mem (s : State) (o v : Nat) : (s.writeVector o v).mem = s.mem := by
  simp only [State.writeVector]
  repeat' split
  all_goals simp

/-! Functions of Machine/Turns.lean. -/

@[simp] theorem State.tickClock_mem (s : State) : s.tickClock.mem = s.mem := by simp [State.tickClock]

@[simp] theorem State.usePipe_mem (s : State) (b : Bundle) (n : Nat) : (s.usePipe b n).mem = s.mem := by rfl

@[simp] theorem State.faultGroup_mem (s : State) (g : Group) (b : Bundle) : (s.faultGroup g b).mem = s.mem := by
  rw [State.faultGroup, State.takeAll_mem, State.meetAll_mem]
  exact mem_foldl_fst _ (fun _ _ => by simp) _ _

@[simp] theorem State.softError_mem (s : State) (b l d : Nat) : (s.softError b l d).mem = s.mem := by rfl

end Sys2Proof.Machine
end

section
/-! SUPPORT. What writes memory (R145; log entry 1): each function of the model that stores bytes keeps memory in its canonical form. The homes
of lines write by writeBytes; all else keeps the form because its parts do. -/

namespace Sys2Proof.Machine

theorem wf_foldl {α : Type} (f : State → α → State) (hf : ∀ s x, s.mem.wf = true → (f s x).mem.wf = true) (xs : List α) {s : State}
    (hw : s.mem.wf = true) : (xs.foldl f s).mem.wf = true :=
  List.foldlRecOn (motive := fun u => u.mem.wf = true) xs f hw fun u hu x _ => hf u x hu

theorem wf_foldl_fst {α β : Type} (f : State × β → α → State × β) (hf : ∀ a x, a.1.mem.wf = true → (f a x).1.mem.wf = true) (xs : List α)
    {a : State × β} (hw : a.1.mem.wf = true) : (xs.foldl f a).1.mem.wf = true :=
  List.foldlRecOn (motive := fun u => u.1.mem.wf = true) xs f hw fun u hu x _ => hf u x hu

theorem wf_ite {c : Prop} [Decidable c] {s t : State} (hs : s.mem.wf = true) (ht : t.mem.wf = true) : (if c then s else t).mem.wf = true := by
  split <;> assumption

theorem wf_getD {o : Option State} {s : State} (ho : ∀ t, o = some t → t.mem.wf = true) (hw : s.mem.wf = true) : (o.getD s).mem.wf = true := by
  cases o with
  | none => exact hw
  | some t => exact ho t rfl

theorem Mem.wf_filter {m : Mem} (p : Host.Cell → Bool) (hm : m.wf = true) : Mem.wf (m.filter p) = true := rising_filter p 0 m hm

theorem Mem.wf_foldl {α : Type} (f : Mem → α → Mem) (hf : ∀ m x, m.wf = true → (f m x).wf = true) (xs : List α) {m : Mem} (hm : m.wf = true) :
    (xs.foldl f m).wf = true :=
  List.foldlRecOn (motive := fun n => n.wf = true) xs f hm fun n hn x _ => hf n x hn

/-- Memory in its canonical form. As a predicate of the state it keeps the kernel from running a state's definition, fuel and all, to
compare two ways of writing its memory. -/
def State.Canonical (s : State) : Prop := s.mem.wf = true

theorem State.canonical_iff (s : State) : s.Canonical ↔ s.mem.wf = true := Iff.rfl

theorem State.Canonical.of_mem_eq {s t : State} (hs : s.Canonical) (h : t.mem = s.mem) : t.Canonical := by
  rw [State.canonical_iff, h]
  exact hs

theorem canonical_foldl {α : Type} (f : State → α → State) (hf : ∀ s x, s.Canonical → (f s x).Canonical) (xs : List α) {s : State}
    (hw : s.Canonical) : (xs.foldl f s).Canonical :=
  List.foldlRecOn (motive := State.Canonical) xs f hw fun u hu x _ => hf u x hu

theorem canonical_ite {c : Prop} [Decidable c] {s t : State} (hs : s.Canonical) (ht : t.Canonical) : (if c then s else t).Canonical := by
  split <;> assumption

theorem State.external_wf {s : State} {f : State → State} (p : Nat) (i : Input) (hf : (f s).mem.wf = true) (hw : s.mem.wf = true) :
    (s.external p i f).mem.wf = true := by
  simp only [State.external]
  split
  · exact hf
  · split <;> exact hw

theorem State.externalOnce_wf {s : State} {f : State → State} (p op : Nat) (i : Input) (hf : (f s).mem.wf = true) (hw : s.mem.wf = true) :
    (s.externalOnce p op i f).mem.wf = true := by
  simp only [State.externalOnce]
  split
  · exact hw
  · exact State.external_wf p i hf hw

@[simp] theorem State.store_wf {s : State} (pa : Nat) (bs : List Byte) (hw : s.mem.wf = true) : (s.store pa bs).mem.wf = true := by
  have hMem : (s.store pa bs).mem = writeBytes s.mem pa bs := by simp [State.store]
  rw [hMem]
  exact writeBytes_wf _ _ _ hw

@[simp] theorem State.homeBytes_wf {s : State} (ctime ln : Nat) (bs : List (Nat × Byte)) (hw : s.mem.wf = true) :
    (s.homeBytes ctime ln bs).1.mem.wf = true := by
  simp only [State.homeBytes, State.touch_mem, State.carverTouch_mem]
  exact wf_foldl _ (fun _ _ => State.store_wf _ _) _ (by simp [hw])

@[simp] theorem State.homeStore_wf {s : State} (ctime pa : Nat) (bs : List Byte) (hw : s.mem.wf = true) :
    (s.homeStore ctime pa bs).1.mem.wf = true :=
  by simp [State.homeStore, hw]

@[simp] theorem State.headLine_wf {s : State} (h : HeldStore) (hw : s.mem.wf = true) : (s.headLine h).mem.wf = true := by
  simp only [State.headLine]
  repeat' split
  all_goals simp [hw]

@[simp] theorem State.homeSpan_wf {s : State} (pa : Nat) (bs : List Byte) (hw : s.mem.wf = true) : (s.homeSpan pa bs).mem.wf = true :=
  wf_foldl _ (fun _ _ => State.headLine_wf _) _ hw

@[simp] theorem State.headStore_wf {s : State} (p pa : Nat) (bs : List Byte) (hw : s.mem.wf = true) : (s.headStore p pa bs).mem.wf = true :=
  wf_foldl _ (fun _ _ => State.headLine_wf _) _ hw

theorem State.vstore_wf {s t : State} {p va : Nat} {bs : List Byte} {ring : Option Nat} (hw : s.mem.wf = true)
    (ht : s.vstore p va bs ring = some t) : t.mem.wf = true := by
  simp only [State.vstore] at ht
  split at ht <;> cases ht
  exact wf_foldl _ (fun _ _ => State.headLine_wf _) _ (by simp [hw])

@[simp] theorem State.vwrite_getD_wf {s : State} (p va : Nat) (bs : List Byte) (hw : s.mem.wf = true) :
    ((s.vwrite p va bs).getD s).mem.wf = true := wf_getD (fun _ => State.vstore_wf hw) hw

@[simp] theorem State.putLeaf_wf {s : State} (entry v : Nat) (hw : s.mem.wf = true) : (s.putLeaf entry v).mem.wf = true :=
  by simp [State.putLeaf, hw]

@[simp] theorem State.expand_wf {s : State} (p va : Nat) (hw : s.mem.wf = true) : (s.expand p va).mem.wf = true := by
  simp only [State.expand]
  split
  · split
    · exact hw
    · rw [State.touch_mem]
      refine State.putLeaf_wf _ _ ?_
      rw [State.frameTaken_mem]
      exact Mem.wf_foldl _ (fun _ _ => writeByte_wf _ _ _) _ (Mem.wf_filter _ hw)
  · exact hw

theorem State.use_wf {s t : State} {p va n k : Nat} {r w : Bool} (hw : s.mem.wf = true) (ht : s.use p va n r w k = .ready t) :
    t.mem.wf = true := by
  induction k generalizing s with
  | zero => cases ht
  | succ k ih =>
    simp only [State.use] at ht
    split at ht
    · cases ht; exact hw
    · cases ht
    · cases ht
    · exact ih (State.expand_wf _ _ hw) ht
    · cases ht

theorem State.useSpan_wf {s t : State} {p va n : Nat} {r w : Bool} (hw : s.mem.wf = true) (ht : s.useSpan p va n r w = .ready t) :
    t.mem.wf = true := State.use_wf hw ht

theorem State.useStore_wf {s t : State} {p va : Nat} {bs : List Byte} {ring : Option Nat} (hw : s.mem.wf = true)
    (ht : s.useStore p va bs ring = some t) : t.mem.wf = true := by
  simp only [State.useStore] at ht
  split at ht
  · next hUse => exact State.vstore_wf (State.useSpan_wf hw hUse) ht
  · cases ht; exact hw
  · cases ht

@[simp] theorem State.headAgain_wf {s : State} (h : HeldStore) (hw : s.mem.wf = true) : (s.headAgain h).mem.wf = true := by
  simp only [State.headAgain]
  split
  · exact wf_getD (fun _ => State.useStore_wf hw) (by simp [hw])
  · exact State.headLine_wf _ hw

@[simp] theorem State.settleHeld_wf {s : State} (hw : s.mem.wf = true) : s.settleHeld.mem.wf = true :=
  wf_foldl _ (fun _ _ => State.headAgain_wf _) _ hw

@[simp] theorem State.evWriteRec_wf {s : State} (p : Nat) (rec : List Byte) (hw : s.mem.wf = true) : (s.evWriteRec p rec).mem.wf = true := by
  simp only [State.evWriteRec]
  split
  · exact hw
  · next hStore => simp [State.vstore_wf hw hStore]

@[simp] theorem State.event_wf {s : State} (p : Nat) (status : Nat) (rec : List Byte) (hw : s.mem.wf = true) :
    (s.event p status rec).mem.wf = true := by
  simp only [State.event]
  repeat' split
  all_goals simp [hw]

@[simp] theorem State.flushEvents_wf {s : State} (p : Nat) (hw : s.mem.wf = true) : (s.flushEvents p).mem.wf = true := by
  refine canonical_foldl _ (fun u _ hu => ?_) _ hw
  have hwu := u.canonical_iff.mp hu
  split
  · exact (State.canonical_iff _).mpr (by simp [hwu])
  · exact hu

@[simp] theorem State.faultEntry_wf {s : State} (p : Nat) (e : List Byte) (hw : s.mem.wf = true) : (s.faultEntry p e).mem.wf = true := by
  simp only [State.faultEntry]
  split
  · split
    · next hStore => simp [State.vstore_wf hw hStore]
    · exact hw
  · exact hw

@[simp] theorem State.flushFaults_wf {s : State} (p : Nat) (hw : s.mem.wf = true) : (s.flushFaults p).mem.wf = true :=
  wf_foldl _ (fun _ _ => State.faultEntry_wf _ _) _ hw

@[simp] theorem State.ringWrite_wf {s : State} (p n : Nat) (rec : List Byte) (hw : s.mem.wf = true) : (s.ringWrite p n rec).mem.wf = true := by
  simp only [State.ringWrite]
  split
  · next hStore => simp [State.useStore_wf hw hStore]
  · simp [hw]

@[simp] theorem State.ringPut_wf {s : State} (p n : Nat) (rec : List Byte) (hw : s.mem.wf = true) : (s.ringPut p n rec).mem.wf = true := by
  simp only [State.ringPut]
  split <;> simp [hw]

@[simp] theorem State.traceRaw_wf {s : State} (p : Nat) (rec : List Byte) (hw : s.mem.wf = true) : (s.traceRaw p rec).mem.wf = true := by
  simp only [State.traceRaw]
  repeat' split
  all_goals simp [hw]

@[simp] theorem State.storeArrives_wf {s : State} (r : Req) (hw : s.mem.wf = true) : (s.storeArrives r).mem.wf = true := by
  simp only [State.storeArrives]
  repeat' split
  all_goals simp [hw]

@[simp] theorem State.sample_wf {s : State} (r : Req) (kind level : Nat) (poisoned : Bool) (hw : s.mem.wf = true) :
    (s.sample r kind level poisoned).mem.wf = true := by
  simp only [State.sample]
  repeat' split
  all_goals simp [hw]

@[simp] theorem State.finishLoad_wf {s : State} (r : Req) (code dst : Nat) (acq : Option Nat) (smp : Nat) (hw : s.mem.wf = true) :
    (s.finishLoad r code dst acq smp).mem.wf = true := by
  simp only [State.finishLoad]
  repeat' split
  all_goals simp [hw]

@[simp] theorem State.peerLoadFails_wf {s : State} (op : Nat) (status : BitVec 16) (hw : s.mem.wf = true) :
    (s.peerLoadFails op status).mem.wf = true := by
  simp only [State.peerLoadFails]
  repeat' split
  all_goals simp [hw]

theorem State.peerReply_wf {s : State} {f : State → State} (r : Req) (hf : (f s).mem.wf = true) (hw : s.mem.wf = true) :
    (s.peerReply r f).mem.wf = true := by
  simp only [State.peerReply]
  split
  · split
    · exact hf
    · exact State.externalOnce_wf _ _ _ hf hw
  · exact hf

@[simp] theorem State.atomHome_wf {s : State} (r : Req) (op : Nat) (n : Bool) (dst sc : Nat) (ls : List AtomLane) (hw : s.mem.wf = true) :
    (s.atomHome r op n dst sc ls).mem.wf = true := by
  simp only [State.atomHome]
  repeat' split
  all_goals simp [hw]

@[simp] theorem State.commitLine_wf {s : State} (b : Bundle) (l : Nat) (x : Tx) (t : Nat) (w : TxLine) (hw : s.mem.wf = true) :
    (s.commitLine b l x t w).mem.wf = true := by
  simp only [State.commitLine]
  split <;> simp [hw]

@[simp] theorem State.futureApply_wf {s : State} (r : Req) (sub pa : Nat) (v : Word) (hw : s.mem.wf = true) :
    (s.futureApply r sub pa v).mem.wf = true := by
  simp only [State.futureApply]
  repeat' split
  all_goals simp [hw]

theorem State.objRanges_wf {s t : State} {p : Nat} {d : List Byte} {xs : List Xlat} (hw : s.mem.wf = true)
    (ht : s.objRanges p d = some (some (t, xs))) : t.mem.wf = true := by
  simp only [State.objRanges] at ht
  split at ht
  · cases ht
  · cases ht
  · next hFirst =>
    split at ht
    · cases ht
    · cases ht
    · next hSecond =>
      split at ht <;> cases ht
      exact State.useSpan_wf (State.useSpan_wf hw hFirst) hSecond

theorem State.objLease_wf {s t : State} {p die : Nat} {d : List Byte} {xs : List Xlat} (hw : s.mem.wf = true)
    (ht : s.objLease p die d = some (some (t, xs))) : t.mem.wf = true := by
  simp only [State.objLease] at ht
  split at ht
  · next hRanges =>
    split at ht <;> cases ht
    exact State.objRanges_wf hw hRanges
  · exact State.objRanges_wf hw ht

@[simp] theorem State.descWrite_wf {s : State} (t pa off n v : Nat) (hw : s.mem.wf = true) : (s.descWrite t pa off n v).mem.wf = true :=
  by simp [State.descWrite, hw]

theorem State.register_wf {s t : State} {r : Req} {p pa : Nat} (hw : s.mem.wf = true) (ht : s.register r p pa = some t) :
    t.mem.wf = true := by
  simp only [State.register] at ht
  split at ht
  · cases ht; simp [hw]
  · split at ht
    · cases ht; simp [hw]
    · split at ht
      · cases ht; simp [hw]
      · split at ht
        · cases ht
        · cases ht; simp [hw]
        · next hLease =>
          cases ht
          simp [State.objLease_wf hw hLease]

theorem State.clampAt_wf {s : State} {f : Req → Bundle → Nat → State} (op : Nat) (hf : ∀ r b pa, (f r b pa).mem.wf = true)
    (hw : s.mem.wf = true) : (s.clampAt op f).mem.wf = true := by
  simp only [State.clampAt]
  repeat' split
  all_goals simp [hw, hf]

@[simp] theorem State.resetObject_wf {s : State} (r : Req) (p pa : Nat) (hw : s.mem.wf = true) : (s.resetObject r p pa).mem.wf = true := by
  simp only [State.resetObject]
  split
  · simp [hw]
  · split
    · simp [hw]
    · split
      · simp [hw]
      · split
        · split
          · simp [hw]
          · simp [hw]
          · next hRanges => simp [State.objRanges_wf hw hRanges]
        · split
          · simp [hw]
          · simp [hw]
          · next hLease => simp [State.objLease_wf hw hLease]

theorem State.get_wf {s t : State} {p va n : Nat} {bs : List Byte} (hw : s.mem.wf = true) (ht : s.get p va n = .bytes t bs) :
    t.mem.wf = true := by
  simp only [State.get] at ht
  split at ht
  · next hUse =>
    split at ht <;> cases ht
    exact State.useSpan_wf hw hUse
  · cases ht
  · cases ht

/-- The state that comes with what was read of a TCB holds canonical memory. -/
@[simp] def TcbRead.Canonical : TcbRead → Prop
  | .ok s _ _ => s.mem.wf = true
  | .fails s _ => s.mem.wf = true
  | .wait => True

theorem State.readTcb_canonical {s : State} (p : Nat) (va arg : DWord) (cont : Option (List Range)) (hw : s.mem.wf = true) :
    (s.readTcb p va arg cont).Canonical := by
  simp only [State.readTcb]
  split
  · exact hw
  · split
    · trivial
    · exact hw
    · next u _ hHead =>
      have hwHead := State.get_wf hw hHead
      split
      · trivial
      · exact hwHead
      · next v _ hTable =>
        have hwTable : v.mem.wf = true := by
          split at hTable
          · exact State.get_wf hwHead hTable
          · cases hTable; exact hwHead
        split <;> exact hwTable

@[simp] theorem State.capture_wf {s : State} (v : Version) (hw : s.mem.wf = true) : (s.capture v).mem.wf = true := by
  simp only [State.capture]
  repeat' split
  all_goals simp [hw]

@[simp] theorem State.install_wf {s : State} (v : Version) (hw : s.mem.wf = true) : (s.install v).mem.wf = true := by
  refine wf_foldl _ (fun _ _ hu => ?_) _ ?_
  · split
    · exact hu
    · exact State.putLeaf_wf _ _ hu
  · rw [State.unhold_mem]
    exact wf_foldl _ (fun _ _ => State.capture_wf _) _ hw

@[simp] theorem State.endUnit_wf {s : State} (unit : Nat) (cancelled : Bool) (hw : s.mem.wf = true) :
    (s.endUnit unit cancelled).mem.wf = true := by
  simp only [State.endUnit, State.reclaim_mem]
  refine wf_foldl _ (fun _ _ hu => ?_) _ hw
  split
  · simp [hu]
  · dsimp only
    split <;> simp [hu]

@[simp] theorem State.writeRecord_wf {s : State} (x : Saved) (hw : s.mem.wf = true) : (s.writeRecord x).mem.wf = true := by
  simp only [State.writeRecord]
  exact State.vwrite_getD_wf _ _ _ hw

@[simp] theorem State.settleRecords_wf {s : State} (hw : s.mem.wf = true) : s.settleRecords.mem.wf = true :=
  wf_foldl _ (fun _ _ => State.writeRecord_wf _) _ hw

@[simp] theorem State.taskUnit_wf {s : State} (t : Task) (cancelled : Bool) (hw : s.mem.wf = true) :
    (s.taskUnit t cancelled).mem.wf = true := by
  simp only [State.taskUnit]
  repeat' split
  all_goals simp [hw]

@[simp] theorem State.endTask_wf {s : State} (t : Task) (status cause : Nat) (hw : s.mem.wf = true) :
    (s.endTask t status cause).mem.wf = true := by
  simp only [State.endTask]
  repeat' split
  all_goals simp [hw]

@[simp] theorem State.parkTask_wf {s : State} (t : Task) (cause : Nat) (detail addr pc : DWord) (lb : Nat) (hw : s.mem.wf = true) :
    (s.parkTask t cause detail addr pc lb).mem.wf = true :=
  by simp [State.parkTask, hw]

/-- The same for what was read of a continuation. -/
@[simp] def ContRead.Canonical : ContRead → Prop
  | .ok s _ _ _ => s.mem.wf = true
  | .fails s _ => s.mem.wf = true
  | .wait => True

theorem State.readCont_canonical {s : State} (t : Task) (a : DWord) (hw : s.mem.wf = true) : (s.readCont t a).Canonical := by
  simp only [State.readCont]
  split
  · trivial
  · exact hw
  · next u bs hGot =>
    have hwGot : u.mem.wf = true := by
      split at hGot
      · exact State.get_wf hw hGot
      · cases hGot
    split
    · exact hwGot
    · split
      · exact hwGot
      · have hRead := State.readTcb_canonical t.partition (BitVec.ofNat 64 (field bs 0 8)) (BitVec.ofNat 64 (field bs 8 8)) (some t.all) hwGot
        split <;> simp_all

theorem State.afterBlock_wf {s u : State} {k : Block} {t : Task} (hw : s.mem.wf = true) (hu : s.afterBlock k t = some u) : u.mem.wf = true := by
  simp only [State.afterBlock] at hu
  split at hu
  · cases hu; simp [hw]
  · split at hu
    · cases hu; simp [hw]
    · split at hu
      · cases hu; simp [hw]
      · next a _ =>
        have hRead := State.readCont_canonical t a hw
        split at hu <;> cases hu <;> simp_all

@[simp] theorem State.completeSave_wf {s : State} (k : Block) (hw : s.mem.wf = true) : (s.completeSave k).mem.wf = true := by
  simp only [State.completeSave]
  split
  · exact hw
  · rw [State.drawn_mem]
    exact State.vwrite_getD_wf _ _ _ (by simp [hw])

@[simp] theorem State.settleSave_wf {s : State} (id : Nat) (hw : s.mem.wf = true) : (s.settleSave id).mem.wf = true := by
  simp only [State.settleSave]
  repeat' split
  all_goals simp [hw]

@[simp] theorem State.settleSaves_wf {s : State} (hw : s.mem.wf = true) : s.settleSaves.mem.wf = true := by
  rw [State.settleSaves, State.settleRoom_mem]
  exact State.settleRecords_wf (wf_foldl _ (fun _ _ => State.settleSave_wf _) _ hw)

@[simp] theorem State.refuseRecord_wf {s : State} (x : Saved) (hw : s.mem.wf = true) : (s.refuseRecord x).mem.wf = true := by
  simp only [State.refuseRecord]
  split <;> simp [hw]

/-- The same for what became of a packet's body. -/
@[simp] def Taken.Canonical : Taken → Prop
  | .ok s => s.mem.wf = true
  | .launch s _ => s.mem.wf = true
  | .wait => True

theorem State.bodyTask_canonical {s : State} (pk : Packet) (hw : s.mem.wf = true) : (s.bodyTask pk).Canonical := by
  have hRead := State.readTcb_canonical pk.partition (BitVec.ofNat 64 (pk.word 16 8)) (BitVec.ofNat 64 (pk.word 24 8)) none hw
  simp only [State.bodyTask]
  split
  · trivial
  · simp_all
  · next hOk =>
    rw [hOk] at hRead
    split
    · trivial
    · next hTrack =>
      have hMem := State.trackUnit_mem hTrack
      simp_all

/-- The same for what was read of a gang's members. -/
@[simp] def membersCanonical : Except (Option (State × DWord)) (State × List (DWord × Program)) → Prop
  | .ok x => x.1.mem.wf = true
  | .error none => True
  | .error (some x) => x.1.mem.wf = true

theorem State.readMembers_canonical {s : State} (p : Nat) (arg : DWord) (xs : List (Nat × DWord)) (hw : s.mem.wf = true) :
    membersCanonical (s.readMembers p arg xs) := by
  induction xs generalizing s with
  | nil => exact hw
  | cons x xs ih =>
    have hRead := State.readTcb_canonical p x.2 arg none hw
    simp only [State.readMembers]
    split
    · trivial
    · simp_all
    · simp_all
    · next hOk =>
      rw [hOk] at hRead
      split
      · exact hRead
      · have hRest := ih hRead
        split <;> simp_all

theorem State.bodyGang_canonical {s : State} (pk : Packet) (hw : s.mem.wf = true) : (s.bodyGang pk).Canonical := by
  simp only [State.bodyGang]
  split
  · trivial
  · exact hw
  · next u d hGot =>
    have hwGot : u.mem.wf = true := by
      split at hGot
      · exact State.get_wf hw hGot
      · cases hGot
    split
    · exact hwGot
    · have hMembers := State.readMembers_canonical pk.partition (BitVec.ofNat 64 (pk.word 24 8))
        ((List.range (field d 0 1)).map fun i => (i, BitVec.ofNat 64 (field d (8 + 8 * i) 8))) hwGot
      split
      · trivial
      · simp_all
      · next hOk =>
        rw [hOk] at hMembers
        split
        · exact hMembers
        · split
          · exact hMembers
          · split
            · trivial
            · next hTrack =>
              have hMem := State.trackUnit_mem hTrack
              simp only [Taken.Canonical, State.modPacket_mem]
              rw [mem_foldl _ (fun _ _ => by split <;> simp)]
              simp_all

theorem State.takeWnode_canonical {s : State} (pk : Packet) (hw : s.mem.wf = true) : (s.takeWnode pk).Canonical := by
  have hRead := State.readTcb_canonical pk.partition (BitVec.ofNat 64 (pk.word 16 8)) 0 none hw
  simp only [State.takeWnode]
  split
  · exact hw
  · split
    · trivial
    · simp_all
    · split <;> simp_all

theorem State.bodyWnode_canonical {s : State} (pk : Packet) (hw : s.mem.wf = true) : (s.bodyWnode pk).Canonical := by
  simp only [State.bodyWnode]
  split
  · split <;> simp [hw]
  · split
    · exact hw
    · split
      · trivial
      · exact hw

@[simp] theorem State.startMove_wf {s : State} (p va : Nat) (tier : Bool) (hw : s.mem.wf = true) : (s.startMove p va tier).mem.wf = true := by
  simp only [State.startMove]
  repeat' split
  all_goals simp [hw]

@[simp] theorem State.requeue_wf {s : State} (p : Nat) (tid : Word) (hw : s.mem.wf = true) : (s.requeue p tid).mem.wf = true := by
  simp only [State.requeue]
  split
  · simp [hw]
  · next t _ =>
    split
    · simp [hw]
    · have hRead := State.readTcb_canonical p t.tcb t.arg none hw
      split <;> simp_all

@[simp] theorem State.settleRequeues_wf {s : State} (hw : s.mem.wf = true) : s.settleRequeues.mem.wf = true :=
  wf_foldl _ (fun _ _ hu => by
    split
    · exact hu
    · exact wf_foldl _ (fun _ _ => State.requeue_wf _ _) _ hu) _ hw

@[simp] theorem State.cancelTask_wf {s : State} (p : Nat) (tid : Word) (hw : s.mem.wf = true) : (s.cancelTask p tid).mem.wf = true := by
  simp only [State.cancelTask]
  repeat' split
  all_goals simp [hw]

theorem wf_foldl_bind {α : Type} (f : α → State → Option State) (hf : ∀ x s t, s.mem.wf = true → f x s = some t → t.mem.wf = true) (xs : List α)
    {o : Option State} (ho : ∀ t, o = some t → t.mem.wf = true) : ∀ t, xs.foldl (fun o x => o.bind (f x)) o = some t → t.mem.wf = true :=
  List.foldlRecOn (motive := fun o : Option State => ∀ t, o = some t → t.mem.wf = true) xs _ ho fun _ hu x _ t ht => by
    obtain ⟨u, hSome, hStep⟩ := Option.bind_eq_some_iff.mp ht
    exact hf x u t (hu u hSome) hStep

theorem State.leaseStreams_wf {s t : State} {g : Grid} (hw : s.mem.wf = true) (ht : s.leaseStreams g = some t) : t.mem.wf = true := by
  refine wf_foldl_bind _ (fun x u v hu hv => ?_) _ (fun v hv => ?_) t ht
  · split at hv
    · cases hv
    · cases hv; exact hu
    · next hUse =>
      cases hv
      rw [State.lease_mem]
      exact State.useSpan_wf hu hUse
  · cases hv; exact hw

theorem State.bodyTree_canonical {s : State} (pk : Packet) (hw : s.mem.wf = true) : (s.bodyTree pk).Canonical := by
  simp only [State.bodyTree]
  split
  · exact hw
  · split
    · trivial
    · exact hw
    · next hGot => split <;> simp [State.get_wf hw hGot]

@[simp] theorem State.startGrid_wf {s : State} (g : Grid) (hw : s.mem.wf = true) : (s.startGrid g).mem.wf = true := by
  simp only [State.startGrid]
  split
  · exact hw
  · split
    · exact hw
    · next hLease =>
      have hwLease := State.leaseStreams_wf hw hLease
      repeat' split
      all_goals simp [hwLease]

@[simp] theorem State.rootStore_wf {s : State} (g : Grid) (hw : s.mem.wf = true) : (s.rootStore g).mem.wf = true :=
  wf_foldl _ (fun _ _ hu => by split <;> simp [hu]) _ hw

@[simp] theorem State.nodeDone_wf {s : State} (gid i : Nat) (hw : s.mem.wf = true) : (s.nodeDone gid i).mem.wf = true := by
  simp only [State.nodeDone]
  repeat' split
  all_goals simp [hw]

@[simp] theorem State.endGrid_wf {s : State} (g : Grid) (hw : s.mem.wf = true) : (s.endGrid g).mem.wf = true := by
  simp only [State.endGrid]
  split
  · exact hw
  · split
    · exact hw
    · rw [State.endPacket_mem]
      exact wf_foldl _ (fun _ _ => State.endUnit_wf _ _) _ hw

theorem State.settleGrid_canonical {s : State} (g : Grid) (hw : s.Canonical) : (s.settleGrid g).Canonical := by
  conv in State.settleGrid => delta State.settleGrid
  extract_lets u v w
  have hWalk (k : Nat) : (v.walkGrid g.id k).Canonical := by
    rw [State.canonical_iff, State.walkGrid_mem, State.pushOutboxes_mem]
    exact wf_ite (State.startGrid_wf g hw) hw
  have hww : w.Canonical := hWalk _
  clear_value w
  split
  · exact State.endGrid_wf _ hww
  · exact hww

theorem State.settleGrids_canonical (before : State) {s : State} (hw : s.Canonical) : (State.settleGrids before s).Canonical := by
  have hFold : (s.grids.foldl State.settleGrid s).Canonical := canonical_foldl _ (fun _ _ => State.settleGrid_canonical _) _ hw
  rw [State.settleGrids]
  exact canonical_ite hw (canonical_ite hFold (hFold.of_mem_eq (State.settleIdle_mem _ _)))

@[simp] theorem State.settleGrids_wf (before : State) {s : State} (hw : s.mem.wf = true) : (State.settleGrids before s).mem.wf = true :=
  State.settleGrids_canonical before hw

theorem State.leaseAll_wf {s t : State} {p holder : Nat} {xs : List (Nat × Nat)} (hw : s.mem.wf = true) (ht : s.leaseAll p holder xs = .ready t) :
    t.mem.wf = true := by
  induction xs generalizing s with
  | nil => cases ht; exact hw
  | cons x xs ih =>
    simp only [State.leaseAll] at ht
    split at ht
    · next hUse => exact ih (by simp [State.useSpan_wf hw hUse]) ht
    · cases ht
    · cases ht

theorem State.firstMapping_wf {s t : State} {p : Nat} (hw : s.mem.wf = true) (ht : s.firstMapping p = .ready t) : t.mem.wf = true := by
  simp only [State.firstMapping] at ht
  split at ht
  · cases ht; exact hw
  · split at ht
    · next hLease =>
      cases ht
      rw [State.modPart_mem]
      split at hLease
      · next hHead => exact State.leaseAll_wf (State.leaseAll_wf hw hHead) hLease
      · next hNot => exact absurd hLease (hNot _)
    · next hNot => exact absurd ht (hNot _)

@[simp] theorem State.writeQcb_wf {s : State} (k : Nat) (hw : s.mem.wf = true) : (s.writeQcb k).mem.wf = true := State.vwrite_getD_wf _ _ _ hw

@[simp] theorem State.queueRecord_wf {s : State} (p source : Nat) (detail : DWord) (bitNo : Nat) (hw : s.mem.wf = true) :
    (s.queueRecord p source detail bitNo).mem.wf = true :=
  by simp [State.queueRecord, hw]

@[simp] theorem State.unmapQueue_wf {s : State} (k : Nat) (hw : s.mem.wf = true) : (s.unmapQueue k).mem.wf = true := by
  simp only [State.unmapQueue]
  repeat' split
  all_goals simp [hw]

theorem State.slotRoom_wf {s : State} {cls : Nat} {x : State × Bool} (hw : s.mem.wf = true) (hx : s.slotRoom cls = some x) :
    x.1.mem.wf = true := by
  simp only [State.slotRoom] at hx
  split at hx
  · cases hx; exact hw
  · split at hx
    · cases hx; exact hw
    · obtain ⟨v, _, rfl⟩ := Option.map_eq_some_iff.mp hx
      simp [hw]

@[simp] theorem State.mapFor_wf {s : State} (k p : Nat) (qcb : DWord) (hw : s.mem.wf = true) : (s.mapFor k p qcb).mem.wf = true := by
  simp only [State.mapFor]
  split
  · simp [hw]
  · split
    · simp [hw]
    · simp [hw]
    · next hQcb =>
      have hwQcb := State.useSpan_wf hw hQcb
      split
      · simp [hwQcb]
      · split
        · simp [hwQcb]
        · split
          · simp [hw]
          · simp [hwQcb]
          · next hArea =>
            have hwArea := State.useSpan_wf hwQcb hArea
            split
            · simp [hw]
            · simp [hwQcb]
            · next hFirst =>
              have hwFirst := State.firstMapping_wf hwArea hFirst
              split
              · simp [hwQcb]
              · next hRoom => exact State.writeQcb_wf _ (by simp [State.slotRoom_wf hwFirst hRoom])

@[simp] theorem State.mapQueue_wf {s : State} (p k : Nat) (qcb : DWord) (hw : s.mem.wf = true) : (s.mapQueue p k qcb).mem.wf = true := by
  simp only [State.mapQueue]
  repeat' split
  all_goals simp [hw]

@[simp] theorem State.settleMaps_wf {s : State} (hw : s.mem.wf = true) : s.settleMaps.mem.wf = true := by
  simp only [State.settleMaps]
  split
  · exact wf_foldl _ (fun _ _ hu => by split <;> simp [hu]) _ hw
  · exact hw

@[simp] theorem State.resetQueue_wf {s : State} (k : Nat) (hw : s.mem.wf = true) : (s.resetQueue k).mem.wf = true := by
  simp only [State.resetQueue]
  split <;> simp [hw]

@[simp] theorem State.acceptIndex_wf {s : State} (k v : Nat) (hw : s.mem.wf = true) : (s.acceptIndex k v).mem.wf = true := by
  simp only [State.acceptIndex]
  split <;> simp [hw]

@[simp] theorem State.doorbell_wf {s : State} (k v : Nat) (hw : s.mem.wf = true) : (s.doorbell k v).mem.wf = true := by
  simp only [State.doorbell]
  repeat' split
  all_goals simp [hw]

theorem State.needs_canonical {s : State} (pk : Packet) (xs : List (Nat × Nat × Nat × Bool × Bool)) (hw : s.mem.wf = true) :
    (s.needs pk xs).Canonical := by
  induction xs generalizing s with
  | nil => exact hw
  | cons x xs ih =>
    simp only [State.needs]
    split
    · exact ih hw
    · split
      · trivial
      · exact hw
      · next hUse => exact ih (by simp [State.useSpan_wf hw hUse])

theorem State.measurePages_wf {s t : State} {p : Nat} {d : List Byte} (hw : s.mem.wf = true) (ht : s.measurePages p d = some t) :
    t.mem.wf = true := by
  obtain ⟨u, hTables, hStreams⟩ := Option.bind_eq_some_iff.mp ht
  have hUse (u v : State) (va n : Nat) (hu : u.mem.wf = true) (hv : (match u.useSpan p va n true false with
      | .wait => none
      | .bad => some u
      | .ready u => some u) = some v) : v.mem.wf = true := by
    split at hv
    · cases hv
    · cases hv; exact hu
    · next hReady => cases hv; exact State.useSpan_wf hu hReady
  have hwTables : u.mem.wf = true := wf_foldl_bind _ (fun x v w => hUse v w x.1 x.2) _ (fun v hv => by cases hv; exact hw) u hTables
  exact wf_foldl_bind _ (fun x v w => hUse v w x.1 x.2) _ (fun v hv => by cases hv; exact hwTables) t hStreams

theorem State.body_canonical {s : State} (pk : Packet) (hw : s.mem.wf = true) : (s.body pk).Canonical := by
  simp only [State.body]
  split
  · exact State.bodyTree_canonical pk hw
  · exact State.bodyTask_canonical pk hw
  · exact State.bodyGang_canonical pk hw
  · exact State.needs_canonical pk _ hw
  · exact State.needs_canonical pk _ hw
  · exact State.needs_canonical pk _ hw
  · exact State.takeWnode_canonical pk hw
  · exact State.needs_canonical pk _ hw
  · exact hw

theorem State.measure_wf {s t : State} {pk : Packet} (hw : s.mem.wf = true) (ht : s.measure pk = some t) : t.mem.wf = true := by
  simp only [State.measure] at ht
  split at ht
  · cases ht; simp [hw]
  · obtain ⟨u, hu, rfl⟩ := Option.map_eq_some_iff.mp ht
    have hwRead : u.mem.wf = true := by
      split at hu
      · cases hu; exact hw
      · exact State.measurePages_wf hw hu
    rw [State.endPacket_mem]
    exact State.vwrite_getD_wf _ _ _ hwRead

@[simp] theorem State.signalHome_wf {s : State} (p pa : Nat) (add : Bool) (v : Nat) (hw : s.mem.wf = true) :
    (s.signalHome p pa add v).mem.wf = true :=
  by simp [State.signalHome, hw]

@[simp] theorem State.signalAt_wf {s : State} (p pa : Nat) (add : Bool) (v : Nat) (hw : s.mem.wf = true) :
    (s.signalAt p pa add v).mem.wf = true := by
  simp only [State.signalAt]
  split
  · exact State.external_wf _ _ (State.signalHome_wf _ _ _ _ hw) hw
  · exact State.signalHome_wf _ _ _ _ hw

@[simp] theorem State.signalPacket_wf {s : State} (pk : Packet) (hw : s.mem.wf = true) : (s.signalPacket pk).mem.wf = true := by
  simp only [State.signalPacket]
  split <;> simp [hw]

theorem State.begin_wf {s t : State} {pk : Packet} (hw : s.mem.wf = true) (ht : s.begin pk = some t) : t.mem.wf = true := by
  simp only [State.begin] at ht
  split at ht
  · cases ht; simp [hw]
  · split at ht <;> cases ht
    simp [hw]
  · have hBody := State.bodyWnode_canonical (s := s.modPacket pk.id fun x => { x with started := true }) pk hw
    split at ht <;> cases ht <;> simp_all
  · exact State.measure_wf (s := s.modPacket pk.id fun x => { x with started := true }) hw ht
  · cases ht; simp [hw]
  · cases ht; simp [hw]

@[simp] theorem State.dropWork_wf {s : State} (p : Nat) (hw : s.mem.wf = true) : (s.dropWork p).mem.wf = true :=
  wf_foldl _ (fun _ _ => State.endUnit_wf _ _) _ (wf_foldl _ (fun _ _ => State.endUnit_wf _ _) _ hw)

@[simp] theorem State.abortBarrier_wf {s : State} (pk : Packet) (hw : s.mem.wf = true) : (s.abortBarrier pk).mem.wf = true := by
  unfold State.abortBarrier
  extract_lets here u v
  have hv : v.mem.wf = true := wf_foldl _ (fun _ _ hu => by simp [hu]) _ (by simp [u, hw])
  clear_value v
  exact wf_ite hv (wf_foldl _ (fun _ _ hu => by simp [hu]) _ hv)

@[simp] theorem State.checkBarrier_wf {s : State} (pk : Packet) (hw : s.mem.wf = true) : (s.checkBarrier pk).mem.wf = true := by
  simp only [State.checkBarrier]
  repeat' split
  all_goals simp [hw]

@[simp] theorem State.settlePackets_wf {s : State} (hw : s.mem.wf = true) : s.settlePackets.mem.wf = true := by
  refine wf_foldl _ (fun _ _ hu => ?ended) _ (wf_foldl _ (fun u _ hu => ?begun) _ hw)
  case ended => split <;> simp [hu]
  case begun =>
    have hBegin (pk : Packet) : ((u.begin pk).getD u).mem.wf = true := wf_getD (fun _ => State.begin_wf hu) hu
    split
    · exact hu
    · split
      · exact hu
      · dsimp only
        split <;> split <;> simp [hu, hBegin]

@[simp] theorem State.withPacket_wf {s : State} (pk : Packet) (hw : s.mem.wf = true) : (s.withPacket pk).mem.wf = true :=
  by simp [State.withPacket, hw]

theorem State.tryTake_wf {s t : State} {k : Nat} (hw : s.mem.wf = true) (ht : s.tryTake k = some t) : t.mem.wf = true := by
  obtain ⟨bs, _, hTaken⟩ := Option.bind_eq_some_iff.mp ht
  clear ht
  extract_lets pk u bad sig format at hTaken
  have hwu : u.mem.wf = true := State.withPacket_wf pk hw
  clear_value u format
  split at hTaken
  · cases hTaken; simp [bad, hwu]
  · split at hTaken
    · cases hTaken
    · cases hTaken; simp [bad, hwu]
    · next v hSignal =>
      have hwv : v.mem.wf = true := by
        split at hSignal
        · cases hSignal; exact hwu
        · exact State.useSpan_wf hwu hSignal
      extract_lets w at hTaken
      have hww : w.mem.wf = true := wf_ite hwv (by simp [hwv])
      clear_value w
      split at hTaken
      · cases hTaken; simp [hww]
      · split at hTaken
        · cases hTaken; simp [hww]
        · have hBody := State.body_canonical pk hww
          split at hTaken <;> cases hTaken <;> simp_all

@[simp] theorem State.takePacket_wf {s : State} (type k : Nat) (hw : s.mem.wf = true) : (s.takePacket type k).mem.wf = true := by
  simp only [State.takePacket]
  split
  · exact hw
  · exact wf_getD (fun _ => State.tryTake_wf hw) hw

@[simp] theorem State.updateSignal_wf {s : State} (pk : Packet) (status : Nat) (hw : s.mem.wf = true) :
    (s.updateSignal pk status).mem.wf = true := by
  simp only [State.updateSignal]
  repeat' split
  all_goals simp [hw]

@[simp] theorem State.complete_wf {s : State} (pk : Packet) (st : Nat × Nat × DWord × Nat) (hw : s.mem.wf = true) :
    (s.complete pk st).mem.wf = true := by
  simp only [State.complete]
  split <;> simp [hw]

@[simp] theorem State.readFaults_wf {s : State} (p : Nat) (v : Nat) (hw : s.mem.wf = true) : (s.readFaults p v).mem.wf = true :=
  by simp [State.readFaults, hw]

@[simp] theorem State.inboundRecord_wf {s : State} (p : Nat) (va : Nat) (timeout write host : Bool) (pkg : Nat) (hw : s.mem.wf = true) :
    (s.inboundRecord p va timeout write host pkg).mem.wf = true :=
  by simp [State.inboundRecord, hw]

@[simp] theorem State.serve_wf {s : State} (x : Inbound) (hw : s.mem.wf = true) : (s.serve x).mem.wf = true := by
  simp only [State.serve]
  split
  · exact hw
  · rw [State.answer_mem]
    exact State.inboundRecord_wf _ _ _ _ _ _ hw
  · next hUse =>
    have hwUse := State.useSpan_wf hw hUse
    split
    · exact hwUse
    · split
      · exact hwUse
      · split
        · rw [State.answer_mem, mem_foldl _ fun _ _ => State.touch_mem _ _]
          exact hwUse
        · rw [State.answer_mem]
          exact wf_foldl _ (fun _ _ => State.headLine_wf _) _ (by rw [mem_foldl _ fun _ _ => State.undoFor_mem _ _ _]; exact hwUse)

@[simp] theorem State.inboundAccess_wf {s : State} (op p source : Nat) (va : DWord) (size : Nat) (data : List Byte) (hw : s.mem.wf = true) :
    (s.inboundAccess op p source va size data).mem.wf = true := by
  simp only [State.inboundAccess]
  split <;> simp [hw]

/-- The same for what a target answers. -/
@[simp] def EnqueueAnswer.Canonical : EnqueueAnswer → Prop
  | .reply s _ => s.mem.wf = true
  | .fault s _ => s.mem.wf = true
  | .wait => True

theorem State.enqueueAt_canonical {s : State} (pkg p : Nat) (d pay pkt : List Byte) (hw : s.mem.wf = true) :
    (s.enqueueAt pkg p d pay pkt).Canonical := by
  simp only [State.enqueueAt]
  split
  · exact hw
  · split
    · exact hw
    · split
      · trivial
      · exact State.inboundRecord_wf _ _ _ _ _ _ hw
      · next u hUse =>
        have hwUse : u.mem.wf = true := by
          split at hUse
          · cases hUse; exact hw
          · exact State.useSpan_wf hw hUse
        split
        · trivial
        · refine State.acceptIndex_wf _ _ ?_
          rw [State.modSlot_mem]
          exact wf_foldl _ (fun _ _ => State.headStore_wf _ _ _) _ (wf_foldl _ (fun _ _ => State.headStore_wf _ _ _) _ hwUse)

@[simp] theorem State.serveEnqueue_wf {s : State} (op pkg p : Nat) (desc payload packet : List Byte) (hw : s.mem.wf = true) :
    (s.serveEnqueue op pkg p desc payload packet).mem.wf = true := by
  have hAnswer (k q : Nat) (d pay pkt : List Byte) := State.enqueueAt_canonical k q d pay pkt hw
  simp only [State.serveEnqueue]
  split
  · split
    · split
      · exact hw
      · next d pay pkt b _ _ _ _ =>
        have hAt := hAnswer s.pkg (s.partOf b) d pay pkt
        split <;> simp_all
    · exact hw
  · have hAt := hAnswer pkg p desc payload packet
    split
    · split <;> exact hw
    · simp_all
    · simp_all

@[simp] theorem State.landReply_wf {s : State} (op : Nat) (data : List Byte) (ws : List Word) (hw : s.mem.wf = true) :
    (s.landReply op data ws).mem.wf = true := by
  simp only [State.landReply]
  repeat' split
  all_goals simp [hw]

@[simp] theorem State.tracePut_wf {s : State} (p : Nat) (rec : List Byte) (hw : s.mem.wf = true) : (s.tracePut p rec).1.mem.wf = true :=
  by simp [State.tracePut, hw]

@[simp] theorem State.lostFirst_wf {s : State} (p : Nat) (hw : s.mem.wf = true) : (s.lostFirst p).1.mem.wf = true := by
  simp only [State.lostFirst]
  split <;> simp [hw]

@[simp] theorem State.syncGroup_wf {s : State} (p : Nat) (hw : s.mem.wf = true) : (s.syncGroup p).mem.wf = true := by
  unfold State.syncGroup
  extract_lets once x
  have hOnce {u : State} (hu : u.mem.wf = true) : (once u).1.mem.wf = true :=
    wf_foldl_fst _ (fun _ _ hv => by exact State.tracePut_wf _ _ hv) _ (State.lostFirst_wf p hu)
  have hx : x.1.mem.wf = true := hOnce hw
  clear_value x once
  exact wf_ite (hOnce hx) hx

@[simp] theorem State.trace_wf {s : State} (p : Nat) (rec : List Byte) (hw : s.mem.wf = true) : (s.trace p rec).mem.wf = true := by
  have hPut := State.tracePut_wf p rec (State.lostFirst_wf p hw)
  simp only [State.trace]
  split <;> simp [hPut]

@[simp] theorem State.traceBlock_wf {s : State} (t : Task) (k : Block) (type bundle mask : Nat) (pc aux : DWord) (hw : s.mem.wf = true) :
    (s.traceBlock t k type bundle mask pc aux).mem.wf = true :=
  by simp [State.traceBlock, hw]

@[simp] theorem State.tracePark_wf {s : State} (t : Task) (k : Block) (before b : Bundle) (hw : s.mem.wf = true) :
    (s.tracePark t k before b).mem.wf = true := wf_foldl _ (fun _ _ hu => State.traceBlock_wf _ _ _ _ _ _ _ hu) _ hw

@[simp] theorem State.traceResume_wf {s : State} (t : Task) (k : Block) (before b : Bundle) (hw : s.mem.wf = true) :
    (s.traceResume t k before b).mem.wf = true :=
  wf_foldl _ (fun _ _ hu => by
    split
    · split <;> simp [hu]
    · exact hu) _ hw

@[simp] theorem State.traceLanes_wf (before after : State) {s : State} (t : Task) (k : Block) (hw : s.mem.wf = true) :
    (State.traceLanes before after s t k).mem.wf = true :=
  wf_foldl _ (fun _ _ hu => by
    split
    · split <;> simp [hu]
    · exact hu) _ hw

@[simp] theorem State.traceOne_wf (before : State) {s : State} (k : Block) (hw : s.mem.wf = true) :
    (State.traceOne before s k).mem.wf = true := by
  simp only [State.traceOne]
  repeat' split
  all_goals simp [hw]

@[simp] theorem State.traceGone_wf (before mid : State) {s : State} (k0 : Block) (hw : s.mem.wf = true) :
    (State.traceGone before mid s k0).mem.wf = true := by
  simp only [State.traceGone]
  repeat' split
  all_goals simp [hw]

@[simp] theorem State.observe_wf (before mid : State) {s : State} (hw : s.mem.wf = true) : (State.observe before mid s).mem.wf = true := by
  simp only [State.observe]
  split
  · exact hw
  · exact wf_foldl _ (fun _ _ => State.traceGone_wf _ _ _) _ (wf_foldl _ (fun _ _ => State.traceOne_wf _ _) _ hw)

@[simp] theorem State.traceBranch_wf {s : State} (before : Bundle) (g : Group) (i : Instr) (hw : s.mem.wf = true) :
    (s.traceBranch before g i).mem.wf = true := by
  simp only [State.traceBranch]
  split
  · exact hw
  · split
    · exact hw
    · split
      · exact hw
      · split
        · exact hw
        · exact wf_foldl _ (fun _ _ hu => State.traceBlock_wf _ _ _ _ _ _ _ hu) _ hw

@[simp] theorem State.writeControl_wf {s : State} (p : Nat) (v : Word) (hw : s.mem.wf = true) : (s.writeControl p v).mem.wf = true := by
  simp only [State.writeControl]
  repeat' split
  all_goals simp [hw]

@[simp] theorem State.undoAll_wf {s : State} (logs : List Interval) (hw : s.mem.wf = true) : (s.undoAll logs).mem.wf = true :=
  Mem.wf_foldl _ (fun _ _ => writeBytes_wf _ _ _) _ hw

@[simp] theorem State.rollback_wf {s : State} (p n : Nat) (quiet : Bool) (hw : s.mem.wf = true) : (s.rollback p n quiet).mem.wf = true := by
  simp only [State.rollback]
  split <;> simp [hw]

@[simp] theorem State.stopAtMark_wf {s : State} (p : Nat) (hw : s.mem.wf = true) : (s.stopAtMark p).mem.wf = true := by
  simp only [State.stopAtMark]
  repeat' split
  all_goals simp [hw]

theorem State.onMarkTask_wf {s : State} {f : State → Task → State} (p : Nat) (hf : ∀ u t, u.mem.wf = true → (f u t).mem.wf = true)
    (hw : s.mem.wf = true) : (s.onMarkTask p f).mem.wf = true := by
  simp only [State.onMarkTask]
  split
  · simp [hw]
  · rw [State.obsResult_mem]
    exact wf_foldl _ hf _ hw

@[simp] theorem State.rearm_wf {s : State} (p : Nat) (hw : s.mem.wf = true) : (s.rearm p).mem.wf = true := by
  simp only [State.rearm]
  split <;> simp [hw]

@[simp] theorem State.command_wf {s : State} (p v : Nat) (hw : s.mem.wf = true) : (s.command p v).mem.wf = true := by
  have hTask {f : State → Task → State} (hf : ∀ u t, (f u t).mem = u.mem) : (s.onMarkTask p f).mem.wf = true :=
    State.onMarkTask_wf p (fun u t hu => by rw [hf u t]; exact hu) hw
  simp only [State.command]
  repeat' split
  all_goals simp [hw, hTask]

@[simp] theorem State.failStop_wf {s : State} (p n : Nat) (hw : s.mem.wf = true) : (s.failStop p n).mem.wf = true := by
  refine State.event_wf _ _ _ (wf_foldl _ (fun _ _ hu => by simp [hu]) _ ?_)
  simp [hw]

@[simp] theorem State.compareHashes_wf {s : State} (p : Nat) (hw : s.mem.wf = true) : (s.compareHashes p).mem.wf = true := by
  simp only [State.compareHashes]
  repeat' split
  all_goals simp [hw]

@[simp] theorem State.compareAll_wf {s : State} (p : Nat) (hw : s.mem.wf = true) : (s.compareAll p).mem.wf = true :=
  wf_foldl _ (fun _ _ => State.compareHashes_wf _) _ hw

@[simp] theorem State.checkpoint_wf {s : State} (p : Nat) (hw : s.mem.wf = true) : (s.checkpoint p).mem.wf = true := by
  unfold State.checkpoint
  extract_lets u bytes q spots at_ len v ended x w
  have hu : u.mem.wf = true := wf_foldl _ (fun _ _ hu => by simp [hu]) _ hw
  clear_value u
  have hv : v.mem.wf = true := by
    simp only [v, State.drawn_mem]
    exact wf_ite hu (State.vwrite_getD_wf _ _ _ hu)
  clear_value v
  have hww : w.mem.wf = true := hv
  clear_value w
  refine wf_ite hww (State.compareAll_wf _ ?_)
  rw [State.modPart_mem]
  exact hww

@[simp] theorem State.moduleEvent_wf {s : State} (die mon kind act : Nat) (hw : s.mem.wf = true) :
    (s.moduleEvent die mon kind act).mem.wf = true := by
  rw [State.moduleEvent, State.msix_mem]
  exact wf_foldl _ (fun _ _ => State.event_wf _ _ _) _ hw

@[simp] theorem State.actOnReadings_wf {s : State} (die : Nat) (hw : s.mem.wf = true) : (s.actOnReadings die).mem.wf = true := by
  simp only [State.actOnReadings]
  repeat' split
  all_goals simp [hw]

@[simp] theorem State.afterReset_wf (s : State) : s.afterReset.mem.wf = true := rfl

@[simp] theorem State.writePart_wf {s : State} (p off v : Nat) (hw : s.mem.wf = true) : (s.writePart p off v).mem.wf = true := by
  simp only [State.writePart]
  repeat' split
  all_goals simp [hw]

@[simp] theorem State.writeReg_wf {s : State} (o v : Nat) (hw : s.mem.wf = true) : (s.writeReg o v).mem.wf = true := by
  rw [State.writeReg]
  refine wf_ite (wf_ite hw hw) (wf_ite (wf_ite hw hw) (wf_ite (wf_ite ?freeze hw) (wf_ite ?cap (wf_ite (wf_ite hw hw) (wf_ite ?config
    (wf_ite ?vector (wf_ite hw (wf_ite (State.doorbell_wf _ _ hw) (wf_ite
      (wf_ite (State.mapQueue_wf _ _ _ hw) (wf_ite (State.resetQueue_wf _ hw) hw)) (wf_ite (State.writePart_wf _ _ _ hw) hw))))))))))
  all_goals simp [hw]

@[simp] theorem State.writeWindow_wf {s : State} (o n v : Nat) (hw : s.mem.wf = true) : (s.writeWindow o n v).mem.wf = true := by
  simp only [State.writeWindow]
  split
  · exact hw
  · split
    · split <;> simp [hw]
    · exact wf_foldl _ (fun _ _ hu => State.writeReg_wf _ _ hu) _ hw

@[simp] theorem State.writeWindowFor_wf {s : State} (p o n v : Nat) (hw : s.mem.wf = true) : (s.writeWindowFor p o n v).mem.wf = true :=
  by simp [State.writeWindowFor, hw]

@[simp] theorem applyPlain_wf (p : Nat) {s : State} (i : Input) (hw : s.mem.wf = true) : (applyPlain p s i).mem.wf = true := by
  cases i <;> simp [applyPlain, hw]

@[simp] theorem State.applyInputs_wf {s : State} (p : Nat) (xs : List Input) (hw : s.mem.wf = true) : (s.applyInputs p xs).1.mem.wf = true :=
  wf_foldl_fst _ (fun _ _ hu => by dsimp only; split <;> exact applyPlain_wf _ _ hu) _ hw

@[simp] theorem State.inputBoundary_wf {s : State} (p : Nat) (hw : s.mem.wf = true) : (s.inputBoundary p).mem.wf = true := by
  refine wf_foldl _ (fun _ _ => applyPlain_wf _ _) _ ?_
  rw [State.modPart_mem]
  exact State.applyInputs_wf _ _ hw

@[simp] theorem State.clockTurn_wf {s : State} (hw : s.mem.wf = true) : s.clockTurn.mem.wf = true := by
  simp only [State.clockTurn]
  split
  · exact State.inputBoundary_wf _ hw
  · split
    · exact State.checkpoint_wf _ hw
    · simp [hw]

@[simp] theorem State.settleAll_wf (before : State) {s : State} (hw : s.mem.wf = true) : (State.settleAll before s).mem.wf = true := by
  have hHeld := State.settleHeld_wf hw
  have hSaves : (((s.settleHeld.settle.settleTiles).settleTraps).settleSaves).settleNodes.mem.wf = true := by
    rw [State.settleNodes_mem]
    exact State.settleSaves_wf (by simp [hHeld])
  have hMaps := State.settleMaps_wf (State.settleGrids_wf before hSaves)
  have hPackets := State.settlePackets_wf (State.settleRequeues_wf hMaps)
  simpa [State.settleAll] using hPackets

@[simp] theorem State.afterStep_wf (before : State) {s : State} (hw : s.mem.wf = true) : (State.afterStep before s).mem.wf = true := by
  simp only [State.afterStep]
  split <;> simp [hw]

end Sys2Proof.Machine
end

section
/-! SUPPORT. The canonical form of memory over a whole step (R145): what a step is about to do, every instruction by the way it is run, every event,
and what settles after them. -/

namespace Sys2Proof.Machine

/-! What a step is about to do. -/

/-- The memory of what a step is about to do. -/
def Action.mem : Action → Mem
  | .done s => s.mem
  | .run s _ => s.mem

@[simp] theorem Action.mem_done (s : State) : (Action.done s).mem = s.mem := rfl
@[simp] theorem Action.mem_run (s : State) (i : Instr) : (Action.run s i).mem = s.mem := rfl

@[simp] theorem State.fetchGroup_mem (s : State) (g : Group) : (s.fetchGroup g).mem = s.mem := by
  simp only [State.fetchGroup]
  repeat' split
  all_goals simp

@[simp] theorem State.pipeTurn_mem (s : State) (core pipe : Nat) : (s.pipeTurn core pipe).mem = s.mem := by
  simp only [State.pipeTurn]
  repeat' split
  all_goals simp

@[simp] theorem State.popTurn_mem (s : State) : s.popTurn.2.mem = s.mem := by
  simp only [State.popTurn]
  split <;> rfl

theorem State.move_wf {s : State} (hw : s.mem.wf = true) : s.move.mem.wf = true := by
  simp only [State.move]
  split
  · simpa using hw
  · have hPop : s.popTurn.2.mem.wf = true := by simpa using hw
    generalize s.popTurn = x at hPop ⊢
    obtain ⟨turn, t⟩ := x
    cases turn with
    | clk => simp only [Action.mem_done]; split <;> simp_all
    | pipe core pipe => dsimp only; split <;> simp_all
    | event e => dsimp only; split <;> simp_all
    | soft b l d => simp only [Action.mem_done]; split <;> simp_all

theorem State.afterInstr_wf (t : State) (i : Instr) {u : State} (hw : u.mem.wf = true) : (State.afterInstr t u i).mem.wf = true := by
  simp only [State.afterInstr]
  repeat' split
  all_goals simp [hw]

/-- A change of the threads of some lanes is no change of memory. -/
@[simp] theorem mem_foldl_modThread (b : Nat) (f : State → Nat → Thread → Thread) (ls : List Nat) (s : State) :
    (ls.foldl (fun s l => s.modThread b l (f s l)) s).mem = s.mem :=
  mem_foldl _ (fun _ _ => State.modThread_mem _ _ _ _) ls s

/-! The shared ways of running an instruction. -/

/-- A result that leaves memory in its canonical form. -/
def EndsCanonical (r : Result) : Prop := ∀ t, r = .next t → t.mem.wf = true

theorem endsCanonical_next {s : State} (hw : s.mem.wf = true) : EndsCanonical (.next s) := by
  rintro t ⟨⟩
  exact hw

/-- What the meaning of an instruction for the running lanes of its group must keep. -/
def KeepsCanonical (body : Body) : Prop := ∀ s g b ls, s.mem.wf = true → (body s g b ls).1.mem.wf = true

theorem each_keepsCanonical {f : State → Group → Bundle → Nat → State × LaneEnd} (hf : ∀ s g b l, s.mem.wf = true → (f s g b l).1.mem.wf = true) :
    KeepsCanonical (each f) := by
  intro s g b ls hw
  simp only [each]
  refine wf_foldl_fst _ ?_ ls hw
  exact fun a l ha => hf a.1 g b l ha

theorem runWith_endsCanonical {s : State} (i : Instr) (chk : Check) {body : Body} (hb : KeepsCanonical body) (hw : s.mem.wf = true) :
    EndsCanonical (runWith i chk body s) := by
  simp only [runWith]
  split
  · exact endsCanonical_next hw
  · split
    · exact endsCanonical_next hw
    · split
      · split
        · exact endsCanonical_next (by simp [hw])
        · refine endsCanonical_next ?_
          rw [State.endGroup_mem]
          exact hb _ _ _ _ hw
      · exact endsCanonical_next (by simp [hw])

theorem onNext_endsCanonical {r : Result} {f : State → State} (hf : ∀ t, t.mem.wf = true → (f t).mem.wf = true) (hr : EndsCanonical r) :
    EndsCanonical (onNext r f) := by
  cases r with
  | next t => exact endsCanonical_next (hf t (hr t rfl))
  | fault e => rintro t ⟨⟩
  | refused e => rintro t ⟨⟩

theorem lead_endsCanonical {s : State} (i : Instr) (f : State → Group → Group) (hw : s.mem.wf = true) : EndsCanonical (lead i f s) := by
  simp only [lead]
  repeat' split
  all_goals exact endsCanonical_next (by simp [hw])

theorem runLanes_endsCanonical {s : State} (i : Instr) (chk : Check) {f : State → Group → Bundle → Nat → State × LaneEnd}
    (hf : ∀ s g b l, s.mem.wf = true → (f s g b l).1.mem.wf = true) (hw : s.mem.wf = true) : EndsCanonical (runLanes i chk f s) :=
  runWith_endsCanonical i chk (each_keepsCanonical hf) hw

theorem runEntry_endsCanonical {s : State} (i : Instr) (chk : Check) {f : Nat → State → Group → Bundle → Nat → State × LaneEnd}
    (hf : ∀ e s g b l, s.mem.wf = true → (f e s g b l).1.mem.wf = true) (hw : s.mem.wf = true) : EndsCanonical (runEntry i chk f s) :=
  runWith_endsCanonical i chk (fun u g b ls hu => each_keepsCanonical (hf u.fresh) u.next g b ls hu) hw

theorem runPure_endsCanonical {s : State} (i : Instr) (f : Thread → Thread) (hw : s.mem.wf = true) : EndsCanonical (runPure i f s) :=
  runLanes_endsCanonical i noCheck (fun _ _ _ _ hu => by simp [hu]) hw

theorem runArrive_endsCanonical {s : State} (i : Instr) (hw : s.mem.wf = true) : EndsCanonical (runArrive i s) := by
  refine onNext_endsCanonical (fun t ht => ?_) (runWith_endsCanonical i noCheck (fun u g b ls hu => ?_) hw)
  · split <;> simp [ht]
  · simp [hu]

theorem runRequest_endsCanonical {s : State} (i : Instr) (shed : Bool) (v : Nat) (hw : s.mem.wf = true) :
    EndsCanonical (runRequest i shed v s) := by
  refine onNext_endsCanonical (fun t ht => ?_) (runLanes_endsCanonical i _ (fun _ _ _ _ hu => by simp [hu]) hw)
  split <;> simp [ht]

theorem runLoad_endsCanonical {s : State} (i : Instr) (stream size code dst : Nat) (ea : Thread → DWord) (acq : Option Nat) (smp : Bool)
    (hw : s.mem.wf = true) : EndsCanonical (runLoad i stream size code dst ea acq smp s) :=
  runEntry_endsCanonical i _ (fun _ _ _ _ _ hu => by simp [hu]) hw

theorem runStore_endsCanonical {s : State} (i : Instr) (stream size src : Nat) (ea : Thread → DWord) (rel : Option Nat) (hw : s.mem.wf = true) :
    EndsCanonical (runStore i stream size src ea rel s) :=
  runEntry_endsCanonical i _ (fun _ _ _ _ _ hu => by simp [hu]) hw

theorem runAtom_endsCanonical {s : State} (i : Instr) (op : Nat) (n : BitVec 1) (k : BitVec 3) (st : BitVec 4) (p : BitVec 6) (d : BitVec 7)
    (hw : s.mem.wf = true) : EndsCanonical (runAtom i op n k st p d s) := by
  refine runWith_endsCanonical i _ (fun u g b ls hu => ?_) hw
  dsimp only
  split <;> simp [hu]

theorem runFuture_endsCanonical {s : State} (i : Instr) (sub dst a : Nat) (v : Thread → Word) (chk : Check) (hw : s.mem.wf = true) :
    EndsCanonical (runFuture i sub dst a v chk s) :=
  runLanes_endsCanonical i chk (fun _ _ _ _ hu => by simp [hu]) hw

theorem runBar_endsCanonical {s : State} (i : Instr) (n q : BitVec 3) (wait chk : Bool) (hw : s.mem.wf = true) :
    EndsCanonical (runBar i n q wait chk s) := by
  refine runLanes_endsCanonical i noCheck (fun u g b l hu => ?_) hw
  have hArrive : (u.arriveBar b l n.toNat q.toNat chk).1.mem.wf = true := by simp [hu]
  generalize u.arriveBar b l n.toNat q.toNat chk = r at hArrive ⊢
  obtain ⟨v, t⟩ := r
  cases t with
  | none => dsimp only; split <;> simpa using hArrive
  | some t => exact hArrive

theorem runObject_endsCanonical {s : State} (i : Instr) (reset : Bool) (a d : BitVec 7) (hw : s.mem.wf = true) :
    EndsCanonical (runObject i reset a d s) :=
  runLanes_endsCanonical i _ (fun _ _ _ _ hu => by simp [hu]) hw

theorem runBuf_endsCanonical {s : State} (i : Instr) (q : BitVec 3) (d : Nat) (ok : Buf → Option LaneEnd) (f : Buf → Buf) (off : Buf → Nat)
    (hw : s.mem.wf = true) : EndsCanonical (runBuf i q d ok f off s) := by
  refine runWith_endsCanonical i noCheck (fun u g b ls hu => ?_) hw
  repeat' split
  all_goals simp [hu]

theorem runTile_endsCanonical {s : State} (i : Instr) (sparse : Bool) (a : BitVec 7) (hw : s.mem.wf = true) : EndsCanonical
    (runTile i sparse a s) :=
  runWith_endsCanonical i _ (fun u g b ls hu => each_keepsCanonical (fun _ _ _ _ hv => by simp [hv]) u.next g b ls hu) hw

/-! The instructions that need a case split of their own. -/

theorem dropParcels_keepsCanonical : KeepsCanonical dropParcels := by
  intro s g b ls hw
  simp only [dropParcels]
  split <;> simp [hw]

theorem calSet_keepsCanonical (k : BitVec 2) (a : BitVec 7) (f : Monitor → DWord → Monitor) : KeepsCanonical (calSet k a f) := by
  intro s g b ls hw
  simp only [calSet]
  repeat' split
  all_goals simp [hw]

theorem execStflush_endsCanonical {s : State} (m : BitVec 16) (hw : s.mem.wf = true) : EndsCanonical (execStflush m s) := by
  refine runLanes_endsCanonical _ _ (fun u g x l hu => ?_) hw
  repeat' split
  all_goals simp [hu]

theorem execBarAddb_endsCanonical {s : State} (n q : BitVec 3) (a : BitVec 7) (hw : s.mem.wf = true) : EndsCanonical (execBarAddb n q a s) := by
  refine runLanes_endsCanonical _ _ (fun u g x l hu => ?_) hw
  dsimp only
  repeat' split
  all_goals simp [hu]

theorem execExit_endsCanonical {s : State} (hw : s.mem.wf = true) : EndsCanonical (execExit s) := by
  refine runLanes_endsCanonical _ _ (fun u g x l hu => ?_) hw
  dsimp only
  repeat' split
  all_goals simp [hu]

theorem execAcp_endsCanonical {s : State} (bb : BitVec 1) (st : BitVec 4) (t : BitVec 3) (v : BitVec 5) (p : BitVec 6) (o : BitVec 7)
    (hw : s.mem.wf = true) :
    EndsCanonical (execAcp bb st t v p o s) := by
  refine runLanes_endsCanonical _ _ (fun u g x l hu => ?_) hw
  dsimp only
  repeat' split
  all_goals simp [hu]

theorem execPart_endsCanonical {s : State} (a : BitVec 7) (hw : s.mem.wf = true) : EndsCanonical (execPart a s) := by
  refine runLanes_endsCanonical _ _ (fun u g x l hu => ?_) hw
  dsimp only
  repeat' split
  all_goals simp [hu]

theorem execAcb_endsCanonical {s : State} (q : BitVec 3) (a : BitVec 7) (hw : s.mem.wf = true) : EndsCanonical (execAcb q a s) := by
  refine runLanes_endsCanonical _ _ (fun u g x l hu => ?_) hw
  dsimp only
  repeat' split
  all_goals simp [hu]

theorem execCarvinv_endsCanonical {s : State} (a : BitVec 7) (hw : s.mem.wf = true) : EndsCanonical (execCarvinv a s) := by
  refine runLanes_endsCanonical _ _ (fun u g x l hu => ?_) hw
  dsimp only
  repeat' split
  all_goals simp [hu]

theorem execStunmap_endsCanonical {s : State} (a : BitVec 7) (hw : s.mem.wf = true) : EndsCanonical (execStunmap a s) := by
  refine runLanes_endsCanonical _ _ (fun u g x l hu => ?_) hw
  repeat' split
  all_goals simp [hu]

theorem execRett_endsCanonical {s : State} (hw : s.mem.wf = true) : EndsCanonical (execRett s) := by
  refine runLanes_endsCanonical _ _ (fun u g x l hu => ?_) hw
  repeat' split
  all_goals simp [hu]

theorem execKillb_endsCanonical {s : State} (hw : s.mem.wf = true) : EndsCanonical (execKillb s) := by
  refine runLanes_endsCanonical _ _ (fun u g x l hu => ?_) hw
  repeat' split
  all_goals simp [hu]

theorem execOwr_endsCanonical {s : State} (n d : BitVec 7) (hw : s.mem.wf = true) : EndsCanonical (execOwr n d s) := by
  refine runLanes_endsCanonical _ _ (fun u g x l hu => ?_) hw
  repeat' split
  all_goals simp [hu]

theorem execOpc_endsCanonical {s : State} (d : BitVec 7) (hw : s.mem.wf = true) : EndsCanonical (execOpc d s) := by
  refine runLanes_endsCanonical _ _ (fun u g x l hu => ?_) hw
  repeat' split
  all_goals simp [hu]

theorem execFenceAr_endsCanonical {s : State} (m : BitVec 16) (k : BitVec 3) (hw : s.mem.wf = true) : EndsCanonical (execFenceAr m k s) :=
  runWith_endsCanonical _ _ (fun u g x ls hu => each_keepsCanonical (fun _ _ _ _ hv => by simp [hv]) u g x ls hu) hw

theorem execFenceSc_endsCanonical {s : State} (m : BitVec 16) (k : BitVec 3) (hw : s.mem.wf = true) : EndsCanonical (execFenceSc m k s) :=
  runWith_endsCanonical _ _ (fun u g x ls hu => each_keepsCanonical (fun _ _ _ _ hv => by simp [hv]) u g x ls hu) hw

theorem execRefetchFence_endsCanonical {s : State} (hw : s.mem.wf = true) : EndsCanonical (execRefetchFence s) :=
  runWith_endsCanonical _ _ dropParcels_keepsCanonical hw

theorem execTxb_endsCanonical {s : State} (d : BitVec 7) (hw : s.mem.wf = true) : EndsCanonical (execTxb d s) := by
  refine runWith_endsCanonical _ _ (fun u g x ls hu => each_keepsCanonical (fun v _ _ _ hv => ?_) u g x ls hu) hw
  dsimp only
  repeat' split
  all_goals simp [hv]

theorem execTxe_endsCanonical {s : State} (hw : s.mem.wf = true) : EndsCanonical (execTxe s) := by
  refine runWith_endsCanonical _ _ (fun u g x ls hu => each_keepsCanonical (fun v _ _ _ hv => ?_) u g x ls hu) hw
  repeat' split
  all_goals simp [hv]

theorem execSetprg_endsCanonical {s : State} (a : BitVec 7) (hw : s.mem.wf = true) : EndsCanonical (execSetprg a s) := by
  refine runWith_endsCanonical _ _ (fun u g x ls hu => ?_) hw
  repeat' split
  all_goals simp [hu]

theorem execMring_endsCanonical {s : State} (z : BitVec 2) (hw : s.mem.wf = true) : EndsCanonical (execMring z s) := by
  refine runWith_endsCanonical _ _ (fun u g x ls hu => ?_) hw
  repeat' split
  all_goals simp [hu]

theorem execCalcfg_endsCanonical {s : State} (k : BitVec 2) (a : BitVec 7) (hw : s.mem.wf = true) : EndsCanonical (execCalcfg k a s) := by
  refine runWith_endsCanonical _ _ (fun u g x ls hu => ?_) hw
  split
  · exact hu
  · dsimp only
    repeat' split
    all_goals simp [hu]

theorem execCalref_endsCanonical {s : State} (k : BitVec 2) (a : BitVec 7) (hw : s.mem.wf = true) : EndsCanonical (execCalref k a s) :=
  runWith_endsCanonical _ _ (calSet_keepsCanonical _ _ _) hw

theorem execCalbnd_endsCanonical {s : State} (k : BitVec 2) (a : BitVec 7) (hw : s.mem.wf = true) : EndsCanonical (execCalbnd k a s) :=
  runWith_endsCanonical _ _ (calSet_keepsCanonical _ _ _) hw

theorem execSetstrm_endsCanonical {s : State} (n : BitVec 4) (a : BitVec 7) (hw : s.mem.wf = true) : EndsCanonical (execSetstrm n a s) := by
  refine runWith_endsCanonical _ _ (fun u g x ls hu => ?_) hw
  split
  · exact hu
  · dsimp only
    repeat' split
    all_goals simp [hu]

theorem execHalt_endsCanonical {s : State} (hw : s.mem.wf = true) : EndsCanonical (execHalt s) := by
  refine runWith_endsCanonical _ _ (fun u g x ls hu => ?_) hw
  repeat' split
  all_goals simp [hu]

theorem execRefetch_endsCanonical {s : State} (hw : s.mem.wf = true) : EndsCanonical (execRefetch s) :=
  runWith_endsCanonical _ _ dropParcels_keepsCanonical hw

/-! The events. -/

theorem execLaneResultWrite_endsCanonical {s : State} (op : Nat) (hw : s.mem.wf = true) : EndsCanonical (execLaneResultWrite op s) :=
  endsCanonical_next (by simp [hw])

theorem execMfragResultWrite_endsCanonical {s : State} (op : Nat) (hw : s.mem.wf = true) : EndsCanonical (execMfragResultWrite op s) :=
  endsCanonical_next (by simp [hw])

theorem execYieldEnd_endsCanonical {s : State} (bundle lane : Nat) (hw : s.mem.wf = true) : EndsCanonical (execYieldEnd bundle lane s) := by
  refine endsCanonical_next ?_
  repeat' split
  all_goals simp [hw]

theorem execLateResultArrival_endsCanonical {s : State} (op : Nat) (hw : s.mem.wf = true) : EndsCanonical (execLateResultArrival op s) := by
  refine endsCanonical_next ?_
  split
  · exact hw
  · split
    · exact State.peerReply_wf _ (by simp [hw]) hw
    · split
      · exact hw
      · exact State.peerReply_wf _ (by simp [hw]) hw
    · simp [hw]
    · exact State.peerReply_wf _ (by simp [hw]) hw
    · simp [hw]
    · exact hw

theorem execStoreQueueDrain_endsCanonical {s : State} (op : Nat) (hw : s.mem.wf = true) : EndsCanonical (execStoreQueueDrain op s) := by
  refine endsCanonical_next ?_
  repeat' split
  all_goals simp [hw]

theorem execHomeStoreArrival_endsCanonical {s : State} (op : Nat) (hw : s.mem.wf = true) : EndsCanonical (execHomeStoreArrival op s) := by
  refine endsCanonical_next ?_
  repeat' split
  all_goals simp [hw]

theorem execStoreAcknowledgement_endsCanonical {s : State} (op : Nat) (hw : s.mem.wf = true) :
    EndsCanonical (execStoreAcknowledgement op s) := by
  refine endsCanonical_next ?_
  split
  · exact hw
  · split
    · exact State.peerReply_wf _ (by simp [hw]) hw
    · simp [hw]
    · split
      · exact State.peerReply_wf _ (by simp [hw]) hw
      · exact hw
    · exact hw

theorem execHomeLoadRequest_endsCanonical {s : State} (op : Nat) (hw : s.mem.wf = true) : EndsCanonical (execHomeLoadRequest op s) := by
  refine endsCanonical_next ?_
  repeat' split
  all_goals simp [hw]

theorem execCtimeTick_endsCanonical {s : State} (core : Nat) (hw : s.mem.wf = true) : EndsCanonical (execCtimeTick core s) := by
  refine endsCanonical_next ?_
  repeat' split
  all_goals simp [hw]

theorem execRemoteCopyExpiry_endsCanonical {s : State} (die line : Nat) (hw : s.mem.wf = true) :
    EndsCanonical (execRemoteCopyExpiry die line s) :=
  endsCanonical_next (by simp [hw])

theorem execNegativeAcknowledgement_endsCanonical {s : State} (op : Nat) (hw : s.mem.wf = true) :
    EndsCanonical (execNegativeAcknowledgement op s) := by
  refine endsCanonical_next ?_
  repeat' split
  all_goals simp [hw]

theorem execBackoffResend_endsCanonical {s : State} (op : Nat) (hw : s.mem.wf = true) : EndsCanonical (execBackoffResend op s) := by
  refine endsCanonical_next ?_
  repeat' split
  all_goals simp [hw]

theorem execPeerLoadFailure_endsCanonical {s : State} (op : Nat) (status : BitVec 16) (hw : s.mem.wf = true) :
    EndsCanonical (execPeerLoadFailure op status s) := by
  refine endsCanonical_next ?_
  split
  · exact hw
  · split
    · exact State.externalOnce_wf _ _ _ (by simp [hw]) hw
    · exact hw

theorem execStashFillReturn_endsCanonical {s : State} (block map line : Nat) (hw : s.mem.wf = true) :
    EndsCanonical (execStashFillReturn block map line s) := by
  refine endsCanonical_next ?_
  split
  · dsimp only
    repeat' split
    all_goals simp [hw]
  · exact hw

theorem execStashLineRecall_endsCanonical {s : State} (block map line : Nat) (hw : s.mem.wf = true) :
    EndsCanonical (execStashLineRecall block map line s) := by
  refine endsCanonical_next ?_
  repeat' split
  all_goals simp [hw]

theorem execEngineRegistration_endsCanonical {s : State} (op : Nat) (hw : s.mem.wf = true) :
    EndsCanonical (execEngineRegistration op s) := by
  refine endsCanonical_next ?_
  dsimp only
  repeat' split
  all_goals simp [hw]

theorem execEngineLineWrite_endsCanonical {s : State} (op : Nat) (hw : s.mem.wf = true) : EndsCanonical (execEngineLineWrite op s) := by
  refine endsCanonical_next ?_
  dsimp only
  split
  · exact hw
  · split
    · exact hw
    · next t bs core hData =>
      have hKept : t.mem.wf = true := by rw [State.engineData_mem hData]; exact hw
      simp [hKept]

theorem execCopyComplete_endsCanonical {s : State} (op : Nat) (hw : s.mem.wf = true) : EndsCanonical (execCopyComplete op s) := by
  refine endsCanonical_next ?_
  split
  · exact hw
  · split
    · simp [hw]
    · exact State.externalOnce_wf _ _ _ (by simp [hw]) hw

theorem execAcbSlotCommit_endsCanonical {s : State} (op : Nat) (hw : s.mem.wf = true) : EndsCanonical (execAcbSlotCommit op s) := by
  refine endsCanonical_next ?_
  split
  · exact hw
  · split
    · split
      · split <;> simp [hw]
      · split
        · exact State.externalOnce_wf _ _ _ (by simp [hw]) hw
        · simp [hw]
    · exact hw

theorem execNetworkBarrierArrival_endsCanonical {s : State} (block bar : Nat) (hw : s.mem.wf = true) :
    EndsCanonical (execNetworkBarrierArrival block bar s) := by
  refine endsCanonical_next ?_
  split
  · exact State.external_wf _ _ (by simp [hw]) hw
  · split <;> simp [hw]

theorem execBlockAdmission_endsCanonical {s : State} (task core : Nat) (hw : s.mem.wf = true) :
    EndsCanonical (execBlockAdmission task core s) := by
  refine endsCanonical_next ?_
  repeat' split
  all_goals simp [hw]

theorem execBlockCompletion_endsCanonical {s : State} (block : Nat) (hw : s.mem.wf = true) :
    EndsCanonical (execBlockCompletion block s) := by
  refine endsCanonical_next ?_
  split
  · exact hw
  · split
    · exact hw
    · next k _ t _ =>
      refine wf_ite hw (wf_ite (by simp [hw]) ?_)
      split
      · exact hw
      · next hAfter =>
        have hKept := State.afterBlock_wf hw hAfter
        split <;> simp [hKept]

theorem execRegrowGrant_endsCanonical {s : State} (core : Nat) (hw : s.mem.wf = true) : EndsCanonical (execRegrowGrant core s) := by
  refine endsCanonical_next ?_
  split
  · next hGrant => rw [State.grantGrow_mem hGrant]; exact hw
  · dsimp only
    split
    · split <;> simp [hw]
    · exact hw

theorem execRegshrShed_endsCanonical {s : State} (block : Nat) (hw : s.mem.wf = true) : EndsCanonical (execRegshrShed block s) := by
  refine endsCanonical_next ?_
  split
  · exact hw
  · split
    · exact hw
    · dsimp only
      repeat' split
      all_goals simp [hw]

theorem execHandlerWaveFormation_endsCanonical {s : State} (block : Nat) (hw : s.mem.wf = true) :
    EndsCanonical (execHandlerWaveFormation block s) := by
  refine endsCanonical_next ?_
  split
  · exact hw
  · refine wf_ite hw ?_
    rw [mem_foldl]
    · exact hw
    · intro u x
      dsimp only
      split <;> simp

theorem execImpreciseFault_endsCanonical {s : State} (op : Nat) (status : BitVec 16) (hw : s.mem.wf = true) :
    EndsCanonical (execImpreciseFault op status s) := by
  refine endsCanonical_next ?_
  split
  · dsimp only
    split <;> simp [hw]
  · split
    · exact hw
    · split
      · exact State.externalOnce_wf _ _ _ (by simp [hw]) hw
      · exact hw

theorem execPreemptionRequest_endsCanonical {s : State} (block : Nat) (hw : s.mem.wf = true) :
    EndsCanonical (execPreemptionRequest block s) := by
  refine endsCanonical_next ?_
  split
  · exact hw
  · exact State.external_wf _ _ (by simp [hw]) hw

theorem execDrainLimitExpiry_endsCanonical {s : State} (block : Nat) (hw : s.mem.wf = true) :
    EndsCanonical (execDrainLimitExpiry block s) := by
  refine endsCanonical_next ?_
  split
  · exact hw
  · split
    · exact hw
    · dsimp only
      repeat' split
      all_goals simp [hw]

theorem execBlockRestore_endsCanonical {s : State} (block core : Nat) (hw : s.mem.wf = true) :
    EndsCanonical (execBlockRestore block core s) := by
  refine endsCanonical_next ?_
  split
  · exact hw
  · refine wf_ite hw ?_
    split
    · exact wf_foldl _ (fun _ _ h => by simp [h]) _ hw
    · exact wf_foldl _ (fun _ _ h => by simp [h]) _ hw

theorem execUrgentAdmissionTimeout_endsCanonical {s : State} (block : Nat) (hw : s.mem.wf = true) :
    EndsCanonical (execUrgentAdmissionTimeout block s) := by
  refine endsCanonical_next ?_
  split
  · exact hw
  · split
    · exact hw
    · refine wf_ite hw ?_
      split
      · exact hw
      · rw [mem_foldl _ fun _ _ => State.modBlock_mem _ _ _]
        exact hw

theorem execTxValidateAtHome_endsCanonical {s : State} (bundle lane : Nat) (hw : s.mem.wf = true) :
    EndsCanonical (execTxValidateAtHome bundle lane s) := by
  refine endsCanonical_next ?_
  split
  · exact hw
  · dsimp only
    repeat' split
    all_goals simp [hw]

theorem execTxCommitResult_endsCanonical {s : State} (bundle lane : Nat) (hw : s.mem.wf = true) :
    EndsCanonical (execTxCommitResult bundle lane s) := by
  refine endsCanonical_next ?_
  split
  · split
    · refine wf_ite (by simp [hw]) ?_
      simp only [State.finishLane_mem, State.modThread_mem, State.releaseTurn_mem]
      rw [mem_foldl _ fun _ _ => State.modBlk_mem _ _ _]
      exact wf_foldl _ (fun _ _ h => by simp [h]) _ hw
    · exact hw
  · exact hw

theorem execTurnTokenGrant_endsCanonical {s : State} (die : Nat) (hw : s.mem.wf = true) : EndsCanonical (execTurnTokenGrant die s) :=
  endsCanonical_next (by simp [hw])

theorem execFutureOpAtHome_endsCanonical {s : State} (op : Nat) (hw : s.mem.wf = true) : EndsCanonical (execFutureOpAtHome op s) := by
  refine endsCanonical_next ?_
  split
  · exact hw
  · split
    · dsimp only
      repeat' split
      all_goals simp [hw]
    · exact hw

theorem execFutureAnswer_endsCanonical {s : State} (op : Nat) (hw : s.mem.wf = true) : EndsCanonical (execFutureAnswer op s) := by
  refine endsCanonical_next ?_
  split
  · exact hw
  · exact State.peerReply_wf _ (by simp [hw]) hw

theorem execObjregAtHome_endsCanonical {s : State} (op : Nat) (hw : s.mem.wf = true) : EndsCanonical (execObjregAtHome op s) := by
  refine endsCanonical_next ?_
  refine State.clampAt_wf _ (fun r b pa => ?_) hw
  split
  · exact wf_getD (fun t ht => State.register_wf hw ht) (by simp [hw])
  · exact hw

theorem execCalloArrival_endsCanonical {s : State} (op : Nat) (hw : s.mem.wf = true) : EndsCanonical (execCalloArrival op s) := by
  refine endsCanonical_next ?_
  refine State.clampAt_wf _ (fun r b pa => ?_) hw
  repeat' split
  all_goals simp [hw]

theorem execCombinerWaveFormation_endsCanonical {s : State} (object : Nat) (hw : s.mem.wf = true) :
    EndsCanonical (execCombinerWaveFormation object s) := by
  refine endsCanonical_next ?_
  repeat' split
  all_goals simp [hw]

theorem execCombinerWaveEnd_endsCanonical {s : State} (wave : Nat) (hw : s.mem.wf = true) : EndsCanonical (execCombinerWaveEnd wave s) := by
  refine endsCanonical_next ?_
  split
  · exact hw
  · split
    · refine wf_ite hw ?_
      simp only [State.dropWave_mem]
      rw [mem_foldl]
      · simp [hw]
      · intro u k
        split <;> simp
    · exact hw

theorem execCombinerWaveAbort_endsCanonical {s : State} (wave : Nat) (hw : s.mem.wf = true) :
    EndsCanonical (execCombinerWaveAbort wave s) := by
  refine endsCanonical_next ?_
  split
  · exact hw
  · next w _ =>
    split
    · next lane tr pc o _ _ =>
      dsimp only
      split
      · exact hw
      · have hDesc := State.descWrite_wf (s.waveSeen w) o.desc 32 4 2 (State.descWrite_wf (s.waveSeen w) o.desc 40 8 pc.toNat
          (State.descWrite_wf (s.waveSeen w) o.desc 36 4 (256 * lane + tr.cause) hw))
        rw [State.dropWave_mem, State.replyQueued_mem, mem_foldl _ fun _ _ => State.replyTo_mem _ _ _ _ _]
        exact hDesc
    · exact hw

theorem execCalloReply_endsCanonical {s : State} (op : Nat) (hw : s.mem.wf = true) : EndsCanonical (execCalloReply op s) := by
  refine endsCanonical_next ?_
  repeat' split
  all_goals simp [hw]

theorem execPowerTokenGrant_endsCanonical {s : State} (die : Nat) (hw : s.mem.wf = true) : EndsCanonical (execPowerTokenGrant die s) := by
  refine endsCanonical_next ?_
  dsimp only
  repeat' split
  all_goals simp [hw]

theorem execTileCommandComplete_endsCanonical {s : State} (op : Nat) (hw : s.mem.wf = true) :
    EndsCanonical (execTileCommandComplete op s) := by
  refine endsCanonical_next ?_
  repeat' split
  all_goals simp [hw]

theorem execPartComplete_endsCanonical {s : State} (op : Nat) (hw : s.mem.wf = true) : EndsCanonical (execPartComplete op s) := by
  refine endsCanonical_next ?_
  split
  · exact hw
  · split
    · exact hw
    · refine wf_ite hw ?_
      split
      · simp [hw]
      · extract_lets u p v
        have hLeft : u.mem = s.mem := by simp [u, apply_ite State.mem]
        simp [v, hLeft, hw]

theorem execMsptAtCarver_endsCanonical {s : State} (op : Nat) (hw : s.mem.wf = true) : EndsCanonical (execMsptAtCarver op s) := by
  refine endsCanonical_next ?_
  split
  · exact hw
  · split
    · exact hw
    · dsimp only
      repeat' split
      all_goals simp [hw]

theorem execCarverCompileEnd_endsCanonical {s : State} (op : Nat) (hw : s.mem.wf = true) : EndsCanonical (execCarverCompileEnd op s) := by
  refine endsCanonical_next ?_
  repeat' split
  all_goals simp [hw]

theorem execNodeCompletion_endsCanonical {s : State} (op : Nat) (hw : s.mem.wf = true) : EndsCanonical (execNodeCompletion op s) := by
  refine endsCanonical_next ?_
  repeat' split
  all_goals simp [hw]

theorem execPageLease_endsCanonical {s : State} (task : Nat) (hw : s.mem.wf = true) : EndsCanonical (execPageLease task s) := by
  refine endsCanonical_next ?_
  split
  · exact hw
  · dsimp only
    repeat' split
    all_goals simp [hw]

theorem execPagingDoorbell_endsCanonical {s : State} (partition : Nat) (hw : s.mem.wf = true) :
    EndsCanonical (execPagingDoorbell partition s) := by
  refine endsCanonical_next (State.external_wf _ _ ?_ hw)
  simp [hw]

theorem execRequeue_endsCanonical {s : State} (partition : Nat) (task : BitVec 32) (hw : s.mem.wf = true) :
    EndsCanonical (execRequeue partition task s) := by
  refine endsCanonical_next (State.external_wf _ _ ?_ hw)
  simp [hw]

theorem execCancel_endsCanonical {s : State} (partition : Nat) (task : BitVec 32) (hw : s.mem.wf = true) :
    EndsCanonical (execCancel partition task s) := by
  refine endsCanonical_next (State.external_wf _ _ ?_ hw)
  simp [hw]

theorem execGangAdmission_endsCanonical {s : State} (op quad : Nat) (hw : s.mem.wf = true) :
    EndsCanonical (execGangAdmission op quad s) := by
  refine endsCanonical_next ?_
  split
  · exact hw
  · dsimp only
    repeat' split
    all_goals simp [hw]

theorem execWorkGraphRecordArrival_endsCanonical {s : State} (op : Nat) (hw : s.mem.wf = true) :
    EndsCanonical (execWorkGraphRecordArrival op s) := by
  refine endsCanonical_next ?_
  split
  · exact hw
  · split
    · dsimp only
      repeat' split
      all_goals simp [hw]
    · exact hw

theorem execWorkGraphBundleLaunch_endsCanonical {s : State} (node : Nat) (hw : s.mem.wf = true) :
    EndsCanonical (execWorkGraphBundleLaunch node s) := by
  refine endsCanonical_next ?_
  split
  · exact hw
  · dsimp only
    repeat' split
    all_goals simp [hw]

theorem execPageCompression_endsCanonical {s : State} (partition va : Nat) (hw : s.mem.wf = true) :
    EndsCanonical (execPageCompression partition va s) := by
  refine endsCanonical_next ?_
  split
  · exact hw
  · split
    · exact hw
    · dsimp only
      repeat' split
      all_goals simp [hw]

theorem execPageMigration_endsCanonical {s : State} (partition va : Nat) (hw : s.mem.wf = true) :
    EndsCanonical (execPageMigration partition va s) := by
  refine endsCanonical_next ?_
  repeat' split
  all_goals simp [hw]

theorem execInboundAccess_endsCanonical {s : State} (op partition source : Nat) (va : BitVec 64) (size : Nat) (data : List (BitVec 8))
    (hw : s.mem.wf = true) :
    EndsCanonical (execInboundAccess op partition source va size data s) := by
  refine endsCanonical_next ?_
  dsimp only
  split
  · simp [hw]
  · exact State.external_wf _ _ (by simp [hw]) hw

theorem execInboundTimeout_endsCanonical {s : State} (op : Nat) (hw : s.mem.wf = true) : EndsCanonical (execInboundTimeout op s) := by
  refine endsCanonical_next ?_
  repeat' split
  all_goals simp [hw]

theorem execPwenqAtTarget_endsCanonical {s : State} (op : Nat) (pkg : BitVec 16) (partition : Nat) (desc payload packet : List (BitVec 8))
    (hw : s.mem.wf = true) :
    EndsCanonical (execPwenqAtTarget op pkg partition desc payload packet s) := by
  refine endsCanonical_next ?_
  split
  · simp [hw]
  · exact State.external_wf _ _ (by simp [hw]) hw

theorem execPwenqReply_endsCanonical {s : State} (op : Nat) (code : BitVec 16) (page : BitVec 64) (hw : s.mem.wf = true) :
    EndsCanonical (execPwenqReply op code page s) := by
  refine endsCanonical_next ?_
  split
  · simp [hw]
  · exact State.external_wf _ _ (by simp [hw]) hw
  · exact hw

theorem execPwenqNoReply_endsCanonical {s : State} (op : Nat) (hw : s.mem.wf = true) : EndsCanonical (execPwenqNoReply op s) := by
  refine endsCanonical_next (State.external_wf _ _ ?_ hw)
  simp [hw]

theorem execQueueMap_endsCanonical {s : State} (slot : Nat) (qcb : BitVec 64) (hw : s.mem.wf = true) :
    EndsCanonical (execQueueMap slot qcb s) := by
  refine endsCanonical_next (State.external_wf _ _ ?_ hw)
  simp [hw]

theorem execQueueUnmap_endsCanonical {s : State} (slot : Nat) (hw : s.mem.wf = true) : EndsCanonical (execQueueUnmap slot s) := by
  refine endsCanonical_next (State.external_wf _ _ ?_ hw)
  simp [hw]

theorem execQueueReset_endsCanonical {s : State} (slot : Nat) (hw : s.mem.wf = true) : EndsCanonical (execQueueReset slot s) := by
  refine endsCanonical_next (State.external_wf _ _ ?_ hw)
  simp [hw]

theorem execDoorbell_endsCanonical {s : State} (slot : Nat) (value : BitVec 64) (hw : s.mem.wf = true) :
    EndsCanonical (execDoorbell slot value s) := by
  refine endsCanonical_next (State.external_wf _ _ ?_ hw)
  simp [hw]

theorem execTree_endsCanonical {s : State} (slot : Nat) (hw : s.mem.wf = true) : EndsCanonical (execTree slot s) :=
  endsCanonical_next (by simp [hw])

theorem execTask_endsCanonical {s : State} (slot : Nat) (hw : s.mem.wf = true) : EndsCanonical (execTask slot s) :=
  endsCanonical_next (by simp [hw])

theorem execGang_endsCanonical {s : State} (slot : Nat) (hw : s.mem.wf = true) : EndsCanonical (execGang slot s) :=
  endsCanonical_next (by simp [hw])

theorem execBarrier_endsCanonical {s : State} (slot : Nat) (hw : s.mem.wf = true) : EndsCanonical (execBarrier slot s) :=
  endsCanonical_next (by simp [hw])

theorem execCopy_endsCanonical {s : State} (slot : Nat) (hw : s.mem.wf = true) : EndsCanonical (execCopy slot s) :=
  endsCanonical_next (by simp [hw])

theorem execSignal_endsCanonical {s : State} (slot : Nat) (hw : s.mem.wf = true) : EndsCanonical (execSignal slot s) :=
  endsCanonical_next (by simp [hw])

theorem execWnode_endsCanonical {s : State} (slot : Nat) (hw : s.mem.wf = true) : EndsCanonical (execWnode slot s) :=
  endsCanonical_next (by simp [hw])

theorem execMeasure_endsCanonical {s : State} (slot : Nat) (hw : s.mem.wf = true) : EndsCanonical (execMeasure slot s) :=
  endsCanonical_next (by simp [hw])

theorem execNopPacket_endsCanonical {s : State} (slot : Nat) (hw : s.mem.wf = true) : EndsCanonical (execNopPacket slot s) :=
  endsCanonical_next (by simp [hw])

theorem execPacketCompletion_endsCanonical {s : State} (op : Nat) (hw : s.mem.wf = true) : EndsCanonical (execPacketCompletion op s) := by
  refine endsCanonical_next ?_
  split
  · exact hw
  · split
    · exact hw
    · dsimp only
      repeat' split
      all_goals simp [hw]

theorem execHeldRecordFlush_endsCanonical {s : State} (partition : Nat) (hw : s.mem.wf = true) :
    EndsCanonical (execHeldRecordFlush partition s) :=
  endsCanonical_next (by simp [hw])

theorem execInterruptCoalesceTimeout_endsCanonical {s : State} (partition : Nat) (hw : s.mem.wf = true) :
    EndsCanonical (execInterruptCoalesceTimeout partition s) := by
  refine endsCanonical_next ?_
  dsimp only
  repeat' split
  all_goals simp [hw]

theorem execPartitionConfigCommand_endsCanonical {s : State} (value : BitVec 32) (hw : s.mem.wf = true) :
    EndsCanonical (execPartitionConfigCommand value s) :=
  endsCanonical_next (by simp [hw])

theorem execPartitionInstall_endsCanonical {s : State} (hw : s.mem.wf = true) : EndsCanonical (execPartitionInstall s) := by
  refine endsCanonical_next ?_
  split
  · exact hw
  · dsimp only
    split <;> exact hw

theorem execLeaderRenew_endsCanonical {s : State} (hw : s.mem.wf = true) : EndsCanonical (execLeaderRenew s) := by
  refine endsCanonical_next ?_
  repeat' split
  all_goals simp [hw]

theorem execLeaderPoll_endsCanonical {s : State} (die : Nat) (hw : s.mem.wf = true) : EndsCanonical (execLeaderPoll die s) := by
  refine endsCanonical_next ?_
  repeat' split
  all_goals simp [hw]

theorem execHeadstockTakeover_endsCanonical {s : State} (die : Nat) (hw : s.mem.wf = true) :
    EndsCanonical (execHeadstockTakeover die s) := by
  refine endsCanonical_next ?_
  refine wf_ite hw ?_
  exact wf_foldl _ (fun _ _ h => by simp [h]) _ (wf_foldl _ (fun _ _ h => wf_ite (by simp [h]) h) _ hw)

theorem execObservationControlWrite_endsCanonical {s : State} (partition : Nat) (value : BitVec 32) (hw : s.mem.wf = true) :
    EndsCanonical (execObservationControlWrite partition value s) := by
  refine endsCanonical_next (State.external_wf _ _ ?_ hw)
  simp [hw]

theorem execStopAtTheMark_endsCanonical {s : State} (partition : Nat) (hw : s.mem.wf = true) :
    EndsCanonical (execStopAtTheMark partition s) := by
  refine endsCanonical_next (State.external_wf _ _ ?_ hw)
  simp [hw]

theorem execResumeThePartition_endsCanonical {s : State} (partition : Nat) (hw : s.mem.wf = true) :
    EndsCanonical (execResumeThePartition partition s) := by
  refine endsCanonical_next (State.external_wf _ _ ?_ hw)
  simp [hw]

theorem execHaltTask_endsCanonical {s : State} (partition : Nat) (hw : s.mem.wf = true) : EndsCanonical (execHaltTask partition s) := by
  refine endsCanonical_next (State.external_wf _ _ ?_ hw)
  simp [hw]

theorem execResumeTask_endsCanonical {s : State} (partition : Nat) (hw : s.mem.wf = true) : EndsCanonical (execResumeTask partition s) := by
  refine endsCanonical_next (State.external_wf _ _ ?_ hw)
  simp [hw]

theorem execSetSingleStep_endsCanonical {s : State} (partition : Nat) (hw : s.mem.wf = true) :
    EndsCanonical (execSetSingleStep partition s) := by
  refine endsCanonical_next (State.external_wf _ _ ?_ hw)
  simp [hw]

theorem execClearSingleStep_endsCanonical {s : State} (partition : Nat) (hw : s.mem.wf = true) :
    EndsCanonical (execClearSingleStep partition s) := by
  refine endsCanonical_next (State.external_wf _ _ ?_ hw)
  simp [hw]

theorem execResumeObservation_endsCanonical {s : State} (partition : Nat) (hw : s.mem.wf = true) :
    EndsCanonical (execResumeObservation partition s) := by
  refine endsCanonical_next (State.external_wf _ _ ?_ hw)
  simp [hw]

theorem execInputBoundary_endsCanonical {s : State} (partition : Nat) (hw : s.mem.wf = true) :
    EndsCanonical (execInputBoundary partition s) := by
  refine endsCanonical_next ?_
  repeat' split
  all_goals simp [hw]

theorem execCheckpoint_endsCanonical {s : State} (partition : Nat) (hw : s.mem.wf = true) : EndsCanonical (execCheckpoint partition s) := by
  refine endsCanonical_next ?_
  repeat' split
  all_goals simp [hw]

theorem execLockstepInputMessage_endsCanonical {s : State} (partition kind target : Nat) (value : BitVec 64) (hw : s.mem.wf = true) :
    EndsCanonical (execLockstepInputMessage partition kind target value s) := by
  refine endsCanonical_next ?_
  dsimp only
  repeat' split
  all_goals simp [hw]

theorem execLockstepHashArrival_endsCanonical {s : State} (partition : Nat) (hash : List (BitVec 8)) (hw : s.mem.wf = true) :
    EndsCanonical (execLockstepHashArrival partition hash s) := by
  refine endsCanonical_next ?_
  dsimp only
  repeat' split
  all_goals simp [hw]

theorem execLockstepHashTimeout_endsCanonical {s : State} (partition : Nat) (hw : s.mem.wf = true) :
    EndsCanonical (execLockstepHashTimeout partition s) := by
  refine endsCanonical_next ?_
  dsimp only
  repeat' split
  all_goals simp [hw]

theorem execFreezePin_endsCanonical {s : State} (hw : s.mem.wf = true) : EndsCanonical (execFreezePin s) :=
  endsCanonical_next (by simp [hw])

theorem execFreezeRegisterWrite_endsCanonical {s : State} (value : BitVec 32) (hw : s.mem.wf = true) :
    EndsCanonical (execFreezeRegisterWrite value s) := by
  refine endsCanonical_next ?_
  repeat' split
  all_goals simp [hw]

theorem execSelect_endsCanonical {s : State} (unit : BitVec 32) (hw : s.mem.wf = true) : EndsCanonical (execSelect unit s) :=
  endsCanonical_next (by simp [hw])

theorem execRead_endsCanonical {s : State} (hw : s.mem.wf = true) : EndsCanonical (execRead s) := by
  refine endsCanonical_next ?_
  repeat' split
  all_goals simp [hw]

theorem execIdcode_endsCanonical {s : State} (hw : s.mem.wf = true) : EndsCanonical (execIdcode s) :=
  endsCanonical_next (by simp [hw])

theorem execBypass_endsCanonical {s : State} (hw : s.mem.wf = true) : EndsCanonical (execBypass s) :=
  endsCanonical_next (by simp [hw])

theorem execPowerCapWrite_endsCanonical {s : State} (value : BitVec 32) (hw : s.mem.wf = true) :
    EndsCanonical (execPowerCapWrite value s) :=
  endsCanonical_next (by simp [hw])

theorem execPowerOverage_endsCanonical {s : State} (hw : s.mem.wf = true) : EndsCanonical (execPowerOverage s) := by
  refine endsCanonical_next ?_
  repeat' split
  all_goals simp [hw]

theorem execMonitorRefresh_endsCanonical {s : State} (die : Nat) (hw : s.mem.wf = true) : EndsCanonical (execMonitorRefresh die s) := by
  refine endsCanonical_next ?_
  repeat' split
  all_goals simp [hw]

theorem execThermalRestore_endsCanonical {s : State} (hw : s.mem.wf = true) : EndsCanonical (execThermalRestore s) := by
  refine endsCanonical_next ?_
  repeat' split
  all_goals simp [hw]

theorem execVoltageStop_endsCanonical {s : State} (hw : s.mem.wf = true) : EndsCanonical (execVoltageStop s) := by
  refine endsCanonical_next ?_
  repeat' split
  all_goals simp [hw]

theorem execAttestationChallenge_endsCanonical {s : State} (challenge : List (BitVec 8)) (hw : s.mem.wf = true) :
    EndsCanonical (execAttestationChallenge challenge s) :=
  endsCanonical_next (by simp [hw])

theorem execPowerOnReset_endsCanonical (s : State) : EndsCanonical (execPowerOnReset s) := endsCanonical_next (State.afterReset_wf s)

theorem execBringupStep_endsCanonical {s : State} (hw : s.mem.wf = true) : EndsCanonical (execBringupStep s) := by
  refine endsCanonical_next ?_
  split
  · exact hw
  · split <;> exact hw
  · exact hw
  · split
    · exact hw
    · split
      · exact hw
      · exact wf_getD (fun t ht => by rw [State.beginSign_mem ht]; exact hw) hw
  · exact hw
  · exact hw

theorem execHostRegisterWrite_endsCanonical {s : State} (offset : BitVec 32) (size : Nat) (value : BitVec 64) (hw : s.mem.wf = true) :
    EndsCanonical (execHostRegisterWrite offset size value s) := by
  refine endsCanonical_next ?_
  split
  · exact State.external_wf _ _ (by simp [hw]) hw
  · simp [hw]

theorem execLapseClockPassed_endsCanonical {s : State} (bundle lane : Nat) (hw : s.mem.wf = true) :
    EndsCanonical (execLapseClockPassed bundle lane s) :=
  endsCanonical_next (by simp [hw])

theorem execStallCounterClock_endsCanonical {s : State} (block : Nat) (hw : s.mem.wf = true) :
    EndsCanonical (execStallCounterClock block s) :=
  endsCanonical_next (by simp [hw])

theorem execPowerFallsBelowCap_endsCanonical {s : State} (hw : s.mem.wf = true) : EndsCanonical (execPowerFallsBelowCap s) := by
  refine endsCanonical_next ?_
  repeat' split
  all_goals simp [hw]

theorem execMsiXVectorUnmask_endsCanonical {s : State} (vector : Nat) (hw : s.mem.wf = true) :
    EndsCanonical (execMsiXVectorUnmask vector s) :=
  endsCanonical_next (by simp [hw])

theorem execFaultQueueReadIndexWrite_endsCanonical {s : State} (partition : Nat) (value : BitVec 64) (hw : s.mem.wf = true) :
    EndsCanonical (execFaultQueueReadIndexWrite partition value s) := by
  refine endsCanonical_next (State.external_wf _ _ ?_ hw)
  simp [hw]

theorem execObjrstAtHome_endsCanonical {s : State} (op : Nat) (hw : s.mem.wf = true) : EndsCanonical (execObjrstAtHome op s) := by
  refine endsCanonical_next ?_
  refine State.clampAt_wf _ (fun r b pa => ?_) hw
  split <;> simp [hw]

theorem execPageMoveEnd_endsCanonical {s : State} (op : Nat) (hw : s.mem.wf = true) : EndsCanonical (execPageMoveEnd op s) := by
  refine endsCanonical_next ?_
  split
  · exact hw
  · next m _ =>
    dsimp only
    refine State.putLeaf_wf _ _ ?_
    rw [State.frameTaken_mem]
    exact Mem.wf_foldl _ (fun _ _ h => writeByte_wf _ _ _ h) _ (Mem.wf_filter _ hw)

theorem execHottestReadingRead_endsCanonical {s : State} (die : Nat) (hw : s.mem.wf = true) :
    EndsCanonical (execHottestReadingRead die s) := by
  refine endsCanonical_next ?_
  repeat' split
  all_goals simp [hw]

theorem execPowerFailure_endsCanonical (s : State) : EndsCanonical (execPowerFailure s) := endsCanonical_next (State.afterReset_wf s)

/-- Every instruction and every event leaves memory in its canonical form. -/
theorem exec_endsCanonical (i : Instr) {s : State} (hw : s.mem.wf = true) : EndsCanonical (exec i s) := by
  unfold exec
  cases i
  case movH | addH | subH | mulH | andH | orH | xorH | shlH | shrH | sarH | minH | maxH | faddH | fmulH | fminH | fmaxH | add | sub |
      and | or | xor | andn | addD | subD | shl | shr | sar | rol | ror | bfxi | bfxz | bfi | minI32 | maxI32 | minZ32 | maxZ32 |
      addmin | addmax | absd | clamp | mullo | mulhiI32 | mulhiZ32 | madlo | divI32 | divZ32 | remI32 | remZ32 | popc | clz | ctz |
      brev | pfxp | perm | find | andi | ori | xori | shli | shri | sari | roli | movi | cmp | cmpi | sel | fadd | fsub | fmul | fmin |
      fmax | fabs | fneg | fcpys | ffma | fma2 | dfma | duaddF16 | duaddBf16 | dumulF16 | dumulBf16 | duminF16 | duminBf16 | dumaxF16 |
      dumaxBf16 | dadd | dsub | dmul | dmin | dmax | ddiv | dsqrt | frcp | frsq | fsqrt | fdiv | fexp2 | flog2 | fsinpi | fcospi | cvt |
      cvtp | cvtpEf | dot4I8 | dot4Z8 | dot8I4 | dot8Z4 | dot4D8a | dot4D8b | dot8D4 | dot2Bf16 | mke | waitf | xnext | nop | setrm |
      clrff => exact runPure_endsCanonical _ _ hw
  case addi | pfetch | fenceX | fenceEng | txa | barWait | crply | acwait | cont | pwenq | mwait | pwait | calrd | stmap | nodeRd |
      nodeIn | mtok | br | call | jmp | callr | ret | srd | swr | trapi | brk | kill | oreg =>
    exact runLanes_endsCanonical _ _ (fun _ _ _ _ hu => by simp [hu]) hw
  case stflush => exact execStflush_endsCanonical _ hw
  case barAddb => exact execBarAddb_endsCanonical _ _ _ hw
  case exit => exact execExit_endsCanonical hw
  case acp => exact execAcp_endsCanonical _ _ _ _ _ _ hw
  case part => exact execPart_endsCanonical _ hw
  case acb => exact execAcb_endsCanonical _ _ hw
  case carvinv => exact execCarvinv_endsCanonical _ hw
  case stunmap => exact execStunmap_endsCanonical _ hw
  case rett => exact execRett_endsCanonical hw
  case killb => exact execKillb_endsCanonical hw
  case owr => exact execOwr_endsCanonical _ _ hw
  case opc => exact execOpc_endsCanonical _ hw
  case callo | wrec | nodeUp | nodeDn => exact runEntry_endsCanonical _ _ (fun _ _ _ _ _ hu => by simp [hu]) hw
  case yield => exact runWith_endsCanonical _ _ (fun _ _ _ _ hu => by simp [hu]) hw
  case fenceAr => exact execFenceAr_endsCanonical _ _ hw
  case fenceSc => exact execFenceSc_endsCanonical _ _ hw
  case refetchFence => exact execRefetchFence_endsCanonical hw
  case txb => exact execTxb_endsCanonical _ hw
  case txe => exact execTxe_endsCanonical hw
  case setprg => exact execSetprg_endsCanonical _ hw
  case mring => exact execMring_endsCanonical _ hw
  case calcfg => exact execCalcfg_endsCanonical _ _ hw
  case calref => exact execCalref_endsCanonical _ _ hw
  case calbnd => exact execCalbnd_endsCanonical _ _ hw
  case setstrm => exact execSetstrm_endsCanonical _ _ hw
  case halt => exact execHalt_endsCanonical hw
  case refetch => exact execRefetch_endsCanonical hw
  case lgetIdx | lgetUp | lgetDn | lgetXor | ballot | redAddI32 | scanAddI32 | redMinI32 | rcv | mfrag => exact runArrive_endsCanonical _ hw
  case ld | ldacqW | ldacqD | ldsmpW => exact runLoad_endsCanonical _ _ _ _ _ _ _ _ hw
  case st | strelW | strelD => exact runStore_endsCanonical _ _ _ _ _ _ hw
  case atomAdd | atomMinI32 | atomMaxI32 | atomMinZ32 | atomMaxZ32 | atomAnd | atomOr | atomXor | atomExch | atomCas | atomIncw |
      atomDecw | atomFaddF32 | atomFminF32 | atomFmaxF32 | atomAddD => exact runAtom_endsCanonical _ _ _ _ _ _ _ hw
  case fput | fputt | fget => exact runFuture_endsCanonical _ _ _ _ _ _ hw
  case barArr | barSync | barChk => exact runBar_endsCanonical _ _ _ _ _ hw
  case objreg | objrst => exact runObject_endsCanonical _ _ _ _ hw
  case cbpush | cbcmt | cbwait | cbpop => exact runBuf_endsCanonical _ _ _ _ _ _ hw
  case regrow | regshr => exact runRequest_endsCanonical _ _ _ hw
  case mtile | mspt => exact runTile_endsCanonical _ _ _ hw
  case pred | ext => exact lead_endsCanonical _ _ hw
  case laneResultWrite => exact execLaneResultWrite_endsCanonical _ hw
  case mfragResultWrite => exact execMfragResultWrite_endsCanonical _ hw
  case yieldEnd => exact execYieldEnd_endsCanonical _ _ hw
  case lateResultArrival => exact execLateResultArrival_endsCanonical _ hw
  case storeQueueDrain => exact execStoreQueueDrain_endsCanonical _ hw
  case homeStoreArrival => exact execHomeStoreArrival_endsCanonical _ hw
  case storeAcknowledgement => exact execStoreAcknowledgement_endsCanonical _ hw
  case homeLoadRequest => exact execHomeLoadRequest_endsCanonical _ hw
  case ctimeTick => exact execCtimeTick_endsCanonical _ hw
  case remoteCopyExpiry => exact execRemoteCopyExpiry_endsCanonical _ _ hw
  case negativeAcknowledgement => exact execNegativeAcknowledgement_endsCanonical _ hw
  case backoffResend => exact execBackoffResend_endsCanonical _ hw
  case peerLoadFailure => exact execPeerLoadFailure_endsCanonical _ _ hw
  case stashFillReturn => exact execStashFillReturn_endsCanonical _ _ _ hw
  case stashLineRecall => exact execStashLineRecall_endsCanonical _ _ _ hw
  case engineRegistration => exact execEngineRegistration_endsCanonical _ hw
  case engineLineWrite => exact execEngineLineWrite_endsCanonical _ hw
  case copyComplete => exact execCopyComplete_endsCanonical _ hw
  case acbSlotCommit => exact execAcbSlotCommit_endsCanonical _ hw
  case networkBarrierArrival => exact execNetworkBarrierArrival_endsCanonical _ _ hw
  case blockAdmission => exact execBlockAdmission_endsCanonical _ _ hw
  case blockCompletion => exact execBlockCompletion_endsCanonical _ hw
  case regrowGrant => exact execRegrowGrant_endsCanonical _ hw
  case regshrShed => exact execRegshrShed_endsCanonical _ hw
  case handlerWaveFormation => exact execHandlerWaveFormation_endsCanonical _ hw
  case impreciseFault => exact execImpreciseFault_endsCanonical _ _ hw
  case preemptionRequest => exact execPreemptionRequest_endsCanonical _ hw
  case drainLimitExpiry => exact execDrainLimitExpiry_endsCanonical _ hw
  case blockRestore => exact execBlockRestore_endsCanonical _ _ hw
  case urgentAdmissionTimeout => exact execUrgentAdmissionTimeout_endsCanonical _ hw
  case txValidateAtHome => exact execTxValidateAtHome_endsCanonical _ _ hw
  case txCommitResult => exact execTxCommitResult_endsCanonical _ _ hw
  case turnTokenGrant => exact execTurnTokenGrant_endsCanonical _ hw
  case futureOpAtHome => exact execFutureOpAtHome_endsCanonical _ hw
  case futureAnswer => exact execFutureAnswer_endsCanonical _ hw
  case objregAtHome => exact execObjregAtHome_endsCanonical _ hw
  case calloArrival => exact execCalloArrival_endsCanonical _ hw
  case combinerWaveFormation => exact execCombinerWaveFormation_endsCanonical _ hw
  case combinerWaveEnd => exact execCombinerWaveEnd_endsCanonical _ hw
  case combinerWaveAbort => exact execCombinerWaveAbort_endsCanonical _ hw
  case calloReply => exact execCalloReply_endsCanonical _ hw
  case powerTokenGrant => exact execPowerTokenGrant_endsCanonical _ hw
  case tileCommandComplete => exact execTileCommandComplete_endsCanonical _ hw
  case partComplete => exact execPartComplete_endsCanonical _ hw
  case msptAtCarver => exact execMsptAtCarver_endsCanonical _ hw
  case carverCompileEnd => exact execCarverCompileEnd_endsCanonical _ hw
  case nodeCompletion => exact execNodeCompletion_endsCanonical _ hw
  case pageLease => exact execPageLease_endsCanonical _ hw
  case pagingDoorbell => exact execPagingDoorbell_endsCanonical _ hw
  case requeue => exact execRequeue_endsCanonical _ _ hw
  case cancel => exact execCancel_endsCanonical _ _ hw
  case gangAdmission => exact execGangAdmission_endsCanonical _ _ hw
  case workGraphRecordArrival => exact execWorkGraphRecordArrival_endsCanonical _ hw
  case workGraphBundleLaunch => exact execWorkGraphBundleLaunch_endsCanonical _ hw
  case pageCompression => exact execPageCompression_endsCanonical _ _ hw
  case pageMigration => exact execPageMigration_endsCanonical _ _ hw
  case inboundAccess => exact execInboundAccess_endsCanonical _ _ _ _ _ _ hw
  case inboundTimeout => exact execInboundTimeout_endsCanonical _ hw
  case pwenqAtTarget => exact execPwenqAtTarget_endsCanonical _ _ _ _ _ _ hw
  case pwenqReply => exact execPwenqReply_endsCanonical _ _ _ hw
  case pwenqNoReply => exact execPwenqNoReply_endsCanonical _ hw
  case queueMap => exact execQueueMap_endsCanonical _ _ hw
  case queueUnmap => exact execQueueUnmap_endsCanonical _ hw
  case queueReset => exact execQueueReset_endsCanonical _ hw
  case doorbell => exact execDoorbell_endsCanonical _ _ hw
  case tree => exact execTree_endsCanonical _ hw
  case task => exact execTask_endsCanonical _ hw
  case gang => exact execGang_endsCanonical _ hw
  case barrier => exact execBarrier_endsCanonical _ hw
  case copy => exact execCopy_endsCanonical _ hw
  case signal => exact execSignal_endsCanonical _ hw
  case wnode => exact execWnode_endsCanonical _ hw
  case measure => exact execMeasure_endsCanonical _ hw
  case nopPacket => exact execNopPacket_endsCanonical _ hw
  case packetCompletion => exact execPacketCompletion_endsCanonical _ hw
  case heldRecordFlush => exact execHeldRecordFlush_endsCanonical _ hw
  case interruptCoalesceTimeout => exact execInterruptCoalesceTimeout_endsCanonical _ hw
  case partitionConfigCommand => exact execPartitionConfigCommand_endsCanonical _ hw
  case partitionInstall => exact execPartitionInstall_endsCanonical hw
  case leaderRenew => exact execLeaderRenew_endsCanonical hw
  case leaderPoll => exact execLeaderPoll_endsCanonical _ hw
  case headstockTakeover => exact execHeadstockTakeover_endsCanonical _ hw
  case observationControlWrite => exact execObservationControlWrite_endsCanonical _ _ hw
  case stopAtTheMark => exact execStopAtTheMark_endsCanonical _ hw
  case resumeThePartition => exact execResumeThePartition_endsCanonical _ hw
  case haltTask => exact execHaltTask_endsCanonical _ hw
  case resumeTask => exact execResumeTask_endsCanonical _ hw
  case setSingleStep => exact execSetSingleStep_endsCanonical _ hw
  case clearSingleStep => exact execClearSingleStep_endsCanonical _ hw
  case resumeObservation => exact execResumeObservation_endsCanonical _ hw
  case inputBoundary => exact execInputBoundary_endsCanonical _ hw
  case checkpoint => exact execCheckpoint_endsCanonical _ hw
  case lockstepInputMessage => exact execLockstepInputMessage_endsCanonical _ _ _ _ hw
  case lockstepHashArrival => exact execLockstepHashArrival_endsCanonical _ _ hw
  case lockstepHashTimeout => exact execLockstepHashTimeout_endsCanonical _ hw
  case freezePin => exact execFreezePin_endsCanonical hw
  case freezeRegisterWrite => exact execFreezeRegisterWrite_endsCanonical _ hw
  case select => exact execSelect_endsCanonical _ hw
  case read => exact execRead_endsCanonical hw
  case idcode => exact execIdcode_endsCanonical hw
  case bypass => exact execBypass_endsCanonical hw
  case powerCapWrite => exact execPowerCapWrite_endsCanonical _ hw
  case powerOverage => exact execPowerOverage_endsCanonical hw
  case monitorRefresh => exact execMonitorRefresh_endsCanonical _ hw
  case thermalRestore => exact execThermalRestore_endsCanonical hw
  case voltageStop => exact execVoltageStop_endsCanonical hw
  case attestationChallenge => exact execAttestationChallenge_endsCanonical _ hw
  case powerOnReset => exact execPowerOnReset_endsCanonical s
  case bringupStep => exact execBringupStep_endsCanonical hw
  case hostRegisterWrite => exact execHostRegisterWrite_endsCanonical _ _ _ hw
  case lapseClockPassed => exact execLapseClockPassed_endsCanonical _ _ hw
  case stallCounterClock => exact execStallCounterClock_endsCanonical _ hw
  case powerFallsBelowCap => exact execPowerFallsBelowCap_endsCanonical hw
  case msiXVectorUnmask => exact execMsiXVectorUnmask_endsCanonical _ hw
  case faultQueueReadIndexWrite => exact execFaultQueueReadIndexWrite_endsCanonical _ _ hw
  case objrstAtHome => exact execObjrstAtHome_endsCanonical _ hw
  case pageMoveEnd => exact execPageMoveEnd_endsCanonical _ hw
  case hottestReadingRead => exact execHottestReadingRead_endsCanonical _ hw
  case powerFailure => exact execPowerFailure_endsCanonical s

/-- Settles O6: what a step is about to do, what it executes, what follows an instruction and what settles after it each keep the form. -/
theorem stepKeepsMemoryCanonical : Obligations.StepKeepsMemoryCanonical := by
  intro s t hw ht
  have hMove := State.move_wf hw
  simp only [step] at ht
  split at ht
  · next hDone =>
    cases ht
    rw [hDone] at hMove
    exact State.afterStep_wf _ hMove
  · next hRun =>
    rw [hRun] at hMove
    split at ht
    · next u hExec =>
      cases ht
      exact State.afterStep_wf _ (State.afterInstr_wf _ _ (exec_endsCanonical _ hMove u hExec))
    · cases ht
    · cases ht

/-- Settles O7: memory is empty after reset. -/
theorem resetMemoryIsCanonical : Obligations.ResetMemoryIsCanonical := by rfl

end Sys2Proof.Machine
end

section
/-! SUPPORT. Loads and stores at issue (R147, R150, R158 to R160, R244, R417): what one lane's access does outside a transaction and
inside one, and the lanes of a group one after another. -/

namespace Sys2Proof.Machine

/-! Threads where an access changes the state. -/

theorem State.thread_of_bundles {s t : State} (h : t.bundles = s.bundles) (b l : Nat) : t.thread b l = s.thread b l := by
  simp only [State.thread, State.thread?, State.bundle?, h]

theorem State.thread_modThread_tx (s : State) (b l n : Nat) {f : Thread → Thread} (hf : ∀ t, (f t).tx = t.tx) :
    ((s.modThread b l f).thread b n).tx = (s.thread b n).tx := by
  have hFind : (s.modThread b l f).bundle? b = (s.bundle? b).map fun x => { x with threads := x.threads.modify l f } :=
    State.bundle?_modBundle s b _ fun _ => rfl
  simp only [State.thread, State.thread?, hFind]
  cases s.bundle? b with
  | none => rfl
  | some x =>
    simp only [Option.map_some, Option.bind_some, List.getElem?_modify]
    cases x.threads[n]? with
    | none => rfl
    | some t => by_cases hln : l = n <;> simp [hln, hf]

theorem Thread.mark_tx (t : Thread) (r : Nat) (st : RegState) : (t.mark r st).tx = t.tx := by
  simp only [Thread.mark, Thread.put]
  split <;> rfl

theorem Thread.marks_tx (t : Thread) (r : Nat) (st : RegState) (n : Nat) : (t.marks r st n).tx = t.tx := by
  induction n generalizing t r with
  | zero => rfl
  | succ n ih => exact (ih _ _).trans (Thread.mark_tx t r st)

theorem State.modBlk_bundles (s : State) (b : Bundle) (f : Block → Block) : (s.modBlk b f).bundles = s.bundles := by
  simp only [State.modBlk]
  split <;> rfl

theorem State.offend_bundles (s : State) (b : Bundle) (p : Place) (space : Nat) (ea : DWord) : (s.offend b p space ea).bundles = s.bundles := by
  simp only [State.offend]
  split
  · exact State.modBlk_bundles s b _
  · rfl

theorem State.sampleOf_bundles (s : State) (b : Bundle) (smp : Bool) : (s.sampleOf b smp).1.bundles = s.bundles := by
  simp only [State.sampleOf]
  split <;> rfl

theorem State.addReq_bundles (s : State) (r : Req) : (s.addReq r).bundles = s.bundles := by
  simp only [State.addReq]
  split <;> rfl

theorem Meets.bundle_id {s : State} {g : Group} {b : Bundle} {i : Instr} (h : Meets s g b i) : b.id = g.bundle := by
  have hFound := List.find?_some h.bundle
  simpa using hFound

/-- The thread of a lane of the group is that of its bundle. -/
theorem Meets.threads_eq {s : State} {g : Group} {b : Bundle} {i : Instr} (h : Meets s g b i) {l : Nat} (hl : l ∈ g.lanes) :
    b.threads[l]? = some (s.taken.next.thread b.id l) := by
  obtain ⟨t, ht, _⟩ := h.runs l hl
  have hThread : s.thread b.id l = t := by
    simp only [State.thread, State.thread?, h.bundle_id, h.bundle, Option.bind_some, ht, Option.getD_some]
  rw [ht, ← hThread]
  rfl

/-! An access of one lane. -/

/-- The state in which a load's request is made, and how it is sampled: the access has met its place (R150, R417). -/
def State.metLoad (s : State) (b : Bundle) (stream : Nat) (ea : DWord) (size : Nat) (smp : Bool) : State × Nat :=
  (s.offend b (s.place b stream ea size) (spaceOf (s.streamWord b stream)) ea).sampleOf b smp

theorem State.metLoad_bundles (s : State) (b : Bundle) (stream : Nat) (ea : DWord) (size : Nat) (smp : Bool) :
    (s.metLoad b stream ea size smp).1.bundles = s.bundles :=
  (State.sampleOf_bundles _ b smp).trans (State.offend_bundles s b _ _ ea)

/-- A place that has an address in a transaction is a place: nothing offends. -/
theorem State.offend_of_txAddr (s : State) (b : Bundle) {p : Place} {a : Nat} (h : p.txAddr = some a) (space : Nat) (ea : DWord) :
    s.offend b p space ea = s := by
  have hPlace : p ≠ .nowhere := by rintro rfl; cases h
  simp [State.offend, hPlace]

/-- A load of a lane outside a transaction. -/
theorem State.issueLoad_outside {s : State} {b : Bundle} {l : Nat} (hx : (s.thread b.id l).tx = none) (g : Group) (stream : Nat) (ea : DWord)
    (size code dst : Nat) (acq : Option Nat) (smp : Bool) (entry : Nat) :
    s.issueLoad g b l stream ea size code dst acq smp entry =
      (((s.metLoad b stream ea size smp).1.addReq ((s.metLoad b stream ea size smp).1.newReq g b l stream
        (.load code dst acq (s.metLoad b stream ea size smp).2) (s.place b stream ea size) ea size entry)).modThread b.id l
          fun t => t.marks dst .pending (ldRegs code), .next) := by
  have hMet : ((s.metLoad b stream ea size smp).1.thread b.id l).tx = none := by
    rw [State.thread_of_bundles (State.metLoad_bundles s b stream ea size smp)]
    exact hx
  simp only [State.metLoad] at hMet ⊢
  simp only [State.issueLoad, hMet, if_true]

/-- A load of a lane inside a transaction is its transaction's; it marks the destination where the lane goes on. -/
theorem State.issueLoad_inside {s t : State} {b : Bundle} {l : Nat} {x : Tx} (hx : (s.thread b.id l).tx = some x) (g : Group) (stream : Nat)
    (ea : DWord) (size code dst : Nat) (acq : Option Nat) (smp : Bool) (entry : Nat)
    (ht : (s.metLoad b stream ea size smp).1.issueTxLoad g b l stream (.load code dst acq (s.metLoad b stream ea size smp).2)
      (s.place b stream ea size) ea size entry x = (t, .next)) :
    s.issueLoad g b l stream ea size code dst acq smp entry = (t.modThread b.id l fun t => t.marks dst .pending (ldRegs code), .next) := by
  have hMet : ((s.metLoad b stream ea size smp).1.thread b.id l).tx = some x := by
    rw [State.thread_of_bundles (State.metLoad_bundles s b stream ea size smp)]
    exact hx
  simp only [State.metLoad] at hMet ht
  simp only [State.issueLoad, hMet, ht, if_true]

/-- A load of a lane whose transaction aborts. -/
theorem State.issueLoad_aborts {s t : State} {b : Bundle} {l : Nat} {x : Tx} (hx : (s.thread b.id l).tx = some x) (g : Group) (stream : Nat)
    (ea : DWord) (size code dst : Nat) (acq : Option Nat) (smp : Bool) (entry : Nat)
    (ht : (s.metLoad b stream ea size smp).1.issueTxLoad g b l stream (.load code dst acq (s.metLoad b stream ea size smp).2)
      (s.place b stream ea size) ea size entry x = (t, .gone)) :
    s.issueLoad g b l stream ea size code dst acq smp entry = (t, .gone) := by
  have hMet : ((s.metLoad b stream ea size smp).1.thread b.id l).tx = some x := by
    rw [State.thread_of_bundles (State.metLoad_bundles s b stream ea size smp)]
    exact hx
  simp only [State.metLoad] at hMet ht
  simp [State.issueLoad, hMet, ht]

/-! A load inside a transaction: the write set answers it, or its line joins the read set, or the read set is full (R244). -/

theorem State.place_next (s : State) (b : Bundle) (stream : Nat) (ea : DWord) (n : Nat) : s.next.place b stream ea n = s.place b stream ea n := rfl

theorem State.sampleOf_next (s : State) (b : Bundle) (smp : Bool) :
    s.next.sampleOf b smp = ((s.sampleOf b smp).1.next, (s.sampleOf b smp).2) := by
  have hPart : s.next.part (s.next.partOf b) = s.part (s.partOf b) := rfl
  have hCore : s.next.core b.core = s.core b.core := rfl
  simp only [State.sampleOf, hPart, hCore]
  split <;> rfl

theorem State.newReq_next_sampleOf (s : State) (b : Bundle) (smp : Bool) (g : Group) (l stream : Nat) (kind : ReqKind) (pl : Place) (ea : DWord)
    (size entry : Nat) : (s.sampleOf b smp).1.next.newReq g b l stream kind pl ea size entry =
      { s.newReq g b l stream kind pl ea size entry with id := s.fresh + 1 } := by
  simp only [State.sampleOf]
  split <;> rfl

theorem State.metLoad_of_txAddr {s : State} {b : Bundle} {stream size a : Nat} {ea : DWord} (ha : (s.place b stream ea size).txAddr = some a)
    (smp : Bool) : s.metLoad b stream ea size smp = s.sampleOf b smp := by
  rw [State.metLoad, State.offend_of_txAddr s b ha]

theorem State.metLoad_next_of_txAddr {s : State} {b : Bundle} {stream size a : Nat} {ea : DWord}
    (ha : (s.place b stream ea size).txAddr = some a) (smp : Bool) :
    s.next.metLoad b stream ea size smp = ((s.metLoad b stream ea size smp).1.next, (s.metLoad b stream ea size smp).2) := by
  rw [State.metLoad_of_txAddr ha, State.metLoad_of_txAddr (s := s.next) ha, State.sampleOf_next]

/-- The request of a load inside a transaction, whose entry takes the number that is free before it. -/
def State.txAsk (s : State) (g : Group) (b : Bundle) (l stream : Nat) (kind : ReqKind) (ea : DWord) (size : Nat) : Req :=
  { s.newReq g b l stream kind (s.place b stream ea size) ea size s.fresh with tx := true }

section
variable {s : State} {b : Bundle} {l stream size a : Nat} {ea : DWord} {x : Tx}

/-- What a transaction makes of a load, from the state in which the instruction issues. -/
theorem State.issueTxLoad_of_txAddr (ha : (s.place b stream ea size).txAddr = some a) (g : Group) (kind : ReqKind) (smp : Bool) :
    (s.metLoad b stream ea size smp).1.next.issueTxLoad g b l stream kind (s.place b stream ea size) ea size s.fresh x =
      if (txCover x.writes a size).length = size then ((s.metLoad b stream ea size smp).1.next.addReq
        { s.txAsk g b l stream kind ea size with id := s.fresh + 1, own := txCover x.writes a size, phase := .done 0 0 0 [] }, .next)
      else if x.reads.any (·.line == a / 64) || decide (x.reads.length < 16) then
        (((s.metLoad b stream ea size smp).1.next.modThread b.id l fun t => { t with tx := some { x with
          reads := if x.reads.any (·.line == a / 64) then x.reads else x.reads ++ [{ line := a / 64, bytes := [] }] } }).addReq
            { s.txAsk g b l stream kind ea size with id := s.fresh + 1, own := txCover x.writes a size }, .next)
      else ((s.metLoad b stream ea size smp).1.next.abortTx b.id l 0x00020000#32, .gone) := by
  simp only [State.issueTxLoad, ha, State.metLoad_of_txAddr ha, State.newReq_next_sampleOf]
  split
  · rfl
  · by_cases hKnown : (x.reads.any (·.line == a / 64)) = true
    · simp only [hKnown]
      rfl
    · by_cases hFull : 16 ≤ x.reads.length
      · simp [hKnown, hFull]
      · simp only [hKnown, hFull, Nat.lt_of_not_le hFull]
        rfl

theorem State.issueLoad_own (hx : (s.thread b.id l).tx = some x) (ha : (s.place b stream ea size).txAddr = some a)
    (hOwn : (txCover x.writes a size).length = size) (g : Group) (code dst : Nat) (acq : Option Nat) (smp : Bool) :
    s.next.issueLoad g b l stream ea size code dst acq smp s.fresh =
      (((s.next.metLoad b stream ea size smp).1.addReq
        { s.txAsk g b l stream (.load code dst acq (s.metLoad b stream ea size smp).2) ea size with
          id := s.fresh + 1, own := txCover x.writes a size, phase := .done 0 0 0 [] }).modThread b.id l
            fun t => t.marks dst .pending (ldRegs code), .next) := by
  refine State.issueLoad_inside (s := s.next) hx g stream ea size code dst acq smp s.fresh ?_
  rw [State.metLoad_next_of_txAddr ha, State.place_next, State.issueTxLoad_of_txAddr ha, if_pos hOwn]

theorem State.issueLoad_asks (hx : (s.thread b.id l).tx = some x) (ha : (s.place b stream ea size).txAddr = some a)
    (hOwn : (txCover x.writes a size).length ≠ size) (hRoom : (x.reads.any (·.line == a / 64) || decide (x.reads.length < 16)) = true)
    (g : Group) (code dst : Nat) (acq : Option Nat) (smp : Bool) :
    s.next.issueLoad g b l stream ea size code dst acq smp s.fresh =
      ((((s.next.metLoad b stream ea size smp).1.modThread b.id l fun t => { t with tx := some { x with
          reads := if x.reads.any (·.line == a / 64) then x.reads else x.reads ++ [{ line := a / 64, bytes := [] }] } }).addReq
        { s.txAsk g b l stream (.load code dst acq (s.metLoad b stream ea size smp).2) ea size with
          id := s.fresh + 1, own := txCover x.writes a size }).modThread b.id l fun t => t.marks dst .pending (ldRegs code), .next) := by
  refine State.issueLoad_inside (s := s.next) hx g stream ea size code dst acq smp s.fresh ?_
  rw [State.metLoad_next_of_txAddr ha, State.place_next, State.issueTxLoad_of_txAddr ha, if_neg hOwn, if_pos hRoom]

theorem State.issueLoad_full (hx : (s.thread b.id l).tx = some x) (ha : (s.place b stream ea size).txAddr = some a)
    (hOwn : (txCover x.writes a size).length ≠ size) (hRoom : (x.reads.any (·.line == a / 64) || decide (x.reads.length < 16)) = false)
    (g : Group) (code dst : Nat) (acq : Option Nat) (smp : Bool) :
    s.next.issueLoad g b l stream ea size code dst acq smp s.fresh =
      ((s.next.metLoad b stream ea size smp).1.abortTx b.id l 0x00020000#32, .gone) := by
  refine State.issueLoad_aborts (s := s.next) hx g stream ea size code dst acq smp s.fresh ?_
  rw [State.metLoad_next_of_txAddr ha, State.place_next, State.issueTxLoad_of_txAddr ha, if_neg hOwn, if_neg (by simp [hRoom])]

end

/-- An instruction whose lanes share an entry, where one lane acts. -/
theorem runEntry_alone {s : State} {g : Group} {b : Bundle} {i : Instr} {chk : Check} {l : Nat}
    {f : Nat → State → Group → Bundle → Nat → State × LaneEnd} {E : State → Nat → State} {e : LaneEnd} (h : Meets s g b i)
    (hc : Quiet chk s g b) (hl : g.acting = [l]) (hf : f s.taken.fresh s.taken.next g b l = (E s.taken l, e)) :
    runEntry i chk f s = .next ((s.taken.eachLane g E).endAll g e) := by
  have hEach : each (f s.taken.fresh) s.taken.next g b g.acting = (s.taken.eachLane g E, [(l, e)]) := by
    simp only [each, State.eachLane, hl, List.foldl_cons, List.foldl_nil, hf, List.nil_append]
  refine runWith_ends h hc (congrArg Prod.fst hEach) fun n hn => ?_
  rw [congrArg Prod.snd hEach]
  have hMap := endOf_map g e n hn
  rwa [hl] at hMap

/-! Loads of a group. -/

section
variable {i : Instr} {stream size code dst k : Nat} {ea : Thread → DWord} {acq smp : Bool}

/-- The scope of a load that acquires. -/
def State.loadScope (s : State) (b : Bundle) (acq : Bool) (k stream : Nat) : Option Nat := if acq then some (s.resolveScope b k stream) else none

theorem runLoad_outside (hi : ∀ s, exec i s = runLoad i stream size code dst ea (if acq then some k else none) smp s) :
    Completes i (fun s g b => EachActive g b fun t => t.tx = none ∧ s.accessChecks b stream (ea t) size true false = [])
      (fun s g b => s.next.eachLane g fun u l =>
        let a := ea (u.thread b.id l)
        let m := u.metLoad b stream a size smp
        (m.1.addReq (m.1.newReq g b l stream (.load code dst (u.loadScope b acq k stream) m.2) (u.place b stream a size) a size
          s.fresh)).modThread b.id l fun t => t.marks dst .pending (ldRegs code)) .next := by
  intro s g b h hH
  rw [hi, runLoad]
  refine runEntry_ends (fun ls u => ∀ l ∈ ls, (u.thread b.id l).tx = none) h (fun l hl ha t ht => (hH l hl ha t ht).2) ?_ ?_
  · intro l hl
    obtain ⟨hl, ha⟩ := mem_acting.mp hl
    exact (hH l hl ha _ (h.threads_eq hl)).1
  · intro u l ls _ hu
    have hAcq : (Option.map (fun f => u.resolveScope b f stream) (if acq then some k else none)) = u.loadScope b acq k stream := by
      cases acq <;> rfl
    rw [hAcq, State.issueLoad_outside (hu l (by simp))]
    refine ⟨rfl, fun n hn => ?_⟩
    dsimp only
    rw [State.thread_modThread_tx _ _ _ _ fun t => Thread.marks_tx t _ _ _,
      State.thread_of_bundles ((State.addReq_bundles _ _).trans (State.metLoad_bundles u b stream _ size smp))]
    exact hu n (by simp [hn])

/-- A load of one lane inside a transaction. -/
theorem runLoad_alone {s : State} {g : Group} {b : Bundle} {E : State → Nat → State} {e : LaneEnd}
    (hi : ∀ s, exec i s = runLoad i stream size code dst ea (if acq then some k else none) smp s) (h : Meets s g b i)
    (hIn : ∀ (l : Nat) (t : Thread), b.threads[l]? = some t → s.taken.accessChecks b stream (ea t) size true false = [])
    (hOne : g.acting.length = 1) (hE : ∀ l ∈ g.acting, s.taken.next.issueLoad g b l stream (ea (s.taken.thread b.id l)) size code dst
      (s.taken.loadScope b acq k stream) smp s.taken.fresh = (E s.taken l, e)) :
    exec i s = .next ((s.taken.eachLane g E).endAll g e) := by
  obtain ⟨l, hl⟩ := List.length_eq_one_iff.mp hOne
  have hAcq : (Option.map (fun f => s.taken.next.resolveScope b f stream) (if acq then some k else none)) = s.taken.loadScope b acq k stream := by
    cases acq <;> rfl
  rw [hi, runLoad]
  refine runEntry_alone h (fun n _ _ t ht => hIn n t ht) hl ?_
  rw [hAcq]
  exact hE l (by simp [hl])

end

/-- Settles O33: the lanes of a load outside a transaction one after another, and the three ways of the one inside. -/
theorem loadsSendRequests : Obligations.LoadsSendRequests := by
  intro o z k st p d load
  have hLoad (i : Instr) (size code : Nat) (ea : Thread → DWord) (acq smp : Bool)
      (hi : ∀ s, exec i s = runLoad i st.toNat size code d.toNat ea (if acq then some k.toNat else none) smp s) : load i size code ea acq smp := by
    refine ⟨runLoad_outside hi, ?_⟩
    intro site room inTx met ask pend
    have hSite {s : State} {b : Bundle} {l : Nat} {x : Tx} {a : Nat} {own : List (Nat × Byte)} (h : site s b l = some (x, a, own)) :
        (s.thread b.id l).tx = some x ∧ (s.place b st.toNat (ea (s.thread b.id l)) size).txAddr = some a ∧ txCover x.writes a size = own := by
      simp only [site] at h
      split at h
      · next hx ha => cases h; exact ⟨hx, ha, rfl⟩
      · cases h
    refine ⟨?own, ?asks, ?full⟩
    case own =>
      rintro s g b h ⟨hIn, hOne, hAll⟩
      refine runLoad_alone hi h hIn hOne fun l hl => ?_
      obtain ⟨x, a, own, hOwn, hLen⟩ := hAll l hl
      obtain ⟨hx, ha, rfl⟩ := hSite hOwn
      dsimp only
      rw [hOwn]
      exact State.issueLoad_own hx ha hLen g code d.toNat _ smp
    case asks =>
      rintro s g b h ⟨hIn, hOne, hAll⟩
      refine runLoad_alone hi h hIn hOne fun l hl => ?_
      obtain ⟨x, a, own, hOwn, hLen, hRoom⟩ := hAll l hl
      obtain ⟨hx, ha, rfl⟩ := hSite hOwn
      dsimp only
      rw [hOwn]
      exact State.issueLoad_asks hx ha hLen hRoom g code d.toNat _ smp
    case full =>
      rintro s g b h ⟨hIn, hOne, hAll⟩
      refine runLoad_alone hi h hIn hOne fun l hl => ?_
      obtain ⟨x, a, own, hOwn, hLen, hRoom⟩ := hAll l hl
      obtain ⟨hx, ha, rfl⟩ := hSite hOwn
      exact State.issueLoad_full hx ha hLen hRoom g code d.toNat _ smp
  exact ⟨hLoad _ _ _ _ false false fun _ => rfl, hLoad _ _ _ _ true false fun _ => rfl, hLoad _ _ _ _ true false fun _ => rfl,
    hLoad _ _ _ _ false true fun _ => rfl⟩

/-! Stores of a lane. -/

/-- The state in which a store joins the queue or the write set: the access has met its place (R150). -/
def State.metStore (s : State) (b : Bundle) (stream : Nat) (ea : DWord) (n : Nat) : State :=
  s.offend b (s.place b stream ea n) (spaceOf (s.streamWord b stream)) ea

theorem State.metStore_bundles (s : State) (b : Bundle) (stream : Nat) (ea : DWord) (n : Nat) : (s.metStore b stream ea n).bundles = s.bundles :=
  State.offend_bundles s b _ _ ea

/-- A store outside a transaction counts for its block's monitors at issue, where the stream is monitored (R349). -/
def State.storeCounted (s : State) (b : Bundle) (stream : Nat) (ea : DWord) (bs : List Byte) : State :=
  let w := s.streamWord b stream
  let v := s.metStore b stream ea bs.length
  if b.counts && calOf w then v.modBlk b fun k => k.countStore v.clk stream (calAddr (spaceOf w) ea) bs else v

theorem State.storeCounted_bundles (s : State) (b : Bundle) (stream : Nat) (ea : DWord) (bs : List Byte) :
    (s.storeCounted b stream ea bs).bundles = s.bundles := by
  simp only [State.storeCounted]
  split
  · exact (State.modBlk_bundles _ b _).trans (State.metStore_bundles s b stream ea _)
  · exact State.metStore_bundles s b stream ea _

/-- A store of a lane outside a transaction. -/
theorem State.issueStore_outside {s : State} {b : Bundle} {l : Nat} (hx : (s.thread b.id l).tx = none) (g : Group) (stream : Nat) (ea : DWord)
    (bs : List Byte) (rel : Option Nat) (entry : Nat) :
    s.issueStore g b l stream ea bs rel entry = ((s.storeCounted b stream ea bs).addReq ((s.storeCounted b stream ea bs).newReq g b l stream
      (.store bs rel) (s.place b stream ea bs.length) ea bs.length entry), .next) := by
  have hMet : ((s.metStore b stream ea bs.length).thread b.id l).tx = none := by
    rw [State.thread_of_bundles (State.metStore_bundles s b stream ea _)]
    exact hx
  simp only [State.metStore] at hMet
  simp only [State.issueStore, hMet, State.storeCounted, State.metStore]

/-- The write set that a store of a transaction would leave (R244). -/
def Tx.storeWrites (x : Tx) (a : Nat) (bs : List Byte) : List TxLine := txPut x.writes a ((List.range bs.length).map fun j => (j, bs.getD j 0))

/-- A store of a lane inside a revocable transaction: its bytes join the write set, or that is full. -/
theorem State.issueStore_inside {s : State} {b : Bundle} {l a stream : Nat} {x : Tx} {ea : DWord} {bs : List Byte}
    (hx : (s.thread b.id l).tx = some x) (ha : (s.place b stream ea bs.length).txAddr = some a) (hRevocable : x.irrevocable = false) (g : Group)
    (rel : Option Nat) (entry : Nat) :
    s.issueStore g b l stream ea bs rel entry =
      if 8 < (x.storeWrites a bs).length then ((s.metStore b stream ea bs.length).abortTx b.id l 0x00020001#32, .gone)
      else ((s.metStore b stream ea bs.length).modThread b.id l fun t => { t with tx := some { x with
        writes := x.storeWrites a bs, streams := distinct (x.streams ++ [stream])
        counted := if b.counts && calOf (s.streamWord b stream) then x.counted ++ [(s.clk, stream, ea, bs)] else x.counted } }, .next) := by
  have hMet : s.metStore b stream ea bs.length = s := State.offend_of_txAddr s b ha _ ea
  rw [hMet]
  simp only [State.metStore] at hMet
  simp only [State.issueStore, hMet, hx, State.issueTxStore, ha, hRevocable, Bool.false_and, Bool.false_eq_true, if_false, Tx.storeWrites]

/-! Stores of a group. -/

section
variable {i : Instr} {stream size src k : Nat} {ea : Thread → DWord} {rel : Bool}

theorem runStore_outside (hi : ∀ s, exec i s = runStore i stream size src ea (if rel then some k else none) s) :
    Completes i (fun s g b => EachActive g b fun t => t.tx = none ∧ s.accessChecks b stream (ea t) size false true = [])
      (fun s g b => s.next.eachLane g fun u l =>
        let a := ea (u.thread b.id l)
        let bs := (u.thread b.id l).storeData src size
        let v := u.storeCounted b stream a bs
        v.addReq (v.newReq g b l stream (.store bs (u.loadScope b rel k stream)) (u.place b stream a bs.length) a bs.length s.fresh)) .next := by
  intro s g b h hH
  rw [hi, runStore]
  refine runEntry_ends (fun ls u => ∀ l ∈ ls, (u.thread b.id l).tx = none) h (fun l hl ha t ht => (hH l hl ha t ht).2) ?_ ?_
  · intro l hl
    obtain ⟨hl, ha⟩ := mem_acting.mp hl
    exact (hH l hl ha _ (h.threads_eq hl)).1
  · intro u l ls _ hu
    have hRel : (Option.map (fun f => u.resolveScope b f stream) (if rel then some k else none)) = u.loadScope b rel k stream := by
      cases rel <;> rfl
    rw [hRel, State.issueStore_outside (hu l (by simp))]
    refine ⟨rfl, fun n hn => ?_⟩
    dsimp only
    rw [State.thread_of_bundles ((State.addReq_bundles _ _).trans (State.storeCounted_bundles u b stream _ _))]
    exact hu n (by simp [hn])

/-- A store of one lane inside a transaction. -/
theorem runStore_alone {s : State} {g : Group} {b : Bundle} {E : State → Nat → State} {e : LaneEnd}
    (hi : ∀ s, exec i s = runStore i stream size src ea (if rel then some k else none) s) (h : Meets s g b i)
    (hIn : ∀ (l : Nat) (t : Thread), b.threads[l]? = some t → s.taken.accessChecks b stream (ea t) size false true = [])
    (hOne : g.acting.length = 1) (hE : ∀ l ∈ g.acting, ∀ r, s.taken.next.issueStore g b l stream (ea (s.taken.thread b.id l))
      ((s.taken.thread b.id l).storeData src size) r s.taken.fresh = (E s.taken l, e)) :
    exec i s = .next ((s.taken.eachLane g E).endAll g e) := by
  obtain ⟨l, hl⟩ := List.length_eq_one_iff.mp hOne
  rw [hi, runStore]
  refine runEntry_alone h (fun n _ _ t ht => hIn n t ht) hl ?_
  exact hE l (by simp [hl]) _

end

/-- Settles O34: the lanes of a store outside a transaction one after another, and the two ways of the one inside. -/
theorem storesJoinTheQueue : Obligations.StoresJoinTheQueue := by
  intro o z k st p d store
  have hStore (i : Instr) (size : Nat) (ea : Thread → DWord) (rel : Bool)
      (hi : ∀ s, exec i s = runStore i st.toNat size d.toNat ea (if rel then some k.toNat else none) s) : store i size ea rel := by
    refine ⟨runStore_outside hi, ?_⟩
    intro site inTx met
    have hSite {s : State} {b : Bundle} {l : Nat} {x : Tx} {a : Nat} {ws : List TxLine} {bs : List Byte} (h : site s b l = some (x, a, ws, bs)) :
        (s.thread b.id l).tx = some x ∧ (s.place b st.toNat (ea (s.thread b.id l)) bs.length).txAddr = some a ∧
          x.storeWrites a bs = ws ∧ (s.thread b.id l).storeData d.toNat size = bs := by
      simp only [site] at h
      split at h
      · next hx ha => cases h; exact ⟨hx, ha, rfl, rfl⟩
      · cases h
    refine ⟨?joins, ?full⟩
    case joins =>
      rintro s g b h ⟨hIn, hOne, hAll⟩
      refine runStore_alone hi h hIn hOne fun l hl r => ?_
      obtain ⟨x, a, ws, bs, hBytes, hRevocable, hLen⟩ := hAll l hl
      obtain ⟨hx, ha, rfl, hData⟩ := hSite hBytes
      rw [hBytes, hData, State.issueStore_inside (s := s.taken.next) hx ha hRevocable, if_neg (by omega)]
      rfl
    case full =>
      rintro s g b h ⟨hIn, hOne, hAll⟩
      refine runStore_alone hi h hIn hOne fun l hl r => ?_
      obtain ⟨x, a, ws, bs, hBytes, hRevocable, hLen⟩ := hAll l hl
      obtain ⟨hx, ha, rfl, hData⟩ := hSite hBytes
      rw [hBytes, hData, State.issueStore_inside (s := s.taken.next) hx ha hRevocable, if_pos hLen]
      rfl
  exact ⟨hStore _ _ _ false fun _ => rfl, hStore _ _ _ true fun _ => rfl, hStore _ _ _ true fun _ => rfl⟩

end Sys2Proof.Machine
end

section
/-! SUPPORT. Requests of the memory system (R148 to R154, R156, R162, R204): what each event of a request does where the request stands,
and the way of a request that is alone. -/

namespace Sys2Proof.Machine

/-! What the dispatch answers for each of these events. -/

theorem exec_lateResultArrival (op : Nat) (s : State) : exec (.lateResultArrival op) s = execLateResultArrival op s := by rfl
theorem exec_storeQueueDrain (op : Nat) (s : State) : exec (.storeQueueDrain op) s = execStoreQueueDrain op s := by rfl
theorem exec_homeStoreArrival (op : Nat) (s : State) : exec (.homeStoreArrival op) s = execHomeStoreArrival op s := by rfl
theorem exec_storeAcknowledgement (op : Nat) (s : State) : exec (.storeAcknowledgement op) s = execStoreAcknowledgement op s := by rfl
theorem exec_homeLoadRequest (op : Nat) (s : State) : exec (.homeLoadRequest op) s = execHomeLoadRequest op s := by rfl
theorem exec_negativeAcknowledgement (op : Nat) (s : State) : exec (.negativeAcknowledgement op) s = execNegativeAcknowledgement op s := by rfl
theorem exec_backoffResend (op : Nat) (s : State) : exec (.backoffResend op) s = execBackoffResend op s := by rfl
theorem exec_peerLoadFailure (op : Nat) (status : BitVec 16) (s : State) :
    exec (.peerLoadFailure op status) s = execPeerLoadFailure op status s := by rfl
theorem exec_ctimeTick (core : Nat) (s : State) : exec (.ctimeTick core) s = execCtimeTick core s := by rfl

/-! What comes from a peer is an input, in deterministic mode alone (log entry 13, R425). -/

theorem State.externalOnce_of_notDet {s : State} {p : Nat} (h : (s.part p).det = false) (op : Nat) (i : Input) (f : State → State) :
    s.externalOnce p op i f = f s := by
  simp [State.externalOnce, State.external, h]

theorem State.peerReply_atOnce {s : State} {r : Req} (h : (s.part (s.partAt r.bundle)).det = false ∨ ∀ k va, r.place ≠ .peer k va)
    (f : State → State) : s.peerReply r f = f s := by
  simp only [State.peerReply]
  split
  · next k va hPlace =>
    obtain hDet | hNot := h
    · rw [State.externalOnce_of_notDet hDet]
      split <;> rfl
    · exact absurd hPlace (hNot k va)
  · rfl

/-! The events of any request. -/

section
variable {s : State} {op : Nat} {r : Req} (hr : s.req? op = some r)
include hr

theorem lateResultArrival_load {c d smp : Nat} {acq : Option Nat} (hk : r.kind = .load c d acq smp)
    (ho : (s.part (s.partAt r.bundle)).det = false ∨ ∀ k va, r.place ≠ .peer k va) :
    exec (.lateResultArrival op) s = .next (s.finishLoad r c d acq smp) := by
  simp only [exec_lateResultArrival, execLateResultArrival, hr, hk, State.peerReply_atOnce ho]

theorem storeQueueDrain_store {bs : List Byte} {rel : Option Nat} (hk : r.kind = .store bs rel) (hp : r.phase = .issued) :
    exec (.storeQueueDrain op) s = .next (s.drainEntry r) := by
  simp only [exec_storeQueueDrain, execStoreQueueDrain, hr, hk, hp]

theorem homeStoreArrival_store {bs : List Byte} {rel : Option Nat} (hk : r.kind = .store bs rel) (hp : r.phase = .sent) :
    exec (.homeStoreArrival op) s = .next (s.storeArrives r) := by
  simp only [exec_homeStoreArrival, execHomeStoreArrival, hr, hk, hp]

theorem storeAcknowledgement_store {bs : List Byte} {rel : Option Nat} (hk : r.kind = .store bs rel)
    (ho : (s.part (s.partAt r.bundle)).det = false ∨ ∀ k va, r.place ≠ .peer k va) :
    exec (.storeAcknowledgement op) s = .next (s.acknowledge r) := by
  simp only [exec_storeAcknowledgement, execStoreAcknowledgement, hr, hk, State.peerReply_atOnce ho]

theorem homeLoadRequest_load {c d smp : Nat} {acq : Option Nat} (hk : r.kind = .load c d acq smp) :
    exec (.homeLoadRequest op) s = .next (s.fetchLine r) := by
  simp only [exec_homeLoadRequest, execHomeLoadRequest, hr, hk]

theorem negativeAcknowledgement_req (ha : r.arrived = false) (hs : r.resend = none) (hd : (s.part (s.partAt r.bundle)).det = false) :
    exec (.negativeAcknowledgement op) s = .next ((s.modReq op fun r => { r with
      naks := r.naks + 1
      link := if Config.choice s.draw = true then r.crossing[Config.pick s.draw % r.crossing.length]? else none
      resend := some (s.clk + backoff (s.die (dieOf r.core)).backoff (r.naks + 1)) }).drawn) := by
  simp [exec_negativeAcknowledgement, execNegativeAcknowledgement, hr, ha, hs, hd]

theorem backoffResend_req {c : Nat} (hs : r.resend = some c) (hc : c ≤ s.clk) :
    exec (.backoffResend op) s = .next (s.modReq op fun r => { r with resend := none }) := by
  simp only [exec_backoffResend, execBackoffResend, hr, hs, hc, if_true]

theorem peerLoadFailure_load {c d smp k va : Nat} {acq : Option Nat} {status : BitVec 16} (hk : r.kind = .load c d acq smp)
    (hp : r.place = .peer k va) (hStatus : status = 1#16 ∨ status = 2#16 ∨ status = 0xFFFF#16) (hOrder : s.inOrder r = true)
    (hd : (s.part (s.partAt r.bundle)).det = false) :
    exec (.peerLoadFailure op status) s = .next (((s.dropReq op).landThread r.bundle r.lane fun t =>
      t.marks d (.poisoned r.pc r.ea status) (ldRegs c)).sample r smp 7 true) := by
  have hPeer : peerStatus status = true := by
    obtain rfl | rfl | rfl := hStatus <;> rfl
  simp only [exec_peerLoadFailure, execPeerLoadFailure, hr, hk, hp, State.externalOnce_of_notDet hd, State.peerLoadFails, hPeer, hOrder,
    Bool.not_true, Bool.or_self, Bool.false_eq_true, if_false]

end

/-! A request that is alone: nothing is before it, nothing holds it, and it reaches its home. -/

section
variable {s : State} {r : Req} (h : Sole s r)
include h

theorem Sole.req?_eq : s.req? r.id = some r := by
  simp [State.req?, h.only]

theorem Sole.earlier_eq : s.earlier r = [] := by
  simp [State.earlier, h.only]

theorem Sole.inOrder_eq : s.inOrder r = true := by
  simp [State.inOrder, h.earlier_eq]

theorem Sole.loadMates_eq : s.loadMates r = [] := by
  simp [State.loadMates, h.only]

theorem Sole.forwarder_eq : s.forwarder r = none := by
  simp [State.forwarder, h.earlier_eq]

theorem Sole.mustHold_eq (ln : Nat) (wr : Bool) : s.mustHold r ln wr = s.lineHeld ln (r.bundle, r.lane) wr := by
  simp [State.mustHold, h.only]

theorem Sole.reaches_eq : s.reaches r = true := by
  simp [State.reaches, h.only, h.sent, State.dropsWith]

theorem Sole.sliceOrder_eq : s.sliceOrder r = true := by
  simp only [State.sliceOrder, h.only]
  split <;> simp_all

theorem Sole.firstInStream_eq : s.firstInStream r = true := by
  simp [State.firstInStream, h.only]

end

/-! What the parts of the model's memory leave alone besides memory. -/

theorem foldl_keeps {α β : Type} (π : State → β) {f : State → α → State} (hf : ∀ s x, π (f s x) = π s) (xs : List α) (s : State) :
    π (xs.foldl f s) = π s :=
  List.foldlRecOn (motive := fun u => π u = π s) xs f rfl fun u hu x _ => (hf u x).trans hu

theorem State.undoLine_reqs (s : State) (ln : Nat) : (s.undoLine ln).reqs = s.reqs :=
  foldl_keeps State.reqs (fun _ _ => by split <;> rfl) _ s

theorem State.undoLine_lines (s : State) (ln : Nat) : (s.undoLine ln).lines = s.lines :=
  foldl_keeps State.lines (fun _ _ => by split <;> rfl) _ s

theorem State.store_reqs (s : State) (pa : Nat) (bs : List Byte) : (s.store pa bs).reqs = s.reqs :=
  foldl_keeps State.reqs State.undoLine_reqs _ s

theorem State.store_lines (s : State) (pa : Nat) (bs : List Byte) : (s.store pa bs).lines = s.lines :=
  foldl_keeps State.lines State.undoLine_lines _ s

theorem State.store_mem (s : State) (pa : Nat) (bs : List Byte) : (s.store pa bs).mem = writeBytes s.mem pa bs := by
  have hUndo := foldl_keeps State.mem State.undoLine_mem (distinct ((List.range bs.length).map fun i => (pa + i) / 64)) s
  show writeBytes _ pa bs = _
  rw [← hUndo]
  rfl

theorem State.homeStore_reqs (s : State) (t pa : Nat) (bs : List Byte) : (s.homeStore t pa bs).1.reqs = s.reqs :=
  (State.store_reqs _ pa bs).trans (State.modLine_reqs s _ _)

theorem State.homeStore_lines (s : State) (t pa : Nat) (bs : List Byte) : (s.homeStore t pa bs).1.lines =
    (s.modLine (pa / 64) fun x => { x with wts := (s.homeStore t pa bs).2, rts := (s.homeStore t pa bs).2 }).lines :=
  State.store_lines _ pa bs

theorem State.homeStore_mem (s : State) (t pa : Nat) (bs : List Byte) : (s.homeStore t pa bs).1.mem = writeBytes s.mem pa bs := by
  refine (State.store_mem _ pa bs).trans ?_
  rw [State.modLine_mem]

/-- A changed line reads as changed. -/
theorem State.line_modLine (s : State) (ln : Nat) {f : Line → Line} (hf : ∀ x, (f x).line = x.line) :
    (s.modLine ln f).line ln = f (s.line ln) := by
  simp only [State.modLine, State.line]
  split
  · next hAny =>
    obtain ⟨x, hx⟩ := Option.isSome_iff_exists.mp (List.find?_isSome.mpr (List.any_eq_true.mp hAny))
    rw [find?_upd s.lines (·.line == ln) f fun x => by rw [hf], hx]
    rfl
  · next hNone =>
    have hFind : s.lines.find? (·.line == ln) = none := by
      rw [List.find?_eq_none]
      exact fun x hx hEq => hNone (List.any_eq_true.mpr ⟨x, hx, hEq⟩)
    simp [hFind, hf]

theorem State.homeStore_line (s : State) (t pa : Nat) (bs : List Byte) : (s.homeStore t pa bs).1.line (pa / 64) =
    { s.line (pa / 64) with wts := (s.homeStore t pa bs).2, rts := (s.homeStore t pa bs).2 } := by
  have hModified := State.line_modLine s (pa / 64) (f := fun x => { x with wts := (s.homeStore t pa bs).2, rts := (s.homeStore t pa bs).2 })
    fun _ => rfl
  rw [← hModified]
  simp only [State.line, State.homeStore_lines]

theorem State.core_modCore (s : State) (c : Nat) (f : Core → Core) (hc : c < s.cores.length) : (s.modCore c f).core c = f (s.core c) := by
  simp [State.core, State.modCore, hc]

theorem State.useL2_reqs (s : State) (iso : Option Nat) (d ln policy : Nat) : (s.useL2 iso d ln policy).1.reqs = s.reqs := by
  simp only [State.useL2]
  split <;> rfl

theorem State.useL2_lines (s : State) (iso : Option Nat) (d ln policy : Nat) : (s.useL2 iso d ln policy).1.lines = s.lines := by
  simp only [State.useL2]
  split <;> rfl

theorem State.useL2_cores (s : State) (iso : Option Nat) (d ln policy : Nat) : (s.useL2 iso d ln policy).1.cores = s.cores := by
  simp only [State.useL2]
  split <;> rfl

theorem State.landThread_reqs (s : State) (b l : Nat) (f : Thread → Thread) : (s.landThread b l f).reqs = s.reqs := by
  simp only [State.landThread]
  split <;> rfl

theorem State.landThread_cores (s : State) (b l : Nat) (f : Thread → Thread) : (s.landThread b l f).cores = s.cores := by
  simp only [State.landThread]
  split <;> rfl

/-- What lands in a thread of a bundle that stands. -/
theorem State.thread_landThread {s : State} {b l : Nat} {x : Bundle} {t : Thread} (hb : s.bundle? b = some x) (ht : x.threads[l]? = some t)
    (f : Thread → Thread) : (s.landThread b l f).thread b l = t.landed f := by
  have hFind : (s.modThread b l fun t => t.landed f).bundle? b = some { x with threads := x.threads.modify l fun t => t.landed f } := by
    have hMap := State.bundle?_modBundle s b (fun y => { y with threads := y.threads.modify l fun t => t.landed f }) fun _ => rfl
    rw [hb] at hMap
    exact hMap
  simp [State.landThread, hb, State.thread, State.thread?, hFind, ht]

theorem State.core_reachTime (s : State) (r : Req) (w : Nat) (hc : r.core < s.cores.length) :
    (s.reachTime r w).core r.core = { s.core r.core with ctime := max (s.core r.core).ctime w } :=
  State.core_modCore s r.core _ hc

/-! A store that is alone (R148, R153). -/

section
variable {s : State} {r : Req} {bs : List Byte} {rel : Option Nat} (h : Sole s r) (hk : r.kind = .store bs rel)
include h hk

/-- A queue entry drains: the store enters its place. -/
theorem Sole.drainEntry_eq (hp : r.phase = .issued) (hRel : rel = none) (hPlace : ∀ k m off pa, r.place ≠ .stash k m off pa) :
    s.drainEntry r = s.enter r bs := by
  subst hRel
  have hEnter : s.mayEnter r = true := by
    simp only [State.mayEnter, h.inOrder_eq, hk, Bool.true_and]
  simp [State.drainEntry, h.firstInStream_eq, h.only, hp, hk, hEnter]

/-- It leaves the queue for the buffer, and the copies of its core take it. -/
theorem Sole.drain_mem {pa : Nat} (hRel : rel = none) (hPlace : r.place = .mem pa) (hp : r.phase = .issued) (hCore : r.core < s.cores.length) :
    ∃ u, exec (.storeQueueDrain r.id) s = .next u ∧ u.reqs = [{ r with phase := .sent }] ∧ u.mem = s.mem ∧
      (u.core r.core).l1 = (s.core r.core).l1.map fun k => if k.line = pa / 64 then { k with data := patch k.data (pa % 64) bs } else k := by
  refine ⟨s.enter r bs, ?_, ?_, by simp, ?_⟩
  · rw [storeQueueDrain_store h.req?_eq hk hp, h.drainEntry_eq hk hp hRel (by simp [hPlace])]
  · simp [State.enter, hPlace, State.staleCode, State.toBuffer, h.only]
  · have hTakes : (s.enter r bs).core r.core = ((s.toBuffer r).modCore r.core (·.takeStore pa bs)).core r.core := by
      simp only [State.enter, hPlace]
      rfl
    rw [hTakes, State.core_modCore (s.toBuffer r) _ _ hCore]
    simp only [Core.takeStore, beq_iff_eq]
    rfl

/-- In a scratchpad it is done. -/
theorem Sole.drain_spad {k off : Nat} {y : Block} (hRel : rel = none) (hPlace : r.place = .spad k off) (hp : r.phase = .issued)
    (hy : s.block? k = some y) :
    ∃ u z, exec (.storeQueueDrain r.id) s = .next u ∧ u.reqs = [] ∧ u.mem = s.mem ∧ u.block? k = some z ∧
      z.spad = writeBytes y.spad off bs := by
  refine ⟨(s.spadWrite k off bs).dropReq r.id, { y with spad := writeBytes y.spad off bs }, ?_, ?_, by simp, ?_, rfl⟩
  · rw [storeQueueDrain_store h.req?_eq hk hp, h.drainEntry_eq hk hp hRel (by simp [hPlace])]
    simp only [State.enter, hPlace]
  · simp [State.dropReq, State.spadWrite, State.keepSpad, h.only]
  · have hFind := find?_upd s.blocks (·.id == k) (fun x : Block => { x with spad := writeBytes x.spad off bs }) fun _ => rfl
    rw [show s.blocks.find? (·.id == k) = some y from hy] at hFind
    exact hFind

/-- A store reaches its home on its die. -/
theorem Sole.storeArrives_eq {pa : Nat} (hPlace : r.place = .mem pa) (hHeld : s.lineHeld (pa / 64) (r.bundle, r.lane) true = false) :
    s.storeArrives r = (((s.atHome r.core (pa / 64) (s.policyFor r)).1.homeStore (s.storeTime r.core (pa / 64)) pa bs).1.doneAt r.id
      ((s.atHome r.core (pa / 64) (s.policyFor r)).1.homeStore (s.storeTime r.core (pa / 64)) pa bs).2 (s.lapseClocks r.core (pa / 64)) []) := by
  simp [State.storeArrives, hPlace, h.reaches_eq, h.sliceOrder_eq, h.mustHold_eq, hHeld, hk]

/-- At its home it moves the line past its leases and changes its own bytes alone. -/
theorem Sole.arrives {pa : Nat} (hPlace : r.place = .mem pa) (hHome : homeDie (64 * (pa / 64)) = dieOf r.core) (hp : r.phase = .sent)
    (hw : s.mem.wf = true) (hHeld : s.lineHeld (pa / 64) (r.bundle, r.lane) true = false) :
    let w := max (s.core r.core).ctime ((s.line (pa / 64)).rts + 1)
    ∃ u lapse, exec (.homeStoreArrival r.id) s = .next u ∧
      u.reqs = [{ r with phase := .done w lapse (max lapse (s.line (pa / 64)).remote) [] }] ∧
      (u.line (pa / 64)).wts = w ∧ (u.line (pa / 64)).rts = w ∧ lapse = (s.line (pa / 64)).lapse ∧
      (∀ i < bs.length, readByte u.mem (pa + i) = bs.getD i 0) ∧
      ∀ a, a < pa ∨ pa + bs.length ≤ a → readByte u.mem a = readByte s.mem a := by
  intro w
  have hExec := homeStoreArrival_store h.req?_eq hk hp
  rw [h.storeArrives_eq hk hPlace hHeld] at hExec
  generalize hAt : (s.atHome r.core (pa / 64) (s.policyFor r)).1 = v at hExec
  have hLines : v.lines = s.lines := by rw [← hAt]; exact State.useL2_lines s _ _ _ _
  have hReqs : v.reqs = s.reqs := by rw [← hAt]; exact State.useL2_reqs s _ _ _ _
  have hMem : v.mem = s.mem := by rw [← hAt]; exact State.useL2_mem s _ _ _ _
  have hLine : v.line (pa / 64) = s.line (pa / 64) := by simp only [State.line, hLines]
  have hTime : s.storeTime r.core (pa / 64) = (s.core r.core).ctime := if_pos hHome
  have hLapse : s.lapseClocks r.core (pa / 64) = ((s.line (pa / 64)).lapse, max (s.line (pa / 64)).lapse (s.line (pa / 64)).remote) := by
    simp only [State.lapseClocks, hHome, if_true]
  have hWts : (v.homeStore (s.storeTime r.core (pa / 64)) pa bs).2 = w := by
    rw [hTime]
    show max _ ((v.line (pa / 64)).rts + 1) = w
    rw [hLine]
  have hNew : (v.homeStore (s.storeTime r.core (pa / 64)) pa bs).1.line (pa / 64) = { s.line (pa / 64) with wts := w, rts := w } := by
    rw [State.homeStore_line, hWts, hLine]
  refine ⟨_, (s.line (pa / 64)).lapse, hExec, ?_, ?_, ?_, rfl, ?_, ?_⟩
  · simp [State.doneAt, State.modReq, State.homeStore_reqs, hReqs, h.only, upd, hWts, hLapse, h.free]
  · exact congrArg Line.wts hNew
  · exact congrArg Line.rts hNew
  · intro i hi
    show readByte (v.homeStore _ pa bs).1.mem (pa + i) = _
    rw [State.homeStore_mem, hMem, readByte_writeBytes _ _ _ _ hw]
    simp [hi]
  · intro a ha
    show readByte (v.homeStore _ pa bs).1.mem a = _
    rw [State.homeStore_mem, hMem, readByte_writeBytes _ _ _ _ hw, if_neg (by omega)]

/-- Its acknowledgement raises ctime to the write time and leaves the thread its lapse clocks. -/
theorem Sole.acknowledged {pa w x y : Nat} {b : Bundle} {t : Thread} (hPlace : r.place = .mem pa) (hHome : homeDie pa = dieOf r.core)
    (hp : r.phase = .done w x y []) (hCore : r.core < s.cores.length) (hb : s.bundle? r.bundle = some b) (ht : b.threads[r.lane]? = some t) :
    ∃ u, exec (.storeAcknowledgement r.id) s = .next u ∧ u.reqs = [] ∧ (u.core r.core).ctime = max (s.core r.core).ctime w ∧ u.mem = s.mem ∧
      (t.life = .live → (u.thread r.bundle r.lane).lapses = t.lapses ++ [{ stream := r.stream, die := x, pkg := y }]) := by
  have hAck : s.acknowledge r =
      (State.staleCode ((s.reachTime r w).dropReq r.id) s pa bs.length).addLapse r.bundle r.lane r.stream (x, y) := by
    simp [State.acknowledge, hp, State.ackOrder, hPlace, hHome, hk, State.copyTakes, Req.lanes, h.alone]
  have hExec := storeAcknowledgement_store h.req?_eq hk (.inr (by simp [hPlace]))
  rw [hAck] at hExec
  refine ⟨_, hExec, ?_, ?_, by simp, fun hLive => ?_⟩
  · rw [State.addLapse, State.landThread_reqs]
    simp [State.staleCode, State.dropReq, State.reachTime, State.raiseCtime, h.only]
  · rw [State.core, State.addLapse, State.landThread_cores]
    exact congrArg Core.ctime (State.core_reachTime s r w hCore)
  · rw [State.addLapse, State.thread_landThread (s := State.staleCode ((s.reachTime r w).dropReq r.id) s pa bs.length) hb ht]
    simp [Thread.landed, hLive]

end

/-! A load that is alone (R153). -/

/-- A line under a lease. -/
def Line.leasedTo (x : Line) (rts lapse : Nat) : Line := { x with rts := max x.rts rts, lapse := max x.lapse lapse }

/-- What a home of the core's die grants a load that leaves a copy: the line's bytes and times under a lease of 255. -/
theorem State.grant_home {s : State} {c ln policy : Nat} (hHome : homeDie (64 * ln) = dieOf c) (hPolicy : policy ≠ 3) (stamp : Option Nat) :
    (s.grant c ln stamp policy).1 = (s.atHome c ln policy).1.modLine ln (·.leasedTo ((s.core c).ctime + 255) (s.clk + 4096)) ∧
    (s.grant c ln stamp policy).2.line = ln ∧ (s.grant c ln stamp policy).2.data = (s.grant c ln stamp policy).1.lineData ln ∧
    (s.grant c ln stamp policy).2.wts = ((s.grant c ln stamp policy).1.line ln).wts ∧
    (s.grant c ln stamp policy).2.rts = ((s.grant c ln stamp policy).1.line ln).rts := by
  simp [State.grant, hHome, hPolicy, Line.leasedTo]

theorem State.line_grant_home {s : State} {c ln policy : Nat} (hHome : homeDie (64 * ln) = dieOf c) (hPolicy : policy ≠ 3) (stamp : Option Nat) :
    (s.grant c ln stamp policy).1.line ln = (s.line ln).leasedTo ((s.core c).ctime + 255) (s.clk + 4096) := by
  have hLine : (s.atHome c ln policy).1.line ln = s.line ln := by
    simp only [State.line, State.atHome, State.useL2_lines]
  rw [(State.grant_home hHome hPolicy stamp).1, State.line_modLine (f := (·.leasedTo _ _)) _ _ fun _ => rfl, hLine]

theorem State.grant_home_reqs {s : State} {c ln policy : Nat} (hHome : homeDie (64 * ln) = dieOf c) (hPolicy : policy ≠ 3)
    (stamp : Option Nat) : (s.grant c ln stamp policy).1.reqs = s.reqs := by
  rw [(State.grant_home hHome hPolicy stamp).1, State.modLine_reqs]
  exact State.useL2_reqs _ _ _ _ _

theorem State.grant_home_cores {s : State} {c ln policy : Nat} (hHome : homeDie (64 * ln) = dieOf c) (hPolicy : policy ≠ 3)
    (stamp : Option Nat) : (s.grant c ln stamp policy).1.cores = s.cores := by
  rw [(State.grant_home hHome hPolicy stamp).1, State.modLine_cores]
  exact State.useL2_cores _ _ _ _ _

/-- The line that an L1 takes stands first. -/
theorem State.head?_putL1 (s : State) (c : Nat) (k : Copy) (hc : c < s.cores.length) :
    ∃ l, ((s.putL1 c k).core c).l1.head? = some l ∧ l.line = k.line ∧ l.data = k.data ∧ l.wts = k.wts ∧ l.rts = k.rts := by
  rw [State.putL1, State.core_modCore s c _ hc]
  exact ⟨_, rfl, rfl, rfl, rfl, rfl⟩

section
variable {s : State} {r : Req} {c d pa : Nat} {acq : Option Nat} (h : Sole s r) (hPlace : r.place = .mem pa) (hp : r.phase = .issued)
  (hPolicy : s.policyFor r ≠ 3)
include h hPlace hp hPolicy

/-- A miss fetches the line. -/
theorem Sole.fetchLine_eq (hHeld : s.lineHeld (pa / 64) (r.bundle, r.lane) false = false) :
    s.fetchLine r = ((s.grant r.core (pa / 64) (s.stampOf r) (s.policyFor r)).1.modReq r.id fun q => { q with
      held := none, copy := some (s.grant r.core (pa / 64) (s.stampOf r) (s.policyFor r)).2 }).putL1 r.core
        (s.grant r.core (pa / 64) (s.stampOf r) (s.policyFor r)).2 := by
  simp [State.fetchLine, hPlace, h.reaches_eq, hp, Phase.isDone, h.mustHold_eq, hHeld, h.plain, hPolicy]

/-- It takes the home's bytes and times under a lease of 255. -/
theorem Sole.fetches (hk : r.kind = .load c d acq 0) (hHome : homeDie (64 * (pa / 64)) = dieOf r.core) (hCore : r.core < s.cores.length)
    (hHeld : s.lineHeld (pa / 64) (r.bundle, r.lane) false = false) :
    let rts := max (s.line (pa / 64)).rts ((s.core r.core).ctime + 255)
    ∃ u k l, exec (.homeLoadRequest r.id) s = .next u ∧ u.reqs = [{ r with copy := some k }] ∧ k.line = pa / 64 ∧
      k.data = readBytes s.mem (64 * (pa / 64)) 64 ∧ k.wts = (s.line (pa / 64)).wts ∧ k.rts = rts ∧ (u.line (pa / 64)).rts = rts ∧
      (u.line (pa / 64)).wts = (s.line (pa / 64)).wts ∧ u.mem = s.mem ∧
      (u.core r.core).l1.head? = some l ∧ l.line = k.line ∧ l.data = k.data ∧ l.wts = k.wts ∧ l.rts = k.rts := by
  intro rts
  have hExec := homeLoadRequest_load h.req?_eq hk
  rw [h.fetchLine_eq hPlace hp hPolicy hHeld] at hExec
  obtain ⟨_, hLine, hData, hWts, hRts⟩ := State.grant_home (s := s) hHome hPolicy (s.stampOf r)
  have hGranted := State.line_grant_home (s := s) hHome hPolicy (s.stampOf r)
  have hMem : (s.grant r.core (pa / 64) (s.stampOf r) (s.policyFor r)).1.mem = s.mem := State.grant_mem _ _ _ _ _
  have hReqs := State.grant_home_reqs (s := s) hHome hPolicy (s.stampOf r)
  have hCores := State.grant_home_cores (s := s) hHome hPolicy (s.stampOf r)
  generalize s.grant r.core (pa / 64) (s.stampOf r) (s.policyFor r) = g at *
  rw [hGranted] at hWts hRts
  obtain ⟨l, hHead⟩ := State.head?_putL1 (g.1.modReq r.id fun q => { q with held := none, copy := some g.2 }) r.core g.2 (hCores ▸ hCore)
  refine ⟨_, g.2, l, hExec, ?_, hLine, ?_, hWts, hRts, ?_, ?_, hMem, hHead⟩
  · simp [State.putL1, State.modReq, upd, hReqs, h.only, h.free]
  · rw [hData, State.lineData, hMem]
  · show (g.1.line (pa / 64)).rts = rts
    rw [hGranted]
    rfl
  · show (g.1.line (pa / 64)).wts = _
    rw [hGranted]
    rfl

/-- A copy that the core may use answers. -/
theorem Sole.bind_eq {k : Copy} (hk : r.kind = .load c d acq 0) (hHome : homeDie (64 * (pa / 64)) = dieOf r.core)
    (hCopy : r.copy = some k) (hLine : k.line = pa / 64) (hTime : (s.core r.core).ctime ≤ k.rts) (hGrant : s.clk < k.grant + 4096) (hSize : r.size ≠ 0) :
    s.bind r (s.policyFor r) = some { bytes := (k.data.drop (pa % 64)).take r.size, wts := k.wts, level := k.level } := by
  have hUsable : s.usable r.core k (s.stampOf r) = true := by simp [State.usable, hTime, hGrant, hLine, hHome]
  have hHeld : s.heldByStore r = false := by simp [State.heldByStore, h.only, hp]
  have hStores : s.ownStores r k = k.data := by simp [State.ownStores, h.only, hk]
  have hFor : s.copyFor r (s.policyFor r) = some k := by simp [State.copyFor, hPlace, hPolicy, hCopy, Option.filter, hUsable]
  have hSize' : 0 ≠ r.size := fun h0 => hSize h0.symm
  simp [State.bind, h.loadMates_eq, h.inOrder_eq, h.forwarder_eq, h.whole, hSize', State.bindPlace, hPlace, hHeld, hFor, hStores]

end

/-! The answer of a load. -/

theorem State.sample_none (s : State) (r : Req) (level : Nat) (poisoned : Bool) : s.sample r 0 level poisoned = s := by
  simp only [State.sample]
  split <;> simp

theorem State.core_touchL1_ctime (s : State) (c ln : Nat) (hc : c < s.cores.length) : ((s.touchL1 c ln).core c).ctime = (s.core c).ctime := by
  rw [State.touchL1, State.core_modCore s c _ hc]

/-- The state in which a load's value has been taken from its copy. -/
def State.hit (s : State) (r : Req) (level ln : Nat) : State := if level = 0 then s.touchL1 r.core ln else s

/-- What a load that has been answered leaves in its thread. -/
def Thread.loaded (t : Thread) (code dst clk : Nat) (acq : Option Nat) (bs : List Byte) : Thread :=
  { t.writes dst (loadWords code bs) with
    stamp := match acq with
      | some sc => if 4 ≤ sc then some clk else t.stamp
      | none => t.stamp }

theorem Sole.finishLoad_eq {s : State} {r : Req} {v : Bound} {pa : Nat} (h : Sole s r) (hPlace : r.place = .mem pa) (hPolicy : s.policyFor r ≠ 3)
    (hv : s.bind r (s.policyFor r) = some v) (code dst : Nat) (acq : Option Nat) :
    s.finishLoad r code dst acq 0 = (((s.hit r v.level (pa / 64)).reachTime r v.wts).dropReq r.id).landThread r.bundle r.lane
      fun t => t.loaded code dst s.clk acq v.bytes := by
  have hShare : s.shareLoad r v.bytes = s := by simp [State.shareLoad, h.loadMates_eq, upd]
  by_cases hLevel : v.level = 0
  · simp only [State.finishLoad, h.plain, Bool.false_eq_true, if_false, hv, hShare, hPlace, hPolicy, State.sample_none, State.hit, hLevel, if_true]
    rfl
  · simp only [State.finishLoad, h.plain, Bool.false_eq_true, if_false, hv, hShare, hPlace, hPolicy, State.sample_none, State.hit, hLevel]
    rfl

/-- The answer raises ctime to the write time and fills the destination. -/
theorem Sole.answered {s : State} {r : Req} {b : Bundle} {t : Thread} {c d pa : Nat} {acq : Option Nat} {k : Copy} (h : Sole s r)
    (hk : r.kind = .load c d acq 0) (hPlace : r.place = .mem pa) (hHome : homeDie (64 * (pa / 64)) = dieOf r.core)
    (hCore : r.core < s.cores.length) (hb : s.bundle? r.bundle = some b) (ht : b.threads[r.lane]? = some t) (hp : r.phase = .issued)
    (hPolicy : s.policyFor r ≠ 3) (hCopy : r.copy = some k) (hLine : k.line = pa / 64) (hTime : (s.core r.core).ctime ≤ k.rts)
    (hGrant : s.clk < k.grant + 4096) (hLive : t.life = .live) (hSize : r.size ≠ 0) :
    ∃ u, exec (.lateResultArrival r.id) s = .next u ∧ u.reqs = [] ∧ u.mem = s.mem ∧
      (u.core r.core).ctime = max (s.core r.core).ctime k.wts ∧
      (u.thread r.bundle r.lane).regs = (t.writes d (loadWords c ((k.data.drop (pa % 64)).take r.size))).regs := by
  have hExec := lateResultArrival_load h.req?_eq hk (.inr (by simp [hPlace]))
  rw [h.finishLoad_eq hPlace hPolicy (h.bind_eq hPlace hp hPolicy hk hHome hCopy hLine hTime hGrant hSize)] at hExec
  have hReqs : (s.hit r k.level (pa / 64)).reqs = s.reqs := by
    simp only [State.hit]
    split <;> rfl
  have hBundles : (s.hit r k.level (pa / 64)).bundles = s.bundles := by
    simp only [State.hit]
    split <;> rfl
  have hLength : r.core < (s.hit r k.level (pa / 64)).cores.length := by
    simp only [State.hit]
    split
    · simpa [State.touchL1, State.modCore] using hCore
    · exact hCore
  have hSame : ((s.hit r k.level (pa / 64)).core r.core).ctime = (s.core r.core).ctime := by
    simp only [State.hit]
    split
    · exact State.core_touchL1_ctime s _ _ hCore
    · rfl
  have hFound : (((s.hit r k.level (pa / 64)).reachTime r k.wts).dropReq r.id).bundle? r.bundle = some b := by
    rw [← hb]
    simp only [State.bundle?]
    exact congrArg (List.find? _) hBundles
  refine ⟨_, hExec, ?_, ?_, ?_, ?_⟩
  · rw [State.landThread_reqs]
    simp [State.dropReq, State.reachTime, State.raiseCtime, hReqs, h.only]
  · simp only [State.landThread_mem, State.dropReq_mem, State.reachTime_mem, State.hit]
    split <;> simp
  · rw [State.core, State.landThread_cores]
    exact (congrArg Core.ctime (State.core_reachTime _ r k.wts hLength)).trans (by rw [hSame])
  · rw [State.thread_landThread hFound ht]
    simp [Thread.landed, hLive, Thread.loaded]

/-- Settles O50: each event of a request is its meaning where the request stands, a request that is alone goes its way by them, and the clocks
pass. -/
theorem requestsMoveOnAndClocksPass : Obligations.RequestsMoveOnAndClocksPass := by
  intro op core die line bid lane s
  refine ⟨?request, ?store, ?load, ?tick, rfl, rfl⟩
  case request =>
    intro r hr atOnce
    exact ⟨fun c d acq smp hk ho => lateResultArrival_load hr hk ho, fun bs rel hk hp => storeQueueDrain_store hr hk hp,
      fun bs rel hk hp => homeStoreArrival_store hr hk hp, fun bs rel hk ho => storeAcknowledgement_store hr hk ho,
      fun c d acq smp hk => homeLoadRequest_load hr hk, fun ha hs hd => negativeAcknowledgement_req hr ha hs hd,
      fun c hs hc => backoffResend_req hr hs hc,
      fun c d acq smp k va status hk hp hStatus hOrder hd => peerLoadFailure_load hr hk hp hStatus hOrder hd⟩
  case store =>
    rintro r b t bs rel h rfl hk hCore hb _ ht
    refine ⟨fun pa hPlace hDie hHome _ => ⟨fun hp hRel => h.drain_mem hk hRel hPlace hp hCore, fun hp hw hHeld => ?_,
      fun w x y hp => h.acknowledged hk hPlace hDie hp hCore hb ht⟩, fun k off y hPlace hp hRel hy => h.drain_spad hk hRel hPlace hp hy⟩
    exact h.arrives hk hPlace hHome hp hw hHeld
  case load =>
    rintro r b t c d acq pa h rfl hk hPlace hHome _ hCore hb ht hp hPolicy
    refine ⟨fun hHeld => h.fetches hPlace hp hPolicy hk hHome hCore hHeld, fun k hCopy hLine hTime hGrant hLive hSize => ?_⟩
    obtain ⟨u, hExec, hReqs, hMem, hCtime, hRegs⟩ :=
      h.answered hk hPlace hHome hCore hb ht hp hPolicy hCopy hLine hTime hGrant hLive hSize
    refine ⟨u, hExec, hReqs, hMem, hCtime, ?_, ?_, ?_, ?_⟩
    · rintro rfl
      exact hRegs
    · rintro rfl
      exact hRegs
    · rintro (rfl | rfl | rfl) <;> exact hRegs
    · intro hWide
      have hCode : ¬c = 0 ∧ ¬c = 1 ∧ ¬c = 2 ∧ ¬c ≤ 4 := by omega
      simpa only [loadWords, hCode, if_false] using hRegs
  case tick =>
    intro hDue
    simp only [exec_ctimeTick, execCtimeTick, hDue, if_true]

end Sys2Proof.Machine
end

section
/-! SUPPORT. Barriers and waits (R180, R183 to R186, R291, R296): what an arrival and an added count do to the record that the next lane finds. -/

namespace Sys2Proof.Machine

/-! Records of a bundle's block. -/

/-- The block a bundle works for is among the blocks and the waves. -/
theorem State.blockOf_of_records {s t : State} (hBlocks : t.blocks = s.blocks) (hWaves : t.waves = s.waves) (b : Bundle) :
    t.blockOf b = s.blockOf b := by
  simp only [State.blockOf, State.block?, hBlocks, hWaves]

theorem State.blockOf_modBlk (s : State) (b : Bundle) {f : Block → Block} (hf : ∀ x, (f x).id = x.id) :
    (s.modBlk b f).blockOf b = (s.blockOf b).map f := by
  simp only [State.blockOf, State.modBlk]
  cases b.owner with
  | wave w =>
    have hFind := find?_upd s.waves (·.id == w) (fun x => { x with blk := f x.blk }) fun _ => rfl
    simp only [hFind, Option.map_map]
    rfl
  | block k => exact find?_upd s.blocks (·.id == k) f fun x => by rw [hf]
  | handler k => exact find?_upd s.blocks (·.id == k) f fun x => by rw [hf]

/-- The block a bundle works for has the name that its owner gives, but for a wave's own. -/
theorem State.blockOf_id {s : State} {b : Bundle} {k : Block} {n : Nat} (hk : s.blockOf b = some k) (hn : b.owner.block? = some n) :
    k.id = n := by
  simp only [State.blockOf] at hk
  cases hOwner : b.owner with
  | wave w => rw [hOwner] at hn; cases hn
  | block j =>
    rw [hOwner] at hk hn
    cases hn
    simpa using List.find?_some hk
  | handler j =>
    rw [hOwner] at hk hn
    cases hn
    simpa using List.find?_some hk

/-- A change of a bundle's block changes blocks or waves alone. -/
theorem State.modBlk_keeps {β : Type} (π : State → β) (hBlocks : ∀ s xs, π { s with blocks := xs } = π s)
    (hWaves : ∀ s xs, π { s with waves := xs } = π s) (s : State) (b : Bundle) (f : Block → Block) : π (s.modBlk b f) = π s := by
  simp only [State.modBlk]
  split
  case h_1 => exact hWaves s _
  case h_2 => exact hBlocks s _
  case h_3 => exact hBlocks s _

theorem State.modThread_id (s : State) (b l : Nat) : (s.modThread b l fun t => t) = s := by
  simp only [State.modThread, show (fun t : Thread => t) = id from rfl, List.modify_id]
  exact s.modBundle_id b

/-- An instruction whose effect on each lane is none. -/
theorem State.eachLane_id (s : State) (g : Group) : (s.eachLane g fun u _ => u) = s :=
  List.foldlRecOn (motive := fun u => u = s) g.acting (fun u _ => u) rfl fun _ hu _ _ => hu

theorem completes_idle {i : Instr} {chk : Check} {H : State → Group → Bundle → Prop}
    (he : ∀ s, exec i s = runLanes i chk (fun s _ _ _ => (s, .next)) s) (hc : ∀ s g b, H s.taken g b → Quiet chk s g b) :
    Completes i H (fun s _ _ => s) .next := by
  intro s g b h hH
  rw [he, runLanes_always (E := fun u _ => u) h (hc s g b hH) fun _ _ => rfl, State.eachLane_id]

/-! Barriers. -/

theorem State.bar_of_blockOf {s : State} {b : Bundle} {k : Block} (hk : s.blockOf b = some k) (q : Nat) : s.bar b q = k.bars.getD q {} := by
  simp only [State.bar, hk, Option.map_some, Option.getD_some]

/-- A changed record of a barrier reads as changed, or as it was where there is none. -/
theorem getD_modify_or {α : Type} (xs : List α) (q : Nat) (f : α → α) (d : α) :
    (xs.modify q f).getD q d = f (xs.getD q d) ∨ (xs.modify q f).getD q d = xs.getD q d := by
  by_cases hq : q < xs.length <;> simp [hq, List.getD]

theorem State.bar_modify (s : State) (b : Bundle) (q : Nat) (f : Bar → Bar) :
    (s.modBlk b fun k => { k with bars := k.bars.modify q f }).bar b q = f (s.bar b q) ∨
    (s.modBlk b fun k => { k with bars := k.bars.modify q f }).bar b q = s.bar b q := by
  have hFind := State.blockOf_modBlk s b (f := fun k => { k with bars := k.bars.modify q f }) fun _ => rfl
  cases hk : s.blockOf b with
  | none => exact .inr (by simp only [State.bar, hFind, hk, Option.map_none])
  | some k =>
    rw [hk] at hFind
    rw [State.bar_of_blockOf hk, State.bar_of_blockOf hFind]
    exact getD_modify_or k.bars q f {}

/-- A barrier on which a lane may arrive for a network (R184, R380). -/
def State.barOpen (s : State) (b : Bundle) (q net : Nat) : Prop := ∃ k, s.blockOf b = some k ∧
  ((k.bars.getD q {}).arrivals = [] ∨ (k.bars.getD q {}).network = some net) ∧ (3 ≤ net → s.countDiffers k net q = false)

/-- A barrier's record after one more arrival. -/
def Bar.joined (r : Bar) (net : Nat) (who : Nat × Nat) (chk : Bool) : Bar := { r with
  arrivals := r.arrivals ++ [who], network := some net, checking := r.checking || chk
  checkers := if chk then r.checkers ++ [who] else r.checkers }

/-- A block after one more arrival. -/
def Block.joined (k : Block) (q : Nat) (r : Bar) : Block := { k with bars := k.bars.set q r }

/-- The state after a lane's arrival (R183). -/
def State.joined (s : State) (b : Bundle) (l q net : Nat) (chk : Bool) : State :=
  (s.modBlk b (·.joined q ((s.bar b q).joined net (b.index, l) chk))).modThread b.id l fun t => { t with
    arrived := t.arrived.set q (some (s.bar b q).phase), arrivedOp := t.arrivedOp.set q s.fresh }

theorem State.arriveBar_of_open {s : State} {b : Bundle} {n q : Nat} (h : s.barOpen b q (netCode n)) (l : Nat) (chk : Bool) :
    s.arriveBar b l n q chk = (s.joined b l q (netCode n) chk, none) := by
  obtain ⟨k, hk, hJoins, hCount⟩ := h
  have hNetwork : (!(k.bars.getD q {}).arrivals.isEmpty && !((k.bars.getD q {}).network == some (netCode n))) = false := by
    obtain hNone | hSame := hJoins
    · rw [hNone]
      rfl
    · rw [hSame, beq_self_eq_true, Bool.not_true, Bool.and_false]
  have hDiffers : (decide (3 ≤ netCode n) && s.countDiffers k (netCode n) q) = false := by
    by_cases hNet : 3 ≤ netCode n
    · simp [hCount hNet]
    · simp [hNet]
  simp only [State.arriveBar, hk, hNetwork, hDiffers, Bool.false_eq_true, if_false, State.joined, State.bar_of_blockOf hk]
  have hFresh (f : Block → Block) : (s.modBlk b f).fresh = s.fresh :=
    State.modBlk_keeps State.fresh (fun _ _ => rfl) (fun _ _ => rfl) s b f
  simp only [hFresh]
  rfl

/-- Updates of some elements do not change whether a test holds of one, where it does not tell them from what they were. -/
theorem any_upd {α : Type} (xs : List α) (p : α → Bool) (f : α → α) (P : α → Bool) (h : ∀ x, p x = true → P (f x) = P x) :
    (upd xs p f).any P = xs.any P := by
  simp only [upd, List.any_map]
  congr 1
  funext x
  by_cases hx : p x = true <;> simp [hx, h]

theorem State.any_blocks_modBlk (s : State) (b : Bundle) (f : Block → Block) (P : Block → Bool)
    (h : ∀ x, b.owner.block? = some x.id → P (f x) = P x) : (s.modBlk b f).blocks.any P = s.blocks.any P := by
  simp only [State.modBlk]
  split
  case h_1 => rfl
  case h_2 n hOwner => exact any_upd _ _ _ _ fun x hx => h x (by rw [hOwner, beq_iff_eq.mp hx]; rfl)
  case h_3 n hOwner => exact any_upd _ _ _ _ fun x hx => h x (by rw [hOwner, beq_iff_eq.mp hx]; rfl)

/-- An arrival leaves the barrier's word, which gives a network its number and its count, as it was (R380). -/
theorem netWord_joined (k : Block) (q net : Nat) (who : Nat × Nat) (chk : Bool) :
    ((k.joined q ((k.bars.getD q {}).joined net who chk)).bars.getD q {}).word = (k.bars.getD q {}).word := by
  by_cases hq : q < k.bars.length <;> simp [Block.joined, Bar.joined, hq, List.getD]

theorem State.netName_joined {s t : State} (ht : t.tasks = s.tasks) (k : Block) (n q net : Nat) (who : Nat × Nat) (chk : Bool) :
    t.netName (k.joined q ((k.bars.getD q {}).joined net who chk)) n q = s.netName k n q := by
  simp only [State.netName, State.task?, ht, netWord_joined]
  rfl

theorem State.netCount_joined {s t : State} (hg : t.gangs = s.gangs) (k : Block) (n q net : Nat) (who : Nat × Nat) (chk : Bool) :
    t.netCount (k.joined q ((k.bars.getD q {}).joined net who chk)) n q = s.netCount k n q := by
  simp only [State.netCount, hg, netWord_joined]
  rfl

/-- Whether another block has arrived with another count does not change by an arrival of this one (R380). -/
theorem State.countDiffers_joined {s : State} {b : Bundle} {k : Block} (hk : s.blockOf b = some k) (l q net : Nat) (chk : Bool) :
    (s.joined b l q net chk).countDiffers (k.joined q ((k.bars.getD q {}).joined net (b.index, l) chk)) net q = s.countDiffers k net q := by
  have hTasks : (s.joined b l q net chk).tasks = s.tasks := State.modBlk_keeps State.tasks (fun _ _ => rfl) (fun _ _ => rfl) s b _
  have hGangs : (s.joined b l q net chk).gangs = s.gangs := State.modBlk_keeps State.gangs (fun _ _ => rfl) (fun _ _ => rfl) s b _
  have hNets : (s.joined b l q net chk).nets = s.nets := State.modBlk_keeps State.nets (fun _ _ => rfl) (fun _ _ => rfl) s b _
  have hSaved : (s.joined b l q net chk).saved = s.saved := State.modBlk_keeps State.saved (fun _ _ => rfl) (fun _ _ => rfl) s b _
  have hName (x : Block) : (s.joined b l q net chk).netName x net q = s.netName x net q := by
    simp only [State.netName, State.task?, hTasks]
  have hCount (x : Block) : (s.joined b l q net chk).netCount x net q = s.netCount x net q := by
    simp only [State.netCount, hGangs]
  simp only [State.countDiffers, State.netName_joined hTasks, State.netCount_joined hGangs, State.net?, hNets, hSaved, hName, hCount,
    List.any_append]
  congr 2
  refine State.any_blocks_modBlk s b _ _ fun x hx => ?_
  simp [Block.joined, State.blockOf_id hk hx]

theorem State.barOpen_joined {s : State} {b : Bundle} {q net : Nat} (h : s.barOpen b q net) (l : Nat) (chk : Bool) :
    (s.joined b l q net chk).barOpen b q net := by
  obtain ⟨k, hk, hJoins, hCount⟩ := h
  refine ⟨k.joined q ((k.bars.getD q {}).joined net (b.index, l) chk), ?_, ?_, fun hNet => ?_⟩
  · have hFind := State.blockOf_modBlk s b (f := (·.joined q ((s.bar b q).joined net (b.index, l) chk))) fun _ => rfl
    rw [hk, State.bar_of_blockOf hk] at hFind
    rw [State.joined, State.bar_of_blockOf hk]
    exact hFind
  · by_cases hq : q < k.bars.length
    · exact .inr (by simp [Block.joined, Bar.joined, hq, List.getD])
    · exact .inl (by simp [Block.joined, hq, List.getD])
  · rw [State.countDiffers_joined hk, hCount hNet]

theorem State.barOpen_modThread {s : State} {b : Bundle} {q net : Nat} (h : s.barOpen b q net) (n l : Nat) (f : Thread → Thread) :
    (s.modThread n l f).barOpen b q net := h

/-- BAR.ARR: each lane arrives. -/
theorem completes_arrives {i : Instr} {n q : BitVec 3} (chk : Bool) (he : ∀ s, exec i s = runBar i n q false chk s) :
    Completes i (fun s _ b => s.barOpen b q.toNat (netCode n.toNat))
      (fun s g b => s.eachLane g fun u l => u.joined b l q.toNat (netCode n.toNat) chk) .next := by
  intro s g b h hOpen
  rw [he, runBar]
  refine runLanes_ends (fun _ u => u.barOpen b q.toNat (netCode n.toNat)) h (quiet_noCheck s g b) hOpen fun u l _ _ hu => ?_
  rw [State.arriveBar_of_open hu]
  exact ⟨rfl, State.barOpen_joined hu l chk⟩

/-- BAR.SYNC and BAR.CHK: each lane arrives and is held until the phase. -/
theorem completes_arrivesAndWaits {i : Instr} {n q : BitVec 3} (chk : Bool) (he : ∀ s, exec i s = runBar i n q true chk s) :
    Completes i (fun s _ b => s.barOpen b q.toNat (netCode n.toNat))
      (fun s g b => s.eachLane g fun u l => (u.joined b l q.toNat (netCode n.toNat) chk).modThread b.id l fun t => { t with
        mid := some (.barWait (BitVec.ofNat 7 (8 * n.toNat + q.toNat)) chk) }) .stay := by
  intro s g b h hOpen
  rw [he, runBar]
  refine runLanes_ends (fun _ u => u.barOpen b q.toNat (netCode n.toNat)) h (quiet_noCheck s g b) hOpen fun u l _ _ hu => ?_
  rw [State.arriveBar_of_open hu]
  exact ⟨rfl, State.barOpen_modThread (State.barOpen_joined hu l chk) b.id l _⟩

/-! Pending counts (R185). -/

/-- A pending count that is set reads as set, or as it was where the block has no such barrier. -/
theorem State.pending_set_le {s : State} {b : Bundle} {q p : Nat} (h : (s.bar b q).pending ≤ p) :
    ((s.modBlk b fun k => { k with bars := k.bars.modify q fun r => { r with pending := p } }).bar b q).pending ≤ p := by
  obtain hNew | hOld := State.bar_modify s b q fun r => { r with pending := p }
  · exact Nat.le_of_eq (congrArg Bar.pending hNew)
  · exact Nat.le_trans (Nat.le_of_eq (congrArg Bar.pending hOld)) h

/-- The value that a lane adds. -/
def State.addend (s : State) (b : Bundle) (a : BitVec 7) (l : Nat) : Nat := ((s.thread b.id l).val a.toNat).toNat

theorem completes_barAddb (n q : BitVec 3) (a : BitVec 7) :
    Completes (.barAddb n q a) (fun s g b => (s.bar b q.toNat).pending + (g.acting.map (s.addend b a)).sum < 2 ^ 32)
      (fun s g b => s.eachLane g fun u l => u.modBlk b fun k => { k with
        bars := k.bars.modify q.toNat fun r => { r with pending := (u.bar b q.toNat).pending + u.addend b a l } }) .next := by
  intro s g b h hSum
  show execBarAddb n q a s = _
  rw [execBarAddb]
  refine runLanes_ends (fun ls u => (∀ l, u.addend b a l = s.taken.addend b a l) ∧
    (u.bar b q.toNat).pending + (ls.map (s.taken.addend b a)).sum < 2 ^ 32) h (quiet_noCheck s g b) ⟨fun _ => rfl, hSum⟩ ?_
  rintro u l ls - ⟨hSame, hFits⟩
  rw [List.map_cons, List.sum_cons, ← hSame] at hFits
  have hRoom : ¬2 ^ 32 - 1 < (u.bar b q.toNat).pending + u.addend b a l := by omega
  refine ⟨?_, fun x => ?_, ?_⟩
  · simp only [State.addend] at hRoom ⊢
    rw [if_neg hRoom]
  · rw [← hSame, State.addend, State.thread_of_bundles (State.modBlk_bundles u b _)]
    rfl
  · have hLe := State.pending_set_le (s := u) (b := b) (q := q.toNat) (Nat.le_add_right (u.bar b q.toNat).pending (u.addend b a l))
    omega

theorem quiet_slotNamed {z : BitVec 4} {s : State} {g : Group} {b : Bundle} (h : z = 15#4 ∨ z.toNat < (s.taken.core b.core).slots.length) :
    Quiet (slotNamed z) s g b := by
  intro l _ _ t _
  obtain hAny | hNamed := h
  · simp [slotNamed, hAny]
  · simp [slotNamed, hNamed]

/-- Settles O40: an arrival keeps the barrier open for the lanes that follow, the values still to be added fit the pending count after each one,
and the waits have nothing left to do. -/
theorem barriersCountAndWaitsEnd : Obligations.BarriersCountAndWaitsEnd := by
  intro n q t z a net opens arrive held value
  refine ⟨?arr, ?sync, ?chk, ?addb, ?waits⟩
  case arr => exact completes_arrives false fun _ => rfl
  case sync => exact completes_arrivesAndWaits false fun _ => rfl
  case chk => exact completes_arrivesAndWaits true fun _ => rfl
  case addb => exact completes_barAddb n q a
  case waits =>
    intro named
    refine ⟨completes_idle (fun _ => rfl) fun s g b _ => quiet_noCheck s g b, completes_idle (fun _ => rfl) fun s g b _ => quiet_noCheck s g b,
      completes_idle (fun _ => rfl) fun s g b h => quiet_slotNamed h, ?_⟩
    intro s g b h hNamed
    exact runLanes_always h (quiet_slotNamed hNamed) fun _ _ => rfl

end Sys2Proof.Machine
end

section
/-! SUPPORT. Circular buffers (R176, R177): a group's one operation on the buffer that its name stands for. -/

namespace Sys2Proof.Machine

/-- What a group's operation does with a buffer's record (R177). -/
def State.moveBuf (s : State) (b : Bundle) (q : Nat) (f : Buf → Buf) : State := match (s.blockOf b).bind (s.bufRef · q) with
  | some (hk, hq, _) => s.modBuf hk hq f
  | none => s

/-- The offset that every acting lane is given, from the buffer as it stood. -/
def State.giveOffset (s v : State) (g : Group) (b : Bundle) (q d : Nat) (off : Buf → Nat) : State :=
  match (s.blockOf b).bind (s.bufRef · q) with
  | some (_, _, u) => v.eachLane g fun w l => w.modThread b.id l fun t => t.write d (BitVec.ofNat 32 (off u))
  | none => v

/-- A group names a buffer on which its operation may go on. -/
def State.bufReady (s : State) (g : Group) (b : Bundle) (q : Nat) (P : Buf → Prop) : Prop :=
  g.acting ≠ [] ∧ ∃ hk hq u, (s.blockOf b).bind (s.bufRef · q) = some (hk, hq, u) ∧ P u

theorem completes_buf {i : Instr} {q : BitVec 3} {d : Nat} {ok : Buf → Option LaneEnd} {f : Buf → Buf} {off : Buf → Nat} {P : Buf → Prop}
    (he : ∀ s, exec i s = runBuf i q d ok f off s) (hok : ∀ u, P u → ok u = none) :
    Completes i (fun s g b => s.bufReady g b q.toNat P)
      (fun s g b => s.giveOffset (s.moveBuf b q.toNat f) g b q.toNat d off) .next := by
  rintro s g b h ⟨hActing, hk, hq, u, hRef, hReady⟩
  rw [he, runBuf]
  obtain ⟨l, ls, hLanes⟩ := List.exists_cons_of_ne_nil hActing
  refine runWith_ends h (quiet_noCheck s g b) ?_ fun l _ => ?_
  · simp only [hLanes, hRef, hok u hReady, State.giveOffset, State.moveBuf, State.eachLane]
  · simp only [hLanes, hRef, hok u hReady, endOf, List.lookup_nil, Option.getD_none, ite_self]

/-- An operation that returns no offset: register 0 discards what is written (R24). -/
theorem State.giveOffset_zero (s v : State) (g : Group) (b : Bundle) (q : Nat) (off : Buf → Nat) : s.giveOffset v g b q 0 off = v := by
  simp only [State.giveOffset]
  split
  · next u _ =>
    have hSame (w : State) (l : Nat) : (w.modThread b.id l fun t => t.write 0 (BitVec.ofNat 32 (off u))) = w := w.modThread_id b.id l
    simp only [hSame]
    exact v.eachLane_id g
  · rfl

theorem completes_bufOnly {i : Instr} {q : BitVec 3} {ok : Buf → Option LaneEnd} {f : Buf → Buf} {P : Buf → Prop}
    (he : ∀ s, exec i s = runBuf i q 0 ok f (fun _ => 0) s) (hok : ∀ u, P u → ok u = none) :
    Completes i (fun s g b => s.bufReady g b q.toNat P) (fun s _ b => s.moveBuf b q.toNat f) .next := by
  intro s g b h hReady
  have hGives := completes_buf he hok s g b h hReady
  simpa only [State.giveOffset_zero] using hGives

/-- Settles O41: each operation moves the record of the buffer that its name stands for; CBCMT and CBPOP return their offset to register 0. -/
theorem buffersMoveOneSlotOn : Obligations.BuffersMoveOneSlotOn := by
  intro q d names move give
  refine ⟨?push, ?commit, ?wait, ?pop⟩
  case push => exact completes_buf (fun _ => rfl) fun u hu => if_neg hu
  case commit => exact completes_bufOnly (fun _ => rfl) fun u hu => if_neg hu
  case wait => exact completes_buf (fun _ => rfl) fun u hu => if_neg hu
  case pop => exact completes_bufOnly (fun _ => rfl) fun u hu => if_neg hu

end Sys2Proof.Machine
end

section
/-! SUPPORT. ACP and ACB at issue (R179, R182): their causes, and the room that each lane leaves to the next. -/

namespace Sys2Proof.Machine

theorem State.pending0_add_le (s : State) (b : Bundle) (n : Nat) : (s.modPending0 b (· + n)).pending0 b ≤ s.pending0 b + n := by
  obtain hNew | hOld := State.bar_modify s b 0 fun r => { r with pending := r.pending + n }
  · exact Nat.le_of_eq (congrArg Bar.pending hNew)
  · exact Nat.le_trans (Nat.le_of_eq (congrArg Bar.pending hOld)) (Nat.le_add_right _ n)

/-- Where a copy's source has no cause, a part of it that can be read has none either. -/
theorem State.copyChecks_parts {s : State} {b : Bundle} {stream n : Nat} {ga : DWord} (h : s.copyChecks b stream ga n = []) :
    s.copyChecks b stream ga 0 = [] ∧ s.copyChecks b stream 0 0 = [] ∧ ga.toNat % 32 = 0 := by
  simp only [State.copyChecks, List.append_eq_nil_iff] at h
  obtain ⟨⟨hStream, _⟩, hAlign⟩ := h
  have hAligned : ga.toNat % 32 = 0 := Decidable.byContradiction fun hOdd => by
    rw [if_neg hOdd] at hAlign
    cases hAlign
  simp only [State.copyChecks, hStream, hAligned]
  exact ⟨rfl, rfl, trivial⟩

/-- ACP finds no cause in a thread whose source is sound, whose offset is aligned, and whose copy fits the pending count (R179). -/
theorem State.acpTraps_nil {s : State} {b : Bundle} {x : Thread} {bb : BitVec 1} {st : BitVec 4} {v : BitVec 5} {p : BitVec 6} {o : BitVec 7}
    (hSource : s.copyChecks b st.toNat (x.pair (2 * p.toNat)) (min (x.val v.toNat).toNat 32) = []) (hOffset : (x.val o.toNat).toNat % 32 = 0)
    (hPending : bb = 1#1 → s.pending0 b + 32 < 2 ^ 32) : s.acpTraps b x bb st v p o = [] := by
  obtain ⟨hStart, hNowhere, _⟩ := State.copyChecks_parts hSource
  have hFits : (bb == 1#1 && decide (2 ^ 32 - 1 < (s.bar b 0).pending + 32)) = false := by
    by_cases hb : bb = 1#1
    · have hLt : (s.bar b 0).pending + 32 < 2 ^ 32 := hPending hb
      simp only [hb, beq_self_eq_true, Bool.true_and, decide_eq_false_iff_not]
      omega
    · simp [hb]
  simp only [State.acpTraps, hOffset, hFits, hSource, Bool.false_eq_true, if_false, List.append_eq_nil_iff]
  refine ⟨⟨?_, by simp⟩, trivial⟩
  split
  · rfl
  · split
    · exact hStart
    · exact hNowhere

theorem State.pending0_of_records {s t : State} (hBlocks : t.blocks = s.blocks) (hWaves : t.waves = s.waves) (b : Bundle) :
    t.pending0 b = s.pending0 b := by
  simp only [State.pending0, State.bar, State.blockOf_of_records hBlocks hWaves]

/-- An ACP's command, from the state in which it joins the copies (R179). -/
def State.copyCmd (s : State) (g : Group) (b : Bundle) (l stream : Nat) (x : Thread) (v o : Nat) (ga : DWord) (tag : Nat) (onBar : Bool) : CopyCmd :=
  { id := s.fresh, block := ((s.blockOf b).map (·.id)).getD 0, bundle := b.id, lane := l, stream := stream, pc := g.start
    valid := min (x.val v).toNat 32, off := (x.val o).toNat, tag := tag, b := onBar, ea := ga
    src := match s.globalPlace b stream ga with
      | .mem pa => pa
      | .peer _ va => va
      | _ => 0
    peer := match s.globalPlace b stream ga with
      | .peer k _ => some k
      | _ => none }

/-- The state after one lane's ACP. -/
def State.joinCopies (s : State) (g : Group) (b : Bundle) (l : Nat) (bb : BitVec 1) (st : BitVec 4) (tg : BitVec 3) (v : BitVec 5) (p : BitVec 6)
    (o : BitVec 7) : State :=
  let x := s.thread b.id l
  let w := if bb == 1#1 then s.modPending0 b (· + 32) else s
  ({ (w.modThread b.id l fun t => t.modTag tg.toNat (· + 1)) with
    copies := w.copies ++ [w.copyCmd g b l st.toNat x v.toNat o.toNat (x.pair (2 * p.toNat)) tg.toNat (bb == 1#1)] } : State).next

theorem State.pending0_joinCopies_le (s : State) (g : Group) (b : Bundle) (l : Nat) (st : BitVec 4) (tg : BitVec 3) (v : BitVec 5) (p : BitVec 6)
    (o : BitVec 7) : (s.joinCopies g b l 1#1 st tg v p o).pending0 b ≤ s.pending0 b + 32 := by
  rw [State.pending0_of_records (s := s.modPending0 b (· + 32)) (t := s.joinCopies g b l 1#1 st tg v p o) rfl rfl]
  exact s.pending0_add_le b 32

theorem completes_acp (bb : BitVec 1) (st : BitVec 4) (tg : BitVec 3) (v : BitVec 5) (p : BitVec 6) (o : BitVec 7) :
    Completes (.acp bb st tg v p o) (fun s g b =>
        (bb = 1#1 → s.pending0 b + 32 * g.acting.length < 2 ^ 32) ∧
        EachActive g b fun x => s.copyChecks b st.toNat (x.pair (2 * p.toNat)) (min (x.val v.toNat).toNat 32) = [] ∧
          (x.val o.toNat).toNat % 32 = 0)
      (fun s g b => s.eachLane g fun u l => u.joinCopies g b l bb st tg v p o) .next := by
  rintro s g b h ⟨hPending, hSound⟩
  show execAcp bb st tg v p o s = _
  rw [execAcp]
  refine runLanes_ends (fun ls u => bb = 1#1 → u.pending0 b + 32 * ls.length < 2 ^ 32) h ?quiet hPending ?lanes
  case quiet =>
    intro l hl ha x hx
    obtain ⟨hSource, hOffset⟩ := hSound l hl ha x hx
    refine State.acpTraps_nil hSource hOffset fun hb => ?_
    have hActing := List.length_pos_of_mem (mem_acting.mpr ⟨hl, ha⟩)
    have hAll := hPending hb
    omega
  case lanes =>
    intro u l ls _ hu
    have hFits : (bb == 1#1 && decide (2 ^ 32 - 1 < u.pending0 b + 32)) = false := by
      by_cases hb : bb = 1#1
      · have hRoom := hu hb
        rw [List.length_cons] at hRoom
        simp only [hb, beq_self_eq_true, Bool.true_and, decide_eq_false_iff_not]
        omega
      · simp [hb]
    refine ⟨?_, ?_⟩
    · simp only [hFits, Bool.false_eq_true, if_false]
      rfl
    · rintro rfl
      have hRoom := hu rfl
      have hLe := u.pending0_joinCopies_le g b l st tg v p o
      rw [List.length_cons] at hRoom
      omega

/-! ACB (R182). -/

/-- The state after one lane's ACB. -/
def State.joinAcbs (s : State) (g : Group) (b : Bundle) (l : Nat) (q : BitVec 3) (a : BitVec 7) : State :=
  let t := s.thread b.id l
  let ws := t.vals a.toNat 4
  let w := (ws.getD 3 0).toNat
  let c : AcbCmd := { id := s.fresh, block := ((s.blockOf b).map (·.id)).getD 0, bundle := b.id, lane := l
                      stream := bits w 3 0, pc := g.start, src := (t.pair a.toNat).toNat, left := (ws.getD 2 0).toNat
                      buf := q.toNat, tag := bits w 6 4, b := bit w 7, desc := ws }
  if (ws.getD 2 0).toNat = 0 then s
  else ({ (s.modThread b.id l fun t => t.modTag c.tag (· + 1)) with acbs := s.acbs ++ [c] } : State).next

theorem State.acbCount_append_le {s t : State} (hBlocks : t.blocks = s.blocks) (hAcbs : ∃ c, t.acbs = s.acbs ++ [c]) (core : Nat) :
    t.acbCount core ≤ s.acbCount core + 1 := by
  obtain ⟨c, hAcbs⟩ := hAcbs
  simp only [State.acbCount, State.block?, hBlocks, hAcbs, List.filter_append, List.length_append]
  exact Nat.add_le_add_left (List.length_filter_le _ [c]) _

theorem State.acbCount_joinAcbs_le (s : State) (g : Group) (b : Bundle) (l : Nat) (q : BitVec 3) (a : BitVec 7) (core : Nat) :
    (s.joinAcbs g b l q a).acbCount core ≤ s.acbCount core + 1 := by
  by_cases hNone : (((s.thread b.id l).vals a.toNat 4).getD 2 0).toNat = 0
  · rw [State.joinAcbs, if_pos hNone]
    exact Nat.le_succ _
  · rw [State.joinAcbs, if_neg hNone]
    refine State.acbCount_append_le (s := s) ?_ ?_ core
    · rfl
    · exact ⟨_, rfl⟩

theorem completes_acb (q : BitVec 3) (a : BitVec 7) :
    Completes (.acb q a) (fun s g b => s.acbCount b.core + g.acting.length ≤ 16 ∧ EachActive g b fun t =>
        ((t.vals a.toNat 4).getD 3 0).toNat / 256 = 0 ∧
        s.copyChecks b (bits ((t.vals a.toNat 4).getD 3 0).toNat 3 0) (t.pair a.toNat) ((t.vals a.toNat 4).getD 2 0).toNat = [])
      (fun s g b => s.eachLane g fun u l => u.joinAcbs g b l q a) .next := by
  rintro s g b h ⟨hRoom, hSound⟩
  show execAcb q a s = _
  rw [execAcb]
  refine runLanes_ends (fun ls u => u.acbCount b.core + ls.length ≤ 16) h ?quiet hRoom ?lanes
  case quiet =>
    intro l hl ha t ht
    obtain ⟨hReserved, hSource⟩ := hSound l hl ha t ht
    simp only [State.acbTraps, hReserved, hSource, if_true, List.append_nil]
  case lanes =>
    intro u l ls _ hu
    rw [List.length_cons] at hu
    have hFull : ¬16 ≤ u.acbCount b.core := by omega
    refine ⟨?_, ?_⟩
    · simp only [hFull, if_false, State.joinAcbs]
      split <;> rfl
    · have hLe := u.acbCount_joinAcbs_le g b l q a b.core
      omega

/-- Settles O45: the pending count and the queue have room for the lanes still to come after each one. -/
theorem copiesJoinTheirQueues : Obligations.CopiesJoinTheirQueues := by
  intro bb st tg q v p o a
  exact ⟨completes_acp bb st tg v p o, completes_acb q a⟩

end Sys2Proof.Machine
end

section
/-! SUPPORT. CARVINV, STMAP and STUNMAP (R169, R170, R314). -/

namespace Sys2Proof.Machine

theorem completes_carvinv (a : BitVec 7) :
    Completes (.carvinv a) (fun s g b => EachActive g b fun t => s.globalChecks b 0 (t.pair a.toNat) 704 true false 64 = [])
      (fun s g b => s.eachLane g fun u l => match (u.globalPlace b 0 ((u.thread b.id l).pair a.toNat)).txAddr with
        | some pa => { u with carver := u.carver.filterMap fun e =>
            if e.pa ≠ pa then some e else if e.compiling then some { e with restarts := e.restarts + 1 } else none }
        | none => u) .next := by
  intro s g b h hSound
  exact runLanes_always h hSound fun _ _ => rfl

/-- Nothing goes through a block's maps, and no line of theirs is to be written back (R170). -/
def State.mapsIdle (s : State) (b : Bundle) : Prop :=
  ∀ k, s.blockOf b = some k → ∀ m ∈ k.maps, (∀ x ∈ m.lines, x.state ≠ .dirty) ∧
    ∀ r ∈ s.reqs, r.viaMap k.id m.id = false ∧ ∀ x y z w, r.kind ≠ .writeback k.id m.id x y z w

/-- A block without one of its maps. -/
def Block.withoutMap (k : Block) (m : Nat) : Block := { k with maps := k.maps.filter fun y => !(y.id == m) }

/-- The map that a lane's STUNMAP names. -/
def State.mapNamed (s : State) (b : Bundle) (a : BitVec 7) (l : Nat) : Option (Block × StashMap) :=
  (s.blockOf b).bind fun k => (k.mapAt ((s.thread b.id l).pair a.toNat).toNat).map fun m => (k, m)

theorem State.mapNamed_some {s : State} {b : Bundle} {a : BitVec 7} {l : Nat} {k : Block} {m : StashMap}
    (h : s.mapNamed b a l = some (k, m)) : s.blockOf b = some k ∧ m ∈ k.maps := by
  simp only [State.mapNamed, Option.bind_eq_some_iff, Option.map_eq_some_iff, Prod.mk.injEq] at h
  obtain ⟨k', hk, m', hm, rfl, rfl⟩ := h
  exact ⟨hk, List.mem_of_find?_eq_some hm⟩

theorem State.block?_modBlock (s : State) (n j : Nat) {f : Block → Block} (hf : ∀ x, (f x).id = x.id) :
    (s.modBlock n f).block? j = (s.block? j).map fun x => if x.id == n then f x else x := by
  have hName : ((fun x : Block => x.id == j) ∘ fun x => if x.id == n then f x else x) = fun x => x.id == j := by
    funext x
    rw [Function.comp_apply]
    split
    · rw [hf]
    · rfl
  simp only [State.modBlock, State.block?, upd, List.find?_map, hName]

/-- A block that a bundle works for, after one of the blocks lost a map: as it was, or without that map. -/
theorem State.blockOf_withoutMap {s : State} {b : Bundle} {n m : Nat} {k' : Block}
    (h : (s.modBlock n (·.withoutMap m)).blockOf b = some k') : ∃ k, s.blockOf b = some k ∧ k'.id = k.id ∧ ∀ x ∈ k'.maps, x ∈ k.maps := by
  have hBlock (j : Nat) (hj : (s.modBlock n (·.withoutMap m)).block? j = some k') :
      ∃ k, s.block? j = some k ∧ k'.id = k.id ∧ ∀ x ∈ k'.maps, x ∈ k.maps := by
    rw [State.block?_modBlock s n j (f := (·.withoutMap m)) fun _ => rfl, Option.map_eq_some_iff] at hj
    obtain ⟨k, hk, rfl⟩ := hj
    refine ⟨k, hk, ?_⟩
    split
    · exact ⟨rfl, fun x hx => (List.mem_filter.mp hx).1⟩
    · exact ⟨rfl, fun x hx => hx⟩
  simp only [State.blockOf] at h ⊢
  split at h
  case h_1 => exact ⟨k', h, rfl, fun _ hx => hx⟩
  case h_2 => exact hBlock _ h
  case h_3 => exact hBlock _ h

theorem State.mapsIdle_withoutMap {s : State} {b : Bundle} (h : s.mapsIdle b) (n m : Nat) : (s.modBlock n (·.withoutMap m)).mapsIdle b := by
  intro k' hk' x hx
  obtain ⟨k, hk, hId, hMaps⟩ := State.blockOf_withoutMap hk'
  rw [hId]
  exact h k hk x (hMaps x hx)

/-- Whether a map has a line to write back, or a request under way (R170). -/
def State.mapBusy (s : State) (k : Block) (m : StashMap) : Bool :=
  m.lines.any (fun x => x.state == .dirty) || s.reqs.any fun r => match r.kind with
    | .writeback kb mb _ _ _ _ => kb == k.id && mb == m.id
    | _ => r.viaMap k.id m.id

theorem State.mapBusy_of_idle {s : State} {b : Bundle} {k : Block} {m : StashMap} (h : s.mapsIdle b) (hk : s.blockOf b = some k) (hm : m ∈ k.maps) :
    s.mapBusy k m = false := by
  obtain ⟨hClean, hQuiet⟩ := h k hk m hm
  rw [State.mapBusy, Bool.or_eq_false_iff, List.any_eq_false, List.any_eq_false]
  refine ⟨fun x hx => by simpa using hClean x hx, fun r hr => ?_⟩
  obtain ⟨hVia, hBack⟩ := hQuiet r hr
  split
  · next kb mb x y z w hKind =>
    intro hSame
    rw [Bool.and_eq_true, beq_iff_eq, beq_iff_eq] at hSame
    obtain ⟨rfl, rfl⟩ := hSame
    exact hBack x y z w hKind
  · simp [hVia]

/-- STUNMAP, lane by lane. -/
theorem exec_stunmap (a : BitVec 7) (s : State) : exec (.stunmap a) s = runLanes (.stunmap a) noCheck (fun s _ b l =>
    match s.mapNamed b a l with
    | none => (s, .next)
    | some (k, m) =>
      if s.mapBusy k m then ((s.writeBack k fun m' _ => m'.id == m.id).modThread b.id l fun t => { t with mid := some (.unmap m.id) }, .stay)
      else (s.modBlock k.id (·.withoutMap m.id), .next)) s := by rfl

theorem completes_stunmap (a : BitVec 7) :
    Completes (.stunmap a) (fun s _ b => s.mapsIdle b)
      (fun s g b => s.eachLane g fun u l => match u.mapNamed b a l with
        | none => u
        | some (k, m) => u.modBlock k.id (·.withoutMap m.id)) .next := by
  intro s g b h hIdle
  rw [exec_stunmap]
  refine runLanes_ends (fun _ u => u.mapsIdle b) h (quiet_noCheck s g b) hIdle fun u l _ _ hu => ?_
  cases hNamed : u.mapNamed b a l with
  | none => exact ⟨rfl, hu⟩
  | some x =>
    obtain ⟨k, m⟩ := x
    obtain ⟨hk, hm⟩ := State.mapNamed_some hNamed
    simp only [State.mapBusy_of_idle hu hk hm, Bool.false_eq_true, if_false, true_and]
    exact State.mapsIdle_withoutMap hu k.id m.id

/-- Settles O48: CARVINV and STMAP act on each lane alike, and a map that has been removed leaves the block's others idle. -/
theorem tilesAndStashMapsAreManaged : Obligations.TilesAndStashMapsAreManaged := by
  intro a d
  refine ⟨completes_carvinv a, fun s g b h _ => ?_, completes_stunmap a⟩
  exact runLanes_always h (quiet_noCheck s g b) fun _ _ => rfl

end Sys2Proof.Machine
end

section
/-! SUPPORT. The stash, the engines and the copy engine (R171, R172, R179, R181, R200): what each of their events does where nothing holds it. -/

namespace Sys2Proof.Machine

theorem exec_stashFillReturn (block map line : Nat) (s : State) :
    exec (.stashFillReturn block map line) s = execStashFillReturn block map line s := by rfl
theorem exec_stashLineRecall (block map line : Nat) (s : State) :
    exec (.stashLineRecall block map line) s = execStashLineRecall block map line s := by rfl
theorem exec_engineRegistration (op : Nat) (s : State) : exec (.engineRegistration op) s = execEngineRegistration op s := by rfl
theorem exec_engineLineWrite (op : Nat) (s : State) : exec (.engineLineWrite op) s = execEngineLineWrite op s := by rfl
theorem exec_copyComplete (op : Nat) (s : State) : exec (.copyComplete op) s = execCopyComplete op s := by rfl

/-! The stash (R171, R172). -/

/-- Every byte of a line has its home on one die (R145). -/
theorem homeDie_line (pa : Nat) : homeDie (64 * (pa / 64)) = homeDie pa := by
  have hHbm : 64 * (pa / 64) < 2 ^ 39 ↔ pa < 2 ^ 39 := by omega
  have hLow : 64 * (pa / 64) / 2 ^ 37 = pa / 2 ^ 37 := by omega
  have hHigh : 64 * (pa / 64) / 2 ^ 42 = pa / 2 ^ 42 := by omega
  simp only [homeDie, bits, hHbm, hLow, hHigh]

/-- The requests that wait for a line of a stash map. -/
def State.wantedBy (s : State) (block map window line : Nat) : List Req := s.reqs.filter fun r => match r.place with
  | .stash b q off _ => b == block && q == map && (off - window) / 64 == line
  | _ => false

/-- The latest acquire stamp of those who wait for a line (R195). -/
def State.fillStamp (s : State) (block map window line : Nat) : Option Nat := latest ((s.wantedBy block map window line).filterMap s.stampOf)

/-- The state in which a line of a map has taken what its home grants, at its offset in the window. -/
def State.fillLine (block map line off : Nat) (g : State × Copy) : State :=
  (g.1.spadWrite block off g.2.data).modStash block map line fun y => { y with
    state := .clean, wts := g.2.wts, rts := g.2.rts, grant := g.2.grant, bytes := [], bundles := [] }

section
variable {s : State} {block map line : Nat} {k : Block} {m : StashMap} (hk : s.block? block = some k) (hm : s.stashMap block map = some m)
include hk hm

/-- A wanted line that its home gives is filled (R171). -/
theorem stashFillReturn_wanted {t : Task} {pa : Nat} (ht : s.task? k.task = some t) (hPa : translate t.xlat (m.base + 64 * line) = some pa)
    (hOld : s.stashUsable k.core pa (s.fillStamp block map m.window line) (m.lineAt (m.window + 64 * line)) = false)
    (hWanted : s.wantedBy block map m.window line ≠ []) (hBack : s.writingBack block map line = false)
    (hHeld : s.lineHeld (pa / 64) (0, 64) false = false) :
    exec (.stashFillReturn block map line) s =
      .next (State.fillLine block map line (m.window + 64 * line) (s.grant k.core (pa / 64) (s.fillStamp block map m.window line) 0)) := by
  have hExec : exec (.stashFillReturn block map line) s =
      .next (if s.stashUsable k.core pa (s.fillStamp block map m.window line) (m.lineAt (m.window + 64 * line)) ||
          (s.wantedBy block map m.window line).isEmpty || s.writingBack block map line || s.lineHeld (pa / 64) (0, 64) false then s
        else State.fillLine block map line (m.window + 64 * line) (s.grant k.core (pa / 64) (s.fillStamp block map m.window line) 0)) := by
    simp only [exec_stashFillReturn, execStashFillReturn, hk, hm, ht, hPa, Option.bind_some]
    rfl
  have hAsked : (s.wantedBy block map m.window line).isEmpty = false := List.isEmpty_eq_false_iff.mpr hWanted
  simp only [hExec, hOld, hAsked, hBack, hHeld, Bool.or_self, Bool.false_eq_true, if_false]

/-- A dirty line is written back (R172). -/
theorem stashLineRecall_dirty (hDirty : (m.lineAt (m.window + 64 * line)).state = .dirty) :
    exec (.stashLineRecall block map line) s = .next ((s.writeBack k fun m' x => m'.id == map && x.idx == line).modStash block map line fun y =>
      { y with state := .untouched, bytes := [], bundles := [] }) := by
  simp only [exec_stashLineRecall, execStashLineRecall, hk, hm, hDirty]

/-- A clean one is dropped (R172). -/
theorem stashLineRecall_clean (hClean : (m.lineAt (m.window + 64 * line)).state = .clean) :
    exec (.stashLineRecall block map line) s = .next (s.modStash block map line fun y => { y with state := .untouched }) := by
  simp only [exec_stashLineRecall, execStashLineRecall, hk, hm, hClean]

end

/-- A line granted by a home on the core's own die is the memory's, with the home's write time (R153). -/
theorem State.grant_own {s : State} {c pa : Nat} (hHome : homeDie pa = dieOf c) (stamp : Option Nat) :
    (s.grant c (pa / 64) stamp 0).2.data = readBytes s.mem (64 * (pa / 64)) 64 ∧ (s.grant c (pa / 64) stamp 0).2.wts = (s.line (pa / 64)).wts := by
  rw [← homeDie_line] at hHome
  obtain ⟨_, _, hData, hWts, _⟩ := State.grant_home (s := s) (policy := 0) hHome (by decide) stamp
  rw [hData, hWts, State.line_grant_home hHome (by decide) stamp, State.lineData, State.grant_mem]
  exact ⟨rfl, rfl⟩

/-! Engines (R200). -/

/-- The next destination line that no request waits at is registered. -/
theorem engineRegistration_next {s : State} {op ln : Nat} (hNext : (s.engineLines op).1.find? (fun ln => !((s.engineLines op).2.1.contains ln)) = some ln)
    (hFree : s.lineHeld ln (0, 64) true = false) (hReqs : ∀ r ∈ s.reqs, r.held.isSome = true → r.place.line ≠ some ln)
    (hStores : ∀ x ∈ s.heldStores, ∀ y ∈ x.bytes, y.1 / 64 ≠ ln) :
    let u := (s.homeBytes 0 ln []).1.modLine ln fun y => { y with owner := some op }
    exec (.engineRegistration op) s = .next { u with
      parts := upd u.parts (·.id == op) fun p => { p with lines := p.lines ++ [ln] }
      copies := upd u.copies (·.id == op) fun c => { c with lines := c.lines ++ [ln] } } := by
  have hNoReq : (s.reqs.any fun r => r.held.isSome && r.place.line == some ln) = false := by
    rw [List.any_eq_false]
    intro r hr
    simpa using hReqs r hr
  have hNoStore : (s.heldStores.any fun x => x.bytes.any fun y => y.1 / 64 == ln) = false := by
    simpa using hStores
  simp only [exec_engineRegistration, execEngineRegistration, hNext, hFree, hNoReq, hNoStore, Bool.or_self, Bool.false_eq_true, if_false]

/-- The next registered line is written, and its ownership ends. -/
theorem engineLineWrite_next {s t : State} {op ln core : Nat} {bs : List (Nat × Byte)}
    (hNext : (s.engineLines op).2.1.find? (fun ln => !((s.engineLines op).2.2.contains ln)) = some ln)
    (hData : s.engineData op ln = some (t, bs, core)) :
    let h := t.homeBytes (t.engineTime core ln) ln bs
    let u := (h.1.modLine ln fun y => { y with owner := none }).copyTakes core (64 * ln) h.2 bs
    exec (.engineLineWrite op) s = .next { u with
      parts := upd u.parts (·.id == op) fun p => { p with written := p.written ++ [ln], wts := max p.wts h.2 }
      copies := upd u.copies (·.id == op) fun c => { c with written := c.written ++ [ln] } } := by
  simp only [exec_engineLineWrite, execEngineLineWrite, hNext, hData]

/-! The copy engine (R179). -/

/-- A copy whose source is the package's own is complete at once: it is no outside input (R425). -/
theorem copyComplete_own {s : State} {op : Nat} {c : CopyCmd} (hc : s.copies.find? (fun c => c.id == op && c.packet.isNone) = some c)
    (hPeer : c.peer = none) : exec (.copyComplete op) s = .next (s.copyDone op s.draw) := by
  simp [exec_copyComplete, execCopyComplete, hc, hPeer]

theorem State.copyDone_own {s : State} {op : Nat} {c : CopyCmd} {b : Bundle} (hc : s.copies.find? (fun c => c.id == op && c.packet.isNone) = some c)
    (hb : s.bundle? c.bundle = some b) (hStores : s.storesBefore c.bundle c.lane c.stream c.id = false) (hPeer : c.peer = none)
    (hSource : c.valid = 0 ∨ s.engineHeld (dieOf b.core) c.src = false) (draw : Nat) :
    let data := if c.valid = 0 then [] else s.engineRead (dieOf b.core) c.olds c.src c.valid
    let v := (if c.valid = 0 then s else s.touch c.src).drawn.engineSpad b 1 c.off (data ++ List.replicate (32 - c.valid) 0)
    let u := if c.b = true then v.modPending0 b (· - 32) else v
    s.copyDone op draw = ({ u with copies := u.copies.filter fun x => !(x.id == op) } : State).modThread c.bundle c.lane fun t =>
      t.modTag c.tag (· - 1) := by
  have hHeld : (decide (0 < c.valid) && c.peer.isNone && s.engineHeld (dieOf b.core) c.src) = false := by
    obtain hNone | hFree := hSource
    · simp [hNone]
    · simp [hFree]
  simp only [State.copyDone, hc, hb, hStores, hHeld, Bool.or_self, Bool.false_eq_true, if_false]
  simp only [hPeer, Option.isSome_none, Bool.false_eq_true, or_false]

/-- Settles O51: each event does what it says where nothing holds it, and a line filled from a home on the core's own die is memory's. -/
theorem stashAndEnginesMoveLines : Obligations.StashAndEnginesMoveLines := by
  intro op block map line s
  refine ⟨?fill, fun k m hk hm hDirty => stashLineRecall_dirty hk hm hDirty, fun k m hk hm hClean => stashLineRecall_clean hk hm hClean,
    fun ln hNext hFree hReqs hStores => engineRegistration_next hNext hFree hReqs hStores,
    fun ln t bs core hNext hData => engineLineWrite_next hNext hData, ?copied⟩
  case fill =>
    intro k m t pa hk hm ht hPa wanted stamp hOld hWanted hBack hHeld g
    exact ⟨stashFillReturn_wanted hk hm ht hPa hOld hWanted hBack hHeld, fun hHome => State.grant_own hHome stamp⟩
  case copied =>
    intro c b hc hb hStores hPeer hSource data v u
    rw [copyComplete_own hc hPeer, State.copyDone_own hc hb hStores hPeer hSource]

end Sys2Proof.Machine
end

section
/-! SUPPORT. Token grants in deterministic mode (R298, R425, R433): a partition counts the tokens of the pool in force since its last input
boundary, which a new power cap leaves as it is until the next one. -/

namespace Sys2Proof.Machine

theorem exec_powerTokenGrant (die : Nat) (s : State) : exec (.powerTokenGrant die) s = execPowerTokenGrant die s := by rfl

/-- The oldest request of a die waits while its partition has not the tokens. -/
theorem powerTokenGrant_waits {s : State} {die h : Nat} {hs : List Nat} {x : Tile} (hQueue : (s.die die).tokenQueue = h :: hs)
    (hTile : s.tiles.find? (·.id == h) = some x)
    (hShort : s.freeFor (s.partAt x.bundle) die < ((((s.tiles.filter fun y => (s.die die).tokenQueue.contains y.id && y.order == x.order &&
      y.bundle == x.bundle).map (·.cost)).foldl (· + ·) 0 : Nat) : Int)) :
    exec (.powerTokenGrant die) s = .next s := by
  rw [hQueue] at hShort
  simp only [exec_powerTokenGrant, execPowerTokenGrant, hQueue, hTile, hShort, if_true]

/-- A command of 1024 tokens, the cost of the largest tile (R297), of bundle 3 of enqueueState. -/
def tokenTile : Tile :=
  { id := 6, block := 2, bundle := 3, lane := 0, core := 0, pc := 0x10000, sparse := false, words := [], cost := 1024, order := 6 }

/-- An earlier command of the bundle, which runs and holds 512 tokens. -/
def runningTile : Tile := { tokenTile with id := 5, cost := 512, order := 5, granted := true, issued := true }

/-- Partition 0 is deterministic, and P has risen from 1280 to 2560 since its last boundary; of die 0's tokens 512 are lent. -/
def tokenState : State :=
  { enqueueState with
    group := none, reqs := []
    partitions := enqueueState.partitions.set 0 { control := 0x10, pool := some 1280 }
    dies := enqueueState.dies.set 0 { pool := 2560, free := 2048, tokenQueue := [6] }
    tiles := [runningTile, tokenTile] }

/-- Of the pool in force, 768 tokens are free. -/
theorem freeFor_tokenState : tokenState.freeFor (tokenState.partAt 3) 0 = 768 := by decide

/-- So the command waits. -/
theorem powerTokenGrant_tokenState : exec (.powerTokenGrant 0) tokenState = .next tokenState :=
  powerTokenGrant_waits (h := 6) (hs := []) (x := tokenTile) rfl rfl (by
    show tokenState.freeFor (tokenState.partAt 3) 0 < _
    rw [freeFor_tokenState]
    decide)

/-- Refutes O52: its first clause asks for the sum of the costs among the die's free tokens, where a deterministic partition counts those of
the pool in force since its last boundary. In tokenState the die has 2048 free tokens and the partition 768: a command of 1024 waits, where
the statement grants it. -/
theorem not_enginesAndNetworksComplete : ¬ Obligations.EnginesAndNetworksComplete := by
  intro h
  obtain ⟨hGrant, _⟩ := h 0 0 0 0 tokenState
  have hGranted := hGrant 6 [] tokenTile rfl rfl (by decide)
  rw [powerTokenGrant_tokenState] at hGranted
  have hFlags := congrArg (fun u : State => u.tiles.map (·.granted)) (Host.Outcome.next.inj hGranted)
  exact absurd hFlags (by decide)

end Sys2Proof.Machine
end

section
/-! SUPPORT. NODE.RD, NODE.IN, NODE.UP and NODE.DN at issue (R225 to R229): the causes their offsets can raise, and what each lane reads or
sends. -/

namespace Sys2Proof.Machine

/-! The causes (R225). -/

/-- A word that lies in its box on a boundary of four bytes raises none. -/
theorem boxChecks_of_fits {off size : Nat} (hAlign : off % 4 = 0) (hFits : off < size) (detail : DWord) :
    boxChecks off size false detail = [] := by
  have hInside : ¬size ≤ off := Nat.not_le_of_lt hFits
  simp [boxChecks, hAlign, hInside]

/-- The checks of a node instruction raise none where its sweep is one of the allowed and the box's own checks raise none. -/
theorem sweepChecks_eq_nil {p : Prop} [Decidable p] {traps box : List Trap} {unread : Bool} (hSweep : ¬p) (hBox : box = []) :
    (if p then traps else if unread then [] else box) = [] := by
  rw [if_neg hSweep, hBox, ite_self]

/-! NODE.DN's operand names a child and an offset (R229). -/

theorem bits_offset (w : Nat) : bits w 11 0 = w % 4096 := by simp [bits]

theorem bits_child (w : Word) : bits w.toNat 31 12 = w.toNat / 4096 := by
  have hWord := w.isLt
  exact Nat.mod_eq_of_lt (by omega)

/-! The instructions. -/

theorem exec_nodeUp (b a : BitVec 7) (s : State) : exec (.nodeUp b a) s = execNodeUp b a s := by rfl
theorem exec_nodeDn (b a : BitVec 7) (s : State) : exec (.nodeDn b a) s = execNodeDn b a s := by rfl

/-- The grid of a bundle's node, and the node's index in it. -/
def State.nodeName (s : State) (b : Bundle) : Nat × Nat :=
  (((s.blockOf b).bind (·.node)).map fun n => (n.grid, n.index)).getD (0, 0)

theorem completes_nodeRd (f : BitVec 4) (d : BitVec 7) :
    Completes (.nodeRd f d) (fun _ _ _ => True) (fun s g x => s.eachLane g fun u l => u.modThread g.bundle l fun t =>
      t.write d.toNat (BitVec.ofNat 32 (u.nodeField x f.toNat))) .next := by
  intro s g x h _
  exact runLanes_always h (quiet_noCheck s g x) fun _ _ => rfl

theorem completes_nodeIn (a d : BitVec 7) :
    Completes (.nodeIn a d) (fun s g x => s.nodeSweep x ≠ 3 ∧ EachActive g x fun t => (t.val a.toNat).toNat % 4 = 0 ∧
        (t.val a.toNat).toNat < (if s.nodeSweep x = 1 then s.nodeField x 3 * s.nodeField x 5 else s.nodeField x 14))
      (fun s g x => s.eachLane g fun u l =>
        let off := ((u.thread x.id l).val a.toNat).toNat
        let box := if u.nodeSweep x = 1 then (u.nodeName x).2 else u.nodeField x 1
        let at_ := if u.nodeSweep x = 1 then off else u.nodeField x 11 * u.nodeField x 14 + off
        (u.addReq (u.newReq g x l 0 (.nodeIn d.toNat (u.nodeName x).1 box at_) .nowhere 0 4 u.fresh)).modThread x.id l fun t =>
          t.mark d.toNat .pending) .next := by
  rintro s g x h ⟨hSweep, hEach⟩
  refine runLanes_always h (fun l hl ha t ht => ?_) fun _ _ => rfl
  obtain ⟨hAlign, hFits⟩ := hEach l hl ha t ht
  exact sweepChecks_eq_nil hSweep (boxChecks_of_fits hAlign hFits _)

theorem completes_nodeUp (b a : BitVec 7) :
    Completes (.nodeUp b a) (fun s g x => s.nodeSweep x = 1 ∧ EachActive g x fun t => (t.val b.toNat).toNat % 4 = 0 ∧
        (t.val b.toNat).toNat < s.nodeField x 13)
      (fun s g x => s.next.eachLane g fun u l =>
        let off := ((u.thread x.id l).val b.toNat).toNat
        let root := u.nodeField x 1 = noParent
        u.addReq (u.newReq g x l 0 (.nodeWrite (u.nodeName x).1 (if root then none else some (u.nodeField x 1))
          (if root then off else u.nodeField x 11 * u.nodeField x 13 + off) ((u.thread x.id l).val a.toNat)) .nowhere 0 4 s.fresh)) .next := by
  rintro s g x h ⟨hSweep, hEach⟩
  rw [exec_nodeUp, execNodeUp]
  refine runEntry_ends (fun _ _ => True) h (fun l hl ha t ht => ?_) trivial fun _ _ _ _ _ => ⟨rfl, trivial⟩
  obtain ⟨hAlign, hFits⟩ := hEach l hl ha t ht
  exact sweepChecks_eq_nil (not_not_intro hSweep) (boxChecks_of_fits hAlign hFits _)

theorem completes_nodeDn (b a : BitVec 7) :
    Completes (.nodeDn b a) (fun s g x => s.nodeSweep x = 2 ∧ EachActive g x fun t =>
        let w := (t.val b.toNat).toNat
        w % 4096 % 4 = 0 ∧ w % 4096 < s.nodeField x 6 ∧ w / 4096 < s.nodeField x 3)
      (fun s g x => s.next.eachLane g fun u l =>
        let w := ((u.thread x.id l).val b.toNat).toNat
        u.addReq (u.newReq g x l 0 (.nodeWrite (u.nodeName x).1 (some (u.nodeName x).2) (w / 4096 * u.nodeField x 6 + w % 4096)
          ((u.thread x.id l).val a.toNat)) .nowhere 0 4 s.fresh)) .next := by
  rintro s g x h ⟨hSweep, hEach⟩
  rw [exec_nodeDn, execNodeDn]
  refine runEntry_ends (fun _ _ => True) h (fun l hl ha t ht => ?_) trivial fun u l _ _ _ => ⟨?_, trivial⟩
  · obtain ⟨hAlign, hFits, hChild⟩ := hEach l hl ha t ht
    refine sweepChecks_eq_nil (not_not_intro hSweep) ?_
    rw [bits_offset, bits_child, decide_eq_false (Nat.not_le_of_lt hChild)]
    exact boxChecks_of_fits hAlign hFits _
  · simp only [bits_offset, bits_child]
    rfl

/-- Settles O49: each instruction acts on its lanes one after another where its sweep allows it and its word lies in the box. -/
theorem nodeInstructionsUseTheirBoxes : Obligations.NodeInstructionsUseTheirBoxes :=
  fun f b a d => ⟨completes_nodeRd f d, completes_nodeIn a d, completes_nodeUp b a, completes_nodeDn b a⟩

end Sys2Proof.Machine
end

section
/-! SUPPORT. Tasks and pages (R231, R365, R378, R384, R385, R389, R390): what each of their events does where nothing holds it. -/

namespace Sys2Proof.Machine

/-! What the dispatch answers for each of these events. -/

theorem exec_nodeCompletion (op : Nat) (s : State) : exec (.nodeCompletion op) s = execNodeCompletion op s := by rfl
theorem exec_pageLease (op : Nat) (s : State) : exec (.pageLease op) s = execPageLease op s := by rfl
theorem exec_gangAdmission (op quad : Nat) (s : State) : exec (.gangAdmission op quad) s = execGangAdmission op quad s := by rfl
theorem exec_workGraphRecordArrival (op : Nat) (s : State) :
    exec (.workGraphRecordArrival op) s = execWorkGraphRecordArrival op s := by rfl
theorem exec_workGraphBundleLaunch (op : Nat) (s : State) : exec (.workGraphBundleLaunch op) s = execWorkGraphBundleLaunch op s := by rfl
theorem exec_pageCompression (part va : Nat) (s : State) : exec (.pageCompression part va) s = execPageCompression part va s := by rfl
theorem exec_pageMigration (part va : Nat) (s : State) : exec (.pageMigration part va) s = execPageMigration part va s := by rfl
theorem exec_pageMoveEnd (op : Nat) (s : State) : exec (.pageMoveEnd op) s = execPageMoveEnd op s := by rfl

/-! Nodes (R231). -/

/-- A finished node's task is gone, its unit is over, and the walk goes on. -/
theorem nodeCompletion_done {s : State} {op g i x y : Nat} {t : Task} (ht : s.task? op = some t) (hKind : t.kind = .node g i x y)
    (hPhase : t.phase = .done) :
    exec (.nodeCompletion op) s = .next (((({ s with tasks := s.tasks.filter fun x => !(x.id == op) } : State).endUnit op false).nodeDone
      g i).splitAfter g) := by
  simp only [exec_nodeCompletion, execNodeCompletion, ht, hKind, hPhase, beq_self_eq_true, Bool.not_true, Bool.false_eq_true, if_false]

/-! The lease (R365, R366). -/

/-- The walk of a task's pages. -/
def State.leaseWalk (s : State) (t : Task) : Except PageNeed (List Xlat) :=
  s.walkAll t.partition (s.versionFrame t.partition (t.unit.map (·.2))) t.program.allRanges

/-- What a task's lease makes of the walk of its pages. -/
def State.leaseFound (s : State) (op : Nat) (t : Task) : Except PageNeed (List Xlat) → State
  | .ok xs => if s.storeRoom (s.taskDies t) (entryCount xs) then s.leased t xs else s
  | .error (.migrating _) => s
  | .error (.compressed a) => s.expand t.partition a
  | .error (.tier a) => if s.pageLeased t.partition a then s else s.startMove t.partition a false
  | .error (.absent a) => (s.drawn.modTask op fun u => { u with phase := .paging a }).event t.partition 7
      (recordBytes (s.timeIn t.partition 0) (s.taskSource t) 7 0 (BitVec.ofNat 64 a) (if t.tid = 0 then Config.pick s.draw % 2 ^ 32 else t.tid) 0)

theorem pageLease_waiting {s : State} {op : Nat} {t : Task} (ht : s.task? op = some t) (hPhase : t.phase = .waiting) (hDeps : t.deps = [])
    (hHeld : s.taskHeld t = false) (hLaunches : (s.part t.partition).launches = true) :
    exec (.pageLease op) s = .next (s.leaseFound op t (s.leaseWalk t)) := by
  have hDue : (!(t.phase == .waiting) || !t.deps.isEmpty || s.taskHeld t || !(s.part t.partition).launches) = false := by
    simp [hPhase, hDeps, hHeld, hLaunches]
  simp only [exec_pageLease, execPageLease, ht, hDue, Bool.false_eq_true, if_false]
  rfl

/-- A task that is no installation and no grid's own is ready once it is leased. -/
theorem State.leased_ready {t : Task} (hKind : t.kind = .plain ∨ (∃ g i x y, t.kind = .node g i x y) ∨ ∃ n, t.kind = .work n) (s : State)
    (xs : List Xlat) : s.leased t xs = s.modTask t.id fun u => { u with xlat := xs, leased := true, phase := .ready } := by
  obtain h | ⟨g, i, x, y, h⟩ | ⟨n, h⟩ := hKind <;> simp only [State.leased, h]

/-! Gangs (R378). -/

/-- The members of a gang placed on the cores of a quad. -/
def State.placeGang (s : State) (op quad : Nat) (ms : List Task) (pl : List Nat) : State :=
  ms.foldl (fun v t => v.launch t (t.gangCore quad pl) (v.gangBuffers t))
    { s with gangs := upd s.gangs (·.id == op) fun x => { x with quad := some quad, bufs := x.pipes.map (pipeBuf pl) } }

/-- A gang that is ready takes one of the placements that fit: in deterministic mode the chosen one, else a free pick. -/
theorem gangAdmission_ready {s : State} {op quad : Nat} {g : Gang} {w : List Nat} {ws : List (List Nat)}
    (hg : s.gangs.find? (·.id == op) = some g) (hQuad : quad < 160) (hReady : s.gangReady g = true)
    (hWays : placements.filter (s.gangFits (s.unplaced g) quad) = w :: ws)
    (hChosen : (s.part g.partition).det = true → s.chosen g.partition (((s.unplaced g).map (·.tid)).headD 0) quad
      ((List.range 160).filter fun q => placements.any (s.gangFits (s.unplaced g) q)) = true) :
    exec (.gangAdmission op quad) s = .next (if (s.part g.partition).det
      then s.placeGang op quad (s.unplaced g) ((w :: ws).getD (Config.detPick (quad :: (s.unplaced g).map (·.tid)) % (w :: ws).length) w)
      else s.drawn.placeGang op quad (s.unplaced g) ((w :: ws).getD (Config.pick s.draw % (w :: ws).length) w)) := by
  have hTakes : (!(s.gangReady g) || decide (160 ≤ quad) || ((s.part g.partition).det &&
      !(s.chosen g.partition (((s.unplaced g).map (·.tid)).headD 0) quad
        ((List.range 160).filter fun q => placements.any (s.gangFits (s.unplaced g) q))))) = false := by
    have hBelow : ¬160 ≤ quad := Nat.not_le_of_lt hQuad
    cases hDet : (s.part g.partition).det with
    | false => simp [hReady, hBelow]
    | true => simp only [hReady, hBelow, hChosen hDet, Bool.not_true, decide_false, Bool.or_self, Bool.and_false]
  simp only [exec_gangAdmission, execGangAdmission, hg, hWays, hTakes, Bool.false_eq_true, if_false]
  cases (s.part g.partition).det <;> rfl

/-! Work-graph nodes (R384, R385). -/

/-- Of a bundle's records, one that is the only request under way has none before it: it enters its node's buffer, or is turned away. -/
theorem workGraphRecordArrival_alone {s : State} {op die i : Nat} {r : Req} {ws : List Word} {b : Bundle} {n : WNode}
    (hr : s.req? op = some r) (hKind : r.kind = .wrec die i ws) (hb : s.anyBundle r.bundle = some b) (hReaches : s.reaches r = true)
    (hOrder : s.inOrder r = true) (hOnly : s.reqs = [r]) (hPerformed : s.allPerformed b r.lane 3 0 (some r.id) = true)
    (hn : s.wnodes.find? (fun n => n.die == die && n.index == i) = some n) :
    let u := s.modPart n.partition fun q => { q with seen := max q.seen (s.core r.core).ctime }
    exec (.workGraphRecordArrival op) s = .next (if 160 ≤ n.records.length then s.modReq op fun r => { r with
        naks := r.naks + 1, resend := some (s.clk + backoff (s.die (dieOf r.core)).backoff (r.naks + 1)) }
      else ({ u with wnodes := upd u.wnodes (·.id == n.id) fun n => { n with records := n.records ++ [(u.clk, ws)] } } : State).dropReq op) := by
  simp only [exec_workGraphRecordArrival, execWorkGraphRecordArrival, hr, hKind, hb, hReaches, hOrder, hOnly, hPerformed, hn, List.any_cons,
    List.any_nil, Nat.lt_irrefl, decide_false, Bool.and_false, Bool.false_and, Bool.not_true, Bool.or_self, Bool.false_eq_true, if_false]

/-- Whether a node's records are to launch at a clock: 32 of them, or a first one that has waited the timer (R385). -/
def WNode.bundleDue (n : WNode) (clk : Nat) : Bool := decide (32 ≤ n.records.length) || match n.records with
  | [] => false
  | r :: _ => decide (r.1 + 1050 * n.timer ≤ clk)

theorem WNode.bundleDue_of {n : WNode} {clk : Nat}
    (h : 32 ≤ n.records.length ∨ ∃ r rs, n.records = r :: rs ∧ r.1 + 1050 * n.timer ≤ clk) : n.bundleDue clk = true := by
  obtain hFull | ⟨r, rs, hr, hOld⟩ := h
  · simp [WNode.bundleDue, hFull]
  · simp [WNode.bundleDue, hr, hOld]

/-- Up to 32 of a node's records become one ready task. -/
def State.launchBundle (s : State) (op : Nat) (n : WNode) : State :=
  let rs := (n.records.take 32).map (·.2)
  let x := s.takeTid n.partition
  let p := { n.program with threads := rs.length, blocks := 1, coplace := false, tracked := false }
  ({ x.1 with
    tasks := x.1.tasks ++ [{
      id := s.fresh, tid := x.2, partition := n.partition, cls := n.cls, packet := 0, kind := .work op, index := 0, tcb := n.tcb
      program := p, arg := 0, phase := .ready, xlat := n.xlat, leased := true, records := rs
      order := s.fresh, acq := 3, priv := n.priv, all := p.allRanges }]
    wnodes := upd x.1.wnodes (·.id == op) fun n => { n with records := n.records.drop 32 } } : State).next

theorem workGraphBundleLaunch_due {s : State} {op : Nat} {n : WNode} (hn : s.wnodes.find? (·.id == op) = some n)
    (hDue : n.bundleDue s.clk = true) (hLaunches : (s.part n.partition).launches = true) :
    exec (.workGraphBundleLaunch op) s = .next (s.launchBundle op n) := by
  have hExec : exec (.workGraphBundleLaunch op) s =
      .next (if !n.bundleDue s.clk || !(s.part n.partition).launches then s else s.launchBundle op n) := by
    simp only [exec_workGraphBundleLaunch, execWorkGraphBundleLaunch, hn]
    rfl
  simp only [hExec, hDue, hLaunches, Bool.not_true, Bool.or_self, Bool.false_eq_true, if_false]

/-! Pages (R389, R390). -/

/-- A page of HBM that is neither compressed, moving nor leased goes into the zone where it is cold and compresses. -/
theorem pageCompression_free {s : State} {part va z : Nat} {zs : List Nat} {lf : Leaf} (hWalk : s.walk part va = some lf)
    (hSlots : s.zoneSlots part = z :: zs) (hSize : lf.size = 65536) (hPlain : lf.c = false) (hStill : lf.m = false)
    (hHbm : inTier2 lf.pa = false) (hFree : s.isLeased part (va / 65536 * 65536) 65536 = false) :
    let rel : Mem := (s.mem.filter fun c => decide (lf.pa ≤ c.1) && decide (c.1 < lf.pa + 65536)).map fun c => (c.1 - lf.pa, c.2)
    let u : State := { s with zone := s.zone ++ [{ partition := part, slot := z, bytes := rel }] }
    exec (.pageCompression part va) s =
      .next (if s.lastTouch lf.pa + 1050000 * (s.part part).cold ≤ s.clk ∧ Config.compresses (readBytes s.mem lf.pa 65536) = true then
        u.putLeaf lf.entry (leafWord (leNat (readBytes s.mem lf.entry 8)) z false true false) else s) := by
  simp only [exec_pageCompression, execPageCompression, hWalk, hSlots, hSize, hPlain, hStill, hHbm, hFree]
  by_cases hCold : s.lastTouch lf.pa + 1050000 * (s.part part).cold ≤ s.clk
  · by_cases hSmall : Config.compresses (readBytes s.mem lf.pa 65536) = true
    · simp [hCold, hSmall]
    · simp [hCold, hSmall]
  · simp [hCold]

/-- The page of an address whose leaf is known is leased where its own span is (R366). -/
theorem State.pageLeased_of_walk {s : State} {part va : Nat} {lf : Leaf} (hWalk : s.walk part va = some lf) :
    s.pageLeased part va = s.isLeased part (va / lf.size * lf.size) lf.size := by
  simp only [State.pageLeased, hWalk, Option.map_some, Option.getD_some]

theorem pageMigration_leased {s : State} {part va : Nat} {lf : Leaf} (hWalk : s.walk part va = some lf)
    (hLeased : s.isLeased part (va / lf.size * lf.size) lf.size = true) : exec (.pageMigration part va) s = .next s := by
  simp [exec_pageMigration, execPageMigration, State.pageLeased_of_walk hWalk, hWalk, hLeased]

theorem pageMigration_free {s : State} {part va : Nat} {lf : Leaf} (hWalk : s.walk part va = some lf) (hPlain : lf.c = false)
    (hStill : lf.m = false) (hFree : s.isLeased part (va / lf.size * lf.size) lf.size = false) :
    exec (.pageMigration part va) s = .next (s.startMove part va (!(inTier2 lf.pa))) := by
  simp [exec_pageMigration, execPageMigration, State.pageLeased_of_walk hWalk, hWalk, hPlain, hStill, hFree]

/-- A move begins: the frame is taken, and M is set in the leaf. -/
theorem State.startMove_frame {s : State} {part va to_ : Nat} {lf : Leaf} {tier : Bool} (hWalk : s.walk part va = some lf)
    (hPlain : lf.c = false) (hFrame : s.frameFor lf.size tier = some to_) :
    s.startMove part va tier = (({ s.drawn with
      moves := s.moves ++ [{ id := s.fresh, partition := part, va := va / lf.size * lf.size, entry := lf.entry, frm := lf.pa, to_ := to_
                             size := lf.size, tier := tier }] } : State).putLeaf lf.entry
        (leafWord (leNat (readBytes s.mem lf.entry 8)) lf.pa (inTier2 lf.pa) false true)).next := by
  simp only [State.startMove, hWalk, hFrame, hPlain]

/-- Where no frame is free, the page stays. -/
theorem State.startMove_full {s : State} {part va : Nat} {lf : Leaf} {tier : Bool} (hWalk : s.walk part va = some lf)
    (hFrame : s.frameFor lf.size tier = none) : s.startMove part va tier = s := by
  simp only [State.startMove, hWalk, hFrame]

/-! A frame that takes a page's bytes: the finished programs that watch one of its lines go (R313). -/

theorem mem_distinct {α : Type} [BEq α] [LawfulBEq α] {a : α} {l : List α} : a ∈ distinct l ↔ a ∈ l := by
  induction l with
  | nil => rfl
  | cons b l ih =>
    by_cases hab : a = b <;> simp [distinct, ih, hab]

/-- What a store to a line leaves of a program: itself where it does not watch the line, else a compile that restarts, or none. -/
def CarverEntry.touched (e : CarverEntry) (ln : Nat) : Option CarverEntry :=
  if !(e.lines.contains ln) then some e else if e.compiling then some { e with restarts := e.restarts + 1 } else none

theorem CarverEntry.touched_unwatched {e : CarverEntry} {ln : Nat} (h : ln ∉ e.lines) : e.touched ln = some e := by
  simp [CarverEntry.touched, h]

/-- A finished program that a store leaves does not watch the line, and is as it was. -/
theorem CarverEntry.of_touched {x e : CarverEntry} {ln : Nat} (hDone : e.compiling = false) (h : x.touched ln = some e) :
    x = e ∧ ln ∉ e.lines := by
  rw [CarverEntry.touched] at h
  split at h
  · next hUnwatched =>
    cases h
    exact ⟨rfl, by simpa using hUnwatched⟩
  · split at h
    · next hCompiling =>
      cases h
      exact absurd (hCompiling.symm.trans hDone) (by decide)
    · cases h

/-- Of the finished programs, those remain that do not watch the line. -/
theorem State.mem_carverTouch {s : State} {ln : Nat} {e : CarverEntry} (hDone : e.compiling = false) :
    e ∈ (s.carverTouch ln).carver ↔ e ∈ s.carver ∧ ln ∉ e.lines := by
  have hTouch : (s.carverTouch ln).carver = s.carver.filterMap (·.touched ln) := rfl
  rw [hTouch, List.mem_filterMap]
  constructor
  · rintro ⟨x, hx, hTouched⟩
    obtain ⟨rfl, hUnwatched⟩ := CarverEntry.of_touched hDone hTouched
    exact ⟨hx, hUnwatched⟩
  · rintro ⟨he, hUnwatched⟩
    exact ⟨e, he, CarverEntry.touched_unwatched hUnwatched⟩

theorem State.mem_foldl_carverTouch {e : CarverEntry} (hDone : e.compiling = false) (lns : List Nat) (s : State) :
    e ∈ (lns.foldl State.carverTouch s).carver ↔ e ∈ s.carver ∧ ∀ ln ∈ lns, ln ∉ e.lines := by
  induction lns generalizing s with
  | nil => simp
  | cons a lns ih => rw [List.foldl_cons, ih, State.mem_carverTouch hDone, List.forall_mem_cons, and_assoc]

/-- No finished program watches a line of a frame that has taken a page. -/
theorem State.frameTaken_carver {s : State} {lo n : Nat} {e : CarverEntry} (he : e ∈ (s.frameTaken lo n).carver) (hDone : e.compiling = false)
    {ln : Nat} (hln : ln ∈ e.lines) : 64 * ln < lo ∨ lo + n ≤ 64 * ln := by
  obtain ⟨hOld, hUntouched⟩ := (State.mem_foldl_carverTouch hDone _ s).mp he
  refine Decidable.byContradiction fun hIn => hUntouched ln ?_ hln
  rw [mem_distinct, List.mem_filter, List.mem_flatMap]
  refine ⟨⟨e, hOld, hln⟩, ?_⟩
  rw [Bool.and_eq_true, decide_eq_true_eq, decide_eq_true_eq]
  omega

/-- Memory once a move's bytes stand in the new frame. -/
def State.movedMem (s : State) (m : Move) : Mem :=
  (s.mem.filter fun c => decide (m.frm ≤ c.1) && decide (c.1 < m.frm + m.size)).foldl
    (fun (a : Mem) (c : Host.Cell) => writeByte a (m.to_ + (c.1 - m.frm)) c.2)
    (s.mem.filter fun c => decide (c.1 < m.to_) || decide (m.to_ + m.size ≤ c.1))

/-- The state in which a move's bytes stand in the new frame. -/
def State.bytesMoved (s : State) (op : Nat) (m : Move) : State :=
  ({ s with mem := s.movedMem m, moves := s.moves.filter fun x => !(x.id == op) } : State).frameTaken m.to_ m.size

theorem State.bytesMoved_mem (s : State) (op : Nat) (m : Move) : (s.bytesMoved op m).mem = s.movedMem m := by
  simp only [State.bytesMoved, State.frameTaken_mem]

/-- A move ends: the leaf names the new frame, and M is cleared. -/
theorem pageMoveEnd_move {s : State} {op : Nat} {m : Move} (hm : s.moves.find? (·.id == op) = some m) :
    exec (.pageMoveEnd op) s = .next (({ s.bytesMoved op m with touched := carryTouch m (s.bytesMoved op m).touched } : State).putLeaf m.entry
      (leafWord (leNat (readBytes (s.movedMem m) m.entry 8)) m.to_ m.tier false false)) := by
  rw [← State.bytesMoved_mem s op m]
  simp only [exec_pageMoveEnd, execPageMoveEnd, hm]
  rfl

/-- Settles O56: each event does what it says where nothing holds it, and no finished program of the Carver still watches the frame
that takes a moved page. -/
theorem taskAndPageEventsTakeEffect : Obligations.TaskAndPageEventsTakeEffect := by
  intro op part va quad s
  refine ⟨fun t g i x y ht hKind hPhase => nodeCompletion_done ht hKind hPhase, ?lease, ?gang, ?enters, ?turnedAway,
    fun n hn hDue hLaunches => workGraphBundleLaunch_due hn (WNode.bundleDue_of hDue) hLaunches,
    fun lf z zs hWalk hSlots hSize hPlain hStill hHbm hFree => pageCompression_free hWalk hSlots hSize hPlain hStill hHbm hFree, ?move,
    fun lf hWalk hLeased => pageMigration_leased hWalk hLeased, fun m hm => ⟨pageMoveEnd_move hm, State.bytesMoved_mem s op m,
      fun e he hDone ln hln => State.frameTaken_carver he hDone hln⟩⟩
  case lease =>
    intro t ht hPhase hDeps hHeld hLaunches found
    have hLease (w) (hFound : found = w) : exec (.pageLease op) s = .next (s.leaseFound op t w) := by
      rw [pageLease_waiting ht hPhase hDeps hHeld hLaunches, ← hFound]
      rfl
    refine ⟨fun xs hFound hRoom => ?_, fun xs hFound hRoom => ?_, fun xs hKind => State.leased_ready hKind s xs,
      fun a hFound => hLease _ hFound, fun a hFound => hLease _ hFound, fun a hFound => hLease _ hFound, fun a hFound hTid => ?_⟩
    · simp only [hLease _ hFound, State.leaseFound, hRoom, if_true]
    · simp only [hLease _ hFound, State.leaseFound, hRoom, Bool.false_eq_true, if_false]
    · simp only [hLease _ hFound, State.leaseFound, hTid, if_false]
  case gang =>
    intro g hg hQuad hReady ms ways w ws hWays admitted
    refine ⟨fun hDet => ?_, fun hDet hChosen => ?_⟩
    · rw [gangAdmission_ready hg hQuad hReady hWays fun h => absurd (hDet.symm.trans h) Bool.false_ne_true, hDet, hWays]
      rfl
    · rw [gangAdmission_ready hg hQuad hReady hWays fun _ => hChosen, hDet, hWays]
      rfl
  case enters =>
    intro r die i ws b n hr hKind hb hReaches hOrder hOnly hPerformed hn hRoom u
    rw [workGraphRecordArrival_alone hr hKind hb hReaches hOrder hOnly hPerformed hn, if_neg (Nat.not_le_of_lt hRoom)]
  case turnedAway =>
    intro r die i ws b n hr hKind hb hReaches hOrder hOnly hPerformed hn hFull
    rw [workGraphRecordArrival_alone hr hKind hb hReaches hOrder hOnly hPerformed hn, if_pos hFull]
  case move =>
    intro lf hWalk hPlain hStill hFree tier
    refine ⟨fun to_ hFrame => ?_, fun hFrame => ?_⟩
    · rw [pageMigration_free hWalk hPlain hStill hFree, State.startMove_frame hWalk hPlain hFrame]
    · rw [pageMigration_free hWalk hPlain hStill hFree, State.startMove_full hWalk hFrame]

end Sys2Proof.Machine
end

section
/-! SUPPORT. Futures and transactions (R172, R243 to R249, R253 to R255): what each lane's TXB, TXE, TXA and future operation does to its
transaction, and what it leaves as it was for the lanes that follow. -/

namespace Sys2Proof.Machine

/-! Futures. -/

/-- Each lane of a future instruction sends its operation and is held. -/
theorem completes_future {i : Instr} {sub : Nat} {a d : BitVec 7} {v : Thread → Word}
    (hi : ∀ s, exec i s = runFuture i sub d.toNat a.toNat v (futureChecks a) s) :
    Completes i (fun s g b => EachActive g b fun t => s.globalChecks b 0 (t.pair a.toNat) 8 true true 8 = [])
      (fun s g b => s.eachLane g fun u l =>
        let t := u.thread b.id l
        let r := u.newReq g b l 0 (.future sub d.toNat (v t)) (u.globalPlace b 0 (t.pair a.toNat)) (t.pair a.toNat) 8 u.fresh
        (u.addReq { r with old := t.reg d.toNat }).modThread b.id l fun t => { (t.mark d.toNat .pending) with
          mid := some (.answer u.fresh) }) .stay := by
  intro s g b h hSound
  rw [hi, runFuture]
  exact runLanes_always h hSound fun _ _ => rfl

/-- Settles O38: the three instructions differ in their operation's code and in the value that a lane sends. -/
theorem futureOperationsAwaitTheirAnswer : Obligations.FutureOperationsAwaitTheirAnswer := by
  intro a b' d future
  exact ⟨completes_future (v := (·.val b'.toNat)) fun _ => rfl, completes_future (v := (·.val b'.toNat)) fun _ => rfl,
    completes_future (v := fun _ => 0) fun _ => rfl⟩

/-! Threads and dies under a lane's updates. -/

theorem State.thread?_modThread (s : State) (b l n : Nat) (f : Thread → Thread) :
    (s.modThread b l f).thread? b n = (s.thread? b n).map fun t => if l = n then f t else t := by
  have hFind : (s.modThread b l f).bundle? b = (s.bundle? b).map fun x => { x with threads := x.threads.modify l f } :=
    State.bundle?_modBundle s b _ fun _ => rfl
  simp only [State.thread?, hFind]
  cases s.bundle? b with
  | none => rfl
  | some x => exact List.getElem?_modify f l x.threads n

theorem State.thread_modThread_other (s : State) (b : Nat) {l n : Nat} (hn : l ≠ n) (f : Thread → Thread) :
    (s.modThread b l f).thread b n = s.thread b n := by
  simp only [State.thread, State.thread?_modThread, hn, if_false, Option.map_id']

theorem State.die_modDie (s : State) (d : Nat) (f : Die → Die) : (s.modDie d f).die d = f (s.die d) ∨ (s.modDie d f).die d = s.die d :=
  getD_modify_or s.dies d f {}

/-- A die changes by what a change makes of it alone. -/
theorem State.modDie_congr {s : State} {d : Nat} {f f' : Die → Die} (h : f (s.die d) = f' (s.die d)) : s.modDie d f = s.modDie d f' := by
  have hDies : s.dies.modify d f = s.dies.modify d f' := by
    apply List.ext_getElem?
    intro n
    simp only [List.getElem?_modify]
    by_cases hn : d = n
    · subst hn
      cases hx : s.dies[d]? with
      | none => rfl
      | some x =>
        have hDie : s.die d = x := by simp [State.die, List.getD, hx]
        rw [hDie] at h
        simp [h]
    · simp [hn]
  simp only [State.modDie, hDies]

theorem State.writeBack_bundles (s : State) (k : Block) (p : StashMap → StashLine → Bool) : (s.writeBack k p).bundles = s.bundles := by
  refine foldl_keeps State.bundles (fun u m => foldl_keeps State.bundles (fun v x => ?_) m.lines u) k.maps s
  split
  · dsimp only
    split
    · rfl
    · exact (State.addReq_bundles _ _).trans (State.modBlock_bundles v k.id _)
  · rfl

theorem State.writeBackFor_bundles (s : State) (b : Bundle) : (s.writeBackFor b).bundles = s.bundles := by
  simp only [State.writeBackFor]
  split
  · rfl
  · exact State.writeBack_bundles s _ _

/-! A group whose lanes' acts refer to the state in which the instruction issues. -/

section
variable {s : State} {g : Group} {b : Bundle} {i : Instr} {chk : Check} {body : Body}
  {f : State → Group → Bundle → Nat → State × LaneEnd} {E : State → Nat → State}

/-- A body that acts lane by lane and ends every active lane alike. -/
theorem runEach_ends {e : LaneEnd} (P : List Nat → State → Prop) (h : Meets s g b i) (hc : Quiet chk s g b)
    (hBody : body s.taken g b g.acting = each f s.taken g b g.acting) (hP : P g.acting s.taken)
    (hf : ∀ u l ls, (∀ x ∈ l :: ls, x ∈ g.acting) → P (l :: ls) u → f u g b l = (E u l, e) ∧ P ls (E u l)) :
    runWith i chk body s = .next ((s.taken.eachLane g E).endAll g e) := by
  have hRun : runWith i chk body s = runLanes i chk f s := by
    rw [runLanes, runWith_meets body h hc, runWith_meets (each f) h hc, show g.lanes.filter (· ∈ g.active) = g.acting from rfl, hBody]
  rw [hRun]
  exact runLanes_ends P h hc hP hf

theorem each_endsBy {e : Nat → LaneEnd} (hf : ∀ u l, f u g b l = (E u l, e l)) (ls : List Nat) (u : State) (es : List (Nat × LaneEnd)) :
    ls.foldl (fun acc l => ((f acc.1 g b l).1, acc.2 ++ [(l, (f acc.1 g b l).2)])) (u, es) = (ls.foldl E u, es ++ ls.map fun l => (l, e l)) := by
  induction ls generalizing u es with
  | nil => simp
  | cons a ls ih =>
    rw [List.foldl_cons, ih, hf]
    simp

/-- A body that acts lane by lane and ends each active lane in its own way. -/
theorem runEach_endsBy {e : Nat → LaneEnd} (h : Meets s g b i) (hc : Quiet chk s g b)
    (hBody : body s.taken g b g.acting = each f s.taken g b g.acting) (hf : ∀ u l, f u g b l = (E u l, e l)) :
    runWith i chk body s = .next ((s.taken.eachLane g E).endsWith g fun l => if l ∈ g.active then e l else .next) := by
  have hEach : body s.taken g b g.acting = (s.taken.eachLane g E, g.acting.map fun l => (l, e l)) :=
    hBody.trans (each_endsBy hf g.acting s.taken [])
  have hEnd (l : Nat) (hl : l ∈ g.lanes) : endOf (g.acting.map fun l => (l, e l)) l = if l ∈ g.active then e l else .next := by
    rw [endOf, lookup_map]
    by_cases ha : l ∈ g.active <;> simp [mem_acting, hl, ha]
  rw [runWith_meets body h hc, show g.lanes.filter (· ∈ g.active) = g.acting from rfl, hEach, State.endsWith, State.endsWith,
    foldl_congr_mem _ _ _ fun acc l hl => by rw [hEnd l hl]]

end

theorem Meets.acting_nodup {s : State} {g : Group} {b : Bundle} {i : Instr} (h : Meets s g b i) : g.acting.Nodup := h.distinct.filter _

/-- What holds of the thread of every active lane holds of it in the state in which the instruction issues. -/
theorem Meets.acting_thread {s : State} {g : Group} {b : Bundle} {i : Instr} {P : Thread → Prop} (h : Meets s g b i) (hP : EachActive g b P)
    {l : Nat} (hl : l ∈ g.acting) : P (s.taken.thread b.id l) := by
  obtain ⟨hl, ha⟩ := mem_acting.mp hl
  exact hP l hl ha _ (h.threads_eq hl)

/-! TXB (R172, R243, R249). -/

/-- The aborts after which a lane of a bundle opens an irrevocable transaction (R249). -/
def State.abortLimit (s : State) (b : Bundle) : Nat := ((s.blockOf b).map (·.txlim)).getD 8

/-- A lane's transaction opens (R243). -/
def State.opensTx (s : State) (g : Group) (b : Bundle) (l d : Nat) (irrevocable : Bool) (v : Word) : State :=
  s.modThread b.id l fun t => { ((t.write d v).stampAt 4 s.clk) with tx := some { resume := g.nextPc, reg := d, irrevocable := irrevocable } }

/-- A lane's TXB, given whether a stash line of its bundle was dirty when the group issued. -/
def State.txbLane (s : State) (dirty : Bool) (d : Nat) (g : Group) (b : Bundle) (l : Nat) : State × LaneEnd :=
  if !((s.thread b.id l).mid == some .flush) && dirty then
    ((s.writeBackFor b).modThread b.id l fun t => { t with mid := some .flush }, .stay)
  else if (s.thread b.id l).aborts < s.abortLimit b then (s.opensTx g b l d false 0, .next)
  else if (s.die (dieOf b.core)).turn == some (b.id, l) then (s.opensTx g b l d true 1, .next)
  else (s.modDie (dieOf b.core) fun x => if x.turnQueue.contains (b.id, l) then x
    else { x with turnQueue := x.turnQueue ++ [(b.id, l)] }, .stay)

theorem exec_txb (d : BitVec 7) (s : State) :
    exec (.txb d) s = runWith (.txb d) noCheck (fun s0 => each (fun s g b l => s.txbLane (s0.stashDirty b) d.toNat g b l) s0) s := by rfl

section
variable {s : State} {b : Bundle} {l : Nat}

theorem State.txbLane_dirty (h : (s.thread b.id l).mid ≠ some .flush) (d : Nat) (g : Group) :
    s.txbLane true d g b l = ((s.writeBackFor b).modThread b.id l fun t => { t with mid := some .flush }, .stay) := by
  simp [State.txbLane, h]

theorem State.txbLane_underLimit (h : (s.thread b.id l).aborts < s.abortLimit b) (d : Nat) (g : Group) :
    s.txbLane false d g b l = (s.opensTx g b l d false 0, .next) := by
  simp [State.txbLane, h]

theorem State.txbLane_hasTurn (h : s.abortLimit b ≤ (s.thread b.id l).aborts) (hTurn : (s.die (dieOf b.core)).turn = some (b.id, l))
    (d : Nat) (g : Group) : s.txbLane false d g b l = (s.opensTx g b l d true 1, .next) := by
  simp [State.txbLane, Nat.not_lt.mpr h, hTurn]

theorem State.txbLane_joinsQueue (h : s.abortLimit b ≤ (s.thread b.id l).aborts) (hTurn : (s.die (dieOf b.core)).turn ≠ some (b.id, l))
    (hQueue : (b.id, l) ∉ (s.die (dieOf b.core)).turnQueue) (d : Nat) (g : Group) :
    s.txbLane false d g b l = (s.modDie (dieOf b.core) fun x => { x with turnQueue := x.turnQueue ++ [(b.id, l)] }, .stay) := by
  have hJoins : (s.modDie (dieOf b.core) fun x => if x.turnQueue.contains (b.id, l) then x
      else { x with turnQueue := x.turnQueue ++ [(b.id, l)] }) =
      s.modDie (dieOf b.core) fun x => { x with turnQueue := x.turnQueue ++ [(b.id, l)] } :=
    State.modDie_congr (by simp [hQueue])
  simp only [State.txbLane, Bool.and_false, Bool.false_eq_true, if_false, Nat.not_lt.mpr h, beq_iff_eq, hTurn, hJoins]

end

section
variable {s : State} {g : Group} {b : Bundle} {d : BitVec 7}

/-- TXB's lanes one after another: P is what a lane's act depends on, given the lanes still to come. -/
theorem runTxb_ends {E : State → Nat → State} {e : LaneEnd} {dirty : Bool} (P : List Nat → State → Prop) (h : Meets s g b (.txb d))
    (hDirty : s.taken.stashDirty b = dirty) (hP : P g.acting s.taken)
    (hf : ∀ u l ls, (l :: ls).Nodup → P (l :: ls) u → u.txbLane dirty d.toNat g b l = (E u l, e) ∧ P ls (E u l)) :
    exec (.txb d) s = .next ((s.taken.eachLane g E).endAll g e) := by
  rw [exec_txb]
  refine runEach_ends (f := fun s g b l => s.txbLane dirty d.toNat g b l) (fun ls u => ls.Nodup ∧ P ls u) h (quiet_noCheck s g b) ?_
    ⟨h.acting_nodup, hP⟩ fun u l ls _ ⟨hNodup, hu⟩ => ?_
  · rw [← hDirty]
    rfl
  · obtain ⟨hLane, hRest⟩ := hf u l ls hNodup hu
    exact ⟨hLane, (List.nodup_cons.mp hNodup).2, hRest⟩

/-- Opening a transaction leaves the lanes that follow as they were. -/
theorem State.thread_opensTx {l n : Nat} {ls : List Nat} (hNodup : (l :: ls).Nodup) (hn : n ∈ ls) (s : State) (g : Group) (b : Bundle) (d : Nat)
    (irrevocable : Bool) (v : Word) : (s.opensTx g b l d irrevocable v).thread b.id n = s.thread b.id n :=
  State.thread_modThread_other s b.id (fun hEq : l = n => (List.nodup_cons.mp hNodup).1 (hEq ▸ hn)) _

theorem txb_underLimit (h : Meets s g b (.txb d)) (hClean : s.taken.stashDirty b = false)
    (hAborts : EachActive g b fun t => t.aborts < s.taken.abortLimit b) :
    exec (.txb d) s = .next ((s.taken.eachLane g fun u l => u.opensTx g b l d.toNat false 0).endAll g .next) := by
  refine runTxb_ends (fun ls u => ∀ l ∈ ls, (u.thread b.id l).aborts < u.abortLimit b) h hClean (fun l hl => h.acting_thread hAborts hl) ?_
  intro u l ls hNodup hu
  refine ⟨State.txbLane_underLimit (hu l (by simp)) d.toNat g, fun n hn => ?_⟩
  rw [State.thread_opensTx hNodup hn]
  exact hu n (by simp [hn])

theorem txb_hasTurn (h : Meets s g b (.txb d)) (hClean : s.taken.stashDirty b = false)
    (hAborts : EachActive g b fun t => s.taken.abortLimit b ≤ t.aborts)
    (hTurn : ∀ l ∈ g.acting, (s.taken.die (dieOf b.core)).turn = some (b.id, l)) :
    exec (.txb d) s = .next ((s.taken.eachLane g fun u l => u.opensTx g b l d.toNat true 1).endAll g .next) := by
  refine runTxb_ends (fun ls u => ∀ l ∈ ls, u.abortLimit b ≤ (u.thread b.id l).aborts ∧ (u.die (dieOf b.core)).turn = some (b.id, l)) h hClean
    (fun l hl => ⟨h.acting_thread hAborts hl, hTurn l hl⟩) ?_
  intro u l ls hNodup hu
  obtain ⟨hLimit, hHas⟩ := hu l (by simp)
  refine ⟨State.txbLane_hasTurn hLimit hHas d.toNat g, fun n hn => ?_⟩
  rw [State.thread_opensTx hNodup hn]
  exact hu n (by simp [hn])

theorem txb_joinsQueue (h : Meets s g b (.txb d)) (hClean : s.taken.stashDirty b = false)
    (hAborts : EachActive g b fun t => s.taken.abortLimit b ≤ t.aborts)
    (hTurn : ∀ l ∈ g.acting, (s.taken.die (dieOf b.core)).turn ≠ some (b.id, l) ∧ (b.id, l) ∉ (s.taken.die (dieOf b.core)).turnQueue) :
    exec (.txb d) s = .next ((s.taken.eachLane g fun u l =>
      u.modDie (dieOf b.core) fun x => { x with turnQueue := x.turnQueue ++ [(b.id, l)] }).endAll g .stay) := by
  refine runTxb_ends (fun ls u => ∀ l ∈ ls, u.abortLimit b ≤ (u.thread b.id l).aborts ∧ (u.die (dieOf b.core)).turn ≠ some (b.id, l) ∧
    (b.id, l) ∉ (u.die (dieOf b.core)).turnQueue) h hClean (fun l hl => ⟨h.acting_thread hAborts hl, hTurn l hl⟩) ?_
  intro u l ls hNodup hu
  obtain ⟨hLimit, hNot, hQueue⟩ := hu l (by simp)
  refine ⟨State.txbLane_joinsQueue hLimit hNot hQueue d.toNat g, fun n hn => ?_⟩
  obtain ⟨hLimit', hNot', hQueue'⟩ := hu n (by simp [hn])
  have hOther : n ≠ l := fun hEq => (List.nodup_cons.mp hNodup).1 (hEq ▸ hn)
  refine ⟨hLimit', ?_⟩
  obtain hDie | hDie := State.die_modDie u (dieOf b.core) fun x => { x with turnQueue := x.turnQueue ++ [(b.id, l)] }
  · rw [hDie]
    exact ⟨hNot', by simp [hQueue', hOther]⟩
  · rw [hDie]
    exact ⟨hNot', hQueue'⟩

theorem txb_dirty (h : Meets s g b (.txb d)) (hDirty : s.taken.stashDirty b = true) (hMid : ∀ t ∈ b.threads, t.mid ≠ some .flush) :
    exec (.txb d) s = .next ((s.taken.eachLane g fun u l =>
      (u.writeBackFor b).modThread b.id l fun t => { t with mid := some .flush }).endAll g .stay) := by
  refine runTxb_ends (fun ls u => ∀ l ∈ ls, (u.thread b.id l).mid ≠ some .flush) h hDirty
    (fun l hl => h.acting_thread (P := fun t => t.mid ≠ some .flush) (fun _ _ _ t ht => hMid t (List.mem_of_getElem? ht)) hl) ?_
  intro u l ls hNodup hu
  refine ⟨State.txbLane_dirty (hu l (by simp)) d.toNat g, fun n hn => ?_⟩
  have hOther : l ≠ n := fun hEq => (List.nodup_cons.mp hNodup).1 (hEq ▸ hn)
  rw [State.thread_modThread_other _ _ hOther, State.thread_of_bundles (State.writeBackFor_bundles u b)]
  exact hu n (by simp [hn])

end

/-! TXE and TXA (R246, R248). -/

theorem quiet_needsTx {s : State} {g : Group} {b : Bundle} (h : EachActive g b fun t => t.tx.isSome = true) : Quiet needsTx s g b :=
  fun l hl ha t ht => if_pos (h l hl ha t ht)

/-- Whether the write set of a transaction shares a line with a set of another. -/
theorem Tx.any_writeLines (x y : Tx) : (x.writeLines.any fun n => y.allLines.contains n) =
    x.writes.any fun w => y.reads.any (·.line == w.line) || y.writes.any (·.line == w.line) := by
  simp only [Tx.writeLines, Tx.allLines, List.any_map]
  congr 1
  funext w
  rw [Bool.eq_iff_iff]
  simp [mem_distinct]

/-- A lane in a revocable transaction that loses to a lower lane of its group (R246). -/
def State.losesTx (s : State) (b : Nat) (ls : List Nat) (l : Nat) : Bool :=
  !(((s.thread b l).tx.map (·.irrevocable)).getD false) && s.losesInGroup b l ls

theorem State.losesTx_none {s : State} {b l : Nat} (h : (s.thread b l).tx = none) (ls : List Nat) : s.losesTx b ls l = false := by
  simp [State.losesTx, State.losesInGroup, h]

theorem State.losesTx_some {s : State} {b l : Nat} {x : Tx} (h : (s.thread b l).tx = some x) (ls : List Nat) :
    s.losesTx b ls l = (!x.irrevocable && ls.any fun m => decide (m < l) && match (s.thread b m).tx with
      | some y => x.writes.any fun w => y.reads.any (·.line == w.line) || y.writes.any (·.line == w.line)
      | none => false) := by
  simp only [State.losesTx, State.losesInGroup, h, Tx.any_writeLines, Option.map_some, Option.getD_some] <;> rfl

theorem txe_ends {s : State} {g : Group} {b : Bundle} (h : Meets s g b .txe) (hTx : EachActive g b fun t => t.tx.isSome = true) :
    exec .txe s = .next ((s.taken.eachLane g fun u l =>
      if s.losesTx b.id g.acting l = true then u.abortTx b.id l 0x00010001#32
      else u.modThread b.id l fun t => { t with mid := some .commit, tx := t.tx.map fun x => { x with commit := some none } }).endsWith g
        fun l => if l ∈ g.active then (if s.losesTx b.id g.acting l = true then .gone else .stay) else .next) := by
  show execTxe s = _
  rw [execTxe]
  refine runEach_endsBy (f := fun u _ b l => if s.losesTx b.id g.acting l = true then (u.abortTx b.id l 0x00010001#32, .gone)
    else (u.modThread b.id l fun t => { t with mid := some .commit, tx := t.tx.map fun x => { x with commit := some none } }, .stay))
    h (quiet_needsTx hTx) rfl fun u l => ?_
  split <;> rfl

/-- Settles O37: TXB opens, waits or writes back as the lane's aborts, the turn token and the stash say; TXE settles who loses before any lane
acts; TXA aborts. -/
theorem transactionsOpenCommitAndAbort : Obligations.TransactionsOpenCommitAndAbort := by
  intro d imm
  refine ⟨fun s g b h ⟨hClean, hAborts⟩ => txb_underLimit h hClean hAborts,
    ⟨fun s g b h ⟨hClean, hAborts, hTurn⟩ => txb_hasTurn h hClean hAborts hTurn,
      fun s g b h ⟨hClean, hAborts, hTurn⟩ => txb_joinsQueue h hClean hAborts hTurn,
      fun s g b h ⟨hDirty, hMid⟩ => txb_dirty h hDirty hMid⟩, ?txe, fun s g b h hTx => ?txa⟩
  case txe =>
    intro s g b h hTx loses
    have hLoses : loses = s.losesTx b.id g.acting := by
      funext l
      simp only [loses]
      split
      · next x hx => exact (State.losesTx_some hx g.acting).symm
      · next hNone => exact (State.losesTx_none hNone g.acting).symm
    rw [hLoses]
    exact txe_ends h hTx
  case txa =>
    show execTxa imm s = _
    rw [execTxa]
    exact runLanes_always h (quiet_needsTx hTx) fun _ _ => rfl

end Sys2Proof.Machine
end

section
/-! SUPPORT. ATOM (R236 to R241): its issue, the lanes' steps one after another, what it leaves at a home and in an array, and how its answer
lands in the lanes. -/

namespace Sys2Proof.Machine

/-! Issue. -/

/-- The offences of an ATOM's lanes, met at its issue (R150). -/
def State.metAtom (s : State) (g : Group) (b : Bundle) (stream size : Nat) (ea : Nat → DWord) : State :=
  s.next.eachLane g fun u l => u.offend b (u.place b stream (ea l) size) (spaceOf (u.streamWord b stream)) (ea l)

/-- One request for each place that lanes of the group name (R239). -/
def State.atomRequests (s : State) (g : Group) (b : Bundle) (op : Nat) (n : BitVec 1) (scope stream d : Nat) (ea : Nat → DWord) : State :=
  (groupPlaces (g.acting.map fun l => (l, s.place b stream (ea l) (atomSize op)))).foldl (fun (u : State) x =>
    u.addReq { u.newReq g b (x.2.headD 0) stream (.atom op (n == 1#1) d (s.resolveScope b scope stream)
      (x.2.map fun l => (u.thread b.id l).atomLane op d l)) x.1 (ea (x.2.headD 0)) (atomSize op) s.fresh with also := x.2.drop 1 })
    (s.metAtom g b stream (atomSize op) ea)

/-- Every destination is pending unless the form returns nothing (R236). -/
def State.atomMarks (s : State) (g : Group) (b : Bundle) (op : Nat) (n : BitVec 1) (d : Nat) : State :=
  if n == 1#1 then s else s.eachLane g fun u l => u.modThread b.id l fun t => t.marks d .pending (if op = 15 then 2 else 1)

theorem completes_atom {i : Instr} {op : Nat} {n : BitVec 1} {k : BitVec 3} {st : BitVec 4} {p : BitVec 6} {d : BitVec 7}
    (hi : ∀ s, exec i s = runAtom i op n k st p d s) :
    Completes i (fun s g b => EachActive g b fun t => s.atomChecks g b op k.toNat st.toNat (t.ea p 0#6 1) = [])
      (fun s g b => (s.atomRequests g b op n k.toNat st.toNat d.toNat fun l => (s.thread b.id l).ea p 0#6 1).atomMarks g b op n d.toNat)
      .next := by
  intro s g b h hSound
  rw [hi, runAtom]
  refine runWith_ends h hSound rfl fun l _ => ?_
  simp [endOf]

/-! The steps of the lanes (R237, R239). -/

/-- One lane's step on the memory value. -/
def atomStep (op : Nat) (m : DWord) (x : AtomLane) : DWord := atomNew op x.v x.v2 m

/-- The memory value after all lanes. -/
theorem atomChain_value (op : Nat) (ls : List AtomLane) (m : DWord) : (atomChain op ls m).2 = ls.foldl (atomStep op) m := by
  induction ls generalizing m with
  | nil => rfl
  | cons x ls ih => exact ih _

/-- Each lane receives the value that the lanes before it have left. -/
theorem atomChain_old (op : Nat) (ls : List AtomLane) (m : DWord) :
    (atomChain op ls m).1.map (·.old) = (List.range ls.length).map fun j => (ls.take j).foldl (atomStep op) m := by
  induction ls generalizing m with
  | nil => rfl
  | cons x ls ih =>
    have hRest := ih (atomNew op x.v x.v2 m)
    simp only [atomChain, List.map_cons, hRest, List.length_cons, List.range_succ_eq_map, List.map_map]
    rfl

/-! Bytes. -/

theorem length_leBytes (n v : Nat) : (leBytes n v).length = n := by
  induction n generalizing v with
  | zero => rfl
  | succ n ih => simp [leBytes, ih]

/-- Bytes read back where they were written. -/
theorem readBytes_writeBytes {m : Mem} (h : m.wf = true) (a : Nat) (bs : List Byte) : readBytes (writeBytes m a bs) a bs.length = bs := by
  apply List.ext_getElem
  · simp [readBytes]
  · intro j _ hj
    simp [readBytes, readByte_writeBytes _ _ _ _ h, hj]

/-- A memory in which some bytes have been written holds them, and every other byte stays. -/
theorem readBytes_leBytes_writeBytes {m : Mem} (h : m.wf = true) (a n v : Nat) :
    readBytes (writeBytes m a (leBytes n v)) a n = leBytes n v ∧
      ∀ x, x < a ∨ a + n ≤ x → readByte (writeBytes m a (leBytes n v)) x = readByte m x := by
  have hLength := length_leBytes n v
  refine ⟨?_, fun x hx => ?_⟩
  · have hRead := readBytes_writeBytes h a (leBytes n v)
    rwa [hLength] at hRead
  · rw [readByte_writeBytes _ _ _ _ h, hLength, if_neg (by omega)]

/-! At the executing place (R238). -/

theorem not_isDone_of_waits {p : Phase} (h : p = .issued ∨ p = .sent) : p.isDone = false := by
  obtain rfl | rfl := h <;> rfl

section
variable {s : State} {r : Req} {op dst sc : Nat} {q : Bool} {ls : List AtomLane}

theorem homeStoreArrival_atom (hr : s.req? r.id = some r) (hk : r.kind = .atom op q dst sc ls) :
    exec (.homeStoreArrival r.id) s = .next (s.atomHome r op q dst sc ls) := by
  simp only [exec_homeStoreArrival, execHomeStoreArrival, hr, hk]

theorem storeQueueDrain_atom (hr : s.req? r.id = some r) (hk : r.kind = .atom op q dst sc ls) :
    exec (.storeQueueDrain r.id) s = .next (s.atomLocal r op q dst sc ls) := by
  simp only [exec_storeQueueDrain, execStoreQueueDrain, hr, hk]

theorem lateResultArrival_atom (hr : s.req? r.id = some r) (hk : r.kind = .atom op false dst sc ls)
    (ho : (s.part (s.partAt r.bundle)).det = false ∨ ∀ k va, r.place ≠ .peer k va) :
    exec (.lateResultArrival r.id) s = .next (s.finishAtom r op false dst ls) := by
  simp only [exec_lateResultArrival, execLateResultArrival, hr, hk, Bool.false_eq_true, if_false, State.peerReply_atOnce ho]

theorem Sole.atomReady_eq (h : Sole s r) : s.atomReady r = true := by
  simp [State.atomReady, h.inOrder_eq, h.earlier_eq]

/-- The only request is done: its lanes hold what the place gave them. -/
theorem atomDone_reqs {u : State} (hu : u.reqs = [r]) (xs : List AtomLane) (w : Nat) (lapse : Nat × Nat) (new : List Word) :
    (u.atomDone r op q dst sc xs w lapse new).reqs =
      [{ r with kind := .atom op q dst sc xs, phase := .done w lapse.1 lapse.2 new, held := none }] := by
  simp [State.atomDone, State.modReq, upd, hu]

/-- The ATOM's write at its home, in the order of the home's stores (R153). -/
def State.atomStored (s : State) (r : Req) (pa : Nat) (v : DWord) : State × Nat :=
  (s.atHome r.core (pa / 64) (s.policyFor r)).1.homeStore (s.storeTime r.core (pa / 64)) pa (leBytes r.size v.toNat)

theorem State.atomStored_reqs (s : State) (r : Req) (pa : Nat) (v : DWord) : (s.atomStored r pa v).1.reqs = s.reqs :=
  (State.homeStore_reqs _ _ _ _).trans (State.useL2_reqs s _ _ _ _)

theorem State.atomStored_mem (s : State) (r : Req) (pa : Nat) (v : DWord) :
    (s.atomStored r pa v).1.mem = writeBytes s.mem pa (leBytes r.size v.toNat) := by
  have hMem : (s.atHome r.core (pa / 64) (s.policyFor r)).1.mem = s.mem := State.useL2_mem s _ _ _ _
  rw [State.atomStored, State.homeStore_mem, hMem]

theorem Sole.atomHome_eq {pa : Nat} (h : Sole s r) (hp : r.phase = .issued ∨ r.phase = .sent) (hPlace : r.place = .mem pa) (hScope : 2 ≤ sc)
    (hHeld : s.lineHeld (pa / 64) (r.bundle, r.lane) true = false) :
    let c := atomChain op ls (BitVec.ofNat 64 (leNat (readBytes s.mem pa r.size)))
    s.atomHome r op q dst sc ls = (s.atomStored r pa c.2).1.atomDone r op q dst sc c.1 (s.atomStored r pa c.2).2
      (s.lapseClocks r.core (pa / 64)) (wordsOf 2 (leBytes 8 c.2.toNat)) := by
  have hWide : ¬sc ≤ 1 := by omega
  simp [State.atomHome, h.atomReady_eq, not_isDone_of_waits hp, h.reaches_eq, hPlace, hWide, h.sliceOrder_eq, h.mustHold_eq, hHeld,
    State.atomStored]

/-- At its line's home the lanes act on memory's bytes in rising order, and no other byte changes. -/
theorem Sole.atomAtHome {pa : Nat} (h : Sole s r) (hk : r.kind = .atom op q dst sc ls) (hp : r.phase = .issued ∨ r.phase = .sent)
    (hPlace : r.place = .mem pa) (hScope : 2 ≤ sc) (hw : s.mem.wf = true) (hHeld : s.lineHeld (pa / 64) (r.bundle, r.lane) true = false) :
    let m := BitVec.ofNat 64 (leNat (readBytes s.mem pa r.size))
    ∃ (t : State) (u : Req) (w : Nat) (lapse : Nat × Nat) (new : List Word), exec (.homeStoreArrival r.id) s = .next t ∧ t.reqs = [u] ∧
      u.phase = .done w lapse.1 lapse.2 new ∧
      (∃ xs, u.kind = .atom op q dst sc xs ∧ xs.map (·.old) = (List.range ls.length).map fun j => (ls.take j).foldl (atomStep op) m) ∧
      readBytes t.mem pa r.size = leBytes r.size (ls.foldl (atomStep op) m).toNat ∧
      ∀ a, a < pa ∨ pa + r.size ≤ a → readByte t.mem a = readByte s.mem a := by
  intro m
  have hExec := homeStoreArrival_atom h.req?_eq hk
  rw [h.atomHome_eq hp hPlace hScope hHeld] at hExec
  have hReqs := (s.atomStored_reqs r pa (atomChain op ls m).2).trans h.only
  obtain ⟨hBytes, hOthers⟩ := readBytes_leBytes_writeBytes hw pa r.size (atomChain op ls m).2.toNat
  rw [← s.atomStored_mem r pa] at hBytes hOthers
  exact ⟨_, _, _, _, _, hExec, atomDone_reqs hReqs _ _ _ _, rfl, ⟨_, rfl, atomChain_old op ls m⟩, atomChain_value op ls m ▸ hBytes, hOthers⟩

/-- The bytes of a block's array. -/
theorem State.spadRead_block {k : Nat} {y : Block} (hy : s.block? k = some y) (off n : Nat) : s.spadRead k off n = readBytes y.spad off n := by
  simp only [State.spadRead, hy]

theorem State.block?_spadWrite {k : Nat} {y : Block} (hy : s.block? k = some y) (off : Nat) (bs : List Byte) :
    (s.spadWrite k off bs).block? k = some { y with spad := writeBytes y.spad off bs } := by
  have hFind := find?_upd s.blocks (·.id == k) (fun x : Block => { x with spad := writeBytes x.spad off bs }) fun _ => rfl
  rw [show s.blocks.find? (·.id == k) = some y from hy] at hFind
  exact hFind

theorem Sole.atomLocal_spad {k off : Nat} (h : Sole s r) (hp : r.phase = .issued ∨ r.phase = .sent) (hPlace : r.place = .spad k off) :
    let c := atomChain op ls (BitVec.ofNat 64 (leNat (s.spadRead k off r.size)))
    s.atomLocal r op q dst sc ls =
      (s.spadWrite k off (leBytes r.size c.2.toNat)).atomDone r op q dst sc c.1 0 (0, 0) [] := by
  simp [State.atomLocal, h.atomReady_eq, not_isDone_of_waits hp, hPlace]

/-- In an array the lanes act on the block's bytes in rising order, and no other byte changes. -/
theorem Sole.atomInArray {k off : Nat} {y : Block} (h : Sole s r) (hk : r.kind = .atom op q dst sc ls)
    (hp : r.phase = .issued ∨ r.phase = .sent) (hPlace : r.place = .spad k off) (hy : s.block? k = some y) (hw : y.spad.wf = true) :
    let m := BitVec.ofNat 64 (leNat (readBytes y.spad off r.size))
    ∃ t u z, exec (.storeQueueDrain r.id) s = .next t ∧ t.reqs = [u] ∧ t.mem = s.mem ∧ t.block? k = some z ∧
      (∃ xs, u.kind = .atom op q dst sc xs ∧ xs.map (·.old) = (List.range ls.length).map fun j => (ls.take j).foldl (atomStep op) m) ∧
      readBytes z.spad off r.size = leBytes r.size (ls.foldl (atomStep op) m).toNat ∧
      ∀ a, a < off ∨ off + r.size ≤ a → readByte z.spad a = readByte y.spad a := by
  intro m
  have hExec := storeQueueDrain_atom h.req?_eq hk
  rw [h.atomLocal_spad hp hPlace, State.spadRead_block hy] at hExec
  obtain ⟨hBytes, hOthers⟩ := readBytes_leBytes_writeBytes hw off r.size (atomChain op ls m).2.toNat
  have hReqs : (s.spadWrite k off (leBytes r.size (atomChain op ls m).2.toNat)).reqs = [r] := h.only
  exact ⟨_, _, _, hExec, atomDone_reqs hReqs _ _ _ _, rfl, State.block?_spadWrite hy off _,
    ⟨_, rfl, atomChain_old op ls m⟩, atomChain_value op ls m ▸ hBytes, hOthers⟩

end

/-! The answer (R93, R236). -/

theorem State.thread?_landThread (s : State) (b l n : Nat) (f : Thread → Thread) :
    (s.landThread b l f).thread? b n = (s.thread? b n).map fun t => if l = n then t.landed f else t := by
  cases hb : s.bundle? b with
  | some x => simp only [State.landThread, hb, Option.isSome_some, if_true, State.thread?_modThread]
  | none =>
    have hNone : s.thread? b n = none := by simp only [State.thread?, hb, Option.bind_none]
    rw [hNone]
    simp only [State.landThread, hb, Option.isSome_none, Bool.false_eq_true, if_false]
    exact hNone

/-- What lands in a lane leaves the others as they were. -/
theorem State.thread?_landThread_other (s : State) (b : Nat) {l n : Nat} (hn : l ≠ n) (f : Thread → Thread) :
    (s.landThread b l f).thread? b n = s.thread? b n := by
  simp only [State.thread?_landThread, hn, if_false, Option.map_id']

theorem State.thread?_landThread_live {s : State} {b l : Nat} {t : Thread} (ht : s.thread? b l = some t) (hLive : t.life = .live)
    (f : Thread → Thread) : (s.landThread b l f).thread? b l = some (f t) := by
  simp [State.thread?_landThread, ht, Thread.landed, hLive]

/-- A lane takes its old value. -/
def Thread.takesOld (t : Thread) (op dst : Nat) (z : AtomLane) : Thread :=
  if op = 15 then t.writePair dst z.old else t.write dst (z.old.extractLsb' 0 32)

theorem Thread.regs_write_congr {t u : Thread} (h : t.regs = u.regs) (n : Nat) (v : Word) : (t.write n v).regs = (u.write n v).regs := by
  simp only [Thread.write, Thread.put]
  split
  · exact h
  · simp only [h]

theorem Thread.regs_takesOld_congr {t u : Thread} (h : t.regs = u.regs) (op dst : Nat) (z : AtomLane) :
    (t.takesOld op dst z).regs = (u.takesOld op dst z).regs := by
  simp only [Thread.takesOld]
  split
  · exact Thread.regs_write_congr (Thread.regs_write_congr h _ _) _ _
  · exact Thread.regs_write_congr h _ _

/-- The lanes of an ATOM take their old values. -/
def State.landsOld (s : State) (b op dst : Nat) (ls : List AtomLane) : State :=
  ls.foldl (fun s z => s.landThread b z.lane fun t => t.takesOld op dst z) s

theorem State.thread?_landsOld_other {b n : Nat} (op dst : Nat) {ls : List AtomLane} (h : n ∉ ls.map (·.lane)) (s : State) :
    (s.landsOld b op dst ls).thread? b n = s.thread? b n := by
  induction ls generalizing s with
  | nil => rfl
  | cons x ls ih =>
    simp only [List.map_cons, List.mem_cons, not_or] at h
    obtain ⟨hHead, hTail⟩ := h
    exact (ih hTail _).trans (State.thread?_landThread_other s b (Ne.symm hHead) _)

/-- Where each lane stands once, it takes its own value. -/
theorem State.thread?_landsOld {s : State} {b op dst : Nat} {ls : List AtomLane} {z : AtomLane} {t : Thread}
    (hNodup : (ls.map (·.lane)).Nodup) (hz : z ∈ ls) (ht : s.thread? b z.lane = some t) (hLive : t.life = .live) :
    (s.landsOld b op dst ls).thread? b z.lane = some (t.takesOld op dst z) := by
  induction ls generalizing s with
  | nil => cases hz
  | cons x ls ih =>
    obtain ⟨hx, hNodup⟩ := List.nodup_cons.mp hNodup
    obtain rfl | hz := List.mem_cons.mp hz
    · exact (State.thread?_landsOld_other op dst hx _).trans (State.thread?_landThread_live ht hLive _)
    · have hOther : x.lane ≠ z.lane := fun hEq => hx (List.mem_map.mpr ⟨z, hz, hEq.symm⟩)
      exact ih hNodup hz ((State.thread?_landThread_other s b hOther _).trans ht)

/-- Lapse clocks that land leave a thread's registers and its life as they were. -/
theorem Thread.landed_lapses (t : Thread) (xs : List Lapse) :
    (t.landed fun t => { t with lapses := t.lapses ++ xs }).regs = t.regs ∧ (t.landed fun t => { t with lapses := t.lapses ++ xs }).life = t.life := by
  simp only [Thread.landed]
  split <;> exact ⟨rfl, rfl⟩

theorem State.thread?_addLapse {s : State} {b n : Nat} {t : Thread} (ht : s.thread? b n = some t) (l stream : Nat) (x : Nat × Nat) :
    ∃ u, (s.addLapse b l stream x).thread? b n = some u ∧ u.regs = t.regs ∧ u.life = t.life := by
  rw [State.addLapse, State.thread?_landThread, ht]
  refine ⟨_, rfl, ?_⟩
  by_cases hl : l = n
  · simp only [hl, if_true]
    exact Thread.landed_lapses t _
  · simp only [hl, if_false, and_self]

theorem State.thread?_foldl_addLapse {s : State} {b n : Nat} {t : Thread} (ht : s.thread? b n = some t) (lanes : List Nat) (stream : Nat)
    (x : Nat × Nat) :
    ∃ u, (lanes.foldl (fun s l => s.addLapse b l stream x) s).thread? b n = some u ∧ u.regs = t.regs ∧ u.life = t.life := by
  induction lanes generalizing s t with
  | nil => exact ⟨t, ht, rfl, rfl⟩
  | cons l lanes ih =>
    obtain ⟨u, hu, hRegs, hLife⟩ := State.thread?_addLapse ht l stream x
    obtain ⟨v, hv, hRegs', hLife'⟩ := ih hu
    exact ⟨v, hv, hRegs'.trans hRegs, hLife'.trans hLife⟩

/-- The state in which an ATOM's answer has reached its core: its time has passed, it is gone, and its threads keep its lapse clocks. -/
def State.answered (s : State) (r : Req) (w : Nat) (lapse : Nat × Nat) : State :=
  if w = 0 then (s.reachTime r w).dropReq r.id
  else r.lanes.foldl (fun s l => s.addLapse r.bundle l r.stream lapse) ((s.reachTime r w).dropReq r.id)

theorem State.thread?_answered {s : State} {r : Req} {n : Nat} {t : Thread} (ht : s.thread? r.bundle n = some t) (w : Nat) (lapse : Nat × Nat) :
    ∃ u, (s.answered r w lapse).thread? r.bundle n = some u ∧ u.regs = t.regs ∧ u.life = t.life := by
  simp only [State.answered]
  split
  · exact ⟨t, ht, rfl, rfl⟩
  · exact State.thread?_foldl_addLapse (s := (s.reachTime r w).dropReq r.id) ht r.lanes r.stream lapse

/-- The answer of an ATOM at a home of its core's die. -/
theorem State.finishAtom_home {s : State} {r : Req} {w x y pa : Nat} {new : List Word} (hp : r.phase = .done w x y new)
    (hPlace : r.place = .mem pa) (hHome : homeDie pa = dieOf r.core) (op dst : Nat) (ls : List AtomLane) :
    s.finishAtom r op false dst ls = (s.answered r w (x, y)).landsOld r.bundle op dst ls := by
  simp [State.finishAtom, hp, State.ackOrder, hPlace, hHome, State.copyTakes, State.answered, State.landsOld, Thread.takesOld]

/-- Each live lane holds its old value. -/
theorem State.regs_finishAtom {s : State} {r : Req} {w x y pa op dst : Nat} {new : List Word} {ls : List AtomLane} {b : Bundle} {z : AtomLane}
    {t : Thread} (hp : r.phase = .done w x y new) (hPlace : r.place = .mem pa) (hHome : homeDie pa = dieOf r.core)
    (hb : s.bundle? r.bundle = some b) (hNodup : (ls.map (·.lane)).Nodup) (hz : z ∈ ls) (ht : b.threads[z.lane]? = some t)
    (hLive : t.life = .live) : ((s.finishAtom r op false dst ls).thread r.bundle z.lane).regs = (t.takesOld op dst z).regs := by
  have hThread : s.thread? r.bundle z.lane = some t := by simp only [State.thread?, hb, Option.bind_some, ht]
  obtain ⟨u, hu, hRegs, hLife⟩ := State.thread?_answered hThread w (x, y)
  rw [State.finishAtom_home hp hPlace hHome, State.thread, State.thread?_landsOld hNodup hz hu (hLife.trans hLive)]
  exact Thread.regs_takesOld_congr hRegs op dst z

/-- Settles O36: the sixteen instructions share their issue, and the step of each op is the one that the statement writes out. -/
theorem atomicsSendOneRequestPerPlace : Obligations.AtomicsSendOneRequestPerPlace := by
  intro n k st p d atom
  have hAtom (i : Instr) (op : Nat) (hi : ∀ s, exec i s = runAtom i op n k st p d s) : atom i op := completes_atom hi
  refine ⟨hAtom _ 0 fun _ => rfl, hAtom _ 1 fun _ => rfl, hAtom _ 2 fun _ => rfl, hAtom _ 3 fun _ => rfl, hAtom _ 4 fun _ => rfl,
    hAtom _ 5 fun _ => rfl, hAtom _ 6 fun _ => rfl, hAtom _ 7 fun _ => rfl, hAtom _ 8 fun _ => rfl, hAtom _ 9 fun _ => rfl,
    hAtom _ 10 fun _ => rfl, hAtom _ 11 fun _ => rfl, hAtom _ 12 fun _ => rfl, hAtom _ 13 fun _ => rfl, hAtom _ 14 fun _ => rfl,
    hAtom _ 15 fun _ => rfl, ?_⟩
  intro F word stepBy memory s r op dst sc q ls h hk hop hSize hp
  -- On each of the sixteen codes both definitions reduce to the same operation.
  have hStep : stepBy op = atomStep op := by
    funext m x
    match op, hop with
    | 0, _ | 1, _ | 2, _ | 3, _ | 4, _ | 5, _ | 6, _ | 7, _ | 8, _ | 9, _ | 10, _ | 11, _ | 12, _ | 13, _ | 14, _ | 15, _ => rfl
    | n + 16, h => exact absurd h (by omega)
  rw [hStep]
  refine ⟨fun pa hPlace hScope _ hw hHeld => h.atomAtHome hk hp hPlace hScope hw hHeld,
    fun k off y hPlace hy hw => h.atomInArray hk hp hPlace hy hw, ?answer⟩
  rintro w x y new pa b rfl hDone hPlace hHome hb hNodup
  refine ⟨lateResultArrival_atom h.req?_eq hk (.inr (by simp [hPlace])), fun z hz t ht hLive => ?_⟩
  exact State.regs_finishAtom hDone hPlace hHome hb hNodup hz ht hLive

end Sys2Proof.Machine
end

section
/-! SUPPORT. Objects at issue (R258 to R261, R265): what a lane's CALLO, OBJREG and OBJRST send to a descriptor's home, and the reply that
CRPLY records. -/

namespace Sys2Proof.Machine

/-- A lane's request leaves for the home of the descriptor that register a names, and n registers from d on are pending. -/
def State.asksObject (u : State) (g : Group) (b : Bundle) (l : Nat) (a d : BitVec 7) (n : Nat) (kind : ReqKind) (entry : Nat) : State :=
  let ea := (u.thread b.id l).pair a.toNat
  (u.modThread b.id l fun t => t.marks d.toNat .pending n).addReq (u.newReq g b l 0 kind (u.globalPlace b 0 ea) ea 64 entry)

theorem quiet_objChecks {s : State} {g : Group} {b : Bundle} {a : BitVec 7}
    (h : EachActive g b fun t => s.taken.globalChecks b 0 (t.pair a.toNat) 64 true true 64 = []) : Quiet (objChecks a) s g b := h

/-- Each lane of OBJREG and OBJRST sends one request, with an entry of its own (R258, R259). -/
theorem completes_object {i : Instr} {reset : Bool} {a d : BitVec 7} (hi : ∀ s, exec i s = runObject i reset a d s) :
    Completes i (fun s g b => EachActive g b fun t => s.globalChecks b 0 (t.pair a.toNat) 64 true true 64 = [])
      (fun s g b => s.eachLane g fun u l => u.asksObject g b l a d 1 (.object reset d.toNat) u.fresh) .next := by
  intro s g b h hSound
  rw [hi, runObject]
  exact runLanes_always h (quiet_objChecks hSound) fun _ _ => rfl

/-- The lanes of one CALLO share an entry (R260). -/
theorem completes_callo (b' a d : BitVec 7) :
    Completes (.callo b' a d) (fun s g b => EachActive g b fun t => s.globalChecks b 0 (t.pair a.toNat) 64 true true 64 = [])
      (fun s g b => s.next.eachLane g fun u l =>
        u.asksObject g b l a d 5 (.call d.toNat ((u.thread b.id l).vals b'.toNat 4)) s.fresh) .next := by
  intro s g b h hSound
  show execCallo b' a d s = _
  rw [execCallo]
  exact runEntry_ends (fun _ _ => True) h (quiet_objChecks hSound) trivial fun _ _ _ _ _ => ⟨rfl, trivial⟩

/-- A lane that has not replied and can read its object's reply words raises nothing at CRPLY (R265). -/
theorem quiet_replyChecks {s : State} {g : Group} {b : Bundle} {a : BitVec 7}
    (h : EachActive g b fun t => ∀ o, s.taken.waveObj b = some o →
      t.reply = none ∧ t.srcTrap { reg := a.toNat, n := o.replies } = none) : Quiet (replyChecks a) s g b := by
  intro l hl ha t ht
  simp only [replyChecks]
  cases hObj : s.taken.waveObj b with
  | none => rfl
  | some o =>
    obtain ⟨hFirst, hReadable⟩ := h l hl ha t ht o hObj
    simp [hFirst, hReadable]

/-- Settles O39: the three requests differ in their kind, in the registers they mark and in who shares an entry; CRPLY acts on its own
thread. -/
theorem objectInstructionsSendRequests : Obligations.ObjectInstructionsSendRequests := by
  intro imm b' a d sound send
  refine ⟨completes_callo b' a d, completes_object fun _ => rfl, completes_object fun _ => rfl, fun s g b h hReply => ?_⟩
  show execCrply imm a s = _
  rw [execCrply]
  exact runLanes_always h (quiet_replyChecks hReply) fun _ _ => rfl

end Sys2Proof.Machine
end

section
/-! SUPPORT. Objects and combiner waves at their home (R258 to R260, R262, R263, R266, R269): what a request to the Clamp does where it may act,
and how a wave forms, ends and aborts. -/

namespace Sys2Proof.Machine

/-! What the dispatch answers for each of these events. -/

theorem exec_objregAtHome (op : Nat) (s : State) : exec (.objregAtHome op) s = execObjregAtHome op s := by rfl
theorem exec_objrstAtHome (op : Nat) (s : State) : exec (.objrstAtHome op) s = execObjrstAtHome op s := by rfl
theorem exec_calloArrival (op : Nat) (s : State) : exec (.calloArrival op) s = execCalloArrival op s := by rfl
theorem exec_combinerWaveFormation (op : Nat) (s : State) :
    exec (.combinerWaveFormation op) s = execCombinerWaveFormation op s := by rfl
theorem exec_combinerWaveEnd (op : Nat) (s : State) : exec (.combinerWaveEnd op) s = execCombinerWaveEnd op s := by rfl
theorem exec_combinerWaveAbort (op : Nat) (s : State) : exec (.combinerWaveAbort op) s = execCombinerWaveAbort op s := by rfl

/-! A request that may act at its home. -/

theorem State.id_of_req? {s : State} {op : Nat} {r : Req} (h : s.req? op = some r) : r.id = op := by
  simpa using List.find?_some h

/-- The home answers a request with one word, at its line's write time (R258, R259). -/
def State.answersWord (s : State) (r : Req) (pa : Nat) (v : Word) : State := s.doneAt r.id (s.line (pa / 64)).wts (0, 0) [v]

/-- A request of the Clamp that may act: its bundle is there, its turn has come and its release is satisfied. -/
structure ClampActs (s : State) (op : Nat) (r : Req) (b : Bundle) : Prop where
  found : s.req? op = some r
  bundle : s.anyBundle r.bundle = some b
  ready : s.clampReady r = true
  released : s.allPerformed b r.lane 4 0 (some r.id) = true

section
variable {s : State} {op : Nat} {r : Req} {b : Bundle} (h : ClampActs s op r b)
include h

theorem ClampActs.clampAt_home {pa : Nat} (hPlace : r.place = .mem pa) (hFree : s.mustHold r (pa / 64) true = false)
    (f : Req → Bundle → Nat → State) : s.clampAt op f = f r b pa := by
  simp [State.clampAt, h.found, h.bundle, hPlace, h.ready, h.released, hFree]

theorem ClampActs.clampAt_peer {k va : Nat} (hPlace : r.place = .peer k va) (f : Req → Bundle → Nat → State) :
    s.clampAt op f = s.clampPeer r (s.partOf b) k va := by
  simp [State.clampAt, h.found, h.bundle, hPlace, h.ready, h.released]

end

/-! OBJREG at the home (R258): the first check that fails gives the status. -/

section
variable {s : State} {r : Req} {p pa : Nat}

theorem State.register_badFields (hFields : objFieldsOk (readBytes s.mem pa 64) = false) : s.register r p pa = some (s.answersWord r pa 1) := by
  simp [State.register, hFields, State.answersWord]

theorem State.register_taken (hFields : objFieldsOk (readBytes s.mem pa 64) = true) (hTaken : (s.objectAt pa).isSome = true) :
    s.register r p pa = some (s.answersWord r pa 2) := by
  simp [State.register, hFields, hTaken, State.answersWord]

theorem State.register_dieFull (hFields : objFieldsOk (readBytes s.mem pa 64) = true) (hNew : s.objectAt pa = none)
    (hFull : 2048 ≤ (s.objects.filter fun o => o.die == homeDie pa).length) : s.register r p pa = some (s.answersWord r pa 3) := by
  simp [State.register, hFields, hNew, hFull, State.answersWord]

section
variable (hFields : objFieldsOk (readBytes s.mem pa 64) = true) (hNew : s.objectAt pa = none)
  (hRoom : (s.objects.filter fun o => o.die == homeDie pa).length < 2048)
include hFields hNew hRoom

theorem State.register_waits (hLease : s.objLease p (homeDie pa) (readBytes s.mem pa 64) = none) : s.register r p pa = none := by
  simp [State.register, hFields, hNew, Nat.not_le.mpr hRoom, hLease]

theorem State.register_unleased (hLease : s.objLease p (homeDie pa) (readBytes s.mem pa 64) = some none) :
    s.register r p pa = some (s.answersWord r pa 4) := by
  simp [State.register, hFields, hNew, Nat.not_le.mpr hRoom, hLease, State.answersWord]

theorem State.register_leased {u : State} {xs : List Xlat}
    (hLease : s.objLease p (homeDie pa) (readBytes s.mem pa 64) = some (some (u, xs))) :
    s.register r p pa = some ((({ u with objects := u.objects ++ [objOf u.fresh pa p (readBytes s.mem pa 64) xs] } : State).next.descWrite
      (u.core r.core).ctime pa 32 4 1).answersWord r pa 0) := by
  simp only [State.register, hFields, hNew, Nat.not_le.mpr hRoom, hLease, Bool.not_true, Bool.false_eq_true, Option.isSome_none, if_false]
  rfl

end

end

/-! OBJRST at the home (R259): an object whose wave runs waits; otherwise its descriptor is read again, and its flag tells whether the object
goes or takes new fields. -/

/-- The object is gone: its queued calls are answered, and its descriptor's status is 0. -/
def State.removesObject (s : State) (r : Req) (pa : Nat) (o : Obj) : State :=
  let v := s.replyQueued o.id (s.line (pa / 64)).wts 0x103
  ({ v with objects := v.objects.filter fun x => !(x.id == o.id) } : State).descWrite (v.core r.core).ctime pa 32 4 0

/-- The object takes the fields that its descriptor holds now, and its descriptor's status is 1. -/
def State.renewsObject (s : State) (r : Req) (pa : Nat) (o new : Obj) : State :=
  ({ s with objects := upd s.objects (·.id == o.id) fun _ => new } : State).descWrite (s.core r.core).ctime pa 32 4 1

section
variable {s : State} {r : Req} {p pa : Nat}

theorem State.resetObject_unregistered (hNone : s.objectAt pa = none) : s.resetObject r p pa = s.answersWord r pa 1 := by
  simp only [State.resetObject, hNone, State.answersWord]

variable {o : Obj} (hObj : s.objectAt pa = some o)
include hObj

theorem State.resetObject_inWave (hWave : (s.waves.any (·.obj == o.id)) = true) : s.resetObject r p pa = s.waitAtHome r := by
  simp only [State.resetObject, hObj, hWave, if_true]

variable (hIdle : (s.waves.any (·.obj == o.id)) = false)
include hIdle

theorem State.resetObject_badFields (hFields : objFieldsOk (readBytes s.mem pa 64) = false) : s.resetObject r p pa = s.answersWord r pa 2 := by
  simp [State.resetObject, hObj, hIdle, hFields, State.answersWord]

variable (hFields : objFieldsOk (readBytes s.mem pa 64) = true)
include hFields

section
variable (hGoes : bit (field (readBytes s.mem pa 64) 30 2) 0 = true)
include hGoes

theorem State.resetObject_removalWaits (hRanges : s.objRanges p (readBytes s.mem pa 64) = none) : s.resetObject r p pa = s.waitAtHome r := by
  simp [State.resetObject, hObj, hIdle, hFields, hGoes, hRanges]

theorem State.resetObject_removalFails (hRanges : s.objRanges p (readBytes s.mem pa 64) = some none) :
    s.resetObject r p pa = s.answersWord r pa 2 := by
  simp [State.resetObject, hObj, hIdle, hFields, hGoes, hRanges, State.answersWord]

theorem State.resetObject_removes {u : State} {xs : List Xlat} (hRanges : s.objRanges p (readBytes s.mem pa 64) = some (some (u, xs))) :
    s.resetObject r p pa = (u.removesObject r pa o).answersWord r pa 0 := by
  simp [State.resetObject, hObj, hIdle, hFields, hGoes, hRanges, State.answersWord, State.removesObject]

end

section
variable (hStays : bit (field (readBytes s.mem pa 64) 30 2) 0 = false)
include hStays

theorem State.resetObject_renewalWaits (hLease : s.objLease p (homeDie pa) (readBytes s.mem pa 64) = none) :
    s.resetObject r p pa = s.waitAtHome r := by
  simp [State.resetObject, hObj, hIdle, hFields, hStays, hLease]

theorem State.resetObject_renewalFails (hLease : s.objLease p (homeDie pa) (readBytes s.mem pa 64) = some none) :
    s.resetObject r p pa = s.answersWord r pa 2 := by
  simp [State.resetObject, hObj, hIdle, hFields, hStays, hLease, State.answersWord]

theorem State.resetObject_renews {u : State} {xs : List Xlat}
    (hLease : s.objLease p (homeDie pa) (readBytes s.mem pa 64) = some (some (u, xs))) :
    s.resetObject r p pa = (u.renewsObject r pa o (objOf o.id pa p (readBytes s.mem pa 64) xs)).answersWord r pa 0 := by
  simp [State.resetObject, hObj, hIdle, hFields, hStays, hLease, State.answersWord, State.renewsObject]

end

end

/-! What each event makes of a request that acts at its home. -/

section
variable {s : State} {op : Nat} {r : Req} {b : Bundle} {pa : Nat} (h : ClampActs s op r b) (hPlace : r.place = .mem pa)
  (hFree : s.mustHold r (pa / 64) true = false)
include h hPlace hFree

theorem ClampActs.objregAtHome {x : Nat} (hk : r.kind = .object false x) :
    exec (.objregAtHome op) s = .next ((s.register r (s.partOf b) pa).getD (s.waitAtHome r)) := by
  simp only [exec_objregAtHome, execObjregAtHome, h.clampAt_home hPlace hFree, hk]

theorem ClampActs.objregAtHome_waits {x : Nat} (hk : r.kind = .object false x) (hWaits : s.register r (s.partOf b) pa = none) :
    exec (.objregAtHome op) s = .next (s.waitAtHome r) := by
  rw [h.objregAtHome hPlace hFree hk, hWaits, Option.getD_none]

theorem ClampActs.objregAtHome_ends {x : Nat} {t : State} (hk : r.kind = .object false x)
    (hEnds : s.register r (s.partOf b) pa = some t) : exec (.objregAtHome op) s = .next t := by
  rw [h.objregAtHome hPlace hFree hk, hEnds, Option.getD_some]

theorem ClampActs.objrstAtHome_eq {x : Nat} {t : State} (hk : r.kind = .object true x)
    (hReset : s.resetObject r (s.partOf b) pa = t) : exec (.objrstAtHome op) s = .next t := by
  simp only [exec_objrstAtHome, execObjrstAtHome, h.clampAt_home hPlace hFree, hk, hReset]

/-! CALLO at the home (R260, R262). -/

section
variable {x : Nat} {args : List Word} (hk : r.kind = .call x args)
include hk

theorem ClampActs.calloArrival_unregistered (hNone : s.objectAt pa = none) :
    exec (.calloArrival op) s = .next (s.replyTo op (s.line (pa / 64)).wts 0x103 []) := by
  simp only [exec_calloArrival, execCalloArrival, h.clampAt_home hPlace hFree, hk, hNone]

variable {o : Obj} (hObj : s.objectAt pa = some o)
include hObj

theorem ClampActs.calloArrival_broken (hBroken : o.broken = true) :
    exec (.calloArrival op) s = .next (s.replyTo op (s.line (pa / 64)).wts 0x102 []) := by
  simp only [exec_calloArrival, execCalloArrival, h.clampAt_home hPlace hFree, hk, hObj, hBroken, if_true]

variable (hWhole : o.broken = false)
include hWhole

theorem ClampActs.calloArrival_full (hFull : o.capacity ≤ s.entriesOf o.id ∨ 16384 ≤ s.entriesIn o.die) :
    exec (.calloArrival op) s = .next (s.modReq op fun r => { r with
      held := none, link := none, naks := r.naks + 1
      resend := some (s.clk + backoff (s.die (dieOf r.core)).backoff (r.naks + 1)) }) := by
  simp only [exec_calloArrival, execCalloArrival, h.clampAt_home hPlace hFree, hk, hObj, hWhole, hFull, Bool.false_eq_true, if_false, if_true]

theorem ClampActs.calloArrival_queued (hQueue : s.entriesOf o.id < o.capacity) (hDie : s.entriesIn o.die < 16384) :
    let c : Call := { id := s.fresh, obj := o.id, req := op, core := r.core, arrived := s.clk, time := (s.core r.core).ctime
                      args := (List.range 4).map fun i => args.getD i 0 }
    exec (.calloArrival op) s =
      .next (({ s with calls := s.calls ++ [c] } : State).modReq op fun r => { r with phase := .sent, held := none }).next := by
  have hRoom : ¬(o.capacity ≤ s.entriesOf o.id ∨ 16384 ≤ s.entriesIn o.die) := by omega
  simp only [exec_calloArrival, execCalloArrival, h.clampAt_home hPlace hFree, hk, hObj, hWhole, hRoom, Bool.false_eq_true, if_false]

end

end

/-! A request whose descriptor a peer homes: the peer's answer is drawn (log entry 89). -/

/-- The operation leaves for the peer, and the values of its answer are drawn. -/
def State.asksPeer (s : State) (b : Bundle) (k va : Nat) (args : List Word) : State :=
  ((List.range 5).foldl (fun u _ => u.drawn) s).send (s.partOf b) (.peer k (leBytes 8 va ++ args.flatMap fun w => leBytes 4 w.toNat))

section
variable {s : State} {op : Nat} {r : Req} {b : Bundle} {k va : Nat} (h : ClampActs s op r b) (hPlace : r.place = .peer k va)
include h hPlace

theorem ClampActs.objregAtHome_peer {x : Nat} (hk : r.kind = .object false x) :
    exec (.objregAtHome op) s =
      .next ((s.asksPeer b k va []).doneAt op 0 (0, 0) [BitVec.ofNat 32 (Config.pick s.draw % 5)]) := by
  simp only [exec_objregAtHome, execObjregAtHome, h.clampAt_peer hPlace, State.clampPeer, hk, State.id_of_req? h.found]
  rfl

theorem ClampActs.objrstAtHome_peer {x : Nat} (hk : r.kind = .object true x) :
    exec (.objrstAtHome op) s =
      .next ((s.asksPeer b k va []).doneAt op 0 (0, 0) [BitVec.ofNat 32 (Config.pick s.draw % 3)]) := by
  simp only [exec_objrstAtHome, execObjrstAtHome, h.clampAt_peer hPlace, State.clampPeer, hk, State.id_of_req? h.found]
  rfl

theorem ClampActs.calloArrival_peer {x : Nat} {args : List Word} (hk : r.kind = .call x args) :
    exec (.calloArrival op) s = .next (if Config.pick s.draw % 132 < 128
      then (s.asksPeer b k va args).replyTo op 0 (BitVec.ofNat 32 (Config.pick s.draw % 132))
        ((List.range 4).map fun i => BitVec.ofNat 32 (Config.pick (s.draw + (i + 1))))
      else (s.asksPeer b k va args).replyTo op 0 (BitVec.ofNat 32 (0x100 + Config.pick s.draw % 132 - 128)) []) := by
  simp only [exec_calloArrival, execCalloArrival, h.clampAt_peer hPlace, State.clampPeer, hk, State.id_of_req? h.found]
  rfl

end

/-! A combiner wave forms (R263, R264). -/

/-- The wave that an object's oldest calls make, before it has a bundle. -/
def State.waveOf (s : State) (o : Obj) : Wave :=
  let calls := (s.queuedCalls o.id).take 32
  { id := s.fresh, obj := o.id, bundle := 0, calls := calls
    blk := { id := s.fresh + 1, task := 0, core := 0, order := s.fresh, nthreads := calls.length, allot := 32, spadSize := 0
             streams := defaultStreams } }

/-- The state in which an object's wave has formed and has no bundle. -/
def State.formed (s : State) (o : Obj) : State :=
  { s with
    calls := s.calls.filter fun c => !((s.waveOf o).calls.any (·.id == c.id))
    waves := s.waves ++ [s.waveOf o]
    fresh := s.fresh + 2 }

theorem State.formWave_due {s : State} {o : Obj} (hDue : s.waveDue o = true) : s.formWave o = s.formed o := by
  simp only [State.formWave, hDue, Bool.not_true, Bool.false_eq_true, if_false]
  rfl

section
variable {s : State} {o : Obj}

/-- Where every other wave has its bundle, the new one alone waits for one. -/
theorem State.waitingWaves_formed (hOnly : s.objects = [o]) (hStarted : ∀ x ∈ s.waves, x.bundle ≠ 0) :
    (s.formed o).waitingWaves o.die = [s.waveOf o] := by
  have hOthers : s.waves.filter (fun w => w.unstarted && s.objects.any fun o' => o'.id == w.obj && o'.die == o.die) = [] := by
    rw [List.filter_eq_nil_iff]
    intro x hx
    simp [Wave.unstarted, hStarted x hx]
  have hNew : ((s.waveOf o).unstarted && s.objects.any fun o' => o'.id == (s.waveOf o).obj && o'.die == o.die) = true := by
    simp [State.waveOf, Wave.unstarted, hOnly]
  show (s.waves ++ [s.waveOf o]).filter _ = _
  rw [List.filter_append]
  simp [hOthers, hNew, State.formed]

/-- Only the last element of a list is changed, where it alone is meant. -/
theorem upd_append_last {α : Type} (l : List α) (x : α) (p : α → Bool) (f : α → α) (hOthers : ∀ y ∈ l, p y = false) (hx : p x = true) :
    upd (l ++ [x]) p f = l ++ [f x] := by
  have hKept : upd l p f = l :=
    (upd_congr l p f (fun y => y) fun y hy hp => absurd hp (by simp [hOthers y hy])).trans (upd_id l p)
  rw [upd, List.map_append, ← upd, hKept]
  simp [hx]

/-- The one wave that waits starts on the first combiner core with a free bundle. -/
theorem State.startWave_formed {core : Nat} (hOnly : s.objects = [o]) (hWaves : ∀ x ∈ s.waves, x.bundle ≠ 0 ∧ x.id ≠ s.fresh)
    (hCore : (s.die o.die).combinerCores.find? (fun c => decide ((s.bundles.filter fun b => b.core == c && b.isWave).length < 2)) = some core) :
    (s.formed o).startWave o = { s.raiseCtime core (s.waveTime o (s.waveOf o).calls) with
      calls := (s.formed o).calls
      waves := s.waves ++ [{ s.waveOf o with bundle := s.fresh + 2, blk := { (s.waveOf o).blk with core := core } }]
      bundles := s.bundles ++ [{ id := s.fresh + 2, owner := .wave s.fresh, index := 0, core := core, pipe := s.emptiestPipe core
                                 threads := (s.waveOf o).calls.map (waveThread o (s.waveOf o).calls.length s.clk) }]
      fresh := s.fresh + 3 } := by
  have hWaiting := State.waitingWaves_formed hOnly fun x hx => (hWaves x hx).1
  have hFirst : [s.waveOf o].find? (·.obj == o.id) = some (s.waveOf o) := by simp [State.waveOf]
  have hFree : ((s.formed o).die o.die).combinerCores.find?
      (fun c => decide (((s.formed o).bundles.filter fun b => b.core == c && b.isWave).length < 2)) = some core := hCore
  have hUpd : upd (s.formed o).waves (·.id == (s.waveOf o).id)
      (fun x => { x with bundle := (s.formed o).fresh, blk := { x.blk with core := core } }) =
      s.waves ++ [{ s.waveOf o with bundle := (s.formed o).fresh, blk := { (s.waveOf o).blk with core := core } }] :=
    upd_append_last _ _ _ _ (fun x hx => beq_eq_false_iff_ne.mpr (hWaves x hx).2) (by simp)
  simp only [State.startWave, hWaiting, hFirst, hFree, hUpd, List.all_cons, List.all_nil, Nat.le_refl, decide_true, Bool.and_true, Bool.not_true,
    Bool.false_eq_true, if_false]
  rfl

/-- An object that is alone and due: its wave forms, and then starts if it can. -/
theorem combinerWaveFormation_due (hOnly : s.objects = [o]) (hDue : s.waveDue o = true) :
    exec (.combinerWaveFormation o.id) s = .next ((s.formed o).startWave o) := by
  simp [exec_combinerWaveFormation, execCombinerWaveFormation, hOnly, State.formWave_due hDue]

end

/-! A wave ends, or aborts (R266, R269). -/

/-- The object's count of calls rises by those of the wave. -/
def State.countsCalls (s : State) (w : Wave) (o : Obj) : State :=
  s.descWrite (s.waveSeen w) o.desc 48 8 (leNat (readBytes s.mem (o.desc + 48) 8) + w.calls.length)

/-- The k-th call of a wave gets the reply of the wave's k-th thread, or NOREPLY where that has none. -/
def State.repliesCall (s : State) (w : Wave) (b : Bundle) (t k : Nat) : State :=
  match (b.threads.getD k {}).reply with
  | some x => s.replyTo ((w.calls.map (·.req)).getD k 0) t (BitVec.ofNat 32 x.1) x.2
  | none => s.replyTo ((w.calls.map (·.req)).getD k 0) t 0x100 []

/-- The fault record of an aborted wave: the lane and cause, the PC, and the status of a broken object. -/
def State.recordsFault (s : State) (w : Wave) (o : Obj) (lane : Nat) (tr : Trap) (pc : DWord) : State :=
  ((s.descWrite (s.waveSeen w) o.desc 36 4 (256 * lane + tr.cause)).descWrite (s.waveSeen w) o.desc 40 8 pc.toNat).descWrite
    (s.waveSeen w) o.desc 32 4 2

section
variable {s : State} {op : Nat} {w : Wave} {o : Obj} (hWave : s.waves.find? (·.id == op) = some w)
  (hObj : s.objects.find? (·.id == w.obj) = some o) (hQuiet : s.waveQuiet w = true) (hFree : s.lineHeld (o.desc / 64) (0, 64) true = false)
include hWave hObj hQuiet hFree

theorem combinerWaveEnd_quiet {b : Bundle} (hb : s.bundle? w.bundle = some b) (hNoAbort : w.abort = none)
    (hEnded : (b.threads.all fun t => t.life == .exited) = true) :
    exec (.combinerWaveEnd op) s = .next (((List.range w.calls.length).foldl
      (fun u k => u.repliesCall w b ((s.countsCalls w o).line (o.desc / 64)).wts k) (s.countsCalls w o)).dropWave w) := by
  simp only [exec_combinerWaveEnd, execCombinerWaveEnd, hWave, hb, hObj, hNoAbort, hEnded, hQuiet, hFree, Option.isSome_none, Bool.not_true,
    Bool.or_self, Bool.false_eq_true, if_false]
  rfl

theorem combinerWaveAbort_quiet {lane : Nat} {tr : Trap} {pc : DWord} (hAbort : w.abort = some (lane, tr, pc)) :
    let u := s.recordsFault w o lane tr pc
    let t := (u.line (o.desc / 64)).wts
    let v : State := { u with objects := upd u.objects (·.id == o.id) fun x => { x with broken := true } }
    exec (.combinerWaveAbort op) s =
      .next (((w.calls.foldl (fun u c => u.replyTo c.req t 0x101 []) v).replyQueued o.id t 0x102).dropWave w) := by
  simp only [exec_combinerWaveAbort, execCombinerWaveAbort, hWave, hAbort, hObj, hQuiet, hFree, Bool.not_true, Bool.or_self,
    Bool.false_eq_true, if_false]
  rfl

end

/-- Settles O54: where a request may act, its home's checks in their order give its answer; where a peer homes its descriptor, the answer is
drawn; the wave of an object that is alone starts at once, and a quiet one ends or aborts. -/
theorem objectEventsTakeEffect : Obligations.ObjectEventsTakeEffect := by
  intro op s
  refine ⟨?home, ?peer, ?forms, ?ends, ?aborts⟩
  case home =>
    intro r b pa hFound hb hPlace hReady hReleased hFree d ans
    have h : ClampActs s op r b := ⟨hFound, hb, hReady, hReleased⟩
    obtain rfl := State.id_of_req? hFound
    refine ⟨fun x hk => ?objreg, fun x hk => ?objrst, fun x args hk hNone => h.calloArrival_unregistered hPlace hFree hk hNone,
      fun x args o hk hObj hBroken => h.calloArrival_broken hPlace hFree hk hObj hBroken,
      fun x args o hk hObj hWhole hFull => h.calloArrival_full hPlace hFree hk hObj hWhole hFull,
      fun x args o hk hObj hWhole hQueue hDie => h.calloArrival_queued hPlace hFree hk hObj hWhole hQueue hDie⟩
    case objreg =>
      have ends {t : State} (ht : s.register r (s.partOf b) pa = some t) := h.objregAtHome_ends hPlace hFree hk ht
      refine ⟨fun hFields => ends (State.register_badFields hFields),
        fun hFields hTaken => ends (State.register_taken hFields hTaken), fun hFields hNew =>
          ⟨fun hFull => ends (State.register_dieFull hFields hNew hFull), fun hRoom => ⟨fun hLease => ?_,
            fun hLease => ends (State.register_unleased hFields hNew hRoom hLease),
            fun u xs hLease => ends (State.register_leased hFields hNew hRoom hLease)⟩⟩⟩
      exact h.objregAtHome_waits hPlace hFree hk (State.register_waits hFields hNew hRoom hLease)
    case objrst =>
      have resets {t : State} (ht : s.resetObject r (s.partOf b) pa = t) := h.objrstAtHome_eq hPlace hFree hk ht
      refine ⟨fun hNone => resets (State.resetObject_unregistered hNone), fun o hObj =>
        ⟨fun hWave => resets (State.resetObject_inWave hObj hWave),
          fun hIdle hFields => resets (State.resetObject_badFields hObj hIdle hFields),
          fun hIdle hFields hGoes => ?removal, fun hIdle hFields hStays => ?renewal⟩⟩
      case removal =>
        exact ⟨fun hRanges => resets (State.resetObject_removalWaits hObj hIdle hFields hGoes hRanges),
          fun hRanges => resets (State.resetObject_removalFails hObj hIdle hFields hGoes hRanges),
          fun u xs hRanges => resets (State.resetObject_removes hObj hIdle hFields hGoes hRanges)⟩
      case renewal =>
        exact ⟨fun hLease => resets (State.resetObject_renewalWaits hObj hIdle hFields hStays hLease),
          fun hLease => resets (State.resetObject_renewalFails hObj hIdle hFields hStays hLease),
          fun u xs hLease => resets (State.resetObject_renews hObj hIdle hFields hStays hLease)⟩
  case peer =>
    intro r b k va hFound hb hPlace hReady hReleased words sent
    have h : ClampActs s op r b := ⟨hFound, hb, hReady, hReleased⟩
    exact ⟨fun x hk => h.objregAtHome_peer hPlace hk, fun x hk => h.objrstAtHome_peer hPlace hk,
      fun x args hk => h.calloArrival_peer hPlace hk⟩
  case forms =>
    rintro o core hOnly rfl hDue hCore calls w blk new hWaves
    rw [combinerWaveFormation_due hOnly hDue, State.startWave_formed hOnly hWaves hCore]
    rfl
  case ends =>
    intro w b o hWave hb hObj hNoAbort hEnded hQuiet hFree u t
    exact combinerWaveEnd_quiet hWave hObj hQuiet hFree hb hNoAbort hEnded
  case aborts =>
    intro w o lane tr pc hWave hAbort hObj hQuiet hFree c u t v
    exact combinerWaveAbort_quiet hWave hObj hQuiet hFree hAbort

end Sys2Proof.Machine
end

section
/-! SUPPORT. The matrix unit's queues (R281, R283, R292, R294, R298, R305): the tile commands of a group ask for their tokens together, MRING sets
the core's ring, and PART joins the core's queue of drains. -/

namespace Sys2Proof.Machine

/-! MTILE and MSPT. -/

/-- The command of a lane's MTILE or MSPT; those of one group share an order (R298). -/
def State.tileCommand (s : State) (g : Group) (b : Bundle) (l : Nat) (sparse : Bool) (a : BitVec 7) (order : Nat) : Tile :=
  let t := s.thread b.id l
  let ws := t.vals a.toNat 8
  { id := s.fresh, block := ((s.blockOf b).map (·.id)).getD 0, bundle := b.id, lane := l, core := b.core, pc := g.start
    sparse := sparse, words := ws
    descA := (t.val (tileReg ws false), t.val (tileReg ws false + 1))
    descB := (t.val (tileReg ws true), t.val (tileReg ws true + 1))
    cost := tileCost ws, order := order, threshold := ((s.blockOf b).map (·.carvth)).getD 40
    pa := ((s.globalPlace b 0 (tileIdentity ws)).txAddr).getD 0 }

/-- The state after one lane's MTILE or MSPT: its command asks the die for tokens and holds the lane. -/
def State.asksTokens (s : State) (g : Group) (b : Bundle) (l : Nat) (sparse : Bool) (a : BitVec 7) (order : Nat) : State :=
  let x := s.tileCommand g b l sparse a order
  let v := s.modDie (dieOf b.core) fun d => { d with tokenQueue := d.tokenQueue ++ [x.id] }
  ({ (v.modThread b.id l fun t => { t with mid := some (.tile x.id) }) with tiles := v.tiles ++ [x] } : State).next

/-- A tile command acts lane by lane, its lanes sharing an entry. -/
theorem runTile_eq_runEntry (i : Instr) (sparse : Bool) (a : BitVec 7) (s : State) :
    runTile i sparse a s = runEntry i (tileChecks sparse a) (fun order u g b l => (u.asksTokens g b l sparse a order, .stay)) s := by rfl

/-- The checks read a lane through its thread alone. -/
theorem quiet_tileChecks {s : State} {g : Group} {b : Bundle} {sparse : Bool} {a : BitVec 7}
    (h : EachActive g b fun t => tileChecks sparse a s.taken g b 0 t = []) : Quiet (tileChecks sparse a) s g b := h

/-- The commands of a group share the order that the state names next. -/
theorem completes_tile {i : Instr} {sparse : Bool} {a : BitVec 7} (hi : ∀ s, exec i s = runTile i sparse a s) :
    Completes i (fun s g b => EachActive g b fun t => tileChecks sparse a s g b 0 t = [])
      (fun s g b => s.next.eachLane g fun u l => u.asksTokens g b l sparse a s.fresh) .stay := by
  intro s g b h hSound
  rw [hi, runTile_eq_runEntry]
  exact runEntry_ends (fun _ _ => True) h (quiet_tileChecks hSound) trivial fun _ _ _ _ _ => ⟨rfl, trivial⟩

/-! MRING. -/

/-- A ring held by block k, its slots of a size and all free (R281). -/
def Core.setRing (c : Core) (k : Nat) (z : BitVec 2) : Core :=
  { c with ringHolder := some k, slotCode := z.toNat, slots := List.replicate (8 / 2 ^ z.toNat) none, head := 0 }

theorem completes_mring (z : BitVec 2) (k : Nat) :
    Completes (.mring z) (fun _ g b => g.acting ≠ [] ∧ b.owner = .block k) (fun s _ b => s.modCore b.core (·.setRing k z)) .next := by
  rintro s g b h ⟨hActing, hOwner⟩
  obtain ⟨l, ls, hLanes⟩ := List.exists_cons_of_ne_nil hActing
  show execMring z s = _
  rw [execMring]
  refine runWith_ends h (quiet_noCheck s g b) ?_ fun n _ => ?_
  · simp only [hLanes, hOwner, Core.setRing]
  · simp only [hLanes, hOwner, endOf, List.lookup_nil, Option.getD_none, ite_self]

/-! PART. -/

/-- The drains queued on a core. -/
def State.partsOn (s : State) (core : Nat) : Nat := (s.parts.filter (·.core == core)).length

/-- The drain of a lane's PART, of slot i with its shape (R292). -/
def State.partCommand (s : State) (g : Group) (b : Bundle) (l : Nat) (a : BitVec 7) (i : Nat) (shape : Nat × Nat × Nat) : PartCmd :=
  { id := s.fresh, block := (b.owner.block?).getD 0, bundle := b.id, lane := l, core := b.core, pc := g.start
    words := (s.thread b.id l).vals a.toNat 8, slot := i, order := s.fresh, shape := shape }

/-- The state after one lane's PART. -/
def State.joinParts (s : State) (g : Group) (b : Bundle) (l : Nat) (a : BitVec 7) : State :=
  match s.partShape b ((s.thread b.id l).vals a.toNat 8) with
  | none => s
  | some (i, rows, n, acc) => ({ s with parts := s.parts ++ [s.partCommand g b l a i (rows, n, acc)] } : State).next

theorem State.partsOn_joinParts_le (s : State) (g : Group) (b : Bundle) (l : Nat) (a : BitVec 7) (core : Nat) :
    (s.joinParts g b l a).partsOn core ≤ s.partsOn core + 1 := by
  rw [State.joinParts]
  split
  case h_1 => exact Nat.le_succ _
  case h_2 i rows n acc _ =>
    simp only [State.partsOn, State.next_parts, List.filter_append, List.length_append]
    exact Nat.add_le_add_left (List.length_filter_le _ [s.partCommand g b l a i (rows, n, acc)]) _

theorem quiet_partChecks {s : State} {g : Group} {b : Bundle} {a : BitVec 7}
    (h : EachActive g b fun t => partChecks a s.taken g b 0 t = []) : Quiet (partChecks a) s g b := h

/-- PART, lane by lane: a full queue holds the lane (R294). -/
theorem exec_part (a : BitVec 7) (s : State) : exec (.part a) s = runLanes (.part a) (partChecks a) (fun u g b l =>
    if 16 ≤ u.partsOn b.core then (u, .stay) else (u.joinParts g b l a, .next)) s := by
  show execPart a s = _
  rw [execPart]
  congr 1
  funext u g b l
  by_cases hFull : 16 ≤ u.partsOn b.core
  · exact (if_pos hFull).trans (if_pos hFull).symm
  · refine (if_neg hFull).trans (Eq.trans ?_ (if_neg hFull).symm)
    rw [State.joinParts]
    cases u.partShape b ((u.thread b.id l).vals a.toNat 8) <;> rfl

theorem completes_part (a : BitVec 7) :
    Completes (.part a) (fun s g b => s.partsOn b.core + g.acting.length ≤ 16 ∧ EachActive g b fun t => partChecks a s g b 0 t = [])
      (fun s g b => s.eachLane g fun u l => u.joinParts g b l a) .next := by
  rintro s g b h ⟨hRoom, hSound⟩
  rw [exec_part]
  refine runLanes_ends (fun ls u => u.partsOn b.core + ls.length ≤ 16) h (quiet_partChecks hSound) hRoom fun u l ls _ hu => ?_
  rw [List.length_cons] at hu
  refine ⟨if_neg (by omega), ?_⟩
  have hLe := u.partsOn_joinParts_le g b l a b.core
  omega

/-- Settles O46: the lanes of a tile command ask in turn under one order, and the queue of drains has room for the lanes still to come after
each one. -/
theorem tileCommandsAreQueued : Obligations.TileCommandsAreQueued := by
  intro z a tile
  exact ⟨completes_tile fun _ => rfl, completes_tile fun _ => rfl, completes_mring z, completes_part a⟩

end Sys2Proof.Machine
end

section
/-! SUPPORT. MTOK (R299) in deterministic mode: what it reads are the tokens of the pool in force in its own partition since the last input
boundary, which a new power cap leaves as it is until the next one (R425, R433). -/

namespace Sys2Proof.Machine

/-- The word MTOK returns of a pool and its free tokens (R299). -/
def tokenWord (pool : Nat) (free : Int) : Word := BitVec.ofNat 32 (pool % 65536 * 65536 + (free % 65536).toNat)

/-- MTOK writes each lane the pool in force in its partition, and the tokens free of it. -/
theorem completes_mtok (d : BitVec 7) : Completes (.mtok d) (fun _ _ _ => True) (fun s g b => s.eachLane g fun u l =>
    u.modThread b.id l fun t => t.write d.toNat
      (tokenWord (u.poolFor (u.partOf b) (dieOf b.core)) (u.freeFor (u.partOf b) (dieOf b.core)))) .next := by
  intro s g b h _
  show execMtok d s = _
  rw [execMtok]
  exact runLanes_always h (quiet_noCheck s g b) fun _ _ => rfl

/-- Partition 0 is deterministic, and P has risen from 1280 to 2560 since its last boundary; lane 0's command holds 512 tokens of die 0, and
lane 1 of its bundle is at an instruction. -/
def mtokState : State :=
  { tokenState with
    group := some enqueueGroup
    dies := tokenState.dies.set 0 { pool := 2560, free := 2048 }
    tiles := [runningTile] }

theorem meets_mtok : Meets mtokState enqueueGroup enqueueBundle (.mtok 1) where
  group := rfl
  bundle := rfl
  unique x hx _ := List.mem_singleton.mp hx
  legal := by decide
  privileged := rfl
  distinct := by decide
  runs l hl := by
    obtain rfl : l = 1 := List.mem_singleton.mp hl
    exact ⟨enqueueThread, rfl, fun _ => { noWait := by decide, allowed := .inl rfl, sources := by decide }⟩

/-- Lane 1 reads the pool of the last boundary. -/
theorem mtok_mtokState : ∃ u, exec (.mtok 1) mtokState = .next u ∧ (u.thread 3 1).val 1 = tokenWord 1280 768 :=
  ⟨_, completes_mtok 1 _ _ _ meets_mtok trivial, by decide⟩

/-- Refutes O47: its clause for MTOK returns the die's own pool and free tokens, where a lane of a deterministic partition reads those of the
pool in force since its last boundary. In mtokState the die has a pool of 2560 with 2048 free and the partition one of 1280 with 768 free:
lane 1 reads the second, where the statement gives it the first. -/
theorem not_monitorsAreSetAndRead : ¬ Obligations.MonitorsAreSetAndRead := by
  intro h
  obtain ⟨_, _, _, _, _, hMtok⟩ := h 0 0 0 1
  obtain ⟨u, hu, hStated⟩ : ∃ u, exec (.mtok 1) mtokState = .next u ∧ (u.thread 3 1).val 1 = tokenWord 2560 2048 :=
    ⟨_, hMtok _ _ _ meets_mtok trivial, by decide⟩
  obtain ⟨v, hv, hRead⟩ := mtok_mtokState
  obtain rfl := Host.Outcome.next.inj (hu.symm.trans hv)
  exact absurd (hStated.symm.trans hRead) (by decide)

end Sys2Proof.Machine
end

section
/-! SUPPORT. Threads that end, stop or park (R321 to R325, R330, R333), and the instructions that make them do so: TRAPI, BRK, HALT, RETT, KILL,
KILLB, OREG, OWR and OPC. -/

namespace Sys2Proof.Machine

/-! Loops over lanes. -/

/-- What each pass of a loop brings about, and every later pass keeps, holds after it of all that the loop goes over. -/
theorem foldl_attains {α : Type} {f : State → α → State} (P : α → State → Prop) (hMakes : ∀ s x, P x (f s x))
    (hKeeps : ∀ s x y, P x s → P x (f s y)) (xs : List α) (s : State) : ∀ x ∈ xs, P x (xs.foldl f s) := by
  induction xs generalizing s with
  | nil => nofun
  | cons y ys ih =>
    intro x hx
    rcases List.mem_cons.mp hx with rfl | hx
    · exact List.foldlRecOn (motive := P x) ys f (hMakes s x) fun u hu z _ => hKeeps u x z hu
    · exact ih _ x hx

/-- What each pass of a loop keeps holds after it. -/
theorem foldl_preserves {α : Type} {f : State → α → State} {P : State → Prop} (hKeeps : ∀ s x, P s → P (f s x)) {s : State} (h : P s)
    (xs : List α) : P (xs.foldl f s) :=
  List.foldlRecOn (motive := P) xs f h fun u hu x _ => hKeeps u x hu

/-! Bundles and threads under a change of one of them. -/

/-- A bundle after a change of the bundles of a name. -/
theorem State.bundle?_modBundle_ite (s : State) (b j : Nat) {f : Bundle → Bundle} (hf : ∀ x, (f x).id = x.id) :
    (s.modBundle b f).bundle? j = (s.bundle? j).map fun x => if x.id == b then f x else x := by
  have hName : ((fun x : Bundle => x.id == j) ∘ fun x => if x.id == b then f x else x) = fun x => x.id == j := by
    funext x
    rw [Function.comp_apply]
    split
    · rw [hf]
    · rfl
  simp only [State.modBundle, State.bundle?, upd, List.find?_map, hName]

theorem State.bundle?_id {s : State} {j : Nat} {x : Bundle} (h : s.bundle? j = some x) : x.id = j := by
  simpa using List.find?_some h

/-- Where a change of a bundle leaves a lane's thread alone, it is as it was. -/
theorem State.thread?_modBundle_of {s : State} {b i j : Nat} {f : Bundle → Bundle} (hf : ∀ x, (f x).id = x.id)
    (h : i = b → ∀ x, (f x).threads[j]? = x.threads[j]?) : (s.modBundle b f).thread? i j = s.thread? i j := by
  simp only [State.thread?, State.bundle?_modBundle_ite s b i hf]
  cases hx : s.bundle? i with
  | none => rfl
  | some x =>
    simp only [Option.map_some, Option.bind_some]
    by_cases hb : i = b
    · simp [State.bundle?_id hx, hb, h hb]
    · simp [State.bundle?_id hx, hb]

theorem State.thread?_modThread_ne {s : State} {b l i j : Nat} (h : (i, j) ≠ (b, l)) (f : Thread → Thread) :
    (s.modThread b l f).thread? i j = s.thread? i j := by
  refine State.thread?_modBundle_of (fun _ => rfl) fun hb x => ?_
  have hl : l ≠ j := fun hEq => h (by rw [hb, hEq])
  simp [hl]

theorem State.thread_of_thread? {s : State} {b l : Nat} {t : Thread} (h : s.thread? b l = some t) : s.thread b l = t := by
  simp only [State.thread, h, Option.getD_some]

theorem State.thread?_of_bundle {s : State} {b l : Nat} {x : Bundle} (h : s.bundle? b = some x) : s.thread? b l = x.threads[l]? := by
  simp only [State.thread?, h, Option.bind_some]

/-! Threads that end (R73, R321). -/

/-- A thread without a transaction that has ended. -/
def Thread.over (t : Thread) : Prop := t.life = .exited ∧ t.tx = none

/-- A bundle of which a lane has ended. -/
def Bundle.exitLane (x : Bundle) (l : Nat) : Bundle :=
  { x.undoCollective l with threads := (x.undoCollective l).threads.modify l fun t =>
      { t with life := .exited, tx := none, mid := none, yield := none, conv := none } }

theorem State.exitLane_bundles (s : State) (b l : Nat) : (s.exitLane b l).bundles = upd s.bundles (·.id == b) (·.exitLane l) :=
  upd_upd _ _ _ _ fun _ hx => hx

theorem State.bundle?_exitLane (s : State) (b l i : Nat) :
    (s.exitLane b l).bundle? i = (s.bundle? i).map fun x => if x.id == b then x.exitLane l else x := by
  have hBundles : (s.exitLane b l).bundles = (s.modBundle b (·.exitLane l)).bundles := s.exitLane_bundles b l
  rw [← State.bundle?_modBundle_ite s b i (f := (·.exitLane l)) fun _ => rfl]
  simp only [State.bundle?, hBundles]

theorem Bundle.exitLane_threads_other (x : Bundle) {l j : Nat} (h : l ≠ j) : (x.exitLane l).threads[j]? = x.threads[j]? := by
  simp [Bundle.exitLane, Bundle.undoCollective, h]

theorem Bundle.exitLane_over {x : Bundle} {l : Nat} {t : Thread} (h : (x.exitLane l).threads[l]? = some t) : t.over := by
  simp only [Bundle.exitLane, List.getElem?_modify, if_true, Option.map_eq_map, Option.map_eq_some_iff] at h
  obtain ⟨u, -, rfl⟩ := h
  exact ⟨rfl, rfl⟩

theorem Bundle.exitLane_length (x : Bundle) (l : Nat) : (x.exitLane l).threads.length = x.threads.length := by
  simp [Bundle.exitLane, Bundle.undoCollective]

theorem State.thread?_exitLane_other {s : State} {b l i j : Nat} (h : (i, j) ≠ (b, l)) : (s.exitLane b l).thread? i j = s.thread? i j := by
  have hBundles : (s.exitLane b l).bundles = (s.modBundle b (·.exitLane l)).bundles := s.exitLane_bundles b l
  have hThread : (s.exitLane b l).thread? i j = (s.modBundle b (·.exitLane l)).thread? i j := by
    simp only [State.thread?, State.bundle?, hBundles]
  rw [hThread]
  refine State.thread?_modBundle_of (fun _ => rfl) fun hb x => ?_
  exact x.exitLane_threads_other fun hEq => h (by rw [hb, hEq])

/-- A lane that exists is over once it has ended, whatever has ended before it. -/
theorem State.over_exitLane {s : State} {b l : Nat} {x : Bundle} (hx : s.bundle? b = some x) (hl : l < x.threads.length) :
    ((s.exitLane b l).thread b l).over := by
  have hFind := s.bundle?_exitLane b l b
  simp only [hx, Option.map_some, State.bundle?_id hx, beq_self_eq_true, if_true] at hFind
  obtain ⟨t, ht⟩ : ∃ t, (x.exitLane l).threads[l]? = some t := ⟨_, List.getElem?_eq_getElem (by rw [x.exitLane_length]; exact hl)⟩
  rw [State.thread_of_thread? ((State.thread?_of_bundle hFind).trans ht)]
  exact Bundle.exitLane_over ht

/-- Every bundle of a name has lost a lane. -/
def State.laneOver (s : State) (b l : Nat) : Prop := ∀ x ∈ s.bundles, x.id = b → ∀ t, x.threads[l]? = some t → t.over

theorem State.laneOver_exitLane (s : State) (b l : Nat) : (s.exitLane b l).laneOver b l := by
  intro x hx hb t ht
  rw [s.exitLane_bundles] at hx
  obtain ⟨y, -, rfl⟩ := List.mem_map.mp hx
  by_cases hy : y.id = b
  · rw [if_pos (by simpa using hy)] at ht
    exact Bundle.exitLane_over ht
  · rw [if_neg (by simpa using hy)] at hb
    exact absurd hb hy

theorem State.laneOver_exitLane_of {s : State} {b l : Nat} (h : s.laneOver b l) (c m : Nat) : (s.exitLane c m).laneOver b l := by
  intro x hx hb t ht
  rw [s.exitLane_bundles] at hx
  obtain ⟨y, hy, rfl⟩ := List.mem_map.mp hx
  by_cases hc : y.id = c
  · rw [if_pos (by simpa using hc)] at hb ht
    by_cases hm : m = l
    · subst hm
      exact Bundle.exitLane_over ht
    · rw [y.exitLane_threads_other hm] at ht
      exact h y hy hb t ht
  · rw [if_neg (by simpa using hc)] at hb ht
    exact h y hy hb t ht

/-- What the end of every single lane keeps, the end of a block's threads keeps. -/
theorem State.exitBlock_preserves {P : State → Prop} (hKeeps : ∀ u b l, P u → P (u.exitLane b l)) {s : State} (h : P s) (k : Nat) :
    P (s.exitBlock k) :=
  foldl_preserves (P := P) (f := State.exitBundle) (fun _ b hu => foldl_preserves (fun v l hv => hKeeps v b.id l hv) hu _) h _

/-- Every lane of every bundle of a block ends with it. -/
theorem State.laneOver_exitBlock {s : State} {k l : Nat} {b : Bundle} (hb : b ∈ s.bundles) (hk : b.owner.block? = some k)
    (hl : l < b.threads.length) : (s.exitBlock k).laneOver b.id l := by
  have hLanes := foldl_attains (f := State.exitBundle) (fun (b : Bundle) u => ∀ l < b.threads.length, u.laneOver b.id l)
    (fun u b l hl => foldl_attains (fun l v => v.laneOver b.id l) (fun v l => v.laneOver_exitLane b.id l)
      (fun v l m hv => State.laneOver_exitLane_of hv b.id m) _ u l (List.mem_range.mpr hl))
    (fun u b c hu l hl => foldl_preserves (P := fun v => v.laneOver b.id l) (fun v m hv => State.laneOver_exitLane_of hv c.id m) (hu l hl) _)
    (s.bundles.filter fun b => b.owner.block? == some k) s b (List.mem_filter.mpr ⟨hb, by simpa using hk⟩)
  exact hLanes l hl

/-- The names, owners and sizes of the bundles. -/
def State.shapes (s : State) : List (Nat × Owner × Nat) := s.bundles.map fun b => (b.id, b.owner, b.threads.length)

theorem State.shapes_exitLane (s : State) (b l : Nat) : (s.exitLane b l).shapes = s.shapes := by
  rw [State.shapes, s.exitLane_bundles, upd, List.map_map]
  refine List.map_congr_left fun x _ => ?_
  rw [Function.comp_apply]
  split
  · rw [x.exitLane_length]
    rfl
  · rfl

theorem State.shapes_exitBlock (s : State) (k : Nat) : (s.exitBlock k).shapes = s.shapes :=
  State.exitBlock_preserves (P := fun u => u.shapes = s.shapes) (fun u b l hu => (u.shapes_exitLane b l).trans hu) rfl k

/-- After the end of a block's threads, every thread of its bundles is over. -/
theorem State.over_exitBlock {s : State} {k : Nat} {b : Bundle} (hb : b ∈ (s.exitBlock k).bundles) (hk : b.owner.block? = some k) {t : Thread}
    (ht : t ∈ b.threads) : t.over := by
  have hShape : (b.id, b.owner, b.threads.length) ∈ s.shapes := by
    rw [← s.shapes_exitBlock k]
    exact List.mem_map.mpr ⟨b, hb, rfl⟩
  obtain ⟨x, hx, hEq⟩ := List.mem_map.mp hShape
  obtain ⟨hId, hOwner, hLength⟩ : x.id = b.id ∧ x.owner = b.owner ∧ x.threads.length = b.threads.length := by simpa using hEq
  obtain ⟨l, hl, rfl⟩ := List.getElem_of_mem ht
  exact State.laneOver_exitBlock hx (by rw [hOwner, hk]) (hLength ▸ hl) b hb hId.symm _ (List.getElem?_eq_getElem hl)

/-- A store outside a transaction outlives its thread. -/
theorem State.mem_reqs_exitLane {s : State} {r : Req} (hTx : r.tx = false) (hPhase : r.phase ≠ .waiting)
    (hStore : ∃ bs rel, r.kind = .store bs rel) (h : r ∈ s.reqs) (b l : Nat) : r ∈ (s.exitLane b l).reqs := by
  obtain ⟨bs, rel, hKind⟩ := hStore
  exact List.mem_filter.mpr ⟨h, by simp [hTx, hPhase, hKind]⟩

/-- A running block whose task is to park: its threads are over, and the cause stands with it. -/
theorem State.blockEnds_endBlock {s : State} {k : Nat} {y : Block} (hy : s.block? k = some y) (hRuns : y.ending = .running) (tr : Trap)
    (opc : DWord) (i l : Nat) : BlockEnds s (s.endBlock k tr opc i l) k tr opc i l where
  ended := fun _ hb hk _ ht => State.over_exitBlock hb hk ht
  parks := by
    have hBlocks : (s.exitBlock k).blocks = s.blocks := State.exitBlock_preserves (P := fun u => u.blocks = s.blocks) (fun _ _ _ hu => hu) rfl k
    have hFind : (s.exitBlock k).block? k = some y := by rw [State.block?, hBlocks]; exact hy
    have hName : y.id = k := by simpa using List.find?_some hy
    rw [State.endBlock, State.block?_modBlock, hFind]
    · simp [hName, hRuns]
    · intro _
      rfl
  memory := s.endBlock_mem k tr opc i l
  tasks := State.exitBlock_preserves (P := fun u => u.tasks = s.tasks) (fun _ _ _ hu => hu) rfl k
  partitions := State.exitBlock_preserves (P := fun u => u.partitions = s.partitions) (fun _ _ _ hu => hu) rfl k
  stores := fun _ hr hTx hPhase hStore =>
    State.exitBlock_preserves (P := fun u => _ ∈ u.reqs) (fun _ b l hu => State.mem_reqs_exitLane hTx hPhase hStore hu b l) hr k

/-! TRAPI, BRK and HALT (R331, R333). -/

/-- An instruction that does nothing but raise a cause in its lanes. -/
theorem completes_trap {i : Instr} {tr : Trap} (hi : ∀ s, exec i s = runLanes i noCheck (fun s _ _ _ => (s, .trap tr)) s) :
    Completes i (fun _ _ _ => True) (fun s _ _ => s) (.trap tr) := by
  intro s g b h _
  rw [hi, runLanes_always (E := fun u _ => u) h (quiet_noCheck s g b) fun _ _ => rfl, State.eachLane_id]

/-- HALT halts the block of a group that acts, and each lane completes, but for one whose transaction the halt aborts. -/
theorem exec_halt_of_block {s : State} {g : Group} {b : Bundle} {k : Nat} (h : Meets s g b .halt) (hActs : g.acting ≠ [])
    (hk : b.owner.block? = some k) :
    exec .halt s = .next ((s.taken.haltBlock k).endsWith g fun l => if (s.taken.thread b.id l).tx.isSome then .gone else .next) := by
  obtain ⟨l, ls, hLanes⟩ : ∃ l ls, g.acting = l :: ls := List.exists_cons_of_ne_nil hActs
  have hLanes' : g.lanes.filter (· ∈ g.active) = l :: ls := hLanes
  show execHalt s = _
  rw [execHalt, runWith_meets _ h (quiet_noCheck s g b)]
  simp only [hLanes', hk]
  congr 1
  rw [State.endsWith, State.endsWith]
  congr 1
  exact foldl_congr_mem _ _ _ (fun acc m hm => by rw [endOf, lookup_map, if_pos hm, Option.getD_some]) _

/-- Settles O29: TRAPI and BRK have no effect but their cause, and HALT's is that of exec_halt_of_block. -/
theorem softwareTrapsAndHalt : Obligations.SoftwareTrapsAndHalt :=
  fun _ => ⟨completes_trap fun _ => rfl, completes_trap fun _ => rfl, fun _ _ _ _ h hActs hk => exec_halt_of_block h hActs hk⟩

/-! Handler threads (R329, R330). -/

/-- KILL of a handler lane whose origin has not exited ends both, and leaves every other thread, memory and the blocks as they were. -/
theorem State.kill_of_origin {s : State} {bid l : Nat} {o : Origin} {t v : Thread} (ht : s.thread? bid l = some t) (ho : t.origin = some o)
    (hHere : o.exited = false) (hv : s.thread? o.bundle o.lane = some v) :
    ((s.kill bid l).thread bid l).over ∧ ((s.kill bid l).thread o.bundle o.lane).over ∧
      ∀ i j, (i, j) ≠ (bid, l) → (i, j) ≠ (o.bundle, o.lane) → (s.kill bid l).thread i j = s.thread i j := by
  have hKill : s.kill bid l = (s.exitLane o.bundle o.lane).exitLane bid l := by
    simp [State.kill, State.killOrigin, State.thread_of_thread? ht, ho, hHere]
  have hSize {u : State} {i j : Nat} {w : Thread} (hw : u.thread? i j = some w) : ∃ x, u.bundle? i = some x ∧ j < x.threads.length := by
    obtain ⟨x, hx, hj⟩ := Option.bind_eq_some_iff.mp hw
    exact ⟨x, hx, (List.getElem?_eq_some_iff.mp hj).1⟩
  have hSelf : ((s.kill bid l).thread bid l).over := by
    obtain ⟨x, hx, hl⟩ := hSize ht
    have hFind := s.bundle?_exitLane o.bundle o.lane bid
    rw [hx, Option.map_some] at hFind
    rw [hKill]
    refine State.over_exitLane hFind ?_
    split
    · rw [x.exitLane_length]
      exact hl
    · exact hl
  refine ⟨hSelf, ?_, fun i j hi hj => ?_⟩
  · by_cases hSame : (o.bundle, o.lane) = (bid, l)
    · obtain ⟨hb, hl⟩ : o.bundle = bid ∧ o.lane = l := by simpa using hSame
      rw [hb, hl]
      exact hSelf
    · obtain ⟨x, hx, hl⟩ := hSize hv
      rw [hKill, State.thread, State.thread?_exitLane_other hSame]
      exact State.over_exitLane hx hl
  · rw [hKill, State.thread, State.thread?_exitLane_other hi, State.thread?_exitLane_other hj]
    rfl

theorem State.killOrigin_blocks (s : State) (o : Origin) : (s.killOrigin o).blocks = s.blocks := by
  rw [State.killOrigin]
  split <;> rfl

theorem State.kill_blocks (s : State) (b l : Nat) : (s.kill b l).blocks = s.blocks := by
  rw [State.kill]
  split
  · exact s.killOrigin_blocks _
  · rfl

/-- An odd resume PC in no active lane. -/
theorem quiet_oddResume {d : BitVec 7} {s : State} {g : Group} {b : Bundle} (h : EachActive g b fun t => (t.pair d.toNat).toNat % 2 = 0) :
    Quiet (oddResume d) s g b := by
  intro l hl ha t ht
  have hEven : ¬ (t.pair d.toNat).toNat % 2 = 1 := by rw [h l hl ha t ht]; decide
  rw [oddResume, if_neg hEven]

/-- Settles O31: what each instruction does in a lane depends on the lane's origin alone; KILLB's ending and KILL's frame are
State.blockEnds_endBlock and State.kill_of_origin. -/
theorem handlersActOnTheirOrigin : Obligations.HandlersActOnTheirOrigin := by
  intro n d origin
  refine ⟨?rett, ?kill, ?killb, fun s k tr opc i l y hy hRuns => s.blockEnds_endBlock hy hRuns tr opc i l, ?killed, ?oreg, ?owr, ?opc⟩
  case rett =>
    intro s g b h _
    show execRett s = _
    rw [execRett]
    exact runLanes_always h (quiet_noCheck s g b) fun u l => by
      simp only [origin]
      split <;> rfl
  case kill =>
    intro s g b h _
    show execKill s = _
    rw [execKill]
    exact runLanes_always h (quiet_noCheck s g b) fun _ _ => rfl
  case killb =>
    intro s g b h _
    show execKillb s = _
    rw [execKillb]
    exact runLanes_always h (quiet_noCheck s g b) fun u l => by split <;> rfl
  case killed =>
    intro s bid l o t v ht ho hHere hv
    obtain ⟨hSelf, hOrigin, hOthers⟩ := State.kill_of_origin ht ho hHere hv
    exact ⟨hSelf.1, hOrigin.1, hOrigin.2, s.kill_mem bid l, s.kill_blocks bid l, hOthers⟩
  case oreg =>
    intro s g b h _
    show execOreg n d s = _
    rw [execOreg]
    exact runLanes_always h (quiet_noCheck s g b) fun _ _ => rfl
  case owr =>
    intro s g b h _
    show execOwr n d s = _
    rw [execOwr]
    exact runLanes_always h (quiet_noCheck s g b) fun u l => by
      simp only [origin]
      split <;> rfl
  case opc =>
    intro s g b h hEven
    show execOpc d s = _
    rw [execOpc]
    exact runLanes_always h (quiet_oddResume hEven) fun u l => by
      simp only [origin]
      split <;> rfl

/-! Blocks that halt (R333). -/

theorem Thread.unarrive_tx (t : Thread) : t.unarrive.tx = t.tx := by
  rw [Thread.unarrive]
  split
  · rfl
  · next c _ => exact List.foldlRecOn (motive := fun u : Thread => u.tx = t.tx) c.saved _ rfl fun u hu x _ => (u.write_tx x.1 x.2).trans hu

theorem Thread.unarrive_conv (t : Thread) : t.unarrive.conv = none := by
  rw [Thread.unarrive]
  split
  · assumption
  · rfl

theorem Thread.unarrive_of_none {t : Thread} (h : t.conv = none) : t.unarrive = t := by rw [Thread.unarrive, h]

/-- What the stop of a block does in one lane before its threads stand at their boundary. -/
def State.stopLane (s : State) (b l : Nat) : State := (s.abortTx b l 0x00060000#32).releaseTurn b l

/-- A lane without an open transaction aborts none. -/
theorem State.stopLane_of_closed {s : State} {b l : Nat} (h : (s.thread b l).tx = none) : s.stopLane b l = s.releaseTurn b l := by
  rw [State.stopLane, State.abortTx, h]

/-- A lane with an open transaction is left without one, and no other thread changes. -/
theorem State.stopLane_of_open {s : State} {b l : Nat} {x : Tx} (h : (s.thread b l).tx = some x) :
    ∃ f : Thread → Thread, (∀ t, (f t).tx = none) ∧ (s.stopLane b l).bundles = (s.modThread b l f).bundles := by
  refine ⟨?_, ?closes, ?bundles⟩
  case bundles =>
    rw [State.stopLane, State.abortTx, h]
    rfl
  case closes => exact fun _ => rfl

theorem State.thread?_of_bundles {s t : State} (h : t.bundles = s.bundles) (b l : Nat) : t.thread? b l = s.thread? b l := by
  simp only [State.thread?, State.bundle?, h]

/-- A lane has no open transaction. -/
def State.closed (s : State) (b l : Nat) : Prop := ∀ t, s.thread? b l = some t → t.tx = none

theorem State.closed_stopLane (s : State) (b l : Nat) : (s.stopLane b l).closed b l := by
  intro t ht
  cases hTx : (s.thread b l).tx with
  | none =>
    rw [State.stopLane_of_closed hTx] at ht
    rwa [State.thread_of_thread? (show s.thread? b l = some t from ht)] at hTx
  | some x =>
    obtain ⟨f, hf, hBundles⟩ := State.stopLane_of_open hTx
    rw [State.thread?_of_bundles hBundles, State.thread?_modThread] at ht
    obtain ⟨u, -, rfl⟩ := Option.map_eq_some_iff.mp ht
    rw [if_pos rfl]
    exact hf u

/-- A thread without an open transaction is as it was after the stop of any lane. -/
theorem State.thread?_stopLane_of_closed {s : State} {b l : Nat} (h : s.closed b l) (c m : Nat) :
    (s.stopLane c m).thread? b l = s.thread? b l := by
  cases hTx : (s.thread c m).tx with
  | none => rw [State.stopLane_of_closed hTx]; rfl
  | some x =>
    obtain ⟨f, -, hBundles⟩ := State.stopLane_of_open hTx
    have hOther : (b, l) ≠ (c, m) := by
      intro hEq
      obtain ⟨rfl, rfl⟩ : b = c ∧ l = m := by simpa using hEq
      cases ht : s.thread? b l with
      | none => simp [State.thread, ht] at hTx
      | some t =>
        rw [State.thread_of_thread? ht, h t ht] at hTx
        cases hTx
    rw [State.thread?_of_bundles hBundles, State.thread?_modThread_ne hOther]

theorem State.closed_stopLane_of {s : State} {b l : Nat} (h : s.closed b l) (c m : Nat) : (s.stopLane c m).closed b l := by
  intro t ht
  rw [State.thread?_stopLane_of_closed h] at ht
  exact h t ht

/-- Every lane of a block's bundles stops. -/
def State.stopLanes (s : State) (k : Nat) : State :=
  (s.bundles.filter fun b => b.owner.block? == some k).foldl (fun s b => (List.range b.threads.length).foldl (fun s l => s.stopLane b.id l) s) s

/-- What the stop of every single lane keeps, the stop of a block's lanes keeps. -/
theorem State.stopLanes_preserves {P : State → Prop} (hKeeps : ∀ u b l, P u → P (u.stopLane b l)) {s : State} (h : P s) (k : Nat) :
    P (s.stopLanes k) :=
  foldl_preserves (P := P) (fun _ b hu => foldl_preserves (P := P) (fun v l hv => hKeeps v b.id l hv) hu _) h _

theorem State.closed_stopLanes {s : State} {k l : Nat} {b : Bundle} (hb : b ∈ s.bundles) (hk : b.owner.block? = some k)
    (hl : l < b.threads.length) : (s.stopLanes k).closed b.id l := by
  have hLanes := foldl_attains (fun (b : Bundle) u => ∀ l < b.threads.length, u.closed b.id l)
    (fun u b l hl => foldl_attains (fun l v => v.closed b.id l) (fun v l => v.closed_stopLane b.id l)
      (fun v l m hv => State.closed_stopLane_of hv b.id m) _ u l (List.mem_range.mpr hl))
    (fun u b c hu l hl => foldl_preserves (P := fun v => v.closed b.id l) (fun v m hv => State.closed_stopLane_of hv c.id m) (hu l hl) _)
    (s.bundles.filter fun b => b.owner.block? == some k) s b (List.mem_filter.mpr ⟨hb, by simpa using hk⟩)
  exact hLanes l hl

/-- The owner and size of a bundle. -/
def State.shape? (s : State) (n : Nat) : Option (Owner × Nat) := (s.bundle? n).map fun b => (b.owner, b.threads.length)

theorem State.shape?_stopLane (s : State) (b l n : Nat) : (s.stopLane b l).shape? n = s.shape? n := by
  cases hTx : (s.thread b l).tx with
  | none => rw [State.stopLane_of_closed hTx]; rfl
  | some x =>
    obtain ⟨f, -, hBundles⟩ := State.stopLane_of_open hTx
    have hFind : (s.stopLane b l).bundle? n = (s.modThread b l f).bundle? n := by simp only [State.bundle?, hBundles]
    rw [State.shape?, hFind, State.modThread, State.bundle?_modBundle_ite, State.shape?, Option.map_map]
    · congr 1
      funext x
      rw [Function.comp_apply]
      split
      · simp
      · rfl
    · exact fun _ => rfl

theorem State.shape?_stopLanes (s : State) (k n : Nat) : (s.stopLanes k).shape? n = s.shape? n :=
  State.stopLanes_preserves (P := fun u => u.shape? n = s.shape? n) (fun u b l hu => (u.shape?_stopLane b l n).trans hu) rfl k

/-- A bundle of a block that has stopped has no open transaction. -/
theorem State.tx_stopLanes {s : State} {k n : Nat} {b : Bundle} (hb : (s.stopLanes k).bundle? n = some b) (hk : b.owner.block? = some k)
    {t : Thread} (ht : t ∈ b.threads) : t.tx = none := by
  have hShape := s.shape?_stopLanes k n
  rw [State.shape?, hb, Option.map_some, State.shape?] at hShape
  obtain ⟨x, hx, hEq⟩ := Option.map_eq_some_iff.mp hShape.symm
  obtain ⟨hOwner, hLength⟩ : x.owner = b.owner ∧ x.threads.length = b.threads.length := by simpa using hEq
  obtain ⟨l, hl, rfl⟩ := List.getElem_of_mem ht
  have hClosed := State.closed_stopLanes (l := l) (List.mem_of_find?_eq_some hx) (by rw [hOwner, hk]) (hLength ▸ hl)
  rw [State.bundle?_id hx] at hClosed
  exact hClosed _ ((State.thread?_of_bundle hb).trans (List.getElem?_eq_getElem hl))

/-- A bundle of a block whose threads stand at their boundary. -/
def Bundle.boundary (k : Nat) (b : Bundle) : Bundle :=
  if b.owner.block? == some k then { b with threads := b.threads.map Thread.atBoundary } else b

theorem Bundle.boundary_id (k : Nat) (b : Bundle) : (b.boundary k).id = b.id := by
  rw [Bundle.boundary]
  split <;> rfl

/-- Halting a block stops its lanes, and its threads stand at their boundary. -/
theorem State.bundle?_haltBlock (s : State) (k n : Nat) : (s.haltBlock k).bundle? n = ((s.stopLanes k).bundle? n).map (Bundle.boundary k) := by
  have hName : ((fun x : Bundle => x.id == n) ∘ Bundle.boundary k) = fun x => x.id == n := by
    funext x
    rw [Function.comp_apply, x.boundary_id]
  show ((s.stopLanes k).bundles.map (Bundle.boundary k)).find? (fun x => x.id == n) = _
  rw [List.find?_map, hName]
  rfl

/-- A thread without a transaction that stands at no convergence keeps its registers, PC and life at its boundary. -/
theorem Thread.atBoundary_of_quiet {t : Thread} (h : t.conv = none) :
    t.atBoundary.regs = t.regs ∧ t.atBoundary.pc = t.pc ∧ t.atBoundary.life = t.life := by
  rw [Thread.atBoundary, Thread.unarrive_of_none h]
  exact ⟨rfl, rfl, rfl⟩

/-- The stop of a lane leaves blocks, tasks and partitions alone. -/
theorem State.stopLane_frame (s : State) (b l : Nat) :
    (s.stopLane b l).blocks = s.blocks ∧ (s.stopLane b l).tasks = s.tasks ∧ (s.stopLane b l).partitions = s.partitions := by
  rw [State.stopLane, State.abortTx]
  split <;> exact ⟨rfl, rfl, rfl⟩

theorem State.stopLanes_frame (s : State) (k : Nat) :
    (s.stopLanes k).blocks = s.blocks ∧ (s.stopLanes k).tasks = s.tasks ∧ (s.stopLanes k).partitions = s.partitions := by
  refine State.stopLanes_preserves (P := fun u => u.blocks = s.blocks ∧ u.tasks = s.tasks ∧ u.partitions = s.partitions) ?_ ⟨rfl, rfl, rfl⟩ k
  intro u b l ⟨hBlocks, hTasks, hParts⟩
  obtain ⟨hBlocks', hTasks', hParts'⟩ := u.stopLane_frame b l
  exact ⟨hBlocks'.trans hBlocks, hTasks'.trans hTasks, hParts'.trans hParts⟩

/-- A thread with no open transaction goes through the stop of its block, and stands at its boundary if it is the block's. -/
theorem State.thread_haltBlock {s : State} {b l : Nat} (hTx : (s.thread b l).tx = none) (k : Nat) :
    (s.haltBlock k).thread b l = s.thread b l ∨ (s.haltBlock k).thread b l = (s.thread b l).atBoundary := by
  have hClosed : s.closed b l := fun t ht => by rwa [State.thread_of_thread? ht] at hTx
  obtain ⟨-, hStop⟩ : (s.stopLanes k).closed b l ∧ (s.stopLanes k).thread? b l = s.thread? b l :=
    State.stopLanes_preserves (P := fun u => u.closed b l ∧ u.thread? b l = s.thread? b l)
      (fun u c m ⟨hu, hSame⟩ => ⟨State.closed_stopLane_of hu c m, (State.thread?_stopLane_of_closed hu c m).trans hSame⟩) ⟨hClosed, rfl⟩ k
  have hHalt : (s.haltBlock k).thread? b l = ((s.stopLanes k).bundle? b).bind fun x => (x.boundary k).threads[l]? := by
    rw [State.thread?, s.bundle?_haltBlock, Option.bind_map]
    rfl
  simp only [State.thread]
  rw [hHalt, ← hStop, State.thread?]
  cases (s.stopLanes k).bundle? b with
  | none => exact .inl rfl
  | some x =>
    simp only [Option.bind_some, Bundle.boundary]
    split
    · cases hx : x.threads[l]? with
      | none => exact .inl (by simp [hx])
      | some t => exact .inr (by simp [hx])
    · exact .inl rfl

/-- Halting a block closes its transactions and leaves memory, tasks, partitions and what its other threads hold. -/
theorem State.blockHalts_haltBlock {s : State} {k : Nat} {y : Block} (hy : s.block? k = some y) : BlockHalts s (s.haltBlock k) k where
  halted := by
    have hFind : (s.stopLanes k).block? k = some y := by rw [State.block?, (s.stopLanes_frame k).1]; exact hy
    have hName : y.id = k := by simpa using List.find?_some hy
    have hHalt : (s.haltBlock k).block? k = (((s.stopLanes k).modBlock k fun x => { x with
        retired := x.retired - (s.stopLanes k).redone k }).modBlock k fun x => { x with halted := true }).block? k := rfl
    rw [hHalt, State.block?_modBlock, State.block?_modBlock, hFind]
    · simp [hName]
    · exact fun _ => rfl
    · exact fun _ => rfl
  closed := by
    intro n b hb hk t ht
    rw [s.bundle?_haltBlock] at hb
    obtain ⟨x, hx, rfl⟩ := Option.map_eq_some_iff.mp hb
    have hOwner : x.owner.block? = some k := by
      rw [Bundle.boundary] at hk
      split at hk <;> exact hk
    rw [Bundle.boundary, if_pos (by simpa using hOwner)] at ht
    obtain ⟨v, hv, rfl⟩ := List.mem_map.mp ht
    exact ⟨v.unarrive_tx.trans (State.tx_stopLanes hx hOwner hv), v.unarrive_conv⟩
  memory := s.haltBlock_mem k
  tasks := (s.stopLanes_frame k).2.1
  partitions := (s.stopLanes_frame k).2.2
  threads := by
    intro b l hTx hConv
    rcases State.thread_haltBlock hTx k with hSame | hBoundary
    · rw [hSame]
      exact ⟨rfl, rfl, rfl⟩
    · rw [hBoundary]
      exact Thread.atBoundary_of_quiet hConv

/-! Lanes that park (R324, R427). -/

/-- A thread that has parked. -/
def Thread.parked (t : Thread) (p : Park) : Thread := { t with life := .parked p, mid := none, yield := none, pc := p.resume }

/-- An instruction that holds a lane and will issue again is no longer counted in its block. -/
def State.uncounted (s : State) (k bid l : Nat) : State :=
  if (s.thread bid l).holds then s.modBlock k fun x => { x with retired := x.retired - 1 } else s

/-- A lane of a block thread that parks precisely. -/
theorem State.parkLane_of_block {s : State} {bid k : Nat} {b : Bundle} (hb : s.bundle? bid = some b) (ho : b.owner = .block k) (l : Nat)
    (tr : Trap) (opc resume : DWord) (after : Bool) :
    s.parkLane bid l tr opc resume false after = ((((s.uncounted k bid l).releaseTurn bid l).modBundle bid (·.undoCollective l)).modThread bid l
      (·.parked { trap := tr, opc := opc, resume := resume, imprecise := false, afterAbort := after, seq := s.fresh, clk := s.clk })).next := by
  have hFrame : (s.uncounted k bid l).fresh = s.fresh ∧ (s.uncounted k bid l).clk = s.clk := by
    rw [State.uncounted]
    split <;> exact ⟨rfl, rfl⟩
  obtain ⟨hFresh, hClk⟩ := hFrame
  rw [← hFresh, ← hClk]
  simp only [State.parkLane, hb, ho, Bool.false_and, Bool.not_false, Bool.and_true] <;> rfl

theorem State.uncounted_frame (s : State) (k bid l : Nat) :
    (s.uncounted k bid l).bundles = s.bundles ∧ (s.uncounted k bid l).mem = s.mem ∧ (s.uncounted k bid l).reqs = s.reqs ∧
      (s.uncounted k bid l).partitions = s.partitions := by
  rw [State.uncounted]
  split <;> exact ⟨rfl, rfl, rfl, rfl⟩

/-- A lane that no instruction holds leaves the counts as they are. -/
theorem State.uncounted_of_free {s : State} {bid l : Nat} {t : Thread} (ht : s.thread bid l = t) (hConv : t.conv = none) (hMid : t.mid = none)
    (k : Nat) : s.uncounted k bid l = s := by
  have hFree : t.holds = false := by rw [Thread.holds, hConv, hMid]; rfl
  rw [State.uncounted, ht, if_neg (by simp [hFree])]

/-- A lane that is owed no result and stands at no convergence has nothing to give back. -/
theorem Bundle.undoCollective_thread {b : Bundle} {l : Nat} {t : Thread} (ht : b.threads[l]? = some t) (hConv : t.conv = none)
    (hOwed : ∀ c ∈ b.results, ∀ x ∈ c.shares, x.lane ≠ l) : (b.undoCollective l).threads[l]? = some t := by
  have hNone : (b.results.flatMap fun c => c.shares.filter (·.lane == l)) = [] := by
    rw [List.flatMap_eq_nil_iff]
    intro c hc
    rw [List.filter_eq_nil_iff]
    intro x hx
    simpa using hOwed c hc x hx
  simp only [Bundle.undoCollective, hNone, List.foldl_nil, List.getElem?_modify, ht, if_true, Option.map_eq_map, Option.map_some,
    Thread.unarrive_of_none hConv]

/-- Nothing of the lane changes but its life, its PC and what it waits in. -/
theorem State.thread_parkLane {s : State} {bid k l : Nat} {b : Bundle} {t : Thread} (hb : s.bundle? bid = some b) (ho : b.owner = .block k)
    (ht : b.threads[l]? = some t) (hConv : t.conv = none) (hOwed : ∀ c ∈ b.results, ∀ x ∈ c.shares, x.lane ≠ l) (tr : Trap) (opc resume : DWord)
    (after : Bool) :
    (s.parkLane bid l tr opc resume false after).thread? bid l = some (t.parked
      { trap := tr, opc := opc, resume := resume, imprecise := false, afterAbort := after, seq := s.fresh, clk := s.clk }) := by
  have hFind : ((s.uncounted k bid l).releaseTurn bid l).bundle? bid = some b := by
    have hSame : ((s.uncounted k bid l).releaseTurn bid l).bundles = s.bundles := (s.uncounted_frame k bid l).1
    rw [State.bundle?, hSame]
    exact hb
  have hUndone : (((s.uncounted k bid l).releaseTurn bid l).modBundle bid (·.undoCollective l)).thread? bid l = some t := by
    rw [State.thread?, State.bundle?_modBundle, hFind]
    · exact Bundle.undoCollective_thread ht hConv hOwed
    · exact fun _ => rfl
  rw [State.parkLane_of_block hb ho]
  show State.thread? (State.modThread _ bid l _) bid l = _
  rw [State.thread?_modThread, hUndone, Option.map_some, if_pos rfl]

/-- A lane that parks leaves memory, requests and partitions alone, and the blocks too where no instruction holds it. -/
theorem State.parkLane_frame {s : State} {bid k : Nat} {b : Bundle} (hb : s.bundle? bid = some b) (ho : b.owner = .block k) (l : Nat)
    (tr : Trap) (opc resume : DWord) (after : Bool) :
    (s.parkLane bid l tr opc resume false after).mem = s.mem ∧ (s.parkLane bid l tr opc resume false after).reqs = s.reqs ∧
      (s.parkLane bid l tr opc resume false after).partitions = s.partitions ∧
      (s.uncounted k bid l = s → (s.parkLane bid l tr opc resume false after).blocks = s.blocks) := by
  obtain ⟨-, hMem, hReqs, hParts⟩ := s.uncounted_frame k bid l
  rw [State.parkLane_of_block hb ho]
  exact ⟨hMem, hReqs, hParts, congrArg State.blocks⟩

/-- A parked lane comes back at its resume PC (R330). -/
theorem State.thread_resumeLane {s : State} {bid l : Nat} {t : Thread} {p : Park} (ht : s.thread? bid l = some (t.parked p))
    (hPrecise : p.imprecise = false) : (s.resumeLane bid l).thread bid l = { (t.parked p).goto p.resume with life := .live } := by
  refine State.thread_of_thread? ?_
  rw [State.resumeLane, State.thread?_modThread, ht, Option.map_some, if_pos rfl]
  simp [Thread.parked, hPrecise]

/-! Taking a cause (R321 to R324, R333). -/

/-- Where a lane that parks with a cause resumes. -/
def resumeAt (c : Nat) (start nxt : DWord) : DWord := if c ∈ [0x0D, 0x0F, 0x10, 0x11] then nxt else start

theorem resumeAt_eq (c : Nat) (start nxt : DWord) : (if resumesNext c then nxt else start) = resumeAt c start nxt := by
  simp [resumeAt, resumesNext, or_assoc]

section
variable {s : State} {bid l k : Nat} {b : Bundle} {y : Block}

/-- A cause of a block thread outside a transaction is taken as it is met. -/
theorem State.raise_of_block (hb : s.bundle? bid = some b) (ho : b.owner = .block k) (hTx : (s.thread bid l).tx = none) (tr : Trap)
    (start nxt : DWord) :
    s.raise bid l tr start nxt = s.raisePlain b l tr start (resumeAt tr.cause start nxt) false false := by
  simp [State.raise, State.meet, State.takeMet, hb, ho, hTx, resumeAt_eq]

/-- The partition of a block's task. -/
def State.partitionOf (s : State) (y : Block) : Nat := ((s.task? y.task).map (·.partition)).getD 0

theorem State.raisePlain_eq (ho : b.owner = .block k) (hy : s.block? k = some y) (tr : Trap) (opc resume : DWord) :
    s.raisePlain b l tr opc resume false false =
      if endsTask tr.cause then s.endBlock k tr opc b.index l
      else if s.handlerPc (s.partitionOf y) tr.cause = 0 then
        if tr.cause = 0x0F || tr.cause = 0x11 then (s.modThread b.id l (·.goto resume)).haltBlock k else s.endBlock k tr opc b.index l
      else if (s.thread b.id l).live then s.parkLane b.id l tr opc resume false false else s := by
  have hOwn : s.blockOf b = some y := by rw [State.blockOf, ho]; exact hy
  have hName : y.id = k := by simpa using List.find?_some hy
  simp only [State.raisePlain, hOwn, hName, State.partitionOf] <;> rfl

theorem endsTask_iff (c : Nat) : endsTask c = true ↔ c ∈ [1, 2, 5] := by simp [endsTask, or_assoc]

end

/-- Settles O30: of the four ways of State.raisePlain_eq, two end the block (State.blockEnds_endBlock), one halts it
(State.blockHalts_haltBlock), and one parks the lane (State.thread_parkLane), which comes back by State.thread_resumeLane. -/
theorem aCauseParksItsLane : Obligations.ACauseParksItsLane := by
  intro s bid l tr start nxt b k y t hb ho hy ht hTx hLife hConv hOwed p resume u
  have hId : b.id = bid := State.bundle?_id hb
  have hThread : s.thread bid l = t := State.thread_of_thread? ((State.thread?_of_bundle hb).trans ht)
  have hRaise : u = s.raisePlain b l tr start resume false false := State.raise_of_block hb ho (by rw [hThread, hTx]) tr start nxt
  have hPart : s.partitionOf y = p := rfl
  rw [State.raisePlain_eq ho hy, hId, hPart] at hRaise
  refine ⟨fun hEnds => ?_, fun hNone hHalts => ?_, fun hTask hHandler => ?_⟩
  · have hEnd : u = s.endBlock k tr start b.index l := by
      rcases hEnds with hTask | ⟨hNone, hOther⟩
      · rw [hRaise, if_pos ((endsTask_iff _).mpr hTask)]
      · rw [hRaise]
        have hNot : ¬ (tr.cause = 0x0F || tr.cause = 0x11) = true := by simpa using hOther
        by_cases hTask : endsTask tr.cause = true
        · rw [if_pos hTask]
        · rw [if_neg hTask, if_pos hNone, if_neg hNot]
    exact ⟨hEnd, fun hRuns => hEnd ▸ State.blockEnds_endBlock hy hRuns tr start b.index l⟩
  · have hCause : (tr.cause = 0x0F || tr.cause = 0x11) = true := by simpa using hHalts
    have hTask : ¬ endsTask tr.cause = true := by
      rw [endsTask_iff]
      rcases List.mem_cons.mp hHalts with h | h
      · simp [h]
      · simp [List.mem_singleton.mp h]
    have hHalt : u = (s.modThread bid l (·.goto resume)).haltBlock k := by rw [hRaise, if_neg hTask, if_pos hNone, if_pos hCause]
    have hy' : (s.modThread bid l (·.goto resume)).block? k = some y := hy
    exact ⟨hHalt, hHalt ▸ State.blockHalts_haltBlock hy'⟩
  · have hLive : (s.thread bid l).live = true := by rw [hThread, Thread.live, hLife]
    have hPark : u = s.parkLane bid l tr start resume false false := by
      rw [hRaise, if_neg (by rw [endsTask_iff]; exact hTask), if_neg hHandler, if_pos hLive]
    have hParked := State.thread_parkLane hb ho ht hConv hOwed tr start resume false
    obtain ⟨hMem, hReqs, hParts, hBlocks⟩ := State.parkLane_frame hb ho l tr start resume false
    rw [← hPark] at hParked hMem hReqs hParts hBlocks
    have hLane := State.thread_of_thread? hParked
    have hBack := State.thread_resumeLane hParked rfl
    rw [hLane, hBack]
    exact ⟨rfl, rfl, rfl, rfl, rfl, hMem, hReqs, hParts, fun hMid => hBlocks (State.uncounted_of_free hThread hConv hMid k), rfl, rfl, rfl, rfl⟩

end Sys2Proof.Machine
end

section
/-! SUPPORT. A frozen package (R430) that was stopped between a lead word and its follower: the group of State.group still names lanes that found
a soft error, and a turn of the test port raises MCHK in them. -/

namespace Sys2Proof.Machine

/-- Lane 1 of bundle 3 has found a soft error in its registers when the clocks stop; the test port's BYPASS comes next. -/
def frozenState : State :=
  { enqueueState with
    frozen := true, agenda := [.event .bypass], group := some { enqueueGroup with hits := [(1, 1)] } }

theorem exec_bypass (s : State) : exec .bypass s = .next { s with jtagInstr := 0xFF } := by rfl

/-- The turn runs, though the clocks stand. -/
theorem move_frozenState : frozenState.move = .run { frozenState with agenda := [] } .bypass := by rfl

/-- What it leaves: block 2 is to park with MCHK. -/
theorem step_frozenState : ∃ t, step frozenState = .next t ∧ t.blocks.map (·.ending) = [.parking { cause := 1, detail := 1 } 0x10000 0 1] :=
  ⟨_, step_of_run move_frozenState (exec_bypass _), by decide⟩

/-- Refutes O8: after every turn that runs, the test port's too, the lanes that the group of State.group lists with a soft error raise MCHK.
frozenState is a frozen state with such a group, which the statement does not exclude: BYPASS ends the threads of its block. -/
theorem not_frozenPackageStandsStill : ¬ Obligations.FrozenPackageStandsStill := by
  intro h
  obtain ⟨t, hStep, hParks⟩ := step_frozenState
  rcases h frozenState t (.inl rfl) hStep with hReset | hLoss | hStill
  · exact absurd hReset (by decide)
  · exact absurd hLoss (by decide)
  · obtain ⟨-, -, -, -, -, -, -, -, hBlocks, -⟩ := hStill
    rw [hBlocks] at hParks
    exact absurd hParks (by decide)

end Sys2Proof.Machine
end

section
/-! SUPPORT. What comes from outside a partition (R370, R391, R397 to R400, R408, R409, R416, R425): what each input does where it acts at
once, and how writes of the control window reach the registers they cover. -/

namespace Sys2Proof.Machine

/-! Inputs that act or wait (R425). -/

/-- Outside deterministic mode an input acts at once. -/
theorem State.external_of_notDet {s : State} {p : Nat} (h : (s.part p).det = false) (x : Input) (f : State → State) :
    s.external p x f = f s := by
  simp only [State.external, h, Bool.not_false, if_true]

/-- In deterministic mode, outside lockstep, it joins the inputs of the next boundary. -/
theorem State.external_of_det {s : State} {p : Nat} (h : (s.part p).det = true) (hl : (s.part p).lockstep = false) (x : Input)
    (f : State → State) : s.external p x f = s.modPart p fun q => { q with inputs := q.inputs ++ [x] } := by
  simp only [State.external, h, hl, Bool.not_true, Bool.false_eq_true, Bool.false_and, if_false]

/-- An event that is an external input of a partition. -/
theorem exec_external {i : Instr} {p : Nat} {x : Input} {s : State} (f : State → State) (he : exec i s = .next (s.external p x f)) :
    ((s.part p).det = false → exec i s = .next (f s)) ∧
    ((s.part p).det = true → (s.part p).lockstep = false → exec i s = .next (s.modPart p fun q => { q with inputs := q.inputs ++ [x] })) :=
  ⟨fun h => by rw [he, State.external_of_notDet h], fun h hl => by rw [he, State.external_of_det h hl]⟩

/-! Host and peer accesses (R391, R409). -/

theorem exec_inboundAccess (op part source : Nat) (va : BitVec 64) (size : Nat) (data : List (BitVec 8)) (s : State) :
    exec (.inboundAccess op part source va size data) s = execInboundAccess op part source va size data s := by rfl
theorem exec_pwenqAtTarget (op : Nat) (code : BitVec 16) (part : Nat) (desc payload packet : List (BitVec 8)) (s : State) :
    exec (.pwenqAtTarget op code part desc payload packet) s = execPwenqAtTarget op code part desc payload packet s := by rfl
theorem exec_pwenqReply (op : Nat) (code : BitVec 16) (page : BitVec 64) (s : State) :
    exec (.pwenqReply op code page) s = execPwenqReply op code page s := by rfl

/-- An access that arrives is an external input. -/
theorem inboundAccess_arrives {s : State} {op : Nat} (h : (s.inbound.any fun y => y.id == op && y.enqueue.isNone) = false) (part source : Nat)
    (va : BitVec 64) (size : Nat) (data : List (BitVec 8)) :
    exec (.inboundAccess op part source va size data) s = .next (s.external (s.inboundAt part source va).1
      (.access op (s.inboundAt part source va).1 source (s.inboundAt part source va).2 size data)
      (·.inboundAccess op (s.inboundAt part source va).1 source (s.inboundAt part source va).2 size data)) := by
  simp only [exec_inboundAccess, execInboundAccess, h, Bool.false_eq_true, if_false]

/-- One that is held already is tried again. -/
theorem inboundAccess_again {s : State} {op : Nat} (h : (s.inbound.any fun y => y.id == op && y.enqueue.isNone) = true) (part source : Nat)
    (va : BitVec 64) (size : Nat) (data : List (BitVec 8)) :
    exec (.inboundAccess op part source va size data) s =
      .next (s.inboundAccess op (s.inboundAt part source va).1 source (s.inboundAt part source va).2 size data) := by
  simp only [exec_inboundAccess, execInboundAccess, h, if_true]

/-- A peer's write-with-enqueue that arrives is an external input. -/
theorem pwenqAtTarget_arrives {s : State} {op : Nat} (hr : s.req? op = none) (h : (s.inbound.any fun y => y.id == op && y.enqueue.isSome) = false)
    (code : BitVec 16) (part : Nat) (desc payload packet : List (BitVec 8)) :
    exec (.pwenqAtTarget op code part desc payload packet) s = .next (s.external part (.enqueue op code.toNat part desc payload packet)
      (·.serveEnqueue op code.toNat part desc payload packet)) := by
  simp only [exec_pwenqAtTarget, execPwenqAtTarget, hr, h, Option.isSome_none, Bool.or_self, Bool.false_eq_true, if_false]

/-- So is a reply to one of this package's. -/
theorem pwenqReply_arrives {s : State} {op : Nat} (h : (s.req? op).map (·.phase) = some .sent) (code : BitVec 16) (page : BitVec 64) :
    exec (.pwenqReply op code page) s =
      .next (s.external (s.reqPart op) (.enqueueReply op code.toNat page) (·.enqueueReply op code.toNat page)) := by
  simp only [exec_pwenqReply, execPwenqReply, h]

/-- A request served here has its reply, which fills its destination. -/
theorem pwenqReply_served {s : State} {op dst w x y : Nat} {r : Req} {d pay pkt : List Byte} {c lo hi : Word} (hr : s.req? op = some r)
    (hk : r.kind = .pwenq dst d pay pkt) (hp : r.phase = .done w x y [c, lo, hi]) (hc : c.toNat ≤ 2) (code : BitVec 16) (page : BitVec 64) :
    exec (.pwenqReply op code page) s = .next ((s.drawn.dropReq op).landThread r.bundle r.lane fun t => t.write dst c) := by
  have hr' : s.drawn.req? op = some r := hr
  simp only [exec_pwenqReply, execPwenqReply, hr, Option.map_some, hp, State.finishEnqueue, hr', hk, hc, if_true, BitVec.ofNat_toNat,
    BitVec.setWidth_eq]

/-! Queues (R398, R399). -/

/-- A map request of a mapped slot, or of a misaligned address, is refused. -/
theorem State.mapFor_refused {s : State} {slot : Nat} {qcb : DWord} (h : (s.slot slot).mapped = true ∨ qcb.toNat % 64 ≠ 0) (p : Nat) :
    s.mapFor slot p qcb = s.refuseMap slot := by
  have hRefused : ((s.slot slot).mapped || decide (qcb.toNat % 64 ≠ 0)) = true := by simpa using h
  simp only [State.mapFor, hRefused, if_true]

section
variable {s : State} {slot v : Nat}

theorem State.doorbell_ignored (h : (s.slot slot).mapped = false ∨ v < (s.slot slot).writeIdx) : s.doorbell slot v = s := by
  have hIgnored : s.bringup < 6 ∨ (!(s.slot slot).mapped) = true ∨ v < (s.slot slot).writeIdx := by
    rcases h with h | h
    · simp [h]
    · exact .inr (.inr h)
  simp only [State.doorbell, hIgnored, if_true]

variable (hBringup : 6 ≤ s.bringup) (hMapped : (s.slot slot).mapped = true) (hOrder : (s.slot slot).writeIdx ≤ v)
include hBringup hMapped hOrder

theorem State.doorbell_beyond (hFull : (s.slot slot).readIdx + 2 ^ (s.slot slot).log2 < v) :
    s.doorbell slot v = ((s.modSlot slot fun x => { x with error := true }).writeQcb slot).queueRecord (s.slot slot).partition slot
      (BitVec.ofNat 64 v) 1 := by
  have hTaken : ¬ (s.bringup < 6 ∨ (!(s.slot slot).mapped) = true ∨ v < (s.slot slot).writeIdx) := by
    rw [hMapped]
    simp only [Bool.not_true, Bool.false_eq_true, false_or]
    omega
  simp only [State.doorbell, hTaken, hFull, if_false, if_true]

theorem State.doorbell_accepted (hRoom : v ≤ (s.slot slot).readIdx + 2 ^ (s.slot slot).log2) : s.doorbell slot v = s.acceptIndex slot v := by
  have hTaken : ¬ (s.bringup < 6 ∨ (!(s.slot slot).mapped) = true ∨ v < (s.slot slot).writeIdx) := by
    rw [hMapped]
    simp only [Bool.not_true, Bool.false_eq_true, false_or]
    omega
  have hRoom' : ¬ (s.slot slot).readIdx + 2 ^ (s.slot slot).log2 < v := by omega
  simp only [State.doorbell, hTaken, hRoom', if_false]

end

/-- Between leaders an index is latched alone. -/
theorem State.acceptIndex_latched {s : State} (h : s.fetching = false) (slot v : Nat) :
    s.acceptIndex slot v = s.modSlot slot fun x => { x with writeIdx := v } := by
  have h' : (s.modSlot slot fun x => { x with writeIdx := v }).fetching = false := h
  simp only [State.acceptIndex, h', Bool.false_eq_true, if_false]

/-- Else the queue's control block is written too. -/
theorem State.acceptIndex_written {s : State} {slot v : Nat} (h : (s.modSlot slot fun x => { x with writeIdx := v }).fetching = true) :
    s.acceptIndex slot v = (s.modSlot slot fun x => { x with writeIdx := v }).writeQcb slot := by
  simp only [State.acceptIndex, h, if_true]

theorem State.resetQueue_unmapped {s : State} {slot : Nat} (h : (s.slot slot).mapped = false) : s.resetQueue slot = s := by
  simp only [State.resetQueue, h, Bool.not_false, if_true]

theorem State.resetQueue_mapped {s : State} {slot : Nat} (h : (s.slot slot).mapped = true) :
    s.resetQueue slot = (s.modSlot slot fun x => { x with error := false }).writeQcb slot := by
  simp only [State.resetQueue, h, Bool.not_true, Bool.false_eq_true, if_false]

/-! Writes of the control window (R397 to R400). -/

theorem exec_hostRegisterWrite (offset : BitVec 32) (size : Nat) (value : BitVec 64) (s : State) :
    exec (.hostRegisterWrite offset size value) s = execHostRegisterWrite offset size value s := by rfl

/-- A write of an offset that concerns no partition acts at once. -/
theorem hostRegisterWrite_package {s : State} {offset : BitVec 32} (h : s.regPart offset.toNat = none) (size : Nat) (value : BitVec 64) :
    exec (.hostRegisterWrite offset size value) s = .next (s.writeWindow offset.toNat size value.toNat) := by
  simp only [exec_hostRegisterWrite, execHostRegisterWrite, h]

/-- One of a partition's is an external input of it. -/
theorem hostRegisterWrite_partition {s : State} {offset : BitVec 32} {p : Nat} (h : s.regPart offset.toNat = some p) (size : Nat)
    (value : BitVec 64) : exec (.hostRegisterWrite offset size value) s = .next (s.external p (.window s.winPartition offset.toNat size value)
      (·.writeWindow offset.toNat size value.toNat)) := by
  simp only [exec_hostRegisterWrite, execHostRegisterWrite, h]

/-- The little-endian bytes of a number are its value below 2^(8n). -/
theorem leNat_bytes (n v : Nat) : leNat ((List.range n).map fun i => BitVec.ofNat 8 (v / 2 ^ (8 * i))) = v % 2 ^ (8 * n) := by
  induction n generalizing v with
  | zero => simp [leNat, Nat.mod_one]
  | succ n ih =>
    have hTail : ((List.range n).map fun i => BitVec.ofNat 8 (v / 2 ^ (8 * (i + 1)))) =
        (List.range n).map fun i => BitVec.ofNat 8 (v / 256 / 2 ^ (8 * i)) := by
      refine List.map_congr_left fun i _ => ?_
      rw [Nat.div_div_eq_div_mul, show 8 * (i + 1) = 8 + 8 * i by omega, Nat.pow_add]
    rw [List.range_succ_eq_map, List.map_cons, List.map_map, leNat]
    show _ + 256 * leNat ((List.range n).map fun i => BitVec.ofNat 8 (v / 2 ^ (8 * (i + 1)))) = _
    rw [hTail, ih, show 8 * (n + 1) = 8 + 8 * n by omega, Nat.pow_add, Nat.mod_mul]
    simp

/-- A write of a whole register leaves nothing of its old value. -/
theorem State.mergeReg_whole (s : State) (o n v : Nat) : s.mergeReg o n o n v = v % 2 ^ (8 * n) := by
  rw [← leNat_bytes, State.mergeReg]
  congr 1
  refine List.map_congr_left fun i hi => ?_
  have hi := List.mem_range.mp hi
  rw [if_pos (by omega), Nat.add_sub_cancel_left]

/-- A write that covers one register, and all of it, writes that register. -/
theorem State.writeWindow_whole {o n : Nat} (hSize : [1, 2, 4, 8].contains n = true) (hAlign : o % n = 0) (hWindow : ¬ (0x100000 ≤ o ∧ o < 0x180000))
    (hOnly : ((regsNear o).filter fun x => overlap x.1 x.2 o n) = [(o, n)]) (s : State) (v : Nat) :
    s.writeWindow o n v = s.writeReg o (v % 2 ^ (8 * n)) := by
  have hSound : (!([1, 2, 4, 8].contains n) || !(o % n == 0)) = false := by simp only [hSize, hAlign]; rfl
  rw [State.writeWindow, if_neg (by rw [hSound]; decide), if_neg hWindow, hOnly, List.foldl_cons, List.foldl_nil, State.mergeReg_whole]

/-- A register of a partition's block is written there, from step 6 of bring-up on. -/
theorem State.writeReg_partition {s : State} {p off : Nat} (hp : p < 8) (hOff : off < 4096) (hBringup : 6 ≤ s.bringup) (v : Nat) :
    s.writeReg (0x190000 + 4096 * p + off) v = s.writePart p off v := by
  rw [State.writeReg, if_neg (by omega), if_neg (by omega), if_neg (by omega), if_neg (by omega), if_neg (by omega), if_neg (by omega),
    if_neg (by omega), if_neg (by omega), if_neg (by omega), if_neg (by omega), if_pos (by omega),
    show (0x190000 + 4096 * p + off - 0x190000) / 4096 = p by omega, show (0x190000 + 4096 * p + off) % 4096 = off by omega]

/-- A doorbell register is its slot's doorbell. -/
theorem State.writeReg_doorbell {s : State} {slot : Nat} (hSlot : slot < 128) (hBringup : 6 ≤ s.bringup) (v : Nat) :
    s.writeReg (0x100000 + 4096 * slot) v = s.doorbell slot v := by
  rw [State.writeReg, if_neg (by omega), if_neg (by omega), if_neg (by omega), if_neg (by omega), if_neg (by omega), if_neg (by omega),
    if_neg (by omega), if_neg (by omega), if_pos (by omega), show (0x100000 + 4096 * slot - 0x100000) / 4096 = slot by omega]

theorem State.regPart_partition (s : State) {p off : Nat} (hp : p < 8) (hOff : off < 4096) :
    s.regPart (0x190000 + 4096 * p + off) = some p := by
  rw [State.regPart, if_neg (by omega), if_neg (by omega), if_pos (by omega), show (0x190000 + 4096 * p + off - 0x190000) / 4096 = p by omega]

theorem State.regPart_doorbell (s : State) {slot : Nat} (hSlot : slot < 128) : s.regPart (0x100000 + 4096 * slot) = some (s.slotPart slot) := by
  rw [State.regPart, if_pos (by omega), show (0x100000 + 4096 * slot - 0x100000) / 4096 = slot by omega]

/-- The eight bytes of a partition's first two registers lie in no other register. -/
theorem regsNear_root : ∀ p < 8, ((regsNear (0x190000 + 4096 * p)).filter fun x => overlap x.1 x.2 (0x190000 + 4096 * p) 8) =
    [(0x190000 + 4096 * p, 8)] := by decide
theorem regsNear_vector : ∀ p < 8, ((regsNear (0x190000 + 4096 * p + 8)).filter fun x => overlap x.1 x.2 (0x190000 + 4096 * p + 8) 8) =
    [(0x190000 + 4096 * p + 8, 8)] := by decide

theorem mod_toNat (v : BitVec 64) : v.toNat % 2 ^ (8 * 8) = v.toNat := Nat.mod_eq_of_lt v.isLt

/-- The page table's root register, and the trap vector's. -/
theorem hostRegisterWrite_root {s : State} {p : Nat} (hp : p < 8) (hBringup : 6 ≤ s.bringup) (hDet : (s.part p).det = false)
    {offset : BitVec 32} (ho : offset.toNat = 0x190000 + 4096 * p) (value : BitVec 64) :
    exec (.hostRegisterWrite offset 8 value) s = .next (s.writePart p 0 value.toNat) := by
  rw [hostRegisterWrite_partition (p := p) (ho ▸ s.regPart_partition (off := 0) hp (by decide)), State.external_of_notDet hDet, ho,
    State.writeWindow_whole rfl (by omega) (by omega) (regsNear_root p hp), mod_toNat]
  exact congrArg Host.Outcome.next (State.writeReg_partition (off := 0) hp (by decide) hBringup _)

theorem hostRegisterWrite_vector {s : State} {p : Nat} (hp : p < 8) (hBringup : 6 ≤ s.bringup) (hDet : (s.part p).det = false)
    {offset : BitVec 32} (ho : offset.toNat = 0x190000 + 4096 * p + 8) (value : BitVec 64) :
    exec (.hostRegisterWrite offset 8 value) s = .next (s.writePart p 8 value.toNat) := by
  rw [hostRegisterWrite_partition (p := p) (ho ▸ s.regPart_partition (off := 8) hp (by decide)), State.external_of_notDet hDet, ho,
    State.writeWindow_whole rfl (by omega) (by omega) (regsNear_vector p hp), mod_toNat]
  exact congrArg Host.Outcome.next (State.writeReg_partition (off := 8) hp (by decide) hBringup _)

theorem hostRegisterWrite_doorbell {s : State} {slot : Nat} (hSlot : slot < 128) (hBringup : 6 ≤ s.bringup)
    (hDet : (s.part (s.slotPart slot)).det = false) {offset : BitVec 32} (ho : offset.toNat = 0x100000 + 4096 * slot) (value : BitVec 64) :
    exec (.hostRegisterWrite offset 8 value) s = .next (s.doorbell slot value.toNat) := by
  have hWindow : s.writeWindow (0x100000 + 4096 * slot) 8 value.toNat = s.doorbell slot value.toNat := by
    have hAlign : (0x100000 + 4096 * slot) % 8 = 0 := by omega
    have hSound : (!([1, 2, 4, 8].contains 8) || !((0x100000 + 4096 * slot) % 8 == 0)) = false := by rw [hAlign]; rfl
    rw [State.writeWindow, if_neg (by rw [hSound]; decide), if_pos (by omega), if_pos rfl, State.writeReg_doorbell hSlot hBringup]
  rw [hostRegisterWrite_partition (ho ▸ s.regPart_doorbell hSlot), State.external_of_notDet hDet, ho, hWindow]

/-- The window register's partition, its base, and the partition configuration block's command. -/
theorem hostRegisterWrite_winPartition {value : BitVec 64} (hv : value.toNat < 8) (s : State) :
    exec (.hostRegisterWrite 0x11000 1 value) s = .next { s with winPartition := value.toNat } := by
  have hByte : value.toNat % 2 ^ (8 * 1) % 256 = value.toNat := by omega
  rw [hostRegisterWrite_package rfl]
  show Host.Outcome.next (s.writeWindow 0x11000 1 value.toNat) = _
  rw [State.writeWindow_whole rfl rfl (by decide) (by decide), State.writeReg, if_pos rfl, hByte, if_pos hv]

theorem hostRegisterWrite_winBase {value : BitVec 64} (hv : value.toNat % 2 ^ 36 = 0) (s : State) :
    exec (.hostRegisterWrite 0x11008 8 value) s = .next { s with winBase := value } := by
  rw [hostRegisterWrite_package rfl]
  show Host.Outcome.next (s.writeWindow 0x11008 8 value.toNat) = _
  rw [State.writeWindow_whole rfl rfl (by decide) (by decide), mod_toNat, State.writeReg, if_neg (by decide), if_pos rfl, if_pos hv,
    BitVec.ofNat_toNat, BitVec.setWidth_eq]

theorem hostRegisterWrite_configCommand (s : State) :
    exec (.hostRegisterWrite 0x18200 4 1) s = exec (.partitionConfigCommand 1) s := by
  rw [hostRegisterWrite_package rfl]
  show Host.Outcome.next (s.writeWindow 0x18200 4 1) = _
  rw [State.writeWindow_whole rfl rfl (by decide) (by decide)]
  rfl

/-- While some slot is mapped a register below +0x88 stands; else the write takes effect. -/
theorem State.writePart_root_mapped {s : State} {p : Nat} (h : s.anyMapped p = true) (v : Nat) : s.writePart p 0 v = s := by
  simp [State.writePart, h]

theorem State.writePart_root {s : State} {p : Nat} (h : s.anyMapped p = false) (value : BitVec 64) :
    s.writePart p 0 value.toNat = s.modPart p fun q => { q with root := value } := by
  simp [State.writePart, h, Partition.writeLow]

theorem State.writePart_vector {s : State} {p : Nat} (h : s.anyMapped p = false) (value : BitVec 64) :
    s.writePart p 8 value.toNat = s.modPart p fun q => { q with vector := value } := by
  simp [State.writePart, h, Partition.writeLow]

/-! Requeue and cancel (R370, R371). -/

/-- The parked task of an id, and the one that a cancel reaches. -/
def State.parkedTask (s : State) (p : Nat) (task : Word) : Option Task :=
  s.tasks.find? fun t => t.partition == p && t.tid == task.toNat && t.phase == .parked
def State.ownedTask (s : State) (p : Nat) (task : Word) : Option Task :=
  s.tasks.find? fun t => t.partition == p && t.tid == task.toNat && (t.phase == .parked || t.inLease)

/-- A task that is launched again with a program. -/
def State.launchedAgain (s : State) (t : Task) (p : Program) : State :=
  s.modTask t.id fun x => { x with program := p, phase := .waiting, restart := true, flushed := false, fault := none, all := p.allRanges }

section
variable {s : State} {p : Nat} {task : Word} {t : Task}

theorem State.requeue_none (h : s.parkedTask p task = none) : s.requeue p task = s.cmdResult p 1 := by
  rw [State.parkedTask] at h
  simp only [State.requeue, h]

theorem State.requeue_node {g i x y : Nat} (h : s.parkedTask p task = some t) (hk : t.kind = .node g i x y) (hx : x ≠ 2) :
    s.requeue p task = (s.launchedAgain t t.program).cmdResult p 0 := by
  rw [State.parkedTask] at h
  simp only [State.requeue, h, hk, State.relaunch]
  split
  · next hEq => exact absurd (by injection hEq) hx
  · rfl

variable (h : s.parkedTask p task = some t) (hk : t.kind = .plain)
include h hk

theorem State.requeue_ok {u : State} {bs : List Byte} {pr : Program} (hRead : s.readTcb p t.tcb t.arg none = .ok u bs pr) :
    s.requeue p task = (u.launchedAgain t pr).cmdResult p 0 := by
  rw [State.parkedTask] at h
  simp only [State.requeue, h, hk, hRead, State.relaunch] <;> rfl

theorem State.requeue_fails {u : State} {o : Option Nat} (hRead : s.readTcb p t.tcb t.arg none = .fails u o) :
    s.requeue p task = (u.faultEntry p (faultBytes t.tcb t.tid t.blockIndex 3 (BitVec.ofNat 64 (o.getD 0)) 0 0 0 t.faultFlags
      (u.timeIn p 0))).cmdResult p 0 := by
  rw [State.parkedTask] at h
  simp only [State.requeue, h, hk, hRead]

theorem State.requeue_waits (hRead : s.readTcb p t.tcb t.arg none = .wait) :
    s.requeue p task = s.modPart p fun q => { q with requeues := distinct (q.requeues ++ [task]) } := by
  rw [State.parkedTask] at h
  simp only [State.requeue, h, hk, hRead]

end

theorem State.cancelTask_none {s : State} {p : Nat} {task : Word} (h : s.ownedTask p task = none) :
    s.cancelTask p task = s.cmdResult p 1 := by
  rw [State.ownedTask] at h
  simp only [State.cancelTask, h]

/-- A cancelled task leaves its packet, whose status is 5 if none stands yet. -/
theorem State.cancelTask_plain {s : State} {p : Nat} {task : Word} {t : Task} (h : s.ownedTask p task = some t) (hk : t.kind = .plain)
    (hu : t.unit = none) (hg : t.gang = none) :
    s.cancelTask p task = (({ s with tasks := s.tasks.filter fun x => !(x.id == t.id) } : State).lessPacket t 5 0).cmdResult p 0 := by
  rw [State.ownedTask] at h
  simp only [State.cancelTask, h, hk, State.leaveGang, hg, State.discard, hu, State.endTask, State.taskUnit]

/-- A cancelled node task's grid ends. -/
theorem State.cancelTask_node {s : State} {p g i x y : Nat} {task : Word} {t : Task} (h : s.ownedTask p task = some t)
    (hk : t.kind = .node g i x y) :
    s.cancelTask p task = ((({ s with
      tasks := s.tasks.filter fun u => !(u.id == t.id)
      grids := upd s.grids (·.id == g) fun x => { x with
        ended := some (x.ended.getD (5, ((t.fault.map (·.1.cause)).getD 0), BitVec.ofNat 64 i, t.tid)) } } : State).endUnit t.id true).cmdResult
      p 0) := by
  rw [State.ownedTask] at h
  simp only [State.cancelTask, h, hk]

/-! The fault queue's read index (R368, R400). -/

theorem State.modPart_modPart (s : State) (p : Nat) (f g : Partition → Partition) : (s.modPart p f).modPart p g = s.modPart p fun q => g (f q) := by
  have hModify : (s.partitions.modify p f).modify p g = s.partitions.modify p fun q => g (f q) := by
    apply List.ext_getElem?
    intro n
    simp only [List.getElem?_modify]
    by_cases hn : p = n
    · simp only [hn, if_true, Option.map_eq_map, Option.map_map]
      rfl
    · simp [hn]
  simp only [State.modPart, hModify]

/-- With no entry held, software's read index is latched. -/
theorem State.readFaults_of_none {s : State} {p : Nat} (h : (s.part p).fqHeld = []) (v : Nat) :
    s.readFaults p v = s.modPart p fun q => { q with fqRead := v % 2 ^ 32, fqHeld := [] } := by
  have hNone : ((s.modPart p fun q => { q with fqRead := v % 2 ^ 32 }).part p).fqHeld = [] := by
    rcases getD_modify_or s.partitions p (fun q => { q with fqRead := v % 2 ^ 32 }) {} with hEq | hEq
    · exact (congrArg Partition.fqHeld hEq).trans h
    · exact (congrArg Partition.fqHeld hEq).trans h
  rw [State.readFaults, State.flushFaults, hNone, List.foldl_nil, State.modPart_modPart]

/-! The observation commands (R416, R428). -/

section
variable {s : State} {p : Nat} (hBringup : 6 ≤ s.bringup)
include hBringup

theorem State.command_of_bringup (v : Nat) : s.command p v =
    if v = 1 then s.stopAtMark p else if v = 2 then s.resumeAll p else if v = 3 then s.onMarkTask p State.haltTask
    else if v = 4 then s.onMarkTask p State.resumeTask else if v = 5 then s.onMarkTask p fun s t => s.stepTask true t
    else if v = 6 then s.onMarkTask p fun s t => s.stepTask false t else if v = 7 then s.rearm p else s := by
  rw [State.command, if_neg (by omega)]

theorem State.command_stop : s.command p 1 = s.stopAtMark p := State.command_of_bringup hBringup 1
theorem State.command_resume : s.command p 2 = s.resumeAll p := State.command_of_bringup hBringup 2
theorem State.command_haltTask : s.command p 3 = s.onMarkTask p State.haltTask := State.command_of_bringup hBringup 3
theorem State.command_resumeTask : s.command p 4 = s.onMarkTask p State.resumeTask := State.command_of_bringup hBringup 4
theorem State.command_setStep : s.command p 5 = s.onMarkTask p fun s t => s.stepTask true t := State.command_of_bringup hBringup 5
theorem State.command_clearStep : s.command p 6 = s.onMarkTask p fun s t => s.stepTask false t := State.command_of_bringup hBringup 6
theorem State.command_rearm : s.command p 7 = s.rearm p := State.command_of_bringup hBringup 7

end

theorem State.onMarkTask_none {s : State} {p : Nat} (h : s.markTasks p = []) (f : State → Task → State) : s.onMarkTask p f = s.obsResult p 1 := by
  simp only [State.onMarkTask, h]

theorem State.onMarkTask_some {s : State} {p : Nat} (h : s.markTasks p ≠ []) (f : State → Task → State) :
    s.onMarkTask p f = ((s.markTasks p).foldl f s).obsResult p 0 := by
  rw [State.onMarkTask]
  split
  · next hNone => exact absurd hNone h
  · rfl

/-- Only a deterministic partition stops at a mark. -/
theorem State.stopAtMark_of_notDet {s : State} {p : Nat} (h : (s.part p).det = false) : s.stopAtMark p = s.obsResult p 3 := by
  simp only [State.stopAtMark, h, Bool.not_false, if_true]

/-- A mark in an interval whose log is kept is reached by running the interval again. -/
theorem State.stopAtMark_of_log {s : State} {p : Nat} (h : (s.part p).det = true) (hLog : ∃ i ∈ (s.part p).logs, i.number = (s.part p).mark.1) :
    s.stopAtMark p = (s.rollback p (s.part p).mark.1 true).modPart p fun q => { q with
      stopping := some (q.mark.2.1, q.mark.2.2), obsResult := 0 } := by
  have hFound : ((s.part p).logs.find? (·.number == (s.part p).mark.1)).isSome = true := by simpa using hLog
  simp only [State.stopAtMark, h, hFound, Bool.not_true, Bool.false_eq_true, if_false, if_true]

/-- A resumed trace ring starts with a sync group. -/
theorem State.rearm_eq (s : State) (p : Nat) :
    let on : Ring → Ring := fun r => { r with suspended := false }
    let u := s.modPart p fun q => { q with sample := on q.sample, trace := on q.trace, exits := on q.exits, obsResult := 0 }
    s.rearm p = if (s.part p).trace.suspended = true ∧ (s.part p).traces = true then u.syncGroup p else u := by
  simp only [State.rearm, Bool.and_eq_true]

/-! What one input does, by input. -/

section
variable {s : State}

/-- A doorbell and a reset of a partition outside deterministic mode. -/
theorem exec_doorbell {slot : Nat} (hDet : (s.part (s.slotPart slot)).det = false) (v : BitVec 64) :
    exec (.doorbell slot v) s = .next (s.doorbell slot v.toNat) :=
  (exec_external (·.doorbell slot v.toNat) rfl).1 hDet

theorem exec_queueReset {slot : Nat} (hDet : (s.part (s.slotPart slot)).det = false) :
    exec (.queueReset slot) s = .next (s.resetQueue slot) :=
  (exec_external (·.resetQueue slot) rfl).1 hDet

variable {part : Nat} (hDet : (s.part part).det = false)
include hDet

theorem exec_requeue (task : Word) : exec (.requeue part task) s = .next (s.requeue part task) :=
  (exec_external (·.requeue part task) rfl).1 hDet

theorem exec_cancel (task : Word) : exec (.cancel part task) s = .next (s.cancelTask part task) :=
  (exec_external (·.cancelTask part task) rfl).1 hDet

end

/-- Settles O58: every input is exec_external of what it does; what that is in each case is said by the lemmas above. -/
theorem outsideInputsActOrWait : Obligations.OutsideInputsActOrWait := by
  intro part slot op source size task v32 va page qcb value code data desc payload packet s both
  have hMap := exec_external (i := .queueMap slot qcb) (s := s)
    (fun u => if qcb = 0 then u.unmapQueue slot else if u.bringup < 6 then u else u.mapFor slot s.winPartition qcb) rfl
  refine ⟨exec_external (·.pagingDoorbell part) rfl, exec_external (·.requeue part task) rfl, exec_external (·.cancelTask part task) rfl,
    fun h => exec_external _ (inboundAccess_arrives h part source va size data), fun h => inboundAccess_again h part source va size data,
    fun hr h => exec_external _ (pwenqAtTarget_arrives hr h code part desc payload packet), fun h => exec_external _ (pwenqReply_arrives h code page),
    fun r dst d pay pkt w x y c lo hi hr hk hp hc => pwenqReply_served hr hk hp hc code page, exec_external (·.noReply op) rfl,
    hMap, ?refused, exec_external (·.unmapQueue slot) rfl, exec_external (·.resetQueue slot) rfl, exec_external (·.doorbell slot value.toNat) rfl,
    exec_external (·.writeControl part v32) rfl, exec_external (·.command part 1) rfl, exec_external (·.command part 2) rfl,
    exec_external (·.command part 3) rfl, exec_external (·.command part 4) rfl, exec_external (·.command part 5) rfl,
    exec_external (·.command part 6) rfl, exec_external (·.command part 7) rfl, exec_external (·.readFaults part value.toNat) rfl,
    fun h => hostRegisterWrite_package h size value, fun p h => exec_external _ (hostRegisterWrite_partition h size value),
    ?winPartition, ?winBase, ?configCommand, ?registers, ?mapped, ?queue, ?tasks,
    fun hSlot ho hBringup hDet => hostRegisterWrite_doorbell hSlot hBringup hDet ho value, ?observation,
    fun hBringup hDet hLog => (State.command_stop hBringup).trans (State.stopAtMark_of_log hDet hLog)⟩
  case refused =>
    intro hDet hQcb hBringup hBad
    rw [hMap.1 hDet, if_neg hQcb, if_neg (by omega), State.mapFor_refused hBad]
    rfl
  case winPartition =>
    rintro rfl hv
    exact hostRegisterWrite_winPartition hv s
  case winBase =>
    rintro rfl hv
    exact hostRegisterWrite_winBase hv s
  case configCommand =>
    rintro rfl rfl
    exact hostRegisterWrite_configCommand s
  case registers =>
    intro hp hBringup hDet hFree
    refine ⟨fun ho => ?_, fun ho => ?_⟩
    · rw [hostRegisterWrite_root hp hBringup hDet ho, State.writePart_root hFree]
    · rw [hostRegisterWrite_vector hp hBringup hDet ho, State.writePart_vector hFree]
  case mapped =>
    intro hp hBringup hDet hMapped ho
    rw [hostRegisterWrite_root hp hBringup hDet ho, State.writePart_root_mapped hMapped]
  case queue =>
    intro hDet hBringup x v
    rw [exec_doorbell hDet, exec_queueReset hDet]
    refine ⟨fun h => ?_, fun hm ho hFull => ?_, fun hm ho hRoom hf => ?_, fun hm ho hRoom hf => ?_, fun h => ?_, fun h => ?_⟩
    · rw [State.doorbell_ignored h]
    · rw [State.doorbell_beyond hBringup hm ho hFull, BitVec.ofNat_toNat, BitVec.setWidth_eq]
    · rw [State.doorbell_accepted hBringup hm ho hRoom, State.acceptIndex_latched hf]
    · rw [State.doorbell_accepted hBringup hm ho hRoom, State.acceptIndex_written hf]
    · rw [State.resetQueue_unmapped h]
    · rw [State.resetQueue_mapped h]
  case tasks =>
    intro hDet parked owned result again
    rw [exec_requeue hDet, exec_cancel hDet]
    refine ⟨fun h => ?_, fun t g i x y h hk hx => ?_, fun t u bs p h hk hRead => ?_, fun t u o h hk hRead => ?_, fun t h hk hRead => ?_, fun h => ?_,
      fun t h hk hu hg => ?_, fun t g i x y h hk => ?_, (exec_external (·.pagingDoorbell part) rfl).1 hDet, fun hNone => ?_⟩
    · rw [State.requeue_none h]
      rfl
    · rw [State.requeue_node h hk hx]
      rfl
    · rw [State.requeue_ok h hk hRead]
      rfl
    · rw [State.requeue_fails h hk hRead]
      rfl
    · rw [State.requeue_waits h hk hRead]
    · rw [State.cancelTask_none h]
      rfl
    · rw [State.cancelTask_plain h hk hu hg]
      rfl
    · rw [State.cancelTask_node h hk]
      rfl
    · rw [← State.readFaults_of_none hNone]
      exact (exec_external (·.readFaults part value.toNat) rfl).1 hDet
  case observation =>
    intro hBringup hDet
    have hAct {i : Instr} {v : Nat} (he : exec i s = .next (s.external part (.command part v) (·.command part v))) :
        exec i s = .next (s.command part v) := (exec_external _ he).1 hDet
    rw [hAct (i := .resumeThePartition part) (v := 2) rfl, hAct (i := .haltTask part) (v := 3) rfl, hAct (i := .resumeTask part) (v := 4) rfl,
      hAct (i := .setSingleStep part) (v := 5) rfl, hAct (i := .clearSingleStep part) (v := 6) rfl, hAct (i := .stopAtTheMark part) (v := 1) rfl,
      hAct (i := .resumeObservation part) (v := 7) rfl, State.command_resume hBringup, State.command_haltTask hBringup,
      State.command_resumeTask hBringup, State.command_setStep hBringup, State.command_clearStep hBringup, State.command_stop hBringup,
      State.command_rearm hBringup, State.stopAtMark_of_notDet hDet, State.rearm_eq]
    refine ⟨rfl, fun hSome => ?_, fun hNone i hi => ?_, rfl, rfl⟩
    · simp only [State.onMarkTask_some hSome]
      exact ⟨rfl, rfl, rfl, rfl⟩
    · rcases hi with rfl | rfl | rfl | rfl
      · rw [hAct (v := 3) rfl, State.command_haltTask hBringup, State.onMarkTask_none hNone]
        rfl
      · rw [hAct (v := 4) rfl, State.command_resumeTask hBringup, State.onMarkTask_none hNone]
        rfl
      · rw [hAct (v := 5) rfl, State.command_setStep hBringup, State.onMarkTask_none hNone]
        rfl
      · rw [hAct (v := 6) rfl, State.command_clearStep hBringup, State.onMarkTask_none hNone]
        rfl

end Sys2Proof.Machine
end

section
/-! SUPPORT. Packets and events of a queue (R395, R402 to R408, R450): how a packet is taken, begins and completes, and how records and
interrupts are sent. -/

namespace Sys2Proof.Machine

/-! Taking a packet (R395, R404). -/

/-- A packet without a bad field has an aligned signal. -/
theorem signal_aligned {bs : List Byte} (h : packetBad bs = none) : field bs 8 8 % 8 = 0 := by
  simp only [packetBad, Option.map_eq_none_iff, List.find?_eq_none] at h
  simpa using h (8, decide (field bs 8 8 % 8 ≠ 0)) (by simp)

/-- What becomes of a packet after the look at its body. -/
def Taken.result (id : Nat) : Taken → Option State
  | .ok s => some s
  | .launch s d => some (s.endPacket id 1 0 d 0)
  | .wait => none

section
variable {s : State} {slot type : Nat} {pk : Packet} {v : State}

theorem TakesPacket.word_type (h : TakesPacket s slot type pk v) : pk.word 0 1 = type := by
  obtain ⟨bs, -, -, -, -, -, -, rfl, hType, -⟩ := h
  exact hType

/-- A sound packet at the head of a queue is decided by its body. -/
theorem State.tryTake_of_takes (h : TakesPacket s slot type pk v) : s.tryTake slot = (v.body pk).result pk.id := by
  obtain ⟨bs, -, -, -, hNext, hError, hSound, rfl, -, hSignal⟩ := h
  have hAligned : (s.packetOf slot bs).word 8 8 % 8 = 0 := signal_aligned hSound
  have hPart : (s.packetOf slot bs).partition = (s.slot slot).partition := rfl
  simp only [State.tryTake, hNext, Option.bind_some, hError, hSound, hAligned, ne_eq, not_true_eq_false, and_false, if_false, Bool.false_eq_true]
  rcases hSignal with ⟨hNone, rfl⟩ | ⟨hSome, w, hSpan, rfl⟩
  · simp only [hNone, if_true]
    rfl
  · rw [hPart] at hSpan
    simp only [hSome, if_false, hSpan] <;> rfl

/-- The event of a packet's type takes it. -/
theorem State.takePacket_of_takes (h : TakesPacket s slot type pk v) : s.takePacket type slot = (s.tryTake slot).getD s := by
  obtain ⟨bs, hFetching, hPacket, hServed, hNext, -, -, -, hType, -⟩ := h
  simp [State.takePacket, hFetching, hPacket, hServed, hNext, hType]

theorem State.takePacket_ok (h : TakesPacket s slot type pk v) {w : State} (hBody : v.body pk = .ok w) : s.takePacket type slot = w := by
  rw [State.takePacket_of_takes h, State.tryTake_of_takes h, hBody]
  rfl

theorem State.takePacket_launch (h : TakesPacket s slot type pk v) {w : State} {d : DWord} (hBody : v.body pk = .launch w d) :
    s.takePacket type slot = w.endPacket pk.id 1 0 d 0 := by
  rw [State.takePacket_of_takes h, State.tryTake_of_takes h, hBody]
  rfl

end

/-! Bodies (R402, R450). -/

section
variable {s w : State} {pk : Packet} {d : List Byte}

theorem State.body_tree (h : pk.word 0 1 = 1) : s.body pk = s.bodyTree pk := by simp only [State.body, h]
theorem State.body_task (h : pk.word 0 1 = 2) : s.body pk = s.bodyTask pk := by simp only [State.body, h]
theorem State.body_gang (h : pk.word 0 1 = 3) : s.body pk = s.bodyGang pk := by simp only [State.body, h]
theorem State.body_wnode (h : pk.word 0 1 = 7) : s.body pk = s.takeWnode pk := by simp only [State.body, h]

theorem State.body_barrier (h : pk.word 0 1 = 4) : s.body pk = s.needs pk ((List.range 5).filterMap fun i =>
    if pk.word (16 + 8 * i) 8 = 0 then none else some (16 + 8 * i, pk.word (16 + 8 * i) 8, 8, true, false)) := by
  simp only [State.body, h]

theorem State.body_copy (h : pk.word 0 1 = 5) : s.body pk =
    s.needs pk [(16, pk.word 16 8, pk.word 32 8, true, false), (24, pk.word 24 8, pk.word 32 8, false, true)] := by
  simp only [State.body, h]

theorem State.body_signal (h : pk.word 0 1 = 6) : s.body pk = s.needs pk [(16, pk.word 16 8, 8, false, true)] := by
  simp only [State.body, h]

theorem State.body_measure (h : pk.word 0 1 = 8) : s.body pk =
    s.needs pk [(16, pk.word 16 8, 128, true, false), (24, pk.word 24 8, 48, false, true)] := by
  simp only [State.body, h]

theorem State.body_nop (h : pk.word 0 1 = 9) : s.body pk = .ok s := by simp only [State.body, h]

/-- A sound descriptor of a TREE packet sets up its grid and the task of its Lathe. -/
theorem State.bodyTree_sound (hAligned : pk.word 16 8 % 64 = 0) (hDesc : s.get pk.partition (pk.word 16 8) 128 = .bytes w d)
    (hHead : descHeadBad d false = false) (hTail : descTailBad d = false) (hDies : w.gridDies pk.partition d ≠ [])
    (hSegments : ceilDiv (field d 64 8) 64 * 64 = 0 ∨ segmentsOf d (ceilDiv (field d 64 8) 64 * 64) (w.gridDies pk.partition d).length ≠ 0) :
    s.bodyTree pk = .ok (({ w with
      fresh := w.fresh + 2
      grids := w.grids ++ [{
        id := w.fresh, packet := pk.id, partition := pk.partition, desc := d, arg := BitVec.ofNat 64 (pk.word 24 8), sweep := 0
        stride := ceilDiv (field d 64 8) 64 * 64
        segments := segmentsOf d (ceilDiv (field d 64 8) 64 * 64) (w.gridDies pk.partition d).length, dieSet := w.gridDies pk.partition d }]
      tasks := w.tasks ++ [{
        id := w.fresh + 1, tid := 0, partition := pk.partition, cls := pk.cls, packet := pk.id, kind := .lathe w.fresh, index := 0, tcb := 0
        arg := 0, order := pk.id, program := { codeBase := field d 96 8, codeLen := field d 104 4, ranges := gridRanges d } }] } : State).modPacket
      pk.id fun x => { x with left := 1 }) := by
  have hNoDies : (w.gridDies pk.partition d).isEmpty = false := by simpa using hDies
  have hFits : (decide (0 < ceilDiv (field d 64 8) 64 * 64) &&
      segmentsOf d (ceilDiv (field d 64 8) 64 * 64) (w.gridDies pk.partition d).length == 0) = false := by
    rcases hSegments with h | h
    · simp [h]
    · simp [h]
  rw [State.bodyTree]
  simp only [hAligned, ne_eq, not_true_eq_false, if_false, hDesc, hHead, hTail, hNoDies, hFits, Bool.or_self, Bool.false_eq_true]

/-- A TASK packet whose TCB is read adds its tasks. -/
theorem State.bodyTask_read {tb : List Byte} {p : Program} {y : State} {deps : List Nat} {unit : Option (Nat × Nat × Nat)}
    (hRead : s.readTcb pk.partition (BitVec.ofNat 64 (pk.word 16 8)) (BitVec.ofNat 64 (pk.word 24 8)) none = .ok w tb p)
    (hUnit : w.trackUnit pk p.tracked p.ranges = some (y, deps, unit)) :
    s.bodyTask pk = .ok (((List.range p.blocks).foldl (fun u i => u.addTask pk .plain i (BitVec.ofNat 64 (pk.word 16 8)) p
      (BitVec.ofNat 64 (pk.word 24 8)) deps unit none (launchAcq deps pk.acq)) y).modPacket pk.id fun x => { x with left := p.blocks }) := by
  rw [State.bodyTask]
  simp only [hRead, hUnit]

/-- The tasks of a gang's members are added in order. -/
def State.addMembers (s : State) (pk : Packet) (ms : List (DWord × Program)) (deps : List Nat) (unit : Option (Nat × Nat × Nat)) (g : Nat) : State :=
  (List.range ms.length).foldl (fun u i => match ms[i]? with
    | some x => u.addTask pk .plain 0 x.1 x.2 (BitVec.ofNat 64 (pk.word 24 8)) deps unit (some (g, i)) (launchAcq deps pk.acq)
    | none => u) s

/-- A GANG packet whose members' TCBs are read adds their tasks and the gang. -/
theorem State.bodyGang_read {x y : State} {ms : List (DWord × Program)} {deps : List Nat} {unit : Option (Nat × Nat × Nat)}
    (hAligned : pk.word 16 8 % 64 = 0) (hDesc : s.get pk.partition (pk.word 16 8) 128 = .bytes w d) (hHead : gangHeadBad d = none)
    (hMembers : w.readMembers pk.partition (BitVec.ofNat 64 (pk.word 24 8))
      ((List.range (field d 0 1)).map fun i => (i, BitVec.ofNat 64 (field d (8 + 8 * i) 8))) = .ok (x, ms))
    (hTail : gangTailBad d ms = none) (hQuads : (x.part pk.partition).quads ≠ [])
    (hUnit : x.trackUnit pk (ms.all (·.2.tracked)) (ms.flatMap (·.2.ranges)) = some (y, deps, unit)) :
    s.bodyGang pk = .ok (({ y.next.addMembers pk ms deps unit y.fresh with
      gangs := (y.next.addMembers pk ms deps unit y.fresh).gangs ++ [{
        id := y.fresh, partition := pk.partition
        tasks := ((y.next.addMembers pk ms deps unit y.fresh).tasks.filter fun t => (t.gang.map Prod.fst) == some y.fresh).map (·.id)
        pipes := gangPipes d, bars := ms.map (·.2.bars) }] } : State).modPacket pk.id fun x => { x with left := ms.length }) := by
  have hQuads' : (x.part pk.partition).quads.isEmpty = false := by simpa using hQuads
  rw [State.bodyGang]
  simp only [hAligned, if_true, hDesc, hHead, hMembers, hTail, hQuads', Bool.false_eq_true, if_false, hUnit] <;> rfl

/-- A WNODE packet that removes a node reads no TCB. -/
theorem State.takeWnode_removal (h : pk.word 16 8 = 0) : s.takeWnode pk = .ok s := by rw [State.takeWnode, if_pos h]

/-- One that installs a node keeps its program, which needs 16 registers. -/
theorem State.takeWnode_small {bs : List Byte} {p : Program} (h : pk.word 16 8 ≠ 0)
    (hRead : s.readTcb pk.partition (BitVec.ofNat 64 (pk.word 16 8)) 0 none = .ok w bs p) (hRegs : p.regs < 16) :
    s.takeWnode pk = .launch w 30 := by
  simp only [State.takeWnode, if_neg h, hRead, if_pos hRegs]

theorem State.takeWnode_kept {bs : List Byte} {p : Program} (h : pk.word 16 8 ≠ 0)
    (hRead : s.readTcb pk.partition (BitVec.ofNat 64 (pk.word 16 8)) 0 none = .ok w bs p) (hRegs : ¬ p.regs < 16) :
    s.takeWnode pk = .ok (w.modPacket pk.id fun x => { x with wnode := some p }) := by
  simp only [State.takeWnode, if_neg h, hRead, if_neg hRegs]

end

/-! A packet begins (R402, R404). -/

/-- Where no other partition is deterministic, a signal is stored or added to at its address's home at once. -/
theorem State.signalAt_home {s : State} {p : Nat} (h : ∀ d < 8, d ≠ p → (s.part d).det = false) (pa : Nat) (add : Bool) (v : Nat) :
    s.signalAt p pa add v = s.signalHome p pa add v := by
  have hNone : ((List.range 8).find? fun d => d ≠ p && (s.part d).det && s.partMem d pa) = none := by
    rw [List.find?_eq_none]
    intro d hd
    by_cases hp : d = p
    · simp [hp]
    · simp [h d (List.mem_range.mp hd) hp]
  rw [State.signalAt, hNone]

section
variable {s : State} {pk : Packet}

theorem State.begin_copy (h : pk.word 0 1 = 5) : s.begin pk = some ((s.modPacket pk.id fun x => { x with started := true }).copyPacket pk) := by
  simp only [State.begin, h]

theorem State.begin_signal (h : pk.word 0 1 = 6)
    (hFree : (s.modPacket pk.id fun x => { x with started := true }).headWaits pk.partition (pk.word 16 8) = false) :
    s.begin pk = some ((s.modPacket pk.id fun x => { x with started := true }).signalPacket pk) := by
  simp only [State.begin, h, hFree, Bool.false_eq_true, if_false]

theorem State.begin_wnode_ok {u : State} (h : pk.word 0 1 = 7)
    (hBody : (s.modPacket pk.id fun x => { x with started := true }).bodyWnode pk = .ok u) : s.begin pk = some u := by
  simp only [State.begin, h, hBody]

theorem State.begin_wnode_launch {u : State} {d : DWord} (h : pk.word 0 1 = 7)
    (hBody : (s.modPacket pk.id fun x => { x with started := true }).bodyWnode pk = .launch u d) :
    s.begin pk = some (u.endPacket pk.id 1 0 d 0) := by
  simp only [State.begin, h, hBody]

theorem State.begin_nop (h : pk.word 0 1 = 9) :
    s.begin pk = some ((s.modPacket pk.id fun x => { x with started := true }).endPacket pk.id 0 0 0 0) := by
  simp only [State.begin, h]

/-- The signal of a SIGNAL packet: a store, or an addition. -/
theorem State.signalPacket_of {pa : Nat} (hDet : ∀ d < 8, d ≠ pk.partition → (s.part d).det = false)
    (hPa : s.vpa pk.partition (pk.word 16 8) true = some pa) :
    s.signalPacket pk = (s.headStore pk.partition pa (leBytes 8 (if pk.word 32 1 = 0 then pk.word 24 8
      else (leNat (readBytes s.mem pa 8) + pk.word 24 8) % 2 ^ 64))).endPacket pk.id 0 0 0 0 := by
  simp only [State.signalPacket, hPa, State.signalAt_home hDet, State.signalHome]
  by_cases hStore : pk.word 32 1 = 0
  · simp [hStore]
  · simp [hStore]

/-- The removal of a node that is not there, and of one that is. -/
theorem State.bodyWnode_unknown (h : pk.word 16 8 = 0)
    (hNode : (s.wnodes.find? fun n => n.die == pk.word 28 1 && n.index == pk.word 24 1 && n.partition == pk.partition) = none) :
    s.bodyWnode pk = .ok (s.endPacket pk.id 0 0 0 0) := by
  simp only [State.bodyWnode, h, if_true, hNode]

theorem State.bodyWnode_removal {n : WNode} (h : pk.word 16 8 = 0)
    (hNode : (s.wnodes.find? fun n => n.die == pk.word 28 1 && n.index == pk.word 24 1 && n.partition == pk.partition) = some n) :
    s.bodyWnode pk = .ok { s with wnodes := upd s.wnodes (·.id == n.id) fun n => { n with removing := some pk.id } } := by
  simp only [State.bodyWnode, h, if_true, hNode]

/-- The installation of a node whose index is taken, and of one whose index is free. -/
theorem State.bodyWnode_taken (h : pk.word 16 8 ≠ 0)
    (hNode : (s.wnodes.any fun n => n.die == pk.word 28 1 && n.index == pk.word 24 1) = true) : s.bodyWnode pk = .launch s 24 := by
  simp only [State.bodyWnode, h, if_false, hNode, if_true]

theorem State.bodyWnode_free {p : Program} (h : pk.word 16 8 ≠ 0)
    (hNode : (s.wnodes.any fun n => n.die == pk.word 28 1 && n.index == pk.word 24 1) = false) (hProgram : pk.wnode = some p) :
    s.bodyWnode pk = .ok { s with
      wnodes := s.wnodes ++ [{
        id := s.fresh, die := pk.word 28 1, index := pk.word 24 1, partition := pk.partition, tcb := BitVec.ofNat 64 (pk.word 16 8)
        words := pk.word 25 1, timer := pk.word 26 2, program := p, xlat := [], packet := pk.id, cls := pk.cls, priv := pk.priv }]
      tasks := s.tasks ++ [{
        id := s.fresh + 1, tid := 0, partition := pk.partition, cls := pk.cls, packet := pk.id, kind := .install s.fresh, index := 0
        tcb := BitVec.ofNat 64 (pk.word 16 8), program := p, arg := 0, order := pk.id }]
      fresh := s.fresh + 2 } := by
  simp only [State.bodyWnode, h, if_false, hNode, Bool.false_eq_true, hProgram]

/-- A BARRIER whose signals all read 0 is over. -/
theorem State.checkBarrier_zero
    (h : ∀ i < 5, pk.word (16 + 8 * i) 8 ≠ 0 → (s.vread pk.partition (pk.word (16 + 8 * i) 8) 8).map leNat = some 0) :
    s.checkBarrier pk = s.endPacket pk.id 0 0 0 0 := by
  have hZero : ∀ v ∈ (List.range 5).filterMap (fun i => if pk.word (16 + 8 * i) 8 = 0 then none else
      (s.vread pk.partition (pk.word (16 + 8 * i) 8) 8).map leNat), v = 0 := by
    intro v hv
    obtain ⟨i, hi, hSome⟩ := List.mem_filterMap.mp hv
    split at hSome
    · cases hSome
    · next hNamed => exact (Option.some.inj ((h i (List.mem_range.mp hi) hNamed).symm.trans hSome)).symm
  rw [State.checkBarrier, if_neg, if_pos]
  · exact List.all_eq_true.mpr fun v hv => by rw [hZero v hv]; rfl
  · rw [List.any_eq_true]
    rintro ⟨v, hv, hBig⟩
    rw [hZero v hv] at hBig
    exact absurd hBig (by decide)

end

/-! Completion, records and interrupts (R404 to R408). -/

theorem exec_packetCompletion (op : Nat) (s : State) : exec (.packetCompletion op) s = execPacketCompletion op s := by rfl
theorem exec_interruptCoalesceTimeout (p : Nat) (s : State) : exec (.interruptCoalesceTimeout p) s = execInterruptCoalesceTimeout p s := by rfl

section
variable {s : State} {op : Nat} {pk : Packet} {st : Nat × Nat × DWord × Nat} (hPacket : s.packet? op = some pk) (hStatus : pk.status = some st)
include hPacket hStatus

theorem packetCompletion_waits (hLeft : 0 < pk.left) : exec (.packetCompletion op) s = .next s := by
  simp only [exec_packetCompletion, execPacketCompletion, hPacket, hStatus, hLeft, decide_true, Bool.true_or, if_true]

theorem packetCompletion_completes (hLeft : pk.left = 0) (hBack : s.heldBack pk = false) (hFetching : s.fetching = true) (hGap : pk.gap = false)
    (hFree : pk.word 8 8 = 0 ∨ s.headWaits pk.partition (pk.word 8 8) = false) : exec (.packetCompletion op) s = .next (s.complete pk st) := by
  have hSignal : (decide (pk.word 8 8 ≠ 0) && s.headWaits pk.partition (pk.word 8 8)) = false := by
    rcases hFree with h | h
    · simp [h]
    · simp [h]
  simp only [exec_packetCompletion, execPacketCompletion, hPacket, hStatus, hLeft, hBack, hFetching, hGap, hSignal, Nat.lt_irrefl, decide_false,
    Bool.false_and, Bool.or_self, Bool.not_true, Bool.false_eq_true, if_false]

end

/-- A packet's signal: −1 added on status 0, else stored. -/
theorem State.updateSignal_of {s : State} {pk : Packet} (hDet : ∀ d < 8, d ≠ pk.partition → (s.part d).det = false) (status : Nat) :
    s.updateSignal pk status = if pk.word 8 8 = 0 ∨ pk.signalOk = false then s else match s.vpa pk.partition (pk.word 8 8) true with
      | none => s
      | some pa => s.headStore pk.partition pa (leBytes 8 (if status = 0 then (leNat (readBytes s.mem pa 8) + (2 ^ 64 - 1)) % 2 ^ 64
          else 2 ^ 64 - 1)) := by
  simp only [State.updateSignal, State.signalAt_home hDet, State.signalHome, Bool.not_eq_true', decide_eq_true_eq] <;> rfl

/-- The one record that is held is written where there is room. -/
theorem State.flushEvents_one {s u : State} {p : Nat} {rec : List Byte} (hHeld : (s.part p).evHeld = [rec]) (hRoom : (s.part p).evRoom = true)
    (hStore : s.vstore p ((s.part p).evBase.toNat + 32 * ((s.part p).evWrite % (s.part p).evSize)) rec (some 3) = some u) :
    s.flushEvents p = (u.modPart p fun q => { q with evWrite := (q.evWrite + 1) % 2 ^ 32 }).modPart p fun q => { q with evHeld := q.evHeld.drop 1 } := by
  simp only [State.flushEvents, hHeld, List.foldl_cons, List.foldl_nil, hRoom, if_true, State.evWriteRec, hStore]

theorem interruptCoalesceTimeout_sends {s : State} {p c : Nat} (hOldest : (s.part p).evOldest = some c) (hPending : 0 < (s.part p).evPending)
    (hDue : c + 1050 * (s.part p).coalesceT ≤ s.clk) : exec (.interruptCoalesceTimeout p) s =
      .next ((s.modPart p fun q => { q with evPending := 0, evOldest := none }).msix (s.part p).vectorNo) := by
  simp only [exec_interruptCoalesceTimeout, execInterruptCoalesceTimeout, hOldest, hPending, hDue, and_self, if_true]

/-- An unmasked vector delivers its pending message. -/
theorem State.unmask_eq (s : State) (v : Nat) : s.unmask v = { s with
    msixOpen := distinct (v :: s.msixOpen), msixPending := s.msixPending.filter fun x => !(x == v)
    out := if s.msixPending.contains v = true then s.out ++ [.msix v] else s.out } := by
  have hOpen : (distinct (v :: s.msixOpen)).contains v = true := by
    rw [List.contains_iff_mem, mem_distinct]
    exact List.mem_cons_self
  simp only [State.unmask, State.msix, hOpen, Bool.not_true, Bool.false_eq_true, if_false]
  split <;> rfl

/-- Settles O57: a packet is taken as its body decides (State.takePacket_ok), and begins and completes by the lemmas above. -/
theorem queueEventsTakeEffect : Obligations.QueueEventsTakeEffect := by
  intro slot op part v s
  have hTakes {type : Nat} {pk : Packet} {u w : State} (h : TakesPacket s slot type pk u) (hBody : u.body pk = .ok w) {i : Instr}
      (hi : exec i s = .next (s.takePacket type slot)) : exec i s = .next w := by rw [hi, State.takePacket_ok h hBody]
  refine ⟨rfl, rfl, rfl, rfl, rfl, rfl, rfl, rfl, rfl, ?tree, ?task, ?gang, ?barrier, ?copy, ?signal, ?removal, ?wnode, ?measure, ?nop, ?begins,
    fun _ _ _ _ _ hPacket hStatus hLeft => packetCompletion_waits hPacket hStatus hLeft, ?completes, rfl, ?flush, rfl, ?timeout, rfl, ?unmask⟩
  case tree =>
    intro pk u h hAligned w d hDesc dies stride hHead hTail hDies hSegments
    exact hTakes h ((State.body_tree h.word_type).trans (State.bodyTree_sound hAligned hDesc hHead hTail hDies hSegments)) rfl
  case task =>
    intro pk u h w tb p y deps unit tcb arg hRead hUnit
    exact hTakes h ((State.body_task h.word_type).trans (State.bodyTask_read hRead hUnit)) rfl
  case gang =>
    intro pk u h hAligned w d x ms y deps unit arg pipes hDesc hHead hMembers hTail hQuads hUnit
    exact hTakes h ((State.body_gang h.word_type).trans (State.bodyGang_read hAligned hDesc hHead hMembers hTail hQuads hUnit)) rfl
  case barrier => exact fun pk u w h hNeeds => hTakes h ((State.body_barrier h.word_type).trans hNeeds) rfl
  case copy => exact fun pk u w h hNeeds => hTakes h ((State.body_copy h.word_type).trans hNeeds) rfl
  case signal => exact fun pk u w h hNeeds => hTakes h ((State.body_signal h.word_type).trans hNeeds) rfl
  case measure => exact fun pk u w h hNeeds => hTakes h ((State.body_measure h.word_type).trans hNeeds) rfl
  case nop => exact fun pk u h => hTakes h (State.body_nop h.word_type) rfl
  case removal => exact fun pk u h hNone => hTakes h ((State.body_wnode h.word_type).trans (State.takeWnode_removal hNone)) rfl
  case wnode =>
    intro pk u w bs p h hSome hRead
    by_cases hRegs : p.regs < 16
    · rw [if_pos hRegs, ← State.takePacket_launch h ((State.body_wnode h.word_type).trans (State.takeWnode_small hSome hRead hRegs))]
      rfl
    · rw [if_neg hRegs]
      exact hTakes h ((State.body_wnode h.word_type).trans (State.takeWnode_kept hSome hRead hRegs)) rfl
  case begins =>
    intro pk u
    refine ⟨fun h hSize => ?_, fun pa h hDet hFree hPa => ?_, fun h hNone hNode => State.begin_wnode_ok h (State.bodyWnode_unknown hNone hNode),
      fun n h hNone hNode => State.begin_wnode_ok h (State.bodyWnode_removal hNone hNode),
      fun h hSome hNode => State.begin_wnode_launch h (State.bodyWnode_taken hSome hNode),
      fun p h hSome hNode hProgram => State.begin_wnode_ok h (State.bodyWnode_free hSome hNode hProgram), State.begin_nop, State.checkBarrier_zero⟩
    · rw [State.begin_copy h, State.copyPacket, if_neg hSize]
      rfl
    · rw [State.begin_signal h hFree]
      exact congrArg some (State.signalPacket_of hDet hPa)
  case completes =>
    intro pk status cause detail task hPacket hStatus hLeft hBack hFetching hGap hFree hDet u w
    rw [packetCompletion_completes hPacket hStatus hLeft hBack hFetching hGap hFree]
    simp only [State.complete, State.updateSignal_of hDet, hGap, Bool.false_eq_true, if_false, Bool.not_eq_true'] <;> rfl
  case flush =>
    intro rec u hHeld hRoom hStore
    rw [← State.flushEvents_one hHeld hRoom hStore]
    rfl
  case timeout => exact fun c hOldest hPending hDue => interruptCoalesceTimeout_sends hOldest hPending hDue
  case unmask =>
    rw [← State.unmask_eq]
    rfl

end Sys2Proof.Machine
end

section
/-! SUPPORT. The package's device (R430, R433 to R435, R437, R438, R440, R441): the test port, power, the monitors, attestation, and bring-up. -/

namespace Sys2Proof.Machine

theorem exec_freezeRegisterWrite (value : BitVec 32) (s : State) : exec (.freezeRegisterWrite value) s = execFreezeRegisterWrite value s := by rfl
theorem exec_read (s : State) : exec .read s = execRead s := by rfl
theorem exec_powerOverage (s : State) : exec .powerOverage s = execPowerOverage s := by rfl
theorem exec_powerFallsBelowCap (s : State) : exec .powerFallsBelowCap s = execPowerFallsBelowCap s := by rfl
theorem exec_monitorRefresh (die : Nat) (s : State) : exec (.monitorRefresh die) s = execMonitorRefresh die s := by rfl
theorem exec_hottestReadingRead (die : Nat) (s : State) : exec (.hottestReadingRead die) s = execHottestReadingRead die s := by rfl
theorem exec_thermalRestore (s : State) : exec .thermalRestore s = execThermalRestore s := by rfl
theorem exec_voltageStop (s : State) : exec .voltageStop s = execVoltageStop s := by rfl
theorem exec_attestationChallenge (c : List (BitVec 8)) (s : State) : exec (.attestationChallenge c) s = .next (s.attest c) := by rfl
theorem exec_bringupStep (s : State) : exec .bringupStep s = execBringupStep s := by rfl

section
variable {s : State}

/-! Freeze and the test port (R430). -/

theorem freezeRegisterWrite_other {value : BitVec 32} (h : value ≠ 1) : exec (.freezeRegisterWrite value) s = .next s := by
  rw [exec_freezeRegisterWrite, execFreezeRegisterWrite, if_neg h]

theorem read_frozen (h : s.frozen = true) : exec .read s = .next { s.drawn with
    jtagInstr := 0x41, jtagWord := s.jtagWord + 1
    out := s.out ++ [.jtag ((List.range 8).map fun i =>
      ((s.unitBytes.drop (8 * s.jtagWord)).take 8).getD i (Config.freeByte s.draw i))] } := by
  simp only [exec_read, execRead, h, Bool.not_true, Bool.false_eq_true, if_false]

theorem read_running (h : s.frozen = false) : exec .read s = .next { s with jtagInstr := 0x41 } := by
  simp only [exec_read, execRead, h, Bool.not_false, if_true]

/-- A slice reads as its lines and the copies that it keeps. -/
theorem State.unitBytes_slice (h : s.jtagUnit.toNat / 1024 % 2 = 1) : s.unitBytes =
    ((s.lines.filter fun x => homeDie (64 * x.line) == s.jtagUnit.toNat % 4 && homeSlice (64 * x.line) == s.jtagUnit.toNat / 4 % 256).flatMap
      fun x => leBytes 8 (64 * x.line) ++ s.lineData x.line) ++
    (((s.die (s.jtagUnit.toNat % 4)).copies.filter fun k => homeSlice (64 * k.line) == s.jtagUnit.toNat / 4 % 256).flatMap
      fun k => leBytes 8 (64 * k.line) ++ k.data) := by
  have hSlice : bit s.jtagUnit.toNat 10 = true := by simp [bit, h]
  simp [State.unitBytes, hSlice, bits]

/-- A core reads as its resident blocks. -/
theorem State.unitBytes_core (h : s.jtagUnit.toNat / 1024 % 2 = 0) : s.unitBytes =
    ((s.blocks.filter fun k => k.core == 160 * (s.jtagUnit.toNat % 4) + s.jtagUnit.toNat / 4 % 256).map s.savedOf).flatMap
      fun x => x.record (s.tidOf x) s.draw := by
  have hCore : bit s.jtagUnit.toNat 10 = false := by simp [bit, h]
  simp [State.unitBytes, hCore, bits]

/-! Power (R433). -/

/-- P falls while power is above the cap. -/
theorem powerOverage_due {c : Nat} (h : s.overSince = some c) (hDue : c + 11550000 ≤ s.clk) :
    exec .powerOverage s = .next (if s.effCap < min 1800 (Config.modulePower s.clk) then
      (({ s.drawn with overSince := some (s.clk - 10500000) } : State).newPool (max 256 (s.target - (s.target + Config.pick s.draw % 8) / 8)))
      else s) := by
  have hLate : ¬ s.clk < c + 11550000 := by omega
  by_cases hOver : s.effCap < min 1800 (Config.modulePower s.clk)
  · simp [exec_powerOverage, execPowerOverage, h, hLate, State.overCap, State.modulePower, hOver]
  · simp [exec_powerOverage, execPowerOverage, h, hLate, State.overCap, State.modulePower, hOver]

theorem powerFallsBelowCap_restores (hPower : min 1800 (Config.modulePower s.clk) < s.effCap) (hTarget : s.target ≠ poolOf s.effCap) :
    exec .powerFallsBelowCap s = .next (({ s with overSince := none } : State).newPool (poolOf s.effCap)) := by
  rw [exec_powerFallsBelowCap, execPowerFallsBelowCap, if_pos ⟨hPower, hTarget⟩]

/-! Monitors (R434, R435). -/

theorem monitorRefresh_due {die : Nat} (hDie : die ≤ 3) (hDue : (s.die die).refreshClk + 105000 ≤ s.clk) : exec (.monitorRefresh die) s =
    .next (((s.readMonitors die).modDie die fun d => { d with refreshClk := s.clk }).actOnReadings die) := by
  have hEarly : ¬ (3 < die ∨ (0 < (s.die die).refresh ∧ s.clk < (s.die die).refreshClk + 105000)) := by omega
  rw [exec_monitorRefresh, execMonitorRefresh, if_neg hEarly]

theorem hottestReadingRead_of_die {die : Nat} (h : die ≤ 3) : exec (.hottestReadingRead die) s = .next (s.readHottest die) := by
  rw [exec_hottestReadingRead, execHottestReadingRead, if_neg (by omega)]

theorem State.readHottest_some {die : Nat} {v : BitVec 16} (h : (s.die die).hottest = some v) : s.readHottest die = ({ s.drawn with
    out := s.out ++ [Message.window (0x14048 + 256 * die) (leBytes 2 v.toNat)] } : State).modDie die fun d => { d with hottest := none } := by
  simp only [State.readHottest, h, Option.getD_some]

theorem thermalRestore_due {c : Nat} (h : s.coolSince = some c) (hDue : c + 105000000 ≤ s.clk) (hThrottled : s.throttled = true) :
    let t : State := { s.drawn with dies := s.dies.map fun d => { d with throttled := false }, effCap := s.cap }
    exec .thermalRestore s = .next ((t.newPool (poolOf s.cap)).moduleEvent (Config.pick s.draw % 4) (Config.pick s.draw / 4 % 24) 0 1) := by
  have hLate : ¬ s.clk < c + 105000000 := by omega
  simp only [exec_thermalRestore, execThermalRestore, h, hLate, hThrottled, Bool.not_true, Bool.false_eq_true, or_self, if_false]

theorem voltageStop_some {d i : Nat} (h : s.voltageOut = some (d, i)) :
    exec .voltageStop s = .next (((s.modDie d fun x => { x with shutDown := true }).moduleEvent d i 1 2).freeze) := by
  simp only [exec_voltageStop, execVoltageStop, h]

theorem voltageStop_none (h : s.voltageOut = none) : exec .voltageStop s = .next s := by simp only [exec_voltageStop, execVoltageStop, h]

/-- A monitor that stops the module has been out of its range for 1 ms. -/
theorem State.voltageOut_some {d i : Nat} (h : s.voltageOut = some (d, i)) :
    ∃ c, (s.die d).voltSince.getD i none = some c ∧ c + 1050000 ≤ s.clk := by
  have hOut := List.find?_some h
  cases hSince : (s.die d).voltSince.getD i none with
  | none => simp only [hSince, Bool.false_eq_true] at hOut
  | some c => exact ⟨c, rfl, by simpa only [hSince, decide_eq_true_eq] using hOut⟩

/-- While none has, nothing stops. -/
theorem State.voltageOut_none (h : ∀ d < 4, ∀ i < 8, ∀ c, (s.die d).voltSince.getD i none = some c → s.clk < c + 1050000) :
    s.voltageOut = none := by
  rw [State.voltageOut, List.find?_eq_none]
  intro x hx
  obtain ⟨d, hd, hx⟩ := List.mem_flatMap.mp hx
  obtain ⟨i, hi, rfl⟩ := List.mem_map.mp hx
  cases hSince : (s.die d).voltSince.getD i none with
  | none => simp only [Bool.false_eq_true, not_false_eq_true]
  | some c =>
    have hLate := h d (List.mem_range.mp hd) i (List.mem_range.mp hi) c hSince
    simp only [decide_eq_true_eq]
    omega

/-! Attestation (R440, R441). -/

section
variable {c : List (BitVec 8)}

theorem State.attest_ignored (h : s.bringup < 5 ∨ c.length ≠ 32) : s.attest c = s := by rw [State.attest, if_pos h]

variable (hBringup : 5 ≤ s.bringup) (hLength : c.length = 32)
include hBringup hLength

theorem State.attest_taken : s.attest c = if s.signing.isSome then { s with challenges := s.challenges ++ [c] } else s.beginReport c := by
  rw [State.attest, if_neg (by omega)]

theorem State.attest_waits (h : s.signing.isSome = true) : s.attest c = { s with challenges := s.challenges ++ [c] } := by
  rw [State.attest_taken hBringup hLength, if_pos h]

theorem State.attest_begins (h : s.signing = none) : s.attest c = s.beginReport c := by
  rw [State.attest_taken hBringup hLength, if_neg (by simp [h])]

end

theorem State.beginSign_left (h : s.signIdx < 2 ^ 20) (c : Option (List Byte)) :
    s.beginSign c = some { s with signIdx := s.signIdx + 1, signing := some (s.signIdx, c) } := by
  rw [State.beginSign, if_neg (by omega)]

theorem State.beginSign_used (h : 2 ^ 20 ≤ s.signIdx) (c : Option (List Byte)) : s.beginSign c = none := by
  rw [State.beginSign, if_pos h]

/-- A report takes the next signature, or completes without one. -/
theorem State.beginReport_left (h : s.signIdx < 2 ^ 20) (c : List Byte) : s.beginReport c = { s with
    challenge := c, report := [], reportStatus := 0, signIdx := s.signIdx + 1, signing := some (s.signIdx, some c) } := by
  rw [State.beginReport, State.beginSign_left (s := { s with challenge := c, report := [], reportStatus := 0 }) h, Option.getD_some]

theorem State.beginReport_used (h : 2 ^ 20 ≤ s.signIdx) (c : List Byte) :
    s.beginReport c = { s with challenge := c, report := [], reportStatus := 0xFFFF0000 } := by
  rw [State.beginReport, State.beginSign_used (s := { s with challenge := c, report := [], reportStatus := 0 }) h, Option.getD_none]

/-- The released signature makes a challenge's report ready, or signs the identity. -/
theorem State.release_report {n : Nat} {c : List Byte} (h : s.signing = some (n, some c)) (hNone : s.challenges = []) :
    s.release = { s with signing := none, report := s.reportOf c n, reportStatus := 1 } := by
  simp only [State.release, h, hNone]

theorem State.release_identity {n : Nat} (h : s.signing = some (n, none)) : s.release = { s with
    signing := none, idCovered := idCovers, idSignature := (Config.signature n idCovers).take 4096, bringup := max 5 s.bringup } := by
  simp only [State.release, h]

/-! Bring-up (R437, R438). -/

theorem bringupStep_one (h : s.bringup = 1) : exec .bringupStep s = .next { s with bringup := 2 } := by
  simp only [exec_bringupStep, execBringupStep, h]

theorem bringupStep_two (h : s.bringup = 2) : exec .bringupStep s =
    .next (if Config.imageSound 0 && Config.imageSound 1 && Config.imageSound 2 && Config.imageSound 3 then { s.drawn with
      bringup := 3, leaderDie := Config.pick s.draw % 4, leaderValid := true, epoch := (s.epoch + 1) % 2 ^ 29
      expiry := s.time 0 + 1000000 } else s) := by
  have hImages : (List.range 4).all Config.imageSound =
      (Config.imageSound 0 && Config.imageSound 1 && Config.imageSound 2 && Config.imageSound 3) := by
    show (Config.imageSound 0 && (Config.imageSound 1 && (Config.imageSound 2 && (Config.imageSound 3 && true)))) = _
    simp only [Bool.and_true, Bool.and_assoc]
  simp only [exec_bringupStep, execBringupStep, h, hImages]

theorem bringupStep_three (h : s.bringup = 3) : exec .bringupStep s = .next { s with bringup := 4, pkg := Config.topology % 512 } := by
  simp only [exec_bringupStep, execBringupStep, h]

theorem bringupStep_five (h : s.bringup = 5) : exec .bringupStep s = .next { s with
    bringup := 6, draw := s.draw + 16
    dies := s.dies.mapIdx fun d x => { x with
      backoff := max 4 (min 4096 (Config.backoffBase d))
      combinerCores := pickSome (s.draw + 4 * d) 4 ((List.range 160).map (160 * d + ·)) } } := by
  simp only [exec_bringupStep, execBringupStep, h]

section
variable (h : s.bringup = 4) (hSigning : s.signing = none)
include h hSigning

/-- Step 4 ends with the stored signature where it covers the identity as it stands. -/
theorem bringupStep_signed (hCovered : s.idCovered = idCovers) (hSigned : s.idSignature ≠ []) :
    exec .bringupStep s = .next { s with bringup := 5 } := by
  simp [exec_bringupStep, execBringupStep, h, hSigning, hCovered, hSigned]

/-- Else a signature is begun. -/
theorem bringupStep_unsigned (hStale : s.idCovered ≠ idCovers ∨ s.idSignature = []) :
    exec .bringupStep s = .next ((s.beginSign none).getD { s with bringup := 5 }) := by
  have hStale' : ¬ (s.idCovered = idCovers ∧ (!s.idSignature.isEmpty) = true) := by
    rintro ⟨hCovered, hSigned⟩
    rcases hStale with hOther | hEmpty
    · exact hOther hCovered
    · simp [hEmpty] at hSigned
  simp only [exec_bringupStep, execBringupStep, h, hSigning, Option.isSome_none, Bool.false_eq_true, if_false, hStale']

end

end

/-- Settles O60: what each event of the device does in each of its cases is said by the lemmas above. -/
theorem deviceEventsTakeEffect : Obligations.DeviceEventsTakeEffect := by
  intro die value unit challenge s
  refine ⟨rfl, rfl, freezeRegisterWrite_other, rfl, read_frozen, fun _ hSlice => State.unitBytes_slice hSlice, fun _ hCore => State.unitBytes_core hCore,
    read_running, rfl, rfl, rfl, fun c hSince hDue => powerOverage_due hSince hDue, powerFallsBelowCap_restores, monitorRefresh_due,
    hottestReadingRead_of_die, ?hottest, fun c hSince hDue hThrottled => thermalRestore_due hSince hDue hThrottled,
    fun d i hOut => ⟨voltageStop_some hOut, State.voltageOut_some hOut⟩, fun hNone => voltageStop_none (State.voltageOut_none hNone), ?ignored,
    ?challenge, fun n hSigning hNone => State.release_report hSigning hNone, fun n hSigning => State.release_identity hSigning, rfl, rfl,
    ⟨rfl, rfl, rfl, rfl⟩, bringupStep_one, bringupStep_three, ?signature, bringupStep_two, bringupStep_five⟩
  case hottest =>
    intro v hDie hHottest
    rw [hottestReadingRead_of_die hDie, State.readHottest_some hHottest]
  case ignored =>
    intro h
    rw [exec_attestationChallenge, State.attest_ignored h]
  case challenge =>
    intro hBringup hLength
    rw [exec_attestationChallenge]
    refine ⟨fun hSigning => ?_, fun hSigning hLeft => ?_, fun hSigning hUsed => ?_⟩
    · rw [State.attest_waits hBringup hLength hSigning]
    · rw [State.attest_begins hBringup hLength hSigning, State.beginReport_left hLeft]
    · rw [State.attest_begins hBringup hLength hSigning, State.beginReport_used hUsed]
  case signature =>
    intro h hSigning
    refine ⟨bringupStep_signed h hSigning, fun hStale hLeft => ?_, fun hStale hUsed => ?_⟩
    · rw [bringupStep_unsigned h hSigning hStale, State.beginSign_left hLeft, Option.getD_some]
    · rw [bringupStep_unsigned h hSigning hStale, State.beginSign_used hUsed, Option.getD_none]

end Sys2Proof.Machine
end

section
/-! SUPPORT. Branches, calls and returns (R67, R68): an instruction that moves its lanes' PCs. -/

namespace Sys2Proof.Machine

/-- An active lane's thread, where its bundle's threads have changed but not its own. -/
theorem Meets.thread_withThreads {s : State} {g : Group} {b : Bundle} {i : Instr} (h : Meets s g b i) {l : Nat} {t : Thread}
    (ht : b.threads[l]? = some t) {T : Nat → Thread → Thread} (hT : T l t = t) :
    (s.taken.withThreads g.bundle T).thread g.bundle l = t := by
  have hFind : (s.taken.withThreads g.bundle T).bundle? g.bundle = some { b with threads := b.threads.mapIdx T } :=
    (State.bundle?_modBundle s.taken g.bundle (fun x => { x with threads := x.threads.mapIdx T }) fun _ => rfl).trans
      (congrArg (Option.map _) h.bundle)
  refine State.thread_of_thread? ((State.thread?_of_bundle hFind).trans ?_)
  simp [ht, hT]

/-- A control transfer: F acts on the thread of each active lane, which goes on to where its thread, as it was, sends it. -/
theorem runLanes_jump {s : State} {g : Group} {b : Bundle} {i : Instr} {chk : Check} {f : State → Group → Bundle → Nat → State × LaneEnd}
    {F : Thread → Thread} {e : Thread → LaneEnd} (h : Meets s g b i) (hs : s.notStepping g.bundle) (hc : Quiet chk s g b)
    (hf : ∀ u l, f u g b l = (u.modThread g.bundle l F, e (u.thread g.bundle l))) (hMoves : ∀ t, (e t).moves) :
    runLanes i chk f s = .next (s.moved g F fun _ t => (e t).pc g) := by
  refine runLanes_moved h hs hc ⟨fun l _ _ t _ T _ => ?_, fun l _ _ t ht T hT => ?_⟩
  · rw [hf]
  · rw [hf, h.thread_withThreads ht hT]
    exact ⟨hMoves t, rfl⟩

/-- No active lane's target is odd. -/
theorem quiet_oddTarget {p : BitVec 7} {s : State} {g : Group} {b : Bundle} (h : EachActive g b fun t => (t.pair p.toNat).toNat % 2 = 0) :
    Quiet (oddTarget p) s g b := by
  intro l hl ha t ht
  have hEven : ¬ (t.pair p.toNat).toNat % 2 = 1 := by rw [h l hl ha t ht]; decide
  rw [oddTarget, if_neg hEven]

/-- Where a branch sends a lane: on to the next instruction, or to its target. -/
def branchEnd (taken : Bool) (target : DWord) : LaneEnd := if taken then .goto target else .next

theorem branchEnd_moves (taken : Bool) (target : DWord) : (branchEnd taken target).moves := by
  cases taken <;> exact trivial

theorem branchEnd_pc (taken : Bool) (target : DWord) (g : Group) : (branchEnd taken target).pc g = if taken then target else g.nextPc := by
  cases taken <;> rfl

/-- Settles O26: the five forms differ in the link that they write and in where they send each lane. -/
theorem branchesCallsAndReturns : Obligations.BranchesCallsAndReturns := by
  intro i19 i23 n q p s g b hs even link
  refine ⟨fun h => ?br, fun h => ?call, fun h hEven => ?jmp, fun h hEven => ?callr, fun h hEven => ?ret⟩
  case br =>
    refine (runLanes_jump (F := id) (e := fun t => branchEnd (t.pred q.toNat ^^ (n == 1#1)) (dispFrom g.ipc i19)) h hs
      (quiet_noCheck s g b) (fun u l => congrArg (·, _) (u.modThread_id g.bundle l).symm) fun _ => branchEnd_moves _ _).trans ?_
    simp only [branchEnd_pc]
    rfl
  case call =>
    exact runLanes_jump (F := link) (e := fun _ => .goto (dispFrom g.ipc i23)) h hs (quiet_noCheck s g b) (fun _ _ => rfl) fun _ => trivial
  case callr =>
    exact runLanes_jump (F := link) (e := fun t => .goto (t.pair p.toNat)) h hs (quiet_oddTarget hEven) (fun _ _ => rfl) fun _ => trivial
  case jmp =>
    exact runLanes_jump (F := id) (e := fun t => .goto (t.pair p.toNat)) h hs (quiet_oddTarget hEven)
      (fun u l => congrArg (·, _) (u.modThread_id g.bundle l).symm) fun _ => trivial
  case ret =>
    exact runLanes_jump (F := id) (e := fun t => .goto (t.pair p.toNat)) h hs (quiet_oddTarget hEven)
      (fun u l => congrArg (·, _) (u.modThread_id g.bundle l).symm) fun _ => trivial

end Sys2Proof.Machine
end

section
/-! SUPPORT. Special registers, fences, and thread and block control (R72, R73, R78 to R82, R143, R161, R172, R173, R203, R337, R381). -/

namespace Sys2Proof.Machine

/-- An instruction that acts on each active lane alike and meets no check of its own. -/
theorem completes_lanes {i : Instr} {f : State → Group → Bundle → Nat → State × LaneEnd} {E : State → Group → Bundle → Nat → State}
    {e : LaneEnd} {H : State → Group → Bundle → Prop} (hi : ∀ s, exec i s = runLanes i noCheck f s)
    (hf : ∀ s g b, Meets s g b i → H s.taken g b → ∀ u l, f u g b l = (E u g b l, e)) :
    Completes i H (fun s g b => s.eachLane g fun u l => E u g b l) e := by
  intro s g b h hH
  rw [hi]
  exact runLanes_always h (quiet_noCheck s g b) (hf s g b h hH)

/-- An instruction that acts once for its whole group, where it acts at all, and moves every lane on. -/
theorem completes_once {i : Instr} {chk : Check} {body : Body} {H : State → Group → Bundle → Prop} {E : State → Group → Bundle → State}
    (hi : ∀ s, exec i s = runWith i chk body s) (hc : ∀ s g b, H s.taken g b → Quiet chk s g b)
    (hBody : ∀ s g b, H s g b → body s g b g.acting = (E s g b, [])) : Completes i H E .next := by
  intro s g b h hH
  have hRun := hBody s.taken g b hH
  rw [hi]
  exact runWith_ends h (hc s g b hH) (congrArg Prod.fst hRun) fun l _ => by rw [hRun, ite_self]; rfl

/-- A block's own acts, for a group with at least one active lane. -/
theorem match_acting {α : Type} {g : Group} (h : g.acting ≠ []) (x y : α) :
    (match g.acting with
      | [] => x
      | _ => y) = y := by
  cases hActs : g.acting with
  | nil => exact absurd hActs h
  | cons => rfl

/-! SRD and SWR (R78 to R81). -/

/-- Bit 0 of the word is what SWR of %spflag keeps. -/
theorem State.setSpecial_eq (s : State) (b : Bundle) (l a : Nat) (v : Word) : s.setSpecial b l a v =
    if a = 0x20 then s.modThread b.id l fun t => { t with fmode := v &&& 0xF }
    else if a = 0x21 then s.modThread b.id l fun t => { t with fflags := v &&& 0x1F }
    else if a = 0x24 then s.modBlk b fun k => { k with spflag := v.getLsbD 0 }
    else if a = 0x28 then s.modBlk b fun k => { k with txlim := txlimOf v }
    else if a = 0x29 then s.modBlk b fun k => { k with carvth := carvthOf v }
    else s := by
  rw [State.setSpecial, bit_toNat]

/-- Settles O32: each lane reads or writes its special register in turn. -/
theorem specialRegistersReadAndWrite : Obligations.SpecialRegistersReadAndWrite := by
  intro a d
  refine ⟨completes_lanes (fun _ => rfl) fun _ _ _ _ _ _ _ => rfl, completes_lanes (fun _ => rfl) fun s g b _ _ u l => ?_⟩
  rw [State.setSpecial_eq]

/-! PFETCH, the fences and the refetches (R82, R161, R172, R173, R203). -/

/-- A fence of a group that finds no line of its bundle dirty stamps its lane. -/
theorem State.fence_clean (s : State) (b : Bundle) (l scope : Nat) :
    s.fence b l scope false = (s.modThread b.id l (·.stampAt scope s.clk), .next) := by
  rw [State.fence, Bool.and_false, if_neg Bool.false_ne_true]

/-- One that finds some dirty starts their write-back and holds its lane. -/
theorem State.fence_dirty {s : State} {b : Bundle} {l : Nat} (h : (s.thread b.id l).mid ≠ some .flush) (scope : Nat) :
    s.fence b l scope true = ((s.writeBackFor b).modThread b.id l fun t => { t with mid := some .flush }, .stay) := by
  have hNew : ((s.thread b.id l).mid == some .flush) = false := by simpa using h
  rw [State.fence, hNew]
  rfl

section
variable {i : Instr} {m : BitVec 16} {k : BitVec 3}
  (hi : ∀ s, exec i s = runWith i noCheck
    (fun s0 => each (fun s _ b l => s.fence b l (s.fenceScope b k.toNat m.toNat) (s0.stashDirty b)) s0) s)
include hi

theorem completes_fence_clean : Completes i (fun s _ b => s.stashDirty b = false) (fun s g b => s.eachLane g fun u l =>
    u.modThread b.id l fun t => if 4 ≤ u.fenceScope b k.toNat m.toNat then { t with stamp := some u.clk } else t) .next := by
  intro s g b h hClean
  rw [hi]
  refine runEach_ends (f := fun u _ b l => u.fence b l (u.fenceScope b k.toNat m.toNat) false) (fun _ _ => True) h (quiet_noCheck s g b)
    (by simp only [each, hClean]) trivial fun u l _ _ _ => ⟨u.fence_clean b l _, trivial⟩

/-- The lanes still to come have started no write-back: each holds, one after another. -/
theorem completes_fence_dirty :
    Completes i (fun s _ b => s.stashDirty b = true ∧ ∀ t ∈ b.threads, t.mid ≠ some .flush) (fun s g b => s.eachLane g fun u l =>
      (u.writeBackFor b).modThread b.id l fun t => { t with mid := some .flush }) .stay := by
  intro s g b h ⟨hDirty, hMid⟩
  rw [hi]
  refine runEach_ends (f := fun u _ b l => u.fence b l (u.fenceScope b k.toNat m.toNat) true)
    (fun ls u => ls.Nodup ∧ ∀ l ∈ ls, (u.thread b.id l).mid ≠ some .flush) h (quiet_noCheck s g b) (by simp only [each, hDirty])
    ⟨h.acting_nodup, fun l hl => h.acting_thread (P := fun t => t.mid ≠ some .flush) (fun _ _ _ t ht => hMid t (List.mem_of_getElem? ht)) hl⟩
    fun u l ls _ ⟨hNodup, hu⟩ => ⟨State.fence_dirty (hu l (by simp)) _, (List.nodup_cons.mp hNodup).2, fun n hn => ?_⟩
  have hOther : l ≠ n := fun hEq => (List.nodup_cons.mp hNodup).1 (hEq ▸ hn)
  rw [State.thread_modThread_other _ _ hOther, State.thread_of_bundles (State.writeBackFor_bundles u b)]
  exact hu n (by simp [hn])

end

/-- STFLUSH goes on where its block's lines are clean and none is on its way home. -/
theorem completes_stflush (m : BitVec 16) :
    Completes (.stflush m) (fun s _ b => ∀ k, s.blockOf b = some k → k.anyDirty = false ∧ s.blockWriting k.id = false) (fun s _ _ => s)
      .next := by
  intro s g b h hClean
  show execStflush m s = _
  rw [execStflush, runLanes_ends (E := fun u _ => u) (e := .next) (fun _ u => u = s.taken) h (quiet_noCheck s g b) rfl, State.eachLane_id]
  rintro u l ls - rfl
  refine ⟨?_, rfl⟩
  cases hk : s.taken.blockOf b with
  | none => rfl
  | some k =>
    obtain ⟨hLines, hWriting⟩ := hClean k hk
    simp [hLines, hWriting]

theorem dropParcels_acting {s : State} {g : Group} {b : Bundle} (h : g.acting ≠ []) :
    dropParcels s g b g.acting = (s.modBlk b fun k => { k with icode := [] }, []) := match_acting h _ _

/-- Settles O35: FENCE.AR and FENCE.SC have one body, and so have the two refetches. -/
theorem prefetchFencesAndRefetches : Obligations.PrefetchFencesAndRefetches := by
  intro m k o st p stamp drop
  refine ⟨?pfetch, completes_idle (fun _ => rfl) fun s g b _ => quiet_noCheck s g b, completes_fence_clean fun _ => rfl,
    completes_fence_clean fun _ => rfl, ?dirty, ?eng, completes_stflush m,
    completes_once (fun _ => rfl) (fun s g b _ => quiet_noCheck s g b) fun _ _ _ => dropParcels_acting,
    completes_once (fun _ => rfl) (fun s g b _ => quiet_noCheck s g b) fun _ _ _ => dropParcels_acting⟩
  case pfetch => exact completes_lanes (fun _ => rfl) fun _ _ _ _ _ _ _ => rfl
  case eng => exact completes_lanes (fun _ => rfl) fun _ _ _ _ _ _ _ => rfl
  case dirty =>
    rintro i (rfl | rfl)
    · exact completes_fence_dirty fun _ => rfl
    · exact completes_fence_dirty fun _ => rfl

/-! EXIT, CONT, YIELD, SETPRG and SETSTRM (R72, R73, R143, R337, R381). -/

theorem completes_yield : Completes .yield (fun _ _ _ => True) (fun s g b => s.eachLane g fun u l => u.modThread g.bundle l fun t => { t with
    yield := if (s.readyNeighbours b).isEmpty then none else some { until_ := u.clk + 64, others := s.readyNeighbours b } }) .next :=
  completes_once (fun s => (rfl : execYield s = _)) (fun s g b _ => quiet_noCheck s g b) fun _ _ _ _ => rfl

theorem quiet_streamWord {a : BitVec 7} {s : State} {g : Group} {b : Bundle} (h : EachActive g b fun t => streamWordOk (t.val a.toNat) = true) :
    Quiet (fun _ _ _ _ t => if streamWordOk (t.val a.toNat) then [] else
      [{ cause := 3, detail := (t.val a.toNat).zeroExtend 64 }]) s g b := fun l hl ha t ht => if_pos (h l hl ha t ht)

/-- SETSTRM of a stream with nothing under way, of which no drain has begun. -/
theorem completes_setstrm (n : BitVec 4) (a : BitVec 7) :
    Completes (.setstrm n a) (fun s g b => g.acting ≠ [] ∧ s.streamBusy b n.toNat = false ∧
        (∀ k, s.blockOf b = some k → k.drains.find? (·.1 == n.toNat) = none) ∧ EachActive g b fun t => streamWordOk (t.val a.toNat) = true)
      (fun s g b => s.modBlk b fun k => { k with
        streams := k.streams.set n.toNat ((s.thread b.id (highest g.acting)).val a.toNat)
        drains := k.drains.filter fun x => !(x.1 == n.toNat) }) .next := by
  refine completes_once (fun s => (rfl : execSetstrm n a s = _)) (fun s g b ⟨_, _, _, hWords⟩ => quiet_streamWord hWords) fun s g b ⟨hActs, hIdle, hDrains, _⟩ => ?_
  have hDrain : ((s.blockOf b).bind fun k => k.drains.find? (·.1 == n.toNat)) = none := by
    cases hk : s.blockOf b with
    | none => rfl
    | some k => exact hDrains k hk
  refine (match_acting hActs _ _).trans ?_
  simp only [hDrain, hIdle, Bool.false_eq_true, if_false]

/-- Settles O42: each instruction acts on its lanes, or once on its block. -/
theorem threadAndBlockControl : Obligations.ThreadAndBlockControl := by
  intro n a
  refine ⟨completes_lanes (fun _ => rfl) fun s g b _ hBlock u l => ?_, completes_lanes (fun _ => rfl) fun s g b _ hHandler u l => ?_,
    completes_lanes (fun _ => rfl) fun _ _ _ _ _ _ _ => rfl, completes_yield,
    completes_once (fun s => (rfl : execSetprg a s = _)) (fun s g b _ => quiet_noCheck s g b) fun _ _ _ hActs => match_acting hActs _ _,
    completes_setstrm n a⟩
  · rw [if_neg (by rw [hBlock]; decide)]
  · rw [if_pos hHandler]

end Sys2Proof.Machine
end

section
/-! SUPPORT. Convergence (R75 to R77, R279, R280): arrival at a convergence instruction, its release, and what each lane is then owed. -/

namespace Sys2Proof.Machine

/-! Arrival (R75, R76, R280). -/

/-- What the group's lanes end in is all that their ends depend on. -/
theorem State.endsWith_congr {u : State} {g : Group} {e e' : Nat → LaneEnd} (h : ∀ l ∈ g.lanes, e l = e' l) :
    u.endsWith g e = u.endsWith g e' := by
  rw [State.endsWith, State.endsWith, foldl_congr_mem _ _ _ fun acc l hl => by rw [h l hl]]

/-- Every lane of a group is one of the active ones or one of the others. -/
theorem Group.mem_acting_or_off {g : Group} {l : Nat} (h : l ∈ g.lanes) : l ∈ g.acting ++ g.lanes.filter fun l => !(g.active.contains l) := by
  by_cases ha : l ∈ g.active <;> simp [mem_acting, h, ha]

/-- The group's lanes arrive, but for those that pass alone, and the bundle converges if it can. -/
theorem runArrive_meets {s : State} {g : Group} {b : Bundle} {i : Instr} (h : Meets s g b i) :
    let off := g.lanes.filter fun l => !(g.active.contains l)
    let alone : Nat → Bool := fun l => (b.threads.getD l {}).passesAlone i g.start
    let v := (g.acting ++ off).foldl (fun u l => u.modThread g.bundle l fun t =>
      if alone l then { t with missed := t.missed.erase g.start } else t.arrive g i (g.acting.contains l)) s.taken
    runArrive i s = .next ((v.endsWith g fun l => if alone l then .next else .stay).converge g.bundle) := by
  intro off alone v
  rw [runArrive, runWith_meets _ h (quiet_noCheck s g b), show g.lanes.filter (· ∈ g.active) = g.acting from rfl, onNext, h.group]
  dsimp only
  refine congrArg (fun u : State => (.next (u.converge g.bundle) : Result)) (State.endsWith_congr fun l hl => ?_)
  rw [endOf, lookup_map, if_pos (Group.mem_acting_or_off hl), Option.getD_some]

/-! The lanes that stand at a convergence instruction. -/

/-- The live lanes of a bundle that have arrived, with where they stand. -/
def Bundle.arrivals (b : Bundle) : List (Nat × Conv) :=
  ((List.range b.threads.length).filter fun l => (b.threads.getD l {}).live).filterMap fun l =>
    ((b.threads.getD l {}).conv).map fun c => (l, c)

/-- The active ones among them. -/
def Bundle.participants (b : Bundle) : List Nat := (List.range b.threads.length).filter fun l =>
  (b.threads.getD l {}).live && ((b.threads.getD l {}).conv.map (·.active)).getD false

/-- Every live lane of a bundle stands at instruction i, at one address. -/
structure Bundle.StandsAt (b : Bundle) (i : Instr) (pc : DWord) : Prop where
  arrived : ∀ l, (b.threads.getD l {}).live = true → l < b.threads.length → ∃ z, (b.threads.getD l {}).conv = some z ∧ z.pc = pc ∧ z.instr = i
  acts : b.participants ≠ []

theorem Bundle.mem_arrivals {b : Bundle} {x : Nat × Conv} : x ∈ b.arrivals ↔
    x.1 < b.threads.length ∧ (b.threads.getD x.1 {}).live = true ∧ (b.threads.getD x.1 {}).conv = some x.2 := by
  simp only [Bundle.arrivals, List.mem_filterMap, List.mem_filter, List.mem_range, Option.map_eq_some_iff]
  constructor
  · rintro ⟨l, ⟨hl, hLive⟩, c, hc, rfl⟩
    exact ⟨hl, hLive, hc⟩
  · rintro ⟨hl, hLive, hc⟩
    exact ⟨x.1, ⟨hl, hLive⟩, x.2, hc, rfl⟩

/-- The active ones of some lanes that have arrived. -/
theorem filter_active (conv : Nat → Option Conv) (ls : List Nat) :
    ((ls.filterMap fun l => (conv l).map fun c => (l, c)).filter fun x => x.2.active).map (·.1) =
      ls.filter fun l => ((conv l).map (·.active)).getD false := by
  induction ls with
  | nil => rfl
  | cons l ls ih =>
    cases hc : conv l with
    | none => simpa [hc] using ih
    | some c => cases ha : c.active <;> simpa [hc, ha] using ih

theorem Bundle.arrivals_active (b : Bundle) : (b.arrivals.filter fun x => x.2.active).map (·.1) = b.participants := by
  rw [Bundle.arrivals, filter_active, List.filter_filter, Bundle.participants]
  exact List.filter_congr fun l _ => Bool.and_comm _ _

/-- The active lanes with their threads, as a release takes them. -/
def Bundle.acting (b : Bundle) : List (Nat × Thread) := b.participants.map fun l => (l, b.threads.getD l {})

theorem Bundle.acting_eq (b : Bundle) : ((b.arrivals.filter fun x => x.2.active).map fun x => (x.1, b.threads.getD x.1 {})) = b.acting := by
  rw [Bundle.acting, ← b.arrivals_active, List.map_map]
  rfl

theorem Bundle.acting_map {α : Type} (b : Bundle) (f : Nat × Thread → α) :
    b.acting.map f = b.participants.map fun l => f (l, b.threads.getD l {}) := List.map_map

theorem length_filterMap_of_some {α β : Type} {f : α → Option β} {l : List α} (h : ∀ x ∈ l, (f x).isSome = true) :
    (l.filterMap f).length = l.length := by
  induction l with
  | nil => rfl
  | cons x l ih =>
    obtain ⟨y, hy⟩ := Option.isSome_iff_exists.mp (h x (by simp))
    rw [List.filterMap_cons_some hy, List.length_cons, List.length_cons, ih fun z hz => h z (by simp [hz])]

/-- A list of one thing over and over holds one thing. -/
theorem length_distinct_of_const {α : Type} [BEq α] [LawfulBEq α] {c : α} {l : List α} (hNonempty : l ≠ []) (h : ∀ x ∈ l, x = c) :
    (distinct l).length = 1 := by
  cases l with
  | nil => exact absurd rfl hNonempty
  | cons x l =>
    have hRest : (distinct l).filter (fun y => !(y == x)) = [] := List.filter_eq_nil_iff.mpr fun y hy => by
      rw [h y (List.mem_cons_of_mem _ (mem_distinct.mp hy)), h x List.mem_cons_self]
      simp
    simp [distinct, hRest]

/-- A bundle whose live lanes all stand at an instruction releases it. -/
theorem State.converge_standsAt {s : State} {bid : Nat} {b : Bundle} {i : Instr} {pc : DWord} (hb : s.bundle? bid = some b)
    (hIssues : s.issues b = true) (h : b.StandsAt i pc) :
    ∃ p, s.converge bid = (s.modBundle bid fun b => b.noteRcv i p).releaseAt b i b.arrivals := by
  have hAll : ∀ x ∈ b.arrivals, x.2.pc = pc ∧ x.2.instr = i := fun x hx => by
    obtain ⟨hl, hLive, hConv⟩ := Bundle.mem_arrivals.mp hx
    obtain ⟨z, hz, hStands⟩ := h.arrived x.1 hLive hl
    obtain rfl : z = x.2 := Option.some.inj (hz.symm.trans hConv)
    exact hStands
  have hLength : b.arrivals.length = ((List.range b.threads.length).filter fun l => (b.threads.getD l {}).live).length := by
    refine length_filterMap_of_some fun l hl => ?_
    obtain ⟨hl, hLive⟩ := List.mem_filter.mp hl
    obtain ⟨z, hz, _⟩ := h.arrived l hLive (List.mem_range.mp hl)
    rw [hz]
    rfl
  obtain ⟨x, xs, hCons⟩ : ∃ x xs, b.arrivals = x :: xs := List.exists_cons_of_ne_nil fun hNil => h.acts (by rw [← b.arrivals_active, hNil]; rfl)
  have hOne : (distinct (b.arrivals.map fun y => y.2.pc)).length = 1 := by
    refine length_distinct_of_const (c := pc) (by rw [hCons]; exact List.cons_ne_nil _ _) fun y hy => ?_
    obtain ⟨z, hz, rfl⟩ := List.mem_map.mp hy
    exact (hAll z hz).1
  have hStays : (!(s.issues b) || !(b.arrivals.length ==
      ((List.range b.threads.length).filter fun l => (b.threads.getD l {}).live).length)) = false := by simp [hIssues, hLength]
  refine ⟨x.2.pc, ?_⟩
  rw [State.converge, hb]
  simp only [← Bundle.arrivals.eq_1 b, hStays, Bool.false_eq_true, if_false]
  rw [hCons] at hOne ⊢
  simp only [hOne, if_true, (hAll x (by rw [hCons]; exact List.mem_cons_self)).2]

/-! Release. -/

/-- No STEP follows in a block that does not step singly. -/
theorem State.meetStep_eq {s : State} {bid : Nat} (h : s.notStepping bid) (l : Nat) (start : DWord) : s.meetStep bid l start = (s, []) := by
  rw [State.meetStep]
  cases hk : s.ownBlock bid with
  | none => rfl
  | some k =>
    have hSingle := h k hk
    cases hx : s.block? k with
    | none => simp only [Option.bind_some, hx]
    | some x =>
      rw [hx, Option.map_some, Option.getD_some] at hSingle
      simp only [Option.bind_some, hx, hSingle, Bool.false_and, Bool.false_eq_true, if_false]

/-- The results still owed to a bundle's lanes. -/
def State.owes (s : State) (bid : Nat) : Option (List Collective) := (s.bundle? bid).map (·.results)

theorem State.owes_modBundle (s : State) (bid : Nat) {f : Bundle → Bundle} (hi : ∀ b, (f b).id = b.id) (hr : ∀ b, (f b).results = b.results) :
    (s.modBundle bid f).owes bid = s.owes bid := by
  rw [State.owes, State.bundle?_modBundle s bid f hi, State.owes, Option.map_map]
  exact congrArg (Option.map · _) (funext hr)

/-- Releasing the lanes takes nothing from what they are owed. -/
theorem State.owes_releaseLanes {s : State} {bid : Nat} (h : s.notStepping bid) (ls : List (Nat × Conv)) :
    (s.releaseLanes bid ls).owes bid = s.owes bid := by
  have hFold : ∀ (ls : List (Nat × Conv)) (u : State), u.notStepping bid → ∃ v : State, v.owes bid = u.owes bid ∧
      ls.foldl (fun (acc : State × List Met) x => ((acc.1.meetDone bid x.1 x.2.pc (x.2.ipc + 4)).1,
        acc.2 ++ (acc.1.meetDone bid x.1 x.2.pc (x.2.ipc + 4)).2)) (u, []) = (v, []) := by
    intro ls
    induction ls with
    | nil => exact fun u _ => ⟨u, rfl, rfl⟩
    | cons x ls ih =>
      intro u hu
      have hNext : (u.modThread bid x.1 (·.goto (x.2.ipc + 4))).notStepping bid := u.notStepping_modBundle bid _ (fun _ => rfl) (fun _ => rfl) hu
      obtain ⟨v, hv, hRest⟩ := ih _ hNext
      refine ⟨v, hv.trans (u.owes_modBundle bid (fun _ => rfl) fun _ => rfl), ?_⟩
      rw [List.foldl_cons, State.meetDone, State.meetStep_eq hNext]
      exact hRest
  obtain ⟨v, hv, hEq⟩ := hFold ls s h
  show State.owes (State.takeAll (ls.foldl _ (s, [])) bid) bid = _
  rw [hEq]
  exact hv

/-- The results of a release join those owed before, under the next free name. -/
theorem State.owes_addResults (s : State) (bid : Nat) (m : Bool) {shares : List LaneShare} (h : shares ≠ []) :
    (s.addResults bid m shares).owes bid = (s.owes bid).map (· ++ [{ id := s.fresh, mfrag := m, shares := shares }]) := by
  have hSome : shares.isEmpty = false := by simpa using h
  have hFind := State.bundle?_modBundle s bid (fun b => { b with results := b.results ++ [{ id := s.fresh, mfrag := m, shares := shares }] })
    fun _ => rfl
  rw [State.addResults, hSome, if_neg Bool.false_ne_true, State.owes, State.owes, show (State.next (s.modBundle bid _)).bundle? bid = _ from hFind,
    Option.map_map, Option.map_map]
  rfl

theorem State.notStepping_addResults {s : State} {bid : Nat} (h : s.notStepping bid) (m : Bool) (shares : List LaneShare) :
    (s.addResults bid m shares).notStepping bid := by
  rw [State.addResults]
  split
  · exact h
  · exact s.notStepping_modBundle bid _ (fun _ => rfl) (fun _ => rfl) h

/-- Among a bundle's results stands one of a name and kind, with its shares. -/
def State.owesShares (s : State) (bid id : Nat) (m : Bool) (shares : List LaneShare) : Prop :=
  ∃ v z, s.bundle? bid = some v ∧ z ∈ v.results ∧ z.id = id ∧ z.mfrag = m ∧ z.shares = shares

/-- A bundle that stands at an instruction whose release leaves some shares owes them. -/
theorem State.converge_owes {s : State} {bid : Nat} {b : Bundle} {i : Instr} {pc : DWord} {m : Bool} {shares : List LaneShare}
    (hb : s.bundle? bid = some b) (hs : s.notStepping bid) (hIssues : s.issues b = true) (h : b.StandsAt i pc) (hShares : shares ≠ [])
    (hRelease : ∀ u : State, u.releaseAt b i b.arrivals = (u.addResults b.id m shares).releaseLanes b.id b.arrivals) :
    (s.converge bid).owesShares bid s.fresh m shares := by
  obtain ⟨p, hConverge⟩ := State.converge_standsAt hb hIssues h
  have hNoted : (s.modBundle bid fun b => b.noteRcv i p).notStepping bid := s.notStepping_modBundle bid _ (fun _ => rfl) (fun _ => rfl) hs
  have hOwes : (s.converge bid).owes bid = some (b.results ++ [{ id := s.fresh, mfrag := m, shares := shares }]) := by
    rw [hConverge, hRelease, State.bundle?_id hb, State.owes_releaseLanes (State.notStepping_addResults hNoted m shares),
      State.owes_addResults _ _ _ hShares, s.owes_modBundle bid (f := (·.noteRcv i p)) (fun _ => rfl) fun _ => rfl, State.owes, hb]
    rfl
  obtain ⟨v, hv, hResults⟩ := Option.map_eq_some_iff.mp hOwes
  exact ⟨v, _, hv, hResults ▸ List.mem_append_right _ List.mem_cons_self, rfl, rfl, rfl⟩

/-! Lane collectives (R77). -/

/-- What a lane collective owes each active lane, from the a and b operands of all of them. -/
def Bundle.laneValue (b : Bundle) (i : Instr) (a rb l : Nat) : Word :=
  laneResult i l ((b.threads.getD l {}).val a) ((b.threads.getD l {}).val rb) (b.participants.map fun k => (k, (b.threads.getD k {}).val a))

theorem Bundle.laneShares_acting (b : Bundle) (i : Instr) (a rb : Nat) {d : Nat} (hd : d ≠ 0) : laneShares i b.acting a rb d =
    b.participants.map fun l => { lane := l, dst := d, new := [b.laneValue i a rb l], old := [(b.threads.getD l {}).val d] } := by
  rw [laneShares, if_neg hd, Bundle.acting_map, Bundle.acting_map]
  rfl

/-- Another lane's value, or a lane's own where that lane is not among the active ones. -/
theorem laneGet_map (A : Nat → Word) (ls : List Nat) (own : Word) (src : Int) :
    laneGet (ls.map fun k => (k, A k)) own src = if src.toNat ∈ ls ∧ 0 ≤ src ∧ src ≤ 31 then A src.toNat else own := by
  rw [laneGet, lookup_map]
  by_cases hLane : 0 ≤ src ∧ src ≤ 31
  · by_cases hActs : src.toNat ∈ ls <;> simp [hLane, hActs]
  · rw [if_neg hLane, if_neg fun h => hLane h.2]

theorem foldl_add_eq_sum (xs : List Nat) (n : Nat) : xs.foldl (· + ·) n = n + xs.sum := by
  induction xs generalizing n with
  | nil => rfl
  | cons x xs ih => rw [List.foldl_cons, ih, List.sum_cons, Nat.add_assoc]

/-- Powers of two added for the lanes of a ballot. -/
theorem sum_ballot (A : Nat → Word) (ls : List Nat) :
    (ls.map fun k => if A k = 0 then 0 else 2 ^ k).sum = ((ls.filter fun k => A k != 0).map (2 ^ ·)).sum := by
  induction ls with
  | nil => rfl
  | cons k ls ih =>
    by_cases hk : A k = 0
    · rw [List.map_cons, List.sum_cons, if_pos hk, List.filter_cons_of_neg (by simp [hk]), ih, Nat.zero_add]
    · rw [List.map_cons, List.sum_cons, if_neg hk, List.filter_cons_of_pos (by simpa using hk), List.map_cons, List.sum_cons, ih]

/-- Words add up as their numbers do. -/
theorem foldl_add_words (ws : List Word) (n : Nat) : ws.foldl (· + ·) (BitVec.ofNat 32 n) = BitVec.ofNat 32 (n + (ws.map (·.toNat)).sum) := by
  induction ws generalizing n with
  | nil => rfl
  | cons w ws ih =>
    have hw : BitVec.ofNat 32 n + w = BitVec.ofNat 32 (n + w.toNat) := by rw [BitVec.ofNat_add, BitVec.ofNat_toNat, BitVec.setWidth_eq]
    rw [List.foldl_cons, hw, ih, List.map_cons, List.sum_cons, Nat.add_assoc]

theorem sum_words (A : Nat → Word) (ls : List Nat) : (ls.map A).foldl (· + ·) 0 = BitVec.ofNat 32 (ls.map fun k => (A k).toNat).sum := by
  rw [show (0 : Word) = BitVec.ofNat 32 0 from rfl, foldl_add_words, Nat.zero_add, List.map_map]
  rfl

/-- The signed minimum of some words is one of them, and none is below it. -/
theorem foldl_minI (ws : List Word) (w : Word) :
    (ws.foldl minI w = w ∨ ws.foldl minI w ∈ ws) ∧ (ws.foldl minI w).toInt ≤ w.toInt ∧ ∀ x ∈ ws, (ws.foldl minI w).toInt ≤ x.toInt := by
  induction ws generalizing w with
  | nil => exact ⟨.inl rfl, le_refl _, nofun⟩
  | cons y ws ih =>
    obtain ⟨hIs, hLow, hRest⟩ := ih (minI w y)
    have hMin : (minI w y = w ∨ minI w y = y) ∧ (minI w y).toInt ≤ w.toInt ∧ (minI w y).toInt ≤ y.toInt := by
      rw [minI]
      split
      case isTrue hLe => exact ⟨.inl rfl, le_refl _, hLe⟩
      case isFalse hLe => exact ⟨.inr rfl, by omega, le_refl _⟩
    obtain ⟨hOne, hw, hy⟩ := hMin
    rw [List.foldl_cons]
    refine ⟨?_, hLow.trans hw, fun x hx => ?_⟩
    · rcases hIs with hIs | hIs
      · rcases hOne with hOne | hOne
        · exact .inl (hIs.trans hOne)
        · exact .inr (by rw [hIs, hOne]; exact List.mem_cons_self)
      · exact .inr (List.mem_cons_of_mem _ hIs)
    · rcases List.mem_cons.mp hx with rfl | hx
      · exact hLow.trans hy
      · exact hRest x hx

/-- The signed minimum that a lane finds, its own word being one of the words. -/
theorem foldl_minI_mem {ws : List Word} {w : Word} (hw : w ∈ ws) :
    ws.foldl minI w ∈ ws ∧ ∀ x ∈ ws, (ws.foldl minI w).toInt ≤ x.toInt := by
  obtain ⟨hIs, -, hLow⟩ := foldl_minI ws w
  exact ⟨hIs.elim (fun hIs => hIs.symm ▸ hw) id, hLow⟩

/-- Every lane finds the same one. -/
theorem foldl_minI_eq {ws : List Word} {w w' : Word} (hw : w ∈ ws) (hw' : w' ∈ ws) : ws.foldl minI w = ws.foldl minI w' := by
  obtain ⟨hMem, hLow⟩ := foldl_minI_mem hw
  obtain ⟨hMem', hLow'⟩ := foldl_minI_mem hw'
  exact BitVec.eq_of_toInt_eq (le_antisymm (hLow _ hMem') (hLow' _ hMem))

/-! MFRAG (R279, R280). -/

/-- The lanes' own words, as elements of a register run: +0 for a lane outside the active ones. -/
theorem fragElem_acting (b : Bundle) (r w l e : Nat) : fragElem b.acting r w l e = if l ∈ b.participants then
    ((b.threads.getD l {}).val (r + e / (32 / w))).toNat / 2 ^ (w * (e % (32 / w))) % 2 ^ w else 0 := by
  rw [fragElem, Bundle.acting, lookup_map]
  by_cases hl : l ∈ b.participants
  · rw [if_pos hl, if_pos hl, Nat.mul_comm]
    rfl
  · rw [if_neg hl, if_neg hl]

/-- The format words of the active lanes agree: their first is any of them. -/
theorem State.releaseAt_mfrag {u : State} {b : Bundle} {c : BitVec 5} {rb a d : BitVec 7} {f : Word} {K : Nat} (hActs : b.participants ≠ [])
    (hf : ∀ l ∈ b.participants, (b.threads.getD l {}).val c.toNat = f) (hK : mfragK f = some K) :
    u.releaseAt b (.mfrag c rb a d) b.arrivals = (u.addResults b.id true
      (b.acting.map fun x => fragShare f K b.acting d.toNat a.toNat rb.toNat x.1 x.2)).releaseLanes b.id b.arrivals := by
  have hAll : ∀ w ∈ b.acting.map fun x => x.2.val c.toNat, w = f := fun w hw => by
    rw [Bundle.acting_map] at hw
    obtain ⟨l, hl, rfl⟩ := List.mem_map.mp hw
    exact hf l hl
  obtain ⟨w, ws, hWords⟩ : ∃ w ws, (b.acting.map fun x => x.2.val c.toNat) = w :: ws := List.exists_cons_of_ne_nil (by
    rw [Bundle.acting_map]
    simpa using hActs)
  rw [hWords] at hAll
  obtain rfl : w = f := hAll w List.mem_cons_self
  have hSame : ((w :: ws).all fun x => x == w) = true := List.all_eq_true.mpr fun x hx => by simpa using hAll x hx
  simp only [State.releaseAt, Bundle.acting_eq, hWords, hSame, if_true, hK]

/-! What each lane is owed. -/

/-- A release owes each of some lanes its own values, at one destination. -/
def State.owesValues (s : State) (bid : Nat) (m : Bool) (ls : List Nat) (dst : Nat) (value : Nat → List Word) : Prop :=
  ∃ v z, (s.converge bid).bundle? bid = some v ∧ z ∈ v.results ∧ z.id = s.fresh ∧ z.mfrag = m ∧
    ∀ l ∈ ls, ∃ w ∈ z.shares, w.lane = l ∧ w.dst = dst ∧ w.new = value l

theorem State.owesValues.congr {s : State} {bid dst : Nat} {m : Bool} {ls : List Nat} {value value' : Nat → List Word}
    (h : s.owesValues bid m ls dst value) (hEq : ∀ l ∈ ls, value l = value' l) : s.owesValues bid m ls dst value' := by
  obtain ⟨v, z, hv, hz, hId, hKind, hShares⟩ := h
  refine ⟨v, z, hv, hz, hId, hKind, fun l hl => ?_⟩
  obtain ⟨w, hw, hLane, hDst, hNew⟩ := hShares l hl
  exact ⟨w, hw, hLane, hDst, hNew.trans (hEq l hl)⟩

section
variable {s : State} {bid : Nat} {b : Bundle} {i : Instr} {pc : DWord} (hb : s.bundle? bid = some b) (hs : s.notStepping bid)
  (hIssues : s.issues b = true) (h : b.StandsAt i pc)
include hb hs hIssues h

/-- A lane collective whose destination is a register owes each active lane its value there. -/
theorem State.converge_collective {a rb d : Nat} (hd : d ≠ 0)
    (hRelease : ∀ (u : State) ls, u.releaseAt b i ls = (u.addResults b.id false (laneShares i
      ((ls.filter fun x => x.2.active).map fun x => (x.1, b.threads.getD x.1 {})) a rb d)).releaseLanes b.id ls) :
    s.owesValues bid false b.participants d fun l => [b.laneValue i a rb l] := by
  have hShares := b.laneShares_acting i a rb hd
  obtain ⟨v, z, hv, hz, hId, hKind, hEq⟩ := State.converge_owes (shares := laneShares i b.acting a rb d) hb hs hIssues h
    (by rw [hShares]; simpa using h.acts) fun u => by rw [hRelease, Bundle.acting_eq]
  refine ⟨v, z, hv, hz, hId, hKind, fun l hl => ?_⟩
  rw [hEq, hShares]
  exact ⟨_, List.mem_map.mpr ⟨l, hl, rfl⟩, rfl, rfl, rfl⟩

/-- The signed minimum is owed alike to every lane. -/
theorem State.converge_redMin {y : BitVec 1} {a d : BitVec 7} (hi : i = .redMinI32 y a d) (hd : d.toNat ≠ 0) : ∃ low : Word,
    s.owesValues bid false b.participants d.toNat (fun _ => [low]) ∧
    (∃ k ∈ b.participants, (b.threads.getD k {}).val a.toNat = low) ∧
    ∀ k ∈ b.participants, low.toInt ≤ ((b.threads.getD k {}).val a.toNat).toInt := by
  subst hi
  obtain ⟨l, ls, hCons⟩ : ∃ l ls, b.participants = l :: ls := List.exists_cons_of_ne_nil h.acts
  have hWords : ∀ k ∈ b.participants, (b.threads.getD k {}).val a.toNat ∈ b.participants.map fun k => (b.threads.getD k {}).val a.toNat :=
    fun k hk => List.mem_map.mpr ⟨k, hk, rfl⟩
  have hl : l ∈ b.participants := by rw [hCons]; exact List.mem_cons_self
  obtain ⟨hIs, hLow⟩ := foldl_minI_mem (hWords l hl)
  refine ⟨_, (State.converge_collective hb hs hIssues h (a := a.toNat) (rb := 0) hd fun _ _ => rfl).congr fun k hk => ?_,
    List.mem_map.mp hIs, fun k hk => hLow _ (hWords k hk)⟩
  rw [Bundle.laneValue, laneResult, List.map_map]
  exact congrArg (fun w => [w]) (foldl_minI_eq (hWords k hk) (hWords l hl))

/-- MFRAG owes each active lane its eight accumulators. -/
theorem State.converge_mfrag {c : BitVec 5} {rb a d : BitVec 7} {f : Word} {K : Nat} (hi : i = .mfrag c rb a d)
    (hf : ∀ l ∈ b.participants, (b.threads.getD l {}).val c.toNat = f) (hK : mfragK f = some K) :
    s.owesValues bid true b.participants d.toNat fun l =>
      (fragShare f K b.acting d.toNat a.toNat rb.toNat l (b.threads.getD l {})).new := by
  subst hi
  have hShares := b.acting_map fun x => fragShare f K b.acting d.toNat a.toNat rb.toNat x.1 x.2
  obtain ⟨v, z, hv, hz, hId, hKind, hEq⟩ := State.converge_owes hb hs hIssues h
    (by rw [hShares]; simpa using h.acts) fun u => State.releaseAt_mfrag h.acts hf hK
  refine ⟨v, z, hv, hz, hId, hKind, fun l hl => ?_⟩
  rw [hEq, hShares]
  exact ⟨_, List.mem_map.mpr ⟨l, hl, rfl⟩, rfl, rfl, rfl⟩

end

/-- One accumulator of MFRAG as a word (R280, R289). -/
theorem fragSum_word (f : Word) (canon : Bool) (k : Nat) (x : Word) (a b : Nat → Nat) : BitVec.ofNat 32 (fragSum f canon k x a b).1 =
    if fmtAcc f = 4 then x + BitVec.ofInt 32 (((List.range k).map fun j => readInt (fmtA f) (a j) * readInt (fmtB f) (b j)).foldl (· + ·) 0)
    else BitVec.ofNat 32 (f32.dot canon (f32.value false x.toNat) ((List.range k).map fun j =>
      ((fmtOf (fmtA f)).value false (a j), (fmtOf (fmtB f)).value false (b j)))).1 := by
  rw [fragSum]
  split
  · exact BitVec.ofNat_toNat _ _
  · rfl

/-- Settles O44: the arrivals are runArrive_meets, and what a release owes is converge_collective, converge_redMin and converge_mfrag. -/
theorem collectivesArriveAndConverge : Obligations.CollectivesArriveAndConverge := by
  intro x y c b' a d arrive standing owed collects get n
  have hArrive {i : Instr} (hi : ∀ s, exec i s = runArrive i s) : arrive i := fun s g b h => (hi s).trans (runArrive_meets h)
  have hZero : d ≠ 0 → d.toNat ≠ 0 := fun hd hz => hd (BitVec.eq_of_toNat_eq hz)
  have hCollects {i : Instr} {rb : Nat} {f : (Nat → Word) → (Nat → Word) → List Nat → Nat → Word}
      (hRelease : ∀ b (u : State) ls, u.releaseAt b i ls = (u.addResults b.id false (laneShares i
        ((ls.filter fun x => x.2.active).map fun x => (x.1, b.threads.getD x.1 {})) a.toNat rb d.toNat)).releaseLanes b.id ls)
      (hValue : ∀ b : Bundle, ∀ l ∈ b.participants, b.laneValue i a.toNat rb l =
        f (fun k => (b.threads.getD k {}).val a.toNat) (fun k => (b.threads.getD k {}).val b'.toNat) b.participants l) : collects i f := by
    rintro s bid b act ⟨hb, hs, hIssues, hActs, ⟨pc, hArrived⟩, rfl⟩ hd
    exact (State.converge_collective hb hs hIssues ⟨hArrived, hActs⟩ (hZero hd) (hRelease b)).congr fun l hl =>
      congrArg (fun w => [w]) (hValue b l hl)
  refine ⟨hArrive fun _ => rfl, hArrive fun _ => rfl, hArrive fun _ => rfl, hArrive fun _ => rfl, hArrive fun _ => rfl, hArrive fun _ => rfl,
    hArrive fun _ => rfl, hArrive fun _ => rfl, hArrive fun _ => rfl, hArrive fun _ => rfl,
    ?idx, ?up, ?dn, ?xor, ?ballot, ?sum, ?scan, ?min, ?mfrag⟩
  case idx =>
    exact hCollects (i := .lgetIdx x y b' a d) (rb := b'.toNat) (f := fun A B act l => get A act l (n B l)) (fun _ _ _ => rfl)
      fun b l _ => laneGet_map _ _ _ _
  case up =>
    exact hCollects (i := .lgetUp x y b' a d) (rb := b'.toNat) (f := fun A B act l => get A act l ((l : Int) - n B l)) (fun _ _ _ => rfl)
      fun b l _ => laneGet_map _ _ _ _
  case dn =>
    exact hCollects (i := .lgetDn x y b' a d) (rb := b'.toNat) (f := fun A B act l => get A act l ((l : Int) + n B l)) (fun _ _ _ => rfl)
      fun b l _ => laneGet_map _ _ _ _
  case xor =>
    exact hCollects (i := .lgetXor x y b' a d) (rb := b'.toNat) (f := fun A B act l => get A act l ((l ^^^ n B l : Nat) : Int)) (fun _ _ _ => rfl)
      fun b l _ => laneGet_map _ _ _ _
  case ballot =>
    refine hCollects (i := .ballot y a d) (rb := 0) (f := fun A _ act _ => BitVec.ofNat 32 ((act.filter fun k => A k != 0).map (2 ^ ·)).sum)
      (fun _ _ _ => rfl) fun b l _ => ?_
    rw [Bundle.laneValue, laneResult, foldl_add_eq_sum, Nat.zero_add, List.map_map]
    exact congrArg (BitVec.ofNat 32) (sum_ballot _ _)
  case sum =>
    refine hCollects (i := .redAddI32 y a d) (rb := 0) (f := fun A _ act _ => BitVec.ofNat 32 (act.map fun k => (A k).toNat).sum)
      (fun _ _ _ => rfl) fun b l _ => ?_
    rw [Bundle.laneValue, laneResult, List.map_map]
    exact sum_words _ _
  case scan =>
    refine hCollects (i := .scanAddI32 y a d) (rb := 0) (f := fun A _ act l => BitVec.ofNat 32 ((act.filter (· ≤ l)).map fun k => (A k).toNat).sum)
      (fun _ _ _ => rfl) fun b l _ => ?_
    rw [Bundle.laneValue, laneResult, List.filter_map, List.map_map]
    exact sum_words _ _
  case min =>
    rintro s bid b act ⟨hb, hs, hIssues, hActs, ⟨pc, hArrived⟩, rfl⟩ hd
    exact State.converge_redMin hb hs hIssues ⟨hArrived, hActs⟩ rfl (hZero hd)
  case mfrag =>
    rintro s bid b act f K ⟨hb, hs, hIssues, hActs, ⟨pc, hArrived⟩, rfl⟩ hf hK elems A B
    refine (State.converge_mfrag hb hs hIssues ⟨hArrived, hActs⟩ rfl hf hK).congr fun l _ => ?_
    simp only [fragShare, List.map_map]
    refine List.map_congr_left fun j _ => ?_
    rw [Function.comp_apply, fragSum_word]
    simp only [fragElem_acting]
    rfl

end Sys2Proof.Machine
end

section
/-! SUPPORT. Thread events (R72, R76, R246 to R249, R253, R254, R261): results of collectives, the end of a yield, commits, the turn
token, futures at their home and the replies that reach a thread. -/

namespace Sys2Proof.Machine

/-! What the dispatch answers for each of these events. -/

theorem exec_laneResultWrite (op : Nat) (s : State) : exec (.laneResultWrite op) s = .next (s.writeCollective op false) := by rfl
theorem exec_mfragResultWrite (op : Nat) (s : State) : exec (.mfragResultWrite op) s = .next (s.writeCollective op true) := by rfl
theorem exec_yieldEnd (bid lane : Nat) (s : State) : exec (.yieldEnd bid lane) s = execYieldEnd bid lane s := by rfl
theorem exec_txValidateAtHome (bid lane : Nat) (s : State) : exec (.txValidateAtHome bid lane) s = execTxValidateAtHome bid lane s := by rfl
theorem exec_txCommitResult (bid lane : Nat) (s : State) : exec (.txCommitResult bid lane) s = execTxCommitResult bid lane s := by rfl
theorem exec_turnTokenGrant (die : Nat) (s : State) : exec (.turnTokenGrant die) s = execTurnTokenGrant die s := by rfl
theorem exec_futureOpAtHome (op : Nat) (s : State) : exec (.futureOpAtHome op) s = execFutureOpAtHome op s := by rfl
theorem exec_futureAnswer (op : Nat) (s : State) : exec (.futureAnswer op) s = execFutureAnswer op s := by rfl
theorem exec_calloReply (op : Nat) (s : State) : exec (.calloReply op) s = execCalloReply op s := by rfl

/-! Results of a released collective (R76, R280). -/

/-- A thread takes its share of a released collective. -/
def Thread.takeShare (x : LaneShare) (t : Thread) : Thread := (t.writes x.dst x.new).orFlags x.flags

/-- A bundle takes the results of a released collective, where they are its own. -/
def Bundle.takeCollective (op : Nat) (mfrag : Bool) (b : Bundle) : Bundle :=
  match b.results.find? fun c => c.id == op && c.mfrag == mfrag with
  | none => b
  | some c => { b with
      results := b.results.filter fun x => !(x.id == op)
      threads := c.shares.foldl (fun ts x => ts.modify x.lane (Thread.takeShare x)) b.threads }

theorem Bundle.takeCollective_id (op : Nat) (mfrag : Bool) (b : Bundle) : (b.takeCollective op mfrag).id = b.id := by
  rw [Bundle.takeCollective]
  split <;> rfl

theorem State.bundle?_writeCollective (s : State) (op n : Nat) (mfrag : Bool) :
    (s.writeCollective op mfrag).bundle? n = (s.bundle? n).map (Bundle.takeCollective op mfrag) := by
  have hName : ((fun x : Bundle => x.id == n) ∘ Bundle.takeCollective op mfrag) = fun x => x.id == n := by
    funext x
    rw [Function.comp_apply, x.takeCollective_id]
  show (s.bundles.map (Bundle.takeCollective op mfrag)).find? (fun x => x.id == n) = _
  rw [List.find?_map, hName]
  rfl

/-- Shares of other lanes leave a lane's thread alone. -/
theorem foldl_takeShare_other {l : Nat} (xs : List LaneShare) (h : ∀ x ∈ xs, x.lane ≠ l) (ts : List Thread) :
    (xs.foldl (fun ts x => ts.modify x.lane (Thread.takeShare x)) ts)[l]? = ts[l]? := by
  induction xs generalizing ts with
  | nil => rfl
  | cons x xs ih =>
    rw [List.foldl_cons, ih fun y hy => h y (List.mem_cons_of_mem _ hy), List.getElem?_modify_ne _ _ (h x List.mem_cons_self)]

/-- A lane's only share reaches its thread once. -/
theorem foldl_takeShare_once {l : Nat} {x : LaneShare} (hl : x.lane = l) (xs : List LaneShare) (hx : x ∈ xs)
    (h : xs.countP (·.lane == l) = 1) (ts : List Thread) :
    (xs.foldl (fun ts x => ts.modify x.lane (Thread.takeShare x)) ts)[l]? = ts[l]?.map (Thread.takeShare x) := by
  induction xs generalizing ts with
  | nil => cases hx
  | cons y ys ih =>
    by_cases hy : y.lane = l
    · have hRest : ys.countP (·.lane == l) = 0 := by simpa [List.countP_cons, hy] using h
      have hOthers : ∀ z ∈ ys, z.lane ≠ l := by simpa [List.countP_eq_zero] using hRest
      obtain rfl : x = y := by
        rcases List.mem_cons.mp hx with rfl | hIn
        · rfl
        · exact absurd hl (hOthers x hIn)
      rw [List.foldl_cons, foldl_takeShare_other ys hOthers, ← hy, List.getElem?_modify_eq]
      rfl
    · have hIn : x ∈ ys := (List.mem_cons.mp hx).resolve_left fun hEq => hy (hEq ▸ hl)
      rw [List.foldl_cons, ih hIn (by simpa [List.countP_cons, hy] using h), List.getElem?_modify_ne _ _ hy]

/-! The end of a yield, and the turn token (R72, R249). -/

/-- A yield ends at its time, or when no other bundle is left to wait for. -/
theorem yieldEnd_ends {s : State} {bid lane : Nat} {y : Yield} (h : (s.thread bid lane).yield = some y) (hEnd : y.until_ ≤ s.clk ∨ y.others = []) :
    exec (.yieldEnd bid lane) s = .next (s.modThread bid lane fun t => { t with yield := none, waitCount := 0 }) := by
  have hDue : (decide (y.until_ ≤ s.clk) || y.others.isEmpty) = true := by simpa using hEnd
  simp [exec_yieldEnd, execYieldEnd, h, hDue]

/-- The free turn token of a die goes to the first that waits for it. -/
theorem turnTokenGrant_free {s : State} {die : Nat} {x : Nat × Nat} {xs : List (Nat × Nat)} (hTurn : (s.die die).turn = none)
    (hQueue : (s.die die).turnQueue = x :: xs) :
    exec (.turnTokenGrant die) s = .next (s.modDie die fun d => { d with turn := some x, turnQueue := xs }) := by
  rw [exec_turnTokenGrant, execTurnTokenGrant]
  exact congrArg Host.Outcome.next (State.modDie_congr (by simp [hTurn, hQueue]))

/-! A commit at the homes of its lines (R246, R249). -/

/-- A lane's commit may be validated: its transactional loads have returned, and no engine or compile holds its lines. -/
structure CommitStands (s : State) (who : Nat × Nat) (x : Tx) : Prop where
  open_ : (s.thread who.1 who.2).tx = some x
  asked : x.commit = some none
  returned : ∀ r ∈ s.reqs, r.of who.1 who.2 = true → r.tx = false
  unowned : ∀ ln ∈ x.allLines, (s.line ln).owner = none
  unheld : ∀ ln ∈ x.writeLines, s.compileHolds ln = false

/-- The answer of the slices reaches a committing lane. -/
def State.commitAnswered (s : State) (who : Nat × Nat) (x : Tx) (st : BitVec 32) : State :=
  s.modThread who.1 who.2 fun t => { t with tx := some { x with commit := some (some st) } }

/-- The slices lock the lines of a commit. -/
def State.commitLocked (s : State) (who : Nat × Nat) (x : Tx) : State :=
  (x.allLines.filter fun ln => (txPeer ln).isNone).foldl (fun u ln => u.modLine ln fun y => { y with lock := some who }) s

/-- The statuses by which slices turn a commit down, in the order of its lines. -/
def State.objections (s : State) (who : Nat × Nat) (x : Tx) : List Nat := (x.allLines.map (s.slice who x)).filter fun r => r ≠ 0

section
variable {s : State} {bid lane : Nat} {x : Tx} (h : CommitStands s (bid, lane) x)
include h

/-- None of its transactional loads is outstanding. -/
theorem CommitStands.waits_eq : (s.reqs.any fun r => r.of bid lane && r.tx) = false := by simpa using h.returned

/-- Nothing but a commit may hold its lines. -/
theorem CommitStands.owned_eq : (x.allLines.any (fun ln => (s.line ln).owner.isSome) || x.writeLines.any s.compileHolds) = false := by
  simpa using And.intro h.unowned h.unheld

/-- The slices answer, where no line is busy and no holder is waited for. -/
theorem CommitStands.validate_eq
    (hBusy : (x.irrevocable && x.allLines.any fun ln => (s.line ln).lock.isSome && !((s.line ln).lock == some (bid, lane))) = false)
    (hFirst : (x.irrevocable && !(s.waitsFor (bid, lane)).isEmpty) = false) :
    exec (.txValidateAtHome bid lane) s = .next (match if x.irrevocable then [] else s.objections (bid, lane) x with
      | st :: _ => s.commitAnswered (bid, lane) x (BitVec.ofNat 32 st)
      | [] => (s.commitLocked (bid, lane) x).commitAnswered (bid, lane) x 0) := by
  have hOpen : (s.thread bid lane).tx = some x := h.open_
  rw [exec_txValidateAtHome, execTxValidateAtHome, hOpen]
  dsimp only
  rw [if_neg (by simp [h.asked, h.waits_eq, h.owned_eq, hBusy]), if_neg (by simp [hFirst])]
  rfl

/-- A revocable commit is answered by the first slice that objects, or locks its lines. -/
theorem CommitStands.validate_revocable (hRev : x.irrevocable = false) : exec (.txValidateAtHome bid lane) s = .next
    (match s.objections (bid, lane) x with
      | st :: _ => s.commitAnswered (bid, lane) x (BitVec.ofNat 32 st)
      | [] => (s.commitLocked (bid, lane) x).commitAnswered (bid, lane) x 0) := by
  rw [h.validate_eq (by simp [hRev]) (by simp [hRev]), if_neg (by simp [hRev])]

/-- No lane holds a line that a commit waits for, where no line of it is locked or registered. -/
theorem CommitStands.waitsFor_eq (hFree : ∀ ln ∈ x.allLines, (s.line ln).lock = none ∧ (s.line ln).irr = []) : s.waitsFor (bid, lane) = [] := by
  have hHeld : (s.reqs.filter fun r => r.of bid lane && r.tx && r.held.isSome) = [] := by
    rw [List.filter_eq_nil_iff]
    intro r hr
    cases hOf : r.of bid lane
    · simp
    · simp [h.returned r hr hOf]
  have hOpen : (s.thread bid lane).tx = some x := h.open_
  simp only [State.waitsFor, hHeld, hOpen, h.asked, List.filterMap_nil, List.nil_append, if_true, List.flatMap_eq_nil_iff]
  intro ln hIn
  rw [(hFree ln (mem_distinct.mpr hIn)).2]
  rfl

/-- An irrevocable commit locks its lines and is answered 0, where they are free. -/
theorem CommitStands.validate_irrevocable (hIrr : x.irrevocable = true)
    (hFree : ∀ ln ∈ x.allLines, (s.line ln).lock = none ∧ (s.line ln).irr = []) :
    exec (.txValidateAtHome bid lane) s = .next ((s.commitLocked (bid, lane) x).commitAnswered (bid, lane) x 0) := by
  have hBusy : (x.allLines.any fun ln => (s.line ln).lock.isSome && !((s.line ln).lock == some (bid, lane))) = false := by
    rw [List.any_eq_false]
    intro ln hIn
    simp [(hFree ln hIn).1]
  rw [h.validate_eq (by simp [hBusy]) (by simp [h.waitsFor_eq hFree]), if_pos hIrr]

end

/-! The answer to a commit (R246). -/

/-- A lane's transaction has its slices' answer. -/
structure CommitAnswered (s : State) (bid lane : Nat) (b : Bundle) (x : Tx) (st : BitVec 32) : Prop where
  bundle : s.bundle? bid = some b
  open_ : (s.thread bid lane).tx = some x
  answer : x.commit = some (some st)

/-- The stores of a commit that take effect. -/
def State.committed (s : State) (b : Bundle) (lane : Nat) (x : Tx) : State :=
  x.writes.foldl (fun u w => u.commitLine b lane x (s.commitTime b.core x) w) s

section
variable {s : State} {bid lane : Nat} {b : Bundle} {x : Tx} {st : BitVec 32} (h : CommitAnswered s bid lane b x st)
include h

theorem CommitAnswered.aborts (hSt : st ≠ 0) :
    exec (.txCommitResult bid lane) s = .next ((s.abortTx bid lane st).finishGone bid lane (s.thread bid lane).pc) := by
  rw [exec_txCommitResult, execTxCommitResult, h.bundle, h.open_]
  simp only [h.answer]
  rw [if_pos hSt]

theorem CommitAnswered.commits (hSt : st = 0) :
    exec (.txCommitResult bid lane) s = .next
      (let w := x.counted.foldl (fun u c => u.modBlk b fun k => k.countStore c.1 c.2.1 c.2.2.1.toNat c.2.2.2) (s.committed b lane x)
      let u := (w.releaseTurn bid lane).modThread bid lane fun t => { (t.stampAt 4 w.clk) with tx := none, aborts := 0 }
      u.finishLane bid lane (s.thread bid lane).pc (u.thread bid lane).nxt) := by
  rw [exec_txCommitResult, execTxCommitResult, h.bundle, h.open_]
  simp only [h.answer, hSt, ne_eq, not_true_eq_false, if_false]
  rfl

end

end Sys2Proof.Machine
end

section
/-! SUPPORT. The one store of a commit to a line (R246): its write time and the bytes that memory then holds. -/

namespace Sys2Proof.Machine

/-! Bytes by address, and the runs that they make. -/

/-- The bytes of a run, each at its address. -/
def cellsFrom : Nat → List Byte → List (Nat × Byte)
  | _, [] => []
  | a, v :: vs => (a, v) :: cellsFrom (a + 1) vs

/-- What a byte is after bytes were stored by address, the later ones over the earlier. -/
def byteAfter (a : Nat) (v : Byte) (bs : List (Nat × Byte)) : Byte := bs.foldl (fun r x => if a = x.1 then x.2 else r) v

theorem byteAfter_append (a : Nat) (v : Byte) (xs ys : List (Nat × Byte)) : byteAfter a v (xs ++ ys) = byteAfter a (byteAfter a v xs) ys :=
  List.foldl_append

theorem byteAfter_cons (a : Nat) (v : Byte) (x : Nat × Byte) (xs : List (Nat × Byte)) :
    byteAfter a v (x :: xs) = byteAfter a (if a = x.1 then x.2 else v) xs := rfl

/-- Runs hold the bytes that they were made of. -/
theorem flatMap_runsOf (bs : List (Nat × Byte)) : (runsOf bs).flatMap (fun r => cellsFrom r.1 r.2) = bs := by
  induction bs with
  | nil => rfl
  | cons x xs ih =>
    obtain ⟨a, v⟩ := x
    rw [runsOf]
    split
    · next b vs rs hRuns =>
      rw [hRuns, List.flatMap_cons] at ih
      split
      · next hNext =>
        subst hNext
        rw [List.flatMap_cons, cellsFrom, List.cons_append, ih]
      · rw [List.flatMap_cons, List.flatMap_cons, ih]
        rfl
    · next hRuns =>
      rw [hRuns] at ih
      rw [← ih]
      rfl

theorem byteAfter_cellsFrom (a : Nat) (v : Byte) (from_ : Nat) (bs : List Byte) :
    byteAfter a v (cellsFrom from_ bs) = if from_ ≤ a ∧ a < from_ + bs.length then bs.getD (a - from_) 0 else v := by
  induction bs generalizing from_ v with
  | nil =>
    rw [if_neg (by simp)]
    rfl
  | cons b bs ih =>
    rw [cellsFrom, byteAfter_cons, ih, List.length_cons]
    by_cases hHere : a = from_
    · subst hHere
      simp
    · rw [if_neg hHere]
      by_cases hIn : from_ + 1 ≤ a ∧ a < from_ + 1 + bs.length
      · rw [if_pos hIn, if_pos (by omega), show a - from_ = a - (from_ + 1) + 1 by omega, List.getD_cons_succ]
      · rw [if_neg hIn, if_neg (by omega)]

/-- Runs written one after another leave each byte as its last write. -/
theorem readByte_foldl_writeBytes (a : Nat) (rs : List (Nat × List Byte)) (m : Mem) (h : m.wf = true) :
    readByte (rs.foldl (fun m r => writeBytes m r.1 r.2) m) a = byteAfter a (readByte m a) (rs.flatMap fun r => cellsFrom r.1 r.2) := by
  induction rs generalizing m with
  | nil => rfl
  | cons r rs ih =>
    rw [List.foldl_cons, ih _ (writeBytes_wf m r.1 r.2 h), readByte_writeBytes m r.1 r.2 a h, ← byteAfter_cellsFrom, List.flatMap_cons,
      byteAfter_append]

/-- A line's buffered bytes by address, from the lowest on. -/
def TxLine.stored (w : TxLine) : List (Nat × Byte) :=
  (List.range 64).filterMap fun o => (w.bytes.lookup o).map fun v => (64 * w.line + o, v)

theorem byteAfter_lookups (w : TxLine) (a n : Nat) (v : Byte) :
    byteAfter a v ((List.range n).filterMap fun o => (w.bytes.lookup o).map fun v => (64 * w.line + o, v)) =
      if 64 * w.line ≤ a ∧ a < 64 * w.line + n then (w.bytes.lookup (a - 64 * w.line)).getD v else v := by
  induction n with
  | zero =>
    rw [if_neg (by omega)]
    rfl
  | succ n ih =>
    rw [List.range_succ, List.filterMap_append, byteAfter_append, ih]
    by_cases hLast : a = 64 * w.line + n
    · subst hLast
      cases hLook : w.bytes.lookup n <;> simp [hLook, byteAfter]
    · have hSame : (64 * w.line ≤ a ∧ a < 64 * w.line + (n + 1)) ↔ (64 * w.line ≤ a ∧ a < 64 * w.line + n) := by omega
      simp only [hSame]
      cases hLook : w.bytes.lookup n <;> simp [hLook, hLast, byteAfter]

/-- A line's buffered bytes stand in it, by their offsets. -/
theorem TxLine.byteAfter_stored (w : TxLine) (a : Nat) (v : Byte) :
    byteAfter a v w.stored = if a / 64 = w.line then (w.bytes.lookup (a % 64)).getD v else v := by
  have hLine : (64 * w.line ≤ a ∧ a < 64 * w.line + 64) ↔ a / 64 = w.line := by omega
  rw [TxLine.stored, byteAfter_lookups]
  simp only [hLine]
  by_cases hHere : a / 64 = w.line
  · rw [if_pos hHere, if_pos hHere, show a - 64 * w.line = a % 64 by omega]
  · rw [if_neg hHere, if_neg hHere]

/-! What the steps of a commit's store leave to memory and to the lines' states. -/

theorem State.mem_foldl_store (rs : List (Nat × List Byte)) (s : State) :
    (rs.foldl (fun s x => s.store x.1 x.2) s).mem = rs.foldl (fun m r => writeBytes m r.1 r.2) s.mem := by
  induction rs generalizing s with
  | nil => rfl
  | cons r rs ih => rw [List.foldl_cons, List.foldl_cons, ih, State.store_mem]

theorem State.lines_foldl_store (rs : List (Nat × List Byte)) (s : State) :
    (rs.foldl (fun s x => s.store x.1 x.2) s).lines = s.lines :=
  foldl_keeps State.lines (fun s x => s.store_lines x.1 x.2) rs s

theorem State.atHome_lines (s : State) (core ln policy : Nat) : (s.atHome core ln policy).1.lines = s.lines :=
  s.useL2_lines _ _ ln policy

theorem State.copyTakes_lines (s : State) (core pa w : Nat) (bs : List (Nat × Byte)) : (s.copyTakes core pa w bs).lines = s.lines := by
  rw [State.copyTakes]
  split <;> rfl

theorem State.addLapse_lines (s : State) (b l stream : Nat) (x : Nat × Nat) : (s.addLapse b l stream x).lines = s.lines := by
  rw [State.addLapse, State.landThread]
  split <;> rfl

/-- A line's state is a matter of the lines alone. -/
theorem State.line_congr {s u : State} (h : u.lines = s.lines) (ln : Nat) : u.line ln = s.line ln := by
  rw [State.line, State.line, h]

/-- What a commit's line leaves: its bytes in memory, and its lines' states as the store at its home leaves them. -/
theorem State.commitLine_effect (s : State) (b : Bundle) (l : Nat) (x : Tx) (t : Nat) {w : TxLine} (hHome : txPeer w.line = none) :
    (s.commitLine b l x t w).mem = (runsOf w.stored).foldl (fun m r => writeBytes m r.1 r.2) s.mem ∧
      ((s.commitLine b l x t w).line w.line).wts = max t ((s.line w.line).rts + 1) := by
  let u := (s.atHome b.core w.line 0).1
  have hLine : u.line w.line = s.line w.line := State.line_congr (s.atHome_lines b.core w.line 0) _
  let f : Line → Line := fun y => { y with wts := max t ((u.line w.line).rts + 1), rts := max t ((u.line w.line).rts + 1) }
  let v := u.modLine w.line f
  let h := (u.homeBytes t w.line w.stored).1
  have hMem : h.mem = (runsOf w.stored).foldl (fun m r => writeBytes m r.1 r.2) s.mem := by
    have hStored := State.mem_foldl_store (runsOf w.stored) v
    rw [State.modLine_mem, State.atHome_mem] at hStored
    exact hStored
  have hLines : h.lines = v.lines := State.lines_foldl_store (runsOf w.stored) v
  have hCommitMem : (s.commitLine b l x t w).mem = h.mem := by
    rw [State.commitLine, hHome]
    exact (foldl_keeps State.mem (fun u st => u.addLapse_mem b.id l st _) x.streams _).trans (State.copyTakes_mem _ _ _ _ _)
  have hCommitLines : (s.commitLine b l x t w).lines = h.lines := by
    rw [State.commitLine, hHome]
    exact (foldl_keeps State.lines (fun u st => u.addLapse_lines b.id l st _) x.streams _).trans (State.copyTakes_lines _ _ _ _ _)
  refine ⟨hCommitMem.trans hMem, ?_⟩
  rw [State.line_congr (hCommitLines.trans hLines), ← hLine]
  exact congrArg Line.wts (State.line_modLine u w.line (f := f) fun _ => rfl)

/-- The write time of a commit of one line of its own: past its core's time and the leases on the line. -/
theorem State.commitTime_single (s : State) (core : Nat) {x : Tx} {w : TxLine} (hWrites : x.writes = [w]) (hHome : txPeer w.line = none) :
    s.commitTime core x = max (s.storeTime core w.line) ((s.line w.line).rts + 1) := by
  simp [State.commitTime, Tx.writeLines, hWrites, hHome]

/-- A commit of one line stores its bytes there, and gives the line its write time. -/
theorem State.committed_single (s : State) (b : Bundle) (lane : Nat) {x : Tx} {w : TxLine} (hWrites : x.writes = [w])
    (hHome : txPeer w.line = none) (hWf : s.mem.wf = true) :
    ((s.committed b lane x).line w.line).wts = s.commitTime b.core x ∧ ∀ a, readByte (s.committed b lane x).mem a =
      if a / 64 = w.line then (w.bytes.lookup (a % 64)).getD (readByte s.mem a) else readByte s.mem a := by
  have hOne : s.committed b lane x = s.commitLine b lane x (s.commitTime b.core x) w := by
    rw [State.committed, hWrites]
    rfl
  obtain ⟨hMem, hTime⟩ := s.commitLine_effect b lane x (s.commitTime b.core x) hHome
  rw [hOne, hTime, hMem]
  refine ⟨?_, fun a => ?_⟩
  · rw [s.commitTime_single b.core hWrites hHome]
    omega
  · rw [readByte_foldl_writeBytes a _ _ hWf, flatMap_runsOf, w.byteAfter_stored]

end Sys2Proof.Machine
end

section
/-! SUPPORT. Futures at their home, and the answers and replies that reach a thread (R253, R254, R255, R261). -/

namespace Sys2Proof.Machine

/-! The operation at the home slice. -/

/-- A request has its answer. -/
def State.answeredWith (s : State) (id : Nat) (res : List Word) : Prop :=
  ∃ w ld lp, (s.req? id).map (·.phase) = some (.done w ld lp res)

/-- A request by name is a matter of the requests alone. -/
theorem State.req?_congr {s u : State} (h : u.reqs = s.reqs) (id : Nat) : u.req? id = s.req? id := by
  rw [State.req?, State.req?, h]

/-- A request after a change of the requests of a name. -/
theorem State.req?_modReq (s : State) (op id : Nat) {f : Req → Req} (hf : ∀ x, (f x).id = x.id) :
    (s.modReq op f).req? id = (s.req? id).map fun x => if x.id == op then f x else x := by
  have hName : ((fun x : Req => x.id == id) ∘ fun x => if x.id == op then f x else x) = fun x => x.id == id := by
    funext x
    rw [Function.comp_apply]
    split
    · rw [hf]
    · rfl
  simp only [State.modReq, State.req?, upd, List.find?_map, hName]

/-- A request after one of a name has been applied at its home. -/
theorem State.req?_doneAt (s : State) (op id w : Nat) (lapse : Nat × Nat) (res : List Word) : (s.doneAt op w lapse res).req? id =
    (s.req? id).map fun x => if x.id == op then { x with phase := .done w lapse.1 lapse.2 res, held := none } else x :=
  s.req?_modReq op id (f := fun x => { x with phase := .done w lapse.1 lapse.2 res, held := none }) fun _ => rfl

/-- A request that has been applied at its home has its answer. -/
theorem State.answeredWith_doneAt {s : State} {op : Nat} {r : Req} (h : s.req? op = some r) (w : Nat) (lapse : Nat × Nat) (res : List Word) :
    (s.doneAt op w lapse res).answeredWith op res := by
  refine ⟨w, lapse.1, lapse.2, ?_⟩
  rw [State.req?_doneAt, h]
  simp [State.id_of_req? h]

/-- Another request keeps its answer. -/
theorem State.answeredWith_doneAt_other {s : State} {id op : Nat} {res : List Word} (h : s.answeredWith id res) (hId : id ≠ op)
    (w : Nat) (lapse : Nat × Nat) (new : List Word) : (s.doneAt op w lapse new).answeredWith id res := by
  obtain ⟨w', ld, lp, hPhase⟩ := h
  obtain ⟨r, hr, hDone⟩ := Option.map_eq_some_iff.mp hPhase
  refine ⟨w', ld, lp, ?_⟩
  rw [State.req?_doneAt, hr]
  simp [State.id_of_req? hr, hId, hDone]

/-- A request in the state is found by its name. -/
theorem State.req?_of_mem {s : State} {q : Req} (h : q ∈ s.reqs) : ∃ x, s.req? q.id = some x :=
  Option.isSome_iff_exists.mp (List.find?_isSome.mpr ⟨q, h, by simp⟩)

/-- A queued waiter waits. -/
theorem State.req?_queueWaiter (s : State) (r : Req) : ((s.queueWaiter r).req? r.id).map (·.phase) = some .waiting := by
  have hNone : (s.reqs.filter fun (q : Req) => !(q.id == r.id)).find? (·.id == r.id) = none := by
    rw [List.find?_eq_none]
    intro q hq hEq
    simp [eq_of_beq hEq] at hq
  rw [State.req?, State.queueWaiter, List.find?_append, hNone]
  simp

/-- A future operation of a lane that stands at its home. -/
structure FutureStands (s : State) (op : Nat) (r : Req) (b : Bundle) (sub dst : Nat) (v : Word) (pa : Nat) : Prop where
  found : s.req? op = some r
  kind : r.kind = .future sub dst v
  bundle : s.anyBundle r.bundle = some b
  issued : r.phase = .issued
  reaches : s.reaches r = true
  inOrder : s.inOrder r = true
  released : sub = 5 ∨ s.allPerformed b r.lane 4 0 (some r.id) = true
  alone : ∀ q ∈ s.reqs, q.phase = .issued → q.id = op
  place : r.place = .mem pa
  unheld : s.mustHold r (pa / 64) true = false

/-- What the home does with it. -/
theorem FutureStands.acts {s : State} {op : Nat} {r : Req} {b : Bundle} {sub dst : Nat} {v : Word} {pa : Nat}
    (h : FutureStands s op r b sub dst v pa) : exec (.futureOpAtHome op) s = .next (s.futureApply r sub pa v) := by
  have hFirst : (s.reqs.any fun q => q.bundle == r.bundle && decide (q.id < r.id) && q.place == r.place && q.phase == .issued &&
      (match q.kind with
        | .future _ _ _ => true
        | _ => false)) = false := by
    rw [List.any_eq_false]
    intro q hq
    by_cases hIssued : q.phase = .issued
    · have hId := h.alone q hq hIssued
      simp [hId, State.id_of_req? h.found]
    · simp [hIssued]
  have hReleased : (!(sub == 5) && !(s.allPerformed b r.lane 4 0 (some r.id))) = false := by
    rcases h.released with hSub | hAll
    · simp [hSub]
    · simp [hAll]
  rw [exec_futureOpAtHome, execFutureOpAtHome, h.found]
  simp only [h.kind, h.bundle]
  rw [if_neg (by simp [h.issued, h.reaches, h.inOrder]), if_neg (by simp [hReleased])]
  refine congrArg Host.Outcome.next ((if_neg (Bool.eq_false_iff.mp hFirst)).trans ?_)
  simp only [h.place, h.unheld]
  rfl

/-! What it leaves, by the future's status and what is asked of it. -/

section
variable {s : State} {r : Req} {pa : Nat} {v : Word}

/-- The state as the operation meets it: its line is in the L2 slice of its home. -/
def State.futureHome (s : State) (r : Req) (pa : Nat) : State := (s.atHome r.core (pa / 64) 0).1

/-- The status word of a future, and its value (R253). -/
def State.futureStatus (s : State) (pa : Nat) : Nat := leNat (readBytes s.mem (pa + 4) 4)
def State.futureValue (s : State) (pa : Nat) : Word := BitVec.ofNat 32 (leNat (readBytes s.mem pa 4))

theorem State.futureHome_mem (s : State) (r : Req) (pa : Nat) : (s.futureHome r pa).mem = s.mem := s.atHome_mem _ _ _
theorem State.futureHome_reqs (s : State) (r : Req) (pa : Nat) : (s.futureHome r pa).reqs = s.reqs := s.useL2_reqs _ _ _ _

theorem State.futureHome_status (s : State) (r : Req) (pa : Nat) : (s.futureHome r pa).futureStatus pa = s.futureStatus pa := by
  rw [State.futureStatus, State.futureStatus, s.futureHome_mem r pa]

/-- The lapse clocks that go with a store of the operation. -/
def State.futureLapse (s : State) (r : Req) (pa : Nat) : Nat × Nat := (s.futureHome r pa).lapseClocks r.core (pa / 64)

/-- A store of the operation to the future's line. -/
def State.futureStore (s : State) (r : Req) (pa to_ : Nat) (bs : List Byte) : State × Nat :=
  (s.futureHome r pa).homeStore ((s.futureHome r pa).storeTime r.core (pa / 64)) to_ bs

/-- An operation that the home turns down for good: the status is out of range. -/
theorem State.futureApply_broken (sub : Nat) (hSt : 1 < s.futureStatus pa) : s.futureApply r sub pa v =
    (s.futureHome r pa).doneAt r.id 0 (0, 0) [1, BitVec.ofNat 32 (s.futureStatus pa)] := by
  rw [State.futureApply]
  simp only [State.atHome_mem]
  exact if_pos hSt

/-- A get takes the value that is there. -/
theorem State.futureApply_get (hSt : s.futureStatus pa = 1) : s.futureApply r 5 pa v =
    (s.futureStore r pa (pa + 4) (leBytes 4 0)).1.doneAt r.id (s.futureStore r pa (pa + 4) (leBytes 4 0)).2 (s.futureLapse r pa)
      [0, s.futureValue pa] := by
  rw [State.futureApply]
  simp only [State.atHome_mem]
  exact (if_neg (by rw [← State.futureStatus]; omega)).trans (if_pos hSt)

/-- A get waits for a value, while the home has room for waiters. -/
theorem State.futureApply_wait (hSt : s.futureStatus pa = 0) (hRoom : s.reqs.length < 4096) : s.futureApply r 5 pa v =
    (s.futureHome r pa).queueWaiter r := by
  have hFew (p : Req → Bool) : ¬ 4096 ≤ ((s.futureHome r pa).reqs.filter p).length := by
    have hLe := List.length_filter_le p (s.futureHome r pa).reqs
    rw [s.futureHome_reqs r pa] at hLe ⊢
    omega
  rw [State.futureApply]
  simp only [State.atHome_mem]
  exact (if_neg (by rw [← State.futureStatus]; omega)).trans ((if_pos trivial).trans ((if_neg (show ¬ s.futureStatus pa = 1 by omega)).trans
    (if_neg (hFew _))))

section
variable {sub : Nat} (hPut : sub ≠ 5)
include hPut

/-- A put into an empty future that none waits for stores the value and the status. -/
theorem State.futureApply_put (hSt : s.futureStatus pa = 0) (hPlace : r.place = .mem pa) (hNone : s.waiters (.mem pa) = []) :
    s.futureApply r sub pa v = (s.futureStore r pa pa (leBytes 4 v.toNat ++ leBytes 4 1)).1.doneAt r.id
      (s.futureStore r pa pa (leBytes 4 v.toNat ++ leBytes 4 1)).2 (s.futureLapse r pa) [0, 1] := by
  have hHome : (s.futureHome r pa).futureStatus pa = 0 := (s.futureHome_status r pa).trans hSt
  have hWaiters : (s.futureHome r pa).waiters r.place = [] := by
    rw [← hNone, hPlace, State.waiters, State.waiters, s.futureHome_reqs r pa]
  rw [State.futureApply]
  simp only [← State.futureHome.eq_def, hWaiters]
  exact (if_neg (by rw [← State.futureStatus]; omega)).trans ((if_neg hPut).trans (if_pos hHome))

/-- A put into an empty future goes to the first that waits for it. -/
theorem State.futureApply_serve (hSt : s.futureStatus pa = 0) (hPlace : r.place = .mem pa) {q : Req} {qs : List Req}
    (hSome : s.waiters (.mem pa) = q :: qs) : ∃ w : Nat, s.futureApply r sub pa v =
      ((s.futureHome r pa).doneAt q.id w (0, 0) [0, v]).doneAt r.id ((s.futureHome r pa).line (pa / 64)).wts (0, 0) [0, 1] := by
  have hHome : (s.futureHome r pa).futureStatus pa = 0 := (s.futureHome_status r pa).trans hSt
  have hWaiters : (s.futureHome r pa).waiters r.place = q :: qs := by
    rw [← hSome, hPlace, State.waiters, State.waiters, s.futureHome_reqs r pa]
  refine ⟨max ((s.futureHome r pa).core r.core).ctime ((s.futureHome r pa).line (pa / 64)).wts, ?_⟩
  rw [State.futureApply]
  simp only [← State.futureHome.eq_def, hWaiters]
  exact (if_neg (by rw [← State.futureStatus]; omega)).trans ((if_neg hPut).trans (if_pos hHome))

/-- A put into a full future: FPUT finds it full, FPUTT traps. -/
theorem State.futureApply_full (hSt : s.futureStatus pa = 1) : s.futureApply r sub pa v = if sub = 3
    then (s.futureHome r pa).doneAt r.id ((s.futureHome r pa).line (pa / 64)).wts (0, 0) [0, 0]
    else (s.futureHome r pa).doneAt r.id 0 (0, 0) [1, s.futureValue pa] := by
  rw [State.futureApply]
  simp only [State.atHome_mem]
  exact (if_neg (by rw [← State.futureStatus]; omega)).trans ((if_neg hPut).trans (if_neg (by rw [← State.futureStatus]; omega)))

end

end

/-! Answers and replies. -/

/-- What no peer answers is no external input; nor is a peer's answer held outside deterministic mode. -/
theorem State.peerReply_now {s : State} {r : Req} (h : (∀ k va, r.place ≠ .peer k va) ∨ (s.part (s.partAt r.bundle)).det = false)
    (f : State → State) : s.peerReply r f = f s := by
  rw [State.peerReply]
  split
  · next k va hPlace =>
    have hDet : (s.part (s.partAt r.bundle)).det = false := h.resolve_left fun hNot => hNot k va hPlace
    split
    · rfl
    · rw [State.externalOnce, State.external]
      simp [hDet]
  · rfl

/-- A future's answer is on its way to its thread. -/
structure FutureAnswered (s : State) (op : Nat) (r : Req) (sub dst w ld lp : Nat) (res : List Word) : Prop where
  found : s.req? op = some r
  kind : ∃ v, r.kind = .future sub dst v
  phase : r.phase = .done w ld lp res
  now : (∀ k va, r.place ≠ .peer k va) ∨ (s.part (s.partAt r.bundle)).det = false

/-- The state in which an answer lands: its core's time has risen, the request has ended, the lapse clocks are kept. -/
def State.answerState (s : State) (op : Nat) (r : Req) (w ld lp : Nat) : State :=
  if ld = 0 ∧ lp = 0 then (s.reachTime r w).dropReq op else ((s.reachTime r w).dropReq op).addLapse r.bundle r.lane r.stream (ld, lp)

/-- A future's result in its thread: a get acquires (R254). -/
def Thread.takeFuture (sub dst clk : Nat) (v : Word) (t : Thread) : Thread :=
  if sub = 5 then { (t.write dst v) with stamp := some clk } else t.write dst v

section
variable {s : State} {op : Nat} {r : Req} {sub dst w ld lp : Nat} {res : List Word} (h : FutureAnswered s op r sub dst w ld lp res)
include h

/-- The event is the answer. -/
theorem FutureAnswered.answers {u : State} (hu : s.futureAnswer op = u) : exec (.futureAnswer op) s = .next u := by
  rw [exec_futureAnswer, execFutureAnswer, h.found]
  dsimp only
  rw [State.peerReply_now h.now, hu]

/-- A thread that has exited takes nothing. -/
theorem FutureAnswered.exited (hLife : ((s.answerState op r w ld lp).thread r.bundle r.lane).life = .exited) :
    s.futureAnswer op = s.answerState op r w ld lp := by
  obtain ⟨v, hKind⟩ := h.kind
  rw [State.futureAnswer, h.found]
  simp only [hKind, h.phase]
  exact if_pos hLife

/-- An answer that says so traps FUTURE: the destination is as it was. -/
theorem FutureAnswered.traps (hLife : ((s.answerState op r w ld lp).thread r.bundle r.lane).life ≠ .exited) (hTrap : res.getD 0 0 = 1) :
    s.futureAnswer op = (((s.answerState op r w ld lp).landThread r.bundle r.lane (·.put dst r.old)).raise r.bundle r.lane
      { cause := 0x0B, detail := (res.getD 1 0).zeroExtend 64, addr := r.ea } ((s.answerState op r w ld lp).thread r.bundle r.lane).pc
      ((s.answerState op r w ld lp).thread r.bundle r.lane).pc) := by
  obtain ⟨v, hKind⟩ := h.kind
  rw [State.futureAnswer, h.found]
  simp only [hKind, h.phase]
  exact (if_neg hLife).trans (if_pos hTrap)

/-- Any other answer lands in the thread, which goes on if it stands for it. -/
theorem FutureAnswered.lands (hLife : ((s.answerState op r w ld lp).thread r.bundle r.lane).life ≠ .exited) (hTrap : res.getD 0 0 ≠ 1) :
    s.futureAnswer op = (let u := s.answerState op r w ld lp
      let t := u.thread r.bundle r.lane
      let v := u.landThread r.bundle r.lane (Thread.takeFuture sub dst u.clk (res.getD 1 0))
      if t.mid = some (.answer op) then v.finishLane r.bundle r.lane t.pc t.nxt else v) := by
  obtain ⟨v, hKind⟩ := h.kind
  rw [State.futureAnswer, h.found]
  simp only [hKind, h.phase]
  refine ((if_neg hLife).trans (if_neg hTrap)).trans ?_
  simp only [beq_iff_eq]
  rfl

end

/-- A reply of the Clamp lands in its registers, and its thread has acquired (R261). -/
theorem calloReply_lands {s : State} {op : Nat} {r : Req} {dst w ld lp : Nat} {args ws : List Word} (hr : s.req? op = some r)
    (hKind : r.kind = .call dst args) (hPhase : r.phase = .done w ld lp ws) :
    exec (.calloReply op) s = .next (((s.reachTime r w).dropReq op).landThread r.bundle r.lane fun t =>
      { (t.writes dst ws) with stamp := some s.clk }) := by
  rw [exec_calloReply, execCalloReply, hr]
  simp only [hKind, hPhase]

end Sys2Proof.Machine
end

section
/-! OBLIGATION O53: thread events take effect. -/

namespace Sys2Proof.Machine

/-- A released collective's results are written to the lanes that they are for, and nowhere else (R76, R280). -/
theorem collectiveWrite_effect (op bid : Nat) (s : State) (m : Bool) :
    ∃ u, exec (if m then .mfragResultWrite op else .laneResultWrite op) s = .next u ∧
      u.mem = s.mem ∧ u.reqs = s.reqs ∧ u.blocks = s.blocks ∧ u.cores = s.cores ∧ u.saved = s.saved ∧
      (∀ b, s.bundle? bid = some b → (b.results.find? fun c => c.id == op && c.mfrag == m) = none → u.bundle? bid = some b) ∧
      (∀ b c, s.bundle? bid = some b → (b.results.find? fun c => c.id == op && c.mfrag == m) = some c → ∃ v, u.bundle? bid = some v ∧
        v.results = (b.results.filter fun x => !(x.id == op)) ∧ ∀ l t, b.threads[l]? = some t →
          ((∀ x ∈ c.shares, x.lane ≠ l) → v.threads[l]? = some t) ∧
          (∀ x ∈ c.shares, x.lane = l → c.shares.countP (·.lane == l) = 1 → v.threads[l]? = some (t.takeShare x))) := by
  have hExec : exec (if m then .mfragResultWrite op else .laneResultWrite op) s = .next (s.writeCollective op m) := by
    cases m
    · exact exec_laneResultWrite op s
    · exact exec_mfragResultWrite op s
  refine ⟨s.writeCollective op m, hExec, rfl, rfl, rfl, rfl, rfl, fun b hb hNone => ?_, fun b c hb hSome => ?_⟩
  · rw [s.bundle?_writeCollective op bid m, hb, Option.map_some, Bundle.takeCollective, hNone]
  · refine ⟨b.takeCollective op m, by rw [s.bundle?_writeCollective op bid m, hb, Option.map_some], ?_, fun l t ht => ⟨fun hOther => ?_,
      fun x hx hl hOnce => ?_⟩⟩ <;> rw [Bundle.takeCollective, hSome]
    · exact (foldl_takeShare_other c.shares hOther b.threads).trans ht
    · exact (foldl_takeShare_once hl c.shares hx hOnce b.threads).trans (by rw [ht, Option.map_some])

/-- A commit that may be validated is answered by its lines' slices (R246, R249). -/
theorem CommitStands.answers {s : State} {bid lane : Nat} {x : Tx} (h : CommitStands s (bid, lane) x) :
    (x.irrevocable = true → (∀ ln ∈ x.allLines, (s.line ln).lock = none ∧ (s.line ln).irr = []) →
      exec (.txValidateAtHome bid lane) s = .next ((s.commitLocked (bid, lane) x).commitAnswered (bid, lane) x 0)) ∧
    (x.irrevocable = false → (∀ ln ∈ x.allLines, s.slice (bid, lane) x ln = 0) →
      exec (.txValidateAtHome bid lane) s = .next ((s.commitLocked (bid, lane) x).commitAnswered (bid, lane) x 0)) ∧
    (∀ st rest, x.irrevocable = false → s.objections (bid, lane) x = st :: rest →
      exec (.txValidateAtHome bid lane) s = .next (s.commitAnswered (bid, lane) x (BitVec.ofNat 32 st))) := by
  refine ⟨h.validate_irrevocable, fun hRev hAgree => ?_, fun st rest hRev hObject => ?_⟩
  · have hNone : s.objections (bid, lane) x = [] := by
      rw [State.objections, List.filter_eq_nil_iff]
      intro st hst
      obtain ⟨ln, hln, rfl⟩ := List.mem_map.mp hst
      simp [hAgree ln hln]
    rw [h.validate_revocable hRev, hNone]
  · rw [h.validate_revocable hRev, hObject]

/-- What a future operation leaves at its home, by its status, and what it answers (R253, R254, R255). -/
theorem FutureStands.effect {s : State} {op : Nat} {r : Req} {b : Bundle} {sub dst : Nat} {v : Word} {pa : Nat}
    (h : FutureStands s op r b sub dst v pa) (hRoom : s.reqs.length < 4096) :
    ∃ u, exec (.futureOpAtHome op) s = .next u ∧
      (1 < s.futureStatus pa → u.mem = s.mem ∧ u.answeredWith op [1, BitVec.ofNat 32 (s.futureStatus pa)]) ∧
      (sub = 5 → s.futureStatus pa = 1 → u.mem = writeBytes s.mem (pa + 4) (leBytes 4 0) ∧ u.answeredWith op [0, s.futureValue pa]) ∧
      (sub = 5 → s.futureStatus pa = 0 → u.mem = s.mem ∧ (u.req? op).map (·.phase) = some .waiting) ∧
      (sub ≠ 5 → s.futureStatus pa = 0 → s.waiters (.mem pa) = [] →
        u.mem = writeBytes s.mem pa (leBytes 4 v.toNat ++ leBytes 4 1) ∧ u.answeredWith op [0, 1]) ∧
      (∀ q qs, sub ≠ 5 → s.futureStatus pa = 0 → s.waiters (.mem pa) = q :: qs → q.id ≠ op →
        u.mem = s.mem ∧ u.answeredWith q.id [0, v] ∧ u.answeredWith op [0, 1]) ∧
      (sub = 3 → s.futureStatus pa = 1 → u.mem = s.mem ∧ u.answeredWith op [0, 0]) ∧
      (sub ≠ 3 → sub ≠ 5 → s.futureStatus pa = 1 → u.mem = s.mem ∧ u.answeredWith op [1, s.futureValue pa]) := by
  obtain rfl := State.id_of_req? h.found
  have hHome : (s.futureHome r pa).req? r.id = some r := (State.req?_congr (s.futureHome_reqs r pa) _).trans h.found
  have hStored (to_ : Nat) (bs : List Byte) : (s.futureStore r pa to_ bs).1.req? r.id = some r :=
    (State.req?_congr (State.homeStore_reqs _ _ to_ bs) _).trans hHome
  have hStoredMem (to_ : Nat) (bs : List Byte) : (s.futureStore r pa to_ bs).1.mem = writeBytes s.mem to_ bs :=
    (State.homeStore_mem _ _ to_ bs).trans (by rw [s.futureHome_mem r pa])
  refine ⟨s.futureApply r sub pa v, h.acts, fun hSt => ?_, fun hSub hSt => ?_, fun hSub hSt => ?_, fun hSub hSt hNone => ?_,
    fun q qs hSub hSt hSome hOther => ?_, fun hSub hSt => ?_, fun hSub3 hSub5 hSt => ?_⟩
  · rw [State.futureApply_broken sub hSt]
    exact ⟨s.futureHome_mem r pa, State.answeredWith_doneAt hHome _ _ _⟩
  · rw [hSub, State.futureApply_get hSt]
    exact ⟨(State.doneAt_mem _ _ _ _ _).trans (hStoredMem _ _), State.answeredWith_doneAt (hStored _ _) _ _ _⟩
  · rw [hSub, State.futureApply_wait hSt hRoom]
    exact ⟨s.futureHome_mem r pa, State.req?_queueWaiter _ r⟩
  · rw [State.futureApply_put hSub hSt h.place hNone]
    exact ⟨(State.doneAt_mem _ _ _ _ _).trans (hStoredMem _ _), State.answeredWith_doneAt (hStored _ _) _ _ _⟩
  · obtain ⟨w, hServe⟩ := State.futureApply_serve (v := v) hSub hSt h.place hSome
    have hIn : q ∈ s.reqs := List.mem_of_mem_filter (hSome ▸ List.mem_cons_self : q ∈ s.waiters (.mem pa))
    obtain ⟨y, hy⟩ := State.req?_of_mem hIn
    have hWaiter : (s.futureHome r pa).req? q.id = some y := (State.req?_congr (s.futureHome_reqs r pa) _).trans hy
    have hOwn : ((s.futureHome r pa).doneAt q.id w (0, 0) [0, v]).req? r.id = some r := by
      rw [State.req?_doneAt, hHome]
      simp [Ne.symm hOther]
    rw [hServe]
    exact ⟨s.futureHome_mem r pa, State.answeredWith_doneAt_other (State.answeredWith_doneAt hWaiter _ _ _) hOther _ _ _,
      State.answeredWith_doneAt hOwn _ _ _⟩
  · rw [State.futureApply_full (by omega) hSt, if_pos hSub]
    exact ⟨s.futureHome_mem r pa, State.answeredWith_doneAt hHome _ _ _⟩
  · rw [State.futureApply_full hSub5 hSt, if_neg hSub3]
    exact ⟨s.futureHome_mem r pa, State.answeredWith_doneAt hHome _ _ _⟩

/-- Settles O53: each event by the lemma of its kind. -/
theorem threadEventsTakeEffect : Obligations.ThreadEventsTakeEffect := by
  unfold Obligations.ThreadEventsTakeEffect
  intro op bid lane die s
  refine ⟨collectiveWrite_effect op bid s, fun y => yieldEnd_ends, fun x hOpen hAsked hReturned hUnowned hUnheld => ?_,
    fun b x st hb hOpen hAnswer => ?_, fun x xs => turnTokenGrant_free, ?_, ?_, fun r dst args w ld lp ws => calloReply_lands⟩
  · exact CommitStands.answers ⟨hOpen, hAsked, hReturned, hUnowned, hUnheld⟩
  · have hStands : CommitAnswered s bid lane b x st := ⟨hb, hOpen, hAnswer⟩
    refine ⟨hStands.aborts, fun hSt => ⟨hStands.commits hSt, fun y hWrites hHome hWf => ?_⟩⟩
    obtain ⟨hTime, hBytes⟩ := s.committed_single b lane hWrites hHome hWf
    exact ⟨hTime, s.commitTime_single b.core hWrites hHome, hBytes⟩
  · intro r b sub dst v pa hr hKind hb hPhase hReaches hOrder hReleased hAlone hRoom hPlace _ hHold
    exact FutureStands.effect ⟨hr, hKind, hb, hPhase, hReaches, hOrder, hReleased, hAlone, hPlace, hHold⟩ hRoom
  · intro r sub dst v w ld lp res hr hKind hPhase hNow
    have hAnswer : FutureAnswered s op r sub dst w ld lp res := ⟨hr, ⟨v, hKind⟩, hPhase, hNow⟩
    exact ⟨fun hLife => hAnswer.answers (hAnswer.exited hLife), fun hLife hTrap => hAnswer.answers (hAnswer.traps hLife hTrap),
      fun hLife hTrap => hAnswer.answers (hAnswer.lands hLife hTrap)⟩

end Sys2Proof.Machine
end

section
/-! SUPPORT. Blocks (R74, R88, R89, R91, R321, R326, R334 to R342, R368, R379, R395, R414): admission, completion and parking, register
requests, handler bundles, late faults, pre-emption, restore, and the stall counters. -/

namespace Sys2Proof.Machine

/-! What the dispatch answers for each of these events. -/

theorem exec_blockAdmission (op core : Nat) (s : State) : exec (.blockAdmission op core) s = execBlockAdmission op core s := by rfl
theorem exec_blockCompletion (block : Nat) (s : State) : exec (.blockCompletion block) s = execBlockCompletion block s := by rfl
theorem exec_regrowGrant (core : Nat) (s : State) : exec (.regrowGrant core) s = execRegrowGrant core s := by rfl
theorem exec_regshrShed (block : Nat) (s : State) : exec (.regshrShed block) s = execRegshrShed block s := by rfl
theorem exec_handlerWaveFormation (block : Nat) (s : State) :
    exec (.handlerWaveFormation block) s = execHandlerWaveFormation block s := by rfl
theorem exec_impreciseFault (op : Nat) (status : BitVec 16) (s : State) :
    exec (.impreciseFault op status) s = execImpreciseFault op status s := by rfl
theorem exec_preemptionRequest (block : Nat) (s : State) : exec (.preemptionRequest block) s = execPreemptionRequest block s := by rfl
theorem exec_drainLimitExpiry (block : Nat) (s : State) : exec (.drainLimitExpiry block) s = execDrainLimitExpiry block s := by rfl
theorem exec_blockRestore (block core : Nat) (s : State) : exec (.blockRestore block core) s = execBlockRestore block core s := by rfl
theorem exec_urgentAdmissionTimeout (op : Nat) (s : State) :
    exec (.urgentAdmissionTimeout op) s = execUrgentAdmissionTimeout op s := by rfl
theorem exec_stallCounterClock (block : Nat) (s : State) : exec (.stallCounterClock block) s = .next (s.stallBlock block) := by rfl

/-! Admission (R58, R364, R395). -/

/-- The Headstock's choice binds in deterministic mode only. -/
theorem choice_free {det chosen : Bool} (h : det = false ∨ chosen = true) : (det && !chosen) = false := by
  rcases h with rfl | rfl
  · rfl
  · simp

/-- A ready task and its mates are launched on a core that takes them and goes to no other task first. -/
theorem blockAdmission_launches {s : State} {op core : Nat} {t : Task} (ht : s.task? op = some t) (hAdmits : s.admits t core = true)
    (hFirst : s.outranked t core = false) (hCore : core < 640)
    (hChosen : (s.part t.partition).det = false ∨ s.chosen t.partition t.tid core (s.coresFor t) = true) :
    exec (.blockAdmission op core) s = .next ((s.mates t).foldl (fun u x =>
      u.launch x core (if x.kept.isSome then x.program.buffers else u.gangBuffers x)) s) := by
  rw [exec_blockAdmission, execBlockAdmission, ht]
  exact congrArg Host.Outcome.next (if_neg (by
    rw [hAdmits, hFirst, choice_free hChosen]
    simp only [Bool.not_true, Bool.or_false, decide_eq_true_eq]
    omega))

/-! A block that has left its core (R74). -/

theorem State.blocks_freeBlock (s : State) (k : Block) :
    (s.freeBlock k).blocks = (s.deliverAll k).blocks.filter fun x => !(x.id == k.id) := rfl

theorem State.bundles_freeBlock (s : State) (k : Block) : (s.freeBlock k).bundles =
    (s.deliverAll k).bundles.filter fun b => !((((s.deliverAll k).allBundles k.id).map (·.id)).contains b.id) := rfl

theorem State.block?_freeBlock (s : State) (k : Block) : (s.freeBlock k).block? k.id = none := by
  rw [State.block?, State.blocks_freeBlock, List.find?_eq_none]
  intro x hx hEq
  simp [eq_of_beq hEq] at hx

/-- No bundle of the block remains, nor of its handlers. -/
theorem State.owner_freeBlock {s : State} {k : Block} {b : Bundle} (h : b ∈ (s.freeBlock k).bundles) : b.owner.block? ≠ some k.id := by
  intro hOwner
  rw [State.bundles_freeBlock, List.mem_filter] at h
  obtain ⟨hIn, hOut⟩ := h
  have hOwn : b ∈ (s.deliverAll k).allBundles k.id := List.mem_filter.mpr ⟨hIn, by simpa using hOwner⟩
  have hNamed : (((s.deliverAll k).allBundles k.id).map (·.id)).contains b.id = true := List.contains_iff_mem.mpr (List.mem_map_of_mem hOwn)
  rw [hNamed] at hOut
  cases hOut

/-! Completion (R74, R415). -/

/-- A quiet block without dirty stash lines, whose partition keeps no exit records. -/
structure BlockCompletes (s : State) (block : Nat) (k : Block) (t : Task) : Prop where
  found : s.block? block = some k
  task : s.task? k.task = some t
  quiet : s.blockQuiet k = true
  ending : k.ending ≠ .flushing ∧ k.ending ≠ .saving
  clean : k.anyDirty = false
  unrecorded : (s.part t.partition).control.getLsbD 3 = false

theorem BlockCompletes.completes {s u : State} {block : Nat} {k : Block} {t : Task} (h : BlockCompletes s block k t)
    (hAfter : s.afterBlock k t = some u) : exec (.blockCompletion block) s = .next u := by
  have hGoes : (!(s.blockQuiet k) || (match k.ending with
      | .flushing => true
      | .saving => true
      | _ => false)) = false := by
    obtain ⟨hFlush, hSave⟩ := h.ending
    rw [h.quiet]
    cases hEnd : k.ending with
    | running => rfl
    | parking tr opc b l => rfl
    | flushing => exact absurd hEnd hFlush
    | saving => exact absurd hEnd hSave
  rw [exec_blockCompletion, execBlockCompletion, h.found]
  simp only [h.task, hAfter, h.clean, bit_toNat, h.unrecorded]
  exact congrArg Host.Outcome.next (if_neg (Bool.eq_false_iff.mp hGoes))

/-! Parking a task (R321, R335, R368). -/

/-- What each part of a Headstock's store leaves to the tasks. -/
theorem State.undoLine_tasks (s : State) (ln : Nat) : (s.undoLine ln).tasks = s.tasks :=
  foldl_keeps State.tasks (fun _ _ => by split <;> rfl) _ s

theorem State.store_tasks (s : State) (pa : Nat) (bs : List Byte) : (s.store pa bs).tasks = s.tasks :=
  foldl_keeps State.tasks State.undoLine_tasks _ s

theorem State.homeBytes_tasks (s : State) (t ln : Nat) (bs : List (Nat × Byte)) : (s.homeBytes t ln bs).1.tasks = s.tasks := by
  have hStores := foldl_keeps State.tasks (fun u x => u.store_tasks x.1 x.2) (runsOf bs)
    (s.modLine ln fun x => { x with wts := max t ((s.line ln).rts + 1), rts := max t ((s.line ln).rts + 1) })
  rw [State.modLine_tasks] at hStores
  exact hStores

theorem State.useL2_tasks (s : State) (iso : Option Nat) (d ln policy : Nat) : (s.useL2 iso d ln policy).1.tasks = s.tasks := by
  rw [State.useL2]
  split <;> rfl

theorem State.msix_tasks (s : State) (v : Nat) : (s.msix v).tasks = s.tasks := by
  rw [State.msix]
  repeat' split
  all_goals rfl

theorem State.send_msix_tasks (s : State) (p v : Nat) : (s.send p (.msix v)).tasks = s.tasks := by
  rw [State.send]
  repeat' split
  · rfl
  · rfl
  · exact s.msix_tasks v

theorem State.recordDone_tasks (s : State) (p ring : Nat) : (s.recordDone p ring).tasks = s.tasks := by
  rw [State.recordDone]
  split
  · rw [State.evInterrupt]
    split
    · exact State.send_msix_tasks _ p _
    · rfl
  · rfl

theorem State.headLine_tasks (s : State) (h : HeldStore) : (s.headLine h).tasks = s.tasks := by
  obtain ⟨part, bytes, ring⟩ := h
  cases bytes with
  | nil => rfl
  | cons x rest =>
    have hUse := s.useL2_tasks (part.filter fun p => (s.part p).mode == 2) (homeDie x.1) (x.1 / 64) 0
    cases part with
    | none =>
      rw [State.headLine]
      dsimp only
      split
      · rfl
      · exact (State.homeBytes_tasks _ 0 _ _).trans hUse
    | some p =>
      cases ring <;> rw [State.headLine] <;> dsimp only <;> split
      · rfl
      · exact (State.homeBytes_tasks _ _ _ _).trans hUse
      · rfl
      · exact (State.recordDone_tasks _ p _).trans ((State.homeBytes_tasks _ _ _ _).trans hUse)

theorem State.vstore_tasks {s u : State} {p va : Nat} {bs : List Byte} {ring : Option Nat} (h : s.vstore p va bs ring = some u) :
    u.tasks = s.tasks := by
  rw [State.vstore] at h
  split at h
  · cases h
  · obtain rfl := Option.some.inj h
    exact (foldl_keeps State.tasks (fun v x => v.headLine_tasks _) _ _).trans (foldl_keeps State.tasks (fun v ln => v.modPart_tasks p _) _ s)

theorem State.event_tasks (s : State) (p status : Nat) (rec : List Byte) : (s.event p status rec).tasks = s.tasks := by
  rw [State.event]
  split
  · rw [State.evWriteRec]
    split
    · rfl
    · next u hStore => exact (u.modPart_tasks p _).trans (State.vstore_tasks hStore)
  · split <;> rfl

theorem State.faultEntry_tasks (s : State) (p : Nat) (e : List Byte) : (s.faultEntry p e).tasks = s.tasks := by
  rw [State.faultEntry]
  split
  · split
    · next u hStore => exact (u.modPart_tasks p _).trans (State.vstore_tasks hStore)
    · rfl
  · rfl

theorem State.modTask_modTask (s : State) (n : Nat) (f g : Task → Task) (hf : ∀ t, (f t).id = t.id) :
    (s.modTask n f).modTask n g = s.modTask n fun t => g (f t) := by
  simp only [State.modTask]
  rw [upd_upd s.tasks _ f g fun t ht => by rw [hf]; exact ht]

/-- A task that parks with a fault (R321, R369): it gives back its lease. -/
def Task.parked (t : Task) (cause : Nat) (detail addr pc : DWord) : Task := { t with
  leased := false, xlat := [], phase := .parked, fault := some ({ cause := cause % 256, detail := detail, addr := addr }, pc), kept := none }

/-- The state with a task parked, before the fault queue and the event ring say so. -/
def State.withParked (s : State) (t : Task) (cause : Nat) (detail addr pc : DWord) : State := s.modTask t.id (·.parked cause detail addr pc)

/-- Its entry in the fault queue (R368). -/
def State.parkEntry (s : State) (t : Task) (cause : Nat) (detail addr pc : DWord) (lb : Nat) : List Byte :=
  faultBytes t.tcb t.tid t.blockIndex cause detail addr pc lb t.faultFlags (s.timeIn t.partition 0)

section
variable (s : State) (t : Task) (cause : Nat) (detail addr pc : DWord) (lb : Nat)

/-- Parking changes the task, then the fault queue, then the event ring. -/
theorem State.parkTask_eq : s.parkTask t cause detail addr pc lb =
    ((s.withParked t cause detail addr pc).faultEntry t.partition (s.parkEntry t cause detail addr pc lb)).event t.partition 6
      (recordBytes (s.timeIn t.partition 0) (((s.withParked t cause detail addr pc).faultEntry t.partition
        (s.parkEntry t cause detail addr pc lb)).taskSource t) 6 cause detail t.tid lb) := by
  have hOnce : (s.unleaseTask t.id).modTask t.id (fun t => { t with
      phase := .parked, fault := some ({ cause := cause % 256, detail := detail, addr := addr }, pc), kept := none }) =
      s.withParked t cause detail addr pc := 
    State.modTask_modTask s t.id (fun t => { t with leased := false, xlat := [] }) (fun t => { t with
      phase := .parked, fault := some ({ cause := cause % 256, detail := detail, addr := addr }, pc), kept := none }) fun _ => rfl
  rw [State.parkTask, hOnce]
  rfl

theorem State.parkTask_tasks : (s.parkTask t cause detail addr pc lb).tasks = (s.withParked t cause detail addr pc).tasks := by
  rw [State.parkTask_eq]
  exact (State.event_tasks _ t.partition 6 _).trans (State.faultEntry_tasks _ t.partition _)

/-- With the fault queue full, the Headstock keeps the entry. -/
theorem State.parkTask_full (hHeld : (s.part t.partition).fqHeld = []) (hFull : (s.part t.partition).fqCap ≤
    ringFill (s.part t.partition).fqWrite (s.part t.partition).fqRead) : s.parkTask t cause detail addr pc lb =
    ((s.withParked t cause detail addr pc).modPart t.partition fun q => { q with
      fqHeld := [s.parkEntry t cause detail addr pc lb] }).event t.partition 6
        (recordBytes (s.timeIn t.partition 0) ((s.withParked t cause detail addr pc).taskSource t) 6 cause detail t.tid lb) := by
  have hKept : (s.withParked t cause detail addr pc).faultEntry t.partition (s.parkEntry t cause detail addr pc lb) =
      (s.withParked t cause detail addr pc).modPart t.partition fun q => { q with fqHeld := [s.parkEntry t cause detail addr pc lb] } := by
    have hFillNot : ¬ (((s.part t.partition).fqHeld.isEmpty && decide (ringFill (s.part t.partition).fqWrite (s.part t.partition).fqRead <
        (s.part t.partition).fqCap)) = true) := by
      simp only [Bool.and_eq_true, decide_eq_true_eq, not_and]
      omega
    have hHeld' : ((s.withParked t cause detail addr pc).part t.partition).fqHeld = [] := hHeld
    refine (if_neg hFillNot).trans (State.modPart_congr _ _ _ _ ?_)
    simp only [hHeld', List.nil_append]
  rw [State.parkTask_eq, hKept]
  rfl

/-- With room in the fault queue, the entry is written there. -/
theorem State.parkTask_room {v : State} (hHeld : (s.part t.partition).fqHeld = []) (hRoom : ringFill (s.part t.partition).fqWrite
    (s.part t.partition).fqRead < (s.part t.partition).fqCap) (hStore : (s.withParked t cause detail addr pc).vstore t.partition
      ((s.part t.partition).fqBase.toNat + 64 * ((s.part t.partition).fqWrite % (s.part t.partition).fqCap))
      (s.parkEntry t cause detail addr pc lb) (some 4) = some v) : s.parkTask t cause detail addr pc lb =
    (v.modPart t.partition fun q => { q with fqWrite := (q.fqWrite + 1) % 2 ^ 32 }).event t.partition 6
      (recordBytes (s.timeIn t.partition 0) (v.taskSource t) 6 cause detail t.tid lb) := by
  have hWritten : (s.withParked t cause detail addr pc).faultEntry t.partition (s.parkEntry t cause detail addr pc lb) =
      v.modPart t.partition fun q => { q with fqWrite := (q.fqWrite + 1) % 2 ^ 32 } := by
    have hFills : ((s.part t.partition).fqHeld.isEmpty && decide (ringFill (s.part t.partition).fqWrite (s.part t.partition).fqRead <
        (s.part t.partition).fqCap)) = true := by
      simp [hHeld, hRoom]
    rw [State.faultEntry]
    refine (if_pos hFills).trans ?_
    rw [show (s.withParked t cause detail addr pc).part t.partition = s.part t.partition from rfl, hStore]
  rw [State.parkTask_eq, hWritten]
  rfl

end

/-! Register requests (R88, R89, R91, R379). -/

/-- A standing request that fits is granted. -/
theorem regrowGrant_grants {s : State} {core : Nat} {k : Block} {r : Request} (hOldest : s.oldestGrow core = some (k, r))
    (hEnding : k.ending = .running) (hHalted : k.halted = false) (hFits : s.growFits core k r = true) :
    exec (.regrowGrant core) s = .next ((s.setAllot k.id r.value).finishRequests k.id) := by
  have hGrant : s.grantGrow core = some ((s.setAllot k.id r.value).finishRequests k.id) := by
    rw [State.grantGrow, hOldest]
    exact if_pos (by simp [hEnding, hHalted, hFits])
  rw [exec_regrowGrant, execRegrowGrant, hGrant]

/-- Where every block of the core waits in one and the oldest does not fit, the youngest is saved with its gang. -/
theorem regrowGrant_saves {s : State} {core : Nat} {k x y : Block} {r : Request} {xs : List Block} (hOldest : s.oldestGrow core = some (k, r))
    (hFits : s.growFits core k r = false) (hBlocks : (s.blocks.filter (·.core == core)) = x :: y :: xs)
    (hWait : ∀ z ∈ x :: y :: xs, z.ending = .running ∧ ∃ q, z.request = some q ∧ q.shed = false) :
    exec (.regrowGrant core) s = .next (((s.preemptSet ((x :: y :: xs).foldl (fun a b => if a.order < b.order then b else a) x)).map
      (·.id)).foldl (fun u i => u.stopBlock i .saving) s) := by
  have hGrant : s.grantGrow core = none := by
    rw [State.grantGrow, hOldest]
    exact if_neg (by simp [hFits])
  have hAll : ((x :: y :: xs).all fun k => k.ending == .running && match k.request with
      | some r => !r.shed
      | none => false) = true := by
    rw [List.all_eq_true]
    intro z hz
    obtain ⟨hEnding, q, hRequest, hShed⟩ := hWait z hz
    simp [hEnding, hRequest, hShed]
  rw [exec_regrowGrant, execRegrowGrant, hGrant, hBlocks]
  dsimp only
  refine congrArg Host.Outcome.next (if_pos (Bool.and_eq_true_iff.mpr ⟨hAll, ?_⟩))
  rw [hOldest]
  simp [hFits]

/-- A shed is granted once no shed register has a producer outstanding. -/
theorem regshrShed_grants {s : State} {block : Nat} {k : Block} {r : Request} (hk : s.block? block = some k) (hRequest : k.request = some r)
    (hShed : r.shed = true) (hHalted : k.halted = false) (hEnding : k.ending = .running)
    (hOwed : ((s.bundlesOf (.block block)).any fun b => b.threads.any fun t =>
      !(t.life == .exited) && t.anyPending r.value (k.allot - r.value)) = false) :
    exec (.regshrShed block) s = .next ((s.setAllot block r.value).finishRequests block) := by
  rw [exec_regshrShed, execRegshrShed, hk]
  simp only [hRequest]
  exact congrArg Host.Outcome.next (if_neg (by simp only [hOwed, hShed, hHalted, hEnding]; decide))

end Sys2Proof.Machine
end

section
/-! SUPPORT. Blocks, continued (R326, R334 to R342, R379, R395, R414): handler bundles, late faults, pre-emption, restore, and the stall
counters. -/

namespace Sys2Proof.Machine

/-! Handler bundles (R326, R327). -/

/-- The bundle of one handler thread, for the one lane of a block that asks. -/
def State.soleHandler (s : State) (k : Block) (block : Nat) (y : Asker) : Bundle := {
  id := s.fresh, owner := .handler block, index := 0, core := k.core, pipe := s.emptiestPipe k.core
  threads := [s.handlerThread (((s.task? k.task).map (·.partition)).getD 0) y] }

/-- A parked lane that alone asks for a handler gets a bundle of its own. -/
theorem handlerWaveFormation_sole {s : State} {block : Nat} {k : Block} {y : Asker} (hk : s.block? block = some k) (hAsks : s.askers k = [y])
    (hDue : s.handlerDue k [y] = true) (hParked : y.exited = false) :
    exec (.handlerWaveFormation block) s = .next (({ s with bundles := s.bundles ++ [s.soleHandler k block y] } : State).next.modThread
      y.bundle y.lane fun t => match t.life with
        | .parked q => { t with life := .parked { q with server := some (s.fresh, 0) } }
        | _ => t) := by
  rw [exec_handlerWaveFormation, execHandlerWaveFormation, hk]
  simp only [hAsks, hDue, Bool.not_true, Bool.false_eq_true, if_false]
  exact congrArg Host.Outcome.next (if_neg (by rw [hParked]; decide))

/-! Late faults (R162, R311, R332, R334). -/

/-- A store that a peer refuses. -/
structure StoreRefused (s : State) (op : Nat) (r : Req) (status : BitVec 16) : Prop where
  noTile : s.tiles.find? (·.id == op) = none
  found : s.req? op = some r
  kind : ∃ bs rel, r.kind = .store bs rel
  place : ∃ k va, r.place = .peer k va
  sent : r.phase = .sent
  status : status = 1#16 ∨ status = 2#16 ∨ status = 0xFFFF#16
  bundle : (s.bundle? r.bundle).isSome = true

section
variable {s : State} {op : Nat} {r : Req} {status : BitVec 16} (h : StoreRefused s op r status)
include h

/-- The refusal is an external input. -/
theorem StoreRefused.exec_eq : exec (.impreciseFault op status) s =
    .next (s.externalOnce (s.partAt r.bundle) op (.refused op status) (·.storeRefused op status)) := by
  obtain ⟨bs, rel, hKind⟩ := h.kind
  obtain ⟨k, va, hPlace⟩ := h.place
  rw [exec_impreciseFault, execImpreciseFault, h.noTile]
  simp only [h.found, hKind, hPlace, h.sent]

/-- It is a fault of the store's lane. -/
theorem StoreRefused.faults : s.storeRefused op status =
    (s.dropReq op).faultFor r.bundle r.lane { cause := 0x12, detail := r.pc, addr := r.ea, status := status } r.pc := by
  obtain ⟨bs, rel, hKind⟩ := h.kind
  obtain ⟨k, va, hPlace⟩ := h.place
  have hStatus : (status == 1#16 || status == 2#16 || status == 0xFFFF#16) = true := by
    rcases h.status with rfl | rfl | rfl <;> rfl
  obtain ⟨b, hb⟩ := Option.isSome_iff_exists.mp h.bundle
  rw [State.storeRefused, h.found]
  simp only [hKind, hPlace, h.sent]
  exact if_neg (by simp [hStatus, hb])

/-- Outside deterministic mode it arrives at once. -/
theorem StoreRefused.arrives (hDet : (s.part (s.partAt r.bundle)).det = false) : exec (.impreciseFault op status) s =
    .next ((s.dropReq op).faultFor r.bundle r.lane { cause := 0x12, detail := r.pc, addr := r.ea, status := status } r.pc) := by
  rw [h.exec_eq, ← h.faults, State.externalOnce, State.external]
  simp [hDet]

/-- In deterministic mode it is held to the input boundary (R425). -/
theorem StoreRefused.held (hDet : (s.part (s.partAt r.bundle)).det = true) (hLock : (s.part (s.partAt r.bundle)).lockstep = false)
    (hNew : ∀ i ∈ (s.part (s.partAt r.bundle)).inputs, i.op ≠ some op) : exec (.impreciseFault op status) s =
    .next (s.modPart (s.partAt r.bundle) fun q => { q with inputs := q.inputs ++ [.refused op status] }) := by
  have hAny : ((s.part (s.partAt r.bundle)).inputs.any (·.op == some op)) = false := by
    rw [List.any_eq_false]
    intro i hi
    simpa using hNew i hi
  rw [h.exec_eq, State.externalOnce, State.external]
  simp [hDet, hLock, hAny]

end

/-- A tile whose compile fails faults its lane. -/
theorem impreciseFault_tile {s : State} {op : Nat} {t : Tile} (status : BitVec 16) (ht : s.tiles.find? (·.id == op) = some t)
    (hBind : t.bind = 4) (hBundle : (s.bundle? t.bundle).isSome = true) : exec (.impreciseFault op status) s =
    .next (({ s with tiles := upd s.tiles (·.id == op) fun t => { t with bind := 5 } } : State).faultFor t.bundle t.lane
      { cause := 9, detail := BitVec.ofNat 64 t.failed, addr := t.words.getD 7 0 ++ t.words.getD 6 0 } t.pc) := by
  obtain ⟨b, hb⟩ := Option.isSome_iff_exists.mp hBundle
  rw [exec_impreciseFault, execImpreciseFault, ht]
  exact congrArg Host.Outcome.next (if_neg (by simp [hBind, hb]))

/-- A fault of a bundle of a block arrives at the block. -/
theorem faultFor_block {s : State} {bid block : Nat} {b : Bundle} {k : Block} (hb : s.bundle? bid = some b) (ho : b.owner = .block block)
    (hk : s.block? block = some k) (lane : Nat) (tr : Trap) (pc : DWord) :
    s.faultFor bid lane tr pc = s.arriveFault k { bundle := bid, index := b.index, lane := lane, trap := tr, pc := pc } := by
  simp only [State.faultFor, hb, ho, hk]

theorem State.id_of_block? {s : State} {n : Nat} {k : Block} (h : s.block? n = some k) : k.id = n := by
  simpa using List.find?_some h

/-- A fault whose lane is parked waits with its block (R334). -/
theorem arriveFault_waits {s : State} {k : Block} {f : LateFault} (hAny : s.anyThread k.id = true) (hRoom : k.faults.length < 64)
    (hParked : ∃ q, (s.thread f.bundle f.lane).life = .parked q) :
    s.arriveFault k f = s.modBlock k.id fun k => { k with faults := k.faults ++ [f] } := by
  obtain ⟨q, hLife⟩ := hParked
  rw [State.arriveFault]
  simp only [hAny, hLife]
  exact (if_neg (by decide)).trans (if_neg (by omega))

/-- A fault whose block has no thread left is its late fault, of which the first counts (R335). -/
theorem arriveFault_late {s : State} {k : Block} {f : LateFault} (hAny : s.anyThread k.id = false) :
    s.arriveFault k f = s.modBlock k.id fun k => { k with late := match k.late with
      | some x => some (x.1, true)
      | none => some (f, false) } := by
  rw [State.arriveFault]
  exact if_pos (by rw [hAny]; rfl)

/-! Pre-emption (R336 to R340, R379). -/

/-- A block that stops, for a flush or a save: its threads stand at their boundary, as where it halts. -/
structure BlockStops (s u : State) (block : Nat) (e : Ending) : Prop where
  ending : (u.block? block).map (·.ending) = some e
  memory : u.mem = s.mem
  tasks : u.tasks = s.tasks
  partitions : u.partitions = s.partitions
  closed : ∀ n b, u.bundle? n = some b → b.owner.block? = some block → ∀ t ∈ b.threads, t.tx = none ∧ t.conv = none
  threads : ∀ b l, (s.thread b l).tx = none → (s.thread b l).conv = none →
    (u.thread b l).regs = (s.thread b l).regs ∧ (u.thread b l).pc = (s.thread b l).pc ∧ (u.thread b l).life = (s.thread b l).life

theorem State.blockStops_stopBlock {s : State} {block : Nat} {k : Block} (hk : s.block? block = some k) (e : Ending) :
    BlockStops s (s.stopBlock block e) block e := by
  have hHalts := State.blockHalts_haltBlock hk
  have hHalted : ((s.haltBlock block).block? block).isSome = true := by
    have hMap := congrArg Option.isSome hHalts.halted
    rwa [Option.isSome_map] at hMap
  refine ⟨?_, hHalts.memory, hHalts.tasks, hHalts.partitions, hHalts.closed, hHalts.threads⟩
  obtain ⟨x, hx⟩ : ∃ x, (s.standStill block).block? block = some x := by
    rw [State.haltBlock, State.block?_modBlock, Option.isSome_map] at hHalted
    · exact Option.isSome_iff_exists.mp hHalted
    · exact fun _ => rfl
  rw [State.stopBlock, State.block?_modBlock, hx]
  · simp [State.id_of_block? hx]
  · exact fun _ => rfl

/-- The partition of a block's task. -/
def State.partOfBlock (s : State) (k : Block) : Nat := ((s.task? k.task).map (·.partition)).getD 0

section
variable {s : State} {block : Nat} {k : Block} (hk : s.block? block = some k)
include hk

/-- In deterministic mode a request is held to the input boundary (R425). -/
theorem preemptionRequest_held (hDet : (s.part (s.partOfBlock k)).det = true) (hLock : (s.part (s.partOfBlock k)).lockstep = false) :
    exec (.preemptionRequest block) s = .next (s.modPart (s.partOfBlock k) fun q => { q with inputs := q.inputs ++ [.preempt block] }) := by
  rw [exec_preemptionRequest, execPreemptionRequest, hk]
  rw [State.partOfBlock] at hDet hLock
  simp [State.partOfBlock, State.external, hDet, hLock]

/-- Else it reaches the core at once. -/
theorem preemptionRequest_now (hDet : (s.part (s.partOfBlock k)).det = false) : exec (.preemptionRequest block) s = .next (s.preempt block) := by
  rw [exec_preemptionRequest, execPreemptionRequest, hk]
  rw [State.partOfBlock] at hDet
  simp [State.external, hDet]

/-- A block that no one pre-empts, or that ends or drains already, goes on as it is. -/
theorem State.preempt_of_idle (hIdle : k.preempt = false ∨ k.ending ≠ .running ∨ k.draining.isSome = true) : s.preempt block = s := by
  rw [State.preempt, hk]
  exact if_pos (by rcases hIdle with hNot | hEnds | hDrains <;> simp [*])

/-- A block outside a gang takes its own method. -/
theorem State.preempt_alone (hAsked : k.preempt = true) (hRuns : k.ending = .running) (hFree : k.draining = none) (hGang : k.gang = none) :
    s.preempt block = s.startMethod (s.method k) block := by
  have hSet : s.preemptSet k = [k] := by rw [State.preemptSet, hGang]
  rw [State.preempt, hk]
  refine (if_neg (by simp [hAsked, hRuns, hFree])).trans ?_
  rw [hSet]
  simp [State.id_of_block? hk]

end

section
variable {s : State} {k : Block}

theorem State.method_drain (h : (s.part (s.partOfBlock k)).drainThr ≤ k.progress) : s.method k = .drain := if_pos h

theorem State.method_flush (hDrain : k.progress < (s.part (s.partOfBlock k)).drainThr) (hIdem : k.idem = true)
    (hRestart : k.progress < (s.part (s.partOfBlock k)).restartThr) : s.method k = .flush :=
  (if_neg (Nat.not_le.mpr hDrain)).trans (if_pos ⟨hIdem, hRestart⟩)

theorem State.method_save (hDrain : k.progress < (s.part (s.partOfBlock k)).drainThr)
    (hKeeps : k.idem = false ∨ (s.part (s.partOfBlock k)).restartThr ≤ k.progress) : s.method k = .save := by
  refine (if_neg (Nat.not_le.mpr hDrain)).trans (if_neg fun ⟨hIdem, hRestart⟩ => ?_)
  rcases hKeeps with hNot | hPast
  · rw [hNot] at hIdem
    cases hIdem
  · exact absurd hRestart (Nat.not_lt.mpr hPast)

end

/-- A flush whose block has come to rest completes, and the block is gone from its core (R340). -/
theorem settleSave_flushed {s : State} {block : Nat} {k : Block} (hk : s.block? block = some k) (hEnding : k.ending = .flushing)
    (hRest : (s.flushDiscard k).flushDrained k = true) : s.settleSave block = (s.flushDiscard k).completeFlush k ∧
      ((s.flushDiscard k).completeFlush k).block? block = none := by
  constructor
  · rw [State.settleSave, hk]
    simp only [hEnding]
    exact if_pos hRest
  · have hFree : ((s.flushDiscard k).freeBlock k).block? block = none := by
      rw [← State.id_of_block? hk]
      exact State.block?_freeBlock _ k
    have hBlocks : ((s.flushDiscard k).completeFlush k).blocks = ((s.flushDiscard k).freeBlock k).blocks := by
      rw [State.completeFlush]
      generalize (s.flushDiscard k).freeBlock k = u
      cases k.gang <;> rfl
    rw [State.block?, hBlocks]
    exact hFree

/-- A block that still drains at the drain limit is saved, with its gang (R336). -/
theorem drainLimitExpiry_saves {s : State} {block c : Nat} {k : Block} (hk : s.block? block = some k) (hDrains : k.draining = some c)
    (hRuns : k.ending = .running) (hPast : c + (s.part (s.partOfBlock k)).drainLimit * 1050 ≤ s.clk) :
    exec (.drainLimitExpiry block) s = .next (((s.preemptSet k).map (·.id)).foldl (fun u i => u.stopBlock i .saving) s) := by
  rw [exec_drainLimitExpiry, execDrainLimitExpiry, hk]
  simp only [hDrains]
  refine congrArg Host.Outcome.next (if_neg ?_)
  rw [State.partOfBlock] at hPast
  simp only [hRuns, Bool.or_eq_true, decide_eq_true_eq, not_or]
  exact ⟨by omega, by decide⟩

/-- A saved block whose core takes it back is restored with its gang, unless a record of them is refused (R339, R342, R379). -/
theorem blockRestore_restores {s : State} {block core : Nat} {x : Saved} {t : Task} (hx : s.saved.find? (·.block.id == block) = some x)
    (hCore : core < 640) (ht : s.task? x.block.task = some t) (hFits : s.canRestore x core = true) (hFirst : s.outranked t core = false)
    (hChosen : (s.part t.partition).det = false ∨ s.chosen t.partition (s.tidOf x) core
      ((List.range 640).filter fun c => s.canRestore x c && !(s.outranked t c)) = true) :
    exec (.blockRestore block core) s = .next (match (s.restoreSet x core).filter fun y => !(s.readRecord y.1) with
      | [] => (s.restoreSet x core).foldl (fun u y => u.restore y.1 y.2) s
      | bad => bad.foldl (fun u y => u.refuseRecord y.1) s) := by
  rw [exec_blockRestore, execBlockRestore, hx]
  simp only [ht, Option.map_some, Option.getD_some]
  refine congrArg Host.Outcome.next ((if_neg ?_).trans rfl)
  rw [hFits, hFirst, choice_free hChosen]
  simp only [Bool.not_true, Bool.not_false, Bool.or_false, decide_eq_true_eq]
  omega

/-- An urgent task that has waited 10 µs has a bulk block pre-empted, or failing that a standard one (R394, R395). -/
theorem urgentAdmissionTimeout_preempts {s : State} {op c : Nat} {t : Task} {k : Block} (ht : s.task? op = some t) (hSince : t.since = some c)
    (hWaited : c + 10500 ≤ s.clk) (hClass : s.classOf t ≤ 1) (hVictim : (s.victim t 3).or (s.victim t 2) = some k) :
    exec (.urgentAdmissionTimeout op) s =
      .next (((s.preemptSet k).map (·.id)).foldl (fun u i => u.modBlock i fun x => { x with preempt := true }) s) := by
  rw [exec_urgentAdmissionTimeout, execUrgentAdmissionTimeout, ht]
  simp only [hSince, hVictim]
  refine congrArg Host.Outcome.next (if_neg ?_)
  simp only [Bool.or_eq_true, decide_eq_true_eq, not_or]
  omega

/-- A clk without an issue counts once for its block, in the counter of its reason (R414). -/
theorem stallCounterClock_counts {s : State} {block : Nat} {k : Block} (hk : s.block? block = some k) :
    exec (.stallCounterClock block) s = .next (if k.clkDone then s else s.modBlock block fun _ => k.stallUp (s.stallOf k)) := by
  rw [exec_stallCounterClock, State.stallBlock, hk]

end Sys2Proof.Machine
end

section
/-! OBLIGATION O55: block events take effect. -/

namespace Sys2Proof.Machine

/-- What a request to pre-empt a block comes to (R336). -/
theorem preemptionRequest_effect {s : State} {block : Nat} {k : Block} (hk : s.block? block = some k) :
    ((s.part (s.partOfBlock k)).det = true → (s.part (s.partOfBlock k)).lockstep = false → exec (.preemptionRequest block) s =
      .next (s.modPart (s.partOfBlock k) fun q => { q with inputs := q.inputs ++ [.preempt block] })) ∧
    ((s.part (s.partOfBlock k)).det = false → (k.preempt = false ∨ k.ending ≠ .running ∨ k.draining.isSome = true) →
      exec (.preemptionRequest block) s = .next s) ∧
    ((s.part (s.partOfBlock k)).det = false → k.preempt = true → k.ending = .running → k.draining = none → k.gang = none →
      ((s.part (s.partOfBlock k)).drainThr ≤ k.progress → exec (.preemptionRequest block) s =
        .next (s.modBlock block fun x => { x with draining := some s.clk, preempt := false })) ∧
      (k.progress < (s.part (s.partOfBlock k)).drainThr → k.idem = true → k.progress < (s.part (s.partOfBlock k)).restartThr →
        ∃ u, exec (.preemptionRequest block) s = .next u ∧ BlockStops s u block .flushing) ∧
      (k.progress < (s.part (s.partOfBlock k)).drainThr → (k.idem = false ∨ (s.part (s.partOfBlock k)).restartThr ≤ k.progress) →
        ∃ u, exec (.preemptionRequest block) s = .next u ∧ BlockStops s u block .saving)) := by
  refine ⟨preemptionRequest_held hk, fun hDet hIdle => ?_, fun hDet hAsked hRuns hFree hGang => ?_⟩
  · rw [preemptionRequest_now hk hDet, State.preempt_of_idle hk hIdle]
  · rw [preemptionRequest_now hk hDet, State.preempt_alone hk hAsked hRuns hFree hGang]
    refine ⟨fun hDrain => ?_, fun hDrain hIdem hRestart => ?_, fun hDrain hKeeps => ?_⟩
    · rw [State.method_drain hDrain]
      rfl
    · rw [State.method_flush hDrain hIdem hRestart]
      exact ⟨_, rfl, State.blockStops_stopBlock hk .flushing⟩
    · rw [State.method_save hDrain hKeeps]
      exact ⟨_, rfl, State.blockStops_stopBlock hk .saving⟩

/-- Settles O55: each event by the lemma of its kind. -/
theorem blockEventsTakeEffect : Obligations.BlockEventsTakeEffect := by
  unfold Obligations.BlockEventsTakeEffect
  intro op block core s
  refine ⟨fun t => blockAdmission_launches, ?_, ?_, ?_, fun k r => regrowGrant_grants, fun k r x y xs => regrowGrant_saves,
    fun k r => regshrShed_grants, fun k y => handlerWaveFormation_sole, ?_, fun t status => impreciseFault_tile status, ?_, ?_,
    fun k => settleSave_flushed, fun k c => drainLimitExpiry_saves, fun x t => blockRestore_restores,
    fun t c k => urgentAdmissionTimeout_preempts, fun k => stallCounterClock_counts⟩
  · intro k t u hk ht hQuiet hRuns hClean hAfter hRecords
    exact BlockCompletes.completes ⟨hk, ht, hQuiet, by simp [hRuns], hClean, hRecords⟩ hAfter
  · intro k t tr opc index lane hk ht hQuiet hParks hClean hRecords
    have hAfter : s.afterBlock k t = some ((s.freeBlock k).parkTask t tr.cause tr.detail tr.addr opc (laneBundle index lane)) := by
      rw [State.afterBlock, hParks]
    obtain rfl := State.id_of_block? hk
    exact ⟨BlockCompletes.completes ⟨hk, ht, hQuiet, by simp [hParks], hClean, hRecords⟩ hAfter, s.block?_freeBlock k,
      fun b => State.owner_freeBlock⟩
  · intro t cause lb detail addr pc
    refine ⟨s.parkTask_tasks t cause detail addr pc lb, ?_, ?_⟩
    · rintro q rfl hHeld hFull
      exact s.parkTask_full t cause detail addr pc lb hHeld hFull
    · rintro q v rfl hHeld hRoom hStore
      exact s.parkTask_room t cause detail addr pc lb hHeld hRoom hStore
  · intro r k va status hTile hr hKind hPlace hSent hStatus hBundle
    have hRefused : StoreRefused s op r status := ⟨hTile, hr, hKind, ⟨k, va, hPlace⟩, hSent, hStatus, hBundle⟩
    exact ⟨hRefused.arrives, hRefused.held⟩
  · intro b k bid lane tr pc hb ho hk
    have hArrives := faultFor_block hb ho hk lane tr pc
    obtain rfl := State.id_of_block? hk
    exact ⟨fun hAny hRoom hParked => hArrives.trans (arriveFault_waits hAny hRoom hParked),
      fun hAny _ => hArrives.trans (arriveFault_late hAny)⟩
  · intro k hk
    obtain ⟨hHeld, hIdle, hAlone⟩ := preemptionRequest_effect hk
    refine ⟨hHeld, hIdle, fun hDet hAsked hRuns hFree hGang => ?_⟩
    obtain ⟨hDrain, hFlush, hSave⟩ := hAlone hDet hAsked hRuns hFree hGang
    refine ⟨hDrain, fun hLow hIdem hRestart => ?_, fun hLow hKeeps => ?_⟩
    · obtain ⟨u, hExec, hStops⟩ := hFlush hLow hIdem hRestart
      exact ⟨u, hExec, hStops.ending, hStops.memory, hStops.tasks, hStops.partitions, hStops.closed, hStops.threads⟩
    · obtain ⟨u, hExec, hStops⟩ := hSave hLow hKeeps
      exact ⟨u, hExec, hStops.ending, hStops.memory, hStops.tasks, hStops.partitions, hStops.closed, hStops.threads⟩

end Sys2Proof.Machine
end
